-- ==== Sys2Proof/Word.lean ====
section
/-! DEFINITION. The word types of the machine (spec/03_core.md R55) and nothing more. -/

namespace Sys2Proof

/-- A value of an `s`, `g` or `h` register, a lane mask or a control register. -/
abbrev W64 := BitVec 64

/-- A vector register, or one 64-byte scratch row. -/
abbrev Vec := BitVec 512

/-- One byte. -/
abbrev Byte := BitVec 8

/-- A tree-scratch word, or the bits of an FP32, INT32 or SP32 value. -/
abbrev W32 := BitVec 32

end Sys2Proof
end

