-- ==== Sys2Proof/Syntax.lean ====
section
/-! DEFINITION. The instructions: one constructor for each row of spec/opcode_table.json, in the families of the table.
Slot operations carry the fields of their word (spec/13_encoding.md R296 to R302); the stack words those of R304;
the remaining constructors are the steps that are no instruction words (bundle, fault, launch, engine, boot, stream,
host, management and clock steps), with the data that the environment supplies. -/

namespace Sys2Proof

/-- An immediate of a format with an X bit: the short field, or the 32-bit extension word (R293, R313). -/
inductive Imm (n : Nat) where
  | short (v : BitVec n)
  | ext (v : BitVec 32)
deriving DecidableEq, Repr

/-- What a sticky re-issue adds to the first, second and third stepped operand (R75, R76): j times the slot's step,
formed exactly. All zero in an operation as written. -/
structure Off where
  a : Int
  b : Int
  c : Int
deriving DecidableEq, Repr

/-- What every V word carries: slot (false V0, true V1), guard (bit 4 negate, bits 3:0 predicate), K and lane mask
(R298). -/
structure VHead where
  slot : Bool
  g : BitVec 5
  k : Bool
  m : BitVec 3
  st : Off
deriving DecidableEq, Repr

/-- What every M word carries (R300). -/
structure MHead where
  g : BitVec 5
  k : Bool
  st : Off
deriving DecidableEq, Repr

/-- What every C word carries: slot (false C0, true C1), guard and K (R302). -/
structure CHead where
  slot : Bool
  g : BitVec 5
  k : Bool
  st : Off
deriving DecidableEq, Repr

/-- The VR operand layout (R298). -/
structure VR where
  d : BitVec 6
  a : BitVec 6
  b : BitVec 6
  c : BitVec 6
  ty : BitVec 4
  mod : BitVec 4
deriving DecidableEq, Repr

/-- The VI operand layout (R298). -/
structure VI where
  d : BitVec 6
  ty : BitVec 4
  mod : BitVec 3
  imm : Imm 12
deriving DecidableEq, Repr

/-- The VM operand layout (R298). -/
structure VM where
  d : BitVec 6
  a : BitVec 6
  ab : Bool
  row : BitVec 12
  aux : BitVec 3
  mod : BitVec 4
deriving DecidableEq, Repr

/-- The VA operand layout of `ARD` and `AWR` (R298). -/
structure VA where
  d : BitVec 6
  bank : BitVec 2
  arow : BitVec 5
  acol : BitVec 8
  ty : BitVec 4
  mod : BitVec 4
deriving DecidableEq, Repr

/-- The CE operand layout of the engine commands (R302). -/
structure CE where
  tr : BitVec 5
  toff : BitVec 12
  ra : BitVec 5
  rb : BitVec 5
  rc : BitVec 5
  qual : BitVec 7
  imm : Imm 12
deriving DecidableEq, Repr

/-- The CI operand layout with a register operand (R302). -/
structure CIReg where
  d : BitVec 5
  a : BitVec 5
  b : BitVec 5
deriving DecidableEq, Repr

/-- The second operand of a C-slot integer operation: a register, or IMM32 inline (R302, R316). -/
inductive COp where
  | reg (b : BitVec 5)
  | imm (v : BitVec 32)
deriving DecidableEq, Repr

/-- The operands of a stack word that moves lock-step rows (R304). -/
structure KRow where
  base : BitVec 2
  n1 : BitVec 10
  off : BitVec 24
deriving DecidableEq, Repr

/-- One engine slot (R74). -/
inductive ESlot where
  | v0 | v1 | m | c0 | c1
deriving DecidableEq, Repr

/-- A management request as the port delivers it: the write bit stands in the constructor (R287, R288). -/
structure Mgmt where
  port : Bool
  opf : BitVec 7
  sel : BitVec 16
  len : Nat
  tag : BitVec 16
  data : List Byte
deriving DecidableEq, Repr

/-- The range that a host grants in an answer to a translation request: its address, its bus address, its log2 size and its
write permission (R169, R170). -/
structure HostPage where
  va : BitVec 56
  bus : BitVec 64
  log2 : Nat
  w : Bool
deriving DecidableEq, Repr

/-- An answer of a host (R169): to a translation request a grant, that the page is not present or not permitted, or a refusal;
to a page request that the page is there now, or a failure. -/
inductive HostAns where
  | grant (g : HostPage)
  | absent
  | refused
  | paged
deriving DecidableEq, Repr

/-- What a rank of a collective sends to a rank of another module (R285): the team's engines as module, die and engine, the
sending and the receiving rank, and what it exchanges with its data. -/
structure Contrib where
  ranks : List (Nat × Nat × Nat)
  src : Nat
  dst : Nat
  nth : Nat
  data : List Byte
deriving DecidableEq, Repr

/-- What a Cloeth flit carries to this module (R283, R162): an access of a peer to this module's HBM, the
acknowledgement of one of its own accesses, or data of a collective, which is acknowledged too (R54). -/
inductive Flit where
  | write (addr : BitVec 41) (data : List Byte) (peer : BitVec 10) (tag : Nat)
  | read (addr : BitVec 41) (len : Nat) (peer : BitVec 10) (tag : Nat)
  | atomic (addr : BitVec 41) (op : BitVec 3) (u : Bool) (eight : Bool) (val cmp : W64) (peer : BitVec 10) (tag : Nat)
  | ack (tag : Nat) (data : List Byte)
  | coll (c : Contrib) (peer : BitVec 10) (tag : Nat)
deriving DecidableEq, Repr

/-- The instruction set: one constructor per row of the opcode table. -/
inductive Instr where
  | nopS (g : BitVec 5)
  | addReg (g d a b : BitVec 5) (u s : Bool)
  | addImm (g d a : BitVec 5) (i : Imm 9)
  | subReg (g d a b : BitVec 5) (u s : Bool)
  | subImm (g d a : BitVec 5) (i : Imm 9)
  | mulReg (g d a b : BitVec 5) (u s : Bool)
  | mulImm (g d a : BitVec 5) (i : Imm 9)
  | mulhReg (g d a b : BitVec 5) (u : Bool)
  | mulhImm (g d a : BitVec 5) (i : Imm 9)
  | divReg (g d a b : BitVec 5) (u : Bool)
  | divImm (g d a : BitVec 5) (i : Imm 9)
  | remReg (g d a b : BitVec 5) (u : Bool)
  | remImm (g d a : BitVec 5) (i : Imm 9)
  | andReg (g d a b : BitVec 5)
  | andImm (g d a : BitVec 5) (i : Imm 9)
  | orReg (g d a b : BitVec 5)
  | orImm (g d a : BitVec 5) (i : Imm 9)
  | xorReg (g d a b : BitVec 5)
  | xorImm (g d a : BitVec 5) (i : Imm 9)
  | shlReg (g d a b : BitVec 5)
  | shlImm (g d a : BitVec 5) (i : Imm 9)
  | shrReg (g d a b : BitVec 5)
  | shrImm (g d a : BitVec 5) (i : Imm 9)
  | sraReg (g d a b : BitVec 5)
  | sraImm (g d a : BitVec 5) (i : Imm 9)
  | rotlReg (g d a b : BitVec 5)
  | rotlImm (g d a : BitVec 5) (i : Imm 9)
  | clzReg (g d a : BitVec 5)
  | clzImm (g d : BitVec 5) (i : Imm 9)
  | popcReg (g d a : BitVec 5)
  | popcImm (g d : BitVec 5) (i : Imm 9)
  | minReg (g d a b : BitVec 5) (u : Bool)
  | minImm (g d a : BitVec 5) (i : Imm 9)
  | maxReg (g d a b : BitVec 5) (u : Bool)
  | maxImm (g d a : BitVec 5) (i : Imm 9)
  | sel (g d a b : BitVec 5) (p : BitVec 4)
  | li (g d : BitVec 5) (i : Imm 15)
  | lih (g d : BitVec 5) (i : Imm 15)
  | cmp (g : BitVec 5) (pd pe : BitVec 4) (a b : BitVec 5) (cc : BitVec 3)
  | cmpi (g : BitVec 5) (pd pe : BitVec 4) (a : BitVec 5) (cc : BitVec 3) (i : Imm 4)
  | plog (g : BitVec 5) (pd pa pb tt : BitVec 4)
  | lds (g d a : BitVec 5) (e : BitVec 2) (u : Bool) (o : BitVec 8)
  | sts (g d a : BitVec 5) (e : BitVec 2) (o : BitVec 8)
  | xcpS (g : BitVec 5) (f : BitVec 3) (r : BitVec 9) (a : BitVec 5)
  | crd (g r : BitVec 5) (n : BitVec 12)
  | cwr (g r : BitVec 5) (n : BitVec 12)
  | cyc (g d : BitVec 5) (t : Bool)
  | cmptS (g a b : BitVec 5)
  | br (g : BitVec 5) (o : BitVec 14)
  | jmp (g a : BitVec 5)
  | loop (g a : BitVec 5) (k : BitVec 3) (o : BitVec 13)
  | bloop (g : BitVec 5) (o : BitVec 14)
  | bsw (g : BitVec 5) (o : BitVec 14)
  | ifence (g : BitVec 5)
  | waitOwn (g : BitVec 5) (q : BitVec 6)
  | waitWp (g : BitVec 5) (ch : Bool) (a : BitVec 5)
  | waitBar (g : BitVec 5) (b : BitVec 4)
  | waitVal (g : BitVec 5) (acq : Bool) (cc : BitVec 3) (a b : BitVec 5) (sc : BitVec 3) (z : Bool)
  | waitCyc (g a : BitVec 5)
  | bar (g : BitVec 5) (b : BitVec 4)
  | tnext (g : BitVec 5) (pd : BitVec 4) (q : BitVec 3) (a : BitVec 5)
  | enq (g : BitVec 5) (pd : BitVec 4) (q : BitVec 3) (pri : BitVec 2) (a : BitVec 5)
  | exit (g : BitVec 5)
  | dbrk (g : BitVec 5)
  | trap (g : BitVec 5) (i : BitVec 16)
  | tret (g : BitVec 5)
  | crgnOpen (g : BitVec 5) (id : BitVec 8) (o : BitVec 12)
  | crgnClose (g : BitVec 5)
  | nopEngineSlot (slot : ESlot) (g : BitVec 5)
  | xcpV (h : VHead) (a : BitVec 6) (f : BitVec 3) (r : BitVec 9) (lane : BitVec 3)
  | cmptV (h : VHead) (o : VR)
  | vld (h : VHead) (o : VM)
  | vst (h : VHead) (o : VM)
  | vgth (h : VHead) (o : VM)
  | vsct (h : VHead) (o : VM)
  | vrmg (h : VHead) (o : VR)
  | vadd (h : VHead) (o : VR)
  | vsub (h : VHead) (o : VR)
  | vmul (h : VHead) (o : VR)
  | vfma (h : VHead) (o : VR)
  | vmin (h : VHead) (o : VR)
  | vmax (h : VHead) (o : VR)
  | vabs (h : VHead) (o : VR)
  | vneg (h : VHead) (o : VR)
  | vrcp (h : VHead) (o : VR)
  | vrsq (h : VHead) (o : VR)
  | vexp2 (h : VHead) (o : VR)
  | vlog2 (h : VHead) (o : VR)
  | vcvt (h : VHead) (o : VR)
  | viadd (h : VHead) (o : VR)
  | visub (h : VHead) (o : VR)
  | vimul (h : VHead) (o : VR)
  | vlogic (h : VHead) (o : VR)
  | vshl (h : VHead) (o : VR)
  | vshr (h : VHead) (o : VR)
  | vpopc (h : VHead) (o : VR)
  | viota (h : VHead) (o : VI)
  | vmovi (h : VHead) (o : VI)
  | vcmp (h : VHead) (o : VR)
  | vicmp (h : VHead) (o : VR)
  | vselm (h : VHead) (o : VR)
  | wlog (h : VHead) (o : VR)
  | wcnt (h : VHead) (o : VR)
  | vbits (h : VHead) (o : VR)
  | vrsum (h : VHead) (o : VR)
  | vrmax (h : VHead) (o : VR)
  | vperm (h : VHead) (o : VR)
  | vbcst (h : VHead) (o : VR)
  | ard (h : VHead) (o : VA)
  | awr (h : VHead) (o : VA)
  | zld (h : VHead) (d : BitVec 6) (z : BitVec 9)
  | zst (h : VHead) (d : BitVec 6) (z : BitVec 9)
  | vbmax (h : VHead) (o : VR)
  | vqsx (h : VHead) (o : VR)
  | vdqsx (h : VHead) (o : VR)
  | vsigp (h : VHead) (o : VR)
  | vmaj (h : VHead) (o : VR)
  | vosm (h : VHead) (o : VR)
  | vosf (h : VHead) (o : VR)
  | vrope (h : VHead) (o : VR)
  | vrng (h : VHead) (o : VR)
  | mstat (h : MHead) (tid : BitVec 6)
  | mrel (h : MHead) (tid : BitVec 6) (layout : BitVec 2)
  | mtld (h : MHead) (t : BitVec 4) (row : BitVec 12)
  | mtst (h : MHead) (t : BitVec 4) (row : BitVec 12)
  | mmul (h : MHead) (acc ck : Bool) (fmt bank : BitVec 3) (t : BitVec 4) (tid : BitVec 6) (k0 n0 : BitVec 16)
  | mclr (h : MHead) (bank : BitVec 3)
  | tup (h : MHead) (md : BitVec 2) (zd : BitVec 9) (sh lm : BitVec 6) (base : BitVec 9)
  | tdn (h : MHead) (md : BitVec 2) (zd zg : BitVec 9) (sh lm : BitVec 6) (base : BitVec 9)
  | tmxp (h : MHead) (md : BitVec 2) (zd : BitVec 9) (sh lm : BitVec 6) (base : BitVec 9)
  | tscl (h : MHead) (all : Bool) (zd : BitVec 9)
  | tshl (h : MHead) (l : Bool) (e : BitVec 6) (row : BitVec 12)
  | tcvt (h : MHead) (md : BitVec 2) (zd zs : BitVec 9)
  | xcpM (h : MHead) (zs : BitVec 9) (f : BitVec 3) (r : BitVec 5)
  | addC (h : CHead) (d a : BitVec 5) (o : COp)
  | subC (h : CHead) (d a : BitVec 5) (o : COp)
  | shlC (h : CHead) (d a : BitVec 5) (o : COp)
  | liC (h : CHead) (d : BitVec 5) (i : BitVec 32)
  | lihC (h : CHead) (d : BitVec 5) (i : BitVec 32)
  | xcpC (h : CHead) (a : BitVec 5) (f : BitVec 3) (r : BitVec 9)
  | cmptC (h : CHead) (a b : BitVec 5)
  | cpy (h : CHead) (o : CE)
  | cpy2 (h : CHead) (o : CE)
  | cpyl (h : CHead) (o : CE)
  | put (h : CHead) (srow drow : BitVec 12) (n1 : BitVec 4) (lrow lcol : BitVec 5)
  | give (h : CHead) (w : Bool) (q : BitVec 6) (n : BitVec 7)
  | take (h : CHead) (q : BitVec 6) (n : BitVec 7)
  | atom (h : CHead) (o : CE)
  | sig (h : CHead) (o : CE)
  | fence (h : CHead) (o : CE)
  | coll (h : CHead) (o : CE)
  | cstk (h : CHead) (o : CE)
  | pgft (h : CHead) (o : CE)
  | preq (h : CHead) (o : CE)
  | wbk (h : CHead) (o : CE)
  | mapr (h : CHead) (slot : BitVec 3) (q : BitVec 6) (n : BitVec 7) (ra : BitVec 5)
  | pmov (h : CHead) (o : CE)
  | sset (h : CHead) (o : CE)
  | sins (h : CHead) (o : CE)
  | ssel (h : CHead) (o : CE)
  | sage (h : CHead) (o : CE)
  | sdel (h : CHead) (o : CE)
  | smig (h : CHead) (o : CE)
  | pgap (h : CHead) (o : CE)
  | plan (h : CHead) (o : CE)
  | knop (w : BitVec 8)
  | kact (w : BitVec 8) (wrow : BitVec 12) (n1 brow : BitVec 6)
  | krd (w : BitVec 8) (r : KRow) (brow : BitVec 4)
  | kwr (w : BitVec 8) (r : KRow) (brow : BitVec 4)
  | kpre (w : BitVec 8) (ph : BitVec 12)
  | kmac8 (w : BitVec 8) (r : KRow) (half : Bool) (k0 : BitVec 12)
  | kmac4 (w : BitVec 8) (r : KRow) (k0 : BitVec 12)
  | kdq (w : BitVec 8) (base : BitVec 2) (off : BitVec 24) (gc : BitVec 2)
  | kexp (w : BitVec 8) (r : KRow) (fmt : BitVec 2) (b16 : Bool) (db : BitVec 2)
  | kacr (w : BitVec 8) (base : BitVec 2) (win : Bool) (off : BitVec 24)
  | kend (w : BitVec 8) (discard : Bool)
  | emptyBundle (drain : Bool) (rep : BitVec 5)
  | trapEntry (core : Nat)
  | containmentUnwind (core : Nat)
  | killInstance (inst : Nat)
  | freezeEnd (core : Nat)
  | leakyBucketLeak
  | unitRetire (code : BitVec 32)
  | errinjFlip (core : Nat)
  | tlbInvalidationComplete
  | launchAdmission
  | groupDrainStop (inst grp : Nat)
  | preemptComplete (inst : Nat)
  | preemptAbort (inst : Nat)
  | instanceResume (inst : Nat)
  | instanceRetire (inst : Nat)
  | bundleStallResume (core : Nat)
  | waitValRead (core : Nat)
  | copyCommandStart (core : Nat) (ch : Bool)
  | hostPageResponse (port : Bool) (req : Nat) (ans : HostAns)
  | pageRequestTimeout (port : Bool) (req : Nat)
  | hostInvalidationRequest (port : Bool) (tag : Nat) (pasid : BitVec 20) (va : BitVec 56) (log2 : Nat)
  | hostInvalidationCompletion (port : Bool) (tag : Nat)
  | rowDelivered (core : Nat) (ch : Bool)
  | copyCommandComplete (core : Nat) (ch : Bool)
  | weevilPageReturn (core : Nat) (ch : Bool)
  | sselStart (die : Nat)
  | scarabSetOperation (die : Nat)
  | pmovComplete (core : Nat) (ch : Bool)
  | collectiveReport (die eng : Nat)
  | stackProgramStart (lane : Nat)
  | refreshInterval (stack : Nat)
  | planReport (core : Nat) (ch : Bool)
  | modulePowerUp
  | bootclaimWrite (port : Bool) (v : W64)
  | bootLoadStart (port : Bool) (v : W64)
  | bootImageCheck
  | firmwareBootComplete (fwMin : BitVec 8) (hbm : BitVec 32) (cports : BitVec 128) (units : List (BitVec 32))
  | bootClaimLapse
  | registerWrite (port : Bool) (off : BitVec 26) (data : List Byte)
  | streamEnable (port : Bool) (strm : BitVec 9)
  | streamDisable (port : Bool) (strm : BitVec 9)
  | streamWridxWrite (port : Bool) (strm : BitVec 9) (v : W32)
  | launchRec (port : Bool) (strm : BitVec 9)
  | waitvRec (port : Bool) (strm : BitVec 9)
  | waitvPoll (port : Bool) (strm : BitVec 9)
  | signalRec (port : Bool) (strm : BitVec 9)
  | copyRec (port : Bool) (strm : BitVec 9)
  | collectiveRec (port : Bool) (strm : BitVec 9)
  | eventRec (port : Bool) (strm : BitVec 9)
  | streamFence (port : Bool) (strm : BitVec 9)
  | streamCommandComplete (port : Bool) (strm : BitVec 9) (seq : W32)
  | eventRingEnable (port : Bool)
  | evconsWrite (port : Bool) (v : W32)
  | functionLevelReset (port : Bool)
  | linkDown (port : Bool)
  | bar2WindowWrite (port : Bool) (off : BitVec 36) (data : List Byte)
  | bar2WindowRead (port : Bool) (off : BitVec 36) (len : Nat)
  | cloethFlitCrcFail (p : BitVec 7)
  | cloethPortDown (p : BitVec 7)
  | thermalThrottle
  | thermalRelease
  | thermalTrip
  | mgmtReadModid (r : Mgmt)
  | mgmtReadTelemetry (r : Mgmt)
  | mgmtReadPowerLimit (r : Mgmt)
  | mgmtWritePowerLimit (r : Mgmt)
  | mgmtReadPreemptBound (r : Mgmt)
  | mgmtWritePreemptBound (r : Mgmt)
  | mgmtReadLeakper (r : Mgmt)
  | mgmtWriteLeakper (r : Mgmt)
  | mgmtReadBktmark (r : Mgmt)
  | mgmtWriteBktmark (r : Mgmt)
  | mgmtReadBucketCounters (r : Mgmt)
  | mgmtReadRetiredUnits (r : Mgmt)
  | mgmtWriteRetiredUnits (r : Mgmt)
  | mgmtReadReplmin (r : Mgmt)
  | mgmtWriteReplmin (r : Mgmt)
  | mgmtReadWeightRange (r : Mgmt)
  | mgmtWriteWeightRange (r : Mgmt)
  | mgmtForcedDiscard (r : Mgmt)
  | mgmtReadErrinjen (r : Mgmt)
  | mgmtWriteErrinjen (r : Mgmt)
  | mgmtDebugForcedDrain (r : Mgmt)
  | mgmtDebugResume (r : Mgmt)
  | mgmtDebugAbort (r : Mgmt)
  | mgmtDebugRegisterRead (r : Mgmt)
  | mgmtDebugRegisterWrite (r : Mgmt)
  | mgmtDebugScratchRead (r : Mgmt)
  | mgmtDebugScratchWrite (r : Mgmt)
  | mgmtReadMymod (r : Mgmt)
  | mgmtWriteMymod (r : Mgmt)
  | mgmtReadAperture (r : Mgmt)
  | mgmtWriteAperture (r : Mgmt)
  | taskClockEdge
  | globalCycle
  | powerDownRequest (stack : BitVec 5)
  | addressTranslationEnable (port en : Bool)
  | linkUp (port : Bool)
  | modulePowerOff
  | cloethFlitArrival (p : BitVec 7) (f : Flit)
  | diemaskClear (die : BitVec 2)
  | stackDisable (stack : BitVec 5)
  | mgmtUnassignedRequest (cmd : BitVec 8) (write : Bool) (r : Mgmt)
deriving DecidableEq, Repr

end Sys2Proof
end

