-- ==== Sys2Proof/WellFormed.lean ====
section
/-! DEFINITION. The field checks of one slot word or stack word: the values that R294 and the slot tables mark illegal,
the fields that an operation does not use and that must be zero, and the K bits that R295 forbids
(level 3 of spec/13_encoding.md R305). Checks that need the bundle or the machine stand in Machine/Issue.lean. -/

namespace Sys2Proof

/-- A control register number that R337 assigns. -/
def crAssigned (n : Nat) : Bool :=
  n ≤ 0x005 || (0x008 ≤ n && n ≤ 0x00D) || (0x010 ≤ n && n ≤ 0x01C) || (0x020 ≤ n && n ≤ 0x025) ||
  n == 0x028 || n == 0x029 || (0x030 ≤ n && n ≤ 0x035) || (0x038 ≤ n && n ≤ 0x03E) ||
  (0x040 ≤ n && n ≤ 0x042) || (0x048 ≤ n && n ≤ 0x04E) || (0x080 ≤ n && n ≤ 0x087)

/-- Whether a DFILE code and a register number name a register: 0 s, 1 x, 2 y, 3 z, 4 g, 5 h (R294, R432). -/
def dregOk (f : Nat) (r : Nat) : Bool :=
  match f with
  | 0 => r < 32
  | 1 => r < 64
  | 2 => r < 64
  | 3 => r < 512
  | 4 => r < 16
  | 5 => r < 16
  | _ => false

/-- Lane bits of a format code of R98, 0 where the code names no lane type (R397). -/
def tyBits (t : Nat) : Nat :=
  match t with
  | 0 => 32
  | 1 => 16
  | 2 => 16
  | 3 => 8
  | 4 => 8
  | 5 => 8
  | 6 => 4
  | 7 => 16
  | 8 => 32
  | _ => 0

/-- A floating format code of R98: FP32, FP16, BF16, E4M3, E5M2. -/
def tyFloat (t : Nat) : Bool := t ≤ 4

/-- FP32, FP16 or BF16. -/
def tyF (t : BitVec 4) : Bool := t == 0 || t == 1 || t == 2

/-- INT8, INT16 or INT32. -/
def tyI (t : BitVec 4) : Bool := t == 5 || t == 7 || t == 8

/-- Any lane type but INT4. -/
def tyAny (t : BitVec 4) : Bool := t.toNat ≤ 8 && t != 6

/-- The MOD bits and the part that `VCVT` allows for a pair of types (R402). -/
def vcvtOk (st dt : Nat) (mod : BitVec 4) : Bool :=
  let ws := tyBits st
  let wd := tyBits dt
  let part := mod.toNat / 4
  let r := (max ws wd) / (min ws wd)
  st ≤ 8 && dt ≤ 8 && dt != st &&
  !((st == 6 && (dt == 0 || dt == 8)) || (dt == 6 && (st == 0 || st == 8))) &&
  part < r &&
  (if tyFloat st && tyFloat dt && ws < wd then mod.toNat % 4 == 0 else true)

/-- No extension word, and the short immediate's value. -/
def Imm.noExt {n : Nat} : Imm n → Bool
  | .short _ => true
  | .ext _ => false

/-- The immediate is absent: no extension, and a short field of zero. -/
def Imm.isZero {n : Nat} : Imm n → Bool
  | .short v => v == 0
  | .ext _ => false

/-- The 12 bits of an IMM12 field that takes no extension. -/
def Imm.bits12 : Imm 12 → BitVec 12
  | .short v => v
  | .ext _ => 0

/-- A `g` or `h` register number. -/
def greg (r : BitVec 5) : Bool := r.toNat < 16

/-- The register fields of a CE command, each `g0` to `g15` (R294, R302). -/
def CE.regs (o : CE) : Bool := greg o.tr && greg o.ra && greg o.rb && greg o.rc

/-- QUAL of a command that takes ORD and SCOPE, with [18] and [15] zero and an assigned scope (R302, R152). -/
def CE.scoped (o : CE) : Bool := !o.qual.getLsbD 6 && !o.qual.getLsbD 3 && (o.qual.extractLsb' 0 3).toNat ≤ 5

/-- ORD of a command. -/
def CE.ord (o : CE) : BitVec 2 := o.qual.extractLsb' 4 2

/-- Level-3 checks of one VR operation by mnemonic class: which fields must be zero. -/
def VR.bc0 (o : VR) : Bool := o.b == 0 && o.c == 0

/-- The well-formedness of an instruction: every field holds a value that its entry allows. -/
def Instr.wf (i : Instr) : Bool :=
  match i with
  | .cmp _ _ _ _ _ cc => cc.toNat ≤ 5
  | .cmpi _ _ _ _ cc _ => cc.toNat ≤ 5
  | .xcpS _ f r _ => dregOk f.toNat r.toNat
  | .crd _ _ n => crAssigned n.toNat
  | .cwr _ _ n => crAssigned n.toNat
  | .waitVal _ _ cc _ _ sc _ => cc.toNat ≤ 5 && sc.toNat ≤ 5
  | .tnext _ pd _ _ => pd != 0
  | .xcpV h _ f r lane => !h.k && h.m == 0 && dregOk f.toNat r.toNat && (lane == 0 || f == 0 || f == 4 || f == 5)
  | .cmptV h o => !h.k && h.m == 0 && o.d == 0 && o.c == 0 && o.ty == 0 && o.mod == 0
  | .vld _ o => (o.ab || o.a == 0) && !o.mod.getLsbD 1 && (o.mod.getLsbD 0 == (o.aux != 0))
  | .vst _ o => (o.ab || o.a == 0) && !o.mod.getLsbD 1 && !o.mod.getLsbD 0 && o.aux == 0
  | .vgth _ o => !o.ab && o.aux.toNat ≤ 3 && o.mod == 0
  | .vsct _ o => !o.ab && o.aux.toNat ≤ 3 && !o.mod.getLsbD 3 &&
      (match o.mod.toNat with
       | 0 => true
       | 1 => true
       | 3 => o.aux == 2
       | 5 => o.aux == 1
       | 7 => o.aux == 1
       | _ => false)
  | .vrmg _ o => o.ty == 5 && o.mod.toNat ≤ 1
  | .vadd _ o => tyF o.ty && o.mod.toNat ≤ 1 && o.c == 0
  | .vsub _ o => tyF o.ty && o.mod.toNat ≤ 1 && o.c == 0
  | .vmul _ o => tyF o.ty && o.mod.toNat ≤ 1 && o.c == 0
  | .vfma _ o => tyF o.ty && o.mod.toNat ≤ 1
  | .vmin _ o => tyF o.ty && o.mod == 0 && o.c == 0
  | .vmax _ o => tyF o.ty && o.mod == 0 && o.c == 0
  | .vabs _ o => tyF o.ty && o.mod == 0 && o.bc0
  | .vneg _ o => tyF o.ty && o.mod == 0 && o.bc0
  | .vrcp _ o => o.ty == 0 && o.mod == 0 && o.bc0
  | .vrsq _ o => o.ty == 0 && o.mod == 0 && o.bc0
  | .vexp2 _ o => o.ty == 0 && o.mod == 0 && o.bc0
  | .vlog2 _ o => o.ty == 0 && o.mod == 0 && o.bc0
  | .vcvt _ o => o.b == 0 && o.c.toNat < 16 && vcvtOk o.ty.toNat o.c.toNat o.mod
  | .viadd _ o => tyI o.ty && o.mod.toNat ≤ 3 && o.c == 0
  | .visub _ o => tyI o.ty && o.mod.toNat ≤ 3 && o.c == 0
  | .vimul _ o => tyI o.ty && o.mod.toNat ≤ 3 && o.c == 0
  | .vlogic _ o => tyI o.ty && o.c == 0
  | .vshl _ o => tyI o.ty && o.mod == 0 && o.c == 0
  | .vshr _ o => tyI o.ty && (o.mod == 0 || o.mod == 2) && o.c == 0
  | .vpopc _ o => tyI o.ty && o.mod == 0 && o.bc0
  | .viota _ o => tyI o.ty && o.mod == 0
  | .vmovi _ o => (tyI o.ty || tyF o.ty) && o.mod.toNat ≤ 1
  | .vcmp _ o => tyF o.ty && o.mod.toNat ≤ 6 && o.c == 0
  | .vicmp _ o => tyI o.ty && o.mod.toNat % 8 ≤ 5 && o.c == 0
  | .vselm _ o => tyAny o.ty && o.c.toNat < 8 && o.mod == 0
  | .wlog h o => h.m == 0 && o.ty == 0 && o.d.toNat < 8 && o.a.toNat < 8 && o.b.toNat < 8 && o.c == 0
  | .wcnt _ o => o.ty == 8 && o.a.toNat < 8 && o.bc0 && o.mod.toNat ≤ 1
  | .vbits _ o => tyAny o.ty && o.d.toNat < 8 && o.c.toNat < 8 && o.mod == 0
  | .vrsum _ o => (tyF o.ty && o.mod == 0 || tyI o.ty && o.mod.toNat ≤ 3) && o.bc0
  | .vrmax _ o => (tyF o.ty && o.mod == 0 || tyI o.ty && (o.mod == 0 || o.mod == 2)) && o.bc0
  | .vperm _ o => tyAny o.ty && o.mod == 0
  | .vbcst _ o => tyAny o.ty && o.mod == 0 && o.b == 0 && o.c.toNat < 512 / tyBits o.ty.toNat
  | .ard _ o => o.arow.toNat ≤ 16 && o.acol.toNat ≤ 128 && !o.mod.getLsbD 3 &&
      (o.ty == 8 || (o.ty == 0 && !o.mod.getLsbD 0 && !o.mod.getLsbD 1))
  | .awr _ o => o.arow.toNat ≤ 16 && o.acol.toNat ≤ 128 && (o.mod == 0 || o.mod == 4) && (o.ty == 8 || o.ty == 0)
  | .zld h _ _ => h.m == 0
  | .zst h _ _ => h.m == 0
  | .vbmax _ o => o.d == 0 && o.bc0 && o.ty == 0 && o.mod == 0
  | .vqsx _ o => o.b == 0 && o.ty == 0 && (o.mod == 0 && o.c.toNat < 3 || o.mod == 1 && o.c.toNat < 5 || o.mod == 2 && o.c.toNat < 8)
  | .vdqsx _ o => o.b == 0 && o.ty == 0 && (o.mod == 0 && o.c.toNat < 3 || o.mod == 1 && o.c.toNat < 5 || o.mod == 2 && o.c.toNat < 8)
  | .vsigp _ o => o.b == 0 && o.ty == 0 && o.mod == 0 && o.c.toNat < 32
  | .vmaj _ o => o.b == 0 && o.ty == 7 && o.mod == 0 && o.c.toNat < 32
  | .vosm _ o => o.bc0 && o.ty == 0 && o.mod == 0
  | .vosf h o => o.ty == 0 && (o.mod == 0 && o.c == 0 && h.m == 0 || o.mod == 1 || o.mod == 2 && o.b == 0)
  | .vrope _ o => o.ty == 0 && o.mod.toNat ≤ 1
  | .vrng _ o => (o.ty == 0 || o.ty == 8) && o.mod == 0 && o.c == 0
  | .mrel _ _ l => l.toNat < 2
  | .mtld _ t _ => t.toNat < 8
  | .mtst _ t _ => t.toNat < 8
  | .mmul _ _ _ fmt bank t _ _ _ => fmt.toNat < 4 && bank.toNat < 4 && t.toNat < 8
  | .mclr _ bank => bank.toNat < 4
  | .tup _ md _ _ _ _ => md.toNat < 3
  | .tdn _ md _ _ _ _ _ => md.toNat < 3
  | .tmxp _ md _ _ _ _ => md.toNat < 3
  | .tcvt _ md _ _ => md.toNat < 2
  | .xcpM h _ f r => !h.k && (f == 0 || (f == 4 || f == 5) && r.toNat < 16)
  | .addC h d a o => !h.k && greg d && greg a && (match o with | .reg b => greg b | .imm _ => true)
  | .subC h d a o => !h.k && greg d && greg a && (match o with | .reg b => greg b | .imm _ => true)
  | .shlC h d a o => !h.k && greg d && greg a && (match o with | .reg b => greg b | .imm _ => true)
  | .liC h d _ => !h.k && greg d
  | .lihC h d _ => !h.k && greg d
  | .xcpC h a f r => !h.k && greg a && dregOk f.toNat r.toNat
  | .cmptC h a b => !h.k && greg a && greg b
  | .cpy _ o => o.regs && o.qual.extractLsb' 0 3 == 0 && (o.qual.extractLsb' 4 2 == 3 || o.rc == 0)
  | .cpy2 _ o => o.regs && o.qual.extractLsb' 0 3 == 0
  | .cpyl _ o => o.regs && o.qual.extractLsb' 0 3 == 0
  | .put _ _ _ _ lr lc => lr.toNat ≤ 23 && lc.toNat ≤ 23
  | .give _ _ _ n => 1 ≤ n.toNat && n.toNat ≤ 64
  | .take _ _ n => 1 ≤ n.toNat && n.toNat ≤ 64
  | .atom _ o => o.regs && o.scoped && o.imm.noExt && o.imm.bits12.toNat / 32 < 16 && o.imm.bits12.toNat % 8 != 7 &&
      (o.rc == 0 || o.imm.bits12.toNat % 8 == 6)
  | .sig _ o => o.regs && o.scoped && o.imm.noExt && o.rc == 0 && (o.ord == 0 || o.ord == 2) &&
      (o.imm.bits12 &&& 0xFF6#12) == 0
  | .fence h o => !h.k && o.regs && o.scoped && o.ord == 0 && o.ra == 0 && o.rb == 0 && o.rc == 0 && o.imm.isZero
  | .coll _ o => o.regs && o.scoped && o.ord == 0 && o.rb == 0 && o.rc == 0 && o.imm.isZero
  | .cstk _ o => o.regs && o.qual == 0 && o.rb == 0 && o.rc == 0 && o.imm.noExt && o.imm.bits12.toNat < 512
  | .pgft _ o => o.regs && o.qual == 0 && o.imm.noExt && o.imm.bits12.toNat < 128
  | .preq _ o => greg o.tr && o.ra == 0 && o.rb == 0 && o.rc == 0 && o.qual == 0 && o.imm.noExt
  | .wbk _ o => greg o.tr && o.ra == 0 && o.rb == 0 && o.rc == 0 && o.qual == 0 && o.imm.noExt
  | .mapr h _ _ n ra => !h.k && n.toNat ≤ 64 && greg ra
  | .pmov _ o => o.regs && o.qual == 0 && o.imm.isZero
  | .sset _ o => o.regs && o.qual == 0 && o.rc == 0 && o.imm.isZero
  | .sins _ o => o.regs && o.qual == 0 && o.rb == 0 && o.rc == 0 && o.imm.isZero
  | .ssel _ o => o.regs && (o.qual == 0 || o.qual == 64) && o.rc == 0 && o.imm.noExt
  | .sage _ o => o.regs && o.qual == 0 && o.rb == 0 && o.rc == 0 && o.imm.noExt && o.imm.bits12.toNat < 256
  | .sdel _ o => o.regs && o.qual == 0 && o.rc == 0 && o.imm.noExt && o.imm.bits12.toNat < 2 &&
      (o.imm.bits12 == 0 || o.rb == 0)
  | .smig _ o => o.regs && o.qual == 0 && o.rb == 0 && o.rc == 0 && o.imm.noExt && o.imm.bits12.toNat < 512
  | .pgap _ o => o.regs && o.qual == 0 && o.rc == 0 && o.imm.isZero
  | .plan _ o => o.regs && (o.qual == 0 || o.qual == 64) && o.rb == 0 && o.rc == 0 && o.imm.isZero
  | .krd _ r _ => r.n1.toNat < 16
  | .kwr _ r _ => r.n1.toNat < 16
  | .kpre _ ph => ph.toNat < 3900
  | .kdq _ _ _ gc => gc.toNat < 3
  | .kexp _ _ fmt _ _ => fmt.toNat < 3
  | .kacr _ _ win off => !win || decide (off.toNat ≤ 4064)
  | _ => true

/-- The sticky offsets of an instruction as written are zero: what an encoder can say. -/
def Instr.plain (i : Instr) : Bool :=
  let z (o : Off) : Bool := o == ⟨0, 0, 0⟩
  match i with
  | .xcpV h _ _ _ _ => z h.st
  | .cmptV h _ => z h.st
  | .vld h _ => z h.st
  | .vst h _ => z h.st
  | .vgth h _ => z h.st
  | .vsct h _ => z h.st
  | .vrmg h _ => z h.st
  | .vadd h _ => z h.st
  | .vsub h _ => z h.st
  | .vmul h _ => z h.st
  | .vfma h _ => z h.st
  | .vmin h _ => z h.st
  | .vmax h _ => z h.st
  | .vabs h _ => z h.st
  | .vneg h _ => z h.st
  | .vrcp h _ => z h.st
  | .vrsq h _ => z h.st
  | .vexp2 h _ => z h.st
  | .vlog2 h _ => z h.st
  | .vcvt h _ => z h.st
  | .viadd h _ => z h.st
  | .visub h _ => z h.st
  | .vimul h _ => z h.st
  | .vlogic h _ => z h.st
  | .vshl h _ => z h.st
  | .vshr h _ => z h.st
  | .vpopc h _ => z h.st
  | .viota h _ => z h.st
  | .vmovi h _ => z h.st
  | .vcmp h _ => z h.st
  | .vicmp h _ => z h.st
  | .vselm h _ => z h.st
  | .wlog h _ => z h.st
  | .wcnt h _ => z h.st
  | .vbits h _ => z h.st
  | .vrsum h _ => z h.st
  | .vrmax h _ => z h.st
  | .vperm h _ => z h.st
  | .vbcst h _ => z h.st
  | .ard h _ => z h.st
  | .awr h _ => z h.st
  | .zld h _ _ => z h.st
  | .zst h _ _ => z h.st
  | .vbmax h _ => z h.st
  | .vqsx h _ => z h.st
  | .vdqsx h _ => z h.st
  | .vsigp h _ => z h.st
  | .vmaj h _ => z h.st
  | .vosm h _ => z h.st
  | .vosf h _ => z h.st
  | .vrope h _ => z h.st
  | .vrng h _ => z h.st
  | .mstat h _ => z h.st
  | .mrel h _ _ => z h.st
  | .mtld h _ _ => z h.st
  | .mtst h _ _ => z h.st
  | .mmul h _ _ _ _ _ _ _ _ => z h.st
  | .mclr h _ => z h.st
  | .tup h _ _ _ _ _ => z h.st
  | .tdn h _ _ _ _ _ _ => z h.st
  | .tmxp h _ _ _ _ _ => z h.st
  | .tscl h _ _ => z h.st
  | .tshl h _ _ _ => z h.st
  | .tcvt h _ _ _ => z h.st
  | .xcpM h _ _ _ => z h.st
  | .addC h _ _ _ => z h.st
  | .subC h _ _ _ => z h.st
  | .shlC h _ _ _ => z h.st
  | .liC h _ _ => z h.st
  | .lihC h _ _ => z h.st
  | .xcpC h _ _ _ => z h.st
  | .cmptC h _ _ => z h.st
  | .cpy h _ => z h.st
  | .cpy2 h _ => z h.st
  | .cpyl h _ => z h.st
  | .put h _ _ _ _ _ => z h.st
  | .give h _ _ _ => z h.st
  | .take h _ _ => z h.st
  | .atom h _ => z h.st
  | .sig h _ => z h.st
  | .fence h _ => z h.st
  | .coll h _ => z h.st
  | .cstk h _ => z h.st
  | .pgft h _ => z h.st
  | .preq h _ => z h.st
  | .wbk h _ => z h.st
  | .mapr h _ _ _ _ => z h.st
  | .pmov h _ => z h.st
  | .sset h _ => z h.st
  | .sins h _ => z h.st
  | .ssel h _ => z h.st
  | .sage h _ => z h.st
  | .sdel h _ => z h.st
  | .smig h _ => z h.st
  | .pgap h _ => z h.st
  | .plan h _ => z h.st
  | _ => true

end Sys2Proof
end

