-- ==== Sys2Proof/Decode.lean ====
section
/-! DEFINITION. The decoder, total on any bytes and rejecting by name, and after it the encoder: slot words
(spec/13_encoding.md R296 to R303), stack words (R304, R351) and whole bundles (R289 to R293). Words are read as natural
numbers, bit 0 the least significant. -/

namespace Sys2Proof

/-- Why a word or a bundle is no instruction: each is `ILLEGAL` (R248, R305). -/
inductive DecErr where
  /-- CLASS, bits [1:0] or the length of the header (level 1). -/
  | badHeader
  /-- The X rule of R293 (level 2). -/
  | badExtension
  /-- An unassigned opcode, in the slot numbered as in TRAPSLOT (level 3). -/
  | unassigned (slot : Nat)
  /-- A nonzero reserved bit (level 3). -/
  | reserved (slot : Nat)
  /-- A field value that R294 or the entry marks illegal (level 3). -/
  | badField (slot : Nat)
deriving DecidableEq, Repr

/-- The field of `n` bits of `w` from bit `lo` up. -/
def fld (n : Nat) (w lo : Nat) : BitVec n := BitVec.ofNat n (w / 2 ^ lo)

/-- Bit `lo` of `w`. -/
def flg (w lo : Nat) : Bool := w / 2 ^ lo % 2 == 1

/-- A field as a number. -/
def num (n w lo : Nat) : Nat := w / 2 ^ lo % 2 ^ n

/-- The instruction if its reserved bits are zero and its fields are well formed. -/
def accept (slot : Nat) (zero : Bool) (i : Instr) : Except DecErr Instr :=
  if !zero then .error (.reserved slot) else if i.wf then .ok i else .error (.badField slot)

/-- An immediate with its X bit: with X set the short field must be zero and the extension word stands in its place
(R293). -/
def immOf (n : Nat) (x : Bool) (short : Nat) (ext : BitVec 32) : Imm n :=
  if x then .ext ext else .short (BitVec.ofNat n short)

/-- With X set, the short field is zero (R293). -/
def immZ (x : Bool) (short : Nat) : Bool := !x || short == 0

/-- Zero sticky offsets, as in every decoded word. -/
def noOff : Off := ⟨0, 0, 0⟩

/-- An S word (R296, R297). `ext` is the bundle's extension word, or zero. -/
def decodeS (w : Nat) (ext : BitVec 32) : Except DecErr Instr :=
  let g := fld 5 w 27
  let d := fld 5 w 16
  let a := fld 5 w 11
  let b := fld 5 w 5
  let u := flg w 1
  let s := flg w 0
  let isImm := flg w 10
  let x := flg w 9
  let i9 := immOf 9 x (num 9 w 0) ext
  let z9 := immZ x (num 9 w 0)
  match num 6 w 21 with
  | 0x00 => accept 0 (num 21 w 0 == 0) (.nopS g)
  | 0x01 => if isImm then accept 0 z9 (.addImm g d a i9) else accept 0 (num 3 w 2 == 0) (.addReg g d a b u s)
  | 0x02 => if isImm then accept 0 z9 (.subImm g d a i9) else accept 0 (num 3 w 2 == 0) (.subReg g d a b u s)
  | 0x03 => if isImm then accept 0 z9 (.mulImm g d a i9) else accept 0 (num 3 w 2 == 0) (.mulReg g d a b u s)
  | 0x04 => if isImm then accept 0 z9 (.mulhImm g d a i9) else accept 0 (num 3 w 2 == 0 && !s) (.mulhReg g d a b u)
  | 0x05 => if isImm then accept 0 z9 (.divImm g d a i9) else accept 0 (num 3 w 2 == 0 && !s) (.divReg g d a b u)
  | 0x06 => if isImm then accept 0 z9 (.remImm g d a i9) else accept 0 (num 3 w 2 == 0 && !s) (.remReg g d a b u)
  | 0x07 => if isImm then accept 0 z9 (.andImm g d a i9) else accept 0 (num 5 w 0 == 0) (.andReg g d a b)
  | 0x08 => if isImm then accept 0 z9 (.orImm g d a i9) else accept 0 (num 5 w 0 == 0) (.orReg g d a b)
  | 0x09 => if isImm then accept 0 z9 (.xorImm g d a i9) else accept 0 (num 5 w 0 == 0) (.xorReg g d a b)
  | 0x0a => if isImm then accept 0 z9 (.shlImm g d a i9) else accept 0 (num 5 w 0 == 0) (.shlReg g d a b)
  | 0x0b => if isImm then accept 0 z9 (.shrImm g d a i9) else accept 0 (num 5 w 0 == 0) (.shrReg g d a b)
  | 0x0c => if isImm then accept 0 z9 (.sraImm g d a i9) else accept 0 (num 5 w 0 == 0) (.sraReg g d a b)
  | 0x0d => if isImm then accept 0 z9 (.rotlImm g d a i9) else accept 0 (num 5 w 0 == 0) (.rotlReg g d a b)
  | 0x0e => if isImm then accept 0 (z9 && a == 0) (.clzImm g d i9) else accept 0 (num 10 w 0 == 0) (.clzReg g d a)
  | 0x0f => if isImm then accept 0 (z9 && a == 0) (.popcImm g d i9) else accept 0 (num 10 w 0 == 0) (.popcReg g d a)
  | 0x10 => if isImm then accept 0 z9 (.minImm g d a i9) else accept 0 (num 3 w 2 == 0 && !s) (.minReg g d a b u)
  | 0x11 => if isImm then accept 0 z9 (.maxImm g d a i9) else accept 0 (num 3 w 2 == 0 && !s) (.maxReg g d a b u)
  | 0x12 => accept 0 (!flg w 10 && !flg w 4) (.sel g d a b (fld 4 w 0))
  | 0x13 => accept 0 (immZ (flg w 15) (num 15 w 0)) (.li g d (immOf 15 (flg w 15) (num 15 w 0) ext))
  | 0x14 => accept 0 (immZ (flg w 15) (num 15 w 0)) (.lih g d (immOf 15 (flg w 15) (num 15 w 0) ext))
  | 0x15 => accept 0 true (.cmp g (fld 4 w 17) (fld 4 w 13) (fld 5 w 8) (fld 5 w 0) (fld 3 w 5))
  | 0x16 => accept 0 (immZ (flg w 4) (num 4 w 0))
      (.cmpi g (fld 4 w 17) (fld 4 w 13) (fld 5 w 8) (fld 3 w 5) (immOf 4 (flg w 4) (num 4 w 0) ext))
  | 0x17 => accept 0 (num 5 w 0 == 0) (.plog g (fld 4 w 17) (fld 4 w 13) (fld 4 w 9) (fld 4 w 5))
  | 0x18 => accept 0 true (.lds g d a (fld 2 w 9) (flg w 8) (fld 8 w 0))
  | 0x19 => accept 0 (!flg w 8) (.sts g d a (fld 2 w 9) (fld 8 w 0))
  | 0x1A => accept 0 (num 4 w 0 == 0) (.xcpS g (fld 3 w 18) (fld 9 w 9) (fld 5 w 4))
  | 0x1B => accept 0 (num 4 w 12 == 0) (.crd g d (fld 12 w 0))
  | 0x1C => accept 0 (num 4 w 12 == 0) (.cwr g d (fld 12 w 0))
  | 0x1D => accept 0 (num 15 w 1 == 0) (.cyc g d (flg w 0))
  | 0x1E => accept 0 (d == 0 && !isImm && num 5 w 0 == 0) (.cmptS g a b)
  | 0x20 => accept 0 (num 7 w 14 == 0) (.br g (fld 14 w 0))
  | 0x21 => accept 0 (d == 0 && num 11 w 0 == 0) (.jmp g a)
  | 0x22 => accept 0 true (.loop g d (fld 3 w 13) (fld 13 w 0))
  | 0x23 => accept 0 (num 7 w 14 == 0) (.bloop g (fld 14 w 0))
  | 0x24 => accept 0 (num 7 w 14 == 0) (.bsw g (fld 14 w 0))
  | 0x25 => accept 0 (num 21 w 0 == 0) (.ifence g)
  | 0x26 =>
    match num 3 w 18 with
    | 0 => accept 0 (num 12 w 0 == 0) (.waitOwn g (fld 6 w 12))
    | 1 => accept 0 (num 12 w 0 == 0) (.waitWp g (flg w 17) (fld 5 w 12))
    | 2 => accept 0 (num 14 w 0 == 0) (.waitBar g (fld 4 w 14))
    | 3 => accept 0 true (.waitVal g (flg w 17) (fld 3 w 14) (fld 5 w 9) (fld 5 w 4) (fld 3 w 1) (flg w 0))
    | 4 => accept 0 (!flg w 17 && num 12 w 0 == 0) (.waitCyc g (fld 5 w 12))
    | _ => .error (.badField 0)
  | 0x27 => accept 0 (num 17 w 0 == 0) (.bar g (fld 4 w 17))
  | 0x28 => accept 0 (num 2 w 12 == 0 && num 7 w 0 == 0) (.tnext g (fld 4 w 17) (fld 3 w 14) (fld 5 w 7))
  | 0x29 => accept 0 (num 7 w 0 == 0) (.enq g (fld 4 w 17) (fld 3 w 14) (fld 2 w 12) (fld 5 w 7))
  | 0x2A => accept 0 (num 21 w 0 == 0) (.exit g)
  | 0x2B => accept 0 (num 21 w 0 == 0) (.dbrk g)
  | 0x2C => accept 0 (num 5 w 16 == 0) (.trap g (fld 16 w 0))
  | 0x2D => accept 0 (num 21 w 0 == 0) (.tret g)
  | 0x2E => if flg w 20 then accept 0 (num 20 w 0 == 0) (.crgnClose g) else accept 0 true (.crgnOpen g (fld 8 w 12) (fld 12 w 0))
  | _ => .error (.unassigned 0)

/-- The X bit of an S word; false where its format has none. -/
def sHasX (w : Nat) : Bool :=
  let op := num 6 w 21
  if (1 ≤ op && op ≤ 0x11) then flg w 10 && flg w 9
  else if op == 0x13 || op == 0x14 then flg w 15
  else if op == 0x16 then flg w 4
  else false

/-- A V word of slot V0 or V1 (R298, R299). -/
def decodeV (slot : Bool) (w : Nat) (ext : BitVec 32) : Except DecErr Instr :=
  let n := if slot then 2 else 1
  let h : VHead := ⟨slot, fld 5 w 43, flg w 35, fld 3 w 32, noOff⟩
  let o : VR := ⟨fld 6 w 26, fld 6 w 20, fld 6 w 14, fld 6 w 8, fld 4 w 4, fld 4 w 0⟩
  let m : VM := ⟨fld 6 w 26, fld 6 w 20, flg w 19, fld 12 w 7, fld 3 w 4, fld 4 w 0⟩
  let vi : VI := ⟨fld 6 w 26, fld 4 w 4, fld 3 w 0, immOf 12 (flg w 3) (num 12 w 8) ext⟩
  let va : VA := ⟨fld 6 w 26, fld 2 w 24, fld 5 w 19, fld 8 w 11, fld 4 w 4, fld 4 w 0⟩
  match num 7 w 36 with
  | 0x00 => accept n (num 36 w 0 == 0) (.nopEngineSlot (if slot then .v1 else .v0) h.g)
  | 0x01 => accept n (num 11 w 0 == 0) (.xcpV h (fld 6 w 26) (fld 3 w 23) (fld 9 w 14) (fld 3 w 11))
  | 0x02 => accept n true (.cmptV h o)
  | 0x03 => accept n true (.vld h m)
  | 0x04 => accept n true (.vst h m)
  | 0x05 => accept n true (.vgth h m)
  | 0x06 => accept n true (.vsct h m)
  | 0x07 => accept n true (.vrmg h o)
  | 0x08 => accept n true (.vadd h o)
  | 0x09 => accept n true (.vsub h o)
  | 0x0a => accept n true (.vmul h o)
  | 0x0b => accept n true (.vfma h o)
  | 0x0c => accept n true (.vmin h o)
  | 0x0d => accept n true (.vmax h o)
  | 0x0e => accept n true (.vabs h o)
  | 0x0f => accept n true (.vneg h o)
  | 0x10 => accept n true (.vrcp h o)
  | 0x11 => accept n true (.vrsq h o)
  | 0x12 => accept n true (.vexp2 h o)
  | 0x13 => accept n true (.vlog2 h o)
  | 0x14 => accept n true (.vrope h o)
  | 0x15 => accept n true (.vcvt h o)
  | 0x16 => accept n true (.vrng h o)
  | 0x18 => accept n true (.viadd h o)
  | 0x19 => accept n true (.visub h o)
  | 0x1a => accept n true (.vimul h o)
  | 0x1b => accept n true (.vlogic h o)
  | 0x1c => accept n true (.vshl h o)
  | 0x1d => accept n true (.vshr h o)
  | 0x1e => accept n true (.vpopc h o)
  | 0x1f => accept n true (.vbits h o)
  | 0x20 => accept n true (.vcmp h o)
  | 0x21 => accept n true (.vicmp h o)
  | 0x22 => accept n true (.vselm h o)
  | 0x23 => accept n true (.wlog h o)
  | 0x24 => accept n true (.wcnt h o)
  | 0x25 => accept n true (.vrsum h o)
  | 0x26 => accept n true (.vrmax h o)
  | 0x28 => accept n true (.vperm h o)
  | 0x29 => accept n true (.vbcst h o)
  | 0x2a => accept n (num 6 w 20 == 0 && immZ (flg w 3) (num 12 w 8)) (.viota h vi)
  | 0x2b => accept n (num 6 w 20 == 0 && immZ (flg w 3) (num 12 w 8)) (.vmovi h vi)
  | 0x30 => accept n true (.vbmax h o)
  | 0x31 => accept n true (.vqsx h o)
  | 0x32 => accept n true (.vdqsx h o)
  | 0x33 => accept n true (.vsigp h o)
  | 0x34 => accept n true (.vmaj h o)
  | 0x35 => accept n true (.vosm h o)
  | 0x36 => accept n true (.vosf h o)
  | 0x38 => accept n (num 3 w 8 == 0) (.ard h va)
  | 0x39 => accept n (num 3 w 8 == 0) (.awr h va)
  | 0x3a => accept n (num 17 w 0 == 0) (.zld h (fld 6 w 26) (fld 9 w 17))
  | 0x3b => accept n (num 17 w 0 == 0) (.zst h (fld 6 w 26) (fld 9 w 17))
  | _ => .error (.unassigned n)

/-- The X bit of a V word: only the VI format has one. -/
def vHasX (w : Nat) : Bool := (num 7 w 36 == 0x2a || num 7 w 36 == 0x2b) && flg w 3

/-- An M word (R300, R301). -/
def decodeM (w : Nat) : Except DecErr Instr :=
  let h : MHead := ⟨fld 5 w 59, flg w 52, noOff⟩
  let tid := fld 6 w 33
  let zd := fld 9 w 40
  let sh := fld 6 w 34
  let lm := fld 6 w 28
  let base := fld 9 w 19
  if flg w 51 then .error (.reserved 3) else
  match num 6 w 53 with
  | 0x00 => accept 3 (num 53 w 0 == 0) (.nopEngineSlot .m h.g)
  | 0x01 => accept 3 (num 2 w 49 == 0 && num 32 w 0 == 0) (.xcpM h zd (fld 3 w 37) (fld 5 w 32))
  | 0x08 => accept 3 (num 12 w 39 == 0 && num 33 w 0 == 0) (.mstat h tid)
  | 0x09 => accept 3 (num 12 w 39 == 0 && num 31 w 0 == 0) (.mrel h tid (fld 2 w 31))
  | 0x0A => accept 3 (num 8 w 43 == 0 && num 27 w 0 == 0) (.mtld h (fld 4 w 39) (fld 12 w 27))
  | 0x0B => accept 3 (num 8 w 43 == 0 && num 27 w 0 == 0) (.mtst h (fld 4 w 39) (fld 12 w 27))
  | 0x0C => accept 3 (!flg w 0)
      (.mmul h (flg w 50) (flg w 49) (fld 3 w 46) (fld 3 w 43) (fld 4 w 39) tid (fld 16 w 17) (fld 16 w 1))
  | 0x0D => accept 3 (num 5 w 46 == 0 && num 43 w 0 == 0) (.mclr h (fld 3 w 43))
  | 0x10 => accept 3 (num 19 w 0 == 0) (.tup h (fld 2 w 49) zd sh lm base)
  | 0x11 => accept 3 (num 10 w 0 == 0) (.tdn h (fld 2 w 49) zd (fld 9 w 10) sh lm base)
  | 0x12 => accept 3 (num 19 w 0 == 0) (.tmxp h (fld 2 w 49) zd sh lm base)
  | 0x13 => accept 3 (!flg w 49 && num 40 w 0 == 0) (.tscl h (flg w 50) zd)
  | 0x14 => accept 3 (num 10 w 40 == 0 && num 22 w 0 == 0) (.tshl h (flg w 50) sh (fld 12 w 22))
  | 0x15 => accept 3 (num 31 w 0 == 0) (.tcvt h (fld 2 w 49) zd (fld 9 w 31))
  | _ => .error (.unassigned 3)

/-- A C word of slot C0 or C1 (R302, R303). -/
def decodeC (slot : Bool) (w : Nat) (ext : BitVec 32) : Except DecErr Instr :=
  let n := if slot then 5 else 4
  let h : CHead := ⟨slot, fld 5 w 59, flg w 52, noOff⟩
  let x := flg w 51
  let d := fld 5 w 46
  let a := fld 5 w 41
  let co : COp := if flg w 40 then .imm (fld 32 w 8) else .reg (fld 5 w 35)
  let zi := !x && (if flg w 40 then num 8 w 0 == 0 else num 35 w 0 == 0)
  let ce : CE := ⟨d, fld 12 w 34, fld 5 w 29, fld 5 w 24, fld 5 w 19, fld 7 w 12, immOf 12 x (num 12 w 0) ext⟩
  let zx := immZ x (num 12 w 0)
  match num 6 w 53 with
  | 0x00 => accept n (num 53 w 0 == 0) (.nopEngineSlot (if slot then .c1 else .c0) h.g)
  | 0x01 => accept n zi (.addC h d a co)
  | 0x02 => accept n zi (.subC h d a co)
  | 0x0A => accept n zi (.shlC h d a co)
  | 0x13 => accept n (!x && a == 0 && flg w 40 && num 8 w 0 == 0) (.liC h d (fld 32 w 8))
  | 0x14 => accept n (!x && a == 0 && flg w 40 && num 8 w 0 == 0) (.lihC h d (fld 32 w 8))
  | 0x1A => accept n (!x && num 34 w 0 == 0) (.xcpC h d (fld 3 w 43) (fld 9 w 34))
  | 0x1E => accept n (!x && d == 0 && !flg w 40 && num 35 w 0 == 0) (.cmptC h a (fld 5 w 35))
  | 0x20 => accept n zx (.cpy h ce)
  | 0x21 => accept n zx (.cpy2 h ce)
  | 0x22 => accept n zx (.cpyl h ce)
  | 0x23 => accept n (!x && num 13 w 0 == 0) (.put h (fld 12 w 39) (fld 12 w 27) (fld 4 w 23) (fld 5 w 18) (fld 5 w 13))
  | 0x24 => accept n (!x && num 37 w 0 == 0) (.give h (flg w 50) (fld 6 w 44) (fld 7 w 37))
  | 0x25 => accept n (!x && !flg w 50 && num 37 w 0 == 0) (.take h (fld 6 w 44) (fld 7 w 37))
  | 0x26 => accept n (!x) (.atom h ce)
  | 0x27 => accept n (!x) (.sig h ce)
  | 0x28 => accept n (!x) (.fence h ce)
  | 0x29 => accept n (!x) (.coll h ce)
  | 0x2a => accept n (!x) (.cstk h ce)
  | 0x2b => accept n (!x) (.pgft h ce)
  | 0x2c => accept n (!x) (.preq h ce)
  | 0x2d => accept n (!x) (.wbk h ce)
  | 0x2E => accept n (!x && num 30 w 0 == 0) (.mapr h (fld 3 w 48) (fld 6 w 42) (fld 7 w 35) (fld 5 w 30))
  | 0x2f => accept n (!x) (.pmov h ce)
  | 0x30 => accept n (!x) (.sset h ce)
  | 0x31 => accept n (!x) (.sins h ce)
  | 0x32 => accept n (!x) (.ssel h ce)
  | 0x33 => accept n (!x) (.sage h ce)
  | 0x34 => accept n (!x) (.sdel h ce)
  | 0x35 => accept n (!x) (.smig h ce)
  | 0x36 => accept n (!x) (.pgap h ce)
  | 0x37 => accept n (!x) (.plan h ce)
  | _ => .error (.unassigned n)

/-- The X bit of a C word: the format of the engine commands alone has one. -/
def cHasX (w : Nat) : Bool := 0x20 ≤ num 6 w 53 && num 6 w 53 ≤ 0x37 && flg w 51

/-- A stack microprogram word (R304). `KSCN` runs on the scan lane alone, where Scarab supplies its operands (R246), so
no program word decodes to it. -/
def decodeK (w : Nat) : Except DecErr Instr :=
  let wt := fld 8 w 50
  let r : KRow := ⟨fld 2 w 48, fld 10 w 38, fld 24 w 14⟩
  match num 6 w 58 with
  | 0x00 => accept 6 (num 50 w 0 == 0) (.knop wt)
  | 0x01 => accept 6 (num 26 w 0 == 0) (.kact wt (fld 12 w 38) (fld 6 w 32) (fld 6 w 26))
  | 0x02 => accept 6 (num 10 w 4 == 0) (.krd wt r (fld 4 w 0))
  | 0x03 => accept 6 (num 10 w 4 == 0) (.kwr wt r (fld 4 w 0))
  | 0x04 => accept 6 (num 38 w 12 == 0) (.kpre wt (fld 12 w 0))
  | 0x05 => accept 6 (!flg w 12) (.kmac8 wt r (flg w 13) (fld 12 w 0))
  | 0x06 => accept 6 (num 2 w 12 == 0) (.kmac4 wt r (fld 12 w 0))
  | 0x07 => accept 6 (num 10 w 38 == 0 && num 12 w 2 == 0) (.kdq wt (fld 2 w 48) (fld 24 w 14) (fld 2 w 0))
  | 0x08 => accept 6 (num 9 w 0 == 0) (.kexp wt r (fld 2 w 12) (flg w 11) (fld 2 w 9))
  | 0x0A => accept 6 (num 9 w 38 == 0 && num 14 w 0 == 0) (.kacr wt (fld 2 w 48) (flg w 47) (fld 24 w 14))
  | 0x0B => accept 6 (num 49 w 1 == 0) (.kend wt (flg w 0))
  | _ => .error (.unassigned 6)

/-- A decoded bundle (R289): its header bits, its present slot operations and its length in bytes. -/
structure Bundle where
  drain : Bool
  rep : BitVec 5
  s : Option Instr
  v0 : Option Instr
  v1 : Option Instr
  m : Option Instr
  c0 : Option Instr
  c1 : Option Instr
  len : Nat
deriving DecidableEq, Repr

/-- Little-endian value of a byte list (R3). -/
def leNat : List Byte → Nat
  | [] => 0
  | b :: bs => b.toNat + 256 * leNat bs

/-- The `n` bytes of a value, least significant first (R3). -/
def leBytes : Nat → Nat → List Byte
  | 0, _ => []
  | n + 1, v => BitVec.ofNat 8 v :: leBytes n (v / 256)

/-- A present slot word, decoded; an absent one is none. -/
def optDec (present : Bool) (r : Except DecErr Instr) : Except DecErr (Option Instr) :=
  if present then r.map some else .ok none

/-- The bytes of the six slot words and of the extension word that a header announces (R290). -/
def slotLen (hd : Nat) : Nat :=
  (if flg hd 15 then 4 else 0) + (if flg hd 14 then 6 else 0) + (if flg hd 13 then 6 else 0) +
  (if flg hd 12 then 8 else 0) + (if flg hd 11 then 8 else 0) + (if flg hd 10 then 8 else 0)

/-- A bundle at the head of a byte list (R289 to R293): levels 1 to 3 of R305, in their order. The list holds the bytes
from the bundle's address to the end of its half, so a list that is too short is a bundle that passes offset 16,383. -/
def decodeBundle (bytes : List Byte) : Except DecErr Bundle :=
  let hd := leNat (bytes.take 2)
  let cls := num 2 hd 2
  let len := 2 + slotLen hd + (if cls == 1 then 4 else 0)
  if bytes.length < 2 || cls ≥ 2 || num 2 hd 0 != 0 || len > 42 || bytes.length < len then .error .badHeader
  else
    let oV0 := 2 + (if flg hd 15 then 4 else 0)
    let oV1 := oV0 + (if flg hd 14 then 6 else 0)
    let oM := oV1 + (if flg hd 13 then 6 else 0)
    let oC0 := oM + (if flg hd 12 then 8 else 0)
    let oC1 := oC0 + (if flg hd 11 then 8 else 0)
    let word (o n : Nat) : Nat := leNat ((bytes.drop o).take n)
    let ws := word 2 4
    let wv0 := word oV0 6
    let wv1 := word oV1 6
    let wm := word oM 8
    let wc0 := word oC0 8
    let wc1 := word oC1 8
    let ext := BitVec.ofNat 32 (word (len - 4) 4)
    let nx := (flg hd 15 && sHasX ws).toNat + (flg hd 14 && vHasX wv0).toNat + (flg hd 13 && vHasX wv1).toNat +
      (flg hd 11 && cHasX wc0).toNat + (flg hd 10 && cHasX wc1).toNat
    if nx != cls then .error .badExtension
    else do
      let s ← optDec (flg hd 15) (decodeS ws ext)
      let v0 ← optDec (flg hd 14) (decodeV false wv0 ext)
      let v1 ← optDec (flg hd 13) (decodeV true wv1 ext)
      let m ← optDec (flg hd 12) (decodeM wm)
      let c0 ← optDec (flg hd 11) (decodeC false wc0 ext)
      let c1 ← optDec (flg hd 10) (decodeC true wc1 ext)
      return ⟨flg hd 9, fld 5 hd 4, s, v0, v1, m, c0, c1, len⟩

/-- The bytes of a bundle that holds one S word, or is empty (nbits 16): the shape in which the opcode table's own words
run. The extension word of a word with X set is zero. -/
def loneBundle (nbits w : Nat) : List Byte :=
  if nbits == 32 then
    let x := sHasX (w % 2 ^ 32)
    leBytes 2 (0x8000 + (if x then 4 else 0)) ++ leBytes 4 w ++ (if x then leBytes 4 0 else [])
  else if nbits == 48 then
    let x := vHasX (w % 2 ^ 48)
    leBytes 2 (0x4000 + (if x then 4 else 0)) ++ leBytes 6 w ++ (if x then leBytes 4 0 else [])
  else if nbits == 64 then
    match decodeM (w % 2 ^ 64) with
    | .ok _ => leBytes 2 0x1000 ++ leBytes 8 w
    | .error _ =>
      let x := cHasX (w % 2 ^ 64)
      leBytes 2 (0x0800 + (if x then 4 else 0)) ++ leBytes 8 w ++ (if x then leBytes 4 0 else [])
  else leBytes 2 w

/-- The one operation of a bundle with one present slot, or the empty bundle itself. -/
def Bundle.lone (b : Bundle) : Option Instr :=
  match b.s, b.v0, b.v1, b.m, b.c0, b.c1 with
  | some i, none, none, none, none, none => some i
  | none, some i, none, none, none, none => some i
  | none, none, some i, none, none, none => some i
  | none, none, none, some i, none, none => some i
  | none, none, none, none, some i, none => some i
  | none, none, none, none, none, some i => some i
  | none, none, none, none, none, none => some (.emptyBundle b.drain b.rep)
  | _, _, _, _, _, _ => none

/-- The instruction that the decoder reads from a row's word, numbered as the opcode table numbers its bits. A 64-bit
word is read as an M word, and as a word of slot C0 where no M word has it. -/
def decodeTableWord (nbits w : Nat) : Option Instr :=
  match decodeBundle (loneBundle nbits w) with
  | .ok b => b.lone
  | .error _ => none

/-! ### The encoder -/

/-- The short field of an immediate. -/
def Imm.shortNat {n : Nat} : Imm n → Nat
  | .short v => v.toNat
  | .ext _ => 0

/-- The X bit of an immediate. -/
def Imm.x {n : Nat} : Imm n → Nat
  | .short _ => 0
  | .ext _ => 1

/-- The extension word of an immediate, or zero. -/
def Imm.extNat {n : Nat} : Imm n → Nat
  | .short _ => 0
  | .ext v => v.toNat

/-- The guard and opcode of an S word. -/
def encSHead (g : BitVec 5) (op : Nat) : Nat := g.toNat * 2 ^ 27 + op * 2 ^ 21

/-- The SR form. -/
def encSR (op : Nat) (g d a b : BitVec 5) (fn : Nat) : Nat :=
  encSHead g op + d.toNat * 2 ^ 16 + a.toNat * 2 ^ 11 + b.toNat * 2 ^ 5 + fn

/-- The SI form. -/
def encSI (op : Nat) (g d a : BitVec 5) (i : Imm 9) : Nat :=
  encSHead g op + d.toNat * 2 ^ 16 + a.toNat * 2 ^ 11 + 2 ^ 10 + i.x * 2 ^ 9 + i.shortNat

/-- FN of the suffixes `.S` and `.U` (R312). -/
def encFn (u s : Bool) : Nat := u.toNat * 2 + s.toNat

/-- The fields common to every V word. -/
def encVHead (h : VHead) (op : Nat) : Nat := h.g.toNat * 2 ^ 43 + op * 2 ^ 36 + h.k.toNat * 2 ^ 35 + h.m.toNat * 2 ^ 32

/-- The VR form. -/
def encVR (op : Nat) (h : VHead) (o : VR) : Nat :=
  encVHead h op + o.d.toNat * 2 ^ 26 + o.a.toNat * 2 ^ 20 + o.b.toNat * 2 ^ 14 + o.c.toNat * 2 ^ 8 +
    o.ty.toNat * 2 ^ 4 + o.mod.toNat

/-- The VM form. -/
def encVM (op : Nat) (h : VHead) (o : VM) : Nat :=
  encVHead h op + o.d.toNat * 2 ^ 26 + o.a.toNat * 2 ^ 20 + o.ab.toNat * 2 ^ 19 + o.row.toNat * 2 ^ 7 +
    o.aux.toNat * 2 ^ 4 + o.mod.toNat

/-- The VI form. -/
def encVI (op : Nat) (h : VHead) (o : VI) : Nat :=
  encVHead h op + o.d.toNat * 2 ^ 26 + o.imm.shortNat * 2 ^ 8 + o.ty.toNat * 2 ^ 4 + o.imm.x * 2 ^ 3 + o.mod.toNat

/-- The VA form. -/
def encVA (op : Nat) (h : VHead) (o : VA) : Nat :=
  encVHead h op + o.d.toNat * 2 ^ 26 + o.bank.toNat * 2 ^ 24 + o.arow.toNat * 2 ^ 19 + o.acol.toNat * 2 ^ 11 +
    o.ty.toNat * 2 ^ 4 + o.mod.toNat

/-- The fields common to every M word. -/
def encMHead (h : MHead) (op : Nat) : Nat := h.g.toNat * 2 ^ 59 + op * 2 ^ 53 + h.k.toNat * 2 ^ 52

/-- The fields common to every C word. -/
def encCHead (h : CHead) (op : Nat) : Nat := h.g.toNat * 2 ^ 59 + op * 2 ^ 53 + h.k.toNat * 2 ^ 52

/-- The CI form. -/
def encCI (op : Nat) (h : CHead) (d a : BitVec 5) (o : COp) : Nat :=
  encCHead h op + d.toNat * 2 ^ 46 + a.toNat * 2 ^ 41 +
    (match o with | .reg b => b.toNat * 2 ^ 35 | .imm v => 2 ^ 40 + v.toNat * 2 ^ 8)

/-- The CE form. -/
def encCE (op : Nat) (h : CHead) (o : CE) : Nat :=
  encCHead h op + o.imm.x * 2 ^ 51 + o.tr.toNat * 2 ^ 46 + o.toff.toNat * 2 ^ 34 + o.ra.toNat * 2 ^ 29 +
    o.rb.toNat * 2 ^ 24 + o.rc.toNat * 2 ^ 19 + o.qual.toNat * 2 ^ 12 + o.imm.shortNat

/-- The lock-step row fields of a stack word. -/
def encKR (op : Nat) (w : BitVec 8) (r : KRow) : Nat :=
  op * 2 ^ 58 + w.toNat * 2 ^ 50 + r.base.toNat * 2 ^ 48 + r.n1.toNat * 2 ^ 38 + r.off.toNat * 2 ^ 14

/-- The word of an instruction with its width in bits; none for a step that has no word of its own. -/
def encode (i : Instr) : Option (Nat × Nat) :=
  match i with
  | .nopS g => some (32, encSHead g 0)
  | .addReg g d a b u s => some (32, encSR 0x01 g d a b (encFn u s))
  | .addImm g d a i => some (32, encSI 0x01 g d a i)
  | .subReg g d a b u s => some (32, encSR 0x02 g d a b (encFn u s))
  | .subImm g d a i => some (32, encSI 0x02 g d a i)
  | .mulReg g d a b u s => some (32, encSR 0x03 g d a b (encFn u s))
  | .mulImm g d a i => some (32, encSI 0x03 g d a i)
  | .mulhReg g d a b u => some (32, encSR 0x04 g d a b (encFn u false))
  | .mulhImm g d a i => some (32, encSI 0x04 g d a i)
  | .divReg g d a b u => some (32, encSR 0x05 g d a b (encFn u false))
  | .divImm g d a i => some (32, encSI 0x05 g d a i)
  | .remReg g d a b u => some (32, encSR 0x06 g d a b (encFn u false))
  | .remImm g d a i => some (32, encSI 0x06 g d a i)
  | .andReg g d a b => some (32, encSR 0x07 g d a b 0)
  | .andImm g d a i => some (32, encSI 0x07 g d a i)
  | .orReg g d a b => some (32, encSR 0x08 g d a b 0)
  | .orImm g d a i => some (32, encSI 0x08 g d a i)
  | .xorReg g d a b => some (32, encSR 0x09 g d a b 0)
  | .xorImm g d a i => some (32, encSI 0x09 g d a i)
  | .shlReg g d a b => some (32, encSR 0x0a g d a b 0)
  | .shlImm g d a i => some (32, encSI 0x0a g d a i)
  | .shrReg g d a b => some (32, encSR 0x0b g d a b 0)
  | .shrImm g d a i => some (32, encSI 0x0b g d a i)
  | .sraReg g d a b => some (32, encSR 0x0c g d a b 0)
  | .sraImm g d a i => some (32, encSI 0x0c g d a i)
  | .rotlReg g d a b => some (32, encSR 0x0d g d a b 0)
  | .rotlImm g d a i => some (32, encSI 0x0d g d a i)
  | .minReg g d a b u => some (32, encSR 0x10 g d a b (encFn u false))
  | .minImm g d a i => some (32, encSI 0x10 g d a i)
  | .maxReg g d a b u => some (32, encSR 0x11 g d a b (encFn u false))
  | .maxImm g d a i => some (32, encSI 0x11 g d a i)
  | .clzReg g d a => some (32, encSR 0x0e g d a 0 0)
  | .clzImm g d i => some (32, encSI 0x0e g d 0 i)
  | .popcReg g d a => some (32, encSR 0x0f g d a 0 0)
  | .popcImm g d i => some (32, encSI 0x0f g d 0 i)
  | .sel g d a b p => some (32, encSR 0x12 g d a b p.toNat)
  | .li g d i => some (32, encSHead g 0x13 + d.toNat * 2 ^ 16 + i.x * 2 ^ 15 + i.shortNat)
  | .lih g d i => some (32, encSHead g 0x14 + d.toNat * 2 ^ 16 + i.x * 2 ^ 15 + i.shortNat)
  | .cmp g pd pe a b cc => some (32, encSHead g 0x15 + pd.toNat * 2 ^ 17 + pe.toNat * 2 ^ 13 + a.toNat * 2 ^ 8 + cc.toNat * 2 ^ 5 + b.toNat)
  | .cmpi g pd pe a cc i => some (32, encSHead g 0x16 + pd.toNat * 2 ^ 17 + pe.toNat * 2 ^ 13 + a.toNat * 2 ^ 8 + cc.toNat * 2 ^ 5 + i.x * 2 ^ 4 + i.shortNat)
  | .plog g pd pa pb tt => some (32, encSHead g 0x17 + pd.toNat * 2 ^ 17 + pa.toNat * 2 ^ 13 + pb.toNat * 2 ^ 9 + tt.toNat * 2 ^ 5)
  | .lds g d a e u o => some (32, encSHead g 0x18 + d.toNat * 2 ^ 16 + a.toNat * 2 ^ 11 + e.toNat * 2 ^ 9 + u.toNat * 2 ^ 8 + o.toNat)
  | .sts g d a e o => some (32, encSHead g 0x19 + d.toNat * 2 ^ 16 + a.toNat * 2 ^ 11 + e.toNat * 2 ^ 9 + o.toNat)
  | .xcpS g f r a => some (32, encSHead g 0x1A + f.toNat * 2 ^ 18 + r.toNat * 2 ^ 9 + a.toNat * 2 ^ 4)
  | .crd g r n => some (32, encSHead g 0x1B + r.toNat * 2 ^ 16 + n.toNat)
  | .cwr g r n => some (32, encSHead g 0x1C + r.toNat * 2 ^ 16 + n.toNat)
  | .cyc g d t => some (32, encSHead g 0x1D + d.toNat * 2 ^ 16 + t.toNat)
  | .cmptS g a b => some (32, encSR 0x1E g 0 a b 0)
  | .br g o => some (32, encSHead g 0x20 + o.toNat)
  | .jmp g a => some (32, encSR 0x21 g 0 a 0 0)
  | .loop g a k o => some (32, encSHead g 0x22 + a.toNat * 2 ^ 16 + k.toNat * 2 ^ 13 + o.toNat)
  | .bloop g o => some (32, encSHead g 0x23 + o.toNat)
  | .bsw g o => some (32, encSHead g 0x24 + o.toNat)
  | .ifence g => some (32, encSHead g 0x25)
  | .waitOwn g q => some (32, encSHead g 0x26 + q.toNat * 2 ^ 12)
  | .waitWp g ch a => some (32, encSHead g 0x26 + 1 * 2 ^ 18 + ch.toNat * 2 ^ 17 + a.toNat * 2 ^ 12)
  | .waitBar g b => some (32, encSHead g 0x26 + 2 * 2 ^ 18 + b.toNat * 2 ^ 14)
  | .waitVal g acq cc a b sc z => some (32, encSHead g 0x26 + 3 * 2 ^ 18 + acq.toNat * 2 ^ 17 + cc.toNat * 2 ^ 14 + a.toNat * 2 ^ 9 + b.toNat * 2 ^ 4 + sc.toNat * 2 + z.toNat)
  | .waitCyc g a => some (32, encSHead g 0x26 + 4 * 2 ^ 18 + a.toNat * 2 ^ 12)
  | .bar g b => some (32, encSHead g 0x27 + b.toNat * 2 ^ 17)
  | .tnext g pd q a => some (32, encSHead g 0x28 + pd.toNat * 2 ^ 17 + q.toNat * 2 ^ 14 + a.toNat * 2 ^ 7)
  | .enq g pd q pri a => some (32, encSHead g 0x29 + pd.toNat * 2 ^ 17 + q.toNat * 2 ^ 14 + pri.toNat * 2 ^ 12 + a.toNat * 2 ^ 7)
  | .exit g => some (32, encSHead g 0x2A)
  | .dbrk g => some (32, encSHead g 0x2B)
  | .trap g i => some (32, encSHead g 0x2C + i.toNat)
  | .tret g => some (32, encSHead g 0x2D)
  | .crgnOpen g id o => some (32, encSHead g 0x2E + id.toNat * 2 ^ 12 + o.toNat)
  | .crgnClose g => some (32, encSHead g 0x2E + 2 ^ 20)
  | .nopEngineSlot sl g => match sl with
    | .v0 => some (48, g.toNat * 2 ^ 43)
    | .v1 => some (48, g.toNat * 2 ^ 43)
    | .m => some (64, g.toNat * 2 ^ 59)
    | .c0 => some (64, g.toNat * 2 ^ 59)
    | .c1 => some (64, g.toNat * 2 ^ 59)
  | .xcpV h a f r lane => some (48, encVHead h 1 + a.toNat * 2 ^ 26 + f.toNat * 2 ^ 23 + r.toNat * 2 ^ 14 + lane.toNat * 2 ^ 11)
  | .cmptV h o => some (48, encVR 0x02 h o)
  | .vrmg h o => some (48, encVR 0x07 h o)
  | .vadd h o => some (48, encVR 0x08 h o)
  | .vsub h o => some (48, encVR 0x09 h o)
  | .vmul h o => some (48, encVR 0x0a h o)
  | .vfma h o => some (48, encVR 0x0b h o)
  | .vmin h o => some (48, encVR 0x0c h o)
  | .vmax h o => some (48, encVR 0x0d h o)
  | .vabs h o => some (48, encVR 0x0e h o)
  | .vneg h o => some (48, encVR 0x0f h o)
  | .vrcp h o => some (48, encVR 0x10 h o)
  | .vrsq h o => some (48, encVR 0x11 h o)
  | .vexp2 h o => some (48, encVR 0x12 h o)
  | .vlog2 h o => some (48, encVR 0x13 h o)
  | .vrope h o => some (48, encVR 0x14 h o)
  | .vcvt h o => some (48, encVR 0x15 h o)
  | .vrng h o => some (48, encVR 0x16 h o)
  | .viadd h o => some (48, encVR 0x18 h o)
  | .visub h o => some (48, encVR 0x19 h o)
  | .vimul h o => some (48, encVR 0x1a h o)
  | .vlogic h o => some (48, encVR 0x1b h o)
  | .vshl h o => some (48, encVR 0x1c h o)
  | .vshr h o => some (48, encVR 0x1d h o)
  | .vpopc h o => some (48, encVR 0x1e h o)
  | .vbits h o => some (48, encVR 0x1f h o)
  | .vcmp h o => some (48, encVR 0x20 h o)
  | .vicmp h o => some (48, encVR 0x21 h o)
  | .vselm h o => some (48, encVR 0x22 h o)
  | .wlog h o => some (48, encVR 0x23 h o)
  | .wcnt h o => some (48, encVR 0x24 h o)
  | .vrsum h o => some (48, encVR 0x25 h o)
  | .vrmax h o => some (48, encVR 0x26 h o)
  | .vperm h o => some (48, encVR 0x28 h o)
  | .vbcst h o => some (48, encVR 0x29 h o)
  | .vbmax h o => some (48, encVR 0x30 h o)
  | .vqsx h o => some (48, encVR 0x31 h o)
  | .vdqsx h o => some (48, encVR 0x32 h o)
  | .vsigp h o => some (48, encVR 0x33 h o)
  | .vmaj h o => some (48, encVR 0x34 h o)
  | .vosm h o => some (48, encVR 0x35 h o)
  | .vosf h o => some (48, encVR 0x36 h o)
  | .vld h o => some (48, encVM 0x03 h o)
  | .vst h o => some (48, encVM 0x04 h o)
  | .vgth h o => some (48, encVM 0x05 h o)
  | .vsct h o => some (48, encVM 0x06 h o)
  | .viota h o => some (48, encVI 0x2A h o)
  | .vmovi h o => some (48, encVI 0x2B h o)
  | .ard h o => some (48, encVA 0x38 h o)
  | .awr h o => some (48, encVA 0x39 h o)
  | .zld h d z => some (48, encVHead h 0x3A + d.toNat * 2 ^ 26 + z.toNat * 2 ^ 17)
  | .zst h d z => some (48, encVHead h 0x3B + d.toNat * 2 ^ 26 + z.toNat * 2 ^ 17)
  | .xcpM h zs f r => some (64, encMHead h 1 + zs.toNat * 2 ^ 40 + f.toNat * 2 ^ 37 + r.toNat * 2 ^ 32)
  | .mstat h tid => some (64, encMHead h 8 + tid.toNat * 2 ^ 33)
  | .mrel h tid l => some (64, encMHead h 9 + tid.toNat * 2 ^ 33 + l.toNat * 2 ^ 31)
  | .mtld h t row => some (64, encMHead h 0x0A + t.toNat * 2 ^ 39 + row.toNat * 2 ^ 27)
  | .mtst h t row => some (64, encMHead h 0x0B + t.toNat * 2 ^ 39 + row.toNat * 2 ^ 27)
  | .mmul h acc ck fmt bank t tid k0 n0 => some (64, encMHead h 0x0C + acc.toNat * 2 ^ 50 + ck.toNat * 2 ^ 49 + fmt.toNat * 2 ^ 46 + bank.toNat * 2 ^ 43 + t.toNat * 2 ^ 39 + tid.toNat * 2 ^ 33 + k0.toNat * 2 ^ 17 + n0.toNat * 2)
  | .mclr h bank => some (64, encMHead h 0x0D + bank.toNat * 2 ^ 43)
  | .tup h md zd sh lm base => some (64, encMHead h 0x10 + md.toNat * 2 ^ 49 + zd.toNat * 2 ^ 40 + sh.toNat * 2 ^ 34 + lm.toNat * 2 ^ 28 + base.toNat * 2 ^ 19)
  | .tdn h md zd zg sh lm base => some (64, encMHead h 0x11 + md.toNat * 2 ^ 49 + zd.toNat * 2 ^ 40 + sh.toNat * 2 ^ 34 + lm.toNat * 2 ^ 28 + base.toNat * 2 ^ 19 + zg.toNat * 2 ^ 10)
  | .tmxp h md zd sh lm base => some (64, encMHead h 0x12 + md.toNat * 2 ^ 49 + zd.toNat * 2 ^ 40 + sh.toNat * 2 ^ 34 + lm.toNat * 2 ^ 28 + base.toNat * 2 ^ 19)
  | .tscl h all zd => some (64, encMHead h 0x13 + all.toNat * 2 ^ 50 + zd.toNat * 2 ^ 40)
  | .tshl h l e row => some (64, encMHead h 0x14 + l.toNat * 2 ^ 50 + e.toNat * 2 ^ 34 + row.toNat * 2 ^ 22)
  | .tcvt h md zd zs => some (64, encMHead h 0x15 + md.toNat * 2 ^ 49 + zd.toNat * 2 ^ 40 + zs.toNat * 2 ^ 31)
  | .addC h d a o => some (64, encCI 0x01 h d a o)
  | .subC h d a o => some (64, encCI 0x02 h d a o)
  | .shlC h d a o => some (64, encCI 0x0A h d a o)
  | .liC h d i => some (64, encCI 0x13 h d 0 (.imm i))
  | .lihC h d i => some (64, encCI 0x14 h d 0 (.imm i))
  | .xcpC h a f r => some (64, encCHead h 0x1A + a.toNat * 2 ^ 46 + f.toNat * 2 ^ 43 + r.toNat * 2 ^ 34)
  | .cmptC h a b => some (64, encCI 0x1E h 0 a (.reg b))
  | .cpy h o => some (64, encCE 0x20 h o)
  | .cpy2 h o => some (64, encCE 0x21 h o)
  | .cpyl h o => some (64, encCE 0x22 h o)
  | .put h sr dr n1 lr lc => some (64, encCHead h 0x23 + sr.toNat * 2 ^ 39 + dr.toNat * 2 ^ 27 + n1.toNat * 2 ^ 23 + lr.toNat * 2 ^ 18 + lc.toNat * 2 ^ 13)
  | .give h wd q n => some (64, encCHead h 0x24 + wd.toNat * 2 ^ 50 + q.toNat * 2 ^ 44 + n.toNat * 2 ^ 37)
  | .take h q n => some (64, encCHead h 0x25 + q.toNat * 2 ^ 44 + n.toNat * 2 ^ 37)
  | .mapr h sl q n ra => some (64, encCHead h 0x2E + sl.toNat * 2 ^ 48 + q.toNat * 2 ^ 42 + n.toNat * 2 ^ 35 + ra.toNat * 2 ^ 30)
  | .atom h o => some (64, encCE 0x26 h o)
  | .sig h o => some (64, encCE 0x27 h o)
  | .fence h o => some (64, encCE 0x28 h o)
  | .coll h o => some (64, encCE 0x29 h o)
  | .cstk h o => some (64, encCE 0x2a h o)
  | .pgft h o => some (64, encCE 0x2b h o)
  | .preq h o => some (64, encCE 0x2c h o)
  | .wbk h o => some (64, encCE 0x2d h o)
  | .pmov h o => some (64, encCE 0x2f h o)
  | .sset h o => some (64, encCE 0x30 h o)
  | .sins h o => some (64, encCE 0x31 h o)
  | .ssel h o => some (64, encCE 0x32 h o)
  | .sage h o => some (64, encCE 0x33 h o)
  | .sdel h o => some (64, encCE 0x34 h o)
  | .smig h o => some (64, encCE 0x35 h o)
  | .pgap h o => some (64, encCE 0x36 h o)
  | .plan h o => some (64, encCE 0x37 h o)
  | .knop wt => some (64, wt.toNat * 2 ^ 50)
  | .kact wt wr n1 br => some (64, 1 * 2 ^ 58 + wt.toNat * 2 ^ 50 + wr.toNat * 2 ^ 38 + n1.toNat * 2 ^ 32 + br.toNat * 2 ^ 26)
  | .krd wt r br => some (64, encKR 2 wt r + br.toNat)
  | .kwr wt r br => some (64, encKR 3 wt r + br.toNat)
  | .kpre wt ph => some (64, 4 * 2 ^ 58 + wt.toNat * 2 ^ 50 + ph.toNat)
  | .kmac8 wt r h k0 => some (64, encKR 5 wt r + h.toNat * 2 ^ 13 + k0.toNat)
  | .kmac4 wt r k0 => some (64, encKR 6 wt r + k0.toNat)
  | .kdq wt base off gc => some (64, 7 * 2 ^ 58 + wt.toNat * 2 ^ 50 + base.toNat * 2 ^ 48 + off.toNat * 2 ^ 14 + gc.toNat)
  | .kexp wt r fmt b16 db => some (64, encKR 8 wt r + fmt.toNat * 2 ^ 12 + b16.toNat * 2 ^ 11 + db.toNat * 2 ^ 9)
  | .kacr wt base win off => some (64, 0x0A * 2 ^ 58 + wt.toNat * 2 ^ 50 + base.toNat * 2 ^ 48 + win.toNat * 2 ^ 47 + off.toNat * 2 ^ 14)
  | .kend wt d => some (64, 0x0B * 2 ^ 58 + wt.toNat * 2 ^ 50 + d.toNat)
  | .emptyBundle drain rep => some (16, drain.toNat * 2 ^ 9 + rep.toNat * 2 ^ 4)
  | _ => none

/-- The extension word that an instruction takes with it, or zero (R293). -/
def extWord (i : Instr) : BitVec 32 :=
  match i with
  | .addImm _ _ _ i => BitVec.ofNat 32 i.extNat
  | .subImm _ _ _ i => BitVec.ofNat 32 i.extNat
  | .mulImm _ _ _ i => BitVec.ofNat 32 i.extNat
  | .mulhImm _ _ _ i => BitVec.ofNat 32 i.extNat
  | .divImm _ _ _ i => BitVec.ofNat 32 i.extNat
  | .remImm _ _ _ i => BitVec.ofNat 32 i.extNat
  | .andImm _ _ _ i => BitVec.ofNat 32 i.extNat
  | .orImm _ _ _ i => BitVec.ofNat 32 i.extNat
  | .xorImm _ _ _ i => BitVec.ofNat 32 i.extNat
  | .shlImm _ _ _ i => BitVec.ofNat 32 i.extNat
  | .shrImm _ _ _ i => BitVec.ofNat 32 i.extNat
  | .sraImm _ _ _ i => BitVec.ofNat 32 i.extNat
  | .rotlImm _ _ _ i => BitVec.ofNat 32 i.extNat
  | .minImm _ _ _ i => BitVec.ofNat 32 i.extNat
  | .maxImm _ _ _ i => BitVec.ofNat 32 i.extNat
  | .clzImm _ _ i => BitVec.ofNat 32 i.extNat
  | .popcImm _ _ i => BitVec.ofNat 32 i.extNat
  | .li _ _ i => BitVec.ofNat 32 i.extNat
  | .lih _ _ i => BitVec.ofNat 32 i.extNat
  | .cmpi _ _ _ _ _ i => BitVec.ofNat 32 i.extNat
  | .viota _ o => BitVec.ofNat 32 o.imm.extNat
  | .vmovi _ o => BitVec.ofNat 32 o.imm.extNat
  | .cpy _ o => BitVec.ofNat 32 o.imm.extNat
  | .cpy2 _ o => BitVec.ofNat 32 o.imm.extNat
  | .cpyl _ o => BitVec.ofNat 32 o.imm.extNat
  | _ => 0

/-- The slot of a slot operation, numbered as in TRAPSLOT (R252); 6 for every other step. -/
def Instr.slot (i : Instr) : Nat :=
  match i with
  | .nopEngineSlot sl _ => match sl with | .v0 => 1 | .v1 => 2 | .m => 3 | .c0 => 4 | .c1 => 5
  | .nopS _ => 0
  | .addReg _ _ _ _ _ _ => 0
  | .addImm _ _ _ _ => 0
  | .subReg _ _ _ _ _ _ => 0
  | .subImm _ _ _ _ => 0
  | .mulReg _ _ _ _ _ _ => 0
  | .mulImm _ _ _ _ => 0
  | .mulhReg _ _ _ _ _ => 0
  | .mulhImm _ _ _ _ => 0
  | .divReg _ _ _ _ _ => 0
  | .divImm _ _ _ _ => 0
  | .remReg _ _ _ _ _ => 0
  | .remImm _ _ _ _ => 0
  | .andReg _ _ _ _ => 0
  | .andImm _ _ _ _ => 0
  | .orReg _ _ _ _ => 0
  | .orImm _ _ _ _ => 0
  | .xorReg _ _ _ _ => 0
  | .xorImm _ _ _ _ => 0
  | .shlReg _ _ _ _ => 0
  | .shlImm _ _ _ _ => 0
  | .shrReg _ _ _ _ => 0
  | .shrImm _ _ _ _ => 0
  | .sraReg _ _ _ _ => 0
  | .sraImm _ _ _ _ => 0
  | .rotlReg _ _ _ _ => 0
  | .rotlImm _ _ _ _ => 0
  | .clzReg _ _ _ => 0
  | .clzImm _ _ _ => 0
  | .popcReg _ _ _ => 0
  | .popcImm _ _ _ => 0
  | .minReg _ _ _ _ _ => 0
  | .minImm _ _ _ _ => 0
  | .maxReg _ _ _ _ _ => 0
  | .maxImm _ _ _ _ => 0
  | .sel _ _ _ _ _ => 0
  | .li _ _ _ => 0
  | .lih _ _ _ => 0
  | .cmp _ _ _ _ _ _ => 0
  | .cmpi _ _ _ _ _ _ => 0
  | .plog _ _ _ _ _ => 0
  | .lds _ _ _ _ _ _ => 0
  | .sts _ _ _ _ _ => 0
  | .xcpS _ _ _ _ => 0
  | .crd _ _ _ => 0
  | .cwr _ _ _ => 0
  | .cyc _ _ _ => 0
  | .cmptS _ _ _ => 0
  | .br _ _ => 0
  | .jmp _ _ => 0
  | .loop _ _ _ _ => 0
  | .bloop _ _ => 0
  | .bsw _ _ => 0
  | .ifence _ => 0
  | .waitOwn _ _ => 0
  | .waitWp _ _ _ => 0
  | .waitBar _ _ => 0
  | .waitVal _ _ _ _ _ _ _ => 0
  | .waitCyc _ _ => 0
  | .bar _ _ => 0
  | .tnext _ _ _ _ => 0
  | .enq _ _ _ _ _ => 0
  | .exit _ => 0
  | .dbrk _ => 0
  | .trap _ _ => 0
  | .tret _ => 0
  | .crgnOpen _ _ _ => 0
  | .crgnClose _ => 0
  | .xcpV h _ _ _ _ => if h.slot then 2 else 1
  | .cmptV h _ => if h.slot then 2 else 1
  | .vld h _ => if h.slot then 2 else 1
  | .vst h _ => if h.slot then 2 else 1
  | .vgth h _ => if h.slot then 2 else 1
  | .vsct h _ => if h.slot then 2 else 1
  | .vrmg h _ => if h.slot then 2 else 1
  | .vadd h _ => if h.slot then 2 else 1
  | .vsub h _ => if h.slot then 2 else 1
  | .vmul h _ => if h.slot then 2 else 1
  | .vfma h _ => if h.slot then 2 else 1
  | .vmin h _ => if h.slot then 2 else 1
  | .vmax h _ => if h.slot then 2 else 1
  | .vabs h _ => if h.slot then 2 else 1
  | .vneg h _ => if h.slot then 2 else 1
  | .vrcp h _ => if h.slot then 2 else 1
  | .vrsq h _ => if h.slot then 2 else 1
  | .vexp2 h _ => if h.slot then 2 else 1
  | .vlog2 h _ => if h.slot then 2 else 1
  | .vcvt h _ => if h.slot then 2 else 1
  | .viadd h _ => if h.slot then 2 else 1
  | .visub h _ => if h.slot then 2 else 1
  | .vimul h _ => if h.slot then 2 else 1
  | .vlogic h _ => if h.slot then 2 else 1
  | .vshl h _ => if h.slot then 2 else 1
  | .vshr h _ => if h.slot then 2 else 1
  | .vpopc h _ => if h.slot then 2 else 1
  | .viota h _ => if h.slot then 2 else 1
  | .vmovi h _ => if h.slot then 2 else 1
  | .vcmp h _ => if h.slot then 2 else 1
  | .vicmp h _ => if h.slot then 2 else 1
  | .vselm h _ => if h.slot then 2 else 1
  | .wlog h _ => if h.slot then 2 else 1
  | .wcnt h _ => if h.slot then 2 else 1
  | .vbits h _ => if h.slot then 2 else 1
  | .vrsum h _ => if h.slot then 2 else 1
  | .vrmax h _ => if h.slot then 2 else 1
  | .vperm h _ => if h.slot then 2 else 1
  | .vbcst h _ => if h.slot then 2 else 1
  | .ard h _ => if h.slot then 2 else 1
  | .awr h _ => if h.slot then 2 else 1
  | .zld h _ _ => if h.slot then 2 else 1
  | .zst h _ _ => if h.slot then 2 else 1
  | .vbmax h _ => if h.slot then 2 else 1
  | .vqsx h _ => if h.slot then 2 else 1
  | .vdqsx h _ => if h.slot then 2 else 1
  | .vsigp h _ => if h.slot then 2 else 1
  | .vmaj h _ => if h.slot then 2 else 1
  | .vosm h _ => if h.slot then 2 else 1
  | .vosf h _ => if h.slot then 2 else 1
  | .vrope h _ => if h.slot then 2 else 1
  | .vrng h _ => if h.slot then 2 else 1
  | .mstat _ _ => 3
  | .mrel _ _ _ => 3
  | .mtld _ _ _ => 3
  | .mtst _ _ _ => 3
  | .mmul _ _ _ _ _ _ _ _ _ => 3
  | .mclr _ _ => 3
  | .tup _ _ _ _ _ _ => 3
  | .tdn _ _ _ _ _ _ _ => 3
  | .tmxp _ _ _ _ _ _ => 3
  | .tscl _ _ _ => 3
  | .tshl _ _ _ _ => 3
  | .tcvt _ _ _ _ => 3
  | .xcpM _ _ _ _ => 3
  | .addC h _ _ _ => if h.slot then 5 else 4
  | .subC h _ _ _ => if h.slot then 5 else 4
  | .shlC h _ _ _ => if h.slot then 5 else 4
  | .liC h _ _ => if h.slot then 5 else 4
  | .lihC h _ _ => if h.slot then 5 else 4
  | .xcpC h _ _ _ => if h.slot then 5 else 4
  | .cmptC h _ _ => if h.slot then 5 else 4
  | .cpy h _ => if h.slot then 5 else 4
  | .cpy2 h _ => if h.slot then 5 else 4
  | .cpyl h _ => if h.slot then 5 else 4
  | .put h _ _ _ _ _ => if h.slot then 5 else 4
  | .give h _ _ _ => if h.slot then 5 else 4
  | .take h _ _ => if h.slot then 5 else 4
  | .atom h _ => if h.slot then 5 else 4
  | .sig h _ => if h.slot then 5 else 4
  | .fence h _ => if h.slot then 5 else 4
  | .coll h _ => if h.slot then 5 else 4
  | .cstk h _ => if h.slot then 5 else 4
  | .pgft h _ => if h.slot then 5 else 4
  | .preq h _ => if h.slot then 5 else 4
  | .wbk h _ => if h.slot then 5 else 4
  | .mapr h _ _ _ _ => if h.slot then 5 else 4
  | .pmov h _ => if h.slot then 5 else 4
  | .sset h _ => if h.slot then 5 else 4
  | .sins h _ => if h.slot then 5 else 4
  | .ssel h _ => if h.slot then 5 else 4
  | .sage h _ => if h.slot then 5 else 4
  | .sdel h _ => if h.slot then 5 else 4
  | .smig h _ => if h.slot then 5 else 4
  | .pgap h _ => if h.slot then 5 else 4
  | .plan h _ => if h.slot then 5 else 4
  | _ => 6

end Sys2Proof
end

