-- ==== Sys2Proof/Machine/Sparse.lean ====
section
/-! DEFINITION. Sparse maps as plain data: lists of (key, value) pairs in one canonical form, keys strictly rising and no
entry equal to what an unlisted key reads as. Memory and every register file is held so. -/

namespace Sys2Proof

/-- A sparse map from natural keys. -/
abbrev Sparse (α : Type) := List (Nat × α)

/-- The value at a key; an unlisted key reads as the default. -/
def Sparse.get {α : Type} (d : α) : Sparse α → Nat → α
  | [], _ => d
  | e :: m, k => if e.1 = k then e.2 else Sparse.get d m k

/-- Inserts an entry before the first greater key. -/
def Sparse.ins {α : Type} (k : Nat) (v : α) : Sparse α → Sparse α
  | [] => [(k, v)]
  | e :: m => if k < e.1 then (k, v) :: e :: m else e :: Sparse.ins k v m

/-- Removes every entry of a key. -/
def Sparse.del {α : Type} (k : Nat) : Sparse α → Sparse α
  | [] => []
  | e :: m => if e.1 = k then Sparse.del k m else e :: Sparse.del k m

/-- Writes a key; writing the default removes the entry. -/
def Sparse.set {α : Type} [DecidableEq α] (d : α) (m : Sparse α) (k : Nat) (v : α) : Sparse α :=
  if v = d then Sparse.del k m else Sparse.ins k v (Sparse.del k m)

/-- Writes a key of a table that has no default value. -/
def Sparse.put {α : Type} (m : Sparse α) (k : Nat) (v : α) : Sparse α := Sparse.ins k v (Sparse.del k m)

/-- The entry of a key in a table that has no default value. -/
def Sparse.find {α : Type} : Sparse α → Nat → Option α
  | [], _ => none
  | e :: m, k => if e.1 = k then some e.2 else Sparse.find m k

/-- The canonical form: keys strictly rising from a bound, and no entry equal to the default. -/
def Sparse.wfFrom {α : Type} [DecidableEq α] (d : α) : Nat → Sparse α → Bool
  | _, [] => true
  | lo, e :: m => decide (lo ≤ e.1) && decide (e.2 ≠ d) && Sparse.wfFrom d (e.1 + 1) m

/-- The canonical form. -/
def Sparse.wf {α : Type} [DecidableEq α] (d : α) (m : Sparse α) : Bool := Sparse.wfFrom d 0 m

end Sys2Proof
end

