-- ==== Sys2Proof/Machine/Bits.lean ====
section
/-! DEFINITION. Bit-field, sign-extension, saturation and lane helpers that the meanings share
(spec/00_scope.md R2 to R4, R7; spec/04_numbers.md R89, R90). -/

namespace Sys2Proof.Machine

/-- The two's complement value of the low `n` bits of `v`. -/
def sgn (n v : Nat) : Int := if v % 2 ^ n < 2 ^ (n - 1) then (v % 2 ^ n : Nat) else (v % 2 ^ n : Nat) - (2 ^ n : Int)

/-- The integer modulo 2^n as a natural number (wrap, R7). -/
def wrapN (n : Nat) (v : Int) : Nat := (v % (2 ^ n : Int)).toNat

/-- Clamps to the signed range of `n` bits (R90). -/
def satS (n : Nat) (v : Int) : Int := max (-(2 ^ (n - 1) : Int)) (min v ((2 ^ (n - 1) : Int) - 1))

/-- Clamps to the unsigned range of `n` bits (R89). -/
def satU (n : Nat) (v : Int) : Int := max 0 (min v ((2 ^ n : Int) - 1))

/-- A value read as signed, or as unsigned with `.U` (R89). -/
def rdInt (n : Nat) (u : Bool) (v : Nat) : Int := if u then ((v % 2 ^ n : Nat) : Int) else sgn n v

/-- Narrowing with `.S` and `.U` (R89, R361). -/
def narrow (n : Nat) (s u : Bool) (v : Int) : Nat :=
  if s && u then wrapN n (satU n v) else if s then wrapN n (satS n v) else wrapN n v

/-- Bits [hi:lo] of a number. -/
def bitsOf (v hi lo : Nat) : Nat := v / 2 ^ lo % 2 ^ (hi + 1 - lo)

/-- Bit `k` of a number. -/
def bitOf (v k : Nat) : Bool := v / 2 ^ k % 2 == 1

/-- The number of ones among the low `n` bits. -/
def popN : Nat → Nat → Nat
  | 0, _ => 0
  | n + 1, v => v % 2 + popN n (v / 2)

/-- The number of zeros above the highest set bit of a 64-bit value; 64 for zero (R325). -/
def clz64 (v : Nat) : Nat := if v = 0 then 64 else 63 - Nat.log2 v

/-- Index of the lowest set bit among `n`, `n` when none is set, counted from `i`. -/
def lowBit : Nat → Nat → Nat → Nat
  | 0, i, _ => i
  | n + 1, i, v => if v % 2 = 1 then i else lowBit n (i + 1) (v / 2)

/-- Rotation left of an `n`-bit value. -/
def rotlN (n v k : Nat) : Nat := (v * 2 ^ (k % n)) % 2 ^ n + (v % 2 ^ n) / 2 ^ (n - k % n)

/-- A truth table applied bit by bit: bit k is tt[2 × a_k + b_k] (R377, R403). -/
def ttBits : Nat → Nat → Nat → Nat → Nat
  | 0, _, _, _ => 0
  | n + 1, tt, a, b =>
    (tt / 2 ^ (2 * (a % 2) + b % 2)) % 2 + 2 * ttBits n tt (a / 2) (b / 2)

/-- Lane `i` of width `w` of a value (R4). -/
def lane (w v i : Nat) : Nat := v / 2 ^ (w * i) % 2 ^ w

/-- A value packed from its lanes, lane 0 least significant (R4). -/
def packN (w : Nat) : List Nat → Nat
  | [] => 0
  | x :: xs => x % 2 ^ w + 2 ^ w * packN w xs

/-- The lanes of a value, `n` of width `w`. -/
def lanesN (w : Nat) : Nat → Nat → List Nat
  | 0, _ => []
  | n + 1, v => v % 2 ^ w :: lanesN w n (v / 2 ^ w)

/-- The bits of width-`w` lanes whose mask bit is set: the write mask of a lane-wise operation (R4, R68, R398).
Lane i of 64 or more is governed by mask bit i − 64. -/
def laneMaskFrom (w : Nat) (m : Nat) : Nat → Nat → Nat
  | 0, _ => 0
  | n + 1, i => (if bitOf m (i % 64) then 2 ^ w - 1 else 0) + 2 ^ w * laneMaskFrom w m n (i + 1)

/-- The write mask of `n` lanes of width `w`. -/
def laneMask (w n m : Nat) : Nat := laneMaskFrom w m n 0

/-- Old contents where the mask is 0, new where it is 1. -/
def blend (old new mask : Nat) : Nat := (old &&& (2 ^ 512 - 1 - mask)) ||| (new &&& mask)

/-- Integer division rounded to nearest, ties to even, of a natural quotient. -/
def divRne (a b : Nat) : Nat :=
  let q := a / b
  let r := a % b
  if 2 * r > b || (2 * r == b && q % 2 == 1) then q + 1 else q

/-- Reflected CRC-32C of one byte into the running register (R135). -/
def crcByte (c : Nat) (b : Nat) : Nat :=
  let step (v : Nat) : Nat := if v % 2 = 1 then Nat.xor (v / 2) 0x82F63B78 else v / 2
  step (step (step (step (step (step (step (step (Nat.xor c (b % 256)))))))))

/-- The running register after a byte list. -/
def crcRun : Nat → List Byte → Nat
  | c, [] => c
  | c, b :: bs => crcRun (crcByte c b.toNat) bs

/-- CRC-32C of a byte list (R135). -/
def crc32c (bs : List Byte) : Nat := Nat.xor (crcRun 0xFFFFFFFF bs) 0xFFFFFFFF

/-- KMIX-32: ten rounds from counter (a, b) under key (k0, k1) (R110). -/
def kmixRun (k0 k1 : Nat) : Nat → Nat → Nat → Nat → Nat
  | 0, _, a, b => Nat.xor a (rotlN 32 b 27)
  | n + 1, i, a, b =>
    let a' := (a + rotlN 32 b 9 + k0 + i) % 2 ^ 32
    let b' := (Nat.xor b a' * 0x6A09E667 + k1) % 2 ^ 32
    kmixRun k0 k1 n (i + 1) a' b'

/-- The KMIX-32 output of one element index (R110). -/
def kmix (seed layer index : Nat) : Nat := kmixRun layer seed 10 0 (index % 2 ^ 32) (index / 2 ^ 32 % 2 ^ 32)

end Sys2Proof.Machine
end

