-- ==== Sys2Proof/Machine/Digest.lean ====
section
/-! DEFINITION. The SHA-384 digest and the ECDSA P-384 verification that the boot ROM makes (spec/12_host.md R275). The spec
names both by name; their definitions are the published ones (log 13). -/

namespace Sys2Proof.Machine

/-! ### SHA-384 -/

/-- The greatest `x` below 2^n whose `k`-th power does not exceed `v`, bit by bit. -/
def rootOf (k v : Nat) : Nat → Nat → Nat
  | 0, x => x
  | n + 1, x => rootOf k v n (if (x + 2 ^ n) ^ k ≤ v then x + 2 ^ n else x)

/-- Whether a number is prime. -/
def isPrime (n : Nat) : Bool := decide (2 ≤ n) && (List.range n).all (fun d => decide (d < 2) || n % d != 0)

/-- The first 80 primes. -/
def primes80 : List Nat := (List.range 410).filter isPrime

/-- The 80 round constants: the first 64 bits of the fractional parts of the cube roots of the primes. -/
def shaK : List W64 := primes80.map (fun p => BitVec.ofNat 64 (rootOf 3 (p * 2 ^ 192) 68 0))

/-- The initial value: the first 64 bits of the fractional parts of the square roots of the ninth to sixteenth primes. -/
def shaInit : List W64 := ((primes80.drop 8).take 8).map (fun p => BitVec.ofNat 64 (rootOf 2 (p * 2 ^ 128) 68 0))

/-- The functions of the rounds. -/
def shaS0 (x : W64) : W64 := x.rotateRight 28 ^^^ x.rotateRight 34 ^^^ x.rotateRight 39
def shaS1 (x : W64) : W64 := x.rotateRight 14 ^^^ x.rotateRight 18 ^^^ x.rotateRight 41
def shaG0 (x : W64) : W64 := x.rotateRight 1 ^^^ x.rotateRight 8 ^^^ (x >>> 7)
def shaG1 (x : W64) : W64 := x.rotateRight 19 ^^^ x.rotateRight 61 ^^^ (x >>> 6)

/-- Extends a message schedule, latest word first, by `n` words. -/
def shaSchedule : Nat → List W64 → List W64
  | 0, l => l
  | n + 1, l => shaSchedule n ((shaG1 (l.getD 1 0) + l.getD 6 0 + shaG0 (l.getD 14 0) + l.getD 15 0) :: l)

/-- One round. -/
def shaRound (h : List W64) (kw : W64 × W64) : List W64 :=
  match h with
  | [a, b, c, d, e, f, g, hh] =>
    let t1 := hh + shaS1 e + ((e &&& f) ^^^ (~~~e &&& g)) + kw.1 + kw.2
    let t2 := shaS0 a + ((a &&& b) ^^^ (a &&& c) ^^^ (b &&& c))
    [t1 + t2, a, b, c, d + t1, e, f, g]
  | _ => h

/-- A big-endian value. -/
def beNat (bs : List Byte) : Nat := bs.foldl (fun n b => n * 256 + b.toNat) 0

/-- The 64-bit big-endian words of a block. -/
def beWords : Nat → List Byte → List W64
  | 0, _ => []
  | n + 1, bs => BitVec.ofNat 64 (beNat (bs.take 8)) :: beWords n (bs.drop 8)

/-- One block of 128 bytes. -/
def shaBlock (ks h : List W64) (b : List Byte) : List W64 :=
  let ws := (shaSchedule 64 (beWords 16 b).reverse).reverse
  ((ks.zip ws).foldl shaRound h).zipWith (· + ·) h

/-- Runs `n` blocks. -/
def shaRun (ks : List W64) : Nat → List W64 → List Byte → List W64
  | 0, h, _ => h
  | n + 1, h, bs => shaRun ks n (shaBlock ks h (bs.take 128)) (bs.drop 128)

/-- The padding: a one bit, zeros, and the length in bits as 16 bytes, big-endian. -/
def shaPad (bs : List Byte) : List Byte :=
  bs ++ 0x80#8 :: List.replicate ((239 - bs.length % 128) % 128) 0 ++ (leBytes 16 (8 * bs.length)).reverse

/-- SHA-384. -/
def sha384 (bs : List Byte) : BitVec 384 :=
  let p := shaPad bs
  BitVec.ofNat 384 (((shaRun shaK (p.length / 128) shaInit p).take 6).foldl (fun n w => n * 2 ^ 64 + w.toNat) 0)

/-! ### ECDSA over P-384 -/

/-- The field, the curve's constant, the base point and its order. -/
def ecP : Nat := 2 ^ 384 - 2 ^ 128 - 2 ^ 96 + 2 ^ 32 - 1
def ecB : Nat := 0xb3312fa7e23ee7e4988e056be3f82d19181d9c6efe8141120314088f5013875ac656398d8a2ed19d2a85c8edd3ec2aef
def ecN : Nat := 0xffffffffffffffffffffffffffffffffffffffffffffffffc7634d81f4372ddf581a0db248b0a77aecec196accc52973
def ecG : Option (Nat × Nat) :=
  some (0xaa87ca22be8b05378eb1c71ef320ad746e1d3b628ba79b9859f741e082542a385502f25dbf55296c3a545e3872760ab7,
    0x3617de4a96262c6f5d9e98bf9292dc29f8f41dbd289a147ce9da3113b5f0b8c00a60b1ce1d7e819d7a431d7c90ea0e5f)

/-- A power modulo `m`, over `n` bits of the exponent. -/
def powMod (m : Nat) : Nat → Nat → Nat → Nat → Nat
  | 0, _, _, acc => acc
  | n + 1, b, e, acc => powMod m n (b * b % m) (e / 2) (if e % 2 = 1 then acc * b % m else acc)

/-- The inverse modulo a prime of at most 384 bits. -/
def invMod (m a : Nat) : Nat := powMod m 384 (a % m) (m - 2) 1

/-- The sum of two points; none is the point at infinity. -/
def ecAdd (a b : Option (Nat × Nat)) : Option (Nat × Nat) :=
  match a, b with
  | none, q => q
  | p, none => p
  | some p, some q =>
    if p.1 = q.1 && (p.2 + q.2) % ecP = 0 then none
    else
      let l := if p = q then (3 * p.1 * p.1 + ecP - 3) * invMod ecP (2 * p.2) % ecP
        else (q.2 + ecP - p.2) * invMod ecP (q.1 + ecP - p.1) % ecP
      let x := (l * l + 2 * ecP - p.1 - q.1) % ecP
      some (x, (l * (p.1 + ecP - x) + ecP - p.2) % ecP)

/-- A multiple of a point, over `n` bits. -/
def ecMul : Nat → Nat → Option (Nat × Nat) → Option (Nat × Nat) → Option (Nat × Nat)
  | 0, _, _, acc => acc
  | n + 1, k, p, acc => ecMul n (k / 2) (ecAdd p p) (if k % 2 = 1 then ecAdd acc p else acc)

/-- Whether a point lies on the curve. -/
def ecOn (q : Nat × Nat) : Bool :=
  decide (q.1 < ecP) && decide (q.2 < ecP) && q.2 * q.2 % ecP == (q.1 ^ 3 + (ecP - 3) * q.1 + ecB) % ecP

/-- The verification of a signature (r, s) over a digest. -/
def ecdsaOk (q : Nat × Nat) (r s : Nat) (digest : BitVec 384) : Bool :=
  let w := invMod ecN s
  ecOn q && decide (1 ≤ r) && decide (r < ecN) && decide (1 ≤ s) && decide (s < ecN) &&
  (match ecAdd (ecMul 384 (digest.toNat * w % ecN) ecG none) (ecMul 384 (r * w % ecN) (some q) none) with
   | some p => p.1 % ecN == r
   | none => false)

end Sys2Proof.Machine
end

