-- ==== Sys2Proof/Config.lean ====
section
/-! DEFINITION. What one implementation or one power-up fixes and the spec leaves open: constants with no body, so that
no proof can know a value of one. -/

namespace Sys2Proof

/-- PHASE of `REFPH`: Helelle chooses it at each power-up (spec/10_stack.md R244, log 3). Read modulo 3,900. -/
opaque Config.refreshPhase : Nat → Nat

/-- The stacks that stand above 85 °C on a global cycle: bits of HOT (spec/10_stack.md R244, log 31). -/
opaque Config.hotStacks : Nat → BitVec 32

/-- The stub entry that firmware writes into `TRAPVEC` at boot (spec/11_faults.md R252, log 3). -/
opaque Config.stubEntry : BitVec 11

/-- The bytes of the trap stub, which firmware loads at every launch (spec/11_faults.md R253, log 3). -/
opaque Config.stubByte : Nat → Byte

/-- The address of the context table that Helelle reserves at a power-up, bits [45:18] (spec/07_translation.md R443, log 3). -/
opaque Config.ctxBase : Nat → BitVec 28

/-- The address of the set table that Helelle reserves at a power-up, bits [45:30] (spec/07_translation.md R443, log 3). -/
opaque Config.setBase : Nat → BitVec 16

/-- The key hash in fuses (spec/12_host.md R275, log 3). -/
opaque Config.keyHash : BitVec 384

/-- Where in HBM of stack 0 the boot ROM puts the image (spec/12_host.md R275, log 3). Read modulo 2^36 − 2^24. -/
opaque Config.bootImage : BitVec 36

/-- The bytes of the context pool that the host driver gives firmware beyond the least that it may give (spec/11_faults.md R269,
log 39). -/
opaque Config.contextPool : Nat

/-- Whether the host fails to answer a read of a range by a port's DMA in the boot window (spec/12_host.md R273, log 13). -/
opaque Config.hostRefuses : Bool → Nat → Nat → Bool

/-- The n-th choice that the spec leaves to the hardware: which overflow slot a row takes, which half of a race wins
(spec/08_scarab.md R444, spec/06_ordering.md R158, log 8). -/
opaque Config.choice : Nat → Nat

/-- The n-th byte whose contents the spec calls unspecified (spec/08_scarab.md R444, log 8). -/
opaque Config.freeByte : Nat → Byte

/-- The n-th measured value of telemetry: power, temperature, link width and rate (spec/12_host.md R288, log 9). -/
opaque Config.measured : Nat → Nat

/-- What `ACCLIVE` shows to a core, on a global cycle, of a stack on another die that is clear in DIEMASK (spec/01_module.md R14,
spec/10_stack.md R245, log 14). -/
opaque Config.farLive : Nat → Nat → Nat → BitVec 16

/-- The bank of a stack that holds a byte, as the stack numbers its banks (spec/11_faults.md R265, spec/12_host.md R288,
log 45). Read modulo 1,024. -/
opaque Config.hbmBank : Nat → Nat

end Sys2Proof
end

