-- ==== Sys2Proof/Machine/Tables.lean ====
section
/-! DEFINITION. The tables of the transcendental functions: each entry the FP32 value nearest to the stated exact real, ties
to even (spec/04_numbers.md, Transcendental functions). Computed from those definitions in exact arithmetic. -/

namespace Sys2Proof.Machine

/-- EXT[j], nearest to 2^(j/64) (R105). -/
def tabEXT : List Nat := [
  0x3F800000, 0x3F8164D2, 0x3F82CD87, 0x3F843A29, 0x3F85AAC3, 0x3F871F62, 0x3F88980F, 0x3F8A14D5,
  0x3F8B95C2, 0x3F8D1ADF, 0x3F8EA43A, 0x3F9031DC, 0x3F91C3D3, 0x3F935A2B, 0x3F94F4F0, 0x3F96942D,
  0x3F9837F0, 0x3F99E046, 0x3F9B8D3A, 0x3F9D3EDA, 0x3F9EF532, 0x3FA0B051, 0x3FA27043, 0x3FA43516,
  0x3FA5FED7, 0x3FA7CD94, 0x3FA9A15B, 0x3FAB7A3A, 0x3FAD583F, 0x3FAF3B79, 0x3FB123F6, 0x3FB311C4,
  0x3FB504F3, 0x3FB6FD92, 0x3FB8FBAF, 0x3FBAFF5B, 0x3FBD08A4, 0x3FBF179A, 0x3FC12C4D, 0x3FC346CD,
  0x3FC5672A, 0x3FC78D75, 0x3FC9B9BE, 0x3FCBEC15, 0x3FCE248C, 0x3FD06334, 0x3FD2A81E, 0x3FD4F35B,
  0x3FD744FD, 0x3FD99D16, 0x3FDBFBB8, 0x3FDE60F5, 0x3FE0CCDF, 0x3FE33F89, 0x3FE5B907, 0x3FE8396A,
  0x3FEAC0C7, 0x3FED4F30, 0x3FEFE4BA, 0x3FF28177, 0x3FF5257D, 0x3FF7D0DF, 0x3FFA83B3, 0x3FFD3E0C]

/-- RCT[j], nearest to 1/(1 + j/64) (R106). -/
def tabRCT : List Nat := [
  0x3F800000, 0x3F7C0FC1, 0x3F783E10, 0x3F74898D, 0x3F70F0F1, 0x3F6D7304, 0x3F6A0EA1, 0x3F66C2B4,
  0x3F638E39, 0x3F607038, 0x3F5D67C9, 0x3F5A740E, 0x3F579436, 0x3F54C77B, 0x3F520D21, 0x3F4F6475,
  0x3F4CCCCD, 0x3F4A4588, 0x3F47CE0C, 0x3F4565C8, 0x3F430C31, 0x3F40C0C1, 0x3F3E82FA, 0x3F3C5264,
  0x3F3A2E8C, 0x3F381703, 0x3F360B61, 0x3F340B41, 0x3F321643, 0x3F302C0B, 0x3F2E4C41, 0x3F2C7692,
  0x3F2AAAAB, 0x3F28E83F, 0x3F272F05, 0x3F257EB5, 0x3F23D70A, 0x3F2237C3, 0x3F20A0A1, 0x3F1F1166,
  0x3F1D89D9, 0x3F1C09C1, 0x3F1A90E8, 0x3F191F1A, 0x3F17B426, 0x3F164FDA, 0x3F14F209, 0x3F139A86,
  0x3F124925, 0x3F10FDBC, 0x3F0FB824, 0x3F0E7835, 0x3F0D3DCB, 0x3F0C08C1, 0x3F0AD8F3, 0x3F09AE41,
  0x3F088889, 0x3F0767AB, 0x3F064B8A, 0x3F053408, 0x3F042108, 0x3F03126F, 0x3F020821, 0x3F010204]

/-- LGT[j], nearest to log2(1 + j/64) (R106). -/
def tabLGT : List Nat := [
  0x00000000, 0x3CB73CB4, 0x3D35D69C, 0x3D8759C5, 0x3DB31FB8, 0x3DDE4212, 0x3E0462C4, 0x3E19574F,
  0x3E2E00D2, 0x3E42615F, 0x3E567AF1, 0x3E6A4F72, 0x3E7DE0B6, 0x3E88983F, 0x3E92203D, 0x3E9B8926,
  0x3EA4D3C2, 0x3EAE00D2, 0x3EB7110E, 0x3EC0052B, 0x3EC8DDD4, 0x3ED19BB0, 0x3EDA3F60, 0x3EE2C97D,
  0x3EEB3A9F, 0x3EF39355, 0x3EFBD42B, 0x3F01FED4, 0x3F060828, 0x3F0A0650, 0x3F0DF989, 0x3F11E20F,
  0x3F15C01A, 0x3F1993E3, 0x3F1D5DA0, 0x3F211D84, 0x3F24D3C2, 0x3F28808C, 0x3F2C2411, 0x3F2FBE80,
  0x3F335004, 0x3F36D8CB, 0x3F3A58FF, 0x3F3DD0C8, 0x3F41404F, 0x3F44A7BA, 0x3F480731, 0x3F4B5ED7,
  0x3F4EAED0, 0x3F51F740, 0x3F553848, 0x3F587209, 0x3F5BA4A4, 0x3F5ED039, 0x3F61F4E5, 0x3F6512C7,
  0x3F6829FB, 0x3F6B3A9F, 0x3F6E44CD, 0x3F7148A1, 0x3F744636, 0x3F773DA4, 0x3F7A2F04, 0x3F7D1A71]

/-- RPT[j], nearest to 1/(1 + (2j + 1)/256) (R107). Entries 0 on. -/
def tabRPT0 : List Nat := [
  0x3F7F00FF, 0x3F7D08E5, 0x3F7B1885, 0x3F792FB2, 0x3F774E40, 0x3F757404, 0x3F73A0D5, 0x3F71D48C,
  0x3F700F01, 0x3F6E500F, 0x3F6C9791, 0x3F6AE564, 0x3F693965, 0x3F679373, 0x3F65F36D, 0x3F645933,
  0x3F62C4A7, 0x3F6135AA, 0x3F5FAC1F, 0x3F5E27EB, 0x3F5CA8F1, 0x3F5B2F17, 0x3F59BA42, 0x3F584A5A,
  0x3F56DF44, 0x3F5578E9, 0x3F541733, 0x3F52BA08, 0x3F516154, 0x3F500D01, 0x3F4EBCF9, 0x3F4D7127,
  0x3F4C2978, 0x3F4AE5D8, 0x3F49A634, 0x3F486A79, 0x3F473294, 0x3F45FE74, 0x3F44CE08, 0x3F43A13E,
  0x3F427806, 0x3F415250, 0x3F40300C, 0x3F3F112B, 0x3F3DF59D, 0x3F3CDD53, 0x3F3BC841, 0x3F3AB656,
  0x3F39A786, 0x3F389BC3, 0x3F379301, 0x3F368D31, 0x3F358A48, 0x3F348A3A, 0x3F338CFA, 0x3F32927C,
  0x3F319AB6, 0x3F30A59B, 0x3F2FB322, 0x3F2EC33E, 0x3F2DD5E6, 0x3F2CEB10, 0x3F2C02B0, 0x3F2B1CBE]

/-- RPT[j], nearest to 1/(1 + (2j + 1)/256) (R107). Entries 64 on. -/
def tabRPT1 : List Nat := [
  0x3F2A392F, 0x3F2957FB, 0x3F287917, 0x3F279C7B, 0x3F26C21E, 0x3F25E9F7, 0x3F2513FD, 0x3F244029,
  0x3F236E72, 0x3F229ECF, 0x3F21D13A, 0x3F2105A9, 0x3F203C17, 0x3F1F747A, 0x3F1EAECD, 0x3F1DEB07,
  0x3F1D2922, 0x3F1C6917, 0x3F1BAADF, 0x3F1AEE73, 0x3F1A33CD, 0x3F197AE7, 0x3F18C3BB, 0x3F180E41,
  0x3F175A75, 0x3F16A850, 0x3F15F7CC, 0x3F1548E5, 0x3F149B93, 0x3F13EFD2, 0x3F13459C, 0x3F129CEC,
  0x3F11F5BD, 0x3F115009, 0x3F10ABCC, 0x3F100901, 0x3F0F67A2, 0x3F0EC7AB, 0x3F0E2918, 0x3F0D8BE3,
  0x3F0CF009, 0x3F0C5584, 0x3F0BBC51, 0x3F0B246B, 0x3F0A8DCD, 0x3F09F874, 0x3F09645C, 0x3F08D181,
  0x3F083FDE, 0x3F07AF70, 0x3F072033, 0x3F069223, 0x3F06053C, 0x3F05797C, 0x3F04EEDD, 0x3F04655E,
  0x3F03DCF9, 0x3F0355AD, 0x3F02CF75, 0x3F024A4E, 0x3F01C636, 0x3F014328, 0x3F00C122, 0x3F004020]

/-- RPT[j], nearest to 1/(1 + (2j + 1)/256) (R107). -/
def tabRPT : List Nat := tabRPT0 ++ tabRPT1

/-- RST[j], nearest to 1/sqrt((j + 32.5)/32) (R108). Entries 0 on. -/
def tabRST0 : List Nat := [
  0x3F7E05EC, 0x3F7A33F9, 0x3F768CDC, 0x3F730D8A, 0x3F6FB345, 0x3F6C7B90, 0x3F69642A, 0x3F666B02,
  0x3F638E39, 0x3F60CC16, 0x3F5E2305, 0x3F5B9193, 0x3F59166B, 0x3F56B051, 0x3F545E22, 0x3F521ED0,
  0x3F4FF162, 0x3F4DD4ED, 0x3F4BC89B, 0x3F49CBA2, 0x3F47DD45, 0x3F45FCD6, 0x3F4429AF, 0x3F426337,
  0x3F40A8DE, 0x3F3EFA1C, 0x3F3D5671, 0x3F3BBD67, 0x3F3A2E8C, 0x3F38A975, 0x3F372DBF, 0x3F35BB09,
  0x3F3450FC, 0x3F32EF41, 0x3F319589, 0x3F304387, 0x3F2EF8F2, 0x3F2DB587, 0x3F2C7904, 0x3F2B432A,
  0x3F2A13C0, 0x3F28EA8C, 0x3F27C759, 0x3F26A9F4, 0x3F25922C, 0x3F247FD3, 0x3F2372BD, 0x3F226ABE,
  0x3F2167AF, 0x3F206968, 0x3F1F6FC4, 0x3F1E7AA0, 0x3F1D89D9, 0x3F1C9D4E, 0x3F1BB4E1, 0x3F1AD073,
  0x3F19EFE6, 0x3F191320, 0x3F183A05, 0x3F17647C, 0x3F16926C, 0x3F15C3BC, 0x3F14F857, 0x3F143026]

/-- RST[j], nearest to 1/sqrt((j + 32.5)/32) (R108). Entries 64 on. -/
def tabRST1 : List Nat := [
  0x3F136B13, 0x3F12A90B, 0x3F11E9F9, 0x3F112DCA, 0x3F10746D, 0x3F0FBDCE, 0x3F0F09DD, 0x3F0E5889,
  0x3F0DA9C2, 0x3F0CFD79, 0x3F0C539F, 0x3F0BAC25, 0x3F0B06FD, 0x3F0A641A, 0x3F09C36D, 0x3F0924EC,
  0x3F088889, 0x3F07EE37, 0x3F0755ED, 0x3F06BF9E, 0x3F062B40, 0x3F0598C7, 0x3F05082A, 0x3F04795F,
  0x3F03EC5C, 0x3F036117, 0x3F02D788, 0x3F024FA6, 0x3F01C967, 0x3F0144C4, 0x3F00C1B4, 0x3F004030]

/-- RST[j], nearest to 1/sqrt((j + 32.5)/32) (R108). -/
def tabRST : List Nat := tabRST0 ++ tabRST1

/-- SNT[i] for i from 0 to 256, nearest to sin(2π i/1024) (R109). Entries 0 on. -/
def tabSNQ0 : List Nat := [
  0x00000000, 0x3BC90F88, 0x3C490E90, 0x3C96C9B6, 0x3CC90AB0, 0x3CFB49BA, 0x3D16C32C, 0x3D2FE007,
  0x3D48FB30, 0x3D621469, 0x3D7B2B74, 0x3D8A200A, 0x3D96A905, 0x3DA3308C, 0x3DAFB680, 0x3DBC3AC3,
  0x3DC8BD36, 0x3DD53DB9, 0x3DE1BC2E, 0x3DEE3876, 0x3DFAB273, 0x3E039502, 0x3E09CF86, 0x3E1008B7,
  0x3E164083, 0x3E1C76DE, 0x3E22ABB6, 0x3E28DEFC, 0x3E2F10A2, 0x3E354098, 0x3E3B6ECF, 0x3E419B37,
  0x3E47C5C2, 0x3E4DEE60, 0x3E541501, 0x3E5A3997, 0x3E605C13, 0x3E667C66, 0x3E6C9A7F, 0x3E72B651,
  0x3E78CFCC, 0x3E7EE6E1, 0x3E827DC0, 0x3E8586CE, 0x3E888E93, 0x3E8B9507, 0x3E8E9A22, 0x3E919DDD,
  0x3E94A031, 0x3E97A117, 0x3E9AA086, 0x3E9D9E78, 0x3EA09AE5, 0x3EA395C5, 0x3EA68F12, 0x3EA986C4,
  0x3EAC7CD4, 0x3EAF713A, 0x3EB263EF, 0x3EB554EC, 0x3EB8442A, 0x3EBB31A0, 0x3EBE1D4A, 0x3EC1071E]

/-- SNT[i] for i from 0 to 256, nearest to sin(2π i/1024) (R109). Entries 64 on. -/
def tabSNQ1 : List Nat := [
  0x3EC3EF15, 0x3EC6D529, 0x3EC9B953, 0x3ECC9B8B, 0x3ECF7BCA, 0x3ED25A09, 0x3ED53641, 0x3ED8106B,
  0x3EDAE880, 0x3EDDBE79, 0x3EE0924F, 0x3EE363FA, 0x3EE63375, 0x3EE900B7, 0x3EEBCBBB, 0x3EEE9479,
  0x3EF15AEA, 0x3EF41F07, 0x3EF6E0CB, 0x3EF9A02D, 0x3EFC5D27, 0x3EFF17B2, 0x3F00E7E4, 0x3F0242B1,
  0x3F039C3D, 0x3F04F484, 0x3F064B82, 0x3F07A136, 0x3F08F59B, 0x3F0A48AD, 0x3F0B9A6B, 0x3F0CEAD0,
  0x3F0E39DA, 0x3F0F8784, 0x3F10D3CD, 0x3F121EB0, 0x3F13682A, 0x3F14B039, 0x3F15F6D9, 0x3F173C07,
  0x3F187FC0, 0x3F19C200, 0x3F1B02C6, 0x3F1C420C, 0x3F1D7FD1, 0x3F1EBC12, 0x3F1FF6CB, 0x3F212FF9,
  0x3F226799, 0x3F239DA9, 0x3F24D225, 0x3F26050A, 0x3F273656, 0x3F286605, 0x3F299415, 0x3F2AC082,
  0x3F2BEB4A, 0x3F2D1469, 0x3F2E3BDE, 0x3F2F61A5, 0x3F3085BB, 0x3F31A81D, 0x3F32C8C9, 0x3F33E7BC]

/-- SNT[i] for i from 0 to 256, nearest to sin(2π i/1024) (R109). Entries 128 on. -/
def tabSNQ2 : List Nat := [
  0x3F3504F3, 0x3F36206C, 0x3F373A23, 0x3F385216, 0x3F396842, 0x3F3A7CA4, 0x3F3B8F3B, 0x3F3CA003,
  0x3F3DAEF9, 0x3F3EBC1B, 0x3F3FC767, 0x3F40D0DA, 0x3F41D870, 0x3F42DE29, 0x3F43E200, 0x3F44E3F5,
  0x3F45E403, 0x3F46E22A, 0x3F47DE65, 0x3F48D8B3, 0x3F49D112, 0x3F4AC77F, 0x3F4BBBF8, 0x3F4CAE79,
  0x3F4D9F02, 0x3F4E8D90, 0x3F4F7A1F, 0x3F5064AF, 0x3F514D3D, 0x3F5233C6, 0x3F531849, 0x3F53FAC3,
  0x3F54DB31, 0x3F55B993, 0x3F5695E5, 0x3F577026, 0x3F584853, 0x3F591E6A, 0x3F59F26A, 0x3F5AC450,
  0x3F5B941A, 0x3F5C61C7, 0x3F5D2D53, 0x3F5DF6BE, 0x3F5EBE05, 0x3F5F8327, 0x3F604621, 0x3F6106F2,
  0x3F61C598, 0x3F628210, 0x3F633C5A, 0x3F63F473, 0x3F64AA59, 0x3F655E0B, 0x3F660F88, 0x3F66BECC,
  0x3F676BD8, 0x3F6816A8, 0x3F68BF3C, 0x3F696591, 0x3F6A09A7, 0x3F6AAB7B, 0x3F6B4B0C, 0x3F6BE858]

/-- SNT[i] for i from 0 to 256, nearest to sin(2π i/1024) (R109). Entries 192 on. -/
def tabSNQ3 : List Nat := [
  0x3F6C835E, 0x3F6D1C1D, 0x3F6DB293, 0x3F6E46BE, 0x3F6ED89E, 0x3F6F6830, 0x3F6FF573, 0x3F708066,
  0x3F710908, 0x3F718F57, 0x3F721352, 0x3F7294F8, 0x3F731447, 0x3F73913F, 0x3F740BDD, 0x3F748422,
  0x3F74FA0B, 0x3F756D97, 0x3F75DEC6, 0x3F764D97, 0x3F76BA07, 0x3F772417, 0x3F778BC5, 0x3F77F110,
  0x3F7853F8, 0x3F78B47B, 0x3F791298, 0x3F796E4E, 0x3F79C79D, 0x3F7A1E84, 0x3F7A7302, 0x3F7AC516,
  0x3F7B14BE, 0x3F7B61FC, 0x3F7BACCD, 0x3F7BF531, 0x3F7C3B28, 0x3F7C7EB0, 0x3F7CBFC9, 0x3F7CFE73,
  0x3F7D3AAC, 0x3F7D7474, 0x3F7DABCC, 0x3F7DE0B1, 0x3F7E1324, 0x3F7E4323, 0x3F7E70B0, 0x3F7E9BC9,
  0x3F7EC46D, 0x3F7EEA9D, 0x3F7F0E58, 0x3F7F2F9D, 0x3F7F4E6D, 0x3F7F6AC7, 0x3F7F84AB, 0x3F7F9C18,
  0x3F7FB10F, 0x3F7FC38F, 0x3F7FD397, 0x3F7FE129, 0x3F7FEC43, 0x3F7FF4E6, 0x3F7FFB11, 0x3F7FFEC4]

/-- SNT[i] for i from 0 to 256, nearest to sin(2π i/1024) (R109). Entries 256 on. -/
def tabSNQ4 : List Nat := [
  0x3F800000]

/-- SNT[i] for i from 0 to 256, nearest to sin(2π i/1024) (R109). -/
def tabSNQ : List Nat := tabSNQ0 ++ tabSNQ1 ++ tabSNQ2 ++ tabSNQ3 ++ tabSNQ4

/-- SNT[i], i from 0 to 1,024, by the symmetries of the sine (R109). SNT[512] and SNT[1024] are +0. -/
def tabSNT (i : Nat) : Nat :=
  if i ≤ 256 then tabSNQ.getD i 0
  else if i ≤ 512 then tabSNQ.getD (512 - i) 0
  else
    let v := if i ≤ 768 then tabSNQ.getD (i - 512) 0 else tabSNQ.getD (1024 - i) 0
    if v = 0 then 0 else v + 2 ^ 31

end Sys2Proof.Machine
end

