-- ==== Sys2Proof/Machine/Float.lean ====
section
/-! DEFINITION. Floating-point formats: exact decoding, one rounding per narrowing, arithmetic, conversions, the
transcendental functions and SP32 (spec/04_numbers.md R85 to R110). A finite value is (−1)^neg × m × 2^e, held exactly. -/

namespace Sys2Proof.Machine

/-- A floating-point format (R86): exponent and fraction bits, bias, and whether it is E4M3, which has no infinities. -/
structure Fmt where
  eb : Nat
  fb : Nat
  bias : Int
  e4 : Bool
deriving DecidableEq, Repr

/-- The format of a code 0 to 4 of R98: FP32, FP16, BF16, E4M3, E5M2. -/
def Fmt.ofTy (t : Nat) : Fmt :=
  match t with
  | 0 => ⟨8, 23, 127, false⟩
  | 1 => ⟨5, 10, 15, false⟩
  | 2 => ⟨8, 7, 127, false⟩
  | 3 => ⟨4, 3, 7, true⟩
  | _ => ⟨5, 2, 15, false⟩

/-- FP32. -/
def fp32 : Fmt := Fmt.ofTy 0

/-- BF16. -/
def bf16 : Fmt := Fmt.ofTy 2

/-- A decoded value: NaN, an infinity, or (−1)^neg × m × 2^e exactly, zero being m = 0 with its sign. -/
inductive Fp where
  | nan
  | inf (neg : Bool)
  | fin (neg : Bool) (m : Nat) (e : Int)
deriving DecidableEq, Repr

/-- Exact decoding (R86). -/
def Fmt.decode (f : Fmt) (bits : Nat) : Fp :=
  let fr := bits % 2 ^ f.fb
  let ex := bits / 2 ^ f.fb % 2 ^ f.eb
  let neg := bitOf bits (f.eb + f.fb)
  if ex = 2 ^ f.eb - 1 && (!f.e4 || fr == 2 ^ f.fb - 1) then
    (if f.e4 || fr != 0 then .nan else .inf neg)
  else if ex = 0 then .fin neg fr (1 - f.bias - f.fb)
  else .fin neg (2 ^ f.fb + fr) (ex - f.bias - f.fb)

/-- The canonical NaN of a format (R86, R87): sign 0 and the top fraction bit, or 0x7F of E4M3. -/
def Fmt.nanBits (f : Fmt) : Nat :=
  if f.e4 then 0x7F else (2 ^ f.eb - 1) * 2 ^ f.fb + 2 ^ (f.fb - 1)

/-- The infinity's bits without sign. -/
def Fmt.infBits (f : Fmt) : Nat := (2 ^ f.eb - 1) * 2 ^ f.fb

/-- The largest finite value's bits without sign. -/
def Fmt.maxBits (f : Fmt) : Nat := if f.e4 then 0x7E else f.infBits - 1

/-- The sign bit of a format. -/
def Fmt.signBit (f : Fmt) (neg : Bool) : Nat := if neg then 2 ^ (f.eb + f.fb) else 0

/-- Shifts m × 2^e to a multiple of 2^q, to nearest even or toward zero; exact when e ≥ q. -/
def shiftRound (rz : Bool) (m : Nat) (e q : Int) : Nat :=
  if q ≤ e then m * 2 ^ (e - q).toNat
  else if rz then m / 2 ^ (q - e).toNat else divRne m (2 ^ (q - e).toNat)

/-- The exponent floor(log2 (m × 2^e)) of a positive value. -/
def expOf (m : Nat) (e : Int) : Int := (Nat.log2 m : Int) + e

/-- round_F_rne and round_F_rz of a finite value, with `.SAT` (R90). -/
def Fmt.round (f : Fmt) (rz sat : Bool) (neg : Bool) (m : Nat) (e : Int) : Nat :=
  if m = 0 then f.signBit neg
  else
    let lo : Int := 1 - f.bias - f.fb
    let q := max (expOf m e - f.fb) lo
    let sig := shiftRound rz m e q
    let bits := (((q - lo) + 1) * (2 ^ f.fb : Int) + (sig : Int) - (2 ^ f.fb : Int)).toNat
    if f.maxBits < bits then
      (if sat || rz then f.signBit neg + f.maxBits
       else if f.e4 then f.nanBits else f.signBit neg + f.infBits)
    else f.signBit neg + bits

/-- Narrowing of any value (R90): NaN to the canonical NaN, infinities by the table. -/
def Fmt.narrow (f : Fmt) (rz sat : Bool) (v : Fp) : Nat :=
  match v with
  | .nan => f.nanBits
  | .inf neg => if sat then f.signBit neg + f.maxBits else if f.e4 then f.nanBits else f.signBit neg + f.infBits
  | .fin neg m e => f.round rz sat neg m e

/-- A signed exact value n × 2^e; zero takes the given sign. -/
def Fp.ofInt (zneg : Bool) (n : Int) (e : Int) : Fp :=
  if n = 0 then .fin zneg 0 0 else .fin (n < 0) n.natAbs e

/-- The signed significand. -/
def sgnM (neg : Bool) (m : Nat) : Int := if neg then -(m : Int) else m

/-- Exact sum (R87): a zero sum of nonzero terms, or of +0 and −0, is +0; −0 + −0 is −0. -/
def Fp.add (a b : Fp) : Fp :=
  match a, b with
  | .nan, _ => .nan
  | _, .nan => .nan
  | .inf s, .inf t => if s = t then .inf s else .nan
  | .inf s, .fin _ _ _ => .inf s
  | .fin _ _ _, .inf t => .inf t
  | .fin s m e, .fin t n k =>
    let lo := min e k
    Fp.ofInt (s && t && m == 0 && n == 0)
      (sgnM s m * (2 ^ (e - lo).toNat : Int) + sgnM t n * (2 ^ (k - lo).toNat : Int)) lo

/-- The value with its sign inverted. -/
def Fp.neg (a : Fp) : Fp :=
  match a with
  | .nan => .nan
  | .inf s => .inf (!s)
  | .fin s m e => .fin (!s) m e

/-- The value with its sign cleared. -/
def Fp.abs (a : Fp) : Fp :=
  match a with
  | .nan => .nan
  | .inf _ => .inf false
  | .fin _ m e => .fin false m e

/-- Exact difference. -/
def Fp.sub (a b : Fp) : Fp := a.add b.neg

/-- Exact product (R87): zeros take the exclusive-or of the signs; infinity times zero is NaN. -/
def Fp.mul (a b : Fp) : Fp :=
  match a, b with
  | .nan, _ => .nan
  | _, .nan => .nan
  | .inf s, .inf t => .inf (s != t)
  | .inf s, .fin t m _ => if m = 0 then .nan else .inf (s != t)
  | .fin s m _, .inf t => if m = 0 then .nan else .inf (s != t)
  | .fin s m e, .fin t n k => .fin (s != t) (m * n) (e + k)

/-- A quotient to 64 bits and a sticky bit below: exact for any later rounding of at most 60 bits. Finite b ≠ 0. -/
def Fp.divFin (s : Bool) (m : Nat) (e : Int) (t : Bool) (n : Nat) (k : Int) : Fp :=
  let sh := 64 + Nat.log2 n
  let q := m * 2 ^ sh / n
  let r := m * 2 ^ sh % n
  .fin (s != t) (2 * q + (if r = 0 then 0 else 1)) (e - k - sh - 1)

/-- Quotient under IEEE 754, to be rounded once (R425). -/
def Fp.div (a b : Fp) : Fp :=
  match a, b with
  | .nan, _ => .nan
  | _, .nan => .nan
  | .inf _, .inf _ => .nan
  | .inf s, .fin t _ _ => .inf (s != t)
  | .fin s _ _, .inf t => .fin (s != t) 0 0
  | .fin s m e, .fin t n k =>
    if n = 0 then (if m = 0 then .nan else .inf (s != t))
    else Fp.divFin s m e t n k

/-- The order of two values that are no NaN, −0 below +0 (R88): a < b. -/
def Fp.ltTotal (a b : Fp) : Bool :=
  match a, b with
  | .nan, _ => false
  | _, .nan => false
  | .inf s, .inf t => s && !t
  | .inf s, .fin _ _ _ => s
  | .fin _ _ _, .inf t => !t
  | .fin s m e, .fin t n k =>
    if m = 0 && n = 0 then s && !t
    else
      let lo := min e k
      decide (sgnM s m * (2 ^ (e - lo).toNat : Int) < sgnM t n * (2 ^ (k - lo).toNat : Int))

/-- IEEE 754 less-than: zeros are equal. -/
def Fp.lt (a b : Fp) : Bool :=
  match a, b with
  | .fin _ 0 _, .fin _ 0 _ => false
  | _, _ => a.ltTotal b

/-- IEEE 754 equality: false on NaN, zeros equal. -/
def Fp.eq (a b : Fp) : Bool := a != .nan && b != .nan && !a.lt b && !b.lt a

/-- NaN. -/
def Fp.isNan (a : Fp) : Bool := a == .nan

/-- The larger of two values under R88; NaN when one is NaN. -/
def Fp.max (a b : Fp) : Fp := if a.isNan || b.isNan then .nan else if a.ltTotal b then b else a

/-- The smaller of two values under R88; NaN when one is NaN. -/
def Fp.min (a b : Fp) : Fp := if a.isNan || b.isNan then .nan else if b.ltTotal a then b else a

/-- Decodes FP32 bits. -/
def d32 (b : Nat) : Fp := fp32.decode b

/-- round_fp32_rne. -/
def r32 (v : Fp) : Nat := fp32.narrow false false v

/-- An FP32 addition rounded to nearest even. -/
def add32 (a b : Nat) : Nat := r32 ((d32 a).add (d32 b))

/-- An FP32 multiplication rounded to nearest even. -/
def mul32 (a b : Nat) : Nat := r32 ((d32 a).mul (d32 b))

/-- An integer as an exact value; zero is +0. -/
def Fp.int (n : Int) : Fp := Fp.ofInt false n 0

/-- Rounds m × 2^e to an integer magnitude, nearest even or toward zero. -/
def roundInt (rz : Bool) (neg : Bool) (m : Nat) (e : Int) : Int := sgnM neg (shiftRound rz m e 0)

/-- Floating point to an integer of `n` bits (R91): round, then saturate; NaN gives 0. -/
def Fp.toInt (n : Nat) (rz u : Bool) (v : Fp) : Nat :=
  let sat (x : Int) : Nat := wrapN n (if u then satU n x else satS n x)
  match v with
  | .nan => 0
  | .inf neg => sat (if neg then -(2 ^ 80 : Int) else 2 ^ 80)
  | .fin neg m e => sat (if expOf m e > 80 && m != 0 then (if neg then -(2 ^ 80 : Int) else 2 ^ 80) else roundInt rz neg m e)

/-- 2^d for d ≥ −149, else +0 (R210, R211): exact FP32 bits. -/
def pow2b (d : Int) : Nat := if d < -149 then 0 else fp32.round false false false 1 d

/-! ### Transcendental functions -/

/-- `VEXP2` (R105). -/
def vexp2 (b : Nat) : Nat :=
  match d32 b with
  | .nan => fp32.nanBits
  | .inf neg => if neg then 0 else fp32.infBits
  | .fin neg m e =>
    if !neg && m != 0 && expOf m e ≥ 7 then fp32.infBits
    else if neg && (Fp.fin neg m e).ltTotal (.fin true 150 0) then 0
    else
      let sm := sgnM neg m
      let k : Int := if 0 ≤ e + 6 then sm * (2 ^ (e + 6).toNat : Int) else sm.fdiv (2 ^ (-(e + 6)).toNat : Int)
      let j := (k % 64).toNat
      let n := (k - j) / 64
      let r := (Fp.fin neg m e).sub (Fp.ofInt false k (-6))
      let q := r32 ((d32 0x3D635847).mul r)
      let q := add32 q 0x3E75FDF0
      let q := r32 ((d32 q).mul r)
      let q := add32 q 0x3F317218
      let q := r32 ((d32 q).mul r)
      let q := add32 q 0x3F800000
      let y := mul32 (tabEXT.getD j 0) q
      r32 ((d32 y).mul (.fin false 1 n))

/-- `VLOG2` (R106). -/
def vlog2 (b : Nat) : Nat :=
  match d32 b with
  | .nan => fp32.nanBits
  | .inf neg => if neg then fp32.nanBits else fp32.infBits
  | .fin neg m e =>
    if m = 0 then fp32.signBit true + fp32.infBits
    else if neg then fp32.nanBits
    else
      let l := Nat.log2 m
      let ex : Int := expOf m e
      let j := (m * 64) / 2 ^ l - 64
      let diff := (Fp.fin false m (-(l : Int))).sub (.fin false (64 + j) (-6))
      let u := r32 (diff.mul (d32 (tabRCT.getD j 0)))
      let q := mul32 0x3EF6384A u
      let q := add32 q 0xBF38AA3B
      let q := mul32 q u
      let q := add32 q 0x3FB8AA3B
      let q := mul32 q u
      let y := add32 (tabLGT.getD j 0) q
      r32 ((Fp.int ex).add (d32 y))

/-- One step of `VRCP` (R107): m is the exact significand. -/
def vrcpStep (m : Fp) (a : Nat) : Nat :=
  let d := r32 ((Fp.int 1).sub (m.mul (d32 a)))
  r32 ((d32 a).add ((d32 a).mul (d32 d)))

/-- `VRCP` (R107). -/
def vrcp (b : Nat) : Nat :=
  match d32 b with
  | .nan => fp32.nanBits
  | .inf neg => fp32.signBit neg
  | .fin neg m e =>
    if m = 0 then fp32.signBit neg + fp32.infBits
    else
      let l := Nat.log2 m
      let mm : Fp := .fin false m (-(l : Int))
      let a := if m = 2 ^ l then 0x3F800000
        else vrcpStep mm (vrcpStep mm (tabRPT.getD ((m * 128) / 2 ^ l - 128) 0))
      fp32.signBit neg + r32 ((d32 a).mul (.fin false 1 (-(expOf m e))))

/-- One step of `VRSQ` (R108): m is the exact significand. -/
def vrsqStep (m : Fp) (a : Nat) : Nat :=
  let d := mul32 a a
  let d := r32 ((Fp.fin false 3 (-1)).sub ((m.mul (.fin false 1 (-1))).mul (d32 d)))
  mul32 a d

/-- `VRSQ` (R108). -/
def vrsq (b : Nat) : Nat :=
  match d32 b with
  | .nan => fp32.nanBits
  | .inf neg => if neg then fp32.nanBits else 0
  | .fin neg m e =>
    if m = 0 then fp32.signBit neg + fp32.infBits
    else if neg then fp32.nanBits
    else
      let l := Nat.log2 m
      let ex : Int := expOf m e
      let odd := ex % 2 == 1
      let sh : Int := if odd then 1 - (l : Int) else -(l : Int)
      let ee := if odd then ex - 1 else ex
      let mm : Fp := .fin false m sh
      let a := if !odd && m = 2 ^ l then 0x3F800000
        else vrsqStep mm (vrsqStep mm (tabRST.getD ((m * (if odd then 64 else 32)) / 2 ^ l - 32) 0))
      r32 ((d32 a).mul (.fin false 1 (-(ee / 2))))

/-- The sine of a 32-bit phase (R109). -/
def sinPhase (ph : Nat) : Nat :=
  let i := ph / 2 ^ 22 % 1024
  let f := ph % 2 ^ 22
  let dl := r32 ((d32 (tabSNT (i + 1))).sub (d32 (tabSNT i)))
  let t := r32 ((d32 dl).mul (.fin false f (-22)))
  add32 (tabSNT i) t

/-- The cosine of a phase (R109). -/
def cosPhase (ph : Nat) : Nat := sinPhase ((ph + 2 ^ 30) % 2 ^ 32)

/-! ### SP32 (R96, R97) -/

/-- An SP32 result and the flags it sets. -/
structure Sp where
  bits : Nat
  spo : Bool
  spu : Bool
deriving DecidableEq, Repr

/-- The value of an SP32 word as m × 2^e under a scale base; zero when x = 0 (R96). -/
def spDecode (sb : Int) (w : Nat) : Nat × Int :=
  let x : Nat := w / 2 ^ 22 % 1024
  if x = 0 then (0, 0) else (2 ^ 22 + w % 2 ^ 22, Int.ofNat x - 512 + sb - 22)

/-- round_sp32_rne (R97). -/
def spRound (sb : Int) (m : Nat) (e : Int) : Sp :=
  if m = 0 then ⟨0, false, false⟩
  else
    let x := expOf m e + 512 - sb
    let sig := shiftRound false m e (expOf m e - 22)
    let x := if sig = 2 ^ 23 then x + 1 else x
    let f := if sig = 2 ^ 23 then 0 else sig - 2 ^ 22
    if x > 1023 then ⟨1023 * 2 ^ 22 + (2 ^ 22 - 1), true, false⟩
    else if x < 1 then ⟨0, false, true⟩
    else ⟨x.toNat * 2 ^ 22 + f, false, false⟩

/-- The sum of a list of exact values aligned to one exponent: a signed significand and that exponent. -/
def sumExact : List (Bool × Nat × Int) → Int × Int
  | [] => (0, 0)
  | t :: ts =>
    let r := sumExact ts
    let lo := min t.2.2 r.2
    if t.2.1 = 0 then r else if r.1 = 0 then (sgnM t.1 t.2.1, t.2.2)
    else (sgnM t.1 t.2.1 * (2 ^ (t.2.2 - lo).toNat : Int) + r.1 * (2 ^ (r.2 - lo).toNat : Int), lo)

end Sys2Proof.Machine
end

