-- ==== Sys2Proof/Machine/State.lean ====
section
/-! DEFINITION. The state of the module as plain data: everything that spec/ names, and the model's own few fields
(INVENTORY.md, heading State), the reasons a step can stop, and the state after reset. -/

namespace Sys2Proof.Machine

/-- Owner state of a quarter (spec/05_scratchpad.md R115). -/
inductive Owner where
  | core | engine | sched | stat
deriving DecidableEq, Repr

/-- A register file with 64-bit entries that `XCP` may name: s, g, h (spec/03_core.md R55). -/
inductive File where
  | s | g | h
deriving DecidableEq, Repr

/-- The rows that an `ATOM`, a copy or another command moves, and where: what a C slot hands to its channel
(spec/05_scratchpad.md R132; spec/14 R330 to R341; spec/15 R363 to R391; spec/16 R431). Operand values are those read on
the issue cycle. -/
inductive CmdKind where
  /-- `CPY`: destination, source, rows, expander control (`.X`) (R330, R332). -/
  | cpy (dst src : W64) (n : Nat) (x : Option W64)
  /-- `CPY2`: destination, source, dimensions, lines, transpose element bytes or 0 (R334, R335). -/
  | cpy2 (dst src dim : W64) (lines : Nat) (tr : Nat)
  /-- `CPYL`: destination, list, rows per entry, entries (R336). -/
  | cpyl (dst list : W64) (p : W64) (count : Nat)
  /-- `ATOM` (R319). -/
  | atom (addr val cmp : W64) (gd : Nat) (op : Nat) (u eight : Bool)
  /-- `SIG` (R386). -/
  | sig (addr val : W64) (add eight : Bool)
  /-- `FENCE` (R347). -/
  | fence
  /-- `COLL` (R328). -/
  | coll (blk : W64)
  /-- `CSTK` (R341). -/
  | cstk (desc : W64) (stack lane : Nat)
  /-- `PGFT` (R374). -/
  | pgft (ra rb rc : W64) (q0 : Nat) (chain : Bool)
  /-- `PREQ` (R380). -/
  | preq (q n : Nat)
  /-- `WBK` (R431). -/
  | wbk (q n : Nat)
  /-- `PMOV` (R378). -/
  | pmov (ra rb rc : W64)
  | sset (id img : W64)
  | sins (blk : W64)
  | ssel (out qb : W64) (k : Nat)
  | sage (id : W64) (d : Nat)
  | sdel (id rng : W64) (all : Bool)
  | smig (id : W64) (mark : Nat) (inward : Bool)
  | pgap (desc frame : W64)
  | plan (blk : W64)
deriving DecidableEq, Repr

/-- How far an accepted command has come. -/
inductive CmdPhase where
  /-- Accepted, start cycle not reached (R132). -/
  | held
  /-- Started; rows are issued from T on (R133). -/
  | running
  /-- Handed on to another engine, which reports (R363). -/
  | handed
deriving DecidableEq, Repr

/-- A command that a channel holds (spec/05_scratchpad.md R132). -/
structure Cmd where
  uid : Nat
  kind : CmdKind
  /-- `.RET` (R120). -/
  ret : Bool
  /-- `.REL` and `.ACQ` (R154, R155). -/
  rel : Bool
  acq : Bool
  /-- SCOPE (R152). -/
  scope : Nat
  /-- Start cycle T (R133). -/
  start : Nat
  /-- Issue cycle and bundle (R154, R252). -/
  iss : Nat
  baddr : Nat
  /-- Depth of the containment region it belongs to, 0 outside any (R257). -/
  depth : Nat
  phase : CmdPhase
  /-- Rows delivered so far, and all rows (R133, R134). -/
  done : Nat
  n : Nat
  /-- Running CRC register over the delivered bytes (R135). -/
  crc : Nat
  /-- Quarters of a write-back set (R431), or the quarters that the operand block of a `COLL` or `PLAN` names (R133). -/
  qset : List Nat
  /-- The operand block read on T (R363); for a `PLAN`, the number of named cores behind it in 4 bytes (R376). -/
  blk : List Byte
  /-- The list entry of a `CPYL` that its present rows take, with its number (R336). -/
  ent : Option (Nat × W64)
deriving DecidableEq, Repr

/-- A copy channel (spec/05_scratchpad.md R132 to R135). -/
structure Chan where
  cmds : List Cmd
  wp : Nat
  crc : Nat
  /-- Start cycle and row count of the last command that started (R133). -/
  last : Option (Nat × Nat)
deriving DecidableEq, Repr

/-- What one accumulator element of an `MMUL` receives (spec/04_numbers.md R101, R102): the FP32 group sums in ascending
order, the exact sum of the products, and on the integer path that sum as an integer. -/
structure MTerm where
  ts : List Nat
  ex : Fp
  iv : Int
deriving DecidableEq, Repr

/-- What takes effect on a later task cycle: landings, scratch accesses, flips, queue operations, acceptances
(spec/03_core.md R61, spec/05_scratchpad.md R113). Register numbers are physical (R62). -/
inductive Eff where
  | reg (f : File) (n : Nat) (v : W64)
  | vec (y : Bool) (n : Nat) (v m : Vec)
  | pred (n : Nat) (v : Bool)
  | msk (n : Nat) (v m : W64)
  | zs (l : List (Nat × W32))
  | tile (t row : Nat) (v : Vec)
  | shapes (e : Nat) (v : List W64)
  | leaves (e : Nat) (v : List (BitVec 256))
  | accs (bank : Nat) (l : List (Nat × BitVec 48))
  | accClear (bank : Nat)
  | mmul (bank : Nat) (acc ck flt : Bool) (terms : List (List MTerm))
  | cr (n : Nat) (v : W64)
  | crOr (n : Nat) (v : W64)
  | tscl (d : Int)
  | cwr (n : Nat) (v : W64)
  | loop (n k : Nat)
  | bloop
  | crgnOpen (id : Nat) (handler : Nat) (half : Bool)
  | lds (addr : Nat) (e : Nat) (u : Bool) (d : Nat)
  | vld (addr : Nat) (y : Bool) (d : Nat) (m : Vec) (nr : Option (Nat × W64 × W64))
  | vgth (idx : List (Nat × Nat)) (e : Nat) (y : Bool) (d : Nat)
  | mtldRow (t k row : Nat)
  | tshl (l : Bool) (e row : Nat)
  | ard (y : Bool) (d : Nat) (bank row col : Nat) (colForm : Bool) (mode : Nat) (m : W64) (ent : W64)
  | write (addr : Nat) (v : Vec) (m : BitVec 64)
  | scatter (addr e : Nat) (v : W64) (add : Nat)
  | putRow (src : Nat) (addr : Nat) (v : Vec) (srcSlot srcBaddr : Nat)
  | putRead (srow dst drow : Nat) (land : Nat)
  | put (srow drow n lrow lcol : Nat)
  | tnext (q : Nat) (pd : Nat) (addr : W64)
  | popRow (row : Nat) (v : Vec)
  | enq (q pri : Nat) (pd : Nat) (addr : W64)
  | cmpt (ne : Bool) (data : W64)
  | give (q : Int) (n : Nat) (w : Bool)
  | take (q : Int) (n : Nat)
  | mstat (tid : Nat)
  | mrel (tid : Nat) (layout : Nat) (left : Nat)
  | mapr (slot q n : Nat) (va : W64)
  | mmulGo (acc ck : Bool) (fmt bank : Nat) (rows : List Vec) (m l : Nat) (tid k0 n0 : Nat)
  | mtChk (store : Bool)
  | accept (chan : Bool) (c : Cmd)
  | dbrk
  | raise (cause : Nat) (data : W64)
  | engFault (cause sub : Nat) (data : W64) (depth : Nat)
  | slotBack (qs : List Nat)
deriving DecidableEq, Repr

/-- An effect in flight: the task cycle on which it takes effect, its issue cycle, its slot (0 S, 1 V0, 2 V1, 3 M, 4 C0,
5 C1; 6 an incoming scheduled transfer), whether an `XCP` made it (R63), and the bundle that issued it. -/
structure Pend where
  due : Nat
  iss : Nat
  slot : Nat
  xcp : Bool
  baddr : Nat
  eff : Eff
deriving DecidableEq, Repr

/-- An armed slot (spec/03_core.md R74): the recorded operation and its re-issue count. -/
structure Armed where
  ins : Instr
  j : Nat
deriving DecidableEq, Repr

/-- A stall of issue (spec/16 R428, spec/14 R321, R340, spec/07 R184) with the registers read on presentation. -/
inductive Stall where
  | own (q : Nat)
  | wp (ch : Bool) (n : Nat)
  | bar (b : Nat)
  | val (addr v : W64) (eight : Bool) (cc : Nat) (met : Bool) (last : Nat)
  | cyc (n : Nat)
  | arrive (b : Nat)
  | close
  | gate
deriving DecidableEq, Repr

/-- An open containment region (spec/11_faults.md R256). -/
structure Crgn where
  id : Nat
  handler : Nat
  half : Bool
  /-- Quarters that its commands have named so far (R258), numbered core × 64 + quarter. -/
  named : List Nat
deriving DecidableEq, Repr

/-- A fault between its detection and its entry (spec/11_faults.md R249 to R252): f is the detection cycle and `last` the
last landing since, or the last cycle on which an unwind still had work. `depth` is 0 for trap entry, else the greatest depth
of the region to unwind: 4 for a slot fault, which unwinds the innermost one. -/
structure Flt where
  f : Nat
  last : Nat
  cause : Nat
  sub : Nat
  slot : Nat
  eng : Bool
  data : W64
  baddr : Nat
  multi : Bool
  depth : Nat
  /-- Found at issue (R248) and not at perform time. -/
  issue : Bool
  /-- `GLOBCYC` at the detection cycle (R251). -/
  glob : Option Nat
deriving DecidableEq, Repr

/-- A region slot of `MAPR` (spec/07_translation.md R176). -/
structure MapSlot where
  q : Nat
  n : Nat
  va : W64
deriving DecidableEq, Repr

/-- Quarters busy with an `MMUL` (spec/05_scratchpad.md R129): from c + 1 to `till`. -/
structure Busy where
  q : Nat
  till : Nat
deriving DecidableEq, Repr

/-- A `PGFT` in progress (spec/08_scarab.md R201 to R204): the next page, pages delivered, chain position, and how many
of each slot's two quarters the core has given back. -/
structure Weevil where
  uid : Nat
  chan : Bool
  pool : W64
  hdrt : W64
  desc : W64
  list : W64
  status : W64
  q0 : Nat
  chain : Bool
  count : Nat
  next : Nat
  frame : Nat
  back : Nat
  given : List Nat
deriving DecidableEq, Repr

/-- One core (spec/03_core.md R55 and the registers of spec/14 R337). `cr` holds the control registers that are plain
storage, by number. -/
structure Core where
  id : Nat
  /-- Held by an instance and issuing, or stopped. -/
  run : Bool
  exited : Bool
  inst : Nat
  grp : Nat
  lrow : Nat
  lcol : Nat
  ldie : Nat
  cyc : Nat
  /-- Task-clock periods of a freeze that are left, and 1 more; and whether it has begun, which it does on the edge after its
  error was found (R140). -/
  freeze : Nat
  frozen : Bool
  s : Sparse W64
  g : Sparse W64
  h : Sparse W64
  x : Sparse Vec
  y : Sparse Vec
  p : Sparse Bool
  w : Sparse W64
  t : Sparse Vec
  acc : Sparse (BitVec 48)
  z : Sparse W32
  cr : Sparse W64
  own : Sparse Owner
  strm : Sparse W64
  wq : Sparse Bool
  tt : Sparse W64
  statAt : Sparse Nat
  shape : Sparse W64
  leaf : Sparse (BitVec 256)
  maps : Sparse (Option MapSlot)
  mres : W64
  mdirty : W64
  half : Bool
  pc : Nat
  nhalf : Bool
  npc : Nat
  rep : Nat
  rlen : Nat
  armed : Sparse (Option Armed)
  wrA : Bool
  wrB : Bool
  pend : List Pend
  busy : List Busy
  c0 : Chan
  c1 : Chan
  crgn : List Crgn
  flt : Option Flt
  /-- Return flips owed under `.RET` (R120): quarter and the cycle from which they may take place. -/
  owed : List Nat
  stub : Bool
  stall : Option Stall
  /-- The bundle at `pc` stands unissued, with this many issues not made (R249, R252). -/
  stopAt : Option Nat
  arrph : W64
  atDrain : Bool
  stopped : Bool
  weevil : List Weevil
deriving DecidableEq, Repr

/-- A reservation of a static transfer schedule (spec/02_execution.md R22). -/
structure Resv where
  grp : Nat
  ldie : Nat
  srow : Nat
  scol : Nat
  drow : Nat
  dcol : Nat
  n : Nat
  dfirst : Nat
  cyc : Nat
deriving DecidableEq, Repr

/-- A barrier of an instance (spec/02_execution.md R23, R40). PKG barriers live on logical die 0. -/
structure Barr where
  ldie : Nat
  b : Nat
  scope : Nat
  count : Nat
  arrived : Nat
  phase : Bool
deriving DecidableEq, Repr

/-- A launch as its stream record names it (spec/12_host.md R279). -/
structure Launch where
  port : Bool
  strm : Nat
  seq : W32
  asid : Nat
  prio : Nat
  debug : Bool
  msix : Bool
  image : W64
  cmpl : W64
  sig : W64
  sigval : W64
  argva : W64
  arglen : W64
  /-- `GLOBCYC` at consumption. -/
  tm : Nat
  /-- The global cycle up to which the power limit delays it, 0 once that is over, nothing before the delay is drawn (R12). -/
  hold : Option Nat
deriving DecidableEq, Repr

/-- What an instance is doing. -/
inductive IPhase where
  | running
  /-- Draining for pre-emption, until the global cycle at which its bound is over (R49). -/
  | draining (till : Nat)
  /-- Draining for the debugger (R270). -/
  | forced
  | halted
  /-- Pre-empted and saved (R48). -/
  | saved
  /-- Killed or aborted: it retires with this status (R51). -/
  | ending (status : Nat)
  /-- Reset away: it retires without a record (R282). -/
  | vanish
deriving DecidableEq, Repr

/-- An SRAM or HBM word with an error: kind 0 scratch, 1 accumulator element, 2 x, 3 y, 4 z, 5 instruction scratch,
6 HBM (a 32-byte granule), 7 an array row, 8 an HBM granule of which two reads differ, 9 s, 10 g, 11 h, 12 a predicate, 13 a
lane mask, 14 a tile register, 15 a tensor table entry, 16 a shape, 17 a leaf map, 18 a control register; the owning core or
stack or die; the word; uncorrectable or not (spec/05_scratchpad.md R140, spec/07_translation.md R172, spec/11_faults.md R263,
R264). -/
structure ErrMark where
  kind : Nat
  unit : Nat
  idx : Nat
  bad : Bool
deriving DecidableEq, Repr

/-- Whether an error mark stands in a core's own SRAM, not in HBM or an array. -/
def ErrMark.ofCore (e : ErrMark) : Bool := e.kind != 6 && e.kind != 7 && e.kind != 8

/-- A core's saved context (spec/02_execution.md R48): the core record, its scratch and both halves. -/
structure SavedCore where
  core : Core
  scratch : List Host.Cell
  code : List Host.Cell
  errs : List ErrMark
deriving DecidableEq, Repr

/-- A task record in a queue (spec/02_execution.md R36). -/
structure TRec where
  pri : Nat
  data : Vec
deriving DecidableEq, Repr

/-- A kernel instance (spec/02_execution.md). -/
structure Inst where
  id : Nat
  l : Launch
  phase : IPhase
  stages : Nat
  rows : Nat
  cols : Nat
  ldies : Nat
  queues : Nat
  dmap : Nat
  /-- Physical die, anchor and orientation of each logical die. -/
  place : List (Nat × Nat × Nat × Nat)
  /-- Physical cores held, footprint and all (R28). -/
  held : List Nat
  sched : List Resv
  bars : List Barr
  /-- Logical die, logical queue, physical queue of that die (R36). -/
  bind : List (Nat × Nat × Nat)
  start : Nat
  cause : Nat
  faults : Nat
  fpcore : Nat
  flcore : Nat
  ffirst : Option (Nat × Nat)
  freezes : Nat
  delay : Nat
  preempts : Nat
  stWgt : Nat
  stHbm : Nat
  stHost : Nat
  stPeer : Nat
  /-- Order of pre-emption, for R44. -/
  porder : Nat
  cores : List SavedCore
  qsave : List (Nat × Nat × List TRec)
deriving DecidableEq, Repr

/-- A TLB entry of a die (spec/07_translation.md R170 to R172): ASID, virtual page base, log2 size, the leaf word and the
address of its entry; of the host half, the port and the range that the host granted; `bad` marks a parity error. -/
structure TlbEnt where
  asid : Nat
  va : Nat
  log2 : Nat
  leaf : W64
  entry : Nat
  host : Option (Bool × HostPage)
  bad : Bool
deriving DecidableEq, Repr

/-- A walk-cache entry of a die (spec/07_translation.md R171): the non-leaf entry of an ASID that covers the addresses
`va / 2^lo`, and the next table that it names; `bad` marks a parity error. -/
structure WalkEnt where
  asid : Nat
  lo : Nat
  va : Nat
  next : Nat
  bad : Bool
deriving DecidableEq, Repr

/-- An engine that acts for a core or a stream: the core's physical index (0xFFFF without one), its die, its ASID, the
operation that it makes (0 where it has one at a time), and its place in the order of R144: 2 × core + channel, then
collective engines, stack engines, Scarab, Weevil. -/
structure Who where
  core : Nat
  die : Nat
  asid : Nat
  op : Nat
  rank : Nat
deriving DecidableEq, Repr

/-- What a module asks of a peer over Cloeth: accesses to its HBM, and the delivery of a contribution to a collective
(spec/06_ordering.md R162, spec/02_execution.md R54). -/
inductive PeerReq where
  | read (n : Nat)
  | write (bytes : List Byte)
  | atomic (op : Nat) (u eight : Bool) (val cmp : W64)
  | coll (c : Contrib)
deriving DecidableEq, Repr

/-- Whether a request is an access to memory. -/
def PeerReq.isAccess (r : PeerReq) : Bool :=
  match r with
  | .coll _ => false
  | _ => true

/-- A request to a peer from its sending until the operation that made it ends: its tag, its agent, the module and the
physical address as a flat key, the request, and the answer once it has arrived (spec/06_ordering.md R162). -/
structure Fab where
  tag : Nat
  who : Who
  place : Nat
  req : PeerReq
  reply : Option (List Byte)
deriving DecidableEq, Repr

/-- A report that is due: all that its command writes before it stands (spec/06_ordering.md R151), and its own write has not
performed yet. Its agent, its operand address, its bytes, and the fault that its command has met. -/
structure Report where
  who : Who
  addr : W64
  word : List Byte
  fault : Option (Nat × W64)
deriving DecidableEq, Repr

/-- A signature row in an array of its set's home die (spec/08_scarab.md R190). -/
structure SRow where
  set : Nat
  lpage : Nat
  frame : Nat
  age : Nat
  sig : BitVec 256
deriving DecidableEq, Repr

/-- A command in a Scarab complex, in order of arrival (spec/08_scarab.md R198). -/
structure SetOp where
  core : Nat
  chan : Bool
  uid : Nat
  set : Nat
  asid : Nat
  kind : CmdKind
  /-- The bytes of its operand block, read on its start cycle (R363). -/
  blk : List Byte
deriving DecidableEq, Repr

/-- A collective that an engine holds (spec/12_host.md R285). The source is a core's channel command or a stream's record. -/
structure Coll where
  core : Option Nat
  depth : Nat
  slot : Nat
  baddr : Nat
  /-- Issue cycle of its `COLL` (R154). -/
  iss : Nat
  strm : Option (Bool × Nat × W32)
  inst : Nat
  asid : Nat
  nrank : Nat
  myrank : Nat
  cls : Nat
  fmt : Nat
  outfmt : Nat
  ranks : List (Nat × Nat × Nat)
  send : W64
  recv : W64
  status : W64
  count : Nat
  op : Nat
  root : Nat
  /-- Its contribution has gone to the ranks of other modules. -/
  sent : Bool
deriving DecidableEq, Repr

/-- How many collectives of a team, named by its entries, are over at one of its ranks (R285): the number of the rank's next one
(log 26). -/
structure TeamRank where
  ranks : List (Nat × Nat × Nat)
  rank : Nat
  done : Nat
deriving DecidableEq, Repr

/-- One die (spec/01_module.md R10). -/
structure Die where
  queues : Sparse (List TRec)
  bound : List Nat
  tlb : List TlbEnt
  walks : List WalkEnt
  setq : List SetOp
  rows : List SRow
  /-- Overflow slots in use: set and slot (R444). -/
  ovf : List (Nat × Nat)
  coll : Sparse (List Coll)
deriving DecidableEq, Repr

/-- What a stack lane reads or lands on a later base-die cycle (spec/10_stack.md R237): the first three read. -/
inductive KEff where
  /-- An HBM row for the buffer (`KRD`). -/
  | rdBuf (pa pos : Nat)
  /-- A buffer row for HBM (`KWR`). -/
  | rdOut (pos pa : Nat)
  /-- A weight row and an activation (`KMAC8`, `KMAC4`): the first accumulator, the activation's index. -/
  | rdMac (pa first : Nat) (four : Bool) (k : Nat)
  | buf (pos : Nat) (bytes : List Byte)
  | mac (first : Nat) (four : Bool) (w : List Byte) (a : Int)
  | accs (v : List W32)
  | clear
  | hbm (pa : Nat) (bytes : List Byte)
  /-- Bytes for a scratch address of the window, until the row's ports take them (`KACR`). -/
  | win (addr : Nat) (bytes : List Byte)
deriving DecidableEq, Repr

/-- A read or landing of a lane: its base-die cycle, and the issue cycle of its word. -/
structure KPend where
  due : Nat
  iss : Nat
  eff : KEff
deriving DecidableEq, Repr

/-- What a lane does. -/
inductive KPhase where
  | idle
  /-- Loaded, waiting for the refresh phase START (R236). -/
  | loaded
  | running
  /-- `KEND` or an abort: waits for its landings, then reports (R242, R243). -/
  | ending (cause : Nat)
deriving DecidableEq, Repr

/-- One lane of a stack engine (spec/10_stack.md R232). -/
structure Lane where
  phase : KPhase
  prog : Sparse W64
  buf : Sparse Byte
  acc : Sparse W32
  base : List Nat
  /-- The virtual addresses from which R235 translated the bases, and the log2 sizes of their pages. -/
  bva : List (Nat × Nat)
  len : List Nat
  sbase : Nat
  slen : Nat
  idx : Nat
  next : Nat
  t0 : Nat
  word : Nat
  cycles : Nat
  startph : Nat
  sat : Bool
  keep : Bool
  acclive : Bool
  /-- The first cycle after the occupancy of the last lock-step word, and its issue cycle (R237, R244). -/
  lock : Nat
  lockIss : Nat
  disc : Bool
  discOut : Bool
  /-- The ASID of the last keep, and whether the accumulators stand as it kept them (R236). -/
  kept : Option Nat
  stands : Bool
  discard : Bool
  asid : Nat
  status : W64
  core : Nat
  slot : Nat
  baddr : Nat
  depth : Nat
  inst : Nat
  iss : Nat
  pend : List KPend
  /-- What the rows that the present lock-step word has written replaced: an abort leaves the word no effect (R243). -/
  undo : List Host.Cell
deriving DecidableEq, Repr

/-- A stream command in flight (spec/12_host.md R279). -/
inductive SKind where
  | launch (sig : W64) (val : W64) (msix : Bool) (done : Bool)
  | waitv (addr value mask : W64) (cond : Nat)
  | signal (addr val : W64) (add msix : Bool)
  | copy (src dst : W64) (len : Nat)
  | coll (done : Bool)
  /-- The USER event, and its EVSEQ once it is raised. -/
  | event (tag : W64) (seq : Option W32)
  | fence
deriving DecidableEq, Repr

/-- A stream command in flight. -/
structure SCmd where
  seq : W32
  kind : SKind
deriving DecidableEq, Repr

/-- A stream context (spec/12_host.md R277). -/
structure Strm where
  ring : W64
  log2n : Nat
  prio : Nat
  asid : Nat
  en : Bool
  err : Bool
  debug : Bool
  wridx : W32
  consumed : W32
  completed : W32
  errcode : Nat
  errseq : W32
  fly : List SCmd
  /-- Commands completed above COMPLETED. -/
  ahead : List W32
deriving DecidableEq, Repr

/-- An event record (spec/12_host.md R280). `asid` and `va` are what a `WEIGHT_POISON` event names beside its frame (R261); the
record has no bytes for them (log 44). -/
structure Evt where
  ty : Nat
  cause : Nat
  strm : Nat
  seq : W32
  glob : Nat
  cmd : W32
  data : W64
  asid : Nat
  va : Nat
deriving DecidableEq, Repr

/-- How far a miss in the host half has come (spec/07_translation.md R169). -/
inductive PStage where
  /-- A translation request is with the host. -/
  | asked
  /-- The page is not present or not permitted, and 512 page requests are outstanding. -/
  | queued
  /-- A page request is with the host. -/
  | paging
deriving DecidableEq, Repr

/-- A miss of a die in the host half, at the port of its ASID (spec/07_translation.md R169): `tm` is the global cycle of its
page request. -/
structure PReq where
  id : Nat
  die : Nat
  asid : Nat
  va : Nat
  w : Bool
  tm : Nat
  stage : PStage
deriving DecidableEq, Repr

/-- One PCI Express port (spec/12_host.md R277 to R282). -/
structure Port where
  up : Bool
  ats : Bool
  strms : Sparse (Option Strm)
  evring : W64
  evlog : Nat
  even : Bool
  evprod : W32
  evcons : W32
  evlost : W32
  evseq : W32
  held : List Evt
  /-- Refusals that no access has met yet: die, ASID, page (R169). -/
  refused : List (Nat × Nat × Nat)
  preqs : List PReq
  inval : List Nat
  reqid : Nat
  apbase : W64
  apasid : Nat
deriving DecidableEq, Repr

/-- What the module sends out (spec/12_host.md). -/
inductive Out where
  | msix (port : Bool) (vec : Nat)
  | mgmt (port : Bool) (cmd status sel tag : Nat) (data : List Byte)
  | bar2 (port : Bool) (data : Option (List Byte))
  | aer (port : Bool)
  /-- An address translation request and a page request, with the PASID (R169). -/
  | atsReq (port : Bool) (id pasid : Nat) (va : Nat) (w : Bool)
  | pageReq (port : Bool) (id pasid : Nat) (va : Nat) (w : Bool)
  | invDone (port : Bool) (tag : Nat)
  | flitReply (module : Nat) (tag : Nat) (data : List Byte)
  /-- A request to a peer (R162, R54). -/
  | flitReq (module pa : Nat) (tag : Nat) (req : PeerReq)
  | flitResend (cport : Nat)
  /-- What firmware's request to power a stack's channel down returned (R245). -/
  | power (stack status : Nat)
deriving DecidableEq, Repr

/-- A weight range (spec/11_faults.md R260). -/
structure WRange where
  asid : Nat
  va : Nat
  len : Nat
deriving DecidableEq, Repr

/-- The boot window (spec/12_host.md R273 to R276). `st` is STATE; `tm` the global cycle of the claim; `load` the address
and length of a load in progress; `addr` and `len` the fields of `BOOTADDR` and `BOOTLEN`; `before` the address, the length, the
result and the attempts as the last claim found them, which stand again where it loses a tie. -/
structure Boot where
  st : Nat
  tm : Nat
  load : Option (Nat × Nat)
  result : Nat
  attempts : Nat
  addr : W64
  len : Nat
  before : W64 × Nat × Nat × Nat
deriving DecidableEq, Repr

/-- A page in transit (spec/07_translation.md R182, spec/15 R379). -/
structure Move where
  core : Nat
  chan : Bool
  uid : Nat
  asid : Nat
  va : Nat
  spare : Nat
  log2 : Nat
  leafAt : Nat
  spareAt : Nat
  status : W64
deriving DecidableEq, Repr

/-- The module. -/
structure State where
  /-- Package power (R13, R273). -/
  power : Bool
  glob : Nat
  mem : List Host.Cell
  errs : List ErrMark
  cores : Sparse Core
  insts : List Inst
  cands : List Launch
  /-- A launch boundary is being served (R44). -/
  boundary : Bool
  dies : Sparse Die
  lanes : Sparse Lane
  /-- What a loaded lane held before its launch loaded it, for a launch that is cancelled before its first word (R236, R258). -/
  unloaded : Sparse Lane
  ports : Sparse Port
  boot : Boot
  diemask : BitVec 4
  fwMaj : Nat
  fwMin : Nat
  /-- HBM stacks and Cloeth ports that are disabled or down (R14). -/
  stackOff : List Nat
  portDown : List Nat
  fwUp : Bool
  repl : Bool
  retired : List (BitVec 32)
  replmin : Nat
  powerLimit : Nat
  thermal : Bool
  bounds : List Nat
  leakper : W64
  bktmark : W64
  /-- Leaky-bucket counters by class and unit, and those that have raised their event (R265). -/
  buckets : Sparse Nat
  bktrose : List Nat
  /-- Codes of units that predictive events have named and firmware has not retired (R266). -/
  failing : List Nat
  errinjen : Bool
  ctxbase : W64
  setbase : W64
  tlbinv : W64
  tlbiva : W64
  hot : W32
  /-- Stacks whose mid-interval refresh stands postponed, and the cycle of each stack's last one (R244). -/
  postponed : List Nat
  refAt : Sparse Nat
  owes : List Nat
  wranges : Sparse (Option WRange)
  mymod : Nat
  cloeth : Bool
  retries : Sparse Nat
  /-- Contributions of other modules that no collective has taken yet, oldest first (R285). -/
  collrx : List Contrib
  /-- How many collectives of each team are over at each of its ranks on this module (R285, log 26). -/
  teams : List TeamRank
  /-- Accesses to peers' HBM that no answer has ended, and the tag of the next one (R162). -/
  fab : List Fab
  ftag : Nat
  /-- Reports whose writes have not performed yet (R151). -/
  reports : List Report
  /-- What engines have written on the present cycle, for R143 and R144: scratch rows (numbered core × 4,096 + row) with the
  rank of the writer and what the row held before, and the old bytes of HBM and host memory. -/
  rowsNow : List (Nat × Nat × Vec)
  was : List Host.Cell
  /-- Granules of local HBM in which the walks of the present cycle have met a correctable error, to be counted (R265). -/
  met : List Nat
  /-- Frames with an uncorrectable error that dies have named to firmware (R260): it never returns them to use (R261). -/
  lost : List Nat
  moves : List Move
  parity : Nat
  rr : Nat
  norder : Nat
  nuid : Nat
  inbox : List Instr
  /-- Window accesses of hosts that wait (R160, R163, R445), oldest first. -/
  waiting : List Instr
  /-- Accesses of peers that wait, with their ports (R143, R163), oldest first. -/
  flits : List (BitVec 7 × Flit)
  out : List Out
  turn : List Nat
  cur : Nat
  klane : Nat
  debt : Nat
  free : Nat
  /-- The global cycle of the last leak (R265). -/
  leakAt : Nat
  /-- How many times power came up before: what Helelle chooses may differ at each (R244, R443). -/
  epoch : Nat
deriving DecidableEq, Repr

/-- Why the model stops with a fault. No meaning raises one: each fault of the spec is a trap, an unwind or a status that
the machine takes as a next state. -/
inductive Fault where
  /-- Raised by nothing: the module without power makes no step of its own, and inputs still arrive. Safe. -/
  | noPower
deriving DecidableEq, Repr

/-- Why the model gives no meaning. -/
inductive Refusal where
  /-- An instruction whose meaning is not written; raised by an arm of exec alone. Safe. -/
  | notModelled (mnemonic : String)
  /-- The inbox holds a slot word or a stack word, which no agent outside a core can send; raised by step. Safe. -/
  | notAnEvent
deriving DecidableEq, Repr

/-- An empty channel. -/
def Chan.idle : Chan := ⟨[], 0, 0, none⟩

/-- A core as it stands when no instance holds it (log 2). -/
def Core.idle (id : Nat) : Core :=
  { id := id, run := false, exited := true, inst := 0, grp := 0xFFFF, lrow := 0, lcol := 0, ldie := 0, cyc := 0
    freeze := 0, frozen := false, s := [], g := [], h := [], x := [], y := [], p := [], w := [], t := [], acc := [], z := [], cr := []
    own := [], strm := [], wq := [], tt := [], statAt := [], shape := [], leaf := [], maps := [], mres := 0, mdirty := 0
    half := false, pc := 0, nhalf := false, npc := 0, rep := 0, rlen := 0, armed := [], wrA := false, wrB := false
    pend := [], busy := [], c0 := Chan.idle, c1 := Chan.idle, crgn := [], flt := none, owed := [], stub := false
    stall := none, stopAt := none, arrph := 0, atDrain := false, stopped := false, weevil := [] }

/-- A die with nothing in it. -/
def Die.empty : Die := ⟨[], [], [], [], [], [], [], []⟩

/-- A lane with nothing in it (log 2). -/
def Lane.idle : Lane :=
  { phase := .idle, prog := [], buf := [], acc := [], base := [0, 0, 0, 0], bva := [(0, 0), (0, 0), (0, 0), (0, 0)], len := [0, 0, 0, 0]
    sbase := 0, slen := 0
    idx := 0, next := 0, t0 := 0, word := 0, cycles := 0, startph := 0, sat := false, keep := false, acclive := false, lock := 0, lockIss := 0
    disc := false, discOut := false, kept := none, stands := false, discard := false, asid := 0, status := 0, core := 0, slot := 0
    baddr := 0, depth := 0, inst := 0, iss := 0, pend := [], undo := [] }

/-- A stream context at power-up: every field zero (R277). -/
def Strm.zero : Strm := ⟨0, 0, 0, 0, false, false, false, 0, 0, 0, 0, 0, [], []⟩

/-- A port at power-up: its link is up, its contexts are zero, its enables are clear (R273, R277, R280). -/
def Port.zero : Port :=
  { up := true, ats := false, strms := [], evring := 0, evlog := 0, even := false, evprod := 0, evcons := 0, evlost := 0
    evseq := 0, held := [], refused := [], preqs := [], inval := [], reqid := 0, apbase := 0, apasid := 0 }

/-- The module right after power-up: the boot window open (R273), the reset values of every register, memory with nothing
listed (log 2 to log 6 name the values that the spec does not give). -/
def State.reset : State :=
  { power := true, glob := 0, mem := [], errs := [], cores := [], insts := [], cands := [], boundary := false, dies := [], lanes := [], unloaded := []
    ports := [], boot := ⟨0, 0, none, 0, 0, 0, 0, (0, 0, 0, 0)⟩, diemask := 0xF#4, fwMaj := 0, fwMin := 0, stackOff := [], portDown := []
    fwUp := false, repl := false, retired := [], replmin := 2240, powerLimit := 4600, thermal := false
    bounds := [200, 200, 200, 200], leakper := 0x100000000#64, bktmark := 0x0400004000400040#64, buckets := []
    bktrose := [], failing := [], errinjen := false, ctxbase := 0, setbase := 0, tlbinv := 0, tlbiva := 0, hot := 0, postponed := [], refAt := [], owes := []
    wranges := [], mymod := 0, cloeth := false, retries := [], collrx := [], teams := [], fab := [], ftag := 0, reports := [], rowsNow := [], was := [], met := [], lost := [], moves := [], parity := 0, rr := 0
    norder := 0, nuid := 0, inbox := [], waiting := [], flits := [], out := [], turn := [], cur := 0, klane := 0, debt := 0, free := 0, leakAt := 0, epoch := 0 }

end Sys2Proof.Machine
end

