-- ==== Sys2Proof/Machine/Ops.lean ====
section
/-! DEFINITION. The named operations that every meaning goes through: cores and their registers (rotation, fixed registers),
memory, effects in flight, detecting a fault, taking an exception and returning from one. -/

namespace Sys2Proof.Machine

/-- The three outcomes of this machine. -/
abbrev Res := Host.Outcome State Fault Refusal

/-! ### Tables of the module -/

/-- The core of a physical index. -/
def State.core (s : State) (k : Nat) : Core := (Sparse.find s.cores k).getD (Core.idle k)

/-- Replaces the core of a physical index. -/
def State.setCore (s : State) (k : Nat) (c : Core) : State := { s with cores := Sparse.put s.cores k c }

/-- Changes one core. -/
def State.onCore (s : State) (k : Nat) (f : Core → Core) : State := s.setCore k (f (s.core k))

/-- The core that issues. -/
def State.me (s : State) : Core := s.core s.cur

/-- The port 0 or 1. -/
def State.port (s : State) (p : Bool) : Port := (Sparse.find s.ports p.toNat).getD Port.zero

/-- Changes one port. -/
def State.onPort (s : State) (p : Bool) (f : Port → Port) : State :=
  { s with ports := Sparse.put s.ports p.toNat (f (s.port p)) }

/-- One die. -/
def State.die (s : State) (d : Nat) : Die := (Sparse.find s.dies d).getD Die.empty

/-- Changes one die. -/
def State.onDie (s : State) (d : Nat) (f : Die → Die) : State := { s with dies := Sparse.put s.dies d (f (s.die d)) }

/-- One lane, numbered stack × 16 + lane. -/
def State.laneAt (s : State) (l : Nat) : Lane := (Sparse.find s.lanes l).getD Lane.idle

/-- Changes one lane. -/
def State.onLane (s : State) (l : Nat) (f : Lane → Lane) : State :=
  { s with lanes := Sparse.put s.lanes l (f (s.laneAt l)) }

/-- The instance of an identifier. -/
def State.inst? (s : State) (i : Nat) : Option Inst := s.insts.find? (fun x => x.id == i)

/-- Changes one instance. -/
def State.onInst (s : State) (i : Nat) (f : Inst → Inst) : State :=
  { s with insts := s.insts.map (fun x => if x.id == i then f x else x) }

/-- One stream context. -/
def State.strm (s : State) (p : Bool) (n : Nat) : Strm := (((Sparse.find (s.port p).strms n).getD none).getD Strm.zero)

/-- Changes one stream context. -/
def State.onStrm (s : State) (p : Bool) (n : Nat) (f : Strm → Strm) : State :=
  s.onPort p (fun q => { q with strms := Sparse.put q.strms n (some (f (s.strm p n))) })

/-- A 32-bit counter saturates at all ones (R52). -/
def sat32 (n : Nat) : Nat := min n 0xFFFFFFFF

/-- The die of a physical index (R15, R16). -/
def dieOf (phys : Nat) : Nat := phys / 1024

/-! ### Memory -/

/-- What a byte that nothing has written reads as (log 4). -/
def memDefault : Byte := 0

/-- Whether the list is in its canonical form. -/
def memWf (m : List Host.Cell) : Bool := Sparse.wf memDefault m

/-- One byte. -/
def rdByte (m : List Host.Cell) (a : Nat) : Byte := Sparse.get memDefault m a

/-- Writes one byte. -/
def wrByte (m : List Host.Cell) (a : Nat) (v : Byte) : List Host.Cell := Sparse.set memDefault m a v

/-- `n` bytes from an address up. -/
def rdBytes (m : List Host.Cell) : Nat → Nat → List Byte
  | _, 0 => []
  | a, n + 1 => rdByte m a :: rdBytes m (a + 1) n

/-- Writes a byte list from an address up. -/
def wrBytes (m : List Host.Cell) : Nat → List Byte → List Host.Cell
  | _, [] => m
  | a, b :: bs => wrBytes (wrByte m a b) (a + 1) bs

/-- A little-endian value of `n` bytes (R3). -/
def rdLE (m : List Host.Cell) (a n : Nat) : Nat := leNat (rdBytes m a n)

/-- Writes the bytes of a value whose mask bit is set, from byte `i` on. -/
def wrMasked (m : List Host.Cell) (a : Nat) (k : Nat) : List Byte → List Host.Cell
  | [] => m
  | b :: bs => wrMasked (if bitOf k 0 then wrByte m a b else m) (a + 1) (k / 2) bs

/-- The flat key of a scratch byte: the scratch address of R15. -/
def scrKey (phys off : Nat) : Nat := phys * 2 ^ 18 + off % 2 ^ 18

/-- The flat key of an instruction-scratch byte. -/
def iscKey (phys : Nat) (half : Bool) (off : Nat) : Nat := 2 ^ 32 + phys * 2 ^ 15 + half.toNat * 2 ^ 14 + off % 2 ^ 14

/-- The flat key of an HBM byte (R165). -/
def hbmKey (pa : Nat) : Nat := 2 ^ 41 + pa % 2 ^ 41

/-- The flat key of a host byte at a bus address of a port. -/
def hostKey (p : Bool) (bus : Nat) : Nat := (p.toNat + 1) * 2 ^ 64 + bus % 2 ^ 64

/-- The flat key of a byte of a peer module. -/
def peerKey (module pa : Nat) : Nat := 2 ^ 70 + module * 2 ^ 46 + pa % 2 ^ 46

/-- The little-endian field of `n` bytes at an offset of a byte list. -/
def fieldAt (b : List Byte) (off n : Nat) : Nat := leNat ((b.drop off).take n)

/-- Row `r` of a core's scratch as a 512-bit value. -/
def rdRow (m : List Host.Cell) (phys r : Nat) : Vec := BitVec.ofNat 512 (rdLE m (scrKey phys (64 * r)) 64)

/-! ### Registers (R55, R56, R62, R70) -/

/-- A control register kept as plain storage. -/
def Core.crv (c : Core) (n : Nat) : Nat := (Sparse.get 0 c.cr n).toNat

/-- Writes a control register's storage. -/
def Core.setCr (c : Core) (n : Nat) (v : W64) : Core := { c with cr := Sparse.set 0 c.cr n v }

/-- The physical register of logical `n` in a rotating region of base `b`, size `z` and rotation `rb` (R70). -/
def rot (b z rb n : Nat) : Nat := if b ≤ n && n < b + z then b + (n - b + rb) % z else n

/-- The physical `s` register. -/
def Core.phS (c : Core) (n : Nat) : Nat := rot 16 16 (c.crv 0x00A) n

/-- The physical `x` or `y` register. -/
def Core.phV (c : Core) (y : Bool) (n : Nat) : Nat := rot 32 32 (c.crv (if y then 0x00C else 0x00B)) n

/-- The physical predicate. -/
def Core.phP (c : Core) (n : Nat) : Nat := rot 8 8 (c.crv 0x00D) n

/-- An `s` register by its physical number: `s0` reads 0 (R55). -/
def Core.rdS (c : Core) (n : Nat) : W64 := if n = 0 then 0 else Sparse.get 0 c.s n

/-- An `s` register by its logical number. -/
def Core.sreg (c : Core) (n : BitVec 5) : W64 := c.rdS (c.phS n.toNat)

/-- A `g` register of C0 or an `h` register of C1. -/
def Core.greg (c : Core) (slot : Bool) (n : BitVec 5) : W64 := Sparse.get 0 (if slot then c.h else c.g) n.toNat

/-- An `x` register of V0 or a `y` register of V1, by its logical number. -/
def Core.vreg (c : Core) (slot : Bool) (n : BitVec 6) : Nat :=
  (Sparse.get 0 (if slot then c.y else c.x) (c.phV slot n.toNat)).toNat

/-- A predicate by its physical number: `p0` reads 1. -/
def Core.rdP (c : Core) (n : Nat) : Bool := if n = 0 then true else Sparse.get false c.p n

/-- A predicate by its logical number. -/
def Core.preg (c : Core) (n : BitVec 4) : Bool := c.rdP (c.phP n.toNat)

/-- A lane mask: `w0` reads all ones. -/
def Core.wreg (c : Core) (n : Nat) : Nat := if n = 0 then 2 ^ 64 - 1 else (Sparse.get 0 c.w n).toNat

/-- A tree-scratch entry. -/
def Core.zreg (c : Core) (n : Nat) : Nat := (Sparse.get 0 c.z (n % 512)).toNat

/-- An accumulator element: bank, row 0 to 16, column 0 to 128. -/
def Core.accAt (c : Core) (bank row col : Nat) : BitVec 48 := Sparse.get 0 c.acc (bank * 4096 + row * 129 + col)

/-- Row `r` of a tile. -/
def Core.tileRow (c : Core) (t r : Nat) : Vec := Sparse.get 0 c.t (t * 16 + r)

/-- Owner state of a quarter; an unlisted quarter is CORE (R25, R115). -/
def Core.owner (c : Core) (q : Nat) : Owner := Sparse.get .core c.own q

/-- Whether a guard is true: the predicate differs from the negate bit (R66). -/
def Core.guard (c : Core) (g : BitVec 5) : Bool := c.preg (g.extractLsb' 0 4) != g.getLsbD 4

/-- Writes a landed 64-bit register; a write to `s0` is discarded (R56). -/
def Core.setReg (c : Core) (f : File) (n : Nat) (v : W64) : Core :=
  match f with
  | .s => if n = 0 then c else { c with s := Sparse.set 0 c.s n v }
  | .g => { c with g := Sparse.set 0 c.g n v }
  | .h => { c with h := Sparse.set 0 c.h n v }

/-- Writes the bits of a vector register that the mask selects (R68). -/
def Core.setVec (c : Core) (y : Bool) (n : Nat) (v m : Vec) : Core :=
  let old := Sparse.get 0 (if y then c.y else c.x) n
  let new := (old &&& ~~~m) ||| (v &&& m)
  if y then { c with y := Sparse.set 0 c.y n new } else { c with x := Sparse.set 0 c.x n new }

/-- Writes a predicate by its physical number; `p0` is discarded (R56). -/
def Core.setP (c : Core) (n : Nat) (v : Bool) : Core :=
  if n = 0 then c else { c with p := Sparse.set false c.p n v }

/-- Writes the bits of a lane mask that `m` selects; `w0` is discarded (R56). -/
def Core.setW (c : Core) (n : Nat) (v m : W64) : Core :=
  if n = 0 then c
  else { c with w := Sparse.set 0 c.w n ((Sparse.get 0 c.w n &&& ~~~m) ||| (v &&& m)) }

/-- Writes tree-scratch entries. -/
def Core.setZs (c : Core) : List (Nat × W32) → Core
  | [] => c
  | e :: l => Core.setZs { c with z := Sparse.set 0 c.z (e.1 % 512) e.2 } l

/-- Writes accumulator elements of a bank. -/
def Core.setAccs (c : Core) (bank : Nat) : List (Nat × BitVec 48) → Core
  | [] => c
  | e :: l => Core.setAccs { c with acc := Sparse.set 0 c.acc (bank * 4096 + e.1) e.2 } bank l

/-- Sets the owner of `n` quarters from `q` up. -/
def Core.setOwn (c : Core) (o : Owner) : Nat → Nat → Core
  | _, 0 => c
  | q, n + 1 => Core.setOwn { c with own := Sparse.set .core c.own q o } o (q + 1) n

/-- The bundle's address as TRAPBUNDLE holds it (R252). -/
def Core.baddr (c : Core) : Nat := c.half.toNat * 2 ^ 14 + c.pc

/-! ### Effects in flight (R61, R62) -/

/-- An effect of the operation in `slot`, `lat` task cycles after its issue. -/
def Core.push (c : Core) (slot lat : Nat) (e : Eff) : Core :=
  { c with pend := c.pend ++ [⟨c.cyc + lat, c.cyc, slot, false, c.baddr, e⟩] }

/-- An effect of an `XCP` (R63). -/
def Core.pushX (c : Core) (slot : Nat) (e : Eff) : Core :=
  { c with pend := c.pend ++ [⟨c.cyc + 2, c.cyc, slot, true, c.baddr, e⟩] }

/-- A result for an `s` register. -/
def Core.landS (c : Core) (lat : Nat) (d : BitVec 5) (v : W64) : Core := c.push 0 lat (.reg .s (c.phS d.toNat) v)

/-- A result for a predicate, bound through `RB.P` now. -/
def Core.landP (c : Core) (lat : Nat) (d : BitVec 4) (v : Bool) : Core := c.push 0 lat (.pred (c.phP d.toNat) v)

/-- An operation of the issuing core: with a true guard it acts, with a false one it has no effect (R66). -/
def State.act (s : State) (g : BitVec 5) (f : Core → Core) : Res :=
  .next (if s.me.guard g then s.setCore s.cur (f s.me) else s)

/-! ### Containment depth and detecting a fault (R247 to R250, R257) -/

/-- A cause that R247 routes to the stub, whatever region is open. -/
def stubCause (cause : Nat) : Bool := cause ≤ 0x03 || cause == 0x15 || cause == 0x16

/-- Rank of a fault within one detection cycle: slots in order, then engines (R250). -/
def fltRank (slot : Nat) (eng : Bool) : Nat := slot + (if eng then 8 else 0)

/-- Records a fault at its detection cycle, which is the core's present task cycle. The first stands; on one cycle the
first slot stands; every other one sets MULTI (R249, R250). `depth` is the region an engine command belongs to; a slot fault
names depth 4, which no region exceeds, and unwinds the one that is innermost once the bundle of f has issued (R257, log 42). -/
def Core.detect (c : Core) (slot : Nat) (eng : Bool) (cause sub : Nat) (data : W64) (baddr depth : Nat) (issue : Bool) :
    Core :=
  let d := if stubCause cause || c.exited then 0 else if eng then depth else 4
  let new : Flt := ⟨c.cyc, c.cyc, cause, sub, slot, eng, data, baddr, false, d, issue, none⟩
  match c.flt with
  | none => { c with flt := some new }
  | some o =>
    if o.f = c.cyc && !o.issue && fltRank slot eng < fltRank o.slot o.eng then
      { c with flt := some { new with multi := true } }
    else { c with flt := some { o with multi := true } }

/-- A core-slot fault of an effect in flight. -/
def Core.slotFault (c : Core) (p : Pend) (cause : Nat) (data : W64) : Core :=
  c.detect p.slot false cause 0 data p.baddr 0 false

/-- A core-slot fault of the operation that issues now. -/
def Core.faultNow (c : Core) (slot cause : Nat) (data : W64) : Core :=
  c.detect slot false cause 0 data c.baddr 0 false

/-! ### Taking an exception and returning from one (R251, R252, R254) -/

/-- The first unissued bundle and the issues not made (R249, R252): the bundle that stands unissued, else the one after
the bundle that issued last, whose further issues are not made. -/
def Core.unissued (c : Core) : Nat × Nat :=
  match c.stopAt with
  | some n => (c.pc, n)
  | none => if c.rep = 0 then (c.pc, 0) else (c.pc + c.rlen, c.rep)

/-- The trap registers as a trap entry (`stub` set) or an unwind writes them (R252). -/
def Core.trapRegs (c : Core) (f : Flt) (stub : Bool) : Core :=
  let u := c.unissued
  let cause := stub.toNat * 2 ^ 31 + f.multi.toNat * 2 ^ 24 + u.2 % 32 * 2 ^ 16 + f.sub % 256 * 2 ^ 8 + f.cause % 256
  ((((c.setCr 0x048 (BitVec.ofNat 64 cause)).setCr 0x049
    (BitVec.ofNat 64 (c.half.toNat * 2 ^ 14 + u.1 % 2 ^ 14))).setCr 0x04A
    (BitVec.ofNat 64 f.baddr)).setCr 0x04B (BitVec.ofNat 64 (f.eng.toNat * 8 + f.slot))).setCr 0x04C f.data

/-- Trap entry (R251): the trap registers are written, every slot is disarmed, the core enters stub mode and its next
bundle is at 14,336 + OFF of the current half. Nothing else of the core changes. -/
def Core.trapEntry (c : Core) (f : Flt) : Core :=
  { c.trapRegs f true with
    armed := [], stub := true, flt := none, stall := none, stopAt := none, rep := 0, rlen := 0
    pc := 14336 + c.crv 0x080 % 2048 }

/-- `TRET` (R254): leaves stub mode and issues the bundle at `TRAPADDR` next, in its half, with every slot disarmed. -/
def Core.trapReturn (c : Core) : Core :=
  let a := c.crv 0x049
  { c.setCr 0x048 (BitVec.ofNat 64 (c.crv 0x048 % 2 ^ 31)) with
    stub := false, armed := [], nhalf := bitOf a 14, npc := a % 2 ^ 14 }

/-- One trap or unwind of an instance (R251): FAULTS adds 1, and the first fixes CAUSE, FPCORE and FLCORE: the lowest
`GLOBCYC`, then the lowest physical index. -/
def State.countFault (s : State) (k cause glob : Nat) : State :=
  let c := s.core k
  s.onInst c.inst (fun i =>
    let i' := { i with faults := sat32 (i.faults + 1) }
    let first := match i.ffirst with
      | none => true
      | some o => glob < o.1 || (glob == o.1 && k < o.2)
    if first then
      { i' with cause := cause, fpcore := k, flcore := c.ldie * 576 + c.lrow * 24 + c.lcol, ffirst := some (glob, k) }
    else i')

/-- The detection time of a fault just recorded (R251). -/
def State.stamp (s : State) (k : Nat) : State :=
  match (s.core k).flt with
  | some f => if f.glob.isSome then s else s.onCore k (fun c => { c with flt := some { f with glob := some s.glob } })
  | none => s

/-- An engine fault of a command of a core: it is detected on the core's first task cycle after the engine records it
(R249). -/
def Core.engFault (c : Core) (slot cause sub : Nat) (data : W64) (baddr depth : Nat) : Core :=
  { c with pend := c.pend ++ [⟨c.cyc + 1, c.cyc, slot, false, baddr, .engFault cause sub data depth⟩] }

/-! ### The group of a core -/

/-- Whether two cores share a lockstep group (R32). -/
def sameGroup (a b : Core) : Bool :=
  a.id == b.id || (a.inst == b.inst && a.grp == b.grp && a.grp != 0xFFFF && a.run && b.run)

/-- Physical indices of the cores of an instance. -/
def State.instCores (s : State) (i : Nat) : List Nat :=
  (s.cores.filter (fun e => e.2.run && e.2.inst == i)).map (·.1)

/-- Physical indices of the cores that share a core's group. -/
def State.groupOf (s : State) (k : Nat) : List Nat :=
  (s.cores.filter (fun e => sameGroup (s.core k) e.2)).map (·.1)

/-- A free choice of the hardware, and the counter that it advances (log 8). -/
def State.choose (s : State) : Nat × State := (Config.choice s.free, { s with free := s.free + 1 })

/-- Adds something that the module sends. -/
def State.send (s : State) (o : Out) : State := { s with out := s.out ++ [o] }

end Sys2Proof.Machine
end

