-- ==== Sys2Proof/Machine/Operands.lean ====
section
/-! DEFINITION. Operand forms: immediates (spec/13_encoding.md R293, spec/14 R313), stepped operands (spec/03_core.md R76),
lanes of vector operands (spec/16 R397, R398), scratch addresses (spec/02_execution.md R15, spec/14 R357, spec/16 R412) and
the operand addresses of engine commands (spec/14 R314). -/

namespace Sys2Proof.Machine

/-- An immediate sign-extended to an integer (R313). -/
def immInt {n : Nat} (i : Imm n) : Int :=
  match i with
  | .short v => v.toInt
  | .ext v => v.toInt

/-- An immediate sign-extended to 64 bits. -/
def imm64 {n : Nat} (i : Imm n) : W64 := BitVec.ofInt 64 (immInt i)

/-- IMM12 unsigned, or the extension as an unsigned 32-bit value (R302). -/
def immU (i : Imm 12) : Nat :=
  match i with
  | .short v => v.toNat
  | .ext v => v.toNat

/-- A field plus its stepped offset, formed exactly (R76). -/
def stepped (v : Nat) (o : Int) : Int := v + o

/-- A field plus its stepped offset under a modulus that its entry states. -/
def steppedMod (v : Nat) (o : Int) (m : Nat) : Nat := ((v + o) % (m : Int)).toNat

/-- A 64-bit register value plus a step, modulo 2^64 (R315). -/
def stepped64 (v : W64) (o : Int) : W64 := BitVec.ofInt 64 (v.toNat + o)

/-! ### Scratch addresses -/

/-- Where a scratch address of R15 leads: the physical index and the offset, or nothing where R15 makes it `ADDRESS`. -/
def scratchAt (diemask : BitVec 4) (a : Nat) : Option (Nat × Nat) :=
  let phys := a / 2 ^ 18
  if a < 2 ^ 30 && (phys / 16) % 64 < 36 && diemask.getLsbD (phys / 1024) then some (phys, a % 2 ^ 18) else none

/-- The offset of an element of the core's own scratch: address s[A] + OFF × e, aligned down to e, or nothing where R357
makes it `ADDRESS`. -/
def ownElem (phys : Nat) (base : W64) (off : BitVec 8) (esz : BitVec 2) : Option Nat :=
  let e : Nat := 2 ^ esz.toNat
  let a := (BitVec.ofInt 64 (Int.ofNat base.toNat + off.toInt * Int.ofNat e)).toNat
  if a < 2 ^ 30 && a / 2 ^ 18 == phys then some (a % 2 ^ 18 / e * e) else none

/-- The row offset that `TNEXT` and `ENQ` name: a scratch address of the core itself, aligned down to its row (R345). -/
def ownRow (phys : Nat) (a : W64) : Option Nat :=
  if a.toNat < 2 ^ 30 && a.toNat / 2 ^ 18 == phys then some (a.toNat % 2 ^ 18 / 64) else none

/-- The byte offset of a VM operand (R298, R412): (ROW × 64 + ADD + step) mod 2^18. -/
def vmAddr (c : Core) (slot : Bool) (o : VM) (st : Int) : Nat :=
  let add : Nat := if o.ab then c.vreg slot o.a % 2 ^ 18 else 0
  ((Int.ofNat (o.row.toNat * 64 + add) + st) % (2 ^ 18 : Int)).toNat

/-! ### Lanes of vector operands -/

/-- Lane width of a type (R397). -/
def laneW (ty : BitVec 4) : Nat := tyBits ty.toNat

/-- Lane count of a type. -/
def laneN (ty : BitVec 4) : Nat := 512 / tyBits ty.toNat

/-- Applies a function lane by lane to one source. -/
def map1 (w n : Nat) (f : Nat → Nat) (a : Nat) : Nat := packN w ((lanesN w n a).map f)

/-- Applies a function lane by lane to two sources. -/
def map2 (w n : Nat) (f : Nat → Nat → Nat) (a b : Nat) : Nat :=
  packN w (List.zipWith f (lanesN w n a) (lanesN w n b))

/-- Applies a function lane by lane to three sources. -/
def map3 (w n : Nat) (f : Nat → Nat → Nat → Nat) (a b c : Nat) : Nat :=
  packN w (List.zipWith (fun x yz => f x yz.1 yz.2) (lanesN w n a) (List.zip (lanesN w n b) (lanesN w n c)))

/-- The lanes 0 to n − 1 whose mask bit is set, with their numbers. -/
def activeLanes (w n m v : Nat) : List (Nat × Nat) :=
  ((List.range n).filter (fun i => bitOf m (i % 64))).map (fun i => (i, lane w v i))

/-! ### Operand addresses (R314) -/

/-- An operand address: a device virtual address, a scratch byte of a core, or a byte of the issuing core's instruction
scratch. -/
inductive Opnd where
  | va (a : Nat)
  | scr (phys off : Nat)
  | isc (half : Bool) (off : Nat)
deriving DecidableEq, Repr

/-- The operand address of a register value, or nothing where acceptance refuses it with `ADDRESS` for its form (R314,
R164). A scratch address that R15 makes `ADDRESS` fails at its access, and here already has no place. -/
def opndOf (self : Nat) (v : W64) : Option Opnd :=
  let n := v.toNat
  match n / 2 ^ 62 with
  | 0 => if n < 2 ^ 57 then some (.va n) else none
  | 2 => if n % 2 ^ 62 < 2 ^ 32 then some (.scr (n % 2 ^ 32 / 2 ^ 18) (n % 2 ^ 18)) else none
  | 3 =>
    let r := n % 2 ^ 62
    if r < 2 ^ 30 && r / 2 ^ 18 == self && r % 2 ^ 18 < 2 ^ 15 then some (.isc (bitOf r 14) (r % 2 ^ 14)) else none
  | _ => none

/-- Adds bytes to an operand address. -/
def Opnd.plus (o : Opnd) (k : Nat) : Opnd :=
  match o with
  | .va a => .va (a + k)
  | .scr p f => .scr ((p * 2 ^ 18 + f + k) / 2 ^ 18) ((p * 2 ^ 18 + f + k) % 2 ^ 18)
  | .isc h f => .isc h (f + k)

/-- Whether the address is a multiple of `n`. -/
def Opnd.aligned (o : Opnd) (n : Nat) : Bool :=
  match o with
  | .va a => a % n == 0
  | .scr _ f => f % n == 0
  | .isc _ f => f % n == 0

/-- Instruction scratch. -/
def Opnd.isIsc : Opnd → Bool
  | .isc _ _ => true
  | _ => false

end Sys2Proof.Machine
end

