-- ==== Sys2Proof/Machine/Flags.lean ====
section
/-! DEFINITION. Every flag computation: compare conditions (spec/13_encoding.md R294, spec/16 R405), predicate truth tables
(spec/15 R377), mask bits of the vector compares, and the sticky pair `SPO` and `SPU` (spec/04_numbers.md R97,
spec/09_lacewing.md R222). -/

namespace Sys2Proof.Machine

/-- A scalar condition of R294 on `n`-bit values: =, ≠, ≥ unsigned, < unsigned, ≥ signed, < signed. -/
def condHolds (n cc a b : Nat) : Bool :=
  match cc with
  | 0 => a == b
  | 1 => a != b
  | 2 => decide (b ≤ a)
  | 3 => decide (a < b)
  | 4 => decide (sgn n b ≤ sgn n a)
  | _ => decide (sgn n a < sgn n b)

/-- The predicate result of `PLOG` (R377). -/
def plogBit (tt : BitVec 4) (a b : Bool) : Bool := tt.getLsbD (2 * a.toNat + b.toNat)

/-- A floating condition of `VCMP` (R405). -/
def fcond (cc : Nat) (a b : Fp) : Bool :=
  match cc with
  | 0 => a.eq b
  | 1 => !a.eq b
  | 2 => a.lt b
  | 3 => a.lt b || a.eq b
  | 4 => b.lt a
  | 5 => b.lt a || a.eq b
  | _ => a.isNan || b.isNan

/-- An integer condition of `VICMP` (R405). -/
def icond (cc : Nat) (x y : Int) : Bool :=
  match cc with
  | 0 => x == y
  | 1 => x != y
  | 2 => decide (x < y)
  | 3 => decide (x ≤ y)
  | 4 => decide (y < x)
  | _ => decide (y ≤ x)

/-- The bits of a list of flags, the first least significant. -/
def flagBits : List Bool → Nat
  | [] => 0
  | b :: bs => b.toNat + 2 * flagBits bs

/-- The mask bits that an operation of `n` lanes writes: active lanes, and every bit at or above n (R399). -/
def maskWrite (n m : Nat) : Nat := (m % 2 ^ n) + (2 ^ 64 - 2 ^ n)

/-- Sets `SPO` and `SPU` where a result asks for it, on the cycle on which the results land (R97, R222). -/
def Core.pushSticky (c : Core) (lat : Nat) (spo spu : Bool) : Core :=
  let c := if spo then c.push 3 lat (.crOr 0x022 1) else c
  if spu then c.push 3 lat (.crOr 0x023 1) else c

end Sys2Proof.Machine
end

