-- ==== Sys2Proof/Machine/Scalar.lean ====
section
/-! DEFINITION. The scalar integer family of the S slot and the C-slot integer subset (spec/03_core.md R60; spec/14 R316,
R317, R325, R326, R344, R358; spec/15 R361, R372, R377, R384; spec/16 R433): each result lands after its latency (R61). -/

namespace Sys2Proof.Machine

/-! ### The functions of 64-bit values -/

/-- `ADD` (R316). -/
def aluAdd (s u : Bool) (x y : W64) : W64 := BitVec.ofNat 64 (narrow 64 s u (rdInt 64 u x.toNat + rdInt 64 u y.toNat))

/-- `SUB` (R361). -/
def aluSub (s u : Bool) (x y : W64) : W64 := BitVec.ofNat 64 (narrow 64 s u (rdInt 64 u x.toNat - rdInt 64 u y.toNat))

/-- `MUL` (R361). -/
def aluMul (s u : Bool) (x y : W64) : W64 := BitVec.ofNat 64 (narrow 64 s u (rdInt 64 u x.toNat * rdInt 64 u y.toNat))

/-- `MULH` (R361): floor(x × y / 2^64) mod 2^64. -/
def aluMulh (u : Bool) (x y : W64) : W64 := BitVec.ofInt 64 (rdInt 64 u x.toNat * rdInt 64 u y.toNat / (2 ^ 64 : Int))

/-- `DIV` (R344). -/
def aluDiv (u : Bool) (a b : W64) : W64 :=
  if b = 0 then BitVec.allOnes 64
  else if u then BitVec.ofNat 64 (a.toNat / b.toNat)
  else BitVec.ofInt 64 (Int.tdiv a.toInt b.toInt)

/-- `REM` (R361). -/
def aluRem (u : Bool) (a b : W64) : W64 :=
  if b = 0 then a
  else if u then BitVec.ofNat 64 (a.toNat % b.toNat)
  else BitVec.ofInt 64 (Int.tmod a.toInt b.toInt)

/-- `SHL` (R361). -/
def aluShl (a b : W64) : W64 := a <<< (b.toNat % 64)

/-- `SHR` (R361). -/
def aluShr (a b : W64) : W64 := a >>> (b.toNat % 64)

/-- `SRA` (R361). -/
def aluSra (a b : W64) : W64 := a.sshiftRight (b.toNat % 64)

/-- `ROTL` (R361). -/
def aluRotl (a b : W64) : W64 := a.rotateLeft (b.toNat % 64)

/-- `CLZ` (R325). -/
def aluClz (a : W64) : W64 := BitVec.ofNat 64 (clz64 a.toNat)

/-- `POPC` (R361). -/
def aluPopc (a : W64) : W64 := BitVec.ofNat 64 (popN 64 a.toNat)

/-- `MIN` (R361). -/
def aluMin (u : Bool) (a b : W64) : W64 := if rdInt 64 u a.toNat ≤ rdInt 64 u b.toNat then a else b

/-- `MAX` (R361). -/
def aluMax (u : Bool) (a b : W64) : W64 := if rdInt 64 u b.toNat ≤ rdInt 64 u a.toNat then a else b

/-- `LIH` (R358): keeps [31:0] and replaces [63:32]. -/
def aluLih (old imm : W64) : W64 := BitVec.ofNat 64 (old.toNat % 2 ^ 32 + imm.toNat % 2 ^ 32 * 2 ^ 32)

/-! ### Meanings: S slot -/

/-- `NOP` of the S slot (R372): no effect. -/
def execNopS (_g : BitVec 5) (st : State) : Res := .next st

/-- `ADD` of two registers (R316). -/
def execAddReg (g d a b : BitVec 5) (u s : Bool) (st : State) : Res :=
  st.act g (fun c => c.landS 1 d (aluAdd s u (c.sreg a) (c.sreg b)))

/-- `ADD` with an immediate (R316). -/
def execAddImm (g d a : BitVec 5) (i : Imm 9) (st : State) : Res :=
  st.act g (fun c => c.landS 1 d (aluAdd false false (c.sreg a) (imm64 i)))

/-- `SUB` of two registers (R361). -/
def execSubReg (g d a b : BitVec 5) (u s : Bool) (st : State) : Res :=
  st.act g (fun c => c.landS 1 d (aluSub s u (c.sreg a) (c.sreg b)))

/-- `SUB` with an immediate (R361). -/
def execSubImm (g d a : BitVec 5) (i : Imm 9) (st : State) : Res :=
  st.act g (fun c => c.landS 1 d (aluSub false false (c.sreg a) (imm64 i)))

/-- `MUL` of two registers (R361). -/
def execMulReg (g d a b : BitVec 5) (u s : Bool) (st : State) : Res :=
  st.act g (fun c => c.landS 3 d (aluMul s u (c.sreg a) (c.sreg b)))

/-- `MUL` with an immediate (R361). -/
def execMulImm (g d a : BitVec 5) (i : Imm 9) (st : State) : Res :=
  st.act g (fun c => c.landS 3 d (aluMul false false (c.sreg a) (imm64 i)))

/-- `MULH` of two registers (R361). -/
def execMulhReg (g d a b : BitVec 5) (u : Bool) (st : State) : Res :=
  st.act g (fun c => c.landS 3 d (aluMulh u (c.sreg a) (c.sreg b)))

/-- `MULH` with an immediate (R361). -/
def execMulhImm (g d a : BitVec 5) (i : Imm 9) (st : State) : Res :=
  st.act g (fun c => c.landS 3 d (aluMulh false (c.sreg a) (imm64 i)))

/-- `DIV` of two registers (R344). -/
def execDivReg (g d a b : BitVec 5) (u : Bool) (st : State) : Res :=
  st.act g (fun c => c.landS 18 d (aluDiv u (c.sreg a) (c.sreg b)))

/-- `DIV` with an immediate (R344). -/
def execDivImm (g d a : BitVec 5) (i : Imm 9) (st : State) : Res :=
  st.act g (fun c => c.landS 18 d (aluDiv false (c.sreg a) (imm64 i)))

/-- `REM` of two registers (R361). -/
def execRemReg (g d a b : BitVec 5) (u : Bool) (st : State) : Res :=
  st.act g (fun c => c.landS 18 d (aluRem u (c.sreg a) (c.sreg b)))

/-- `REM` with an immediate (R361). -/
def execRemImm (g d a : BitVec 5) (i : Imm 9) (st : State) : Res :=
  st.act g (fun c => c.landS 18 d (aluRem false (c.sreg a) (imm64 i)))

/-- `AND` of two registers (R317). -/
def execAndReg (g d a b : BitVec 5) (st : State) : Res :=
  st.act g (fun c => c.landS 1 d ((· &&& ·) (c.sreg a) (c.sreg b)))

/-- `AND` with an immediate (R317). -/
def execAndImm (g d a : BitVec 5) (i : Imm 9) (st : State) : Res :=
  st.act g (fun c => c.landS 1 d ((· &&& ·) (c.sreg a) (imm64 i)))

/-- `OR` of two registers (R361). -/
def execOrReg (g d a b : BitVec 5) (st : State) : Res :=
  st.act g (fun c => c.landS 1 d ((· ||| ·) (c.sreg a) (c.sreg b)))

/-- `OR` with an immediate (R361). -/
def execOrImm (g d a : BitVec 5) (i : Imm 9) (st : State) : Res :=
  st.act g (fun c => c.landS 1 d ((· ||| ·) (c.sreg a) (imm64 i)))

/-- `XOR` of two registers (R433). -/
def execXorReg (g d a b : BitVec 5) (st : State) : Res :=
  st.act g (fun c => c.landS 1 d ((· ^^^ ·) (c.sreg a) (c.sreg b)))

/-- `XOR` with an immediate (R433). -/
def execXorImm (g d a : BitVec 5) (i : Imm 9) (st : State) : Res :=
  st.act g (fun c => c.landS 1 d ((· ^^^ ·) (c.sreg a) (imm64 i)))

/-- `SHL` of two registers (R361). -/
def execShlReg (g d a b : BitVec 5) (st : State) : Res :=
  st.act g (fun c => c.landS 1 d (aluShl (c.sreg a) (c.sreg b)))

/-- `SHL` with an immediate (R361). -/
def execShlImm (g d a : BitVec 5) (i : Imm 9) (st : State) : Res :=
  st.act g (fun c => c.landS 1 d (aluShl (c.sreg a) (imm64 i)))

/-- `SHR` of two registers (R361). -/
def execShrReg (g d a b : BitVec 5) (st : State) : Res :=
  st.act g (fun c => c.landS 1 d (aluShr (c.sreg a) (c.sreg b)))

/-- `SHR` with an immediate (R361). -/
def execShrImm (g d a : BitVec 5) (i : Imm 9) (st : State) : Res :=
  st.act g (fun c => c.landS 1 d (aluShr (c.sreg a) (imm64 i)))

/-- `SRA` of two registers (R361). -/
def execSraReg (g d a b : BitVec 5) (st : State) : Res :=
  st.act g (fun c => c.landS 1 d (aluSra (c.sreg a) (c.sreg b)))

/-- `SRA` with an immediate (R361). -/
def execSraImm (g d a : BitVec 5) (i : Imm 9) (st : State) : Res :=
  st.act g (fun c => c.landS 1 d (aluSra (c.sreg a) (imm64 i)))

/-- `ROTL` of two registers (R361). -/
def execRotlReg (g d a b : BitVec 5) (st : State) : Res :=
  st.act g (fun c => c.landS 1 d (aluRotl (c.sreg a) (c.sreg b)))

/-- `ROTL` with an immediate (R361). -/
def execRotlImm (g d a : BitVec 5) (i : Imm 9) (st : State) : Res :=
  st.act g (fun c => c.landS 1 d (aluRotl (c.sreg a) (imm64 i)))

/-- `MIN` of two registers (R361). -/
def execMinReg (g d a b : BitVec 5) (u : Bool) (st : State) : Res :=
  st.act g (fun c => c.landS 1 d (aluMin u (c.sreg a) (c.sreg b)))

/-- `MIN` with an immediate (R361). -/
def execMinImm (g d a : BitVec 5) (i : Imm 9) (st : State) : Res :=
  st.act g (fun c => c.landS 1 d (aluMin false (c.sreg a) (imm64 i)))

/-- `MAX` of two registers (R361). -/
def execMaxReg (g d a b : BitVec 5) (u : Bool) (st : State) : Res :=
  st.act g (fun c => c.landS 1 d (aluMax u (c.sreg a) (c.sreg b)))

/-- `MAX` with an immediate (R361). -/
def execMaxImm (g d a : BitVec 5) (i : Imm 9) (st : State) : Res :=
  st.act g (fun c => c.landS 1 d (aluMax false (c.sreg a) (imm64 i)))

/-- `CLZ` of a register (R325). -/
def execClzReg (g d a : BitVec 5) (st : State) : Res := st.act g (fun c => c.landS 1 d (aluClz (c.sreg a)))

/-- `CLZ` of an immediate (R325). -/
def execClzImm (g d : BitVec 5) (i : Imm 9) (st : State) : Res := st.act g (fun c => c.landS 1 d (aluClz (imm64 i)))

/-- `POPC` of a register (R361). -/
def execPopcReg (g d a : BitVec 5) (st : State) : Res := st.act g (fun c => c.landS 1 d (aluPopc (c.sreg a)))

/-- `POPC` of an immediate (R361). -/
def execPopcImm (g d : BitVec 5) (i : Imm 9) (st : State) : Res := st.act g (fun c => c.landS 1 d (aluPopc (imm64 i)))

/-- `SEL` (R384): s[A] when the predicate, read through `RB.P`, is true, else s[B]. -/
def execSel (g d a b : BitVec 5) (p : BitVec 4) (st : State) : Res :=
  st.act g (fun c => c.landS 1 d (if c.preg p then c.sreg a else c.sreg b))

/-- `LI` (R358). -/
def execLi (g d : BitVec 5) (i : Imm 15) (st : State) : Res := st.act g (fun c => c.landS 1 d (imm64 i))

/-- `LIH` (R358, R359). -/
def execLih (g d : BitVec 5) (i : Imm 15) (st : State) : Res :=
  st.act g (fun c => c.landS 1 d (aluLih (c.sreg d) (imm64 i)))

/-- Both results of a compare: pd := t, pe := NOT t (R69, R326). -/
def Core.landCmp (c : Core) (pd pe : BitVec 4) (t : Bool) : Core := (c.landP 1 pd t).landP 1 pe (!t)

/-- `CMP` (R326). -/
def execCmp (g : BitVec 5) (pd pe : BitVec 4) (a b : BitVec 5) (cc : BitVec 3) (st : State) : Res :=
  st.act g (fun c => c.landCmp pd pe (condHolds 64 cc.toNat (c.sreg a).toNat (c.sreg b).toNat))

/-- `CMPI` (R326). -/
def execCmpi (g : BitVec 5) (pd pe : BitVec 4) (a : BitVec 5) (cc : BitVec 3) (i : Imm 4) (st : State) : Res :=
  st.act g (fun c => c.landCmp pd pe (condHolds 64 cc.toNat (c.sreg a).toNat (imm64 i).toNat))

/-- `PLOG` (R377). -/
def execPlog (g : BitVec 5) (pd pa pb tt : BitVec 4) (st : State) : Res :=
  st.act g (fun c => c.landP 1 pd (plogBit tt (c.preg pa) (c.preg pb)))

/-! ### Meanings: C slots (R60) -/

/-- The number of a C slot in the order S, V0, V1, M, C0, C1. -/
def cNum (slot : Bool) : Nat := if slot then 5 else 4

/-- The register file of a C slot. -/
def cFile (slot : Bool) : File := if slot then .h else .g

/-- A C-slot operand: a register of the slot's own file, or IMM32 sign-extended (R316). -/
def Core.cop (c : Core) (slot : Bool) (o : COp) : W64 :=
  match o with
  | .reg b => c.greg slot b
  | .imm v => BitVec.ofInt 64 v.toInt

/-- A C-slot integer result, latency 1. -/
def Core.landC (c : Core) (slot : Bool) (d : BitVec 5) (v : W64) : Core := c.push (cNum slot) 1 (.reg (cFile slot) d.toNat v)

/-- `ADD` of a C slot (R316): wraps. -/
def execAddC (h : CHead) (d a : BitVec 5) (o : COp) (st : State) : Res :=
  st.act h.g (fun c => c.landC h.slot d (c.greg h.slot a + c.cop h.slot o))

/-- `SUB` of a C slot (R361): wraps. -/
def execSubC (h : CHead) (d a : BitVec 5) (o : COp) (st : State) : Res :=
  st.act h.g (fun c => c.landC h.slot d (c.greg h.slot a - c.cop h.slot o))

/-- `SHL` of a C slot (R361). -/
def execShlC (h : CHead) (d a : BitVec 5) (o : COp) (st : State) : Res :=
  st.act h.g (fun c => c.landC h.slot d (aluShl (c.greg h.slot a) (c.cop h.slot o)))

/-- `LI` of a C slot (R358). -/
def execLiC (h : CHead) (d : BitVec 5) (i : BitVec 32) (st : State) : Res :=
  st.act h.g (fun c => c.landC h.slot d (BitVec.ofInt 64 i.toInt))

/-- `LIH` of a C slot (R358). -/
def execLihC (h : CHead) (d : BitVec 5) (i : BitVec 32) (st : State) : Res :=
  st.act h.g (fun c => c.landC h.slot d (aluLih (c.greg h.slot d) (BitVec.ofInt 64 i.toInt)))

/-! ### Comparing twins (R327, R262) and moving between files (R59, R432) -/

/-- `CMPT` of the S slot: compares on c + 1. -/
def execCmptS (g a b : BitVec 5) (st : State) : Res :=
  st.act g (fun c => c.push 0 1 (.cmpt (c.sreg a != c.sreg b) (c.sreg a ^^^ c.sreg b)))

/-- `CMPT` of a C slot. -/
def execCmptC (h : CHead) (a b : BitVec 5) (st : State) : Res :=
  st.act h.g (fun c => c.push (cNum h.slot) 1
    (.cmpt (c.greg h.slot a != c.greg h.slot b) (c.greg h.slot a ^^^ c.greg h.slot b)))

/-- A 64-bit value copied into all eight lanes. -/
def splat64 (v : W64) : Vec := BitVec.ofNat 512 (packN 64 (List.replicate 8 v.toNat))

/-- The landing of a 64-bit source in any destination file (R59); the destination is bound now (R62). -/
def Core.xcp64 (c : Core) (slot f r : Nat) (v : W64) : Core :=
  match f with
  | 0 => c.pushX slot (.reg .s (c.phS r) v)
  | 1 => c.pushX slot (.vec false (c.phV false r) (splat64 v) (BitVec.allOnes 512))
  | 2 => c.pushX slot (.vec true (c.phV true r) (splat64 v) (BitVec.allOnes 512))
  | 3 => c.pushX slot (.zs [(r, BitVec.ofNat 32 v.toNat)])
  | 4 => c.pushX slot (.reg .g r v)
  | _ => c.pushX slot (.reg .h r v)

/-- `XCP` of the S slot. -/
def execXcpS (g : BitVec 5) (f : BitVec 3) (r : BitVec 9) (a : BitVec 5) (st : State) : Res :=
  st.act g (fun c => c.xcp64 0 f.toNat r.toNat (c.sreg a))

/-- `XCP` of a C slot. -/
def execXcpC (h : CHead) (a : BitVec 5) (f : BitVec 3) (r : BitVec 9) (st : State) : Res :=
  st.act h.g (fun c => c.xcp64 (cNum h.slot) f.toNat r.toNat (c.greg h.slot a))

/-- `NOP` of an engine slot (R372): disarms the slot, whatever its guard. -/
def execNopEngineSlot (slot : ESlot) (_g : BitVec 5) (st : State) : Res :=
  let n := match slot with
    | .v0 => 1
    | .v1 => 2
    | .m => 3
    | .c0 => 4
    | .c1 => 5
  .next (st.onCore st.cur (fun c => { c with armed := Sparse.set none c.armed n none }))

/-! ### Scalar loads and stores (R357, R392) -/

/-- `LDS`: reads on c + 1, lands on c + 4. -/
def execLds (g d a : BitVec 5) (e : BitVec 2) (u : Bool) (o : BitVec 8) (st : State) : Res :=
  st.act g (fun c =>
    match ownElem c.id (c.sreg a) o e with
    | none => c.push 0 1 (.raise 0x12 (BitVec.ofInt 64 ((c.sreg a).toNat + o.toInt * (2 ^ e.toNat : Int))))
    | some off => c.push 0 1 (.lds off (2 ^ e.toNat) u (c.phS d.toNat)))

/-- `STS`: writes on c + 2. -/
def execSts (g d a : BitVec 5) (e : BitVec 2) (o : BitVec 8) (st : State) : Res :=
  st.act g (fun c =>
    match ownElem c.id (c.sreg a) o e with
    | none => c.push 0 2 (.raise 0x12 (BitVec.ofInt 64 ((c.sreg a).toNat + o.toInt * (2 ^ e.toNat : Int))))
    | some off =>
      c.push 0 2 (.write (off / 64) (BitVec.ofNat 512 ((c.sreg d).toNat * 2 ^ (8 * (off % 64))))
        (BitVec.ofNat 64 ((2 ^ (2 ^ e.toNat) - 1) * 2 ^ (off % 64)))))

end Sys2Proof.Machine
end

