-- ==== Sys2Proof/Machine/Xlate.lean ====
section
/-! DEFINITION. Translation of device virtual addresses (spec/07_translation.md R164 to R175), the events that firmware
raises (spec/12_host.md R280), errors of SRAM and HBM words with their freezes and counters (spec/05_scratchpad.md R140,
spec/11_faults.md R260, R264, R265), and the accesses of engines to every space (R121, R142). -/

namespace Sys2Proof.Machine

/-! ### Routes and reach (R14, R283) -/

/-- Whether a Cloeth port carries flits (R14, R283). -/
def State.portUp (s : State) (p : Nat) : Bool := s.fwUp && s.cloeth && s.diemask.getLsbD (p / 32) && !s.portDown.contains p

/-- Whether a route to a peer module remains (R283). -/
def State.routed (s : State) : Bool := (List.range 128).any s.portUp

/-- Whether a die reaches what another die holds: nothing of a die that is clear in `DIEMASK` (R14). A die that works is reached
whichever dies stand between (log 14). -/
def State.reaches (s : State) (die home : Nat) : Bool := s.diemask.getLsbD home || die == home

/-- The die of an address of local HBM (R10, R165). -/
def hbmDie (pa : Nat) : Nat := pa % 2 ^ 41 / 2 ^ 39

/-! ### The order of a global cycle (R143) -/

/-- Stores bytes in HBM or host memory and keeps what they replace until the global cycle ends: a read of that cycle is taken
first (R143). -/
def State.store (s : State) (key : Nat) (bs : List Byte) : State :=
  { s with
    mem := wrBytes s.mem key bs
    was := s.was ++ ((List.range bs.length).filter (fun i => !s.was.any (fun e => e.1 == key + i))).map
      (fun i => (key + i, rdByte s.mem (key + i))) }

/-- Stores bytes in HBM for a die, where it reaches the die that holds them (R14, log 14). -/
def State.storeFor (s : State) (die pa : Nat) (bs : List Byte) : State :=
  if s.reaches die (hbmDie pa) then s.store (hbmKey pa) bs else s

/-- Whether an engine has written one of some bytes on the present global cycle. -/
def State.fresh (s : State) (key n : Nat) : Bool := s.was.any (fun e => decide (key ≤ e.1) && decide (e.1 < key + n))

/-- A byte of HBM or host memory as a read of this global cycle finds it (R143). -/
def State.oldByte (s : State) (key : Nat) : Byte :=
  match s.was.find? (fun e => e.1 == key) with
  | some e => e.2
  | none => rdByte s.mem key

/-! ### Walks -/

/-- The result of a walk: a leaf with the address of its entry; a subcode of R175 (6 also where an entry is uncorrectable); or
a table in HBM that the die does not reach (R14); or an entry that an engine has written on this global cycle, which the walk
reads on the next (R143). -/
inductive Walk where
  | leaf (entry : Nat) (log2 : Nat) (word : W64)
  | sub (n : Nat)
  | far
  | busy
deriving DecidableEq, Repr

/-- Whether a 32-byte granule of HBM has an error mark of a kind: 6, or 8 where two reads of it differ. -/
def State.granule (s : State) (kind pa : Nat) (bad : Bool) : Bool :=
  s.errs.any (fun e => e.kind == kind && e.unit == pa / 2 ^ 36 && e.idx == pa % 2 ^ 36 / 32 && e.bad == bad)

/-- Whether a 32-byte granule of HBM is marked as uncorrectable (R172, R260). -/
def State.hbmBad (s : State) (pa : Nat) : Bool := s.granule 6 pa true

/-- Whether two reads of an entry differ (R172). -/
def State.differs (s : State) (pa : Nat) : Bool := s.granule 8 pa true || s.granule 8 pa false

/-- Whether a leaf entry obeys R168 apart from MIG. -/
def leafOk (log2 w : Nat) : Bool :=
  bitsOf w 15 0 == 0 && bitsOf w 45 16 * 2 ^ 16 % 2 ^ log2 == 0 &&
  (bitsOf w 57 56 == 1 || bitsOf w 55 46 == 0) && (bitsOf w 57 56 != 0 || bitsOf w 45 41 == 0)

/-- Whether a `PMOV` in progress moves the page of a leaf entry or uses it as its spare page (R168). -/
def State.moving (s : State) (entry : Nat) : Bool := s.moves.any (fun m => m.leafAt == entry || m.spareAt == entry)

/-- What a walk answers, with the die's walk cache afterwards, the parity errors that it found, and the entries that it read
(R171, R172, R265). -/
structure Walked where
  res : Walk
  walks : List WalkEnt
  parity : Nat
  reads : List Nat
deriving DecidableEq, Repr

/-- Keeps a non-leaf entry in a walk cache of 512 (R171). -/
def keepWalk (c : List WalkEnt) (e : WalkEnt) : List WalkEnt :=
  (e :: c.filter (fun x => !(x.asid == e.asid && x.lo == e.lo && x.va == e.va))).take 512

/-- The walk from one table on: levels as (first VA bit, entry bits) (R167). An entry of the walk cache stands for its
level's read; one with a parity error leaves and is read again (R172). A table whose address is not aligned to its size is used
as it stands (log 46). -/
def State.walkFrom (s : State) (die asid va : Nat) : List (Nat × Nat) → Nat → List WalkEnt → Nat → List Nat → Walked
  | [], _, c, n, l => ⟨.sub 3, c, n, l⟩
  | (lo, nb) :: more, table, c, n, l =>
    let hit (e : WalkEnt) : Bool := e.asid == asid && e.lo == lo && e.va == va / 2 ^ lo
    let read (c : List WalkEnt) (n : Nat) : Walked :=
      let pa := table + 8 * (va / 2 ^ lo % 2 ^ nb)
      let w := rdLE s.mem (hbmKey pa) 8
      let leaf := bitOf w 62
      if !s.reaches die (hbmDie pa) then ⟨.far, c, n, l⟩
      else if s.fresh (hbmKey pa) 8 then ⟨.busy, c, n, l⟩
      else if s.hbmBad pa then ⟨.sub 6, c, n, l⟩
      else if !bitOf w 63 then ⟨.sub 1, c, n, pa :: l⟩
      else if leaf && bitOf w 61 && s.differs pa then ⟨.sub 6, c, n, pa :: l⟩
      else if leaf then
        ⟨if lo = 46 || !leafOk lo w || (bitOf w 58 && !s.moving pa) then .sub 3 else .leaf pa lo (BitVec.ofNat 64 w), c, n, pa :: l⟩
      else if more.isEmpty || bitsOf w 61 46 != 0 || bitsOf w 6 0 != 0 then ⟨.sub 3, c, n, pa :: l⟩
      else
        let next := bitsOf w 45 7 * 2 ^ 7
        State.walkFrom s die asid va more next (keepWalk c ⟨asid, lo, va / 2 ^ lo, next, false⟩) n (pa :: l)
    match c.find? hit with
    | none => read c n
    | some e => if e.bad then read (c.filter (fun x => !hit x)) (n + 1) else State.walkFrom s die asid va more e.next c n l

/-- The five levels (R167). -/
def walkLevels : List (Nat × Nat) := [(46, 10), (30, 16), (26, 4), (21, 5), (16, 5)]

/-- The physical address of the context entry of an ASID (R166). -/
def State.ctxAt (s : State) (asid : Nat) : Nat := s.ctxbase.toNat % 2 ^ 46 / 2 ^ 18 * 2 ^ 18 + 16 * asid

/-- Word 0 of the context entry. -/
def State.ctxWord (s : State) (asid : Nat) : Nat := rdLE s.mem (hbmKey (s.ctxAt asid)) 8

/-- PASID of an ASID (R166). -/
def State.pasidOf (s : State) (asid : Nat) : Nat := rdLE s.mem (hbmKey (s.ctxAt asid + 8)) 8 % 2 ^ 20

/-- Why the context entry of an ASID cannot be used, as a cause with its subcode: its HBM is out of reach, its read is
uncorrectable (R172), or its V is 0 (R175). -/
def State.ctxFault (s : State) (die asid : Nat) : Option (Nat × Nat) :=
  if !s.reaches die (hbmDie (s.ctxAt asid)) then some (0x12, 0)
  else if s.hbmBad (s.ctxAt asid) then some (0x21, 6)
  else if !bitOf (s.ctxWord asid) 63 then some (0x20, 1)
  else none

/-- Whether an engine has written the context entry of an ASID on this global cycle: it is read on the next (R143). -/
def State.ctxFresh (s : State) (asid : Nat) : Bool := s.fresh (hbmKey (s.ctxAt asid)) 16

/-- Notes the granules with a correctable error among those of some table words that an access has read (R265). -/
def State.meets (s : State) (pas : List Nat) : State :=
  { s with met := s.met ++ ((pas.map (fun a => a / 32 * 32)).eraseDups.filter (fun g => s.granule 6 g false && !s.met.contains g)) }

/-- The walk of a device-half address under an ASID whose context entry can be used. -/
def State.walk (s : State) (die asid va : Nat) : Walked :=
  s.walkFrom die asid va walkLevels (bitsOf (s.ctxWord asid) 45 13 * 2 ^ 13) (s.die die).walks 0 []

/-- A TLB entry of the device half that holds an address. -/
def State.tlbHit (s : State) (die asid va : Nat) : Option TlbEnt :=
  (s.die die).tlb.find? (fun e => e.host.isNone && e.asid == asid && e.va == va / 2 ^ e.log2 * 2 ^ e.log2)

/-- The leaf of a device-half address as a die has it now, whatever this cycle's accesses find: its entry's address, its size
and its word. -/
def State.leafOf (s : State) (die asid va : Nat) : Option (Nat × Nat × W64) :=
  match s.tlbHit die asid va with
  | some e => some (e.entry, e.log2, e.leaf)
  | none =>
    match s.ctxFault die asid, (State.walk { s with was := [] } die asid va).res with
    | none, .leaf entry log2 w => some (entry, log2, w)
    | _, _ => none

/-- The tier of a virtual address, whether or not an access could perform now: 0 HBM, 1 peer, 2 host (R164, R168). A leaf of
TIER 0b01 that names this module is local HBM. -/
def State.leafTier (s : State) (die asid va : Nat) : Option Nat :=
  if va < 2 ^ 56 then some 2
  else (s.leafOf die asid va).map (fun l => match bitsOf l.2.2.toNat 57 56 with
    | 0 => 0
    | 1 => if bitsOf l.2.2.toNat 55 46 = s.mymod then 0 else 1
    | _ => 2)

/-! ### Translation -/

/-- What a translated access gets: the flat key and the tier of its home; a fault cause with subcode; or a wait for the
host or for a page in transit. -/
inductive Xl where
  | ok (key tier : Nat)
  | err (cause sub : Nat)
  | wait
deriving DecidableEq, Repr

/-- The weight range that holds an address (R260). -/
def State.inWeights (s : State) (asid va : Nat) : Bool :=
  s.wranges.any (fun e => match e.2 with
    | some r => r.asid == asid && r.va ≤ va && va < r.va + r.len
    | none => false)

/-- A usable translation port: firmware runs, the link is up and the host's enables are set (R169). Every die reaches the host through
it, whether or not the die to which the port attaches is set in DIEMASK (R14, log 14). -/
def State.atsOn (s : State) (p : Bool) : Bool := s.fwUp && (s.port p).up && (s.port p).ats

/-- The home of a leaf's page at an offset. A leaf of TIER 0b01 that names this module itself leads to its own HBM (log 46). -/
def State.homeOf (s : State) (w log2 va : Nat) : Xl :=
  let a := bitsOf w 45 16 * 2 ^ 16 + va % 2 ^ log2
  match bitsOf w 57 56 with
  | 0 => .ok (hbmKey a) 0
  | 1 => if bitsOf w 55 46 = s.mymod then .ok (hbmKey a) 0
         else if s.routed then .ok (peerKey (bitsOf w 55 46) a) 1 else .err 0x12 0
  | 2 => if s.atsOn false then .ok (hostKey false a) 2 else .err 0x20 4
  | _ => if s.atsOn true then .ok (hostKey true a) 2 else .err 0x20 4

/-- The use of a leaf word for a read or a write (R168, R175, R260). Where POISON and a missing W meet, POISON is reported
(log 46). -/
def State.useLeaf (s : State) (asid va : Nat) (wr : Bool) (entry log2 : Nat) (word : W64) : Xl :=
  let w := word.toNat
  if s.moving entry then .wait
  else if bitOf w 59 then (if s.inWeights asid va then .err 0x25 5 else .err 0x20 5)
  else if wr && !bitOf w 60 then .err 0x20 2
  else s.homeOf w log2 va

/-- A miss of a die in the host half (R169): a refusal that has come makes the first access to the page fault (log 46); a miss
that the host has before it is waited for; else a translation request goes out with the ASID's PASID. -/
def State.hostMiss (s : State) (p : Bool) (die asid va : Nat) (wr : Bool) : Xl × State :=
  let q := s.port p
  let pg := va / 4096 * 4096
  if q.refused.contains (die, asid, pg) then
    (.err 0x20 4, s.onPort p (fun q => { q with refused := q.refused.filter (fun r => r != (die, asid, pg)) }))
  else if q.preqs.any (fun r => r.die == die && r.asid == asid && r.va == pg) then (.wait, s)
  else
    (.wait, (s.onPort p (fun q => { q with
      preqs := q.preqs ++ [⟨q.reqid, die, asid, pg, wr, s.glob, .asked⟩], reqid := q.reqid + 1 })).send
        (.atsReq p q.reqid (s.pasidOf asid) pg wr))

/-- The host's grant through a port that a TLB entry holds for an address of an ASID (R170). -/
def TlbEnt.grant (e : TlbEnt) (p : Bool) (asid va : Nat) : Option HostPage :=
  match e.host with
  | some g => if g.1 == p && e.asid == asid && e.va == va / 2 ^ e.log2 * 2 ^ e.log2 then some g.2 else none
  | none => none

/-- Drops an entry of a die's TLB that has a parity error, and counts it (R172). -/
def State.refetch (s : State) (die : Nat) (e : TlbEnt) : State :=
  { s.onDie die (fun d => { d with tlb := d.tlb.erase e }) with parity := s.parity + 1 }

/-- A host-half access (R169, R170): the host's grant in the die's TLB, a miss, or a fault. -/
def State.xlateHost (s : State) (die asid va : Nat) (wr : Bool) : Xl × State :=
  let w := s.ctxWord asid
  let p := bitOf w 61
  if s.ctxFresh asid then (.wait, s)
  else match s.ctxFault die asid with
  | some f => (.err f.1 f.2, s)
  | none =>
    let s := s.meets [s.ctxAt asid]
    if !bitOf w 62 || !s.atsOn p then (.err 0x20 4, s)
    else
      let fits (e : TlbEnt) : Bool := match e.grant p asid va with
        | some g => e.bad || !wr || g.w
        | none => false
      match (s.die die).tlb.find? fits with
      | none => s.hostMiss p die asid va wr
      | some e =>
        match e.bad, e.grant p asid va with
        | false, some g => (.ok (hostKey p (g.bus.toNat + va % 2 ^ e.log2)) 2, s)
        | _, _ => (s.refetch die e).hostMiss p die asid va wr

/-- What a die gets at the home that a translation names: an access to HBM out of its reach is `ADDRESS` (R14, log 14). -/
def State.reach (s : State) (die : Nat) (r : Xl) : Xl :=
  match r with
  | .ok key tier => if tier = 0 && !s.reaches die (hbmDie (key - 2 ^ 41)) then .err 0x12 0 else r
  | r => r

/-- What a walk leaves behind: the die's walk cache, the parity errors, and the correctable errors that it and the read of the
context entry have met (R171, R172, R265). -/
def State.walked (s : State) (die asid : Nat) (r : Walked) : State :=
  ({ s.onDie die (fun d => { d with walks := r.walks }) with parity := s.parity + r.parity } : State).meets (s.ctxAt asid :: r.reads)

/-- A walk for one access, which keeps the leaf and the non-leaf entries that it read (R171, R172). -/
def State.xlateWalk (s : State) (die asid va : Nat) (wr : Bool) : Xl × State :=
  if s.ctxFresh asid then (.wait, s)
  else match s.ctxFault die asid with
  | some f => (.err f.1 f.2, s)
  | none =>
    let r := s.walk die asid va
    let s1 := s.walked die asid r
    match r.res with
    | .far => (.err 0x12 0, s1)
    | .busy => (.wait, s1)
    | .sub n => (.err (if n = 6 then 0x21 else 0x20) n, s1)
    | .leaf entry log2 word =>
      match s1.reach die (s1.useLeaf asid va wr entry log2 word) with
      | .wait => (.wait, s1)
      | x => (x, s1.onDie die (fun d => { d with
          tlb := (⟨asid, va / 2 ^ log2 * 2 ^ log2, log2, word, entry, none, false⟩ :: d.tlb).take 4096 }))

/-- Translation of one access through a die's TLB (R164 to R175). An entry with a parity error is dropped, counted and walked
again. An address of more than 57 bits is `ADDRESS`. -/
def State.xlate (s : State) (die asid va : Nat) (wr : Bool) : Xl × State :=
  if va < 2 ^ 56 then s.xlateHost die asid va wr
  else if 2 ^ 57 ≤ va then (.err 0x12 0, s)
  else
    match s.tlbHit die asid va with
    | some e =>
      if e.bad then (s.refetch die e).xlateWalk die asid va wr
      else (s.reach die (s.useLeaf asid va wr e.entry e.log2 e.leaf), s)
    | none => s.xlateWalk die asid va wr

/-- Removes from every TLB of the module the device-half entries that meet a test (R173). -/
def State.tlbDrop (s : State) (f : TlbEnt → Bool) : State :=
  { s with dies := s.dies.map (fun e => (e.1, { e.2 with tlb := e.2.tlb.filter (fun t => t.host.isSome || !f t) })) }

/-- Whether a TLB entry is one that `TLBINV` and `TLBIVA` name. -/
def State.invHit (s : State) (t : TlbEnt) : Bool :=
  let asid := s.tlbinv.toNat % 2 ^ 14
  match bitsOf s.tlbinv.toNat 62 61 with
  | 0 => true
  | 1 => t.asid == asid
  | 2 => t.asid == asid && t.va == s.tlbiva.toNat / 2 ^ t.log2 * 2 ^ t.log2
  | _ => false

/-- Empties the walk caches of the module of what `TLBINV` names: every entry, or those of the ASID. -/
def State.walkDrop (s : State) : State :=
  let asid := s.tlbinv.toNat % 2 ^ 14
  let all := bitsOf s.tlbinv.toNat 62 61 == 0
  { s with dies := s.dies.map (fun d => (d.1, { d.2 with walks := d.2.walks.filter (fun e => !(all || e.asid == asid)) })) }

/-- Removes from every TLB and walk cache what `TLBINV` names (R173). -/
def State.invalidate (s : State) : State := (s.tlbDrop s.invHit).walkDrop

/-- Removes host-half entries of a port from every TLB (R170). -/
def State.hostDrop (s : State) (p : Bool) (f : TlbEnt → Bool) : State :=
  { s with dies := s.dies.map (fun e => (e.1, { e.2 with tlb := e.2.tlb.filter (fun t =>
      match t.host with
      | some g => !(g.1 == p && f t)
      | none => true) })) }

/-! ### Engines and their accesses -/

/-- The outcome of an engine access: a value; a fault with cause, and with the record of R175 where it is one of
translation, else the faulting address or 0 (R252); or a wait. -/
inductive Acc (α : Type) where
  | ok (a : α)
  | err (cause : Nat) (rec : W64)
  | wait
deriving DecidableEq, Repr

/-- The record of R175. -/
def tfltWord (wr : Bool) (sub va : Nat) : W64 := BitVec.ofNat 64 (wr.toNat * 2 ^ 61 + sub * 2 ^ 57 + va % 2 ^ 57)

/-- A fault of a translated access: the record of R175 for `TRANSLATION` and `WALK_UNCORR`, else the faulting address (R252). -/
def xlFault {α : Type} (cause : Nat) (wr : Bool) (sub va : Nat) : Acc α :=
  .err cause (if cause = 0x20 || cause = 0x21 then tfltWord wr sub va else BitVec.ofNat 64 va)

/-- Continues after an access. -/
def Acc.bind {α β : Type} (r : Acc α × State) (f : α → State → Acc β × State) : Acc β × State :=
  match r.1 with
  | .ok a => f a r.2
  | .err c d => (.err c d, r.2)
  | .wait => (.wait, r.2)

/-- Continues after an access, with another continuation for a fault. -/
def Acc.catch {α β : Type} (r : Acc α × State) (f : α → State → Acc β × State) (g : Nat → W64 → State → Acc β × State) :
    Acc β × State :=
  match r.1 with
  | .ok a => f a r.2
  | .err c d => g c d r.2
  | .wait => (.wait, r.2)

/-- The agent of a core: its die and the ASID of its instance. -/
def State.who (s : State) (k : Nat) : Who := ⟨k, dieOf k, ((s.inst? (s.core k).inst).map (·.l.asid)).getD 0, 0, 2 * k⟩

/-- A host-side agent: no core, at the die of a port. -/
def hostWho (p : Bool) (asid : Nat) : Who := ⟨0xFFFF, if p then 3 else 0, asid, 0, 8191⟩

/-- Ranks of the engines that are no channels (R144). -/
def rankColl : Nat := 8192
def rankStack : Nat := 8193
def rankScarab : Nat := 8194
def rankWeevil : Nat := 8195
/-- The rank of an access that this module passes on from one peer to another (R163). -/
def rankRelay : Nat := 8196

/-- An access to a peer's HBM (R162): a request goes out, and the access has performed when the answer to it arrives. -/
def State.peer (s : State) (w : Who) (key : Nat) (req : PeerReq) : Acc (List Byte) × State :=
  match s.fab.find? (fun f => f.who == w && f.place == key && f.req == req) with
  | some f => (match f.reply with
    | some bs => .ok bs
    | none => .wait, s)
  | none =>
    let f : Fab := ⟨s.ftag, w, key, req, none⟩
    (.wait, { s with fab := s.fab ++ [f], ftag := s.ftag + 1 }.send
      (.flitReq ((key - 2 ^ 70) / 2 ^ 46) ((key - 2 ^ 70) % 2 ^ 46) s.ftag req))

/-- The end of an operation of an agent: the answers that its accesses to peers got are of no more use, and its report is out. -/
def State.quit (s : State) (w : Who) : State :=
  { s with fab := s.fab.filter (fun f => f.who != w), reports := s.reports.filter (fun r => r.who != w) }

/-- The report of an agent that is due. -/
def State.dueOf (s : State) (w : Who) : Option Report := s.reports.find? (fun r => r.who == w)

/-- Bytes of HBM or host memory as a read of this global cycle finds them. -/
def State.oldBytes (s : State) (key n : Nat) : List Byte := (List.range n).map (fun i => s.oldByte (key + i))

/-- A write at a virtual address, within one page (R162): one to a peer's HBM has performed once it is acknowledged. -/
def State.writeVA (s : State) (w : Who) (va : Nat) (bs : List Byte) : Acc Unit × State :=
  match s.xlate w.die w.asid va true with
  | (.ok key tier, s1) =>
    if tier = 1 then Acc.bind (s1.peer w key (.write bs)) fun _ s2 => (.ok (), s2) else (.ok (), s1.store key bs)
  | (.err c sub, s1) => (xlFault c true sub va, s1)
  | (.wait, s1) => (.wait, s1)

/-! ### Waiting -/

/-- Whether the module asks something with what it sends. -/
def Out.asks (o : Out) : Bool :=
  match o with
  | .atsReq _ _ _ _ _ => true
  | .flitReq _ _ _ _ => true
  | _ => false

/-- What remains of a die's TLB and walk cache once the entries with a parity error that an attempt found are gone (R172). -/
def Die.dropBad (d d1 : Die) : Die :=
  { d with
    tlb := d.tlb.filter (fun e => !e.bad || d1.tlb.contains e), walks := d.walks.filter (fun e => !e.bad || d1.walks.contains e) }

/-- The parity errors that an attempt has found are counted, and the entries that had them are gone, whatever else of it stands
(R172). -/
def State.parityOf (s s1 : State) : State :=
  if s1.parity = s.parity then s
  else { s with parity := s1.parity, dies := s.dies.map (fun d => (d.1, d.2.dropBad (s1.die d.1))) }

/-- What remains of an attempt that must wait: the requests that it has sent stand, each port's and each peer's, and the parity
errors that it has found are counted and gone (R172); nothing else does. -/
def State.waited (s s1 : State) : Option State :=
  let sent := (s1.out.drop s.out.length).filter Out.asks
  let port (p : Bool) (s : State) : State := s.onPort p (fun q => { q with
    preqs := (s1.port p).preqs, reqid := (s1.port p).reqid })
  if sent.isEmpty && s1.parity == s.parity then none
  else some { port true (port false (s.parityOf s1)) with out := s.out ++ sent, fab := s1.fab, ftag := s1.ftag }

/-- What remains of an attempt that a fault ends and that writes nothing: what it has asked of hosts and peers stands, a refusal of
the host that it has met is used up, the parity errors that it has found are counted and gone (R172), and so are the correctable
errors in tables (R265). -/
def State.undone (s s1 : State) : State :=
  { s.parityOf s1 with ports := s1.ports, fab := s1.fab, ftag := s1.ftag, out := s1.out, met := s1.met }

/-! ### Events (R280) -/

/-- The 32 bytes of an event record. -/
def Evt.bytes (e : Evt) : List Byte :=
  leBytes 1 e.ty ++ leBytes 1 e.cause ++ leBytes 2 e.strm ++ leBytes 4 e.seq.toNat ++ leBytes 8 e.glob ++
  leBytes 4 e.cmd.toNat ++ leBytes 4 0 ++ leBytes 8 e.data.toNat

/-- Writes held events to the ring while it has room, oldest first; `n` bounds the events. A ring write that waits or
faults leaves its event held, and is tried again on a later cycle. -/
def State.flushEvts (s : State) (p : Bool) : Nat → State
  | 0 => s
  | n + 1 =>
    let q := s.port p
    match q.held with
    | [] => s
    | e :: rest =>
      if q.even && (e.seq - q.evcons).toNat ≤ 2 ^ q.evlog then
        match s.writeVA (hostWho p 0) (q.evring.toNat + 32 * (e.seq.toNat % 2 ^ q.evlog)) e.bytes with
        | (.ok _, s1) =>
          State.flushEvts (((s1.quit (hostWho p 0)).onPort p (fun q => { q with held := rest, evprod := e.seq })).send
            (.msix p 0)) p n
        | (.wait, s1) => (s.waited s1).getD s
        | (.err _ _, s1) => s1
      else s

/-- An event of one port: it receives the next EVSEQ and is written, held, or dropped (R280). -/
def State.raise (s : State) (p : Bool) (e : Evt) : State :=
  let e := { e with seq := (s.port p).evseq + 1, glob := s.glob }
  if 1024 ≤ (s.port p).held.length then
    s.onPort p (fun q => { q with evseq := q.evseq + 1, evlost := BitVec.ofNat 32 (sat32 (q.evlost.toNat + 1)) })
  else (s.onPort p (fun q => { q with evseq := q.evseq + 1, held := q.held ++ [e] })).flushEvts p 1024

/-- An event of one port by its fields. -/
def State.event (s : State) (p : Bool) (ty cause strm : Nat) (cmd : W32) (data : W64) : State :=
  s.raise p ⟨ty, cause, strm, 0, 0, cmd, data, 0, 0⟩

/-- A module-wide event goes to both ports (R280). -/
def State.eventAll (s : State) (ty cause : Nat) (data : W64) : State :=
  (s.event false ty cause 0x1FF 0 data).event true ty cause 0x1FF 0 data

/-- The `WEIGHT_POISON` event of a frame with the ASID and the VA that it names (R261, log 44). -/
def State.poisonEvt (s : State) (asid va : Nat) (frame : W64) : State :=
  let e : Evt := ⟨4, 0x25, 0x1FF, 0, 0, 0, frame, asid, va⟩
  (s.raise false e).raise true e

/-! ### Retirement of units and REPL (R14, R266, R267) -/

/-- A core that a retired-unit code takes out of placement (R266, R288). -/
def unitCovers (code phys : Nat) : Bool :=
  if code / 2 ^ 28 = 2 then phys / 16 == code / 2 ^ 16 % 2 ^ 12 / 16 else phys == code / 2 ^ 16 % 2 ^ 12

/-- A command core (R17). -/
def cmdCore (phys : Nat) : Bool := phys % 1024 == 35 * 16 + 14 || phys % 1024 == 35 * 16 + 15

/-- A core that exists (R9, R16). -/
def realCore (phys : Nat) : Bool := phys < 4096 && phys % 1024 / 16 < 36

/-- Whether an instance, running or saved, holds a core. -/
def State.isHeld (s : State) (phys : Nat) : Bool := s.insts.any (fun i => i.held.contains phys)

/-- Whether a core belongs to a unit that firmware has retired: it is never placed again. -/
def State.isOut (s : State) (phys : Nat) : Bool := s.retired.any (fun u => unitCovers u.toNat phys)

/-- Whether a core is retired: one that an instance holds is retired once that instance lets it go (R266). -/
def State.isRetired (s : State) (phys : Nat) : Bool := s.isOut phys && !s.isHeld phys

/-- PCORES (R14). -/
def State.pcores (s : State) : Nat :=
  ((List.range 4096).filter (fun k => realCore k && !cmdCore k && s.diemask.getLsbD (dieOf k) && !s.isRetired k)).length

/-- STACKS (R14). -/
def State.stackCount (s : State) : Nat :=
  ((List.range 32).filter (fun k => s.diemask.getLsbD (k / 8) && !s.stackOff.contains k)).length

/-- CPORTS (R14). -/
def State.cportCount (s : State) : Nat :=
  ((List.range 128).filter (fun k => s.diemask.getLsbD (k / 32) && !s.portDown.contains k)).length

/-- Sets REPL and raises "replace requested": each cause of R267 raises it anew (log 46). -/
def State.replace (s : State) : State := { s with repl := true }.eventAll 5 0 0

/-- REPL for the count of placeable cores, when it falls below REPLMIN (R267): it stood above in the state `old`, or nothing has
set REPL yet. -/
def State.replCheck (s old : State) : State :=
  if s.fwUp && decide (s.pcores < s.replmin) && (!s.repl || decide (old.replmin ≤ old.pcores)) then s.replace else s

/-! ### Errors of words, freezes, counters (R140, R264, R265) -/

/-- The mark of a counter class: 0 macro, 1 lane group, 2 cluster, 3 HBM bank. -/
def State.mark (s : State) (cls : Nat) : Nat := Sys2Proof.Machine.lane 16 s.bktmark.toNat cls

/-- The unit code of an event: class, physical index, macro or lane group (R288). -/
def unitCode (cls idx : Nat) : Nat :=
  match cls with
  | 0 => idx / 16 * 2 ^ 16 + idx % 16
  | 1 => 2 ^ 28 + idx / 16 * 2 ^ 16 + idx % 16
  | 2 => 2 * 2 ^ 28 + (idx / 36 * 1024 + idx % 36 * 16) * 2 ^ 16
  | _ => idx

/-- A unit of a command core or of cluster 35 (R266). -/
def spareUnit (cls idx : Nat) : Bool :=
  match cls with
  | 0 => cmdCore (idx / 16) || idx / 16 % 1024 / 16 == 35
  | 1 => cmdCore (idx / 16) || idx / 16 % 1024 / 16 == 35
  | 2 => idx % 36 == 35
  | _ => false

/-- The predictive event of a unit (R265, R266): firmware may retire a unit of cores then; one of a command core or of cluster 35
sets REPL. -/
def State.failure (s : State) (cls idx : Nat) : State :=
  let code := unitCode cls idx
  let s1 := { s with failing := if cls = 3 || s.failing.contains code then s.failing else s.failing ++ [code] }.eventAll 3 0
    (BitVec.ofNat 64 code)
  if spareUnit cls idx then s1.replace else s1

/-- A counter at its mark, whose event has not been raised, raises the predictive event (R265). Counters are numbered class × 2^32 + index. -/
def State.predict (s : State) (k : Nat) : State :=
  let cls := k / 2 ^ 32
  let idx := k % 2 ^ 32
  if s.mark cls != 0 && decide (s.mark cls ≤ Sparse.get 0 s.buckets k) && !s.bktrose.contains k then
    { s with bktrose := k :: s.bktrose }.failure cls idx
  else s

/-- One correctable error of a unit: its counter adds 1 (R265). -/
def State.bump (s : State) (cls idx : Nat) : State :=
  let k := cls * 2 ^ 32 + idx
  { s with buckets := Sparse.set 0 s.buckets k (min (Sparse.get 0 s.buckets k + 1) 0xFFFF) }.predict k

/-- Counters that have fallen to half their mark may raise their event again (R265). -/
def State.rearm (s : State) : State :=
  { s with bktrose := s.bktrose.filter (fun k => decide (s.mark (k / 2 ^ 32) < 2 * Sparse.get 0 s.buckets k)) }

/-- New marks: a counter that now stands at its mark or above raises its event. -/
def State.newMarks (s : State) (v : W64) : State :=
  (s.buckets.map (·.1)).foldl State.predict { s with bktmark := v }.rearm

/-- A correctable-error freeze of a core's group: 32 further task-clock periods, counted in FREEZES (R140). The count 1 is
the mark that the periods are over. The freeze begins on the next edge, so an access of this period performs. Two correctable errors that are found before the freeze of the first begins make two
freezes (log 46). -/
def State.freeze (s : State) (k : Nat) : State :=
  let ks := s.groupOf k
  let s1 := ks.foldl (fun s j => s.onCore j (fun c => { c with freeze := if c.freeze = 0 then 33 else c.freeze + 32 })) s
  if (s.core k).run then s1.onInst (s.core k).inst (fun i => { i with freezes := sat32 (i.freezes + 1) }) else s1

/-- The worst mark among some words of one kind of one unit: uncorrectable, correctable, or none. -/
def State.errOf (s : State) (kind unit : Nat) (idxs : List Nat) : Option Bool :=
  let l := s.errs.filter (fun e => e.kind == kind && e.unit == unit && idxs.contains e.idx)
  if l.isEmpty then none else some (l.any (·.bad))

/-- Removes the marks of words. -/
def State.clearErr (s : State) (kind unit : Nat) (idxs : List Nat) : State :=
  { s with errs := s.errs.filter (fun e => !(e.kind == kind && e.unit == unit && idxs.contains e.idx)) }

/-- The counter that a word's correctable error feeds (R265). -/
def errClass (kind unit : Nat) (idxs : List Nat) : Nat × Nat :=
  match kind with
  | 0 => (0, unit * 16 + idxs.headD 0 / 8 / 256)
  | 2 => (1, unit * 16 + idxs.headD 0 % 8)
  | 3 => (1, unit * 16 + 8 + idxs.headD 0 % 8)
  | _ => (2, dieOf unit * 36 + unit % 1024 / 16)

/-- A unit whose state held an uncorrectable error counts one event: the predictive event of R266 (R264). Its counter of
correctable errors goes on as before. -/
def State.unitFail (s : State) (cls idx : Nat) : State := s.failure cls idx

/-- The counters of some words, each word's error counted in its own unit (R265). -/
def State.bumpAll (s : State) (kind unit : Nat) (ws : List Nat) : State :=
  ws.foldl (fun s w => let cu := errClass kind unit [w]; s.bump cu.1 cu.2) s

/-- A read of core words: none when sound, else whether it is uncorrectable, with the freeze, the write-back and the
counters of correctable errors, or the event of an uncorrectable one (R140, R264, R265). -/
def State.readWords (s : State) (kind unit : Nat) (idxs : List Nat) : Bool × State :=
  match s.errOf kind unit idxs with
  | none => (false, s)
  | some bad =>
    let ws := ((s.errs.filter (fun e => e.kind == kind && e.unit == unit && idxs.contains e.idx && e.bad == bad)).map (·.idx)).eraseDups
    if bad then
      let cu := errClass kind unit ws
      (true, s.unitFail cu.1 cu.2)
    else (false, ((s.clearErr kind unit idxs).freeze unit).bumpAll kind unit ws)

/-- The eight 64-bit words of a scratch row. -/
def rowWords (r : Nat) : List Nat := (List.range 8).map (fun i => r * 8 + i)

/-! ### Accesses of engines -/

/-- An uncorrectable HBM read (R260): the leaf is poisoned, the page is invalidated, firmware is told the frame, and in a weight
range an event names it (R261). A leaf in HBM that the die does not reach stays as it is (R14, log 14). -/
def State.poison (s : State) (die asid va pa : Nat) : State :=
  let s1 := match s.leafOf die asid va with
    | some (entry, log2, _) =>
      (s.storeFor die entry (leBytes 8 (rdLE s.mem (hbmKey entry) 8 ||| 2 ^ 59))).tlbDrop
        (fun t => t.asid == asid && t.va == va / 2 ^ log2 * 2 ^ log2)
    | none => s
  let frame := pa / 2 ^ 16 * 2 ^ 16
  let s2 : State := { s1 with lost := if s1.lost.contains frame then s1.lost else s1.lost ++ [frame] }
  if s.inWeights asid va then s2.poisonEvt asid va (BitVec.ofNat 64 frame) else s2

/-- An access that HBM suppressed for an uncorrectable error: its fault, after `poison` (R260). -/
def State.hbmFault {α : Type} (s : State) (w : Who) (va pa : Nat) : Acc α × State :=
  (.err (if s.inWeights w.asid va then 0x25 else 0x18) (BitVec.ofNat 64 va), s.poison w.die w.asid va pa)

/-- The granules of local HBM that a range of `n` bytes at an address meets. -/
def granules (pa n : Nat) : List Nat := (List.range ((pa % 32 + n + 31) / 32)).map (fun i => pa / 32 * 32 + 32 * i)

/-- The granules of a range in which the HBM's own correction finds a correctable error: each counts for its bank, which
the stack alone knows (R265, log 45). -/
def State.hbmCount (s : State) (gs : List Nat) : State :=
  (gs.filter (fun g => s.granule 6 g false)).foldl (fun s g =>
    (s.clearErr 6 (g / 2 ^ 36) [g % 2 ^ 36 / 32]).bump 3 (g / 2 ^ 36 % 32 * 1024 + Config.hbmBank (g % 2 ^ 36) % 1024)) s

/-- A read of `n` bytes at a virtual address, within one page. It waits while an engine has written there on this cycle, for
then it would be taken first (R143). An answer of a peer without data is an uncorrectable error there (R260, log 15). -/
def State.readVA (s : State) (w : Who) (va n : Nat) : Acc (List Byte) × State :=
  match s.xlate w.die w.asid va false with
  | (.ok key tier, s1) =>
    if tier = 1 then
      Acc.bind (s1.peer w key (.read n)) fun bs s2 =>
        if bs.isEmpty && n != 0 then s2.hbmFault w va ((key - 2 ^ 70) % 2 ^ 46) else (.ok bs, s2)
    else if s1.fresh key n then (.wait, s1)
    else if tier = 0 then
      let gs := granules (key - 2 ^ 41) n
      if gs.any s1.hbmBad then s1.hbmFault w va (key - 2 ^ 41) else (.ok (rdBytes s1.mem key n), s1.hbmCount gs)
    else (.ok (rdBytes s1.mem key n), s1)
  | (.err c sub, s1) => (xlFault c false sub va, s1)
  | (.wait, s1) => (.wait, s1)

/-- Whether an engine may touch a quarter: ENGINE-owned, or the caller made the check at T for its own core (R121). -/
def State.mayTouch (s : State) (w : Who) (own : Bool) (phys off : Nat) : Bool :=
  (own && phys == w.core) || (s.core phys).owner (off / 4096) == .engine

/-- Whether an engine has written a scratch row on the present task cycle with a rank that a test takes (R143, R144). -/
def State.rowHit (s : State) (phys off : Nat) (f : Nat → Bool) : Bool :=
  s.rowsNow.any (fun e => e.1 == phys * 4096 + off / 64 && f e.2.1)

/-- A scratch row as a read of the present task cycle finds it: as it stood before the first write that an engine made to it on
this cycle (R143). -/
def State.oldRow (s : State) (phys off : Nat) : Vec :=
  match s.rowsNow.find? (fun e => e.1 == phys * 4096 + off / 64) with
  | some e => e.2.2
  | none => rdRow s.mem phys (off / 64)

/-- The 64-bit words that `n` bytes at an offset write whole, and those that they write in part. -/
def wholeOf (off n : Nat) : List Nat :=
  (List.range (n / 8 + 2)).map (off / 8 + ·) |>.filter (fun w => off ≤ 8 * w && 8 * w + 8 ≤ off + n)
def partOf (off n : Nat) : List Nat :=
  (List.range (n / 8 + 2)).map (off / 8 + ·) |>.filter
    (fun w => decide (8 * w < off + n) && decide (off < 8 * w + 8) && !(off ≤ 8 * w && 8 * w + 8 ≤ off + n))

/-- A read at an operand address (R314). It reads all eight words of each row that it meets, for errors (R140, log 37). `own` says that quarters of the issuing core were checked at T. A read of a row that
an engine has written on this task cycle waits, for then it would be taken first (R143); a stack lane, whose rows arrive on a
cycle of their own, reads what the row held before. Instruction scratch is no source. -/
def State.engRead (s : State) (w : Who) (own : Bool) (o : Opnd) (n : Nat) : Acc (List Byte) × State :=
  match o with
  | .va a => s.readVA w a n
  | .isc _ _ => (.err 0x12 0, s)
  | .scr phys off =>
    let a := BitVec.ofNat 64 (phys * 2 ^ 18 + off)
    match scratchAt s.diemask (phys * 2 ^ 18 + off) with
    | none => (.err 0x12 a, s)
    | some _ =>
      if !s.mayTouch w own phys off then (.err 0x10 a, s)
      else if w.rank != rankStack && s.rowHit phys off (fun _ => true) then (.wait, s)
      else
        match s.readWords 0 phys (rowWords (off / 64)) with
        | (true, s1) => (.err 0x18 a, s1)
        | (false, s1) =>
          (.ok (if w.rank = rankStack then ((leBytes 64 (s1.oldRow phys off).toNat).drop (off % 64)).take n
            else rdBytes s1.mem (scrKey phys off) n), s1)

/-- The rows of a streamed quarter that an engine has now written (R118). -/
def Core.markRow (c : Core) (off : Nat) : Core :=
  let q := off / 4096
  if Sparse.get false c.wq q then
    { c with strm := Sparse.set 0 c.strm q (Sparse.get 0 c.strm q ||| BitVec.ofNat 64 (2 ^ (off / 64 % 64))) }
  else c

/-- The uncorrectable words among some. -/
def State.badWords (s : State) (kind unit : Nat) (ws : List Nat) : List Nat :=
  ws.filter (fun w => s.errs.any (fun e => e.kind == kind && e.unit == unit && e.idx == w && e.bad))

/-- Bytes of SRAM words from an offset on: a word written whole takes fresh check bits; one written in part is read first,
and keeps its contents when it holds an uncorrectable error, which the result says (R140, R264). -/
def State.sramWrite (s : State) (kind phys idx0 : Nat) (key : Nat → Nat) (off : Nat) (bs : List Byte) : Bool × State :=
  let part := (partOf off bs.length).map (idx0 + ·)
  let bad := s.badWords kind phys part
  let s1 := (s.readWords kind phys (part.filter (fun w => !bad.contains w))).2
  let s2 := if bad.isEmpty then s1 else (s1.readWords kind phys bad).2
  let keep : Nat := flagBits ((List.range bs.length).map (fun i => !bad.contains (idx0 + (off + i) / 8)))
  (!bad.isEmpty, { s2 with mem := wrMasked s2.mem (key off) keep bs }.clearErr kind phys ((wholeOf off bs.length).map (idx0 + ·)))

/-- A write of a core's scratch row by an engine whose access is allowed: it waits while a freeze that has begun holds the
scratch ports and while a later engine has written the row on this task cycle (R140, R144). -/
def State.scrWrite (s : State) (w : Who) (phys off : Nat) (bs : List Byte) : Acc Unit × State :=
  if (s.core phys).frozen || s.rowHit phys off (fun r => decide (w.rank < r)) then (.wait, s)
  else
    match s.sramWrite 0 phys 0 (fun o => scrKey phys o) off bs with
    | (bad, s1) =>
      let s2 : State := { s1 with rowsNow := s1.rowsNow ++ [(phys * 4096 + off / 64, w.rank, rdRow s.mem phys (off / 64))] }
      if bad then (.err 0x18 (BitVec.ofNat 64 (phys * 2 ^ 18 + off)), s2) else (.ok (), s2.onCore phys (fun c => c.markRow off))

/-- A write at an operand address. A write into an instruction half sets its WRITTEN flag (R81). -/
def State.engWrite (s : State) (w : Who) (own : Bool) (o : Opnd) (bs : List Byte) : Acc Unit × State :=
  match o with
  | .va a => s.writeVA w a bs
  | .isc h off =>
    if (s.core w.core).frozen then (.wait, s)
    else
      match s.sramWrite 5 w.core (h.toNat * 2048) (fun o => iscKey w.core h o) off bs with
      | (bad, s1) =>
        (if bad then .err 0x18 0 else .ok (),
          s1.onCore w.core (fun c => if h then { c with wrB := true } else { c with wrA := true }))
  | .scr phys off =>
    let a := BitVec.ofNat 64 (phys * 2 ^ 18 + off)
    match scratchAt s.diemask (phys * 2 ^ 18 + off) with
    | none => (.err 0x12 a, s)
    | some _ => if !s.mayTouch w own phys off then (.err 0x10 a, s) else s.scrWrite w phys off bs

/-- Reads a range of bytes in pieces that stay within one 4 KiB page. `n` pieces at most. -/
def State.engReadN (s : State) (w : Who) (own : Bool) (o : Opnd) : Nat → Nat → Acc (List Byte) × State
  | 0, _ => (.ok [], s)
  | fuel + 1, n =>
    let off := match o with
      | .va a => a % 64
      | .scr _ f => f % 64
      | .isc _ f => f % 64
    let k := min n (64 - off)
    if n = 0 then (.ok [], s)
    else Acc.bind (s.engRead w own o k) fun a s1 =>
      Acc.bind (State.engReadN s1 w own (o.plus k) fuel (n - k)) fun b s2 => (.ok (a ++ b), s2)

/-- Writes a range of bytes in pieces of at most one row. -/
def State.engWriteN (s : State) (w : Who) (own : Bool) (o : Opnd) : Nat → List Byte → Acc Unit × State
  | 0, _ => (.ok (), s)
  | fuel + 1, bs =>
    let off := match o with
      | .va a => a % 64
      | .scr _ f => f % 64
      | .isc _ f => f % 64
    let k := 64 - off
    if bs.isEmpty then (.ok (), s)
    else Acc.bind (s.engWrite w own o (bs.take k)) fun _ s1 => State.engWriteN s1 w own (o.plus k) fuel (bs.drop k)

/-- Enough pieces for `n` bytes. -/
def pieces (n : Nat) : Nat := n / 64 + 2

/-- Reads `n` bytes at an operand address. -/
def State.rdOp (s : State) (w : Who) (own : Bool) (o : Opnd) (n : Nat) : Acc (List Byte) × State :=
  s.engReadN w own o (pieces n) n

/-- Writes bytes at an operand address. -/
def State.wrOp (s : State) (w : Who) (own : Bool) (o : Opnd) (bs : List Byte) : Acc Unit × State :=
  s.engWriteN w own o (pieces bs.length) bs

end Sys2Proof.Machine
end

