-- ==== Sys2Proof/Machine/Cmds.lean ====
section
/-! DEFINITION. What a channel command names and what is still outstanding: quarters (spec/05_scratchpad.md R119 to R121,
spec/15 R376, R390), the TARGET condition of an instruction half (spec/03_core.md R81), and engine work that a core issued
(spec/02_execution.md R40, R51; spec/11_faults.md R256). -/

namespace Sys2Proof.Machine

/-- Quarters, numbered physical core × 64 + quarter, that a byte range of scratch touches. -/
def qRange (o : Opnd) (len : Nat) : List Nat :=
  match o with
  | .scr phys off =>
    if len = 0 then []
    else
      let a := phys * 2 ^ 18 + off
      (List.range ((a + len - 1) / 4096 - a / 4096 + 1)).map (fun i => a / 4096 + i)
  | _ => []

/-- The quarters of a range at a register's operand address. -/
def qAt (self : Nat) (v : W64) (len : Nat) : List Nat :=
  match opndOf self v with
  | some o => qRange o len
  | none => []

/-- Line `i` of a `CPY2`, source (true) or destination. -/
def lineAt (v : W64) (stride i : Nat) : W64 := v + BitVec.ofNat 64 (64 * (i * stride))

/-- The half of instruction scratch that an operand address names. -/
def halfOf (self : Nat) (v : W64) : Option Bool :=
  match opndOf self v with
  | some (.isc h _) => some h
  | _ => none

/-- The destination half of a copy into instruction scratch. -/
def CmdKind.half? (self : Nat) (k : CmdKind) : Option Bool :=
  match k with
  | .cpy dst _ _ _ => halfOf self dst
  | .cpy2 dst _ _ _ _ => halfOf self dst
  | .cpyl dst _ _ _ => halfOf self dst
  | _ => none

/-- The halves that the registers of any command name as a destination (R132, R314). -/
def CmdKind.halves (self : Nat) (k : CmdKind) : Option Bool :=
  match k with
  | .sig addr _ _ _ => halfOf self addr
  | .ssel out _ _ => halfOf self out
  | .pgft _ _ rc _ _ => halfOf self rc
  | .pmov _ _ rc => halfOf self rc
  | k => k.half? self

/-- The quarters that a command names, from its operands and what its start has read (R119 to R121, R133, R374, R376). The
sources of a copy into instruction scratch return by `.RET` (R442) and are among them; the sources that only the entries of a
`CPYL` list name are not (log 46). A command that is refused for its operands names them as far as its entry's limits reach
(log 22). -/
def Cmd.names (self : Nat) (c : Cmd) : List Nat :=
  match c.kind with
  | .cpy dst src rows x =>
    let n := min rows (2 ^ 24)
    qAt self dst (64 * n) ++ (if x.isSome then [] else qAt self src (64 * n))
  | .cpy2 dst src dim rows tr =>
    let lines := min rows 65535
    let lr := min (bitsOf dim.toNat 15 0) 1024
    let ss := bitsOf dim.toNat 39 16
    let ds := bitsOf dim.toNat 63 40
    (List.range lines).flatMap (fun i => qAt self (lineAt src ss i) (64 * lr)) ++
    (if tr = 0 then (List.range lines).flatMap (fun i => qAt self (lineAt dst ds i) (64 * lr))
     else qAt self dst (64 * lines * lr))
  | .cpyl dst list p n =>
    let count := min n 65536
    qAt self dst (64 * min p.toNat 128 * count) ++ qAt self list (8 * count)
  | .atom addr _ _ _ _ _ eight => qAt self addr (if eight then 8 else 4)
  | .sig addr _ _ eight => qAt self addr (if eight then 8 else 4)
  | .fence => []
  | .coll blk => qAt self blk 48 ++ c.qset
  | .cstk desc _ _ => qAt self desc 128
  | .pgft ra rb rc q0 chain =>
    (if chain then [] else qAt self ra 16) ++ qAt self rb 128 ++ qAt self rc 8 ++
    (List.range 8).map (fun i => self * 64 + q0 + i) ++ c.qset
  | .preq q n => (List.range n).map (fun i => self * 64 + q + i)
  | .wbk q n => (List.range n).map (fun i => self * 64 + q + i)
  | .pmov _ _ rc => qAt self rc 8
  | .sset _ img => qAt self img 64
  | .sins blk => qAt self blk 64
  | .ssel out qb _ => qAt self out 4624 ++ qAt self qb 64
  | .sage _ _ => []
  | .sdel _ _ _ => []
  | .smig _ _ _ => []
  | .pgap desc _ => qAt self desc 128
  | .plan blk => qAt self blk 32 ++ c.qset

/-- Commands that deliver rows through the channel itself. -/
def CmdKind.rows (k : CmdKind) : Bool :=
  match k with
  | .cpy _ _ _ _ => true
  | .cpy2 _ _ _ _ _ => true
  | .cpyl _ _ _ _ => true
  | .atom _ _ _ _ _ _ _ => true
  | .sig _ _ _ _ => true
  | .preq _ _ => true
  | .wbk _ _ => true
  | _ => false

/-- A fence. -/
def CmdKind.isFence (k : CmdKind) : Bool := k == .fence

/-- Commands that another engine runs (R363). -/
def CmdKind.other (k : CmdKind) : Bool := !k.rows && !k.isFence

/-- Commands whose engine reads and writes what tables and descriptors name: rows of sets, page headers, work lists. -/
def CmdKind.tabled (k : CmdKind) : Bool :=
  match k with
  | .sset _ _ => true
  | .sins _ => true
  | .ssel _ _ _ => true
  | .sage _ _ => true
  | .sdel _ _ _ => true
  | .smig _ _ _ => true
  | .pgap _ _ => true
  | .plan _ => true
  | _ => false

/-- A channel of a core. -/
def Core.chan (c : Core) (ch : Bool) : Chan := if ch then c.c1 else c.c0

/-- Changes a channel. -/
def Core.onChan (c : Core) (ch : Bool) (f : Chan → Chan) : Core :=
  if ch then { c with c1 := f c.c1 } else { c with c0 := f c.c0 }

/-- Commands that both channels hold. -/
def Core.held (c : Core) : List Cmd := c.c0.cmds ++ c.c1.cmds

/-- Whether a held command of the core names a quarter of the core. -/
def Core.namesQ (c : Core) (q : Nat) : Bool := c.held.any (fun k => (k.names c.id).contains (c.id * 64 + q))

/-- The agent of a command of a channel. -/
def State.whoOf (s : State) (k : Nat) (ch : Bool) (m : Cmd) : Who := { s.who k with op := m.uid, rank := 2 * k + ch.toNat }

/-- Bytes of an element of the formats that a team may use: FP32, FP16, BF16, INT32 (R285). -/
def collSz (f : Nat) : Nat := if f = 1 || f = 2 then 2 else 4

/-- Elements of SEND and RECV of a rank (R285). -/
def Coll.sendN (x : Coll) : Nat :=
  match x.op with
  | 1 => x.nrank * x.count
  | 3 => if x.myrank = x.root then x.count else 0
  | _ => x.count
def Coll.recvN (x : Coll) : Nat := if x.op = 2 then x.nrank * x.count else x.count

/-- The quarters that a collective reads and writes. -/
def Coll.quarters (x : Coll) : List Nat :=
  let k := x.core.getD 0xFFFF
  qAt k x.send (collSz x.fmt * x.sendN) ++ qAt k x.recv (collSz x.outfmt * x.recvN) ++ qAt k x.status 8

/-- The quarters of a lane's scratch window. -/
def Lane.quarters (l : Lane) : List Nat := qRange (.scr (l.sbase / 2 ^ 18) (l.sbase % 2 ^ 18)) l.slen

/-- The quarters of the batch table of a `PLAN` that has read its block: the operand address BATCH, with as many entries as the
header showed then (R206, R375). -/
def Cmd.batch (self : Nat) (c : Cmd) : List Nat :=
  match c.kind with
  | .plan _ => if c.phase == .handed then qAt self (BitVec.ofNat 64 (fieldAt c.blk 0 8)) (16 + 32 * fieldAt c.blk 36 4) else []
  | _ => []

/-- Whether a command in flight names a quarter: one that a channel of any core holds, a collective or a stack program (R99). -/
def State.qHeld (s : State) (q : Nat) : Bool :=
  s.cores.any (fun e => e.2.held.any (fun m => (m.names e.2.id ++ m.batch e.2.id).contains q)) ||
  s.dies.any (fun d => d.2.coll.any (fun e => e.2.any (fun x => x.quarters.contains q))) ||
  s.lanes.any (fun l => l.2.phase != .idle && (l.2.quarters ++ qAt l.2.core l.2.status 8).contains q)

/-- TARGET of a half (R81). -/
def Core.target (c : Core) (h : Bool) : Bool := c.held.any (fun k => k.kind.half? c.id == some h)

/-- WRITTEN of a half. -/
def Core.written (c : Core) (h : Bool) : Bool := if h then c.wrB else c.wrA

/-- Notes quarters that a command of the region of a depth names (R258). -/
def Core.noteNames (c : Core) (depth : Nat) (qs : List Nat) : Core :=
  { c with crgn := (c.crgn.zipIdx).map (fun e =>
      if e.2 + depth = c.crgn.length then { e.1 with named := e.1.named ++ qs.filter (fun q => !e.1.named.contains q) } else e.1) }

/-- Depths of the containment regions of all engine work of a core that has not performed: held commands, collectives and
stack programs (R40, R51, R256, R341). -/
def State.engineWork (s : State) (k : Nat) : List Nat :=
  let c := s.core k
  c.held.map (·.depth) ++
  s.dies.flatMap (fun d => d.2.coll.flatMap (fun q =>
    (q.2.filter (fun x => x.core == some k && x.inst == c.inst)).map (·.depth))) ++
  (s.lanes.filter (fun l => l.2.phase != .idle && l.2.core == k && l.2.inst == c.inst)).map (fun l => l.2.depth)

/-- Whether a quarter is mapped in a region slot (R176). -/
def Core.mapOf (c : Core) (q : Nat) : Option (Nat × MapSlot) :=
  (c.maps.filterMap (fun e => match e.2 with
    | some m => if m.q ≤ q && q < m.q + m.n then some (e.1, m) else none
    | none => none)).head?

/-- Whether a quarter is mapped. -/
def Core.mapped (c : Core) (q : Nat) : Bool := (c.mapOf q).isSome

/-- Whether a fill of a quarter is in flight (R178). -/
def Core.filling (c : Core) (q : Nat) : Bool :=
  c.held.any (fun k => match k.kind with
    | .preq q0 n => q0 ≤ q && q < q0 + n
    | _ => false)

/-- Whether a write-back of a quarter is in flight: it is in the set of a started `WBK` (R179, R431). -/
def Core.backing (c : Core) (q : Nat) : Bool :=
  c.held.any (fun k => match k.kind with
    | .wbk _ _ => k.phase != .held && k.qset.contains q
    | _ => false)

/-- A tensor table entry. -/
def Core.tent (c : Core) (tid : Nat) : Nat := (Sparse.get 0 c.tt tid).toNat

/-- Element bits × 16 of a format code of R98: SX blocks hold 16 elements. -/
def elemBits16 (fmt : Nat) : Nat :=
  match fmt with
  | 9 => 144
  | 10 => 96
  | 11 => 64
  | f => 16 * tyBits f

/-- Fields of a tensor table entry (R98). -/
def ttFmt (e : Nat) : Nat := bitsOf e 3 0
def ttLayout (e : Nat) : Nat := bitsOf e 5 4
def ttFq (e : Nat) : Nat := bitsOf e 11 6
def ttQcnt (e : Nat) : Nat := bitsOf e 18 12
def ttRows (e : Nat) : Nat := bitsOf e 34 19
def ttCols (e : Nat) : Nat := bitsOf e 50 35
def ttSrow (e : Nat) : Nat := bitsOf e 62 51
def ttScv (e : Nat) : Bool := bitOf e 63

/-- Whether an entry is valid (R98). -/
def ttValid (e : Nat) : Bool :=
  ttQcnt e != 0 && decide (ttFq e + ttQcnt e ≤ 64) && ttRows e != 0 && ttCols e != 0 && decide (ttFmt e ≤ 11) &&
  ttLayout e != 3 && decide (ttRows e * ttCols e * elemBits16 (ttFmt e) ≤ 16 * (ttQcnt e * 32768)) &&
  (ttFmt e < 9 || ttCols e % 16 == 0)

/-- The quarters of an entry. -/
def ttQuarters (e : Nat) : List Nat := (List.range (ttQcnt e)).map (fun i => ttFq e + i)

end Sys2Proof.Machine
end

