-- ==== Sys2Proof/Machine/Control.lean ====
section
/-! DEFINITION. The sequencer family of the S slot: control registers (spec/14 R337, R338), branches, loops and halves
(spec/03_core.md R71, R72, R80 to R82), waits and barriers (spec/02_execution.md R40, spec/16 R428 to R430, spec/14 R321),
task queues (R37, R38), traps and containment (spec/11_faults.md R254, R256, R270). -/

namespace Sys2Proof.Machine

/-! ### Control registers -/

/-- A privileged control register number (R272, R337). -/
def crPriv (n : Nat) : Bool := 0x080 ≤ n && n ≤ 0x087

/-- `OWNMAP` of 32 quarters from `q` up (R115). -/
def Core.ownmap (c : Core) (q : Nat) : Nat :=
  packN 2 ((List.range 32).map (fun i => match c.owner (q + i) with
    | .core => 0
    | .engine => 1
    | .sched => 2
    | .stat => 3))

/-- One bit per quarter. -/
def quarterBits (f : Nat → Bool) : Nat := flagBits ((List.range 64).map f)

/-- `REFPH` (R244). -/
def State.refph (s : State) : Nat := s.hot.toNat * 2 ^ 32 + Config.refreshPhase s.epoch % 3900 * 2 ^ 16 + 240 * 2 ^ 8

/-- `ACCLIVE` LIVE bits of a stack as a core reads them (R245); of a stack on another die that is clear in `DIEMASK`, which the core
does not reach (R14), they are free (log 14). -/
def State.live (s : State) (k stack : Nat) : Nat :=
  if s.reaches (dieOf k) (stack / 8) then flagBits ((List.range 16).map (fun l => (s.laneAt (stack * 16 + l)).acclive))
  else (Config.farLive k s.glob stack).toNat

/-- The value of a control register of a core (R337). -/
def State.readCr (s : State) (k n : Nat) : Nat :=
  let c := s.core k
  match n with
  | 0x000 => c.cyc
  | 0x001 => s.glob
  | 0x029 => c.tent (c.crv 0x028 % 64)
  | 0x030 => c.ownmap 0
  | 0x031 => c.ownmap 32
  | 0x032 => quarterBits (fun q => Sparse.get false c.wq q)
  | 0x033 => quarterBits c.mapped
  | 0x034 => c.mres.toNat
  | 0x035 => c.mdirty.toNat
  | 0x038 => c.c0.wp
  | 0x039 => c.c1.wp
  | 0x03A => c.c0.crc
  | 0x03B => c.c1.crc
  | 0x040 => 0x03050506
  | 0x041 => s.refph
  | 0x042 => c.crv 0x042 / 2 ^ 16 % 32 * 2 ^ 16 + s.live k (c.crv 0x042 / 2 ^ 16 % 32)
  | 0x048 => c.stub.toNat * 2 ^ 31 + c.crv 0x048 % 2 ^ 31
  | 0x04D => c.crgn.length
  | 0x081 => s.errinjen.toNat
  | 0x082 => s.leakper.toNat
  | 0x083 => s.bktmark.toNat
  | 0x084 => s.ctxbase.toNat
  | 0x085 => s.setbase.toNat
  | 0x086 => s.tlbinv.toNat
  | 0x087 => s.tlbiva.toNat
  | _ => c.crv n

/-- Whether a `TSH` value obeys R57. -/
def tshOk (v : Nat) : Bool :=
  let rows := bitsOf v 7 3
  let ew := bitsOf v 1 0
  let cols := bitsOf v 15 8
  1 ≤ rows && rows ≤ 16 && ew != 3 && cols != 0 && cols * (8 * 2 ^ ew) ≤ 512

/-- Whether an `ERRINJ` value names a flip that exists (R263). -/
def errinjOk (v : Nat) : Bool :=
  let idx := bitsOf v 55 44
  let bit := bitsOf v 43 35
  bitsOf v 62 61 != 3 &&
  (match bitsOf v 60 58 with
   | 0 => true
   | 1 => idx < 17 * 129 && bit < 48
   | 2 => idx < 64
   | 3 => idx < 64
   | 4 => idx < 512 && bit < 32
   | _ => false)

/-- Whether a `TTENT` write is ignored for the quarters of the present entry (R99). -/
def State.ttHeld (s : State) (k e : Nat) : Bool :=
  (ttQuarters e).any (fun q => (s.core k).owner q == .stat || ((s.core k).owner q == .engine && s.qHeld (k * 64 + q)))

/-- The stages of a core's instance. -/
def State.stagesOf (s : State) (k : Nat) : Nat := ((s.inst? (s.core k).inst).map (·.stages)).getD 64

/-- Writes storage of a control register of a core. -/
def State.putCr (s : State) (k n v : Nat) : State := s.onCore k (fun c => c.setCr n (BitVec.ofNat 64 v))

/-- The effect of a `CWR`, field by field: reserved bits drop, read-only registers keep their value, and a value that the
register's own entry rejects is ignored (R6, R18, R57, R58, R99, R173, R263, R265, R337). -/
def State.writeCr (s : State) (k n v : Nat) : State :=
  let c := s.core k
  match n with
  | 0x002 => if v % 64 < s.stagesOf k then s.putCr k n (v % 64) else s
  | 0x008 => s.putCr k n v
  | 0x009 => s.putCr k n (v % 16)
  | 0x00A => s.putCr k n (v % 16)
  | 0x00B => s.putCr k n (v % 32)
  | 0x00C => s.putCr k n (v % 32)
  | 0x00D => s.putCr k n (v % 8)
  | 0x020 => s.putCr k n v
  | 0x021 => s.putCr k n (v % 1024)
  | 0x022 => if bitOf v 0 then s.putCr k n 0 else s
  | 0x023 => if bitOf v 0 then s.putCr k n 0 else s
  | 0x024 => s.putCr k n (v % 256)
  | 0x025 => s.putCr k n (v % 256)
  | 0x028 => s.putCr k n (v % 64)
  | 0x029 =>
    let tid := c.crv 0x028 % 64
    if (v == 0 || ttValid v) && !s.ttHeld k (c.tent tid) then
      s.onCore k (fun c => { c with tt := Sparse.set 0 c.tt tid (BitVec.ofNat 64 v) })
    else s
  | 0x03E => s.putCr k n v
  | 0x042 => s.putCr k n (bitsOf v 20 16 * 2 ^ 16)
  | 0x04E => if s.errinjen && errinjOk v then s.putCr k n (v / 2 ^ 35 * 2 ^ 35 + v % 2 ^ 24) else s
  | 0x080 => s.putCr k n (v % 2048)
  | 0x081 => { s with errinjen := bitOf v 0 }
  | 0x082 => if v % 2 ^ 48 < 2 ^ 20 then s else { s with leakper := BitVec.ofNat 64 (v % 2 ^ 48) }
  | 0x083 => s.newMarks (BitVec.ofNat 64 v)
  | 0x084 => { s with ctxbase := BitVec.ofNat 64 (v % 2 ^ 46 / 2 ^ 18 * 2 ^ 18) }
  | 0x085 => { s with setbase := BitVec.ofNat 64 (v % 2 ^ 46 / 2 ^ 30 * 2 ^ 30) }
  | 0x086 =>
    if bitOf s.tlbinv.toNat 63 || bitsOf v 62 61 == 3 then s
    else
      let s1 : State := { s with tlbinv := BitVec.ofNat 64 (v / 2 ^ 61 * 2 ^ 61 + v % 2 ^ 14) }
      if bitOf v 63 then s1.invalidate else s1
  | 0x087 => { s with tlbiva := BitVec.ofNat 64 (v % 2 ^ 57 / 2 ^ 12 * 2 ^ 12) }
  | _ =>
    if 0x010 ≤ n && n ≤ 0x017 then (if tshOk v then s.putCr k n (bitsOf v 15 3 * 8 + v % 4) else s)
    else if 0x018 ≤ n && n ≤ 0x01C then s.putCr k n (v % 2 ^ 63)
    else s

/-- An issue-time fault found by the meaning itself (R248): recorded against the bundle that issues. -/
def Core.faultIssue (c : Core) (slot cause : Nat) : Core := c.detect slot false cause 0 0 c.baddr 0 true

/-- `CRD` (R337): the value on c lands on c + 2; a privileged register outside stub mode is `PRIV` (R58, R272). -/
def execCrd (g r : BitVec 5) (n : BitVec 12) (s : State) : Res :=
  s.act g (fun c =>
    if crPriv n.toNat && !c.stub then c.faultIssue 0 0x03
    else c.landS 2 r (BitVec.ofNat 64 (s.readCr s.cur n.toNat)))

/-- `CWR` (R337): takes effect for operations issued on c + 1 or later (R58). -/
def execCwr (g r : BitVec 5) (n : BitVec 12) (s : State) : Res :=
  s.act g (fun c =>
    if crPriv n.toNat && !c.stub then c.faultIssue 0 0x03 else c.push 0 1 (.cwr n.toNat (c.sreg r)))

/-- `CYC` (R342). -/
def execCyc (g d : BitVec 5) (t : Bool) (s : State) : Res :=
  s.act g (fun c => c.landS 1 d (BitVec.ofNat 64 (if t then s.glob else c.cyc)))

/-! ### Branches, loops and halves -/

/-- The target of a branch of the issuing bundle, in halfwords from it (R80, R323). -/
def Core.btarget (c : Core) (off : Int) : Int := Int.ofNat c.pc + 2 * off

/-- A taken branch: the target issues on c + 1 (R80). -/
def Core.branch (c : Core) (t : Int) : Core := { c with npc := (t % (2 ^ 14 : Int)).toNat }

/-- `BR` (R323). -/
def execBr (g : BitVec 5) (o : BitVec 14) (s : State) : Res := s.act g (fun c => c.branch (c.btarget o.toInt))

/-- The target of `JMP`: bits [13:1] of the register (R80, R350). -/
def jmpTarget (v : W64) : Nat := v.toNat % 2 ^ 14 / 2 * 2

/-- `JMP` (R350). -/
def execJmp (g a : BitVec 5) (s : State) : Res := s.act g (fun c => c.branch (jmpTarget (c.sreg a)))

/-- `LOOP` (R71, R364). -/
def execLoop (g a : BitVec 5) (k : BitVec 3) (o : BitVec 13) (s : State) : Res :=
  s.act g (fun c =>
    let n := (c.sreg a).toNat
    if n = 0 then c.branch (c.btarget o.toNat) else c.push 0 1 (.loop n (k.toNat + 1)))

/-- `BLOOP` (R72, R322). -/
def execBloop (g : BitVec 5) (o : BitVec 14) (s : State) : Res :=
  s.act g (fun c =>
    if c.crv 0x008 != 0 || c.crv 0x009 != 0 then (c.push 0 1 .bloop).branch (c.btarget o.toInt) else c)

/-- `BSW` (R82, R324): the bundle at the offset of the other half issues on c + 1. -/
def execBsw (g : BitVec 5) (o : BitVec 14) (s : State) : Res :=
  s.act g (fun c => { c with nhalf := !c.half, npc := 2 * o.toNat })

/-- `IFENCE` (R81, R349). -/
def execIfence (g : BitVec 5) (s : State) : Res :=
  s.act g (fun c => { c with wrA := c.wrA && c.target false, wrB := c.wrB && c.target true })

/-! ### Stalls of issue (R428, R321, R340, R184) -/

/-- The barrier that a core names: PKG barriers on logical die 0, others on the core's own (R40). -/
def barIs (c : Core) (b : Nat) (x : Barr) : Bool := x.b == b && (x.scope == 2 || x.ldie == c.ldie)

/-- Whether a core reaches a barrier: one of package scope lives on the physical die of logical die 0 (R14, R40). -/
def State.barNear (s : State) (k : Nat) (i : Inst) (x : Barr) : Bool :=
  x.scope != 2 || s.reaches (dieOf k) (i.place.getD 0 (dieOf k, 0, 0, 0)).1

/-- The barrier of a number, for a core that reaches it. -/
def State.barr? (s : State) (k b : Nat) : Option Barr :=
  (s.inst? (s.core k).inst).bind (fun i => (i.bars.find? (barIs (s.core k) b)).filter (s.barNear k i))

/-- Whether the condition of a stall holds on this task cycle. -/
def State.stallMet (s : State) (k : Nat) (st : Stall) : Bool :=
  let c := s.core k
  match st with
  | .own q => c.owner q == .core
  | .wp ch n => n ≤ (c.chan ch).wp
  | .bar b => (match s.barr? k b with
    | some x => x.phase != bitOf c.arrph.toNat b
    | none => false)
  | .val _ _ _ _ met _ => met
  | .cyc n => n ≤ c.cyc
  | .arrive _ => (s.engineWork k).isEmpty
  | .close => !(s.engineWork k).contains c.crgn.length
  | .gate => !bitOf (c.crv 0x03E) 63 || decide (bitsOf (c.crv 0x03E) 61 0 ≤ (c.chan (bitOf (c.crv 0x03E) 62)).wp)

/-- A bundle held by `st` until its condition holds; then the stall ends and `f` acts. The guard and the registers are read
on presentation, so a stall in force stands whatever they hold later (R428). -/
def State.hold (s : State) (g : BitVec 5) (st : Stall) (f : State → State) : Res :=
  let c := s.me
  if c.stall.isNone && !c.guard g then .next s
  else
    let st' := c.stall.getD st
    if s.stallMet s.cur st' then .next (f (s.onCore s.cur (fun c => { c with stall := none })))
    else .next (s.onCore s.cur (fun c => { c with stall := some st' }))

/-- `WAIT.OWN` (R429). -/
def execWaitOwn (g : BitVec 5) (q : BitVec 6) (s : State) : Res := s.hold g (.own q.toNat) id

/-- `WAIT.WP` (R429). -/
def execWaitWp (g : BitVec 5) (ch : Bool) (a : BitVec 5) (s : State) : Res := s.hold g (.wp ch (s.me.sreg a).toNat) id

/-- A fault of a stalled bundle on its presentation cycle: it stays stopped, unissued (R249). -/
def Core.stopStalled (c : Core) (cause : Nat) (data : W64) (st : Stall) : Core :=
  { c.faultNow 0 cause data with stall := some st }

/-- `WAIT.BAR` (R429): a barrier that is not declared, or is out of reach, is `ADDRESS` on the presentation cycle. -/
def execWaitBar (g : BitVec 5) (b : BitVec 4) (s : State) : Res :=
  if s.me.guard g && s.me.stall.isNone && (s.barr? s.cur b.toNat).isNone then
    .next (s.onCore s.cur (fun c => c.stopStalled 0x12 0 (.bar b.toNat)))
  else s.hold g (.bar b.toNat) id

/-- `WAIT.VAL` (R430): the wait unit reads from the presentation on; a misaligned address or one in instruction scratch
stops the wait. -/
def execWaitVal (g : BitVec 5) (_acq : Bool) (cc : BitVec 3) (a b : BitVec 5) (_sc : BitVec 3) (z : Bool) (s : State) :
    Res :=
  let c := s.me
  let addr := c.sreg a
  let st : Stall := .val addr (c.sreg b) z cc.toNat false c.cyc
  let ok := match opndOf c.id addr with
    | some o => o.aligned (if z then 8 else 4) && !o.isIsc
    | none => false
  if c.guard g && c.stall.isNone && !ok then .next (s.onCore s.cur (fun c => c.stopStalled 0x12 addr st))
  else s.hold g st id

/-- `WAIT.CYC` (R429). -/
def execWaitCyc (g a : BitVec 5) (s : State) : Res := s.hold g (.cyc (s.me.sreg a).toNat) id

/-- An arrival at a barrier (R40): ARRPH takes PHASE, ARRIVED adds 1, and the count turns the phase. -/
def State.arrive (s : State) (k b : Nat) : State :=
  match s.barr? k b with
  | none => s
  | some x =>
    let c := s.core k
    let last := x.count ≤ x.arrived + 1
    let x' : Barr := { x with arrived := if last then 0 else x.arrived + 1, phase := x.phase != last }
    let arr := c.arrph.toNat - (if bitOf c.arrph.toNat b then 2 ^ b else 0) + (if x.phase then 2 ^ b else 0)
    (s.onInst c.inst (fun i => { i with bars := i.bars.map (fun y => if y == x then x' else y) })).onCore k
      (fun c => { c with arrph := BitVec.ofNat 64 arr })

/-- `BAR` (R321, R40): a barrier that is not declared, or is out of reach, is `ADDRESS`. -/
def execBar (g : BitVec 5) (b : BitVec 4) (s : State) : Res :=
  if (s.barr? s.cur b.toNat).isNone then s.act g (fun c => { c.faultNow 0 0x12 0 with stall := none })
  else s.hold g (.arrive b.toNat) (fun s => s.arrive s.cur b.toNat)

/-! ### Task queues (R36 to R39) -/

/-- The physical queue bound to a logical one, as `TQBIND` holds it (R36). -/
def Core.queue? (c : Core) (q : Nat) : Option Nat :=
  let e := c.crv 0x005 / 2 ^ (8 * q) % 256
  if 128 ≤ e then some (e % 64) else none

/-- The effect of `TNEXT` on c + 1: an unbound queue is `ADDRESS`; a record pops (R37). -/
def Core.tnextGo (c : Core) (q pd : Nat) (a : W64) : Core :=
  match c.queue? q with
  | none => c.push 0 1 (.raise 0x12 0)
  | some pq => c.push 0 1 (.tnext pq pd a)

/-- `TNEXT` (R37, R394): the weight gate may hold the bundle (R184). -/
def execTnext (g : BitVec 5) (pd : BitVec 4) (q : BitVec 3) (a : BitVec 5) (s : State) : Res :=
  s.hold g .gate (fun s => s.onCore s.cur (fun c => c.tnextGo q.toNat (c.phP pd.toNat) (c.sreg a)))

/-- `ENQ` (R38, R345). -/
def execEnq (g : BitVec 5) (pd : BitVec 4) (q : BitVec 3) (pri : BitVec 2) (a : BitVec 5) (s : State) : Res :=
  s.act g (fun c =>
    match c.queue? q.toNat with
    | none => c.push 0 1 (.raise 0x12 0)
    | some pq => c.push 0 1 (.enq pq pri.toNat (c.phP pd.toNat) (c.sreg a)))

/-! ### Ends, traps and containment -/

/-- `EXIT` (R346, R51): no further bundle issues; open regions are abandoned. -/
def execExit (g : BitVec 5) (s : State) : Res := s.act g (fun c => { c with exited := true, crgn := [] })

/-- `DBRK` (R343, R270): requests a forced drain on c + 1. -/
def execDbrk (g : BitVec 5) (s : State) : Res := s.act g (fun c => c.push 0 1 .dbrk)

/-- `TRAP` (R254, R395): its fault is detected on c + 1. -/
def execTrap (g : BitVec 5) (i : BitVec 16) (s : State) : Res :=
  s.act g (fun c => c.push 0 1 (.raise 0x16 (i.setWidth 64)))

/-- `TRET` (R254, R395); outside stub mode it is `PRIV`. -/
def execTret (g : BitVec 5) (s : State) : Res :=
  s.act g (fun c => if c.stub then c.trapReturn else c.faultIssue 0 0x03)

/-- `CRGN.OPEN` (R256, R340): the region opens on c, once the bundle's engine commands have the region outside it. -/
def execCrgnOpen (g : BitVec 5) (id : BitVec 8) (o : BitVec 12) (s : State) : Res :=
  s.act g (fun c =>
    if 4 ≤ c.crgn.length then c.faultNow 0 0x12 0
    else c.push 0 0 (.crgnOpen id.toNat (c.branch (c.btarget o.toInt)).npc c.half))

/-- `CRGN.CLOSE` (R256, R340): stalls until the commands of the innermost region have performed, then pops it. -/
def execCrgnClose (g : BitVec 5) (s : State) : Res :=
  if s.me.crgn.isEmpty then s.act g (fun c => c.faultNow 0 0x12 0)
  else s.hold g .close (fun s => s.onCore s.cur (fun c =>
    { c with crgn := c.crgn.tail }.noteNames (c.crgn.length - 1) ((c.crgn.head?.map Crgn.named).getD [])))

end Sys2Proof.Machine
end

