-- ==== Sys2Proof/Machine/Vector.lean ====
section
/-! DEFINITION. The vector slots: lane arithmetic, conversions, compares, masks, reductions and permutes
(spec/16 R397 to R411), crossing and comparing (R327, R432), and random numbers, rotary positions, signatures, block
quantisation and soft-maximum state (R419 to R427; spec/04 R93 to R95, R110; spec/08 R209 to R213). -/

namespace Sys2Proof.Machine

/-! ### What every vector operation shares -/

/-- The number of a vector slot in the order S, V0, V1, M, C0, C1. -/
def vNum (h : VHead) : Nat := if h.slot then 2 else 1

/-- The lane mask that a word names, read on c. -/
def Core.wm (c : Core) (h : VHead) : Nat := c.wreg h.m.toNat

/-- A vector operation with its register sources. A false guard does nothing; a source word with an uncorrectable error
suppresses the operation and raises cause 0x15, a correctable one freezes the group (R66, R140, R264). -/
def State.vop (s : State) (h : VHead) (srcs : List (BitVec 6)) (f : Core → Core) : Res :=
  if !s.me.guard h.g then .next s
  else
    let c := s.me
    let words := srcs.flatMap (fun r => (List.range 8).map (fun i => c.phV h.slot r.toNat * 8 + i))
    match s.readWords (if h.slot then 3 else 2) s.cur words with
    | (true, s1) => .next (s1.onCore s.cur (fun c => c.faultNow (vNum h) 0x15 0))
    | (false, s1) => .next (s1.onCore s.cur f)

/-- A vector result with its write mask in bits. -/
def Core.landV (c : Core) (h : VHead) (lat : Nat) (d : BitVec 6) (v m : Nat) : Core :=
  c.push (vNum h) lat (.vec h.slot (c.phV h.slot d.toNat) (BitVec.ofNat 512 v) (BitVec.ofNat 512 m))

/-- A whole vector register. -/
def fullMask : Nat := 2 ^ 512 - 1

/-- A lane-mask result; the mask register is bound by its number (R399). -/
def Core.landW (c : Core) (h : VHead) (n v m : Nat) : Core :=
  c.push (vNum h) 2 (.msk n (BitVec.ofNat 64 v) (BitVec.ofNat 64 m))

/-- A lane-wise result of `w`-bit lanes (R398). -/
def Core.landLanes (c : Core) (h : VHead) (lat w n : Nat) (d : BitVec 6) (v : Nat) : Core :=
  c.landV h lat d v (laneMask w n (c.wm h))

/-- A lane-wise operation of one source over TYPE. -/
def State.lane1 (s : State) (h : VHead) (o : VR) (lat : Nat) (f : Nat → Nat) : Res :=
  s.vop h [o.a] (fun c => c.landLanes h lat (laneW o.ty) (laneN o.ty) o.d
    (map1 (laneW o.ty) (laneN o.ty) f (c.vreg h.slot o.a)))

/-- A lane-wise operation of two sources over TYPE. -/
def State.lane2 (s : State) (h : VHead) (o : VR) (lat : Nat) (f : Nat → Nat → Nat) : Res :=
  s.vop h [o.a, o.b] (fun c => c.landLanes h lat (laneW o.ty) (laneN o.ty) o.d
    (map2 (laneW o.ty) (laneN o.ty) f (c.vreg h.slot o.a) (c.vreg h.slot o.b)))

/-! ### Floating-point lanes (R400, R401) -/

/-- A floating operation of two lanes, narrowed once (R400). -/
def fbin (ty : BitVec 4) (rz : Bool) (op : Fp → Fp → Fp) (x y : Nat) : Nat :=
  let f := Fmt.ofTy ty.toNat
  f.narrow rz false (op (f.decode x) (f.decode y))

/-- A floating operation of one lane. -/
def fun1 (ty : BitVec 4) (op : Fp → Fp) (x : Nat) : Nat :=
  let f := Fmt.ofTy ty.toNat
  f.narrow false false (op (f.decode x))

/-- `VADD`. -/
def execVadd (h : VHead) (o : VR) (s : State) : Res := s.lane2 h o 2 (fbin o.ty (o.mod.getLsbD 0) Fp.add)

/-- `VSUB`. -/
def execVsub (h : VHead) (o : VR) (s : State) : Res := s.lane2 h o 2 (fbin o.ty (o.mod.getLsbD 0) Fp.sub)

/-- `VMUL`. -/
def execVmul (h : VHead) (o : VR) (s : State) : Res := s.lane2 h o 2 (fbin o.ty (o.mod.getLsbD 0) Fp.mul)

/-- `VFMA`: one rounding of a × b + c. -/
def execVfma (h : VHead) (o : VR) (s : State) : Res :=
  s.vop h [o.a, o.b, o.c] (fun c =>
    let f := Fmt.ofTy o.ty.toNat
    c.landLanes h 4 (laneW o.ty) (laneN o.ty) o.d
      (map3 (laneW o.ty) (laneN o.ty)
        (fun x y z => f.narrow (o.mod.getLsbD 0) false (((f.decode x).mul (f.decode y)).add (f.decode z)))
        (c.vreg h.slot o.a) (c.vreg h.slot o.b) (c.vreg h.slot o.c)))

/-- `VMIN`. -/
def execVmin (h : VHead) (o : VR) (s : State) : Res := s.lane2 h o 2 (fbin o.ty false Fp.min)

/-- `VMAX`. -/
def execVmax (h : VHead) (o : VR) (s : State) : Res := s.lane2 h o 2 (fbin o.ty false Fp.max)

/-- `VABS`. -/
def execVabs (h : VHead) (o : VR) (s : State) : Res := s.lane1 h o 2 (fun1 o.ty Fp.abs)

/-- `VNEG`. -/
def execVneg (h : VHead) (o : VR) (s : State) : Res := s.lane1 h o 2 (fun1 o.ty Fp.neg)

/-- `VRCP` (R107). -/
def execVrcp (h : VHead) (o : VR) (s : State) : Res := s.lane1 h o 8 vrcp

/-- `VRSQ` (R108). -/
def execVrsq (h : VHead) (o : VR) (s : State) : Res := s.lane1 h o 8 vrsq

/-- `VEXP2` (R105). -/
def execVexp2 (h : VHead) (o : VR) (s : State) : Res := s.lane1 h o 8 vexp2

/-- `VLOG2` (R106). -/
def execVlog2 (h : VHead) (o : VR) (s : State) : Res := s.lane1 h o 8 vlog2

/-! ### Conversion (R402) -/

/-- One element of `VCVT` from type `st` to type `dt`; `m0` and `m1` are MOD[0] and MOD[1]. -/
def vconvert (st dt : Nat) (m0 m1 : Bool) (x : Nat) : Nat :=
  match tyFloat st, tyFloat dt with
  | true, true => (Fmt.ofTy dt).narrow m0 m1 ((Fmt.ofTy st).decode x)
  | true, false => ((Fmt.ofTy st).decode x).toInt (tyBits dt) m0 m1
  | false, true => (Fmt.ofTy dt).narrow m0 false (Fp.int (rdInt (tyBits st) m1 x))
  | false, false => narrow (tyBits dt) m0 m1 (rdInt (tyBits st) m1 x)

/-- `VCVT`. -/
def execVcvt (h : VHead) (o : VR) (s : State) : Res :=
  s.vop h [o.a] (fun c =>
    let st := o.ty.toNat
    let dt := o.c.toNat % 16
    let ws := tyBits st
    let wd := tyBits dt
    let n := 512 / max ws wd
    let part := o.mod.toNat / 4
    let sfrom := if wd ≤ ws then 0 else part * n
    let dfrom := if wd ≤ ws then part * n else 0
    let res := (List.range n).map (fun i =>
      vconvert st dt (o.mod.getLsbD 0) (o.mod.getLsbD 1) (lane ws (c.vreg h.slot o.a) (sfrom + i)))
    c.landV h 3 o.d (packN wd res * 2 ^ (wd * dfrom)) (laneMask wd n (c.wm h) * 2 ^ (wd * dfrom)))

/-! ### Integer and bitwise lanes (R403, R404) -/

/-- An integer operation of two lanes with `.S` and `.U`. -/
def ibin (o : VR) (op : Int → Int → Int) (x y : Nat) : Nat :=
  narrow (laneW o.ty) (o.mod.getLsbD 0) (o.mod.getLsbD 1)
    (op (rdInt (laneW o.ty) (o.mod.getLsbD 1) x) (rdInt (laneW o.ty) (o.mod.getLsbD 1) y))

/-- `VIADD`. -/
def execViadd (h : VHead) (o : VR) (s : State) : Res := s.lane2 h o 2 (ibin o (· + ·))

/-- `VISUB`. -/
def execVisub (h : VHead) (o : VR) (s : State) : Res := s.lane2 h o 2 (ibin o (· - ·))

/-- `VIMUL`. -/
def execVimul (h : VHead) (o : VR) (s : State) : Res := s.lane2 h o 2 (ibin o (· * ·))

/-- `VLOGIC`: MOD is the truth table. -/
def execVlogic (h : VHead) (o : VR) (s : State) : Res := s.lane2 h o 2 (ttBits (laneW o.ty) o.mod.toNat)

/-- `VSHL`. -/
def execVshl (h : VHead) (o : VR) (s : State) : Res :=
  s.lane2 h o 2 (fun x y => x * 2 ^ (y % laneW o.ty) % 2 ^ laneW o.ty)

/-- `VSHR`: arithmetic, or logical with `.U`. -/
def execVshr (h : VHead) (o : VR) (s : State) : Res :=
  s.lane2 h o 2 (fun x y =>
    wrapN (laneW o.ty) ((rdInt (laneW o.ty) (o.mod.getLsbD 1) x).fdiv (2 ^ (y % laneW o.ty) : Int)))

/-- `VPOPC`. -/
def execVpopc (h : VHead) (o : VR) (s : State) : Res := s.lane1 h o 2 (popN (laneW o.ty))

/-- The stepped immediate of `VIOTA` and `VMOVI` (R298, R404). -/
def vimm (h : VHead) (i : Imm 12) : Int :=
  match i with
  | .short v => sgn 12 (wrapN 12 (v.toInt + h.st.a))
  | .ext v => sgn 32 (wrapN 32 (v.toInt + h.st.a))

/-- `VIOTA`. -/
def execViota (h : VHead) (o : VI) (s : State) : Res :=
  s.vop h [] (fun c =>
    let w := laneW o.ty
    let n := laneN o.ty
    c.landLanes h 2 w n o.d (packN w ((List.range n).map (fun i => wrapN w (vimm h o.imm + Int.ofNat i)))))

/-- The lane value of `VMOVI`. -/
def vmoviVal (h : VHead) (o : VI) : Nat :=
  if tyFloat o.ty.toNat && !o.mod.getLsbD 0 then (Fmt.ofTy o.ty.toNat).narrow false false (Fp.int (vimm h o.imm))
  else wrapN (laneW o.ty) (vimm h o.imm)

/-- `VMOVI`. -/
def execVmovi (h : VHead) (o : VI) (s : State) : Res :=
  s.vop h [] (fun c =>
    c.landLanes h 2 (laneW o.ty) (laneN o.ty) o.d (packN (laneW o.ty) (List.replicate (laneN o.ty) (vmoviVal h o))))

/-! ### Compares, selects and masks (R405 to R408) -/

/-- Both mask results of a vector compare: wd := t, we := NOT t in the active lanes (R69, R399). -/
def Core.landPair (c : Core) (h : VHead) (d : BitVec 6) (n t : Nat) : Core :=
  let m := maskWrite n (c.wm h)
  (c.landW h (d.toNat % 8) t m).landW h (d.toNat / 8) (2 ^ n - 1 - t) m

/-- A vector compare by a lane condition. -/
def State.vcompare (s : State) (h : VHead) (o : VR) (f : Nat → Nat → Bool) : Res :=
  s.vop h [o.a, o.b] (fun c =>
    let w := laneW o.ty
    let n := laneN o.ty
    c.landPair h o.d n (flagBits (List.zipWith f (lanesN w n (c.vreg h.slot o.a)) (lanesN w n (c.vreg h.slot o.b)))))

/-- `VCMP`. -/
def execVcmp (h : VHead) (o : VR) (s : State) : Res :=
  s.vcompare h o (fun x y => fcond (o.mod.toNat % 8) ((Fmt.ofTy o.ty.toNat).decode x) ((Fmt.ofTy o.ty.toNat).decode y))

/-- `VICMP`. -/
def execVicmp (h : VHead) (o : VR) (s : State) : Res :=
  s.vcompare h o (fun x y => icond (o.mod.toNat % 8) (rdInt (laneW o.ty) (o.mod.getLsbD 3) x)
    (rdInt (laneW o.ty) (o.mod.getLsbD 3) y))

/-- `VSELM`. -/
def execVselm (h : VHead) (o : VR) (s : State) : Res :=
  s.vop h [o.a, o.b] (fun c =>
    let w := laneW o.ty
    let n := laneN o.ty
    let sel := laneMask w n (c.wreg (o.c.toNat % 8))
    c.landLanes h 2 w n o.d (blend (c.vreg h.slot o.b) (c.vreg h.slot o.a) sel))

/-- `WLOG`. -/
def execWlog (h : VHead) (o : VR) (s : State) : Res :=
  s.vop h [] (fun c =>
    c.landW h (o.d.toNat % 8) (ttBits 64 o.mod.toNat (c.wreg (o.a.toNat % 8)) (c.wreg (o.b.toNat % 8))) (2 ^ 64 - 1))

/-- `WCNT`. -/
def execWcnt (h : VHead) (o : VR) (s : State) : Res :=
  s.vop h [] (fun c =>
    let m := c.wreg (o.a.toNat % 8) &&& c.wm h
    c.landV h 2 o.d (if o.mod.getLsbD 0 then lowBit 64 0 m else popN 64 m) fullMask)

/-- `VBITS`. -/
def execVbits (h : VHead) (o : VR) (s : State) : Res :=
  s.vop h [o.a] (fun c =>
    let n := laneN o.ty
    let word := lane 64 (c.vreg h.slot o.a) (o.c.toNat % 8)
    c.landW h (o.d.toNat % 8) (flagBits ((List.range n).map (fun i => bitOf word ((o.b.toNat + i) % 64))))
      (maskWrite n (c.wm h)))

/-! ### Reductions (R409, R100) -/

/-- One level of the pairwise reduction. -/
def pairUp : List Nat → List Nat
  | a :: b :: l => add32 a b :: pairUp l
  | l => l

/-- All levels of the pairwise reduction of up to 2^k values (R100). -/
def sumTree : Nat → List Nat → Nat
  | 0, l => l.headD 0
  | k + 1, l => sumTree k (pairUp l)

/-- `VRSUM` of floating lanes: a masked-off lane enters as −0. -/
def vrsumF (ty : BitVec 4) (m v : Nat) : Nat :=
  let f := Fmt.ofTy ty.toNat
  sumTree 6 ((List.range (laneN ty)).map (fun i =>
    if bitOf m i then r32 (f.decode (lane (laneW ty) v i)) else 0x80000000))

/-- The sum of integers. -/
def sumInt : List Int → Int
  | [] => 0
  | x :: l => x + sumInt l

/-- `VRSUM`. -/
def execVrsum (h : VHead) (o : VR) (s : State) : Res :=
  s.vop h [o.a] (fun c =>
    let v := c.vreg h.slot o.a
    let m := c.wm h
    let r := if tyFloat o.ty.toNat then vrsumF o.ty m v
      else narrow 32 (o.mod.getLsbD 0) (o.mod.getLsbD 1)
        (sumInt ((activeLanes (laneW o.ty) (laneN o.ty) m v).map (fun e => rdInt (laneW o.ty) (o.mod.getLsbD 1) e.2)))
    c.landV h 5 o.d r fullMask)

/-- The first element of a list that no other exceeds under a strict order, with its lane. -/
def firstMax {α : Type} (lt : α → α → Bool) : List (Nat × α) → Option (Nat × α)
  | [] => none
  | e :: l => match firstMax lt l with
    | none => some e
    | some b => if lt e.2 b.2 then some b else some e

/-- `VRMAX` of floating lanes: the maximum as FP32 and its lane. -/
def vrmaxF (ty : BitVec 4) (m v : Nat) : Nat × Nat :=
  let f := Fmt.ofTy ty.toNat
  let l := (activeLanes (laneW ty) (laneN ty) m v).map (fun e => (e.1, f.decode e.2))
  match l.find? (fun e => e.2.isNan) with
  | some e => (fp32.nanBits, e.1)
  | none => match firstMax Fp.ltTotal l with
    | none => (fp32.signBit true + fp32.infBits, 0xFFFFFFFF)
    | some e => (r32 e.2, e.1)

/-- `VRMAX` of integer lanes. -/
def vrmaxI (ty : BitVec 4) (u : Bool) (m v : Nat) : Nat × Nat :=
  let w := laneW ty
  match firstMax (fun (a b : Int) => decide (a < b)) ((activeLanes w (laneN ty) m v).map (fun e => (e.1, rdInt w u e.2))) with
  | none => (if u then 0 else wrapN 32 (-(2 ^ (w - 1) : Int)), 0xFFFFFFFF)
  | some e => (wrapN 32 e.2, e.1)

/-- `VRMAX`. -/
def execVrmax (h : VHead) (o : VR) (s : State) : Res :=
  s.vop h [o.a] (fun c =>
    let v := c.vreg h.slot o.a
    let r := if tyFloat o.ty.toNat then vrmaxF o.ty (c.wm h) v else vrmaxI o.ty (o.mod.getLsbD 1) (c.wm h) v
    c.landV h 5 o.d (r.1 + 2 ^ 32 * r.2) fullMask)

/-! ### Moving lanes (R410, R411) -/

/-- `VPERM`. -/
def execVperm (h : VHead) (o : VR) (s : State) : Res :=
  s.vop h [o.a, o.b, o.c] (fun c =>
    let w := laneW o.ty
    let n := laneN o.ty
    let pool := c.vreg h.slot o.a + 2 ^ 512 * c.vreg h.slot o.c
    c.landLanes h 2 w n o.d (map1 w n (fun i => lane w pool (i % (2 * n))) (c.vreg h.slot o.b)))

/-- `VBCST`. -/
def execVbcst (h : VHead) (o : VR) (s : State) : Res :=
  s.vop h [o.a] (fun c =>
    c.landLanes h 2 (laneW o.ty) (laneN o.ty) o.d
      (packN (laneW o.ty) (List.replicate (laneN o.ty) (lane (laneW o.ty) (c.vreg h.slot o.a) o.c.toNat))))

/-- `VRMG`: the rotation comes from C[5:0], or with `.R` from register c. -/
def execVrmg (h : VHead) (o : VR) (s : State) : Res :=
  s.vop h (if o.mod.getLsbD 0 then [o.a, o.b, o.c] else [o.a, o.b]) (fun c =>
    let r := if o.mod.getLsbD 0 then c.vreg h.slot o.c % 64 else o.c.toNat
    c.landLanes h 2 8 64 o.d
      ((c.vreg h.slot o.a + 2 ^ 512 * c.vreg h.slot o.b) / 2 ^ (8 * r) % 2 ^ 512))

/-! ### Crossing and comparing (R432, R327) -/

/-- `XCP` of a vector slot: a whole register, or one 64-bit lane. -/
def execXcpV (h : VHead) (a : BitVec 6) (f : BitVec 3) (r : BitVec 9) (lane : BitVec 3) (s : State) : Res :=
  s.vop h [a] (fun c =>
    let v := c.vreg h.slot a
    let w := BitVec.ofNat 64 (v / 2 ^ (64 * lane.toNat))
    match f.toNat with
    | 0 => c.pushX (vNum h) (.reg .s (c.phS r.toNat) w)
    | 1 => c.pushX (vNum h) (.vec false (c.phV false r.toNat) (BitVec.ofNat 512 v) (BitVec.allOnes 512))
    | 2 => c.pushX (vNum h) (.vec true (c.phV true r.toNat) (BitVec.ofNat 512 v) (BitVec.allOnes 512))
    | 4 => c.pushX (vNum h) (.reg .g r.toNat w)
    | 5 => c.pushX (vNum h) (.reg .h r.toNat w)
    | _ => c.faultIssue (vNum h) 0x01)

/-- `CMPT` of a vector slot: all 512 bits. -/
def execCmptV (h : VHead) (o : VR) (s : State) : Res :=
  s.vop h [o.a, o.b] (fun c =>
    let a := c.vreg h.slot o.a
    let b := c.vreg h.slot o.b
    c.push (vNum h) 1 (.cmpt (a != b) (BitVec.ofNat 64 (Nat.xor (a % 2 ^ 64) (b % 2 ^ 64)))))

/-! ### Block quantisation (R93, R94, R419 to R421) -/

/-- Element bits of SX9, SX6, SX4. -/
def sxBits (mode : Nat) : Nat :=
  match mode with
  | 0 => 8
  | 1 => 5
  | _ => 3

/-- Block bytes of SX9, SX6, SX4. -/
def sxBytes (mode : Nat) : Nat := 2 + 2 * sxBits mode

/-- Lanes 0 to 15 as FP32 with inactive lanes +0. -/
def lanesF (m v : Nat) : List Fp :=
  (List.range 16).map (fun i => if bitOf m i then d32 (lane 32 v i) else .fin false 0 0)

/-- NaN or infinite. -/
def Fp.wild (a : Fp) : Bool :=
  match a with
  | .fin _ _ _ => false
  | _ => true

/-- floor(log2 |x|) of the largest magnitude of a list, none when all are zero. -/
def maxExp : List Fp → Option Int
  | [] => none
  | .fin _ m e :: l =>
    if m = 0 then maxExp l
    else match maxExp l with
      | none => some (expOf m e)
      | some k => some (max k (expOf m e))
  | _ :: l => maxExp l

/-- The shared exponent of R94. -/
def sxExp (l : List Fp) : Nat :=
  if l.any Fp.wild then 0xFF
  else match maxExp l with
    | none => 0
    | some e => (min 254 (max 0 (e + 127))).toNat

/-- The quad shift of R94. -/
def sxShift (e : Int) (quad : List Fp) : Nat :=
  match maxExp quad with
  | none => 3
  | some g => (min 3 (max 0 (e - g))).toNat

/-- One element m of R94, as a b-bit field. -/
def sxElem (b : Nat) (scale : Int) (x : Fp) : Nat :=
  match x with
  | .fin neg m e => wrapN b (satS b (roundInt false neg m (e - scale)))
  | _ => 0

/-- The SX block of 16 values under a shared exponent, as a number (R93, R94). -/
def sxBlock (b ex : Nat) (l : List Fp) : Nat :=
  if ex = 0xFF || l.any Fp.wild then 0xFF
  else
    let e := Int.ofNat ex - 127
    let sh := (List.range 4).map (fun q => sxShift e ((l.drop (4 * q)).take 4))
    let ms := (List.range 16).map (fun i =>
      sxElem b (e - Int.ofNat (sh.getD (i / 4) 0) - Int.ofNat b + 2) (l.getD i .nan))
    ex + 2 ^ 8 * packN 2 sh + 2 ^ 16 * packN b ms

/-- `VBMAX`: E goes to the slot's own bypass, readable from c + 3. -/
def execVbmax (h : VHead) (o : VR) (s : State) : Res :=
  s.vop h [o.a] (fun c =>
    c.push (vNum h) 3 (.cr (if h.slot then 0x025 else 0x024)
      (BitVec.ofNat 64 (sxExp (lanesF (c.wm h) (c.vreg h.slot o.a))))))

/-- `VQSX`: E comes from the other slot's bypass. -/
def execVqsx (h : VHead) (o : VR) (s : State) : Res :=
  s.vop h [o.a] (fun c =>
    let mode := o.mod.toNat % 4
    let ex := c.crv (if h.slot then 0x024 else 0x025) % 256
    let nb := sxBytes mode
    let sh := 8 * (o.c.toNat * nb)
    c.landV h 4 o.d (sxBlock (sxBits mode) ex (lanesF (c.wm h) (c.vreg h.slot o.a)) * 2 ^ sh)
      ((2 ^ (8 * nb) - 1) * 2 ^ sh))

/-- Element `i` of an SX block as an exact value, nothing for the NaN of E = 0xFF (R93). -/
def sxVal (b blk i : Nat) : Option Fp :=
  let ex := blk % 256
  if ex = 0xFF then none
  else
    let m := sgn b (blk / 2 ^ (16 + b * i))
    some (Fp.ofInt false m (Int.ofNat ex - 127 - Int.ofNat (bitsOf blk (9 + 2 * (i / 4)) (8 + 2 * (i / 4))) - (Int.ofNat b - 2)))

/-- Element `i` of an SX block as FP32 bits (R93). The formula gives one value that FP32 does not hold, −2^128 of E = 254 with a
shift of 0: it decodes to −∞ by rounding (log 46). -/
def sxDecode (b blk i : Nat) : Nat :=
  match sxVal b blk i with
  | some v => r32 v
  | none => fp32.nanBits

/-- `VDQSX`. -/
def execVdqsx (h : VHead) (o : VR) (s : State) : Res :=
  s.vop h [o.a] (fun c =>
    let mode := o.mod.toNat % 4
    let nb := sxBytes mode
    let blk := c.vreg h.slot o.a / 2 ^ (8 * (o.c.toNat * nb)) % 2 ^ (8 * nb)
    c.landLanes h 4 32 16 o.d (packN 32 ((List.range 16).map (sxDecode (sxBits mode) blk))))

/-! ### Signatures (R422, R423) -/

/-- A 16-bit lane of a register. -/
def Core.land16 (c : Core) (h : VHead) (lat : Nat) (d : BitVec 6) (q v : Nat) : Core :=
  c.landV h lat d (v % 2 ^ 16 * 2 ^ (16 * q)) ((2 ^ 16 - 1) * 2 ^ (16 * q))

/-- `VSIGP`. -/
def execVsigp (h : VHead) (o : VR) (s : State) : Res :=
  s.vop h [o.a] (fun c =>
    let v := c.vreg h.slot o.a
    c.land16 h 2 o.d (o.c.toNat % 32) (flagBits ((List.range 16).map (fun i =>
      bitOf (c.wm h) i && (Fp.fin false 0 0).lt (d32 (lane 32 v i))))))

/-- `VMAJ`. -/
def execVmaj (h : VHead) (o : VR) (s : State) : Res :=
  s.vop h [o.a] (fun c =>
    let v := c.vreg h.slot o.a
    let cnt (b : Nat) : Nat := ((List.range 16).filter (fun i => bitOf (c.wm h) i && bitOf (lane 16 v i) b)).length
    c.land16 h 4 o.d (o.c.toNat % 32) (flagBits ((List.range 16).map (fun b => decide (8 ≤ cnt b)))))

/-! ### Attention state (R209 to R211, R424, R425) -/

/-- A soft-maximum state; `rho` is read signed, `p` is the low 256 bits. -/
structure Smx where
  flags : Nat
  fac : Nat
  l : Nat
  rho : Int
  p : Nat
deriving DecidableEq, Repr

/-- Reads a state register (R209). -/
def Smx.read (v : Nat) : Smx := ⟨lane 32 v 11 % 4, lane 32 v 10, lane 32 v 9, sgn 32 (lane 32 v 8), v % 2 ^ 256⟩

/-- Writes a state register. -/
def Smx.write (x : Smx) : Nat :=
  x.p + 2 ^ 256 * packN 32 [wrapN 32 x.rho, x.l, x.fac, x.flags]

/-- FRESH and POISON. -/
def Smx.fresh (x : Smx) : Bool := bitOf x.flags 0
def Smx.poison (x : Smx) : Bool := bitOf x.flags 1

/-- The ceiling of an exact value. -/
def Fp.ceil (a : Fp) : Int :=
  match a with
  | .fin neg m e => if 0 ≤ e then sgnM neg m * (2 ^ e.toNat : Int) else -((-(sgnM neg m)).fdiv (2 ^ (-e).toNat : Int))
  | _ => 0

/-- The largest of a list under R88, −∞ when it is empty. -/
def maxFp : List Fp → Fp
  | [] => .inf true
  | x :: l => x.max (maxFp l)

/-- The update of R210. -/
def vosm (st : Smx) (mask scores : Nat) : Smx :=
  let act := (List.range 16).filter (fun j => bitOf mask j)
  let m := maxFp (act.map (fun j => d32 (lane 32 scores j)))
  let big := !m.isNan && !m.lt (.fin false 1 31)
  let low := st.fresh && m != .inf true && m.lt (.fin true 1 31)
  if st.poison || m.isNan || big || low then
    { st with flags := st.flags % 2 + 2, l := fp32.nanBits, fac := fp32.nanBits, p := packN 16 (List.replicate 16 0x7FC0) }
  else if m = .inf true then { st with fac := 0x3F800000, p := 0 }
  else
    let up := (Fp.int (st.rho + 8)).lt m
    let rho := if st.fresh || up then m.ceil else st.rho
    let fac := if st.fresh then 0x3F800000 else if up then pow2b (st.rho - rho) else 0x3F800000
    let l := if st.fresh then 0 else st.l
    let ps := (List.range 16).map (fun j =>
      if bitOf mask j then
        bf16.narrow false false (d32 (vexp2 (r32 ((d32 (lane 32 scores j)).sub (Fp.int rho)))))
      else 0)
    ⟨0, fac, add32 (mul32 l fac) (sumTree 4 (ps.map (fun b => r32 (bf16.decode b)))), rho, packN 16 ps⟩

/-- `VOSM`. -/
def execVosm (h : VHead) (o : VR) (s : State) : Res :=
  s.vop h [o.d, o.a] (fun c =>
    c.landV h 10 o.d (vosm (Smx.read (c.vreg h.slot o.d)) (c.wm h) (c.vreg h.slot o.a)).write fullMask)

/-- merge(A, B) of R211, with fa in FAC and fb in P[31:0] as R425 places them. -/
def vosfMerge (a b : Smx) : Smx :=
  let put (x : Smx) (fa fb : Nat) : Smx := { x with fac := fa, p := fb }
  if a.poison || b.poison then ⟨2, fp32.nanBits, fp32.nanBits, 0, fp32.nanBits⟩
  else if b.fresh then put a 0x3F800000 0
  else if a.fresh then put b 0 0x3F800000
  else
    let rho := max a.rho b.rho
    let fa := pow2b (a.rho - rho)
    let fb := pow2b (b.rho - rho)
    ⟨0, fa, add32 (mul32 a.l fa) (mul32 b.l fb), rho, fb⟩

/-- `VOSF`: modes `.ST`, `.O` and `.FIN`. -/
def execVosf (h : VHead) (o : VR) (s : State) : Res :=
  match o.mod.toNat with
  | 0 => s.vop h [o.a, o.b] (fun c =>
      c.landV h 8 o.d (vosfMerge (Smx.read (c.vreg h.slot o.a)) (Smx.read (c.vreg h.slot o.b))).write fullMask)
  | 1 => s.vop h [o.a, o.b, o.c] (fun c =>
      let st := Smx.read (c.vreg h.slot o.c)
      c.landLanes h 8 32 16 o.d (map2 32 16
        (fun x y => if st.poison then fp32.nanBits else add32 (mul32 x st.fac) (mul32 y (st.p % 2 ^ 32)))
        (c.vreg h.slot o.a) (c.vreg h.slot o.b)))
  | _ => s.vop h [o.a, o.c] (fun c =>
      let st := Smx.read (c.vreg h.slot o.c)
      c.landLanes h 8 32 16 o.d (map1 32 16
        (fun x => if st.poison then fp32.nanBits else if st.l = 0 then 0 else r32 ((d32 x).div (d32 st.l)))
        (c.vreg h.slot o.a)))

/-! ### Rotary positions and random numbers (R426, R427) -/

/-- Lane `i` of a rotated vector. -/
def vropeLane (a pos freq : Nat) (hi : Bool) (i : Nat) : Nat :=
  let k := i / 2
  let ph := pos % 2 ^ 32 * lane 32 freq (if hi then 8 + k else k) % 2 ^ 32
  let cs := d32 (cosPhase ph)
  let sn := d32 (sinPhase ph)
  let x := d32 (lane 32 a (2 * k))
  let y := d32 (lane 32 a (2 * k + 1))
  if i % 2 = 0 then r32 ((x.mul cs).sub (y.mul sn)) else r32 ((x.mul sn).add (y.mul cs))

/-- `VROPE`. -/
def execVrope (h : VHead) (o : VR) (s : State) : Res :=
  s.vop h [o.a, o.b, o.c] (fun c =>
    c.landLanes h 6 32 16 o.d (packN 32 ((List.range 16).map
      (vropeLane (c.vreg h.slot o.a) (c.vreg h.slot o.b) (c.vreg h.slot o.c) (o.mod.getLsbD 0)))))

/-- `VRNG`. -/
def execVrng (h : VHead) (o : VR) (s : State) : Res :=
  s.vop h [o.a, o.b] (fun c =>
    let idx := c.vreg h.slot o.a % 2 ^ 64
    let key := c.vreg h.slot o.b % 2 ^ 64
    let out (i : Nat) : Nat := kmix (key % 2 ^ 32) (key / 2 ^ 32) ((idx + i) % 2 ^ 64)
    c.landLanes h 6 32 16 o.d (packN 32 ((List.range 16).map (fun i =>
      if o.ty = 0 then fp32.round false false false (out i / 256) (-24) else out i))))

end Sys2Proof.Machine
end

