-- ==== Sys2Proof/Machine/VMove.lean ====
section
/-! DEFINITION. Vector-slot accesses to scratch, the accumulator banks and the tree scratch (spec/16 R412 to R418,
spec/05 R112, R113). -/

namespace Sys2Proof.Machine

/-- Lane bits of the size codes of the VM format: 8, 16, 32, 64. -/
def szBits (sz : Nat) : Nat := 8 * 2 ^ sz

/-- `VLD` (R413): the row is read on c + 1. -/
def execVld (h : VHead) (o : VM) (s : State) : Res :=
  s.vop h (if o.ab then [o.a] else []) (fun c =>
    let w := szBits (o.mod.toNat / 4)
    let n := 512 / w
    c.push (vNum h) 1 (.vld (vmAddr c h.slot o h.st.a) h.slot (c.phV h.slot o.d.toNat)
      (BitVec.ofNat 512 (laneMask w n (c.wm h)))
      (if o.mod.getLsbD 0 then some (o.aux.toNat, BitVec.ofNat 64 (2 ^ n - 1), BitVec.ofNat 64 (maskWrite n (c.wm h))) else none)))

/-- One bit for each byte of a row from a mask in bits: a byte is written when its low bit is. -/
def byteMask (m : Nat) : Nat := flagBits ((List.range 64).map (fun i => bitOf m (8 * i)))

/-- `VST` (R413): the active lanes are written on c + 2. -/
def execVst (h : VHead) (o : VM) (s : State) : Res :=
  s.vop h (if o.ab then [o.d, o.a] else [o.d]) (fun c =>
    let w := szBits (o.mod.toNat / 4)
    c.push (vNum h) 2 (.write (vmAddr c h.slot o h.st.a / 64) (BitVec.ofNat 512 (c.vreg h.slot o.d))
      (BitVec.ofNat 64 (byteMask (laneMask w (512 / w) (c.wm h))))))

/-- The element address of a lane of `VGTH` and `VSCT` (R414): aligned down to its size. -/
def gatherAt (o : VM) (st : Int) (e i : Nat) : Nat :=
  ((Int.ofNat (o.row.toNat * 64 + e * i) + st) % (2 ^ 18 : Int)).toNat / e * e

/-- `VGTH` (R414): all active elements are read on c + 1. -/
def execVgth (h : VHead) (o : VM) (s : State) : Res :=
  s.vop h [o.a] (fun c =>
    let e := 2 ^ (o.aux.toNat % 4)
    let l := activeLanes (8 * e) (64 / e) (c.wm h) (c.vreg h.slot o.a)
    c.push (vNum h) 1 (.vgth (l.map (fun x => (x.1, gatherAt o h.st.a e x.2))) e h.slot (c.phV h.slot o.d.toNat)))

/-- Pushes the active lanes of a scatter, lane j on c + 3 + j. -/
def Core.pushScatter (c : Core) (slot e add : Nat) : List (Nat × Nat × W64) → Core
  | [] => c
  | x :: l => Core.pushScatter (c.push slot (3 + x.1) (.scatter x.2.1 e x.2.2 add)) slot e add l

/-- `VSCT` (R415): add form 0 plain, 1 wrap, 2 FP32, 3 BF16, 4 FP16. -/
def execVsct (h : VHead) (o : VM) (s : State) : Res :=
  s.vop h [o.d, o.a] (fun c =>
    let e := 2 ^ (o.aux.toNat % 4)
    let data := c.vreg h.slot o.d
    let add := if o.mod.getLsbD 0 then 1 + o.mod.toNat / 2 % 4 else 0
    c.pushScatter (vNum h) e add ((activeLanes (8 * e) (64 / e) (c.wm h) (c.vreg h.slot o.a)).map (fun x =>
      (x.1, gatherAt o h.st.a e x.2, BitVec.ofNat 64 (lane (8 * e) data x.1)))))

/-- The bank elements that lanes 0 to 15 of `ARD` and `AWR` name: lane, row, column; lanes beyond the bank are absent
(R416, R417). -/
def accLanes (row col : Nat) (colForm : Bool) : List (Nat × Nat × Nat) :=
  ((List.range 16).map (fun i => (i, if colForm then row + i else row, if colForm then col else col + i))).filter
    (fun e => e.2.1 ≤ 16 && e.2.2 ≤ 128)

/-- The element value as a lane (R416, R102). Mode bit 0 `.S`, bit 1 `.SC`; `sc` is the scale. -/
def ardValue (i32 : Bool) (mode : Nat) (v : BitVec 48) (sc : Nat) : Nat :=
  let lo := v.toNat % 2 ^ 32
  let x : Int := if bitOf mode 0 then satS 32 v.toInt else sgn 32 lo
  if !i32 then lo
  else if bitOf mode 1 then mul32 (r32 (Fp.int x)) sc
  else if bitOf mode 0 then wrapN 32 x else lo

/-- `ARD` (R416): the bank is read on c + 1. Mode: bit 0 `.S`, bit 1 `.SC`, bit 2 INT32. -/
def execArd (h : VHead) (o : VA) (s : State) : Res :=
  s.vop h [] (fun c =>
    c.push (vNum h) 1 (.ard h.slot (c.phV h.slot o.d.toNat) o.bank.toNat
      (stepped o.arow.toNat h.st.a).toNat (stepped o.acol.toNat h.st.b).toNat (o.mod.getLsbD 2)
      (o.mod.toNat % 4 + (if o.ty = 8 then 4 else 0)) (BitVec.ofNat 64 (c.wm h))
      (BitVec.ofNat 64 (c.tent (c.crv 0x028 % 64)))))

/-- `AWR` (R417): the elements are written on c + 2. -/
def execAwr (h : VHead) (o : VA) (s : State) : Res :=
  s.vop h [o.d] (fun c =>
    let v := c.vreg h.slot o.d
    let row := (stepped o.arow.toNat h.st.a).toNat
    let col := (stepped o.acol.toNat h.st.b).toNat
    c.push (vNum h) 2 (.accs o.bank.toNat
      (((accLanes row col (o.mod.getLsbD 2)).filter (fun e => bitOf (c.wm h) e.1)).map (fun e =>
        (e.2.1 * 129 + e.2.2,
          if o.ty = 8 then BitVec.ofInt 48 (sgn 32 (lane 32 v e.1)) else BitVec.ofNat 48 (lane 32 v e.1))))))

/-- The 16 consecutive tree-scratch entries from one up, modulo 512 (R221, R418). -/
def zRun (z : Nat) : List Nat := (List.range 16).map (fun i => (z + i) % 512)

/-- A tree-scratch operation whose reads check the words' error marks (R230, R264). -/
def State.zop (s : State) (g : BitVec 5) (slot : Nat) (zs : List Nat) (f : Core → Core) : Res :=
  if !s.me.guard g then .next s
  else
    match s.readWords 4 s.cur zs with
    | (true, s1) => .next (s1.onCore s.cur (fun c => c.faultNow slot 0x15 0))
    | (false, s1) => .next (s1.onCore s.cur f)

/-- `ZLD` (R418). -/
def execZld (h : VHead) (d : BitVec 6) (z : BitVec 9) (s : State) : Res :=
  let zs := zRun (steppedMod z.toNat h.st.a 512)
  s.zop h.g (vNum h) zs (fun c => c.landV h 3 d (packN 32 (zs.map c.zreg)) fullMask)

/-- `ZST` (R418). -/
def execZst (h : VHead) (d : BitVec 6) (z : BitVec 9) (s : State) : Res :=
  s.vop h [d] (fun c =>
    let zs := zRun (steppedMod z.toNat h.st.a 512)
    c.push (vNum h) 2 (.zs (List.zipWith (fun k v => (k, BitVec.ofNat 32 v)) zs (lanesN 32 16 (c.vreg h.slot d)))))

end Sys2Proof.Machine
end

