-- ==== Sys2Proof/Machine/Matrix.lean ====
section
/-! DEFINITION. The stationary-tensor operations of the M slot (spec/05_scratchpad.md R122 to R131; spec/15 R366 to R371). -/

namespace Sys2Proof.Machine

/-- `MSTAT` (R370): its checks and its flip are on c + 1. -/
def execMstat (h : MHead) (tid : BitVec 6) (s : State) : Res := s.act h.g (fun c => c.push 3 1 (.mstat tid.toNat))

/-- `MREL` (R369): checked on c + 1 to c + 4, flip on c + 4. -/
def execMrel (h : MHead) (tid : BitVec 6) (layout : BitVec 2) (s : State) : Res :=
  s.act h.g (fun c => c.push 3 1 (.mrel tid.toNat layout.toNat 3))

/-- ROWS, COLS and EW of a tile's shape (R56). -/
def Core.tshRows (c : Core) (t : Nat) : Nat := bitsOf (c.crv (0x010 + t)) 7 3
def Core.tshCols (c : Core) (t : Nat) : Nat := bitsOf (c.crv (0x010 + t)) 15 8
def Core.tshEw (c : Core) (t : Nat) : Nat := c.crv (0x010 + t) % 4

/-- Rows of a tile operation: `m` rows from a scratch row, or `ADDRESS` on c + 1 (R371). -/
def Core.tileRows (c : Core) (row : Int) (m : Nat) (f : Nat → Nat → Core → Core) : Core :=
  if row < 0 || 4096 < row + Int.ofNat m then c.push 3 1 (.raise 0x12 0)
  else (List.range m).foldl (fun c k => f k (row.toNat + k) c) c

/-- `MTLD` (R371): row k is read on c + 1 + k. -/
def execMtld (h : MHead) (t : BitVec 4) (row : BitVec 12) (s : State) : Res :=
  s.act h.g (fun c => c.tileRows (stepped row.toNat h.st.a) (c.tshRows t.toNat)
    (fun k r c => c.push 3 (1 + k) (.mtldRow t.toNat k r)))

/-- `MTST` (R371): the tile is read on c, row k is written on c + 2 + k. -/
def execMtst (h : MHead) (t : BitVec 4) (row : BitVec 12) (s : State) : Res :=
  s.act h.g (fun c => c.tileRows (stepped row.toNat h.st.a) (c.tshRows t.toNat)
    (fun k r c => c.push 3 (2 + k) (.write r (c.tileRow t.toNat k) (BitVec.allOnes 64))))

/-- `MMUL` (R367, R368): the tile and its shape are read on c; the rest is checked on c + 1. -/
def execMmul (h : MHead) (acc ck : Bool) (fmt bank : BitVec 3) (t : BitVec 4) (tid : BitVec 6) (k0 n0 : BitVec 16)
    (s : State) : Res :=
  s.act h.g (fun c =>
    c.push 3 1 (.mmulGo acc ck fmt.toNat bank.toNat ((List.range (c.tshRows t.toNat)).map (c.tileRow t.toNat))
      (c.tshRows t.toNat) (c.tshCols t.toNat) tid.toNat
      (steppedMod k0.toNat h.st.a (2 ^ 16)) (steppedMod n0.toNat h.st.b (2 ^ 16))))

/-- `MCLR` (R366): clears the bank on c + 1. -/
def execMclr (h : MHead) (bank : BitVec 3) (s : State) : Res := s.act h.g (fun c => c.push 3 1 (.accClear bank.toNat))

/-- `XCP` of the M slot (R432): an entry of the tree scratch, zero-extended. -/
def execXcpM (h : MHead) (zs : BitVec 9) (f : BitVec 3) (r : BitVec 5) (s : State) : Res :=
  s.zop h.g 3 [zs.toNat] (fun c =>
    let v := BitVec.ofNat 64 (c.zreg zs.toNat)
    match f.toNat with
    | 0 => c.pushX 3 (.reg .s (c.phS r.toNat) v)
    | 4 => c.pushX 3 (.reg .g r.toNat v)
    | _ => c.pushX 3 (.reg .h r.toNat v))

/-! ### Slabs and streaming (R123, R124, R126 to R130) -/

/-- MAC rate and slab elements of a stationary format: E_f and Q_f (R123); zero where it cannot be stationary. -/
def slabElems (fmt : Nat) : Nat :=
  match fmt with
  | 2 => 2048
  | 3 => 4096
  | 4 => 4096
  | 5 => 4096
  | 6 => 8192
  | 9 => 3584
  | 10 => 5120
  | 11 => 8192
  | _ => 0

/-- MACs per quarter per task cycle Q_f (R123). -/
def slabRate (fmt : Nat) : Nat :=
  match fmt with
  | 2 => 64
  | 3 => 128
  | 4 => 128
  | 5 => 256
  | 6 => 1024
  | 9 => 256
  | 10 => 512
  | _ => 1024

/-- K_s of a tensor of `rows` inputs (R123). -/
def slabK (rows : Nat) : Nat := if rows ≤ 16 then 16 else if rows ≤ 32 then 32 else if rows ≤ 64 then 64 else 128

/-- Input slabs A and output slabs Bn of an entry. -/
def slabA (e : Nat) : Nat := (ttRows e + slabK (ttRows e) - 1) / slabK (ttRows e)
def slabN (e : Nat) : Nat := slabElems (ttFmt e) / slabK (ttRows e)
def slabB (e : Nat) : Nat := (ttCols e + slabN e - 1) / slabN e

/-- Whether an activation format of an `MMUL` suits a stationary format (R126). -/
def fmtPair (fmt st : Nat) : Bool :=
  match fmt with
  | 0 => st == 2 || st == 9 || st == 10 || st == 11
  | 1 => st == 3 || st == 4
  | 2 => st == 3 || st == 4
  | _ => st == 5 || st == 6

/-- Activation element bits of an `MMUL` format, and the tile's EW that it needs (R126). -/
def mmulBits (fmt : Nat) : Nat := if fmt = 0 then 16 else 8
def mmulEw (fmt : Nat) : Nat := if fmt = 0 then 1 else 0

/-- Outputs nout of an `MMUL` (R127). -/
def mmulOut (e n0 : Nat) : Nat :=
  if slabN e ≤ 128 then min 128 (ttCols e - n0) else min (min 128 (ttCols e - n0)) (slabN e - n0 % slabN e)

/-- The limits of R127 on an entry. -/
def mmulOk (e l k0 n0 : Nat) : Bool :=
  decide (k0 < ttRows e) && decide (k0 % slabK (ttRows e) + l ≤ slabK (ttRows e)) &&
  (if slabN e ≤ 128 then n0 % slabN e == 0 else n0 % slabN e % 128 == 0) && decide (n0 < ttCols e)

/-- The quarters through which an `MMUL` streams (R123, R129). -/
def mmulQuarters (e k0 n0 : Nat) : List Nat :=
  let a := k0 / slabK (ttRows e)
  let b0 := n0 / slabN e
  let b1 := (n0 + mmulOut e n0 - 1) / slabN e
  (List.range (b1 - b0 + 1)).map (fun i => ttFq e + (b0 + i) * slabA e + a)

/-- Input cycles of one activation row, c_in (R129). -/
def mmulCin (e l : Nat) : Nat := (l * min (slabN e) 128 + slabRate (ttFmt e) - 1) / slabRate (ttFmt e)

/-- The bits of one output column of a slab: input `k` of the slab (R124). -/
def slabValue (fmt ks : Nat) (col : Nat) (k : Nat) : Fp :=
  match fmt with
  | 2 => bf16.decode (lane 16 col k)
  | 3 => (Fmt.ofTy 3).decode (lane 8 col k)
  | 4 => (Fmt.ofTy 4).decode (lane 8 col k)
  | 5 => Fp.int (sgn 8 (lane 8 col k))
  | 6 => Fp.int (sgn 4 (lane 4 col k))
  | _ =>
    let mode := fmt - 9
    let nb := sxBytes mode
    let _ := ks
    (sxVal (sxBits mode) (col / 2 ^ (8 * nb * (k / 16)) % 2 ^ (8 * nb)) (k % 16)).getD (d32 fp32.nanBits)

/-- Bytes of one output column of a slab. -/
def slabColBytes (fmt ks : Nat) : Nat := ks * elemBits16 fmt / 128

/-- The activation element `e` of a tile row as an exact value. -/
def actValue (fmt : Nat) (row : Nat) (e : Nat) : Fp :=
  match fmt with
  | 0 => bf16.decode (lane 16 row e)
  | 1 => (Fmt.ofTy 3).decode (lane 8 row e)
  | 2 => (Fmt.ofTy 4).decode (lane 8 row e)
  | _ => Fp.int (sgn 8 (lane 8 row e))

/-- A product truncated to a multiple of 2^q, as its signed multiple. -/
def truncTo (q : Int) (p : Fp) : Int :=
  match p with
  | .fin neg m e => sgnM neg (shiftRound true m e q)
  | _ => 0

/-- One group's sum as FP32 bits (R101). -/
def groupSum (g : List Fp) : Nat :=
  if g.any Fp.isNan || (g.contains (.inf true) && g.contains (.inf false)) then fp32.nanBits
  else if g.contains (.inf false) then fp32.infBits
  else if g.contains (.inf true) then fp32.signBit true + fp32.infBits
  else match maxExp g with
    | none => 0
    | some e => r32 (Fp.ofInt false (sumInt (g.map (truncTo (e - 40)))) (e - 40))

/-- The group sums of a product list in ascending input order (R101). `n` bounds the groups. -/
def groupSums : Nat → List Fp → List Nat
  | 0, _ => []
  | n + 1, l => if l.isEmpty then [] else groupSum (l.take 8) :: groupSums n (l.drop 8)

/-- The exact sum of exact values. -/
def sumFp : List Fp → Fp
  | [] => .fin false 0 0
  | x :: l => x.add (sumFp l)

/-- An exact integer value. -/
def Fp.intVal (a : Fp) : Int :=
  match a with
  | .fin neg m e => sgnM neg (m * 2 ^ e.toNat)
  | _ => 0

/-- What the element (i, j) of the bank receives: products of inputs k0 to k0 + L − 1 with output n0 + j (R128). -/
def mmulTerm (fmt e l k0 : Nat) (row col : Nat) : MTerm :=
  let ks := slabK (ttRows e)
  let n := min l (ttRows e - k0)
  let ps := (List.range n).map (fun i => (actValue fmt row i).mul (slabValue (ttFmt e) ks col (k0 % ks + i)))
  if fmt = 3 then ⟨[], .fin false 0 0, sumInt (ps.map Fp.intVal)⟩ else ⟨groupSums 16 ps, sumFp ps, 0⟩

/-- The column of output `n` of the slab row of input `k0` in a core's scratch. -/
def State.slabCol (s : State) (k e k0 n : Nat) : Nat :=
  let ks := slabK (ttRows e)
  let q := ttFq e + n / slabN e * slabA e + k0 / ks
  let nb := slabColBytes (ttFmt e) ks
  rdLE s.mem (scrKey k (4096 * q + n % slabN e * nb)) nb

/-- All terms of an `MMUL`: one list per activation row (R128). -/
def State.mmulTerms (s : State) (k fmt e l k0 n0 : Nat) (rows : List Vec) : List (List MTerm) :=
  let cols := (List.range (mmulOut e n0)).map (fun j => s.slabCol k e k0 (n0 + j))
  rows.map (fun r => cols.map (mmulTerm fmt e l k0 r.toNat))

/-- Folds group sums into an accumulator value (R101). -/
def cimSum (acc : Bool) (a : Nat) (ts : List Nat) : Nat :=
  if acc then ts.foldl add32 a
  else match ts with
    | [] => 0
    | t :: l => l.foldl add32 t

/-- The new element of a landing (R128, R368). -/
def mmulElem (acc flt : Bool) (old : BitVec 48) (t : MTerm) : BitVec 48 :=
  if flt then BitVec.ofNat 48 (cimSum acc (old.toNat % 2 ^ 32) t.ts)
  else BitVec.ofInt 48 ((if acc then old.toInt else 0) + t.iv)

/-- The new checksum entry of a landing (R130). With `.ACC` the exact sum is added to the entry and rounded once (log 46). -/
def ckElem (acc flt : Bool) (old : BitVec 48) (ts : List MTerm) : BitVec 48 :=
  if flt then
    let v := sumFp (ts.map (·.ex))
    if acc then BitVec.ofNat 48 (r32 ((d32 (old.toNat % 2 ^ 32)).add v)) else BitVec.ofNat 48 (r32 v)
  else BitVec.ofInt 48 ((if acc then old.toInt else 0) + sumInt (ts.map (·.iv)))

/-- Elements of one list by position. -/
def numbered {α : Type} : Nat → List α → List (Nat × α)
  | _, [] => []
  | i, x :: l => (i, x) :: numbered (i + 1) l

/-- Column `j` of a matrix of lists. -/
def columnOf {α : Type} (j : Nat) (l : List (List α)) : List α := l.filterMap (fun r => r[j]?)

/-- An `MMUL` landing as element writes: the products, and with `.CK` the checksum column, row and corner (R128, R130). -/
def Core.mmulWrites (c : Core) (bank : Nat) (acc ck flt : Bool) (terms : List (List MTerm)) : List (Nat × BitVec 48) :=
  let cell (i j : Nat) (f : BitVec 48 → BitVec 48) : Nat × BitVec 48 := (i * 129 + j, f (c.accAt bank i j))
  let body := (numbered 0 terms).flatMap (fun r => (numbered 0 r.2).map (fun e =>
    cell r.1 e.1 (fun old => mmulElem acc flt old e.2)))
  if ck then
    let ncol := (terms.headD []).length
    body ++ (numbered 0 terms).map (fun r => cell r.1 128 (fun old => ckElem acc flt old r.2)) ++
    (List.range ncol).map (fun j => cell 16 j (fun old => ckElem acc flt old (columnOf j terms))) ++
    [cell 16 128 (fun old => ckElem acc flt old terms.flatten)]
  else body

end Sys2Proof.Machine
end

