-- ==== Sys2Proof/Machine/Lacewing.lean ====
section
/-! DEFINITION. The Lacewing sum-product engine of the M slot (spec/09_lacewing.md R214 to R230; spec/15 R362; spec/04 R96,
R97, R103). -/

namespace Sys2Proof.Machine

/-- A node's value and the flags that forming it set. -/
structure Tv where
  v : Fp
  spo : Bool
  spu : Bool
deriving DecidableEq, Repr

/-- A leaf or flow word decoded under a mode: 0 `.F32`, 1 `.B16`, 2 `.SP` (R222). -/
def twDecode (md : Nat) (sb : Int) (w : Nat) : Fp :=
  match md with
  | 0 => d32 w
  | 1 => bf16.decode (w % 2 ^ 16)
  | _ => let p := spDecode sb w; .fin false p.1 p.2

/-- A node value narrowed under a mode, with the word that is written (R222). -/
def twNarrow (md : Nat) (sb : Int) (v : Fp) : Nat × Tv :=
  if md = 2 then
    match v with
    | .fin _ m e =>
      let r := spRound sb m e
      (r.bits, ⟨twDecode 2 sb r.bits, r.spo, r.spu⟩)
    | _ => (0, ⟨.fin false 0 0, false, false⟩)
  else (r32 v, ⟨d32 (r32 v), false, false⟩)

/-- The operation of node n in a shape word (R215): 0 SUM, 1 PROD, 2 MAX, 3 PASS; a SUM evaluates MAX under `TMXP`. -/
def twOp (shape : Nat) (maxp : Bool) (n : Nat) : Nat :=
  let o := bitsOf shape (2 * n - 1) (2 * n - 2)
  if maxp && o == 0 then 2 else o

/-- The identity of an operation (R223). -/
def twIdent (md op : Nat) : Fp :=
  match op with
  | 1 => .fin false 1 0
  | 2 => if md = 2 then .fin false 0 0 else .inf true
  | _ => .fin false 0 0

/-- A node (R223): SUM and PROD narrow once, MAX and PASS return a child. -/
def twNode (md : Nat) (sb : Int) (op : Nat) (a b : Tv) : Tv :=
  match op with
  | 0 => (twNarrow md sb (a.v.add b.v)).2
  | 1 => (twNarrow md sb (a.v.mul b.v)).2
  | 2 => ⟨a.v.max b.v, false, false⟩
  | _ => ⟨a.v, false, false⟩

/-- One level of the tree: node `n` from each pair of children, left to right (R214). -/
def twLevel (md : Nat) (sb : Int) (op : Nat → Nat) : Nat → List Tv → List Tv
  | n, a :: b :: l => twNode md sb (op n) a b :: twLevel md sb op (n + 1) l
  | _, _ => []

/-- The values v(1) to v(31) in heap order, from the 16 leaves (R103, R224). -/
def twTree (md : Nat) (sb : Int) (op : Nat → Nat) (leaves : List Tv) : List Tv :=
  let l8 := twLevel md sb op 8 leaves
  let l4 := twLevel md sb op 4 l8
  let l2 := twLevel md sb op 2 l4
  let l1 := twLevel md sb op 1 l2
  l1 ++ l2 ++ l4 ++ l8 ++ leaves

/-- Node n of a heap-ordered list. -/
def twAt (t : List Tv) (n : Nat) : Tv := t.getD (n - 1) ⟨.fin false 0 0, false, false⟩

/-- The tree-scratch entry of leaf j (R221). -/
def leafIdx (lm : BitVec 256) (base j : Nat) : Nat := (lane 16 lm.toNat j % 512 + base) % 512

/-- Whether leaf j is enabled (R215). -/
def leafOn (shape j : Nat) : Bool := bitOf shape (30 + j)

/-- The entries that the enabled leaves read (R219). -/
def leafReads (shape : Nat) (lm : BitVec 256) (base : Nat) : List Nat :=
  ((List.range 16).filter (leafOn shape)).map (leafIdx lm base)

/-- The 16 leaves as values. -/
def Core.twLeaves (c : Core) (md : Nat) (sb : Int) (op : Nat → Nat) (shape : Nat) (lm : BitVec 256) (base : Nat) :
    List Tv :=
  (List.range 16).map (fun j =>
    ⟨if leafOn shape j then twDecode md sb (c.zreg (leafIdx lm base j)) else twIdent md (op (8 + j / 2)), false, false⟩)

/-- The scale base as an integer (R97). -/
def Core.sbase (c : Core) : Int := sgn 64 (c.crv 0x020)

/-- A shape table word. -/
def Core.shapeAt (c : Core) (e : Nat) : Nat := (Sparse.get 0 c.shape e).toNat

/-- A leaf map. -/
def Core.leafAt (c : Core) (e : Nat) : BitVec 256 := Sparse.get 0 c.leaf e

/-- Tree-scratch writes from an entry up, modulo 512 (R221). -/
def zFrom (zd : Nat) (ws : List Nat) : List (Nat × W32) :=
  (numbered 0 ws).map (fun e => ((zd + e.1) % 512, BitVec.ofNat 32 e.2))

/-- A result of the tree scratch with its sticky flags, on c + lat (R222). -/
def Core.landZ (c : Core) (lat zd : Nat) (ws : List Nat) (spo spu : Bool) : Core :=
  (c.push 3 lat (.zs (zFrom zd ws))).pushSticky lat spo spu

/-- `TUP` (R224). -/
def execTup (h : MHead) (md : BitVec 2) (zd : BitVec 9) (sh lm : BitVec 6) (base : BitVec 9) (s : State) : Res :=
  let sw := s.me.shapeAt sh.toNat
  let lf := s.me.leafAt lm.toNat
  let b := steppedMod base.toNat h.st.b 512
  s.zop h.g 3 (leafReads sw lf b) (fun c =>
    let op := twOp sw false
    let t := twTree md.toNat c.sbase op (c.twLeaves md.toNat c.sbase op sw lf b)
    let outs := match bitsOf sw 47 46 with
      | 0 => [1]
      | 1 => [1, 2, 3]
      | _ => [4, 5, 6, 7]
    c.landZ 12 (steppedMod zd.toNat h.st.a 512) (outs.map (fun n => (twNarrow md.toNat c.sbase (twAt t n).v).1))
      (t.any (·.spo)) (t.any (·.spu)))

/-- Whether node n takes its right child (R225, R226). -/
def rightWins (t : List Tv) (n : Nat) : Bool := (twAt t (2 * n)).v.ltTotal (twAt t (2 * n + 1)).v

/-- The path from node n down `k` levels by the decisions (R225). -/
def twPath (d : Nat → Bool) : Nat → Nat → Nat
  | 0, n => n
  | k + 1, n => twPath d k (if d n then 2 * n + 1 else 2 * n)

/-- `TMXP` (R225). -/
def execTmxp (h : MHead) (md : BitVec 2) (zd : BitVec 9) (sh lm : BitVec 6) (base : BitVec 9) (s : State) : Res :=
  let sw := s.me.shapeAt sh.toNat
  let lf := s.me.leafAt lm.toNat
  let b := steppedMod base.toNat h.st.b 512
  s.zop h.g 3 (leafReads sw lf b) (fun c =>
    let op := twOp sw true
    let t := twTree md.toNat c.sbase op (c.twLeaves md.toNat c.sbase op sw lf b)
    let d (n : Nat) : Bool := op n == 2 && rightWins t n
    let word := flagBits ((List.range 15).map (fun i => d (i + 1))) * 2 ^ 16 + (twPath d 4 1 - 16)
    c.landZ 12 (steppedMod zd.toNat h.st.a 512) [(twNarrow md.toNat c.sbase (twAt t 1).v).1, word]
      (t.any (·.spo)) (t.any (·.spu)))

/-- The flows of a node's two children (R226). -/
def twFlow (md : Nat) (sb : Int) (op : Nat → Nat) (t : List Tv) (n : Nat) (f : Tv) : List Tv :=
  let z : Tv := ⟨.fin false 0 0, false, false⟩
  match op n with
  | 0 => [f, f]
  | 1 => [(twNarrow md sb (f.v.mul (twAt t (2 * n + 1)).v)).2, (twNarrow md sb (f.v.mul (twAt t (2 * n)).v)).2]
  | 2 => if rightWins t n then [z, f] else [f, z]
  | _ => [f, z]

/-- One level of flows down, nodes from n on. -/
def twDown (md : Nat) (sb : Int) (op : Nat → Nat) (t : List Tv) : Nat → List Tv → List Tv
  | _, [] => []
  | n, f :: fs => twFlow md sb op t n f ++ twDown md sb op t (n + 1) fs

/-- `TDN` (R226). -/
def execTdn (h : MHead) (md : BitVec 2) (zd zg : BitVec 9) (sh lm : BitVec 6) (base : BitVec 9) (s : State) : Res :=
  let sw := s.me.shapeAt sh.toNat
  let lf := s.me.leafAt lm.toNat
  let b := steppedMod base.toNat h.st.b 512
  let g := steppedMod zg.toNat h.st.c 512
  s.zop h.g 3 (g :: leafReads sw lf b) (fun c =>
    let op := twOp sw false
    let m := md.toNat
    let sb := c.sbase
    let t := twTree m sb op (c.twLeaves m sb op sw lf b)
    let f1 : List Tv := [⟨twDecode (if m = 1 then 0 else m) sb (c.zreg g), false, false⟩]
    let f2 := twDown m sb op t 1 f1
    let f4 := twDown m sb op t 2 f2
    let f8 := twDown m sb op t 4 f4
    let fl := twDown m sb op t 8 f8
    let ws := (numbered 0 fl).map (fun e => if leafOn sw e.1 then (twNarrow m sb e.2.v).1 else 0)
    let all := t ++ f2 ++ f4 ++ f8 ++ fl
    c.landZ 16 (steppedMod zd.toNat h.st.a 512) ws (all.any (·.spo)) (all.any (·.spu)))

/-- An SP32 word with its exponent shifted down by d (R227). A word with x = 0, whose value is zero, becomes 0x0000_0000 whatever its f
(log 46). -/
def spShift (d : Int) (w : Nat) : Sp :=
  let x := w / 2 ^ 22 % 1024
  let x' := Int.ofNat x - d
  if x = 0 then ⟨0, false, false⟩
  else if x' < 1 then ⟨0, false, true⟩
  else if 1023 < x' then ⟨2 ^ 32 - 1, true, false⟩
  else ⟨x'.toNat * 2 ^ 22 + w % 2 ^ 22, false, false⟩

/-- The largest exponent field of some words. -/
def spTop (ws : List Nat) : Nat := ws.foldl (fun m w => max m (w / 2 ^ 22 % 1024)) 0

/-- `TSCL` (R227): `.M` when `all` is clear, `.A` when it is set. -/
def execTscl (h : MHead) (all : Bool) (zd : BitVec 9) (s : State) : Res :=
  let z := steppedMod zd.toNat h.st.a 512
  s.zop h.g 3 (zRun z) (fun c =>
    let ws := (zRun z).map c.zreg
    let d : Int := if all then sgn 10 (c.crv 0x021) else if spTop ws = 0 then 0 else Int.ofNat (spTop ws) - 512
    let rs := ws.map (spShift d)
    let c1 := c.landZ 6 z (rs.map (·.bits)) (rs.any (·.spo)) (rs.any (·.spu))
    if all then c1 else (c1.push 3 6 (.tscl d)).push 3 6 (.cr 0x021 (BitVec.ofNat 64 (wrapN 10 d))))

/-- One entry of `TCVT.SP` (R228). -/
def toSp (sb : Int) (w : Nat) : Sp :=
  match d32 w with
  | .nan => ⟨0, false, true⟩
  | .inf neg => if neg then ⟨0, false, true⟩ else ⟨2 ^ 32 - 1, true, false⟩
  | .fin neg m e => if m = 0 then ⟨0, false, false⟩ else if neg then ⟨0, false, true⟩ else spRound sb m e

/-- `TCVT` (R228). -/
def execTcvt (h : MHead) (md : BitVec 2) (zd zs : BitVec 9) (s : State) : Res :=
  let src := zRun (steppedMod zs.toNat h.st.b 512)
  s.zop h.g 3 src (fun c =>
    let ws := src.map c.zreg
    let z := steppedMod zd.toNat h.st.a 512
    if md = 0 then
      let rs := ws.map (toSp c.sbase)
      c.landZ 3 z (rs.map (·.bits)) (rs.any (·.spo)) (rs.any (·.spu))
    else c.landZ 3 z (ws.map (fun w => r32 (twDecode 2 c.sbase w))) false false)

/-- `TSHL` (R217): the row is read on c + 1; the entries take their new contents on c + 4. -/
def execTshl (h : MHead) (l : Bool) (e : BitVec 6) (row : BitVec 12) (s : State) : Res :=
  s.act h.g (fun c => c.push 3 1 (.tshl l (steppedMod e.toNat h.st.a 64) (steppedMod row.toNat h.st.b 4096)))

end Sys2Proof.Machine
end

