-- ==== Sys2Proof/Machine/Copy.lean ====
section
/-! DEFINITION. The engine commands of the C slots (spec/14 R314, R315, R318, R328 to R336, R341, R347, R348; spec/15 R363 to
R391, R393; spec/16 R431), and their acceptance or refusal by a channel on c + 1 (spec/05_scratchpad.md R132, R136). -/

namespace Sys2Proof.Machine

/-! ### Issue of a command (R315) -/

/-- The three registers of a command with the sticky steps of RA and RB, and the start cycle T. -/
structure CmdRegs where
  ra : W64
  rb : W64
  rc : W64
  t : Nat
deriving DecidableEq, Repr

/-- Reads a command's registers on c (R315). The start cycle of a re-issue is formed exactly (R76); one below 0 stands as 0,
which no channel accepts (R132). -/
def Core.cmdRegs (c : Core) (h : CHead) (o : CE) : CmdRegs :=
  ⟨stepped64 (c.greg h.slot o.ra) h.st.b, stepped64 (c.greg h.slot o.rb) h.st.c, c.greg h.slot o.rc,
    (stepped (c.greg h.slot o.tr + o.toff.setWidth 64).toNat h.st.a).toNat⟩

/-- A command offered to the slot's channel, accepted or refused on c + 1. -/
def Core.offer (c : Core) (h : CHead) (o : CE) (ret rel acq : Bool) (n : Nat) (k : CmdKind) : Core :=
  c.push (cNum h.slot) 1 (.accept h.slot
    { uid := 0, kind := k, ret := ret, rel := rel, acq := acq, scope := o.qual.toNat % 8, start := (c.cmdRegs h o).t
      iss := c.cyc, baddr := c.baddr, depth := c.crgn.length, phase := .held, done := 0, n := n, crc := 0xFFFFFFFF
      qset := [], blk := [], ent := none })

/-- The qualifiers of a copy: `.RET` [18], transpose or expander [17:16], `.W` [15] (R302). -/
def ceRet (o : CE) : Bool := o.qual.getLsbD 6
def ceTx (o : CE) : Nat := o.qual.toNat / 16 % 4
def ceW (o : CE) : Bool := o.qual.getLsbD 3

/-- `.W` names a destination in scratch (R136). -/
def streamOk (self : Nat) (o : CE) (dst : W64) : Bool :=
  !ceW o || (match opndOf self dst with
    | some (.scr _ _) => true
    | _ => false)

/-- `CPY` (R330): a combination that R136 excludes leaves no rows, which acceptance refuses with `ADDRESS`. -/
def execCpy (h : CHead) (o : CE) (s : State) : Res :=
  s.act h.g (fun c =>
    let r := c.cmdRegs h o
    let n := if (ceTx o = 0 || ceTx o = 3) && streamOk c.id o r.ra then immU o.imm else 0
    c.offer h o (ceRet o) false false n (.cpy r.ra r.rb n (if ceTx o = 3 then some r.rc else none)))

/-- `CPY2` (R334, R335). -/
def execCpy2 (h : CHead) (o : CE) (s : State) : Res :=
  s.act h.g (fun c =>
    let r := c.cmdRegs h o
    let lines := if ceTx o != 3 && streamOk c.id o r.ra then immU o.imm else 0
    c.offer h o (ceRet o) false false (lines * bitsOf r.rc.toNat 15 0) (.cpy2 r.ra r.rb r.rc lines (ceTx o)))

/-- `CPYL` (R336). -/
def execCpyl (h : CHead) (o : CE) (s : State) : Res :=
  s.act h.g (fun c =>
    let r := c.cmdRegs h o
    let count := if ceTx o = 0 && streamOk c.id o r.ra then immU o.imm else 0
    c.offer h o (ceRet o) false false (count * r.rc.toNat) (.cpyl r.ra r.rb r.rc count))

/-- `ATOM` (R318, R319): one row (R320). -/
def execAtom (h : CHead) (o : CE) (s : State) : Res :=
  s.act h.g (fun c =>
    let r := c.cmdRegs h o
    let i := o.imm.bits12.toNat
    c.offer h o false (o.qual.getLsbD 5) (o.qual.getLsbD 4) 1
      (.atom r.ra r.rb r.rc (i / 32 % 32) (i % 8) (bitOf i 4) (bitOf i 3)))

/-- `SIG` (R385, R386): one row. -/
def execSig (h : CHead) (o : CE) (s : State) : Res :=
  s.act h.g (fun c =>
    let r := c.cmdRegs h o
    let i := o.imm.bits12.toNat
    c.offer h o false (o.qual.getLsbD 5) false 1 (.sig r.ra r.rb (bitOf i 0) (bitOf i 3)))

/-- `FENCE` (R347): no rows. -/
def execFence (h : CHead) (o : CE) (s : State) : Res :=
  s.act h.g (fun c => c.offer h o false false false 0 .fence)

/-- `COLL` (R328). -/
def execColl (h : CHead) (o : CE) (s : State) : Res :=
  s.act h.g (fun c => c.offer h o false false false 1 (.coll (c.cmdRegs h o).ra))

/-- `CSTK` (R341): two row requests. -/
def execCstk (h : CHead) (o : CE) (s : State) : Res :=
  s.act h.g (fun c =>
    let i := o.imm.bits12.toNat
    c.offer h o false false false 2 (.cstk (c.cmdRegs h o).ra (i / 16 % 32) (i % 16)))

/-- `PGFT` (R374). -/
def execPgft (h : CHead) (o : CE) (s : State) : Res :=
  s.act h.g (fun c =>
    let r := c.cmdRegs h o
    let i := o.imm.bits12.toNat
    c.offer h o false false false 1 (.pgft r.ra r.rb r.rc (i % 64) (bitOf i 6)))

/-- `PREQ` (R380). -/
def execPreq (h : CHead) (o : CE) (s : State) : Res :=
  s.act h.g (fun c =>
    let i := o.imm.bits12.toNat
    c.offer h o false false false (64 * (i / 64 + 1)) (.preq (i % 64) (i / 64 + 1)))

/-- `WBK` (R431): its rows are counted on T. -/
def execWbk (h : CHead) (o : CE) (s : State) : Res :=
  s.act h.g (fun c =>
    let i := o.imm.bits12.toNat
    c.offer h o false false false 0 (.wbk (i % 64) (i / 64 + 1)))

/-- `PMOV` (R378): its rows are counted on T. -/
def execPmov (h : CHead) (o : CE) (s : State) : Res :=
  s.act h.g (fun c =>
    let r := c.cmdRegs h o
    c.offer h o false false false 0 (.pmov r.ra r.rb r.rc))

/-- `SSET` (R391). -/
def execSset (h : CHead) (o : CE) (s : State) : Res :=
  s.act h.g (fun c =>
    let r := c.cmdRegs h o
    c.offer h o false false false 1 (.sset r.ra r.rb))

/-- `SINS` (R387). -/
def execSins (h : CHead) (o : CE) (s : State) : Res :=
  s.act h.g (fun c => c.offer h o false false false 1 (.sins (c.cmdRegs h o).ra))

/-- `SSEL` (R389). -/
def execSsel (h : CHead) (o : CE) (s : State) : Res :=
  s.act h.g (fun c =>
    let r := c.cmdRegs h o
    c.offer h o (ceRet o) false false 1 (.ssel r.ra r.rb o.imm.bits12.toNat))

/-- `SAGE` (R382). -/
def execSage (h : CHead) (o : CE) (s : State) : Res :=
  s.act h.g (fun c => c.offer h o false false false 1 (.sage (c.cmdRegs h o).ra o.imm.bits12.toNat))

/-- `SDEL` (R383). -/
def execSdel (h : CHead) (o : CE) (s : State) : Res :=
  s.act h.g (fun c =>
    let r := c.cmdRegs h o
    c.offer h o false false false 1 (.sdel r.ra r.rb (o.imm.bits12.getLsbD 0)))

/-- `SMIG` (R388). -/
def execSmig (h : CHead) (o : CE) (s : State) : Res :=
  s.act h.g (fun c =>
    c.offer h o false false false 1 (.smig (c.cmdRegs h o).ra (o.imm.bits12.toNat % 256) (o.imm.bits12.getLsbD 8)))

/-- `PGAP` (R373). -/
def execPgap (h : CHead) (o : CE) (s : State) : Res :=
  s.act h.g (fun c =>
    let r := c.cmdRegs h o
    c.offer h o false false false 1 (.pgap r.ra r.rb))

/-- `PLAN` (R375). -/
def execPlan (h : CHead) (o : CE) (s : State) : Res :=
  s.act h.g (fun c => c.offer h o (ceRet o) false false 1 (.plan (c.cmdRegs h o).ra))

/-! ### Commands without a queue entry -/

/-- `GIVE` (R117, R118, R348): flips on c + 1. -/
def execGive (h : CHead) (w : Bool) (q : BitVec 6) (n : BitVec 7) (s : State) : Res :=
  s.act h.g (fun c => c.push (cNum h.slot) 1 (.give (stepped q.toNat h.st.a) n.toNat w))

/-- `TAKE` (R119, R393): flips on c + 1. -/
def execTake (h : CHead) (q : BitVec 6) (n : BitVec 7) (s : State) : Res :=
  s.act h.g (fun c => c.push (cNum h.slot) 1 (.take (stepped q.toNat h.st.a) n.toNat))

/-- `MAPR` (R176, R365): flips on c + 1. -/
def execMapr (h : CHead) (slot : BitVec 3) (q : BitVec 6) (n : BitVec 7) (ra : BitVec 5) (s : State) : Res :=
  s.act h.g (fun c => c.push (cNum h.slot) 1 (.mapr slot.toNat q.toNat n.toNat (c.greg h.slot ra)))

/-- `PUT` (R138, R381): matched against the schedule on c + 1; rows that leave scratch are `ADDRESS`, whether or not a
reservation matches (log 46). -/
def execPut (h : CHead) (srow drow : BitVec 12) (n1 : BitVec 4) (lrow lcol : BitVec 5) (s : State) : Res :=
  s.act h.g (fun c =>
    let n := n1.toNat + 1
    let a := stepped srow.toNat h.st.a
    let b := stepped drow.toNat h.st.b
    if a < 0 || b < 0 || 4096 < a + Int.ofNat n || 4096 < b + Int.ofNat n then c.push (cNum h.slot) 1 (.raise 0x12 0)
    else c.push (cNum h.slot) 1 (.put a.toNat b.toNat n lrow.toNat lcol.toNat))

/-! ### Acceptance (R132) -/

/-- An operand address that is legal and aligned to `n`; instruction scratch is no source (R314). -/
def opndOk (self : Nat) (v : W64) (n : Nat) : Bool :=
  match opndOf self v with
  | some o => o.aligned n && !o.isIsc
  | none => false

/-- A destination of `len` bytes: legal, aligned to `n`, and in instruction scratch below offset 14,336 (R314, R331). -/
def dstIn (self : Nat) (v : W64) (n len : Nat) : Bool :=
  match opndOf self v with
  | some (.isc _ f) => f % n == 0 && f + len ≤ 14336
  | some o => o.aligned n
  | none => false

/-- A copy destination of `len` bytes, aligned to rows. -/
def dstOk (self : Nat) (v : W64) (len : Nat) : Bool := dstIn self v 64 len

/-- Scratch operands: `.X` needs a source that is none (R332). -/
def isVA (self : Nat) (v : W64) : Bool :=
  match opndOf self v with
  | some (.va _) => true
  | _ => false

/-- The bytes from the first to the last byte of a `CPY2` destination. -/
def span2 (lines lrows ds : Nat) : Nat := 64 * ((lines - 1) * ds + lrows)

/-- Whether all of some quarters are mapped in one region slot (R380, R431). -/
def Core.oneMap (c : Core) (q n : Nat) : Bool :=
  q + n ≤ 64 && (match c.mapOf q with
    | some m => m.2.q ≤ q && q + n ≤ m.2.q + m.2.n
    | none => false)

/-- Whether a command's operands obey its entry's limits, else it is refused with `ADDRESS`. The destination of an `SSEL` may be any
operand address, another core's scratch and a half of instruction scratch among them (R194, R389, log 46). -/
def Core.operandsOk (c : Core) (k : CmdKind) : Bool :=
  let self := c.id
  let idOk (v : W64) : Bool := v.toNat < 2 ^ 24
  match k with
  | .cpy dst src n x =>
    1 ≤ n && n ≤ 2 ^ 24 && dstOk self dst (64 * n) && opndOk self src 64 &&
    (match x with
     | some v => v.toNat < 8 && v.toNat % 4 != 3 && isVA self src && (v.toNat % 4 != 2 || opndOk self src 4096)
     | none => true)
  | .cpy2 dst src dim lines tr =>
    let lr := bitsOf dim.toNat 15 0
    let ds := bitsOf dim.toNat 63 40
    1 ≤ lines && lines ≤ 65535 && 1 ≤ lr && lr ≤ 1024 && lines * lr ≤ 2 ^ 24 && opndOk self src 64 &&
    (if tr = 0 then dstOk self dst (span2 lines lr ds)
     else ds == 0 && (lines * tr == 16 || lines * tr == 32 || lines * tr == 64) && lines * lr * 64 ≤ 4096 &&
       dstOk self dst (64 * lines * lr))
  | .cpyl dst list p count =>
    1 ≤ count && count ≤ 65536 && 1 ≤ p.toNat && p.toNat ≤ 128 && opndOk self list 8 &&
    dstOk self dst (64 * p.toNat * count)
  | .atom addr _ _ _ _ _ _ => opndOk self addr 1
  | .sig addr _ add eight => if add then opndOk self addr 1 else dstIn self addr 1 (if eight then 8 else 4)
  | .fence => true
  | .coll blk => opndOk self blk 64
  | .cstk desc _ _ => opndOk self desc 128
  | .pgft ra rb rc q0 chain =>
    q0 ≤ 56 && opndOk self rb 128 && dstIn self rc 8 8 &&
    (if chain then 1 ≤ ra.toNat && ra.toNat < 2 ^ 24 else opndOk self ra 16)
  | .preq q n => c.oneMap q n
  | .wbk q n => c.oneMap q n
  | .pmov ra rb rc => isVA self ra && isVA self rb && dstIn self rc 8 8
  | .sset id img => idOk id && opndOk self img 64
  | .sins blk => opndOk self blk 64
  | .ssel out qb k => dstIn self out 64 4624 && opndOk self qb 64 && 1 ≤ k && k ≤ 256
  | .sage id d => idOk id && 1 ≤ d
  | .sdel id rng all => idOk id && (all || rng.toNat < 2 ^ 48)
  | .smig id _ _ => idOk id
  | .pgap desc frame => opndOk self desc 128 && frame.toNat < 0xFFFFFFFF
  | .plan blk => opndOk self blk 32

/-- Whether a command is refused with `OWNERSHIP`: a destination in the current half (R81), or a `PREQ` of a quarter that
is resident or being filled (R178). -/
def Core.ownRefusal (c : Core) (k : CmdKind) : Bool :=
  k.halves c.id == some c.half ||
  (match k with
   | .preq q n => (List.range n).any (fun i => bitOf c.mres.toNat (q + i) || c.filling (q + i))
   | _ => false)

/-- Whether a channel refuses a command with `TIMING` (R132); `now` is c + 1. -/
def Chan.timingRefusal (ch : Chan) (now : Nat) (k : Cmd) : Bool :=
  decide (8 ≤ ch.cmds.length) || decide (k.start < now + 1) ||
  (match ch.cmds.getLast? with
   | some p => decide (k.start ≤ p.start)
   | none => false)

/-- Why a channel refuses a command: 0 when it accepts it (R132). -/
def Core.refusal (c : Core) (ch : Bool) (k : Cmd) : Nat :=
  if (c.chan ch).timingRefusal c.cyc k then 0x11
  else if c.ownRefusal k.kind then 0x10
  else if c.operandsOk k.kind then 0 else 0x12

/-- The blocks of an expander's source that `n` rows need (R332). -/
def xBlocks (x : W64) (n : Nat) : Nat := if bitOf x.toNat 2 then (n + 1) / 2 else n

/-- The bytes of an expander's source in which `k` blocks stand, or for EC4 `k` chunks (R241). -/
def xLen (x : W64) (k : Nat) : Nat :=
  match x.toNat % 4 with
  | 0 => 28 * k
  | 1 => 36 * k
  | _ => 4096 * k

/-- Whether an expander's source leads out of HBM, as the tables stand: its first bytes in every 64 KiB that its rows need, of
an EC4 stream the chunks that they surely need, for a chunk holds at most 454 blocks (R136, R241, R332). A page without a leaf shows where it lies only when its row comes. -/
def State.xFar (s : State) (k : Nat) (m : CmdKind) : Bool :=
  match m with
  | .cpy _ src n (some x) =>
    let blocks := xBlocks x n
    let len := xLen x (if 2 ≤ x.toNat % 4 then (blocks + 453) / 454 else blocks)
    (List.range ((src.toNat % 2 ^ 16 + len + 65535) / 65536)).any (fun i =>
      match s.leafTier (dieOf k) (s.who k).asid (if i = 0 then src.toNat else (src.toNat / 65536 + i) * 65536) with
      | some t => t != 0
      | none => false)
  | _ => false

/-- Why a command is not accepted, 0 where it is (R132). -/
def State.refusal (s : State) (k : Nat) (ch : Bool) (m : Cmd) : Nat :=
  match (s.core k).refusal ch m with
  | 0 => if s.xFar k m.kind then 0x12 else 0
  | cause => cause

/-- Acceptance on c + 1: the command enters the channel's queue, or its fault is detected (R132). Either way it has named its
quarters for an unwind of its region (R258). -/
def State.accept (s : State) (k : Nat) (p : Pend) (ch : Bool) (m : Cmd) : State :=
  let c := s.core k
  match s.refusal k ch m with
  | 0 =>
    { s with nuid := s.nuid + 1 }.onCore k (fun c =>
      (c.onChan ch (fun q => { q with cmds := q.cmds ++ [{ m with uid := s.nuid + 1 }] })).noteNames m.depth (m.names k))
  | cause => s.setCore k ((c.noteNames m.depth (m.names k)).detect p.slot true cause 0 0 p.baddr m.depth false)

/-! ### The end of a command (R120, R135) -/

/-- SUB of the record of R175, for a fault of translation. -/
def accSub (cause : Nat) (d : W64) : Nat := if cause = 0x20 then bitsOf d.toNat 60 57 else 0

/-- Changes a held command. -/
def Core.onCmd (c : Core) (ch : Bool) (uid : Nat) (f : Cmd → Cmd) : Core :=
  c.onChan ch (fun q => { q with cmds := q.cmds.map (fun m => if m.uid = uid then f m else m) })

/-- A fault of a command: it is charged to the core that issued it, with SUB and data under R175 and R252. -/
def State.cmdFault (s : State) (k : Nat) (ch : Bool) (m : Cmd) (cause : Nat) (d : W64) : State :=
  s.onCore k (fun c => c.engFault (cNum ch) cause (accSub cause d) d m.baddr m.depth)

/-- Completion (R135, R120): the channel's CRC register, the returns that `.RET` owes, and the queue entry. -/
def State.endCmd (s : State) (k : Nat) (ch : Bool) (m : Cmd) : State :=
  let bytes := m.kind.rows && (match m.kind with
    | .atom _ _ _ _ _ _ _ => false
    | .sig _ _ _ _ => false
    | _ => true)
  let s1 := (s.quit (s.whoOf k ch m)).onCore k (fun c => c.onChan ch (fun q =>
    { q with cmds := q.cmds.filter (fun x => x.uid != m.uid), crc := if bytes then Nat.xor m.crc 0xFFFFFFFF else 0 }))
  if m.ret then
    ((m.names k).eraseDups.filter (fun q => (Sparse.find s.cores (q / 64)).isSome)).foldl
      (fun s q => s.onCore (q / 64) (fun c => { c with owed := if c.owed.contains (q % 64) then c.owed else c.owed ++ [q % 64] })) s1
  else s1

/-! ### The start cycle (R133) -/

/-- Whether the quarters of the issuing core that a command names pass the check of its start cycle (R121, R380, R431). A copy
into instruction scratch names none there (R331). -/
def Core.startOwned (c : Core) (m : Cmd) : Bool :=
  match m.kind with
  | .preq q n => (List.range n).all (fun i => c.mapped (q + i) && !bitOf c.mres.toNat (q + i))
  | .wbk _ _ => true
  | _ => (m.kind.half? c.id).isSome ||
    ((m.names c.id).filter (fun q => q / 64 == c.id)).all (fun q => c.owner (q % 64) == .engine)

/-- The cause with which a command fails on its start cycle, or 0: `TIMING` before `OWNERSHIP` (R133). -/
def Core.startFault (c : Core) (ch : Bool) (m : Cmd) : Nat :=
  let late := match (c.chan ch).last with
    | some l => decide (m.start < l.1 + l.2)
    | none => false
  if late then 0x11 else if c.startOwned m then 0 else 0x10

/-- The rows of a command as its start counts them: those of the page that a `PMOV` moves, one where it has no leaf (R363,
R379). -/
def State.startRows (s : State) (k : Nat) (m : Cmd) : Nat :=
  match m.kind with
  | .pmov va _ _ => ((s.leafOf (dieOf k) (s.who k).asid va.toNat).map (fun l => 2 ^ l.2.1 / 64)).getD 1
  | _ => m.n

/-- What a start changes: the row count, that of a `WBK` from its set, and the DIRTY bits that it clears (R179, R431). -/
def Core.atStart (c : Core) (ch : Bool) (m : Cmd) (rows : Nat) : Core :=
  let set := match m.kind with
    | .wbk q n => ((List.range n).map (q + ·)).filter (fun q => bitOf c.mdirty.toNat q)
    | _ => []
  let n := match m.kind with
    | .wbk _ _ => 64 * set.length
    | _ => rows
  let clear := BitVec.ofNat 64 (2 ^ 64 - 1 - (set.map (2 ^ ·)).sum)
  { (c.onCmd ch m.uid (fun x => { x with phase := .running, n := n, qset := if set.isEmpty then x.qset else set })).onChan ch
      (fun q => { q with last := some (m.start, n) }) with mdirty := c.mdirty &&& clear }

/-- The commands of R363, which complete at their fault. -/
def CmdKind.reports (k : CmdKind) : Bool :=
  k.tabled || (match k with
    | .pgft _ _ _ _ _ => true
    | _ => false)

/-- A command that fails on its start cycle does nothing and leaves its channel (R133); one of R363 completes there. -/
def State.startStop (s : State) (k : Nat) (ch : Bool) (m : Cmd) (cause : Nat) : State :=
  let s1 := s.cmdFault k ch m cause 0
  if m.kind.reports then s1.endCmd k ch m
  else s1.onCore k (fun c => c.onChan ch (fun q => { q with cmds := q.cmds.filter (fun x => x.uid != m.uid) }))

/-- The start of a channel's next command when its cycle has come. -/
def State.startCmd (s : State) (k : Nat) (ch : Bool) : Option State :=
  let c := s.core k
  match (c.chan ch).cmds.find? (fun m => m.phase == .held) with
  | none => none
  | some m =>
    if !c.run || c.frozen || c.stopped || decide (c.cyc < m.start) then none
    else
      match c.startFault ch m with
      | 0 => some (s.onCore k (fun c => c.atStart ch m (s.startRows k m)))
      | cause => some (s.startStop k ch m cause)

/-- The start of a `WBK` on its cycle T, before the core's own accesses of T perform (R179, R431). -/
def State.startWbk (s : State) (k : Nat) (ch : Bool) : State :=
  match ((s.core k).chan ch).cmds.find? (fun m => m.phase == .held) with
  | some m => match m.kind with
    | .wbk _ _ => (s.startCmd k ch).getD s
    | _ => s
  | none => s

end Sys2Proof.Machine
end

