-- ==== Sys2Proof/Machine/Clock.lean ====
section
/-! DEFINITION. The task-clock edge: what takes effect on a task cycle and in which order (spec/02_execution.md R34, R39;
spec/03_core.md R61 to R65; spec/05_scratchpad.md R113 to R131, R138; spec/07 R176, R177; spec/09 R220; spec/11 R249). -/

namespace Sys2Proof.Machine

/-! ### Ownership of core accesses (R115, R118, R177) -/

/-- Whether the rows from the first of a quarter up to one have been written by an engine since its `GIVE.W` (R118). -/
def Core.rowReady (c : Core) (r : Nat) : Bool :=
  Sparse.get false c.wq (r / 64) && (Sparse.get 0 c.strm (r / 64)).toNat % 2 ^ (r % 64 + 1) == 2 ^ (r % 64 + 1) - 1

/-- Whether a core slot may read a row (R115, R118). -/
def Core.mayRead (c : Core) (r : Nat) : Bool :=
  match c.owner (r / 64) with
  | .core => true
  | .sched => true
  | .engine => c.rowReady r
  | .stat => false

/-- Whether a core slot may write a row (R115, R118, R177, R179). -/
def Core.mayWrite (c : Core) (r : Nat) : Bool :=
  let q := r / 64
  match c.owner q with
  | .core => !c.mapped q || (bitOf c.mres.toNat q && !c.backing q)
  | .sched => true
  | _ => false

/-- A mapped quarter that is not resident (R177). -/
def Core.absent (c : Core) (r : Nat) : Bool := c.mapped (r / 64) && !bitOf c.mres.toNat (r / 64)

/-- The scratch address of a row of a core, as TRAPDATA names it. -/
def rowAddr (k r : Nat) : W64 := BitVec.ofNat 64 (k * 2 ^ 18 + 64 * r)

/-- A core-slot read of words of one row: the row, or a fault that suppresses the access (R114, R115, R177, R264). -/
def State.rdScr (s : State) (k : Nat) (p : Pend) (r : Nat) (words : List Nat) : Option Vec × State :=
  let c := s.core k
  if !c.mayRead r then (none, s.setCore k (c.slotFault p 0x10 (rowAddr k r)))
  else if c.absent r then (some 0, s)
  else
    match s.readWords 0 k words with
    | (true, s1) => (none, s1.onCore k (fun c => c.slotFault p 0x15 (rowAddr k r)))
    | (false, s1) => (some (rdRow s1.mem k r), s1)

/-- A read through a scratch address of the core itself: its die must stand in `DIEMASK` (R15). -/
def State.rdOwn (s : State) (k : Nat) (p : Pend) (off : Nat) (words : List Nat) : Option Vec × State :=
  if !s.diemask.getLsbD (dieOf k) then (none, s.onCore k (fun c => c.slotFault p 0x12 (BitVec.ofNat 64 (k * 2 ^ 18 + off))))
  else s.rdScr k p (off / 64) words

/-- The words of a row that a byte mask writes in part and whole. -/
def partWords (r m : Nat) : List Nat :=
  ((List.range 8).filter (fun i => lane 8 m i != 0 && lane 8 m i != 255)).map (fun i => r * 8 + i)
def wholeWords (r m : Nat) : List Nat :=
  ((List.range 8).filter (fun i => lane 8 m i == 255)).map (fun i => r * 8 + i)

/-- Bytes of the words of a row. -/
def wordBytes (r : Nat) (ws : List Nat) : Nat := flagBits ((List.range 64).map (fun i => ws.contains (r * 8 + i / 8)))

/-- A core-slot write of the bytes of one row that a mask selects: a fault suppresses it; a partly written word with an
uncorrectable error is not written (R114, R115, R177, R264). -/
def State.wrScr (s : State) (k : Nat) (p : Pend) (r : Nat) (v : Vec) (m : Nat) : State :=
  let c := s.core k
  if m = 0 then s
  else if !c.mayWrite r then s.setCore k (c.slotFault p 0x10 (rowAddr k r))
  else
    let bad := s.badWords 0 k (partWords r m)
    let s1 := (s.readWords 0 k ((partWords r m).filter (fun w => !bad.contains w))).2
    let s2 := if bad.isEmpty then s1 else (s1.readWords 0 k bad).2.onCore k (fun c => c.slotFault p 0x15 (rowAddr k r))
    let keep := m &&& (2 ^ 64 - 1 - wordBytes r bad)
    let s3 := { s2 with mem := wrMasked s2.mem (scrKey k (64 * r)) keep (leBytes 64 v.toNat) }.clearErr 0 k (wholeWords r m)
    if c.mapped (r / 64) then s3.onCore k (fun c => { c with mdirty := c.mdirty ||| BitVec.ofNat 64 (2 ^ (r / 64)) }) else s3

/-! ### Flips and checks on c + 1 -/

/-- Whether a quarter range is legal, and the quarters. -/
def qSpan (q : Int) (n : Nat) : Option (List Nat) :=
  if q < 0 || 64 < q + Int.ofNat n then none else some ((List.range n).map (fun i => q.toNat + i))

/-- `GIVE` (R117, R118, R176). A quarter of a Weevil ring counts as given back (R202). -/
def Core.giveGo (c : Core) (p : Pend) (q : Int) (n : Nat) (w : Bool) : Core :=
  match qSpan q n with
  | none => c.slotFault p 0x12 0
  | some qs =>
    if qs.any (fun q => c.owner q != .core || c.mapped q) then c.slotFault p 0x10 0
    else
      let c1 := c.setOwn .engine q.toNat n
      let c2 := if w then { c1 with
          wq := qs.foldl (fun m q => Sparse.set false m q true) c1.wq
          strm := qs.foldl (fun m q => Sparse.set 0 m q 0) c1.strm } else c1
      { c2 with weevil := c2.weevil.map (fun x => { x with
          given := x.given ++ qs.filter (fun q => x.q0 ≤ q && q < x.q0 + 8 && !x.given.contains q) }) }

/-- A quarter returns to CORE, and W clears (R118). -/
def Core.returnQ (c : Core) (q : Nat) : Core :=
  { c with own := Sparse.set .core c.own q .core, wq := Sparse.set false c.wq q false, strm := Sparse.set 0 c.strm q 0 }

/-- `TAKE` (R119, R176). -/
def Core.takeGo (c : Core) (p : Pend) (q : Int) (n : Nat) : Core :=
  match qSpan q n with
  | none => c.slotFault p 0x12 0
  | some qs =>
    if qs.any (fun q => c.owner q == .stat || c.namesQ q || c.mapped q) then c.slotFault p 0x10 0
    else qs.foldl Core.returnQ c

/-- The format can be stationary (R122). -/
def statFmt (f : Nat) : Bool := slabElems f != 0

/-- `MSTAT` (R122). -/
def Core.mstatGo (c : Core) (p : Pend) (tid : Nat) : Core :=
  let e := c.tent tid
  if !ttValid e || !statFmt (ttFmt e) || ttQcnt e < slabA e * slabB e then c.slotFault p 0x12 0
  else if (ttQuarters e).any (fun q => c.owner q != .core || c.mapped q) then c.slotFault p 0x10 0
  else
    { c.setOwn .stat (ttFq e) (ttQcnt e) with
      tt := Sparse.set 0 c.tt tid (BitVec.ofNat 64 (e - ttLayout e * 16 + 32))
      statAt := Sparse.set 0 c.statAt tid (p.iss + 16) }

/-- Whether an `MMUL` streams through one of some quarters on this cycle (R129). -/
def Core.streaming (c : Core) (qs : List Nat) : Bool := c.busy.any (fun b => qs.contains b.q && decide (c.cyc ≤ b.till))

/-- One cycle of `MREL` (R125, R369): its checks, then the flip or a further cycle. -/
def Core.mrelGo (c : Core) (p : Pend) (tid layout left : Nat) : Core :=
  let e := c.tent tid
  if !ttValid e || ttLayout e != 2 then c.slotFault p 0x12 0
  else if c.streaming (ttQuarters e) then c.slotFault p 0x11 0
  else if left = 0 then
    { (ttQuarters e).foldl (fun c q => if c.owner q = .stat then c.returnQ q else c) c with
      tt := Sparse.set 0 c.tt tid (BitVec.ofNat 64 (e - 32 + layout * 16)), statAt := Sparse.set 0 c.statAt tid 0 }
  else { c with pend := c.pend ++ [{ p with due := c.cyc + 1, eff := .mrel tid layout (left - 1) }] }

/-- `MAPR` (R176, R365). -/
def Core.maprGo (c : Core) (p : Pend) (slot q n : Nat) (va : W64) : Core :=
  let old := Sparse.get none c.maps slot
  if n = 0 then
    match old with
    | none => c
    | some m =>
      let qs := (List.range m.n).map (fun i => m.q + i)
      if qs.any (fun q => bitOf c.mdirty.toNat q || c.filling q || c.backing q) then c.slotFault p 0x10 0
      else
        let clear := BitVec.ofNat 64 (2 ^ 64 - 1 - (2 ^ m.n - 1) * 2 ^ m.q)
        { c with maps := Sparse.set none c.maps slot none, mres := c.mres &&& clear, mdirty := c.mdirty &&& clear }
  else if 64 < q + n || old.isSome || 2 ^ 57 ≤ va.toNat || va.toNat % 4096 != 0 then c.slotFault p 0x12 0
  else if (List.range n).any (fun i => c.owner (q + i) != .core || c.mapped (q + i)) then c.slotFault p 0x10 0
  else { c with maps := Sparse.set none c.maps slot (some ⟨q, n, va⟩) }

/-- `MMUL` on c + 1 (R367): the checks of R122, R126, R127 and R129; then its quarters are busy and its result lands on
c + Lat. For error correction it reads every word of its quarters, once on this cycle, whatever columns and elements it uses
(log 46). -/
def State.mmulGo (s : State) (k : Nat) (p : Pend) (acc ck : Bool) (fmt bank : Nat) (rows : List Vec) (m l tid k0 n0 : Nat) :
    State :=
  let c := s.core k
  let e := c.tent tid
  let qs := mmulQuarters e k0 n0
  if !ttValid e || ttLayout e != 2 || !fmtPair fmt (ttFmt e) || !mmulOk e l k0 n0 || qs.any (fun q => c.owner q != .stat) then
    s.setCore k (c.slotFault p 0x12 0)
  else if p.iss < Sparse.get 0 c.statAt tid || c.streaming qs then s.setCore k (c.slotFault p 0x11 0)
  else
    match s.readWords 0 k (qs.flatMap (fun q => (List.range 512).map (fun i => q * 512 + i))) with
    | (true, s1) => s1.onCore k (fun c => c.slotFault p 0x15 0)
    | (false, s1) =>
      let cin := mmulCin e l
      s1.onCore k (fun c => { c with
        busy := c.busy.filter (fun b => c.cyc ≤ b.till) ++ qs.map (fun q => ⟨q, p.iss + m * cin⟩)
        pend := c.pend ++ [{ p with
          due := p.iss + 6 + m * cin, eff := .mmul bank acc ck (fmt != 3) (s1.mmulTerms k fmt e l k0 n0 rows) }] })

/-- The physical core at a logical place of an instance (R27 to R31, R138). -/
def State.coreAt (s : State) (i ldie lrow lcol : Nat) : Option Nat :=
  (s.cores.find? (fun e => e.2.run && e.2.inst == i && e.2.ldie == ldie && e.2.lrow == lrow && e.2.lcol == lcol)).map (·.1)

/-- Mesh row and column of a core on its die (R16). -/
def meshRow (phys : Nat) : Nat := 4 * (phys / 16 % 64 / 6) + phys % 16 / 4
def meshCol (phys : Nat) : Nat := 4 * (phys / 16 % 64 % 6) + phys % 4

/-- Hop distance on one die (R16). -/
def hops (a b : Nat) : Nat :=
  (Int.natAbs (Int.ofNat (meshRow a) - Int.ofNat (meshRow b))) + (Int.natAbs (Int.ofNat (meshCol a) - Int.ofNat (meshCol b)))

/-- `PUT` on c + 1 (R138, R381): a destination that is no other core of the group is `ADDRESS`; its rows are read on
c + 1 + k when a reservation matches. -/
def State.putGo (s : State) (k : Nat) (p : Pend) (srow drow n lrow lcol : Nat) : State :=
  let c := s.core k
  let sched := ((s.inst? c.inst).map (·.sched)).getD []
  let hit := sched.any (fun r => r.grp == c.grp && r.ldie == c.ldie && r.srow == c.lrow && r.scol == c.lcol &&
    r.drow == lrow && r.dcol == lcol && r.n == n && r.dfirst == drow && r.cyc == p.iss)
  match s.coreAt c.inst c.ldie lrow lcol with
  | none => s.setCore k (c.slotFault p 0x12 0)
  | some d =>
    if !sameGroup c (s.core d) || d == k then s.setCore k (c.slotFault p 0x12 0)
    else if !hit then s.setCore k (c.slotFault p 0x11 0)
    else s.onCore k (fun c => { c with
      pend := c.pend ++ (List.range n).map (fun j =>
        { p with due := p.iss + 1 + j, eff := .putRead (srow + j) d (drow + j) (1 + 3 * hops k d) }) })

/-- The return flips that the core owes (R120): a quarter that another held command names waits further. -/
def Core.owedGo (c : Core) : Core :=
  let now := c.owed.filter (fun q => !c.namesQ q)
  { now.foldl (fun c q => if c.owner q = .engine then c.returnQ q else c) c with owed := c.owed.filter (fun q => c.namesQ q) }

/-- A forced drain of an instance launched with debugging (R270). -/
def State.forceDrain (s : State) (i : Nat) : State :=
  s.onInst i (fun x => if x.phase = .running then { x with phase := .forced } else x)

/-- The region that an effect opens (R256). -/
def Eff.region? (e : Eff) : Option Crgn :=
  match e with
  | .crgnOpen id handler half => some ⟨id, handler, half, []⟩
  | _ => none

/-- Whether an effect opens a region. -/
def Eff.isOpen (e : Eff) : Bool := e.region?.isSome

/-- The order of the first phase of an edge: streams start before releases look at them, and flips and their checks come before
the acceptances of the cycle (log 46). -/
def Eff.early : Eff → Option Nat
  | .give _ _ _ => some 0
  | .take _ _ => some 0
  | .mstat _ => some 0
  | .mapr _ _ _ _ => some 0
  | .dbrk => some 0
  | .cmpt _ _ => some 0
  | .raise _ _ => some 0
  | .engFault _ _ _ _ => some 0
  | .slotBack _ => some 0
  | .put _ _ _ _ _ => some 0
  | .mmulGo _ _ _ _ _ _ _ _ _ _ => some 0
  | .mrel _ _ _ => some 1
  | .accept _ _ => some 2
  | _ => none

/-- One effect of the first phase. -/
def State.earlyGo (s : State) (k : Nat) (p : Pend) : State :=
  match p.eff with
  | .give q n w => s.onCore k (fun c => c.giveGo p q n w)
  | .take q n => s.onCore k (fun c => c.takeGo p q n)
  | .mstat tid => s.onCore k (fun c => c.mstatGo p tid)
  | .mrel tid layout left => s.onCore k (fun c => c.mrelGo p tid layout left)
  | .mapr slot q n va => s.onCore k (fun c => c.maprGo p slot q n va)
  | .dbrk => if ((s.inst? (s.core k).inst).map (·.l.debug)).getD false then s.forceDrain (s.core k).inst else s
  | .cmpt ne d => if ne then s.onCore k (fun c => c.slotFault p 0x14 d) else s
  | .raise cause d => s.onCore k (fun c => c.slotFault p cause d)
  | .slotBack qs => s.onCore k (fun c => qs.foldl Core.returnQ c)
  | .engFault cause sub d depth => s.onCore k (fun c => c.detect p.slot true cause sub d p.baddr depth false)
  | .put srow drow n lrow lcol => s.putGo k p srow drow n lrow lcol
  | .mmulGo acc ck fmt bank rows m l tid k0 n0 => s.mmulGo k p acc ck fmt bank rows m l tid k0 n0
  | .accept ch m => s.accept k p ch m
  | _ => s

/-! ### Reads -/

/-- A later landing of an effect that performs now. -/
def Core.later (c : Core) (p : Pend) (n : Nat) (e : Eff) : Core :=
  { c with pend := c.pend ++ [{ p with due := c.cyc + n, eff := e }] }

/-- An element read from a row. -/
def elemOf (v : Vec) (off e : Nat) : Nat := v.toNat / 2 ^ (8 * (off % 64)) % 2 ^ (8 * e)

/-- The gather of one operation, lane by lane (R414). -/
def State.gatherGo (s : State) (k : Nat) (p : Pend) (e : Nat) : List (Nat × Nat) → List (Nat × Nat) × State
  | [] => ([], s)
  | x :: l =>
    match s.rdScr k p (x.2 / 64) [x.2 / 8] with
    | (none, s1) => State.gatherGo s1 k p e l
    | (some v, s1) =>
      let r := State.gatherGo s1 k p e l
      ((x.1, elemOf v x.2 e) :: r.1, r.2)

/-- The scale of an `ARD.SC` column, or a fault (R416): 1.0 without scales and for column 128. -/
def State.scaleAt (s : State) (k : Nat) (p : Pend) (ent col : Nat) : Option Nat × State :=
  if !ttScv ent || col = 128 then (some 0x3F800000, s)
  else
    match s.rdScr k p (ttSrow ent + col / 16) [(ttSrow ent + col / 16) * 8 + col % 16 / 2] with
    | (none, s1) => (none, s1)
    | (some v, s1) => (some (lane 32 v.toNat (col % 16)), s1)

/-- Whether a column has a scale row that does not exist (R416). -/
def scaleBad (ent col : Nat) : Bool := ttScv ent && col != 128 && decide (4096 ≤ ttSrow ent + col / 16)

/-- The lanes of an `ARD` with their scales; a faulting scale row suppresses its lane. -/
def State.ardLanes (s : State) (k : Nat) (p : Pend) (bank mode ent : Nat) : List (Nat × Nat × Nat) → List (Nat × Nat) × State
  | [] => ([], s)
  | x :: l =>
    let r := if bitOf mode 1 then s.scaleAt k p ent x.2.2 else (some 0, s)
    let v := (r.2.core k).accAt bank x.2.1 x.2.2
    let rest := State.ardLanes r.2 k p bank mode ent l
    match r.1 with
    | none => rest
    | some sc => ((x.1, ardValue (bitOf mode 2) (mode % 4) v sc) :: rest.1, rest.2)

/-- `ARD` on c + 1 (R416, R131): active lanes beyond the bank read 0. -/
def State.ardGo (s : State) (k : Nat) (p : Pend) (y : Bool) (d bank row col : Nat) (colForm : Bool) (mode m ent : Nat) :
    State :=
  let all := accLanes row col colForm
  let act := all.filter (fun e => bitOf m e.1)
  if bitOf mode 1 && (!ttValid ent || act.any (fun e => scaleBad ent e.2.2)) then s.onCore k (fun c => c.slotFault p 0x12 0)
  else
    match s.readWords 1 k (act.map (fun e => bank * 4096 + e.2.1 * 129 + e.2.2)) with
    | (true, s1) => s1.onCore k (fun c => c.slotFault p 0x15 0)
    | (false, s1) =>
      let r := s1.ardLanes k p bank mode ent act
      let beyond := (List.range 16).filter (fun i => bitOf m i && !all.any (fun e => e.1 == i))
      let vals := r.1 ++ beyond.map (fun i => (i, 0))
      let put (i : Nat) : Option Nat := (vals.find? (fun e => e.1 == i)).map (·.2)
      r.2.onCore k (fun c => c.later p 2 (.vec y d
        (BitVec.ofNat 512 (packN 32 ((List.range 16).map (fun i => (put i).getD 0))))
        (BitVec.ofNat 512 (laneMask 32 16 (flagBits ((List.range 16).map (fun i => (put i).isSome)))))))

/-- The 64-bit pieces of a value. -/
def wordsOf (v : Vec) (n : Nat) : List W64 := (lanesN 64 n v.toNat).map (BitVec.ofNat 64)

/-- One read that performs on this cycle. -/
def State.readGo (s : State) (k : Nat) (p : Pend) : State :=
  match p.eff with
  | .lds off e u d =>
    match s.rdOwn k p off [off / 8] with
    | (none, s1) => s1
    | (some v, s1) =>
      s1.onCore k (fun c => c.later p 3 (.reg .s d (BitVec.ofInt 64 (rdInt (8 * e) u (elemOf v off e)))))
  | .vld addr y d m nr =>
    let r := addr / 64
    let words := (List.range 8).filter (fun i => lane 64 m.toNat i != 0) |>.map (fun i => r * 8 + i)
    if m = 0 then (match nr with
      | none => s
      | some (w, lanes, act) => s.onCore k (fun c => c.later p 3 (.msk w (if c.absent r then lanes else 0) act)))
    else
      match s.rdScr k p r words with
      | (none, s1) => s1
      | (some v, s1) =>
        let s2 := s1.onCore k (fun c => c.later p 3 (.vec y d v m))
        match nr with
        | none => s2
        | some (w, lanes, act) => s2.onCore k (fun c => c.later p 3 (.msk w (if c.absent r then lanes else 0) act))
  | .vgth idx e y d =>
    let r := s.gatherGo k p e idx
    let put (i : Nat) : Option Nat := (r.1.find? (fun x => x.1 == i)).map (·.2)
    let n := 64 / e
    r.2.onCore k (fun c => c.later p 5 (.vec y d
      (BitVec.ofNat 512 (packN (8 * e) ((List.range n).map (fun i => (put i).getD 0))))
      (BitVec.ofNat 512 (packN (8 * e) ((List.range n).map (fun i => if (put i).isSome then 2 ^ (8 * e) - 1 else 0))))))
  | .mtldRow t i row =>
    match s.rdScr k p row (rowWords row) with
    | (none, s1) => s1
    | (some v, s1) => s1.onCore k (fun c => c.later p 3 (.tile t i v))
  | .tshl l e row =>
    match (s.core k).owner (row / 64) with
    | .engine => s.onCore k (fun c => c.slotFault p 0x10 (rowAddr k row))
    | _ =>
      match s.rdScr k p row (rowWords row) with
      | (none, s1) => s1
      | (some v, s1) => s1.onCore k (fun c => c.later p 3
          (if l then .leaves e [v.extractLsb' 0 256, v.extractLsb' 256 256] else .shapes e (wordsOf v 8)))
  | .ard y d bank row col colForm mode m ent => s.ardGo k p y d bank row col colForm mode m.toNat ent.toNat
  | .putRead srow dst drow land =>
    match (s.core k).owner (srow / 64) with
    | .engine => s.onCore k (fun c => c.slotFault p 0x10 (rowAddr k srow))
    | _ =>
      match s.rdScr k p srow (rowWords srow) with
      | (none, s1) => s1
      | (some v, s1) => s1.onCore dst (fun d => { d with
          pend := d.pend ++ [⟨(s1.core k).cyc + land, p.iss, 6, false, p.baddr, .putRow k drow v p.slot p.baddr⟩] })
  | _ => s

/-- Whether an effect is a read of this phase. -/
def Eff.isRead : Eff → Bool
  | .lds _ _ _ _ => true
  | .vld _ _ _ _ _ => true
  | .vgth _ _ _ _ => true
  | .mtldRow _ _ _ => true
  | .tshl _ _ _ => true
  | .ard _ _ _ _ _ _ _ _ _ => true
  | .putRead _ _ _ _ => true
  | _ => false

/-! ### Task queues (R37 to R39) -/

/-- The next record of a queue: highest priority, oldest first, and the rest (R37). -/
def popRec (l : List TRec) : Option (TRec × List TRec) :=
  let top := l.foldl (fun m r => max m r.pri) 0
  match l.findIdx? (fun r => r.pri == top) with
  | none => none
  | some i => (l[i]?).map (fun r => (r, l.eraseIdx i))

/-- The row of the core itself that `TNEXT` and `ENQ` name (R345, R15). -/
def State.queueRow (s : State) (k : Nat) (a : W64) : Option Nat := if s.diemask.getLsbD (dieOf k) then ownRow k a else none

/-- One `TNEXT` served in a step: its address is checked, and the record's row and the flag land on c + 4 (R37, R394). -/
def State.popGo (s : State) (k : Nat) (p : Pend) (q pd : Nat) (a : W64) : State :=
  let die := dieOf k
  match s.queueRow k a with
  | none => s.onCore k (fun c => c.slotFault p 0x12 a)
  | some row =>
    match popRec (Sparse.get [] (s.die die).queues q) with
    | none => s.onCore k (fun c => c.later p 3 (.pred pd false))
    | some (r, rest) =>
      (s.onDie die (fun d => { d with queues := Sparse.set [] d.queues q rest })).onCore k (fun c =>
        (c.later p 3 (.popRow row r.data)).later p 3 (.pred pd true))

/-- One `ENQ` served in a step: the row is read on c + 1, before the writes of the cycle (R38, R114). -/
def State.enqGo (s : State) (k : Nat) (p : Pend) (q pri pd : Nat) (a : W64) : State :=
  let die := dieOf k
  match s.queueRow k a with
  | none => s.onCore k (fun c => c.slotFault p 0x12 a)
  | some row =>
    if (s.core k).owner (row / 64) != .core then s.onCore k (fun c => c.slotFault p 0x10 (rowAddr k row))
    else
      match s.rdScr k p row (rowWords row) with
      | (none, s1) => s1
      | (some v, s1) =>
        let l := Sparse.get [] (s1.die die).queues q
        if 4096 ≤ l.length then s1.onCore k (fun c => c.later p 3 (.pred pd false))
        else (s1.onDie die (fun d => { d with queues := Sparse.set [] d.queues q (l ++ [⟨pri, v⟩]) })).onCore k
          (fun c => c.later p 3 (.pred pd true))

/-! ### Writes (R114) -/

/-- The place of a slot in the order of same-cycle writes: incoming transfer, M, S, V1, V0. -/
def writeRank (slot : Nat) : Nat :=
  match slot with
  | 6 => 0
  | 3 => 1
  | 0 => 2
  | 2 => 3
  | _ => 4

/-- Inserts into a list by rising key, after equal keys. -/
def insBy (key : Pend → Nat) (p : Pend) : List Pend → List Pend
  | [] => [p]
  | q :: l => if key p < key q then p :: q :: l else q :: insBy key p l

/-- Sorts by rising key, stable. -/
def sortBy (key : Pend → Nat) (l : List Pend) : List Pend := l.foldl (fun acc p => insBy key p acc) []

/-- The new element of a `VSCT` (R415). -/
def scatterValue (add e old v : Nat) : Nat :=
  match add with
  | 0 => v
  | 1 => (old + v) % 2 ^ (8 * e)
  | 2 => add32 old v
  | 3 => bf16.narrow false false ((bf16.decode old).add (bf16.decode v))
  | _ => let f := Fmt.ofTy 1; f.narrow false false ((f.decode old).add (f.decode v))

/-- One write that performs on this cycle; `m0` is memory before the cycle's writes. A store of the S slot names its die in a
scratch address (R15), the row of a `TNEXT` needs a CORE-owned quarter (R37), and an adding scatter reads its element (R264). -/
def State.writeGo (m0 : List Host.Cell) (s : State) (k : Nat) (p : Pend) : State :=
  match p.eff with
  | .write row v m =>
    if p.slot = 0 && !s.diemask.getLsbD (dieOf k) then
      s.onCore k (fun c => c.slotFault p 0x12 (rowAddr k row + BitVec.ofNat 64 (((List.range 64).find? (bitOf m.toNat)).getD 0)))
    else s.wrScr k p row v m.toNat
  | .popRow row v =>
    if (s.core k).owner (row / 64) = .core then s.wrScr k p row v (2 ^ 64 - 1)
    else s.onCore k (fun c => c.slotFault p 0x10 (rowAddr k row))
  | .scatter addr e v add =>
    let old := elemOf (rdRow m0 k (addr / 64)) addr e
    let go (s : State) : State :=
      s.wrScr k p (addr / 64) (BitVec.ofNat 512 (scatterValue add e old v.toNat % 2 ^ (8 * e) * 2 ^ (8 * (addr % 64))))
        ((2 ^ e - 1) * 2 ^ (addr % 64))
    if add = 0 || !(s.core k).mayWrite (addr / 64) then go s
    else
      match s.readWords 0 k [addr / 8] with
      | (true, s1) => s1.onCore k (fun c => c.slotFault p 0x15 (rowAddr k (addr / 64)))
      | (false, s1) => go s1
  | .putRow src row v sslot sb =>
    if (s.core k).owner (row / 64) = .sched then s.wrScr k p row v (2 ^ 64 - 1)
    else s.onCore src (fun c => c.detect sslot false 0x10 0 (rowAddr k row) sb 0 false)
  | _ => s

/-- Whether an effect is a write of this phase. -/
def Eff.isWrite : Eff → Bool
  | .write _ _ _ => true
  | .popRow _ _ => true
  | .scatter _ _ _ _ => true
  | .putRow _ _ _ _ _ => true
  | _ => false

/-! ### Landings (R61 to R63, R131, R220, R338) -/

/-- The order in which results of one cycle land: the later-issued last; on one issue cycle an `XCP` before the slot that
owns the file, and a slot that comes first after one that comes later (R63, R69). -/
def landRank (p : Pend) : Nat := p.iss * 32 + (if p.xcp then 0 else 16) + (7 - p.slot)

/-- A vector landing (R63, R68, R264): a partly written word with an uncorrectable error keeps its contents. -/
def State.vecGo (s : State) (k : Nat) (p : Pend) (y : Bool) (n : Nat) (v m : Vec) : State :=
  let kind := if y then 3 else 2
  let part := ((List.range 8).filter (fun i => lane 64 m.toNat i != 0 && lane 64 m.toNat i != 2 ^ 64 - 1)).map (fun i => n * 8 + i)
  let whole := ((List.range 8).filter (fun i => lane 64 m.toNat i == 2 ^ 64 - 1)).map (fun i => n * 8 + i)
  let bad := s.badWords kind k part
  let s1 := (s.readWords kind k (part.filter (fun w => !bad.contains w))).2
  let s2 := if bad.isEmpty then s1 else (s1.readWords kind k bad).2.onCore k (fun c => c.slotFault p 0x15 0)
  let keep := laneMask 64 8 (flagBits ((List.range 8).map (fun i => !bad.contains (n * 8 + i))))
  (s2.clearErr kind k whole).onCore k (fun c => c.setVec y n v (m &&& BitVec.ofNat 512 keep))

/-- Writes of tree-scratch banks on one cycle: an operation loses the banks that an earlier- or later-listed one also
writes, and the later-issued is charged (R220). -/
def zBanks (l : List (Nat × W32)) : List Nat := (l.map (fun e => e.1 % 8)).eraseDups

/-- The entries of an operation by the pending list of the cycle. -/
def Pend.zs (p : Pend) : List (Nat × W32) :=
  match p.eff with
  | .zs l => l
  | _ => []

/-- Lands the tree-scratch writes of a cycle, in order of issue and slot (R220). -/
def State.zGo (k : Nat) (all : List Pend) (s : State) (p : Pend) : State :=
  let others := all.filter (fun q => !(q.iss == p.iss && q.slot == p.slot && q.xcp == p.xcp))
  let clash := (zBanks p.zs).filter (fun b => others.any (fun q => (zBanks q.zs).contains b))
  let before := others.filter (fun q => decide (q.iss * 8 + q.slot < p.iss * 8 + p.slot))
  let mine := (zBanks p.zs).any (fun b => before.any (fun q => (zBanks q.zs).contains b))
  let ok := p.zs.filter (fun e => !clash.contains (e.1 % 8))
  let s1 := (s.clearErr 4 k (ok.map (·.1))).onCore k (fun c => c.setZs ok)
  if mine then s1.onCore k (fun c => c.slotFault p 0x13 0) else s1

/-- Bank writes of a cycle: the clearing, then `AWR`, then `MMUL` by issue (R131, R366). -/
def bankRank (p : Pend) : Nat :=
  match p.eff with
  | .accClear _ => 0
  | .accs _ _ => 1
  | _ => p.iss + 2

/-- Removes the elements of a bank. -/
def Core.clearBank (c : Core) (bank : Nat) : Core := { c with acc := c.acc.filter (fun e => e.1 / 4096 != bank) }

/-- One write of a bank. A write replaces whole elements; an `.ACC` landing reads them first (R128, R264). -/
def State.bankGo (s : State) (k : Nat) (p : Pend) : State :=
  match p.eff with
  | .accClear bank =>
    (s.clearErr 1 k ((List.range 4096).map (fun i => bank * 4096 + i))).onCore k (fun c => c.clearBank bank)
  | .accs bank l => (s.clearErr 1 k (l.map (fun e => bank * 4096 + e.1))).onCore k (fun c => c.setAccs bank l)
  | .mmul bank acc ck flt terms =>
    let l := (s.core k).mmulWrites bank acc ck flt terms
    let keys := l.map (fun e => bank * 4096 + e.1)
    match s.readWords 1 k (if acc then keys else []) with
    | (true, s1) => s1.onCore k (fun c => c.slotFault p 0x15 0)
    | (false, s1) => (s1.clearErr 1 k keys).onCore k (fun c => c.setAccs bank l)
  | _ => s

/-- Whether an effect writes a bank. -/
def Eff.isBank : Eff → Bool
  | .accClear _ => true
  | .accs _ _ => true
  | .mmul _ _ _ _ _ => true
  | _ => false

/-- A rotation (R70). -/
def Core.rotate (c : Core) : Core :=
  ((((c.setCr 0x00A (BitVec.ofNat 64 ((c.crv 0x00A + 15) % 16))).setCr 0x00B (BitVec.ofNat 64 ((c.crv 0x00B + 31) % 32))).setCr
    0x00C (BitVec.ofNat 64 ((c.crv 0x00C + 31) % 32))).setCr 0x00D (BitVec.ofNat 64 ((c.crv 0x00D + 7) % 8)))

/-- Writes the logical stage predicates p8 to p15 from a list. -/
def Core.setStages (c : Core) : Nat → List Bool → Core
  | _, [] => c
  | n, b :: l => Core.setStages (c.setP (c.phP n) b) (n + 1) l

/-- The effect of `LOOP` from c + 1 (R71). -/
def Core.loopGo (c : Core) (n k : Nat) : Core :=
  ((c.setCr 0x008 (BitVec.ofNat 64 (n - 1))).setCr 0x009 (BitVec.ofNat 64 (k - 1))).setStages 8
    [true, false, false, false, false, false, false, false]

/-- The effect of a taken `BLOOP` from c + 1 (R72). -/
def Core.bloopGo (c : Core) : Core :=
  if c.crv 0x008 != 0 then
    let c1 := (c.setCr 0x008 (BitVec.ofNat 64 (c.crv 0x008 - 1))).rotate
    c1.setP (c1.phP 8) true
  else
    let c1 := (c.setCr 0x009 (BitVec.ofNat 64 (c.crv 0x009 - 1))).rotate
    c1.setP (c1.phP 8) false

/-- Writes table entries from an index up, modulo 64 (R217). -/
def Core.setShapes (c : Core) : Nat → List W64 → Core
  | _, [] => c
  | e, v :: l => Core.setShapes { c with shape := Sparse.set 0 c.shape (e % 64) v } (e + 1) l
def Core.setLeaves (c : Core) : Nat → List (BitVec 256) → Core
  | _, [] => c
  | e, v :: l => Core.setLeaves { c with leaf := Sparse.set 0 c.leaf (e % 64) v } (e + 1) l

/-- The group of a landing: 0 files and tables, 1 results of control registers, 2 `CWR`, 3 sticky sets, 4 loop control. -/
def Eff.landGroup : Eff → Option Nat
  | .reg _ _ _ => some 0
  | .vec _ _ _ _ => some 0
  | .pred _ _ => some 0
  | .msk _ _ _ => some 0
  | .tile _ _ _ => some 0
  | .shapes _ _ => some 0
  | .leaves _ _ => some 0
  | .cr _ _ => some 1
  | .tscl _ => some 1
  | .cwr _ _ => some 2
  | .crOr _ _ => some 3
  | .loop _ _ => some 4
  | .bloop => some 4
  | _ => none

/-- The kind of a mark of a 64-bit register file. -/
def File.kind (f : File) : Nat :=
  match f with
  | .s => 9
  | .g => 10
  | .h => 11

/-- A landing in a 64-bit register: its word takes fresh check bits (R264). -/
def State.regGo (s : State) (k : Nat) (f : File) (n : Nat) (v : W64) : State :=
  (s.clearErr f.kind k [n]).onCore k (fun c => c.setReg f n v)

/-- A landing in bits of a lane mask: one that does not replace the whole word reads it first, and keeps a bad one (R264). -/
def State.mskGo (s : State) (k : Nat) (p : Pend) (n : Nat) (v m : W64) : State :=
  if m = BitVec.allOnes 64 then (s.clearErr 13 k [n]).onCore k (fun c => c.setW n v m)
  else
    match s.readWords 13 k [n] with
    | (true, s1) => s1.onCore k (fun c => c.slotFault p 0x15 0)
    | (false, s1) => s1.onCore k (fun c => c.setW n v m)

/-- One landing. A word written whole takes fresh check bits (R264). -/
def State.landGo (s : State) (k : Nat) (p : Pend) : State :=
  match p.eff with
  | .reg f n v => s.regGo k f n v
  | .vec y n v m => s.vecGo k p y n v m
  | .pred n v => (s.clearErr 12 k [n]).onCore k (fun c => c.setP n v)
  | .msk n v m => s.mskGo k p n v m
  | .tile t r v => (s.clearErr 14 k (rowWords (t * 16 + r))).onCore k (fun c => { c with t := Sparse.set 0 c.t (t * 16 + r) v })
  | .shapes e l => (s.clearErr 16 k ((List.range l.length).map (fun i => (e + i) % 64))).onCore k (fun c => c.setShapes e l)
  | .leaves e l =>
    (s.clearErr 17 k ((List.range (4 * l.length)).map (fun i => (4 * e + i) % 256))).onCore k (fun c => c.setLeaves e l)
  | .cr n v => (s.clearErr 18 k [n]).onCore k (fun c => c.setCr n v)
  | .tscl d => s.onCore k (fun c => c.setCr 0x020 (BitVec.ofInt 64 (c.sbase + d)))
  | .cwr n v =>
    (if n = 0x029 then s.clearErr 15 k [(s.core k).crv 0x028 % 64] else s.clearErr 18 k [n]).writeCr k n v.toNat
  | .crOr n v => s.onCore k (fun c => c.setCr n (BitVec.ofNat 64 (c.crv n) ||| v))
  | .loop n m => s.onCore k (fun c => c.loopGo n m)
  | .bloop => s.onCore k (fun c => c.bloopGo)
  | _ => s

/-- The order of all landings of a cycle: groups, then R63. -/
def landKey (p : Pend) : Nat := (p.eff.landGroup.getD 5) * 2 ^ 80 + landRank p

/-- Whether an effect is a result that R250 waits for: everything but the control effects of R46 and an acceptance. -/
def Eff.isResult : Eff → Bool
  | .accept _ _ => false
  | .cwr _ _ => false
  | .loop _ _ => false
  | .bloop => false
  | .crgnOpen _ _ _ => false
  | .dbrk => false
  | .give _ _ _ => false
  | .take _ _ => false
  | .mapr _ _ _ _ => false
  | .mstat _ => false
  | .raise _ _ => false
  | .engFault _ _ _ _ => false
  | .slotBack _ => false
  | .cmpt _ _ => false
  | .put _ _ _ _ _ => false
  | _ => true

/-! ### The edge -/

/-- Takes the effects of a core that are due and meet a test, in their order, and removes them. -/
def Core.due (c : Core) (f : Eff → Bool) : List Pend := c.pend.filter (fun p => decide (p.due ≤ c.cyc) && f p.eff)
def Core.drop (c : Core) (f : Eff → Bool) : Core :=
  { c with pend := c.pend.filter (fun p => !(decide (p.due ≤ c.cyc) && f p.eff)) }

/-- Runs one phase over the effects that are due. -/
def State.phase (s : State) (k : Nat) (f : Eff → Bool) (order : List Pend → List Pend) (go : State → Pend → State) : State :=
  (order ((s.core k).due f)).foldl go (s.onCore k (fun c => c.drop f))

/-- Flips, checks, acceptances and write-back starts of a cycle, then its reads. -/
def State.edgeOpen (s : State) (k : Nat) : State :=
  let s0 := s.onCore k Core.owedGo
  let s1 := s0.phase k (fun e => e.early.isSome) (sortBy (fun p => p.eff.early.getD 0)) (fun s p => s.earlyGo k p)
  ((s1.startWbk k false).startWbk k true).phase k Eff.isRead id (fun s p => s.readGo k p)

/-- Pops of a cycle, then its pushes (R39). -/
def State.edgePop (s : State) (k : Nat) : State :=
  s.phase k (fun e => match e with | .tnext _ _ _ => true | _ => false) id (fun s p => match p.eff with
    | .tnext q pd a => s.popGo k p q pd a
    | _ => s)
def State.edgePush (s : State) (k : Nat) : State :=
  s.phase k (fun e => match e with | .enq _ _ _ _ => true | _ => false) id (fun s p => match p.eff with
    | .enq q pri pd a => s.enqGo k p q pri pd a
    | _ => s)

/-- Writes, banks, tree scratch and register landings of a cycle; a landing moves the entry of a fault (R250). -/
def State.edgeLand (s : State) (k : Nat) : State :=
  let c0 := s.core k
  let landed := c0.pend.any (fun p => decide (p.due ≤ c0.cyc) && p.slot != 6 && p.eff.isResult)
  let s1 := s.phase k Eff.isWrite (sortBy (fun p => writeRank p.slot * 2 ^ 72 + p.iss)) (fun t p => t.writeGo s.mem k p)
  let s2 := s1.phase k Eff.isBank (sortBy bankRank) (fun s p => s.bankGo k p)
  let zs := (s2.core k).due (fun e => match e with | .zs _ => true | _ => false)
  let s3 := s2.phase k (fun e => match e with | .zs _ => true | _ => false) id (State.zGo k zs)
  let s4 := s3.phase k (fun e => e.landGroup.isSome) (sortBy landKey) (fun s p => s.landGo k p)
  if landed then s4.onCore k (fun c => { c with flt := c.flt.map (fun f => { f with last := max f.last c.cyc }) }) else s4

/-- Whether a core's task clock advances on an edge: its group is not frozen, stopped, saved or halted (R34, R140). -/
def State.ticks (s : State) (c : Core) : Bool :=
  c.run && c.freeze == 0 && !c.stopped && (match s.inst? c.inst with
    | some i => i.phase != .halted && i.phase != .saved
    | none => false)

/-- Whether a core may issue on its present task cycle (R249, R250, R346). -/
def Core.issues (c : Core) : Bool :=
  c.run && !c.exited && !c.stopped && (match c.flt with
    | none => true
    | some f => f.f == c.cyc && !f.issue && c.stall.isNone)

/-- One edge of the task clock (R34, R39): every group that is not stopped advances, its effects perform, and its cores
that may issue stand in `turn`. A group whose freeze has been found freezes, and counts its periods (R140). What engines have written in scratch on the
cycle that ends is of the past, but for a frozen core, whose cycle goes on (R143). -/
def State.edge (s : State) : State :=
  let go := (s.cores.filter (fun e => s.ticks e.2)).map (·.1)
  let s0 := { s with cores := s.cores.map (fun e =>
    (e.1, if go.contains e.1 then { e.2 with cyc := e.2.cyc + 1, atDrain := false }
          else { e.2 with freeze := if 1 < e.2.freeze then e.2.freeze - 1 else e.2.freeze, frozen := e.2.freeze != 0 })) }
  let s1 := go.foldl State.edgeOpen s0
  let s2 := go.foldl State.edgePop s1
  let s3 := go.foldl State.edgePush s2
  let s4 := go.foldl State.stamp (go.foldl State.edgeLand s3)
  { s4 with
    turn := go.filter (fun k => (s4.core k).issues)
    rowsNow := s.rowsNow.filter (fun e => (s.core (e.1 / 4096)).freeze != 0) }

/-- `TASK_CLOCK_EDGE`: the clock of 700 MHz beside the global clock of 1 GHz (R34, R35; log 6). -/
def execTaskClockEdge (s : State) : Res := .next { s.edge with debt := s.edge.debt + 10 }

end Sys2Proof.Machine
end

