-- ==== Sys2Proof/Machine/Regs.lean ====
section
/-! DEFINITION. Which words of a core's register files and tables an operation reads on its issue cycle, and what an error found
there does (spec/05_scratchpad.md R140, spec/11_faults.md R264). The vector files and the tree scratch are read by their own
meanings; the words are numbered as `ErrMark` says. -/

namespace Sys2Proof.Machine

/-- The mark of an `s` register by its logical number; `s0` is no word. -/
def Core.markS (c : Core) (n : BitVec 5) : List (Nat × Nat) := if c.phS n.toNat = 0 then [] else [(9, c.phS n.toNat)]

/-- The mark of a predicate by its logical number; `p0` is no word. -/
def Core.markP (c : Core) (n : BitVec 4) : List (Nat × Nat) := if c.phP n.toNat = 0 then [] else [(12, c.phP n.toNat)]

/-- The mark of a lane mask; `w0` is no word. -/
def markW (n : Nat) : List (Nat × Nat) := if n = 0 then [] else [(13, n)]

/-- The mark of a `g` or `h` register. -/
def markG (slot : Bool) (n : BitVec 5) : List (Nat × Nat) := [(if slot then 11 else 10, n.toNat)]

/-- The marks of the rows of a tile that its shape takes: eight words each. -/
def Core.markT (c : Core) (t : BitVec 4) : List (Nat × Nat) :=
  (List.range (c.tshRows t.toNat * 8)).map (fun i => (14, t.toNat * 128 + i))

/-- The marks of a shape and of a leaf map. -/
def markTree (sh lm : BitVec 6) : List (Nat × Nat) := (16, sh.toNat) :: (List.range 4).map (fun i => (17, lm.toNat * 4 + i))

/-- The registers of an engine command: TR, and those of RA, RB and RC that it uses. -/
def markCE (h : CHead) (o : CE) (a b c : Bool) : List (Nat × Nat) :=
  markG h.slot o.tr ++ (if a then markG h.slot o.ra else []) ++ (if b then markG h.slot o.rb else []) ++
  (if c then markG h.slot o.rc else [])

/-- The guard of an operation, where its word has one. -/
def guardOf (i : Instr) : Option (BitVec 5) :=
  match i with
  | .nopS g | .addReg g _ _ _ _ _ | .addImm g _ _ _ | .subReg g _ _ _ _ _ | .subImm g _ _ _ | .mulReg g _ _ _ _ _
  | .mulImm g _ _ _ | .mulhReg g _ _ _ _ | .mulhImm g _ _ _ | .divReg g _ _ _ _ | .divImm g _ _ _ | .remReg g _ _ _ _
  | .remImm g _ _ _ | .andReg g _ _ _ | .andImm g _ _ _ | .orReg g _ _ _ | .orImm g _ _ _ | .xorReg g _ _ _
  | .xorImm g _ _ _ | .shlReg g _ _ _ | .shlImm g _ _ _ | .shrReg g _ _ _ | .shrImm g _ _ _ | .sraReg g _ _ _
  | .sraImm g _ _ _ | .rotlReg g _ _ _ | .rotlImm g _ _ _ | .clzReg g _ _ | .clzImm g _ _ | .popcReg g _ _
  | .popcImm g _ _ | .minReg g _ _ _ _ | .minImm g _ _ _ | .maxReg g _ _ _ _ | .maxImm g _ _ _ | .sel g _ _ _ _
  | .li g _ _ | .lih g _ _ | .cmp g _ _ _ _ _ | .cmpi g _ _ _ _ _ | .plog g _ _ _ _ | .lds g _ _ _ _ _
  | .sts g _ _ _ _ | .xcpS g _ _ _ | .crd g _ _ | .cwr g _ _ | .cyc g _ _ | .cmptS g _ _ | .br g _ | .jmp g _
  | .loop g _ _ _ | .bloop g _ | .bsw g _ | .ifence g | .waitOwn g _ | .waitWp g _ _ | .waitBar g _
  | .waitVal g _ _ _ _ _ _ | .waitCyc g _ | .bar g _ | .tnext g _ _ _ | .enq g _ _ _ _ | .exit g | .dbrk g
  | .trap g _ | .tret g | .crgnOpen g _ _ | .crgnClose g | .nopEngineSlot _ g => some g
  | .xcpV h _ _ _ _ | .cmptV h _ | .vld h _ | .vst h _ | .vgth h _ | .vsct h _ | .vrmg h _ | .vadd h _ | .vsub h _
  | .vmul h _ | .vfma h _ | .vmin h _ | .vmax h _ | .vabs h _ | .vneg h _ | .vrcp h _ | .vrsq h _ | .vexp2 h _
  | .vlog2 h _ | .vcvt h _ | .viadd h _ | .visub h _ | .vimul h _ | .vlogic h _ | .vshl h _ | .vshr h _ | .vpopc h _
  | .viota h _ | .vmovi h _ | .vcmp h _ | .vicmp h _ | .vselm h _ | .wlog h _ | .wcnt h _ | .vbits h _ | .vrsum h _
  | .vrmax h _ | .vperm h _ | .vbcst h _ | .ard h _ | .awr h _ | .zld h _ _ | .zst h _ _ | .vbmax h _ | .vqsx h _
  | .vdqsx h _ | .vsigp h _ | .vmaj h _ | .vosm h _ | .vosf h _ | .vrope h _ | .vrng h _ => some h.g
  | .mstat h _ | .mrel h _ _ | .mtld h _ _ | .mtst h _ _ | .mmul h _ _ _ _ _ _ _ _ | .mclr h _ | .tup h _ _ _ _ _
  | .tdn h _ _ _ _ _ _ | .tmxp h _ _ _ _ _ | .tscl h _ _ | .tshl h _ _ _ | .tcvt h _ _ _ | .xcpM h _ _ _ => some h.g
  | .addC h _ _ _ | .subC h _ _ _ | .shlC h _ _ _ | .liC h _ _ | .lihC h _ _ | .xcpC h _ _ _ | .cmptC h _ _ | .cpy h _
  | .cpy2 h _ | .cpyl h _ | .put h _ _ _ _ _ | .give h _ _ _ | .take h _ _ | .atom h _ | .sig h _ | .fence h _
  | .coll h _ | .cstk h _ | .pgft h _ | .preq h _ | .wbk h _ | .mapr h _ _ _ _ | .pmov h _ | .sset h _ | .sins h _
  | .ssel h _ | .sage h _ | .sdel h _ | .smig h _ | .pgap h _ | .plan h _ => some h.g
  | _ => none

/-- The lane mask that every V word names. -/
def maskOf (i : Instr) : List (Nat × Nat) :=
  match i with
  | .vld h _ | .vst h _ | .vgth h _ | .vsct h _ | .vrmg h _ | .vadd h _ | .vsub h _ | .vmul h _ | .vfma h _ | .vmin h _
  | .vmax h _ | .vabs h _ | .vneg h _ | .vrcp h _ | .vrsq h _ | .vexp2 h _ | .vlog2 h _ | .vcvt h _ | .viadd h _
  | .visub h _ | .vimul h _ | .vlogic h _ | .vshl h _ | .vshr h _ | .vpopc h _ | .viota h _ | .vmovi h _ | .vcmp h _
  | .vicmp h _ | .vselm h _ | .wlog h _ | .wcnt h _ | .vbits h _ | .vrsum h _ | .vrmax h _ | .vperm h _ | .vbcst h _
  | .ard h _ | .awr h _ | .vbmax h _ | .vqsx h _ | .vdqsx h _ | .vsigp h _ | .vmaj h _ | .vosm h _ | .vosf h _
  | .vrope h _ | .vrng h _ => markW h.m.toNat
  | _ => []

/-- The words that an operation's own fields name. -/
def Core.opReads (c : Core) (i : Instr) : List (Nat × Nat) :=
  match i with
  | .addReg _ _ a b _ _ | .subReg _ _ a b _ _ | .mulReg _ _ a b _ _ | .mulhReg _ _ a b _ | .divReg _ _ a b _
  | .remReg _ _ a b _ | .andReg _ _ a b | .orReg _ _ a b | .xorReg _ _ a b | .shlReg _ _ a b | .shrReg _ _ a b
  | .sraReg _ _ a b | .rotlReg _ _ a b | .minReg _ _ a b _ | .maxReg _ _ a b _ | .cmp _ _ _ a b _ | .cmptS _ a b
  | .sts _ a b _ _ => c.markS a ++ c.markS b
  | .addImm _ _ a _ | .subImm _ _ a _ | .mulImm _ _ a _ | .mulhImm _ _ a _ | .divImm _ _ a _ | .remImm _ _ a _
  | .andImm _ _ a _ | .orImm _ _ a _ | .xorImm _ _ a _ | .shlImm _ _ a _ | .shrImm _ _ a _ | .sraImm _ _ a _
  | .rotlImm _ _ a _ | .clzReg _ _ a | .popcReg _ _ a | .minImm _ _ a _ | .maxImm _ _ a _ | .lih _ a _
  | .cmpi _ _ _ a _ _ | .lds _ _ a _ _ _ | .xcpS _ _ _ a | .cwr _ a _ | .jmp _ a | .loop _ a _ _ => c.markS a
  | .waitWp _ _ a | .waitCyc _ a | .tnext _ _ _ a | .enq _ _ _ _ a => c.markS a
  | .waitVal _ _ _ a b _ _ => c.markS a ++ c.markS b
  | .sel _ _ a b p => c.markS a ++ c.markS b ++ c.markP p
  | .plog _ _ a b _ => c.markP a ++ c.markP b
  | .crd _ _ n => if n.toNat = 0x029 then [(15, c.crv 0x028 % 64)] else [(18, n.toNat)]
  | .vselm _ o => markW (o.c.toNat % 8)
  | .wlog _ o => markW (o.a.toNat % 8) ++ markW (o.b.toNat % 8)
  | .wcnt _ o => markW (o.a.toNat % 8)
  | .ard _ o => if o.mod.getLsbD 1 then [(15, c.crv 0x028 % 64)] else []
  | .mstat _ tid => [(15, tid.toNat)]
  | .mrel _ tid _ => [(15, tid.toNat)]
  | .mtst _ t _ => c.markT t
  | .mmul _ _ _ _ _ t tid _ _ => (15, tid.toNat) :: c.markT t
  | .tup _ _ _ sh lm _ => markTree sh lm
  | .tdn _ _ _ _ sh lm _ => markTree sh lm
  | .tmxp _ _ _ sh lm _ => markTree sh lm
  | .addC h _ a o | .subC h _ a o | .shlC h _ a o => markG h.slot a ++ (match o with
    | .reg b => markG h.slot b
    | .imm _ => [])
  | .lihC h d _ => markG h.slot d
  | .xcpC h a _ _ => markG h.slot a
  | .cmptC h a b => markG h.slot a ++ markG h.slot b
  | .mapr h _ _ _ ra => markG h.slot ra
  | .cpy h o => markCE h o true true (o.qual.toNat / 16 % 4 == 3)
  | .cpy2 h o | .cpyl h o | .atom h o | .pgft h o | .pmov h o => markCE h o true true true
  | .sig h o | .sset h o | .ssel h o | .sdel h o | .pgap h o => markCE h o true true false
  | .coll h o | .cstk h o | .sins h o | .sage h o | .smig h o | .plan h o => markCE h o true false false
  | .fence h o | .preq h o | .wbk h o => markCE h o false false false
  | _ => []

/-- The predicate of an operation's guard. -/
def Core.guardReads (c : Core) (i : Instr) : List (Nat × Nat) :=
  match guardOf i with
  | some g => c.markP (g.extractLsb' 0 4)
  | none => []

/-- Every register word that an operation reads when it issues; with a false guard the guard alone (R66). -/
def Core.regReads (c : Core) (i : Instr) : List (Nat × Nat) :=
  c.guardReads i ++
  (match guardOf i with
   | some g => if c.guard g then maskOf i ++ c.opReads i else []
   | none => [])

/-- The worst mark among some register words of a core, and the words of each kind checked in turn. -/
def State.readKinds (s : State) (k : Nat) (ws : List (Nat × Nat)) : List Nat → Bool × State
  | [] => (false, s)
  | kind :: more =>
    match s.readWords kind k ((ws.filter (fun w => w.1 == kind)).map (·.2)) with
    | (true, s1) => (true, s1)
    | (false, s1) => s1.readKinds k ws more

/-- The kinds of register words that `ErrMark` numbers. -/
def regKinds : List Nat := [9, 10, 11, 12, 13, 14, 15, 16, 17, 18]

/-- An operation of a bundle with its register reads (R140, R264): an uncorrectable word suppresses it and raises cause 0x15.
A bundle that already stands stalled read its registers when it was presented (R428). -/
def State.regChecked (run : Instr → State → Res) (slot : Nat) (i : Instr) (s : State) : Res :=
  if slot = 0 && s.me.stall.isSome then run i s
  else
    match s.readKinds s.cur (s.me.regReads i) regKinds with
    | (true, s1) => .next (s1.onCore s.cur (fun c => c.faultNow slot 0x15 0))
    | (false, s1) => run i s1

end Sys2Proof.Machine
end

