-- ==== Sys2Proof/Machine/Issue.lean ====
section
/-! DEFINITION. Issue of a bundle: what it holds and re-issues (spec/03_core.md R74 to R79), the checks of its issue cycle
in their order (spec/13_encoding.md R305), and what issue leaves behind (R80, R46, R248). -/

namespace Sys2Proof.Machine

/-! ### Sticky slots -/

/-- The K bit of a word (R295). -/
def kBit (i : Instr) : Bool :=
  match i with
  | .xcpV h _ _ _ _ => h.k
  | .cmptV h _ => h.k
  | .vld h _ => h.k
  | .vst h _ => h.k
  | .vgth h _ => h.k
  | .vsct h _ => h.k
  | .vrmg h _ => h.k
  | .vadd h _ => h.k
  | .vsub h _ => h.k
  | .vmul h _ => h.k
  | .vfma h _ => h.k
  | .vmin h _ => h.k
  | .vmax h _ => h.k
  | .vabs h _ => h.k
  | .vneg h _ => h.k
  | .vrcp h _ => h.k
  | .vrsq h _ => h.k
  | .vexp2 h _ => h.k
  | .vlog2 h _ => h.k
  | .vcvt h _ => h.k
  | .viadd h _ => h.k
  | .visub h _ => h.k
  | .vimul h _ => h.k
  | .vlogic h _ => h.k
  | .vshl h _ => h.k
  | .vshr h _ => h.k
  | .vpopc h _ => h.k
  | .viota h _ => h.k
  | .vmovi h _ => h.k
  | .vcmp h _ => h.k
  | .vicmp h _ => h.k
  | .vselm h _ => h.k
  | .wlog h _ => h.k
  | .wcnt h _ => h.k
  | .vbits h _ => h.k
  | .vrsum h _ => h.k
  | .vrmax h _ => h.k
  | .vperm h _ => h.k
  | .vbcst h _ => h.k
  | .ard h _ => h.k
  | .awr h _ => h.k
  | .zld h _ _ => h.k
  | .zst h _ _ => h.k
  | .vbmax h _ => h.k
  | .vqsx h _ => h.k
  | .vdqsx h _ => h.k
  | .vsigp h _ => h.k
  | .vmaj h _ => h.k
  | .vosm h _ => h.k
  | .vosf h _ => h.k
  | .vrope h _ => h.k
  | .vrng h _ => h.k
  | .mstat h _ => h.k
  | .mrel h _ _ => h.k
  | .mtld h _ _ => h.k
  | .mtst h _ _ => h.k
  | .mmul h _ _ _ _ _ _ _ _ => h.k
  | .mclr h _ => h.k
  | .tup h _ _ _ _ _ => h.k
  | .tdn h _ _ _ _ _ _ => h.k
  | .tmxp h _ _ _ _ _ => h.k
  | .tscl h _ _ => h.k
  | .tshl h _ _ _ => h.k
  | .tcvt h _ _ _ => h.k
  | .xcpM h _ _ _ => h.k
  | .addC h _ _ _ => h.k
  | .subC h _ _ _ => h.k
  | .shlC h _ _ _ => h.k
  | .liC h _ _ => h.k
  | .lihC h _ _ => h.k
  | .xcpC h _ _ _ => h.k
  | .cmptC h _ _ => h.k
  | .cpy h _ => h.k
  | .cpy2 h _ => h.k
  | .cpyl h _ => h.k
  | .put h _ _ _ _ _ => h.k
  | .give h _ _ _ => h.k
  | .take h _ _ => h.k
  | .atom h _ => h.k
  | .sig h _ => h.k
  | .fence h _ => h.k
  | .coll h _ => h.k
  | .cstk h _ => h.k
  | .pgft h _ => h.k
  | .preq h _ => h.k
  | .wbk h _ => h.k
  | .mapr h _ _ _ _ => h.k
  | .pmov h _ => h.k
  | .sset h _ => h.k
  | .sins h _ => h.k
  | .ssel h _ => h.k
  | .sage h _ => h.k
  | .sdel h _ => h.k
  | .smig h _ => h.k
  | .pgap h _ => h.k
  | .plan h _ => h.k
  | _ => false

/-- A re-issued operation: its stepped operands (R75). -/
def withOff (i : Instr) (o : Off) : Instr :=
  match i with
  | .xcpV h a0 a1 a2 a3 => .xcpV { h with st := o } a0 a1 a2 a3
  | .cmptV h a0 => .cmptV { h with st := o } a0
  | .vld h a0 => .vld { h with st := o } a0
  | .vst h a0 => .vst { h with st := o } a0
  | .vgth h a0 => .vgth { h with st := o } a0
  | .vsct h a0 => .vsct { h with st := o } a0
  | .vrmg h a0 => .vrmg { h with st := o } a0
  | .vadd h a0 => .vadd { h with st := o } a0
  | .vsub h a0 => .vsub { h with st := o } a0
  | .vmul h a0 => .vmul { h with st := o } a0
  | .vfma h a0 => .vfma { h with st := o } a0
  | .vmin h a0 => .vmin { h with st := o } a0
  | .vmax h a0 => .vmax { h with st := o } a0
  | .vabs h a0 => .vabs { h with st := o } a0
  | .vneg h a0 => .vneg { h with st := o } a0
  | .vrcp h a0 => .vrcp { h with st := o } a0
  | .vrsq h a0 => .vrsq { h with st := o } a0
  | .vexp2 h a0 => .vexp2 { h with st := o } a0
  | .vlog2 h a0 => .vlog2 { h with st := o } a0
  | .vcvt h a0 => .vcvt { h with st := o } a0
  | .viadd h a0 => .viadd { h with st := o } a0
  | .visub h a0 => .visub { h with st := o } a0
  | .vimul h a0 => .vimul { h with st := o } a0
  | .vlogic h a0 => .vlogic { h with st := o } a0
  | .vshl h a0 => .vshl { h with st := o } a0
  | .vshr h a0 => .vshr { h with st := o } a0
  | .vpopc h a0 => .vpopc { h with st := o } a0
  | .viota h a0 => .viota { h with st := o } a0
  | .vmovi h a0 => .vmovi { h with st := o } a0
  | .vcmp h a0 => .vcmp { h with st := o } a0
  | .vicmp h a0 => .vicmp { h with st := o } a0
  | .vselm h a0 => .vselm { h with st := o } a0
  | .wlog h a0 => .wlog { h with st := o } a0
  | .wcnt h a0 => .wcnt { h with st := o } a0
  | .vbits h a0 => .vbits { h with st := o } a0
  | .vrsum h a0 => .vrsum { h with st := o } a0
  | .vrmax h a0 => .vrmax { h with st := o } a0
  | .vperm h a0 => .vperm { h with st := o } a0
  | .vbcst h a0 => .vbcst { h with st := o } a0
  | .ard h a0 => .ard { h with st := o } a0
  | .awr h a0 => .awr { h with st := o } a0
  | .zld h a0 a1 => .zld { h with st := o } a0 a1
  | .zst h a0 a1 => .zst { h with st := o } a0 a1
  | .vbmax h a0 => .vbmax { h with st := o } a0
  | .vqsx h a0 => .vqsx { h with st := o } a0
  | .vdqsx h a0 => .vdqsx { h with st := o } a0
  | .vsigp h a0 => .vsigp { h with st := o } a0
  | .vmaj h a0 => .vmaj { h with st := o } a0
  | .vosm h a0 => .vosm { h with st := o } a0
  | .vosf h a0 => .vosf { h with st := o } a0
  | .vrope h a0 => .vrope { h with st := o } a0
  | .vrng h a0 => .vrng { h with st := o } a0
  | .mstat h a0 => .mstat { h with st := o } a0
  | .mrel h a0 a1 => .mrel { h with st := o } a0 a1
  | .mtld h a0 a1 => .mtld { h with st := o } a0 a1
  | .mtst h a0 a1 => .mtst { h with st := o } a0 a1
  | .mmul h a0 a1 a2 a3 a4 a5 a6 a7 => .mmul { h with st := o } a0 a1 a2 a3 a4 a5 a6 a7
  | .mclr h a0 => .mclr { h with st := o } a0
  | .tup h a0 a1 a2 a3 a4 => .tup { h with st := o } a0 a1 a2 a3 a4
  | .tdn h a0 a1 a2 a3 a4 a5 => .tdn { h with st := o } a0 a1 a2 a3 a4 a5
  | .tmxp h a0 a1 a2 a3 a4 => .tmxp { h with st := o } a0 a1 a2 a3 a4
  | .tscl h a0 a1 => .tscl { h with st := o } a0 a1
  | .tshl h a0 a1 a2 => .tshl { h with st := o } a0 a1 a2
  | .tcvt h a0 a1 a2 => .tcvt { h with st := o } a0 a1 a2
  | .xcpM h a0 a1 a2 => .xcpM { h with st := o } a0 a1 a2
  | .addC h a0 a1 a2 => .addC { h with st := o } a0 a1 a2
  | .subC h a0 a1 a2 => .subC { h with st := o } a0 a1 a2
  | .shlC h a0 a1 a2 => .shlC { h with st := o } a0 a1 a2
  | .liC h a0 a1 => .liC { h with st := o } a0 a1
  | .lihC h a0 a1 => .lihC { h with st := o } a0 a1
  | .xcpC h a0 a1 a2 => .xcpC { h with st := o } a0 a1 a2
  | .cmptC h a0 a1 => .cmptC { h with st := o } a0 a1
  | .cpy h a0 => .cpy { h with st := o } a0
  | .cpy2 h a0 => .cpy2 { h with st := o } a0
  | .cpyl h a0 => .cpyl { h with st := o } a0
  | .put h a0 a1 a2 a3 a4 => .put { h with st := o } a0 a1 a2 a3 a4
  | .give h a0 a1 a2 => .give { h with st := o } a0 a1 a2
  | .take h a0 a1 => .take { h with st := o } a0 a1
  | .atom h a0 => .atom { h with st := o } a0
  | .sig h a0 => .sig { h with st := o } a0
  | .fence h a0 => .fence { h with st := o } a0
  | .coll h a0 => .coll { h with st := o } a0
  | .cstk h a0 => .cstk { h with st := o } a0
  | .pgft h a0 => .pgft { h with st := o } a0
  | .preq h a0 => .preq { h with st := o } a0
  | .wbk h a0 => .wbk { h with st := o } a0
  | .mapr h a0 a1 a2 a3 => .mapr { h with st := o } a0 a1 a2 a3
  | .pmov h a0 => .pmov { h with st := o } a0
  | .sset h a0 => .sset { h with st := o } a0
  | .sins h a0 => .sins { h with st := o } a0
  | .ssel h a0 => .ssel { h with st := o } a0
  | .sage h a0 => .sage { h with st := o } a0
  | .sdel h a0 => .sdel { h with st := o } a0
  | .smig h a0 => .smig { h with st := o } a0
  | .pgap h a0 => .pgap { h with st := o } a0
  | .plan h a0 => .plan { h with st := o } a0
  | _ => i

/-- The offsets of re-issue `j` under a step register (R75, R76). -/
def stepOff (step j : Nat) : Off :=
  ⟨sgn 21 (bitsOf step 20 0) * Int.ofNat j, sgn 21 (bitsOf step 41 21) * Int.ofNat j, sgn 21 (bitsOf step 62 42) * Int.ofNat j⟩

/-- A present `NOP` of an engine slot. -/
def isNop (i : Instr) : Bool :=
  match i with
  | .nopEngineSlot _ _ => true
  | _ => false

/-- One engine slot on an issue: its arming afterwards, and the operation that it issues. `later` marks an issue of a
repeated bundle after the first (R74, R75, R77, R78). -/
def Core.slotOp (c : Core) (later : Bool) (slot : Nat) (w : Option Instr) : Option Armed × Option Instr :=
  let old := Sparse.get none c.armed slot
  let again : Option Armed × Option Instr :=
    match old with
    | none => (none, none)
    | some a => (some { a with j := a.j + 1 }, some (withOff a.ins (stepOff (c.crv (0x017 + slot)) (a.j + 1))))
  match w with
  | none => again
  | some i => if kBit i then (if later then again else (some ⟨i, 0⟩, some i)) else (none, some i)

/-- What a bundle issues: the armed slots afterwards and the operations in slot order. -/
structure Gather where
  armed : Sparse (Option Armed)
  ops : List (Nat × Instr)
deriving DecidableEq, Repr

/-- The words of a bundle by slot, S first. -/
def bundleWords (b : Bundle) : List (Option Instr) := [b.s, b.v0, b.v1, b.m, b.c0, b.c1]

/-- The operations of a bundle on this issue. -/
def Core.gather (c : Core) (b : Bundle) : Gather :=
  let later := c.rlen != 0
  let eng := [1, 2, 3, 4, 5].map (fun sl => (sl, c.slotOp later sl ((bundleWords b).getD sl none)))
  { armed := eng.filterMap (fun e => e.2.1.map (fun a => (e.1, some a)))
    ops := (b.s.toList.map (fun i => (0, i))) ++ eng.filterMap (fun e => e.2.2.map (fun i => (e.1, i))) }

/-! ### The checks of the issue cycle (R67, R305) -/

/-- A re-issued word whose stepped field leaves the values that its slot table allows (level 3; R76, R298). -/
def steppedBad (i : Instr) : Bool :=
  let out (v : Nat) (o : Int) (hi : Int) : Bool := stepped v o < 0 || hi < stepped v o
  match i with
  | .ard h o => out o.arow.toNat h.st.a 16 || out o.acol.toNat h.st.b 128
  | .awr h o => out o.arow.toNat h.st.a 16 || out o.acol.toNat h.st.b 128
  | _ => false

/-- S operations that a repeated bundle may not hold (R79, R339). -/
def noRepeat (i : Instr) : Bool :=
  match i with
  | .br _ _ => true
  | .jmp _ _ => true
  | .loop _ _ _ _ => true
  | .bloop _ _ => true
  | .bsw _ _ => true
  | .exit _ => true
  | .trap _ _ => true
  | .tret _ => true
  | .waitOwn _ _ => true
  | .waitWp _ _ _ => true
  | .waitBar _ _ => true
  | .waitVal _ _ _ _ _ _ _ => true
  | .waitCyc _ _ => true
  | .bar _ _ => true
  | .crgnOpen _ _ _ => true
  | .crgnClose _ => true
  | _ => false

/-- The target that the rules of `BR` judge (R323, R324, R339, R350, R364). -/
def Core.target? (c : Core) (i : Instr) : Option Int :=
  match i with
  | .br _ o => some (c.btarget o.toInt)
  | .jmp _ a => some (Int.ofNat (jmpTarget (c.sreg a)))
  | .loop _ _ _ o => some (c.btarget (Int.ofNat o.toNat))
  | .bloop _ o => some (c.btarget o.toInt)
  | .bsw _ o => some (2 * Int.ofNat o.toNat)
  | .crgnOpen _ _ o => some (c.btarget o.toInt)
  | _ => none

/-- A target that is `ILLEGAL`. -/
def Core.targetIllegal (c : Core) (i : Instr) : Bool :=
  match c.target? i with
  | some t => t < 0 || 16382 < t || (c.stub && t < 14336)
  | none => false

/-- A target that is `PRIV`. -/
def Core.targetPriv (c : Core) (i : Instr) : Bool :=
  match c.target? i with
  | some t => !c.stub && decide (14336 ≤ t)
  | none => false

/-- The accumulator bank that an operation names (R84). -/
def bankOf (i : Instr) : Option Nat :=
  match i with
  | .mmul _ _ _ _ bank _ _ _ _ => some bank.toNat
  | .mclr _ bank => some bank.toNat
  | .ard _ o => some o.bank.toNat
  | .awr _ o => some o.bank.toNat
  | _ => none

/-- The quarters that a `GIVE` or `TAKE` names (R348). -/
def ownSpan (i : Instr) : List Int :=
  let f (h : CHead) (q : BitVec 6) (n : BitVec 7) : List Int :=
    (List.range n.toNat).map (fun k => stepped q.toNat h.st.a + Int.ofNat k)
  match i with
  | .give h _ q n => f h q n
  | .take h q n => f h q n
  | _ => []

/-- Whether a tile may be named, and under `MMUL` whether its element width fits the format (R57, R126). -/
def Core.tileBad (c : Core) (t : BitVec 4) (ew : Option Nat) : Bool :=
  let v := c.crv (0x010 + t.toNat % 8)
  bitsOf v 7 3 == 0 || (match ew with
    | some e => bitsOf v 1 0 != e
    | none => false)

/-- A shape or leaf-map entry with reserved bits (R218). -/
def Core.treeBad (c : Core) (sh lm : BitVec 6) (tap : Bool) : Bool :=
  let sw := c.shapeAt sh.toNat
  decide (2 ^ 48 ≤ sw) || (tap && bitsOf sw 47 46 == 3) ||
  (List.range 16).any (fun j => decide (512 ≤ lane 16 (c.leafAt lm.toNat).toNat j))

/-- A pair of equal destinations of a compare (R69). -/
def samePair (a b : Nat) : Bool := a == b && a != 0

/-- The operation rules of level 4 for one operation, apart from those of the bundle. -/
def Core.opIllegal (c : Core) (rep : Bool) (i : Instr) : Bool :=
  (rep && noRepeat i) || c.targetIllegal i ||
  (match i with
   | .cmp _ pd pe _ _ _ => samePair pd.toNat pe.toNat
   | .cmpi _ pd pe _ _ _ => samePair pd.toNat pe.toNat
   | .xcpS _ f _ _ => f == 0
   | .bsw _ _ => c.target (!c.half) || c.written (!c.half)
   | .xcpV h _ f _ _ => f == 3 || f == (if h.slot then 2 else 1)
   | .vcmp _ o => samePair (o.d.toNat % 8) (o.d.toNat / 8)
   | .vicmp _ o => samePair (o.d.toNat % 8) (o.d.toNat / 8)
   | .mtld _ t _ => c.tileBad t none
   | .mtst _ t _ => c.tileBad t none
   | .mmul _ _ _ fmt _ t _ _ _ => c.tileBad t (some (if fmt == 0 then 1 else 0))
   | .tup _ _ _ sh lm _ => c.treeBad sh lm true
   | .tdn _ _ _ _ sh lm _ => c.treeBad sh lm false
   | .tmxp _ _ _ sh lm _ => c.treeBad sh lm false
   | .tshl h l e _ => steppedMod e.toNat h.st.a 64 % (if l then 2 else 8) != 0
   | .xcpC h _ f _ => f == (if h.slot then 5 else 4)
   | _ => false)

/-- Level 4 for one operation of a bundle: its own rules, a bank or a quarter that another operation names too, and a
drain point with an armed slot (R79, R84, R348). -/
def Core.level4 (c : Core) (b : Bundle) (g : Gather) (e : Nat × Instr) : Bool :=
  let others := g.ops.filter (fun x => x.1 != e.1)
  c.opIllegal (b.rep != 0) e.2 ||
  (match bankOf e.2 with
   | some k => others.any (fun x => bankOf x.2 == some k)
   | none => false) ||
  others.any (fun x => (ownSpan x.2).any (fun q => (ownSpan e.2).contains q)) ||
  (b.drain && (Sparse.get none g.armed e.1).isSome)

/-- The tree-scratch entries that an operation reads on its issue cycle (R219). -/
def Core.zReads (c : Core) (i : Instr) : List Nat :=
  match i with
  | .tup h _ _ sh lm base => leafReads (c.shapeAt sh.toNat) (c.leafAt lm.toNat) (steppedMod base.toNat h.st.b 512)
  | .tmxp h _ _ sh lm base => leafReads (c.shapeAt sh.toNat) (c.leafAt lm.toNat) (steppedMod base.toNat h.st.b 512)
  | .tdn h _ _ zg sh lm base =>
    steppedMod zg.toNat h.st.c 512 :: leafReads (c.shapeAt sh.toNat) (c.leafAt lm.toNat) (steppedMod base.toNat h.st.b 512)
  | .tscl h _ zd => zRun (steppedMod zd.toNat h.st.a 512)
  | .tcvt h _ _ zs => zRun (steppedMod zs.toNat h.st.b 512)
  | .zld h _ z => zRun (steppedMod z.toNat h.st.a 512)
  | .xcpM _ zs _ _ => [zs.toNat]
  | _ => []

/-- Banks of the tree scratch that a bundle asks for more than two reads (R219). -/
def Core.overBanks (c : Core) (g : Gather) : List Nat :=
  let all := (g.ops.flatMap (fun e => c.zReads e.2)).map (· % 8)
  (List.range 8).filter (fun k => 2 < (all.filter (· == k)).length)

/-- A privileged operation outside stub mode (R58, R80, R254). -/
def Core.opPriv (c : Core) (i : Instr) : Bool :=
  c.targetPriv i ||
  (match i with
   | .crd _ _ n => !c.stub && crPriv n.toNat
   | .cwr _ _ n => !c.stub && crPriv n.toNat
   | .tret _ => !c.stub
   | _ => false)

/-- Levels 4 to 6 of R305 for a gathered bundle: the slot, where one is named, and the cause. -/
def Core.checks (c : Core) (b : Bundle) (g : Gather) : Option (Option Nat × Nat) :=
  match g.ops.find? (c.level4 b g) with
  | some e => some (some e.1, 0x01)
  | none =>
    let many := c.overBanks g
    match g.ops.find? (fun e => (c.zReads e.2).any (fun z => many.contains (z % 8))) with
    | some e => some (some e.1, 0x02)
    | none =>
      match g.ops.find? (fun e => c.opPriv e.2) with
      | some e => some (some e.1, 0x03)
      | none => if !c.stub && decide (14336 ≤ c.pc) then some (none, 0x03) else none

/-! ### Issue -/

/-- An issue-time fault (R248): the bundle is suppressed and stands unissued. Where no slot is named, and where the issues
not made do not fit their field, the value is free (log 10). -/
def State.issueFault (s : State) (slot : Option Nat) (cause rep : Nat) : State :=
  let c := s.me
  let a := s.choose
  let b := a.2.choose
  let left := if c.rlen != 0 then c.rep else if rep = 0 then 0 else if rep = 31 then b.1 % 32 else rep + 1
  (b.2.onCore s.cur (fun c =>
    { c.detect (slot.getD (a.1 % 6)) false cause 0 0 c.baddr 0 true with
      stall := none, stopAt := some left })).stamp s.cur

/-- The slot of a decode error, or none for the header and the extension word (R305). -/
def errSlot (e : DecErr) : Option Nat :=
  match e with
  | .badHeader => none
  | .badExtension => none
  | .unassigned n => some n
  | .reserved n => some n
  | .badField n => some n

/-- The effects that do not keep a drain-point bundle from qualifying (R46). -/
def Eff.quiet (e : Eff) : Bool :=
  match e with
  | .cwr _ _ => true
  | .loop _ _ => true
  | .bloop => true
  | .crgnOpen _ _ _ => true
  | .give _ _ _ => true
  | .take _ _ => true
  | .mapr _ _ _ _ => true
  | .mstat _ => true
  | .dbrk => true
  | _ => false

/-- Whether nothing of the core is in flight but what R46 allows. -/
def Core.calm (c : Core) : Bool :=
  c.pend.all (fun p => p.eff.quiet) && c.c0.cmds.isEmpty && c.c1.cmds.isEmpty && c.flt.isNone && !c.stub

/-- The regions that the issuing bundle opens are pushed on its issue cycle (R340). -/
def Core.openRegions (c : Core) : Core :=
  { c with
    pend := c.pend.filter (fun p => !p.eff.isOpen)
    crgn := (c.pend.filterMap (fun p => p.eff.region?)).foldl (fun l r => r :: l) c.crgn }

/-- The core after a bundle has issued: the next bundle, or a further issue of this one (R78, R80). A drain-point bundle
qualifies when nothing of the core is in flight: an operation of its own with a false guard has no effect and keeps it from
nothing (R46, log 41). -/
def Core.finish (c : Core) (b : Bundle) : Core :=
  let c1 := { c.openRegions with stall := none, stopAt := none }
  let left := if b.rep = 0 then 0 else if c.rlen = 0 then b.rep.toNat else c.rep - 1
  if left = 0 then { c1 with pc := c.npc, half := c.nhalf, rep := 0, rlen := 0, atDrain := b.drain && c.calm }
  else { c1 with rep := left, rlen := b.len }

/-- Whether a stall is one of `WAIT` or `BAR`, which may stand at a drain point (R46, R184). -/
def Stall.drains (st : Stall) : Bool :=
  match st with
  | .gate => false
  | .close => false
  | _ => true

/-- Runs operations one after another, each with its slot. -/
def runOps (run : Nat → Instr → State → Res) : List (Nat × Instr) → State → Res
  | [], s => .next s
  | i :: l, s =>
    match run i.1 i.2 s with
    | .next t => runOps run l t
    | r => r

/-- A bundle presented to issue (R248, R428): its S operation runs, with the check of the registers that it reads, and may hold
the bundle; where it does not, the bundle goes on. -/
def State.present (run : Instr → State → Res) (b : Bundle) (armed : Sparse (Option Armed)) (s : State) (go : State → Res) : Res :=
  let k := s.cur
  let c := s.me
  let s0 := s.onCore k (fun c => { c with npc := c.pc + b.len, nhalf := c.half, armed := armed })
  match runOps (State.regChecked run) (b.s.toList.map (fun i => (0, i))) s0 with
  | .next s1 =>
    match (s1.core k).stall with
    | some st =>
      .next ((s1.onCore k (fun d => { d with
        armed := c.armed, npc := c.npc, nhalf := c.nhalf
        stopAt := some (if c.rlen != 0 then c.rep else if b.rep = 0 then 0 else b.rep.toNat + 1)
        atDrain := b.drain && st.drains && d.calm })).stamp k)
    | none => go s1
  | r => r

/-- A bundle presented to issue whose words decode (R67, R248, R428): once nothing holds it, its checks; then its operations, each
through `run`, in slot order, with the check of the registers that it reads. -/
def State.issueBundle (run : Instr → State → Res) (b : Bundle) (s : State) : Res :=
  let k := s.cur
  let c := s.me
  let g := c.gather b
  s.present run b g.armed (fun s1 =>
    match g.ops.find? (fun e => steppedBad e.2) with
    | some e => .next (s.issueFault (some e.1) 0x01 b.rep.toNat)
    | none =>
      match c.checks b g with
      | some e => .next (s.issueFault e.1 e.2 b.rep.toNat)
      | none =>
        match runOps (State.regChecked run) (g.ops.filter (fun e => e.1 != 0)) s1 with
        | .next s2 => .next ((s2.onCore k (fun c => c.finish b)).stamp k)
        | r => r)

/-- The bytes of the bundle at the core's program counter, as far as a bundle can reach. -/
def State.fetchBytes (s : State) : List Byte :=
  rdBytes s.mem (iscKey s.cur s.me.half s.me.pc) (min 42 (16384 - s.me.pc))

/-- The bundle at the core's program counter (R289, R290). -/
def State.fetch (s : State) : Except DecErr Bundle := decodeBundle s.fetchBytes

/-- The instruction-scratch words that a fetch reads. -/
def State.fetchWords (s : State) : List Nat :=
  let hd := leNat (s.fetchBytes.take 2)
  let a := s.me.half.toNat * 16384 + s.me.pc
  let len := min 42 (2 + slotLen hd + (if num 2 hd 2 == 1 then 4 else 0))
  (List.range ((a + len - 1) / 8 - a / 8 + 1)).map (fun i => a / 8 + i)

/-- The slot charged with a level-3 fault when a present word does not decode: an omitted armed slot that comes first and
leaves its field stands before it (R248). -/
def State.decodeSlot (s : State) (e : DecErr) : Option Nat :=
  match errSlot e with
  | none => none
  | some n =>
    let hd := leNat (s.fetchBytes.take 2)
    let first := [1, 2, 3, 4, 5].find? (fun sl => sl < n && !flg hd (15 - sl) &&
      (match (s.me.slotOp (s.me.rlen != 0) sl none).2 with
       | some i => steppedBad i
       | none => false))
    some (first.getD n)

/-- Whether an S operation may hold its bundle from issue (R184, R321, R340, R428). -/
def holdsIssue (i : Instr) : Bool :=
  match i with
  | .waitOwn _ _ => true
  | .waitWp _ _ _ => true
  | .waitBar _ _ => true
  | .waitVal _ _ _ _ _ _ _ => true
  | .waitCyc _ _ => true
  | .bar _ _ => true
  | .tnext _ _ _ _ => true
  | .crgnClose _ => true
  | _ => false

/-- A bundle of which some other word does not decode, as far as it may be held from its issue cycle, on which it is checked
(R305, R428): its S word alone, where the header shows one that holds issue. The header itself may be the word. -/
def State.heldBundle (s : State) : Option Bundle :=
  let hd := leNat (s.fetchBytes.take 2)
  let w := leNat ((s.fetchBytes.drop 2).take 4)
  if !flg hd 15 || s.fetchBytes.length < 6 || sHasX w then none
  else ((decodeS w 0).toOption.filter holdsIssue).map (fun i =>
    ⟨flg hd 9, fld 5 hd 4, some i, none, none, none, none, none, 2 + slotLen hd + (if num 2 hd 2 == 1 then 4 else 0)⟩)

/-- Issue of the bundle at the program counter of core `cur` (R248, R305). A bundle with a word that does not decode faults on its
issue cycle, which a hold of its S operation puts off. An empty bundle is the instruction `EMPTY_BUNDLE` itself. -/
def State.issue (run : Instr → State → Res) (s : State) : Res :=
  let rep := (fld 5 (leNat (s.fetchBytes.take 2)) 4).toNat
  match s.readWords 5 s.cur s.fetchWords with
  | (true, s1) => .next (s1.issueFault none 0x15 rep)
  | (false, s1) =>
    match s1.fetch with
    | .error e =>
      let fault : Res := .next (s1.issueFault (s1.decodeSlot e) 0x01 rep)
      match s1.heldBundle with
      | some b => s1.present run b s1.me.armed (fun _ => fault)
      | none => fault
    | .ok b =>
      if (bundleWords b).all Option.isNone then run (.emptyBundle b.drain b.rep) s1 else s1.issueBundle run b

end Sys2Proof.Machine
end

