-- ==== Sys2Proof/Machine/Slot.lean ====
section
/-! DEFINITION. The operations that a slot can hold, one call each, and the two ways in which a bundle issues by itself:
the empty bundle (spec/13_encoding.md R291) and the end of a stall (spec/16 R428). -/

namespace Sys2Proof.Machine

/-- The meaning of a slot operation; every other instruction is no slot operation and does nothing in a slot. -/
def execSlot (i : Instr) (s : State) : Res :=
  match i with
  | .nopS g => execNopS g s
  | .addReg g d a b u sat => execAddReg g d a b u sat s
  | .addImm g d a i => execAddImm g d a i s
  | .subReg g d a b u sat => execSubReg g d a b u sat s
  | .subImm g d a i => execSubImm g d a i s
  | .mulReg g d a b u sat => execMulReg g d a b u sat s
  | .mulImm g d a i => execMulImm g d a i s
  | .mulhReg g d a b u => execMulhReg g d a b u s
  | .mulhImm g d a i => execMulhImm g d a i s
  | .divReg g d a b u => execDivReg g d a b u s
  | .divImm g d a i => execDivImm g d a i s
  | .remReg g d a b u => execRemReg g d a b u s
  | .remImm g d a i => execRemImm g d a i s
  | .andReg g d a b => execAndReg g d a b s
  | .andImm g d a i => execAndImm g d a i s
  | .orReg g d a b => execOrReg g d a b s
  | .orImm g d a i => execOrImm g d a i s
  | .xorReg g d a b => execXorReg g d a b s
  | .xorImm g d a i => execXorImm g d a i s
  | .shlReg g d a b => execShlReg g d a b s
  | .shlImm g d a i => execShlImm g d a i s
  | .shrReg g d a b => execShrReg g d a b s
  | .shrImm g d a i => execShrImm g d a i s
  | .sraReg g d a b => execSraReg g d a b s
  | .sraImm g d a i => execSraImm g d a i s
  | .rotlReg g d a b => execRotlReg g d a b s
  | .rotlImm g d a i => execRotlImm g d a i s
  | .clzReg g d a => execClzReg g d a s
  | .clzImm g d i => execClzImm g d i s
  | .popcReg g d a => execPopcReg g d a s
  | .popcImm g d i => execPopcImm g d i s
  | .minReg g d a b u => execMinReg g d a b u s
  | .minImm g d a i => execMinImm g d a i s
  | .maxReg g d a b u => execMaxReg g d a b u s
  | .maxImm g d a i => execMaxImm g d a i s
  | .sel g d a b p => execSel g d a b p s
  | .li g d i => execLi g d i s
  | .lih g d i => execLih g d i s
  | .cmp g pd pe a b cc => execCmp g pd pe a b cc s
  | .cmpi g pd pe a cc i => execCmpi g pd pe a cc i s
  | .plog g pd pa pb tt => execPlog g pd pa pb tt s
  | .lds g d a e u o => execLds g d a e u o s
  | .sts g d a e o => execSts g d a e o s
  | .xcpS g f r a => execXcpS g f r a s
  | .crd g r n => execCrd g r n s
  | .cwr g r n => execCwr g r n s
  | .cyc g d t => execCyc g d t s
  | .cmptS g a b => execCmptS g a b s
  | .br g o => execBr g o s
  | .jmp g a => execJmp g a s
  | .loop g a k o => execLoop g a k o s
  | .bloop g o => execBloop g o s
  | .bsw g o => execBsw g o s
  | .ifence g => execIfence g s
  | .waitOwn g q => execWaitOwn g q s
  | .waitWp g ch a => execWaitWp g ch a s
  | .waitBar g b => execWaitBar g b s
  | .waitVal g acq cc a b sc z => execWaitVal g acq cc a b sc z s
  | .waitCyc g a => execWaitCyc g a s
  | .bar g b => execBar g b s
  | .tnext g pd q a => execTnext g pd q a s
  | .enq g pd q pri a => execEnq g pd q pri a s
  | .exit g => execExit g s
  | .dbrk g => execDbrk g s
  | .trap g i => execTrap g i s
  | .tret g => execTret g s
  | .crgnOpen g id o => execCrgnOpen g id o s
  | .crgnClose g => execCrgnClose g s
  | .nopEngineSlot slot g => execNopEngineSlot slot g s
  | .xcpV h a f r lane => execXcpV h a f r lane s
  | .cmptV h o => execCmptV h o s
  | .vld h o => execVld h o s
  | .vst h o => execVst h o s
  | .vgth h o => execVgth h o s
  | .vsct h o => execVsct h o s
  | .vrmg h o => execVrmg h o s
  | .vadd h o => execVadd h o s
  | .vsub h o => execVsub h o s
  | .vmul h o => execVmul h o s
  | .vfma h o => execVfma h o s
  | .vmin h o => execVmin h o s
  | .vmax h o => execVmax h o s
  | .vabs h o => execVabs h o s
  | .vneg h o => execVneg h o s
  | .vrcp h o => execVrcp h o s
  | .vrsq h o => execVrsq h o s
  | .vexp2 h o => execVexp2 h o s
  | .vlog2 h o => execVlog2 h o s
  | .vcvt h o => execVcvt h o s
  | .viadd h o => execViadd h o s
  | .visub h o => execVisub h o s
  | .vimul h o => execVimul h o s
  | .vlogic h o => execVlogic h o s
  | .vshl h o => execVshl h o s
  | .vshr h o => execVshr h o s
  | .vpopc h o => execVpopc h o s
  | .viota h o => execViota h o s
  | .vmovi h o => execVmovi h o s
  | .vcmp h o => execVcmp h o s
  | .vicmp h o => execVicmp h o s
  | .vselm h o => execVselm h o s
  | .wlog h o => execWlog h o s
  | .wcnt h o => execWcnt h o s
  | .vbits h o => execVbits h o s
  | .vrsum h o => execVrsum h o s
  | .vrmax h o => execVrmax h o s
  | .vperm h o => execVperm h o s
  | .vbcst h o => execVbcst h o s
  | .ard h o => execArd h o s
  | .awr h o => execAwr h o s
  | .zld h d z => execZld h d z s
  | .zst h d z => execZst h d z s
  | .vbmax h o => execVbmax h o s
  | .vqsx h o => execVqsx h o s
  | .vdqsx h o => execVdqsx h o s
  | .vsigp h o => execVsigp h o s
  | .vmaj h o => execVmaj h o s
  | .vosm h o => execVosm h o s
  | .vosf h o => execVosf h o s
  | .vrope h o => execVrope h o s
  | .vrng h o => execVrng h o s
  | .mstat h tid => execMstat h tid s
  | .mrel h tid layout => execMrel h tid layout s
  | .mtld h t row => execMtld h t row s
  | .mtst h t row => execMtst h t row s
  | .mmul h acc ck fmt bank t tid k0 n0 => execMmul h acc ck fmt bank t tid k0 n0 s
  | .mclr h bank => execMclr h bank s
  | .tup h md zd sh lm base => execTup h md zd sh lm base s
  | .tdn h md zd zg sh lm base => execTdn h md zd zg sh lm base s
  | .tmxp h md zd sh lm base => execTmxp h md zd sh lm base s
  | .tscl h all zd => execTscl h all zd s
  | .tshl h l e row => execTshl h l e row s
  | .tcvt h md zd zs => execTcvt h md zd zs s
  | .xcpM h zs f r => execXcpM h zs f r s
  | .addC h d a o => execAddC h d a o s
  | .subC h d a o => execSubC h d a o s
  | .shlC h d a o => execShlC h d a o s
  | .liC h d i => execLiC h d i s
  | .lihC h d i => execLihC h d i s
  | .xcpC h a f r => execXcpC h a f r s
  | .cmptC h a b => execCmptC h a b s
  | .cpy h o => execCpy h o s
  | .cpy2 h o => execCpy2 h o s
  | .cpyl h o => execCpyl h o s
  | .put h srow drow n1 lrow lcol => execPut h srow drow n1 lrow lcol s
  | .give h w q n => execGive h w q n s
  | .take h q n => execTake h q n s
  | .atom h o => execAtom h o s
  | .sig h o => execSig h o s
  | .fence h o => execFence h o s
  | .coll h o => execColl h o s
  | .cstk h o => execCstk h o s
  | .pgft h o => execPgft h o s
  | .preq h o => execPreq h o s
  | .wbk h o => execWbk h o s
  | .mapr h slot q n ra => execMapr h slot q n ra s
  | .pmov h o => execPmov h o s
  | .sset h o => execSset h o s
  | .sins h o => execSins h o s
  | .ssel h o => execSsel h o s
  | .sage h o => execSage h o s
  | .sdel h o => execSdel h o s
  | .smig h o => execSmig h o s
  | .pgap h o => execPgap h o s
  | .plan h o => execPlan h o s
  | _ => .next s

/-- `EMPTY_BUNDLE` (R291): it issues like any other bundle, and the armed slots re-issue (R75). -/
def execEmptyBundle (drain : Bool) (rep : BitVec 5) (s : State) : Res :=
  s.issueBundle execSlot ⟨drain, rep, none, none, none, none, none, none, 2⟩

/-- The first core whose turn it is holds a stalled bundle whose condition holds. -/
def State.resumable (s : State) (k : Nat) : Bool :=
  s.turn.head? == some k && (match (s.core k).stall with
    | some st => (s.core k).issues && s.stallMet k st
    | none => false)

/-- `BUNDLE_STALL_RESUME` (R428, R43): the bundle issues on the task cycle on which its condition holds (log 7). Where no
stall of the core can end, nothing happens. -/
def execBundleStallResume (core : Nat) (s : State) : Res :=
  if s.resumable core then { s with turn := s.turn.tail, cur := core }.issue
    (fun i t => match i with
      | .emptyBundle d r => execEmptyBundle d r t
      | j => execSlot j t)
  else .next s

end Sys2Proof.Machine
end

