-- ==== Sys2Proof/Machine/Faults.lean ====
section
/-! DEFINITION. The steps of faults and error defence that no bundle makes: trap entry, unwinding, killing (spec/11_faults.md
R247 to R259), the end of a freeze (spec/05 R140), leaks and retirement (R265 to R267), error injection (R263), the end of a
TLB invalidation (spec/07 R173), and the reads of `WAIT.VAL` (spec/16 R430). Each step is enabled in some states and leaves
every other state as it is. -/

namespace Sys2Proof.Machine

/-- The outcome of a step that may be enabled or not. -/
def orSame (s : State) (o : Option State) : Res := .next (o.getD s)

/-! ### Trap entry and unwinding -/

/-- Whether a core-slot result is still in flight (R250). -/
def Core.landing (c : Core) : Bool := c.pend.any (fun p => p.slot != 6 && p.eff.isResult)

/-- Whether the entry cycle of a fault has come (R250). -/
def Core.entryDue (c : Core) (f : Flt) : Bool := decide (max f.f f.last + 1 ≤ c.cyc) && !c.landing

/-- The region that a fault unwinds, when it is not routed to the stub and a region is open: for a slot fault the innermost
one, for an engine fault that of its command, or the one outside it where the bundle of f closed it (R257, log 42). -/
def Core.unwinds (c : Core) (f : Flt) : Option Nat :=
  let g := min f.depth c.crgn.length
  if g = 0 then none else some g

/-- A core that issues again on this task cycle. -/
def State.enturn (s : State) (k : Nat) : State := { s with turn := if s.turn.contains k then s.turn else s.turn ++ [k] }

/-- Trap entry of a core, counted in its instance (R251). -/
def State.enterTrap (s : State) (k : Nat) (f : Flt) : State :=
  ((s.countFault k f.cause (f.glob.getD s.glob)).onCore k (fun c => c.trapEntry f)).enturn k

/-- `TRAP_ENTRY` when it is enabled. -/
def State.tryTrap (s : State) (k : Nat) : Option State :=
  match (s.core k).flt with
  | none => none
  | some f => if (s.core k).run && ((s.core k).unwinds f).isNone && (s.core k).entryDue f then some (s.enterTrap k f) else none

/-- `TRAP_ENTRY` (R251): the trap registers are written and the core enters stub mode. -/
def execTrapEntry (core : Nat) (s : State) : Res := orSame s (s.tryTrap core)

/-- Whether a channel command of a depth or deeper is unstarted at `f`: a copy has not reached its start cycle, a command of
another engine has not been handed on (R258). -/
def Cmd.unstarted (m : Cmd) (g f : Nat) : Bool :=
  g ≤ m.depth && (if m.kind.other then m.phase != .handed else m.phase == .held && decide (f < m.start))

/-- Whether an operation in a Scarab queue belongs to a command of a core at a depth or deeper. -/
def State.setOpOf (s : State) (k g : Nat) (o : SetOp) : Bool :=
  o.core == k && (s.core k).held.any (fun m => m.uid == o.uid && g ≤ m.depth)

/-- Whether a collective of a core at a depth or deeper has sent nothing yet. -/
def Coll.unstarted (x : Coll) (k inst g : Nat) : Bool := x.core == some k && x.inst == inst && g ≤ x.depth && !x.sent

/-- Unstarted work of a core in engines that are no copy channels. -/
def State.engUnstarted (s : State) (k g : Nat) : Bool :=
  s.dies.any (fun d => d.2.setq.any (s.setOpOf k g)) ||
  s.dies.any (fun d => d.2.coll.any (fun q => q.2.any (fun x => x.unstarted k (s.core k).inst g))) ||
  s.lanes.any (fun l => l.2.phase == .loaded && l.2.core == k && l.2.inst == (s.core k).inst && g ≤ l.2.depth)

/-- Cancels the unstarted commands of a core at a depth or deeper (R258, R255): they perform nothing, and a lane that was loaded
is as it was before. -/
def State.cancel (s : State) (k g f : Nat) : State :=
  let c := s.core k
  let gone := s.dies.flatMap (fun d => (d.2.setq.filter (s.setOpOf k g)).map (·.uid))
  let keep (q : Chan) : Chan := { q with cmds := q.cmds.filter (fun m => !m.unstarted g f && !gone.contains m.uid) }
  let dies' : Sparse Die := s.dies.map (fun d => (d.1, { d.2 with
    setq := d.2.setq.filter (fun o => !gone.contains o.uid)
    coll := d.2.coll.map (fun q => (q.1, q.2.filter (fun x => !x.unstarted k c.inst g))) }))
  let lanes' : Sparse Lane := s.lanes.map (fun l =>
    if l.2.phase == .loaded && l.2.core == k && l.2.inst == c.inst && g ≤ l.2.depth then
      (l.1, (Sparse.find s.unloaded l.1).getD { l.2 with phase := .idle })
    else l)
  { s with dies := dies', lanes := lanes' }.onCore k (fun c => { c with c0 := keep c.c0, c1 := keep c.c1 })

/-- The handler's first bundle of an unwind (R258): the trap registers, the quarters of the region's commands, the depth,
the registers `s1` to `s3`, and the handler's address; where its half may not be entered, the core traps instead. -/
def State.unwindTo (s : State) (k g : Nat) (f : Flt) : State :=
  let c := s.core k
  let inside := c.crgn.take (c.crgn.length + 1 - g)
  match inside.getLast? with
  | none => s.enterTrap k f
  | some r =>
    if c.target r.half || c.written r.half then s.enterTrap k f
    else
      let named := inside.flatMap (·.named)
      let back := (List.range 64).filter (fun q => named.contains (k * 64 + q) && c.owner q == .engine)
      let c1 := (back.foldl Core.returnQ c).trapRegs f false
      let c2 := ((c1.setReg .s 1 (BitVec.ofNat 64 f.cause)).setReg .s 2 (BitVec.ofNat 64 r.id)).setReg .s 3 f.data
      (((s.clearErr 9 k [1, 2, 3]).countFault k f.cause (f.glob.getD s.glob)).setCore k { c2 with
        crgn := c.crgn.drop (c.crgn.length + 1 - g), armed := [], flt := none, stall := none, stopAt := none
        rep := 0, rlen := 0, pc := r.handler, half := r.half }).enturn k

/-- The last cycle on which an unwind had something to wait for. -/
def State.notYet (s : State) (k : Nat) : State :=
  s.onCore k (fun c => { c with flt := c.flt.map (fun f => { f with last := max f.last c.cyc }) })

/-- `CONTAINMENT_UNWIND` when it is enabled: once the bundle of f has issued, the cancelling; then, on the first task cycle after
started commands are done and results have landed, the rest (R258). -/
def State.tryUnwind (s : State) (k : Nat) : Option State :=
  let c := s.core k
  match c.flt with
  | none => none
  | some f =>
    match c.unwinds f with
    | none => none
    | some g =>
      if !c.run || s.turn.contains k then none
      else if c.held.any (fun m => m.unstarted g f.f) || s.engUnstarted k g then some ((s.cancel k g f.f).notYet k)
      else if (s.engineWork k).any (fun d => g ≤ d) then (if f.last < c.cyc then some (s.notYet k) else none)
      else if c.entryDue f then some (s.unwindTo k g f)
      else none

/-- `CONTAINMENT_UNWIND` (R258). -/
def execContainmentUnwind (core : Nat) (s : State) : Res := orSame s (s.tryUnwind core)

/-! ### Killing (R255) -/

/-- Whether an instance still runs, so that it can be killed or aborted. -/
def Inst.alive (i : Inst) : Bool :=
  match i.phase with
  | .ending _ => false
  | .vanish => false
  | .saved => false
  | _ => true

/-- An effect that hands a command to a channel. -/
def Eff.isAccept (e : Eff) : Bool :=
  match e with
  | .accept _ _ => true
  | _ => false

/-- A core in the midst of a repeated bundle, whose last issue is the next bundle boundary (R78). -/
def Core.midBundle (c : Core) : Bool := c.run && !c.exited && c.rep != 0 && c.flt.isNone

/-- Stops issue on a core for good: what is in flight lands, but no further command enters a channel (R255). -/
def Core.stopIssue (c : Core) : Core :=
  { c with
    exited := true, stall := none, stopAt := none, flt := none, stopped := false, atDrain := false
    pend := c.pend.filter (fun p => !p.eff.isAccept) }

/-- Some cores issue no more: their unstarted engine commands are cancelled, started ones perform. -/
def State.haltCores (s : State) (ks : List Nat) : State :=
  let s1 := ks.foldl (fun s k => (s.cancel k 0 (s.core k).cyc).onCore k Core.stopIssue) s
  { s1 with turn := s1.turn.filter (fun k => !ks.contains k) }

/-- Stops an instance at a bundle boundary of each of its cores (R255, R49): a core in the midst of a repeated bundle makes its
further issues first. -/
def State.stopInst (s : State) (i : Nat) (ph : IPhase) : State :=
  (s.haltCores ((s.instCores i).filter (fun k => !(s.core k).midBundle))).onInst i (fun x => { x with phase := ph })

/-- Cores of a stopped instance that have come to their bundle boundary. -/
def State.lateStops (s : State) (x : Inst) : List Nat :=
  match x.phase with
  | .ending _ | .vanish => (s.instCores x.id).filter (fun k => !(s.core k).exited && !(s.core k).midBundle)
  | _ => []

/-- `KILL_INSTANCE` when it is enabled: the stub of Helelle major version 2 kills on every trap entry (R254), and a core that a
repeated bundle held at its kill stops after it. -/
def State.tryKill (s : State) (i : Nat) : Option State :=
  match s.inst? i with
  | none => none
  | some x =>
    if x.alive && (s.instCores i).any (fun k => (s.core k).stub) then some (s.stopInst i (.ending 1))
    else if (s.lateStops x).isEmpty then none else some (s.haltCores (s.lateStops x))

/-- `KILL_INSTANCE` (R255). -/
def execKillInstance (inst : Nat) (s : State) : Res := orSame s (s.tryKill inst)

/-! ### Freezes, leaks and retirement -/

/-- The end of a freeze. -/
def Core.thaw (c : Core) : Core := { c with freeze := 0, frozen := false }

/-- `FREEZE_END` when it is enabled: the periods of the group's freeze are over (R140). -/
def State.tryFreezeEnd (s : State) (k : Nat) : Option State :=
  if (s.core k).freeze = 1 then some ((s.groupOf k).foldl (fun s j => s.onCore j Core.thaw) (s.onCore k Core.thaw))
  else none

/-- `FREEZE_END` (R140). -/
def execFreezeEnd (core : Nat) (s : State) : Res := orSame s (s.tryFreezeEnd core)

/-- `LEAKY_BUCKET_LEAK` when it is enabled: every LEAKPER global cycles (R265). A counter at half its mark or less may
raise its event again. -/
def State.tryLeak (s : State) : Option State :=
  if s.leakper != 0 && s.glob % s.leakper.toNat = 0 && s.glob != s.leakAt then
    let low : Sparse Nat := (s.buckets.map (fun e => (e.1, e.2 - 1))).filter (fun e => e.2 != 0)
    let s1 : State := { s with leakAt := s.glob, buckets := low }
    some s1.rearm
  else none

/-- `LEAKY_BUCKET_LEAK` (R265). -/
def execLeakyBucketLeak (s : State) : Res := orSame s s.tryLeak

/-- The cores of a unit code (R266, R288); an HBM bank has no code there. -/
def unitOk (code : Nat) : Bool :=
  let cls := code / 2 ^ 28
  let phys := code / 2 ^ 16 % 2 ^ 12
  let sub := code % 2 ^ 16
  realCore phys && (match cls with
    | 0 => sub < 16 && !cmdCore phys
    | 1 => sub < 16 && !cmdCore phys
    | 2 => sub == 0 && phys % 16 == 0
    | 3 => sub == 0 && !cmdCore phys
    | _ => false)

/-- Whether instances hold every core of a unit (R266): a unit of some free cores is retired at once, and its other cores once
they are free. -/
def State.unitHeld (s : State) (code : Nat) : Bool := ((List.range 4096).filter (unitCovers code)).all s.isHeld

/-- Whether firmware has a reason to retire a unit: the host handed its code, or a predictive event named it. -/
def State.unitDue (s : State) (code : Nat) : Bool := s.owes.contains code || s.failing.contains code

/-- `UNIT_RETIRE` when it is enabled (R266, R267): a unit whose cores instances hold is retired once one of them lets go. -/
def State.tryRetire (s : State) (code : BitVec 32) : Option State :=
  let n := code.toNat
  if !unitOk n || !s.unitDue n then none
  else if s.unitHeld n then (if s.owes.contains n then none else some { s with owes := s.owes ++ [n] })
  else
    let s1 : State := { s with
      owes := s.owes.filter (· != n), failing := s.failing.filter (· != n)
      retired := if s.retired.contains code then s.retired else s.retired ++ [code] }
    some (s1.replCheck s)

/-- `UNIT_RETIRE` (R266). -/
def execUnitRetire (code : BitVec 32) (s : State) : Res := orSame s (s.tryRetire code)

/-! ### Error injection (R263) -/

/-- The word that an `ERRINJ` value names, as an error mark names it, and the bit within it. -/
def injWord (v : Nat) : Nat × Nat × Nat :=
  let idx := bitsOf v 55 44
  let bit := bitsOf v 43 35
  match bitsOf v 60 58 with
  | 0 => (0, idx * 8 + bit / 64, bit % 64)
  | 1 => (1, bitsOf v 57 56 * 4096 + idx, bit)
  | 2 => (2, idx * 8 + bit / 64, bit % 64)
  | 3 => (3, idx * 8 + bit / 64, bit % 64)
  | _ => (4, idx, bit)

/-- Flips the data bit of a word of a core. -/
def State.flipBit (s : State) (k : Nat) (kind idx bit : Nat) : State :=
  match kind with
  | 0 =>
    let a := scrKey k (8 * idx + bit / 8)
    { s with mem := wrByte s.mem a (rdByte s.mem a ^^^ BitVec.ofNat 8 (2 ^ (bit % 8))) }
  | 1 => s.onCore k (fun c => { c with acc := Sparse.set 0 c.acc idx (Sparse.get 0 c.acc idx ^^^ BitVec.ofNat 48 (2 ^ bit)) })
  | 2 => s.onCore k (fun c => { c with
      x := Sparse.set 0 c.x (idx / 8) (Sparse.get 0 c.x (idx / 8) ^^^ BitVec.ofNat 512 (2 ^ (idx % 8 * 64 + bit))) })
  | 3 => s.onCore k (fun c => { c with
      y := Sparse.set 0 c.y (idx / 8) (Sparse.get 0 c.y (idx / 8) ^^^ BitVec.ofNat 512 (2 ^ (idx % 8 * 64 + bit))) })
  | _ => s.onCore k (fun c => { c with z := Sparse.set 0 c.z idx (Sparse.get 0 c.z idx ^^^ BitVec.ofNat 32 (2 ^ bit)) })

/-- `ERRINJ_FLIP` when it is enabled: ARM is set and the task cycle matches. MODE 0 leaves fresh check bits; a stored bit that
flips in a word that already holds an error makes it uncorrectable. -/
def State.tryInject (s : State) (k : Nat) : Option State :=
  let c := s.core k
  let v := c.crv 0x04E
  if c.run && bitOf v 63 && c.cyc % 2 ^ 24 = v % 2 ^ 24 then
    let w := injWord v
    let s1 := s.putCr k 0x04E (v - 2 ^ 63)
    match bitsOf v 62 61 with
    | 0 => some ((s1.clearErr w.1 k [w.2.1]).flipBit k w.1 w.2.1 w.2.2)
    | m =>
      let bad := m = 2 || (s.errOf w.1 k [w.2.1]).isSome
      some { s1.clearErr w.1 k [w.2.1] with errs := (s1.clearErr w.1 k [w.2.1]).errs ++ [⟨w.1, k, w.2.1, bad⟩] }
  else none

/-- `ERRINJ_FLIP` (R263). -/
def execErrinjFlip (core : Nat) (s : State) : Res := orSame s (s.tryInject core)

/-! ### TLB invalidation (R173) -/

/-- Whether a running stack program accesses a page of an ASID through the base that it translated at its launch: `hit` takes
the virtual address of the base and the log2 size of its page. -/
def State.laneUses (s : State) (asid : Nat → Bool) (hit : Nat → Nat → Bool) : Bool :=
  s.lanes.any (fun e => e.2.phase != .idle && asid e.2.asid &&
    (e.2.bva.zip e.2.len).any (fun b => b.2 != 0 && hit b.1.1 b.1.2))

/-- Whether an access that used an entry which `TLBINV` names may still have to perform: a stack program's through its bases,
or one at a peer (R173). -/
def State.invBusy (s : State) : Bool :=
  let asid := s.tlbinv.toNat % 2 ^ 14
  let kind := bitsOf s.tlbinv.toNat 62 61
  let of (a : Nat) : Bool := kind == 0 || a == asid
  s.laneUses of (fun va log2 => kind != 2 || va / 2 ^ log2 == s.tlbiva.toNat / 2 ^ log2) ||
  s.fab.any (fun f => f.reply.isNone && of f.who.asid)

/-- `TLB_INVALIDATION_COMPLETE` when GO is set and no access is left that used a removed entry: GO clears. -/
def State.tryTlbInv (s : State) : Option State :=
  if bitOf s.tlbinv.toNat 63 && !s.invBusy then
    some { s.invalidate with tlbinv := BitVec.ofNat 64 (s.tlbinv.toNat % 2 ^ 63) }
  else none

/-- `TLB_INVALIDATION_COMPLETE` (R173). -/
def execTlbInvalidationComplete (s : State) : Res := orSame s s.tryTlbInv

/-! ### WAIT.VAL (R430) -/

/-- `WAIT_VAL_READ` when it is enabled: the wait unit's next read, at most one per task cycle. -/
def State.tryWaitVal (s : State) (k : Nat) : Option State :=
  let c := s.core k
  match c.stall with
  | some (.val addr v eight cc false last) =>
    if c.run && c.flt.isNone && !c.frozen && !c.stopped && last ≤ c.cyc then
      let n := if eight then 8 else 4
      match opndOf k addr with
      | none => none
      | some o =>
        match s.engRead (s.who k) false o n with
        | (.ok bs, s1) =>
          let hit := condHolds (8 * n) cc (leNat bs) (v.toNat % 2 ^ (8 * n))
          some ((s1.quit (s.who k)).onCore k (fun c => { c with stall := some (.val addr v eight cc hit (c.cyc + 1)) }))
        | (.err cause d, s1) =>
          some (((s1.quit (s.who k)).onCore k (fun c => c.detect 0 false cause (accSub cause d) d c.baddr 0 false)).stamp k)
        | (.wait, s1) => s.waited s1
    else none
  | _ => none

/-- `WAIT_VAL_READ` (R430). -/
def execWaitValRead (core : Nat) (s : State) : Res := orSame s (s.tryWaitVal core)

end Sys2Proof.Machine
end

