-- ==== Sys2Proof/Machine/Expander.lean ====
section
/-! DEFINITION. The expander of the base dies: the formats Q3, Q4 and EC4 (spec/10_stack.md R241), for `CPY.X`
(spec/05 R136, spec/14 R332) and for the stack word `KEXP` (spec/14 R355). -/

namespace Sys2Proof.Machine

/-- The expander's source: a read of bytes at an offset from its start; and those bytes as they stand, by which a chunk is
judged as a whole though a command needs only some of its blocks (R241). -/
structure Src where
  rd : Nat → Nat → State → Acc (List Byte) × State
  peek : Nat → Nat → State → List Byte

/-- The values of a Q3 or Q4 block of codes of `w` bits, or nothing where the block breaks R241. -/
def expBlock (w : Nat) (bs : List Byte) : Option (List Fp) :=
  let scale := bf16.decode (leNat (bs.take 2))
  let zp := leNat ((bs.drop 2).take 1)
  let codes := leNat (bs.drop 4)
  let sound : Bool := match scale with
    | .fin _ _ _ => true
    | _ => false
  if !sound || 2 ^ w ≤ zp || leNat ((bs.drop 3).take 1) != 0 then none
  else some ((List.range 64).map (fun i => (Fp.int (Int.ofNat (lane w codes i) - Int.ofNat zp)).mul scale))

/-- The canonical code of each used symbol, by length and then by value: (length, code, symbol) (R241). -/
def ecCodes (lens : List Nat) : Nat → Nat → Nat → List (Nat × Nat × Nat)
  | 0, _, _ => []
  | n + 1, len, code =>
    let syms := (List.range 16).filter (fun s => lens.getD s 0 == len)
    let here := syms.zipIdx.map (fun e => (len, code + e.2, e.1))
    here ++ ecCodes lens n (len + 1) (2 * (code + syms.length))

/-- The Kraft inequality over the used symbols. -/
def kraft (lens : List Nat) : Bool :=
  decide ((lens.map (fun l => if l = 0 then 0 else 2 ^ (15 - l))).sum ≤ 2 ^ 15)

/-- Symbols decoded from stream bits, each with the number of bits up to its end, until `need` symbols stand, a pattern
matches no code, or the stream ends. -/
def ecRun (tab : List (Nat × Nat × Nat)) : List Bool → Nat → Nat → Nat → Nat → List (Nat × Nat)
  | _, _, _, _, 0 => []
  | [], _, _, _, _ + 1 => []
  | b :: bs, pos, len, code, need + 1 =>
    let c := 2 * code + b.toNat
    match tab.find? (fun e => e.1 == len + 1 && e.2.1 == c) with
    | some e => (e.2.2, pos + 1) :: ecRun tab bs (pos + 1) 0 0 need
    | none => if 15 ≤ len + 1 then [] else ecRun tab bs (pos + 1) (len + 1) c (need + 1)

/-- The bits of a byte list, bit 0 of each byte first. -/
def bitList (bs : List Byte) : List Bool := bs.flatMap (fun b => (List.range 8).map (fun i => bitOf b.toNat i))

/-- An EC4 chunk decoded: its symbols with the bits up to the end of each, as far as the stream can be decoded. -/
def ecSyms (chunk : List Byte) : List (Nat × Nat) :=
  ecRun (ecCodes (lanesN 4 16 (leNat (chunk.take 8))) 15 1 0) (bitList (chunk.drop 10)) 0 0 0
    (72 * leNat ((chunk.drop 8).take 2))

/-- Whether an EC4 chunk is sound: its lengths obey the Kraft inequality, and its stream holds the symbols of all its blocks. -/
def ecSound (chunk : List Byte) : Bool :=
  kraft (lanesN 4 16 (leNat (chunk.take 8))) && (ecSyms chunk).length == 72 * leNat ((chunk.drop 8).take 2)

/-- Block `k` of an EC4 chunk as Q4 bytes. -/
def ecBlock (chunk : List Byte) (k : Nat) : Option (List Byte) :=
  if ecSound chunk then some (leBytes 36 (packN 4 ((((ecSyms chunk).drop (72 * k)).take 72).map (·.1)))) else none

/-- The stream bytes of an EC4 chunk up to the end of block `k`: those that its decoding reads. -/
def ecBytes (chunk : List Byte) (k : Nat) : Nat :=
  match (ecSyms chunk)[72 * (k + 1) - 1]? with
  | some e => (e.2 + 7) / 8
  | none => 4086

/-- The chunk that holds block `k`, counted from chunk `c` on: each chunk says how many blocks it holds. A count of 0 or
above 454 is no count (R241). -/
def ecFind (rd : Src) : Nat → Nat → Nat → State → Acc (Nat × Nat) × State
  | 0, _, _, s => (.err 0x22 0, s)
  | fuel + 1, c, k, s =>
    Acc.bind (rd.rd (4096 * c) 10 s) fun bs s1 =>
      let n := leNat (bs.drop 8)
      if n = 0 || 454 < n then (.err 0x22 0, s1)
      else if k < n then (.ok (c, k), s1)
      else ecFind rd fuel (c + 1) (k - n) s1

/-- Block `k` of a stream in a format: 0 Q3, 1 Q4, 2 EC4. Only the bytes that the block needs are read (R332, R355). -/
def expand (rd : Src) (fmt k : Nat) (s : State) : Acc (List Fp) × State :=
  let take (w : Nat) (b : Option (List Byte)) (s : State) : Acc (List Fp) × State :=
    match b.bind (expBlock w) with
    | some v => (.ok v, s)
    | none => (.err 0x22 0, s)
  match fmt with
  | 0 => Acc.bind (rd.rd (28 * k) 28 s) fun bs s1 => take 3 (some bs) s1
  | 1 => Acc.bind (rd.rd (36 * k) 36 s) fun bs s1 => take 4 (some bs) s1
  | _ =>
    Acc.bind (ecFind rd (k + 1) 0 k s) fun at' s1 =>
      let chunk := rd.peek (4096 * at'.1) 4096 s1
      Acc.bind (rd.rd (4096 * at'.1 + 10) (ecBytes chunk at'.2) s1) fun _ s2 => take 4 (ecBlock chunk at'.2) s2

/-- The bytes of some values: INT8, or BF16. -/
def expBytes (b16 : Bool) (vs : List Fp) : List Byte :=
  if b16 then vs.flatMap (fun v => leBytes 2 (bf16.narrow false false v))
  else vs.flatMap (fun v => leBytes 1 (v.toInt 8 false false))

/-- The 64-byte output row `k`: one block in INT8, half a block in BF16 (R332). -/
def expandRow (rd : Src) (fmt : Nat) (b16 : Bool) (k : Nat) (s : State) : Acc (List Byte) × State :=
  Acc.bind (expand rd fmt (if b16 then k / 2 else k) s) fun vs s1 =>
    (.ok (expBytes b16 (if b16 then (vs.drop (32 * (k % 2))).take 32 else vs)), s1)

end Sys2Proof.Machine
end

