-- ==== Sys2Proof/Machine/Engine.lean ====
section
/-! DEFINITION. Copy channels at work (spec/05_scratchpad.md R133 to R137): the checks of the start cycle, the delivery of
rows in order, atomics (R139, spec/14 R319, R320), signals (spec/15 R386), fences (spec/06_ordering.md R156) and the end of a
command. What a command must wait for stands in one place (R150, R154 to R156). -/

namespace Sys2Proof.Machine

/-! ### What a command must wait for -/

/-- An acquiring `ATOM` or a fence that a core issued before a command and that has not performed holds its accesses
(R155, R156). -/
def Core.heldBack (c : Core) (m : Cmd) : Bool :=
  c.held.any (fun x => decide (x.iss < m.iss) && (x.kind.isFence || x.acq))

/-- Engine work of a core outside its channels that it issued before a cycle: collectives and lane programs. -/
def State.offWork (s : State) (k iss : Nat) : Bool :=
  s.dies.any (fun d => d.2.coll.any (fun q => q.2.any (fun x =>
    x.core == some k && x.inst == (s.core k).inst && decide (x.iss < iss)))) ||
  s.lanes.any (fun l => l.2.phase != .idle && l.2.core == k && l.2.inst == (s.core k).inst && decide (l.2.iss < iss))

/-- Whether everything that a core issued before a command has performed: the condition of a release and of a fence's
completion (R154, R156). -/
def State.allBefore (s : State) (k : Nat) (m : Cmd) : Bool :=
  !(s.core k).held.any (fun x => decide (x.iss < m.iss)) && !s.offWork k m.iss

/-- The VA range at a register's operand address. -/
def vaAt (self : Nat) (v : W64) (n : Nat) : List (Nat × Nat) :=
  match opndOf self v with
  | some (.va a) => [(a, n)]
  | _ => []

/-- The VA of a mapped quarter. -/
def Core.vaOf (c : Core) (q : Nat) : Nat :=
  match c.mapOf q with
  | some m => m.2.va.toNat + 4096 * (q - m.2.q)
  | none => 0

/-- VA ranges that a command writes. -/
def Core.vaWrites (c : Core) (m : Cmd) : List (Nat × Nat) :=
  match m.kind with
  | .cpy dst _ n _ => vaAt c.id dst (64 * n)
  | .cpy2 dst _ dim lines _ => vaAt c.id dst (span2 lines (bitsOf dim.toNat 15 0) (bitsOf dim.toNat 63 40))
  | .cpyl dst _ p n => vaAt c.id dst (64 * p.toNat * n)
  | .atom a _ _ _ _ _ _ => vaAt c.id a 8
  | .sig a _ _ _ => vaAt c.id a 8
  | .wbk q n => (List.range n).map (fun i => (c.vaOf (q + i), 4096))
  | .ssel out _ _ => vaAt c.id out 4624
  | .pgft _ rb rc _ _ => vaAt c.id rb 128 ++ vaAt c.id rc 8
  | .pmov _ _ rc => vaAt c.id rc 8
  | .pgap d _ => vaAt c.id d 128
  | _ => []

/-- VA ranges that a command reads. -/
def Core.vaReads (c : Core) (m : Cmd) : List (Nat × Nat) :=
  match m.kind with
  | .cpy _ src n x => vaAt c.id src (match x with
    | some v => xLen v (xBlocks v n)
    | none => 64 * n)
  | .cpy2 _ src dim lines _ => vaAt c.id src (span2 lines (bitsOf dim.toNat 15 0) (bitsOf dim.toNat 39 16))
  | .cpyl _ l p n => vaAt c.id l (8 * n) ++ (match m.ent with
    | some e => vaAt c.id e.2 (64 * p.toNat)
    | none => [])
  | .atom a _ _ _ _ _ _ => vaAt c.id a 8
  | .sig a _ _ _ => vaAt c.id a 8
  | .preq q n => (List.range n).map (fun i => (c.vaOf (q + i), 4096))
  | .ssel _ qb _ => vaAt c.id qb 64
  | .pgft ra rb _ _ _ => vaAt c.id ra 4624 ++ vaAt c.id rb 128
  | .sset _ img => vaAt c.id img 64
  | .sins b => vaAt c.id b 64
  | .coll b => vaAt c.id b 48
  | .plan b => vaAt c.id b 32
  | .cstk d _ _ => vaAt c.id d 128
  | .pgap d _ => vaAt c.id d 128
  | _ => []

/-- Whether two ranges meet. -/
def meet (a b : Nat × Nat) : Bool := decide (a.1 < b.1 + b.2) && decide (b.1 < a.1 + a.2)

/-- Commands that read at addresses which a block names: those, and the blocks of `CSTK` and `COLL`. -/
def CmdKind.indirect (k : CmdKind) : Bool :=
  k.tabled || (match k with
    | .cstk _ _ _ => true
    | .coll _ => true
    | _ => false)

/-- Whether a command writes memory at a virtual address before its engine's end: a copy, an atomic, a signal, a write-back. -/
def Core.storesVA (c : Core) (m : Cmd) : Bool := m.kind.tabled || (m.kind.rows && !(c.vaWrites m).isEmpty)

/-- The quarters that a command reads or writes now: those it names, and those of its present list entry. -/
def Core.touches (c : Core) (m : Cmd) : List Nat :=
  m.names c.id ++ (match m.kind, m.ent with
    | .cpyl _ _ p _, some e => qAt c.id e.2 (64 * p.toNat)
    | _, _ => [])

/-- Commands whose block or descriptor, read when they are handed on, says what they write. -/
def CmdKind.unread (k : CmdKind) : Bool :=
  match k with
  | .cstk _ _ _ => true
  | .coll _ => true
  | .pgft _ _ _ _ _ => true
  | _ => false

/-- The commands of a channel accepted before one. -/
def Core.before (c : Core) (ch : Bool) (uid : Nat) : List Cmd := (c.chan ch).cmds.takeWhile (fun x => x.uid != uid)

/-- Whether an earlier-accepted command of a channel writes some quarters or virtual addresses that a later one reads; `all`
says that the later one reads where a block or a table leads (R150). -/
def Core.behind (c : Core) (ch : Bool) (uid : Nat) (qs : List Nat) (vas : List (Nat × Nat)) (all : Bool) : Bool :=
  (c.before ch uid).any (fun x =>
    (x.kind.unread && x.phase != .handed) || (x.names c.id).any (fun q => qs.contains q) || (c.vaWrites x).any (fun a => vas.any (meet a)) ||
    (all && c.storesVA x) || (x.kind.tabled && (all || !vas.isEmpty)))

/-- A read of a command waits for what an earlier-accepted command of its channel writes there (R150). -/
def Core.hazard (c : Core) (ch : Bool) (m : Cmd) : Bool := c.behind ch m.uid (c.touches m) (c.vaReads m) m.kind.indirect

/-- The operand of a register, `n` bytes further on. -/
def opndAt (self : Nat) (v : W64) (n : Nat) : Option Opnd := (opndOf self v).map (·.plus n)

/-- A read at an operand that may be no operand. -/
def State.rdMaybe (s : State) (w : Who) (own : Bool) (o : Option Opnd) (n : Nat) : Acc (List Byte) × State :=
  match o with
  | none => (.err 0x12 0, s)
  | some o => s.rdOp w own o n

/-- Whether a word of a lane's program writes a base (R353 to R355). -/
def kStores (b : Nat) (w : W64) : Bool :=
  match (decodeK w.toNat).toOption with
  | some (.kwr _ r _) => r.base.toNat == b
  | some (.kexp _ _ _ _ db) => db.toNat == b
  | some (.kacr _ base win _) => !win && base.toNat == b
  | _ => false

/-- A row on its way from a lane to HBM. -/
def KEff.stores (e : KEff) : Bool :=
  match e with
  | .rdOut _ _ => true
  | .hbm _ _ => true
  | _ => false

/-- Whether the program of a lane still writes a base. -/
def Lane.stores (l : Lane) (b : Nat) : Bool :=
  l.pend.any (fun p => p.eff.stores) || (List.range 256).any (fun i => decide (l.idx ≤ i) && kStores b (Sparse.get 0 l.prog i))

/-- What a lane's program writes: the quarters of its window and of its status word, and virtual addresses. -/
def Lane.outs (l : Lane) : List Nat × List (Nat × Nat) :=
  (l.quarters ++ qAt l.core l.status 8,
    vaAt l.core l.status 8 ++ ((List.range 4).filter (fun b => l.len.getD b 0 != 0 && l.stores b)).map (fun b =>
      ((l.bva.getD b (0, 0)).1, l.len.getD b 0)))

/-- What a collective writes for its rank: quarters and virtual addresses. -/
def Coll.outs (x : Coll) : List Nat × List (Nat × Nat) :=
  let k := x.core.getD 0xFFFF
  let n := collSz x.outfmt * x.recvN
  (qAt k x.recv n ++ qAt k x.status 8, vaAt k x.recv n ++ vaAt k x.status 8)

/-- What the collectives and lane programs still write that a channel of a core handed on before a cycle. -/
def State.engineOuts (s : State) (k : Nat) (ch : Bool) (iss : Nat) : List (List Nat × List (Nat × Nat)) :=
  s.dies.flatMap (fun d => d.2.coll.flatMap (fun q => (q.2.filter (fun x =>
    x.core == some k && x.inst == (s.core k).inst && x.slot == cNum ch && decide (x.iss < iss))).map Coll.outs)) ++
  (s.lanes.filter (fun l => l.2.phase != .idle && l.2.core == k && l.2.inst == (s.core k).inst && l.2.slot == cNum ch &&
    decide (l.2.iss < iss))).map (fun l => l.2.outs)

/-- Whether an earlier-accepted collective or lane program of a channel still writes some quarters or virtual addresses that a
later command reads, wherever that reads when `all` is set (R150). -/
def State.ahead (s : State) (k : Nat) (ch : Bool) (m : Cmd) (qs : List Nat) (vas : List (Nat × Nat)) (all : Bool) : Bool :=
  (s.engineOuts k ch m.iss).any (fun e => all || e.1.any (fun q => qs.contains q) || e.2.any (fun a => vas.any (meet a)))

/-- Bytes of memory as an engine would read them now, when it can. -/
def State.glimpse (s : State) (w : Who) (o : Option Opnd) (n : Nat) : Option (List Byte) :=
  match (s.rdMaybe w true o n).1 with
  | .ok bs => some bs
  | _ => none

/-- Whether some addresses meet the STATUS word of a page header that a `PGFT` may still write on a mismatch: those of its next
`n` pages, from list entry `i` or chain frame `f` on (R203). A page that cannot be found now may be any. -/
def State.headMeets (s : State) (w : Who) (x : Weevil) (vas : List (Nat × Nat)) : Nat → Nat → Nat → Bool
  | 0, _, _ => false
  | n + 1, i, f =>
    match if x.chain then some f else (s.glimpse w (opndAt w.core x.list (16 + 16 * i)) 4).map leNat with
    | none => true
    | some g =>
      if x.chain && g == 0xFFFFFFFF then false
      else if vas.any (meet (x.hdrt.toNat + 64 * g + 0x14, 4)) then true
      else if !x.chain then State.headMeets s w x vas n (i + 1) 0
      else match s.glimpse w (some (.va (x.hdrt.toNat + 64 * g))) 4 with
        | none => true
        | some h => State.headMeets s w x vas n (i + 1) (leNat h)

/-- Whether an earlier-accepted `PGFT` of a channel may still write a page header that a later command reads, any of its headers
when `all` is set (R150). -/
def State.headsAhead (s : State) (k : Nat) (ch : Bool) (uid : Nat) (vas : List (Nat × Nat)) (all : Bool) : Bool :=
  let c := s.core k
  (all || !vas.isEmpty) && (c.before ch uid).any (fun m => c.weevil.any (fun x => x.uid == m.uid &&
    (all || s.headMeets (s.who k) x vas (x.count - x.next) x.next x.frame)))

/-- Commands that read page headers. -/
def CmdKind.readsHeads (k : CmdKind) : Bool :=
  match k with
  | .pgap _ _ => true
  | _ => false

/-- Whether a command's accesses must wait. -/
def State.mustWait (s : State) (k : Nat) (ch : Bool) (m : Cmd) : Bool :=
  let c := s.core k
  c.heldBack m || c.hazard ch m || s.ahead k ch m (c.touches m) (c.vaReads m) m.kind.tabled ||
  s.headsAhead k ch m.uid (c.vaReads m) m.kind.readsHeads || (m.rel && !s.allBefore k m)

/-- Whether reads that a command's block names must wait for what earlier-accepted commands of its channel write there (R150). -/
def State.readsHeld (s : State) (k : Nat) (ch : Bool) (m : Cmd) (qs : List Nat) (vas : List (Nat × Nat)) : Bool :=
  (s.core k).behind ch m.uid qs vas false || s.ahead k ch m qs vas false || s.headsAhead k ch m.uid vas false

/-! ### Rows -/

/-- The expander's source at a virtual address: local HBM (R332). -/
def State.xRead (w : Who) (a : Nat) : Src where
  rd off n s :=
    match s.xlate w.die w.asid (a + off) false with
    | (.ok _ tier, s1) => if tier = 0 then s1.rdOp w false (.va (a + off)) n else (.err 0x12 (BitVec.ofNat 64 (a + off)), s1)
    | (.err c sub, s1) => (xlFault c false sub (a + off), s1)
    | (.wait, s1) => (.wait, s1)
  peek off n s :=
    match (s.xlate w.die w.asid (a + off) false).1 with
    | .ok key _ => rdBytes s.mem key n
    | _ => []

/-- Pieces of the lines of a transposed block that make one destination row: `n` lines, `len` bytes of each (R335). -/
def State.rdColumn (s : State) (w : Who) (src : W64) (ss off len : Nat) : Nat → Nat → Acc (List (List Byte)) × State
  | 0, _ => (.ok [], s)
  | n + 1, i =>
    Acc.bind (s.rdMaybe w true (opndAt w.core (lineAt src ss i) off) len) fun a s1 =>
      Acc.bind (State.rdColumn s1 w src ss off len n (i + 1)) fun b s2 => (.ok (a :: b), s2)

/-- Interleaves the elements of `e` bytes of some lines: element 0 of each line, then element 1 of each (R335). -/
def weave (e n : Nat) (ls : List (List Byte)) : List Byte :=
  (List.range n).flatMap (fun j => ls.flatMap (fun l => (l.drop (j * e)).take e))

/-- The list entry that the present row of a `CPYL` still needs: its number and its operand (R336). -/
def Cmd.needsEnt (self : Nat) (m : Cmd) : Option (Nat × Option Opnd) :=
  match m.kind with
  | .cpyl _ list p _ =>
    let i := m.done / p.toNat
    if m.ent.map (·.1) == some i then none else some (i, opndAt self list (8 * i))
  | _ => none

/-- The bytes of row `r` of a command; a `CPYL` has read the entry of the row's list once before its rows. -/
def State.rowRead (s : State) (w : Who) (m : Cmd) (r : Nat) : Acc (List Byte) × State :=
  let c := s.core w.core
  match m.kind with
  | .cpy _ src _ none => s.rdMaybe w true (opndAt w.core src (64 * r)) 64
  | .cpy _ src _ (some x) => expandRow (State.xRead w src.toNat) (x.toNat % 4) (bitOf x.toNat 2) r s
  | .cpy2 _ src dim lines tr =>
    let lr := bitsOf dim.toNat 15 0
    let ss := bitsOf dim.toNat 39 16
    if tr = 0 then s.rdMaybe w true (opndAt w.core (lineAt src ss (r / lr)) (64 * (r % lr))) 64
    else
      let len := 64 / lines
      Acc.bind (s.rdColumn w src ss (r * len) len lines 0) fun ls s1 => (.ok (weave tr (len / tr) ls), s1)
  | .cpyl _ _ p _ =>
    match m.ent.bind (fun e => opndOf w.core e.2) with
    | some o => if o.aligned 64 && !o.isIsc then s.rdOp w false (o.plus (64 * (r % p.toNat))) 64 else (.err 0x12 0, s)
    | none => (.err 0x12 0, s)
  | .preq q _ => s.rdOp w true (.va (c.vaOf (q + r / 64) + 64 * (r % 64))) 64
  | .wbk _ _ => s.rdOp w true (.scr w.core (4096 * (m.qset.getD (r / 64) 0) + 64 * (r % 64))) 64
  | _ => (.ok [], s)

/-- Where row `r` of a command goes. -/
def State.rowDst (s : State) (w : Who) (m : Cmd) (r : Nat) : Option Opnd :=
  match m.kind with
  | .cpy dst _ _ _ => opndAt w.core dst (64 * r)
  | .cpy2 dst _ dim _ tr =>
    let lr := bitsOf dim.toNat 15 0
    if tr = 0 then opndAt w.core (lineAt dst (bitsOf dim.toNat 63 40) (r / lr)) (64 * (r % lr))
    else opndAt w.core dst (64 * r)
  | .cpyl dst _ _ _ => opndAt w.core dst (64 * r)
  | .preq q _ => some (.scr w.core (4096 * q + 64 * r))
  | .wbk _ _ => some (.va ((s.core w.core).vaOf (m.qset.getD (r / 64) 0) + 64 * (r % 64)))
  | _ => none

/-- A row of a copy: read and written (R134). -/
def State.copyRow (s : State) (w : Who) (m : Cmd) (r : Nat) : Acc (List Byte) × State :=
  Acc.bind (s.rowRead w m r) fun bs s1 =>
    match s1.rowDst w m r with
    | none => (.err 0x12 0, s1)
    | some o => Acc.bind (s1.wrOp w true o bs) fun _ s2 => (.ok bs, s2)

/-! ### Atomics and signals (R139, R319, R386) -/

/-- One read-modify-write of `n` bytes at its home, in a step of its own; `f` takes the tier (0 local HBM, 1 peer, 2 host,
3 scratch) and the old value, and answers nothing where the space does not support it. At a peer's HBM it performs there (R162):
`req` asks for it. -/
def State.rmw (s : State) (w : Who) (o : Opnd) (n : Nat) (req : PeerReq) (f : Nat → Nat → Option Nat) : Acc Nat × State :=
  match o with
  | .va a =>
    match s.xlate w.die w.asid a true with
    | (.ok key tier, s1) =>
      let old := rdLE s1.mem key n
      if (f tier old).isNone then (.err 0x12 (BitVec.ofNat 64 a), s1)
      else if tier = 1 then
        Acc.bind (s1.peer w key req) fun bs s2 =>
          if bs.isEmpty then s2.hbmFault w a ((key - 2 ^ 70) % 2 ^ 46) else (.ok (leNat bs), s2)
      else if s1.fresh key n then (.wait, s1)
      else if tier = 0 && s1.hbmBad (key - 2 ^ 41) then s1.hbmFault w a (key - 2 ^ 41)
      else
        let s2 := if tier = 0 then s1.hbmCount (granules (key - 2 ^ 41) n) else s1
        (.ok old, s2.store key (leBytes n ((f tier old).getD 0)))
    | (.err c sub, s1) => (xlFault c true sub a, s1)
    | (.wait, s1) => (.wait, s1)
  | _ =>
    Acc.bind (s.engRead w true o n) fun bs s1 =>
      match f 3 (leNat bs) with
      | none => (.err 0x12 0, s1)
      | some v => Acc.bind (s1.engWrite w true o (leBytes n v)) fun _ s2 => (.ok (leNat bs), s2)

/-- The new value of an `ATOM` on `n`-bit values (R319). -/
def atomNew (n op : Nat) (u : Bool) (old val cmp : Nat) : Nat :=
  match op with
  | 0 => (old + val) % 2 ^ n
  | 1 => if rdInt n u val < rdInt n u old then val else old
  | 2 => if rdInt n u old < rdInt n u val then val else old
  | 3 => Nat.land old val
  | 4 => Nat.lor old val
  | 5 => val
  | _ => if old = cmp then val else old

/-- Host memory supports add, exchange and compare only (R139). -/
def atomOn (op tier : Nat) : Bool := tier != 2 || op == 0 || op == 5 || op == 6

/-- An `ATOM` at its home: the old value. -/
def State.atomGo (s : State) (w : Who) (addr val cmp : W64) (op : Nat) (u eight : Bool) : Acc Nat × State :=
  let n := if eight then 8 else 4
  match opndOf w.core addr with
  | none => (.err 0x12 0, s)
  | some o =>
    if !o.aligned n then (.err 0x12 addr, s)
    else s.rmw w o n (.atomic op u eight val cmp) (fun tier old =>
      if atomOn op tier then some (atomNew (8 * n) op u old (val.toNat % 2 ^ (8 * n)) (cmp.toNat % 2 ^ (8 * n))) else none)

/-- A `SIG` at its home. -/
def State.sigGo (s : State) (w : Who) (addr val : W64) (add eight : Bool) : Acc Nat × State :=
  let n := if eight then 8 else 4
  match opndOf w.core addr with
  | none => (.err 0x12 0, s)
  | some o =>
    if !o.aligned n then (.err 0x12 addr, s)
    else if add then s.rmw w o n (.atomic 0 true eight val 0) (fun _ old => some ((old + val.toNat) % 2 ^ (8 * n)))
    else Acc.bind (s.engWrite w true o (leBytes n (val.toNat % 2 ^ (8 * n)))) fun _ s1 => (.ok 0, s1)

/-! ### Delivery (R134 to R137) -/

/-- A row delivered: the count, the CRC, the write pointer (R134), and the residency of a filled quarter (R178). -/
def Core.rowDone (c : Core) (ch : Bool) (m : Cmd) (bs : List Byte) : Core :=
  let c1 := (c.onCmd ch m.uid (fun x => { x with done := m.done + 1, crc := crcRun m.crc bs })).onChan ch
    (fun q => { q with wp := (q.wp + 64) % 2 ^ 64 })
  match m.kind with
  | .preq q _ => if m.done % 64 = 63 then { c1 with mres := c1.mres ||| BitVec.ofNat 64 (2 ^ (q + m.done / 64)) } else c1
  | _ => c1

/-- A command stopped by a fault at a row (R137): it counts as completed. The channel keeps its first translation fault
(R175), and unwritten quarters of a `WBK` are dirty again (R431). A `POISON` fault that has become `WEIGHT_POISON` is not kept
there (log 46). -/
def State.stopCmd (s : State) (k : Nat) (ch : Bool) (m : Cmd) (cause : Nat) (d : W64) : State :=
  (s.cmdFault k ch m cause d).onCore k (fun c =>
    let t := if ch then 0x03D else 0x03C
    let c1 := if (cause = 0x20 || cause = 0x21) && c.crv t = 0 then c.setCr t d else c
    let c2 := match m.kind with
      | .wbk _ _ => { c1 with mdirty := c1.mdirty ||| BitVec.ofNat 64 (((m.qset.drop (m.done / 64)).map (2 ^ ·)).sum) }
      | _ => c1
    c2.onCmd ch m.uid (fun x => { x with n := m.done }))

/-- The command whose rows a channel delivers next: commands deliver in the order of acceptance (R134). -/
def Chan.delivering (q : Chan) : Option Cmd := (q.cmds.filter (fun m => m.kind.rows)).head?

/-- The next row of a command, with the bytes that enter the CRC. -/
def State.oneRow (s : State) (w : Who) (ch : Bool) (m : Cmd) : Acc (List Byte) × State :=
  match m.kind with
  | .atom a v x gd op u eight =>
    Acc.bind (s.atomGo w a v x op u eight) fun old s1 =>
      let n : Nat := if eight then 64 else 32
      (.ok [], s1.regGo w.core (if ch then .h else .g) gd (BitVec.ofInt 64 (rdInt n (u || eight) old)))
  | .sig a v add eight => Acc.bind (s.sigGo w a v add eight) fun _ s1 => (.ok [], s1)
  | _ => s.copyRow w m m.done

/-- Reads the list entry of a `CPYL` for its next rows (R336). -/
def State.loadEnt (s : State) (w : Who) (ch : Bool) (m : Cmd) (i : Nat) (o : Option Opnd) : Option State :=
  match s.rdMaybe w true o 8 with
  | (.ok bs, s1) => some ((s1.quit w).onCore w.core (fun c => c.onCmd ch m.uid (fun x =>
      { x with ent := some (i, BitVec.ofNat 64 (leNat bs)) })))
  | (.err cause d, s1) => some ((s1.quit w).stopCmd w.core ch m cause d)
  | (.wait, s1) => s.waited s1

/-- Whether a channel may deliver its next row: request `done` was issued on T + done or earlier and nothing holds its
accesses. -/
def State.rowOpen (s : State) (k : Nat) (ch : Bool) (m : Cmd) : Bool :=
  let c := s.core k
  m.phase == .running && decide (m.done < m.n) && decide (m.start + m.done ≤ c.cyc) && c.run && !c.frozen && !c.stopped &&
  !s.mustWait k ch m

/-- `ROW_DELIVERED` when it is enabled. Before the first row of an entry of a `CPYL` the entry is read. -/
def State.tryRow (s : State) (k : Nat) (ch : Bool) : Option State :=
  match ((s.core k).chan ch).delivering with
  | none => none
  | some m =>
    let w := s.whoOf k ch m
    if !s.rowOpen k ch m then none
    else
      match m.needsEnt k with
      | some e => s.loadEnt w ch m e.1 e.2
      | none =>
        match s.oneRow w ch m with
        | (.ok bs, s1) => some ((s1.quit w).onCore k (fun c => c.rowDone ch m bs))
        | (.err cause d, s1) => some ((s1.quit w).stopCmd k ch m cause d)
        | (.wait, s1) => s.waited s1

/-- `ROW_DELIVERED` (R134). -/
def execRowDelivered (core : Nat) (ch : Bool) (s : State) : Res := orSame s (s.tryRow core ch)

/-- Whether a channel command has completed: all its rows are delivered, or the fence's condition holds (R135, R347). A `WBK` with an
empty set issues no request, and waits for no command before it (R431). -/
def State.cmdDone (s : State) (k : Nat) (ch : Bool) (m : Cmd) : Bool :=
  m.phase == .running &&
  ((m.kind.rows && m.n ≤ m.done && (m.n == 0 || ((s.core k).chan ch).delivering.map (·.uid) == some m.uid)) ||
   (m.kind.isFence && s.allBefore k m))

/-- `COPY_COMMAND_COMPLETE` when it is enabled. -/
def State.tryComplete (s : State) (k : Nat) (ch : Bool) : Option State :=
  match ((s.core k).chan ch).cmds.find? (s.cmdDone k ch) with
  | some m => if (s.core k).run then some (s.endCmd k ch m) else none
  | none => none

/-- `COPY_COMMAND_COMPLETE` (R135). -/
def execCopyCommandComplete (core : Nat) (ch : Bool) (s : State) : Res := orSame s (s.tryComplete core ch)

/-! ### Reports (R151) -/

/-- Writes a report at an operand address. -/
def State.statusAt (s : State) (w : Who) (v : W64) (bs : List Byte) : Acc Unit × State :=
  match opndOf w.core v with
  | some o => s.wrOp w true o bs
  | none => (.err 0x12 0, s)

/-- A report, the last write of its command (R151). Where it must wait, as for the answer of a peer, what the command has written
stands first, and the report is due. -/
def State.lastWrite (s : State) (r : Report) : Acc Bool × State :=
  match s.statusAt r.who r.addr r.word with
  | (.ok _, s1) => (.ok true, s1)
  | (.err c d, s1) => (.err c d, s1)
  | (.wait, s1) => if s.reports.contains r then (.wait, s1) else (.ok false, { s with reports := s.reports ++ [r] })

/-- A report with a status word, then the end of its command: with the fault that it has met, else with that of the report. -/
def State.reportEnd (s : State) (r : Report) (close : State → Option (Nat × W64) → State) : Acc Unit × State :=
  match s.lastWrite r with
  | (.ok done, s1) => (.ok (), if done then close s1 r.fault else s1)
  | (.err c d, s1) => (.ok (), close s1 (some (r.fault.getD (c, d))))
  | (.wait, s1) => (.wait, s1)

end Sys2Proof.Machine
end

