-- ==== Sys2Proof/Machine/Scarab.lean ====
section
/-! DEFINITION. The Scarab complexes (spec/08_scarab.md R185 to R200, R444; spec/15 R373, R382, R383, R387 to R391): set
entries, signature rows in arrays and in overflow, set order, the selection and the maintenance operations. -/

namespace Sys2Proof.Machine

/-- Continues after a write phase that performs whole or not at all: a fault leaves only what translation changed and what it
asked of hosts and peers. -/
def State.allOrNone {α : Type} (s : State) (r : Acc α × State) : Acc α × State :=
  match r.1 with
  | .err c d => (.err c d, s.undone r.2)
  | a => (a, r.2)

/-! ### Set entries (R189) -/

/-- A set entry. -/
structure SetEnt where
  care : Nat
  w : Nat
  sink : Nat
  recent : Nat
  kmax : Nat
  home : Nat
  valid : Bool
  poison : Bool
  cap : Nat
  ovf : Nat
deriving DecidableEq, Repr

/-- The entry in 64 bytes. -/
def SetEnt.ofBytes (b : List Byte) : SetEnt :=
  ⟨fieldAt b 0 32, fieldAt b 0x20 2, fieldAt b 0x22 1, fieldAt b 0x23 1, fieldAt b 0x24 2, fieldAt b 0x26 1 % 4,
    bitOf (fieldAt b 0x27 1) 0, bitOf (fieldAt b 0x27 1) 1, fieldAt b 0x2C 4, fieldAt b 0x30 8⟩

/-- CARE within the signature's width. -/
def SetEnt.mask (e : SetEnt) : Nat := e.care % 2 ^ e.w

/-- The physical address of a set's entry. -/
def State.setAt (s : State) (set : Nat) : Nat := s.setbase.toNat % 2 ^ 46 / 2 ^ 30 * 2 ^ 30 + 64 * set

/-- A set's entry as it stands in local HBM. -/
def State.setNow (s : State) (set : Nat) : SetEnt := SetEnt.ofBytes (rdBytes s.mem (hbmKey (s.setAt set)) 64)

/-- Reads a set's entry for an agent of a die: the set table lies in HBM, which the die may not reach (R14, log 14). An entry
written on this global cycle is read on the next (R143). -/
def State.setEnt (s : State) (die set : Nat) : Acc SetEnt × State :=
  if !s.reaches die (hbmDie (s.setAt set)) then (.err 0x12 0, s)
  else if s.fresh (hbmKey (s.setAt set)) 64 then (.wait, s)
  else if s.hbmBad (s.setAt set) || s.hbmBad (s.setAt set + 32) then (.err 0x18 0, s)
  else (.ok (s.setNow set), s.meets [s.setAt set, s.setAt set + 32])

/-- Writes bytes of a set's entry. -/
def State.putSet (s : State) (set off : Nat) (bs : List Byte) : State := s.store (hbmKey (s.setAt set + off)) bs

/-- Writes the FLAGS byte of an entry. -/
def State.putFlags (s : State) (set : Nat) (valid poison : Bool) : State :=
  s.putSet set 0x27 (leBytes 1 (valid.toNat + 2 * poison.toNat))

/-! ### Rows and their homes (R190, R196, R444) -/

/-- A row with its home: an array of the die, or a slot of the overflow region. -/
structure HRow where
  slot : Option Nat
  row : SRow
deriving DecidableEq, Repr

/-- The 48 bytes of a valid row. -/
def SRow.bytes (r : SRow) : List Byte :=
  leBytes 32 r.sig.toNat ++ leBytes 3 r.set ++ leBytes 3 r.lpage ++ leBytes 4 r.frame ++ leBytes 1 r.age ++
  leBytes 1 1 ++ leBytes 4 0

/-- The row in 48 bytes, where its valid flag is set. -/
def SRow.ofBytes (b : List Byte) : Option SRow :=
  if bitOf (fieldAt b 43 1) 0 then
    some ⟨fieldAt b 32 3, fieldAt b 35 3, fieldAt b 38 4, fieldAt b 42 1, BitVec.ofNat 256 (fieldAt b 0 32)⟩
  else none

/-- Rows that the arrays of a die hold (R12). -/
def arrayRows : Nat := 64 * 8192

/-- Overflow slots in use by a set, on its home die. -/
def State.slotsOf (s : State) (die set : Nat) : List Nat := ((s.die die).ovf.filter (fun e => e.1 == set)).map (·.2)

/-- Rows of a set in both homes. -/
def State.rowCount (s : State) (die set : Nat) : Nat :=
  ((s.die die).rows.filter (fun r => r.set == set)).length + (s.slotsOf die set).length

/-- Brings ROWS of an entry up to date. -/
def State.recount (s : State) (die set : Nat) : State := s.putSet set 0x28 (leBytes 4 (s.rowCount die set))

/-- Frees an overflow slot. -/
def State.dropSlot (s : State) (die set n : Nat) : State :=
  s.onDie die (fun d => { d with ovf := d.ovf.filter (fun e => e != (set, n)) })

/-- Rows of the arrays that hold an uncorrectable error leave with POISON set (R197). -/
def State.sweepArrays (s : State) (die set : Nat) : State :=
  let bad (r : SRow) : Bool :=
    r.set == set && s.errs.any (fun e => e.kind == 7 && e.unit == die && e.idx == set * 2 ^ 24 + r.lpage && e.bad)
  if (s.die die).rows.any bad then
    (({ s with errs := s.errs.filter (fun e => !(e.kind == 7 && e.unit == die && e.idx / 2 ^ 24 == set && e.bad)) }.onDie die
      (fun d => { d with rows := d.rows.filter (fun r => !bad r) })).putFlags set (s.setNow set).valid true).recount die set
  else s

/-- Whether a fault of reading an overflow slot is an uncorrectable error of its row. Such an error poisons the page, so in a
set that has POISON a poisoned page tells of one too. -/
def rowLost (poison : Bool) (c : Nat) (d : W64) : Bool :=
  c == 0x18 || c == 0x25 || (poison && c == 0x20 && accSub c d == 5)

/-- Reads the rows of overflow slots; an uncorrectable one leaves with POISON set, and its slot keeps the bytes and the error that
memory holds, for R444 leaves them unspecified (log 8). -/
def State.readSlots (w : Who) (e : SetEnt) (set : Nat) : List Nat → State → Acc (List HRow) × State
  | [], s => (.ok [], s)
  | n :: ns, s =>
    match s.rdOp w false (.va (e.ovf + 48 * n)) 48 with
    | (.ok bs, s1) =>
      Acc.bind (State.readSlots w e set ns s1) fun l s2 =>
        match SRow.ofBytes bs with
        | some r => (.ok (if r.set = set then ⟨some n, r⟩ :: l else l), s2)
        | none => (.ok l, s2)
    | (.err c d, s1) =>
      if rowLost (s1.setNow set).poison c d then
        State.readSlots w e set ns (((s1.dropSlot e.home set n).putFlags set e.valid true).recount e.home set)
      else (.err c d, s1)
    | (.wait, s1) => (.wait, s1)

/-- All valid rows of a set. -/
def State.setRows (s : State) (w : Who) (e : SetEnt) (set : Nat) : Acc (List HRow) × State :=
  let s1 := s.sweepArrays e.home set
  Acc.bind (State.readSlots w e set (s1.slotsOf e.home set) s1) fun l s2 =>
    (.ok (((s2.die e.home).rows.filter (fun r => r.set == set)).map (fun r => ⟨none, r⟩) ++ l), s2)

/-- Writes the ages of rows at their homes. -/
def State.setAges (w : Who) (e : SetEnt) (age : Nat → Nat) : List HRow → State → Acc Unit × State
  | [], s => (.ok (), s)
  | h :: hs, s =>
    match h.slot with
    | none =>
      State.setAges w e age hs (s.onDie e.home (fun d => { d with
        rows := d.rows.map (fun r => if r.set = h.row.set && r.lpage = h.row.lpage then { r with age := age r.age } else r) }))
    | some n =>
      Acc.bind (s.wrOp w false (.va (e.ovf + 48 * n)) ({ h.row with age := age h.row.age }.bytes)) fun _ s1 =>
        State.setAges w e age hs s1

/-- The bytes of a slot that no longer holds a row are unspecified: free bytes (R444, log 8). Where they cannot be written, the slot
keeps what it holds. -/
def State.freeSlot (s : State) (w : Who) (e : SetEnt) (set n : Nat) : State :=
  let s1 := { s.dropSlot e.home set n with free := s.free + 48 }
  match s1.wrOp w false (.va (e.ovf + 48 * n)) ((List.range 48).map (fun i => Config.freeByte (s.free + i))) with
  | (.ok _, s2) => s2
  | (.err _ _, s2) => s1.undone s2
  | (.wait, s2) => s1.parityOf s2

/-- Removes rows from their homes. -/
def State.removeRows (w : Who) (e : SetEnt) (set : Nat) : List HRow → State → State
  | [], s => s
  | h :: hs, s =>
    State.removeRows w e set hs (match h.slot with
      | none => s.onDie e.home (fun d => { d with rows := d.rows.filter (fun r => !(r.set == set && r.lpage == h.row.lpage)) })
      | some n => s.freeSlot w e set n)

/-- The overflow slot that a row takes: the complex chooses among the free ones (R444, log 8). -/
def State.pickSlot (s : State) (e : SetEnt) (set : Nat) : Option Nat × State :=
  let used := s.slotsOf e.home set
  let c := s.choose
  if e.cap ≤ used.length then (none, s)
  else (((List.range (used.length + 1)).map (fun i => (c.1 + i) % e.cap)).find? (fun n => !used.contains n), c.2)

/-- Puts a row into a free overflow slot. -/
def State.putOvf (s : State) (w : Who) (e : SetEnt) (r : SRow) : Acc Unit × State :=
  match s.pickSlot e r.set with
  | (none, s1) => (.err 0x27 0, s1)
  | (some n, s1) =>
    Acc.bind (s1.wrOp w false (.va (e.ovf + 48 * n)) r.bytes) fun _ s2 =>
      (.ok (), s2.onDie e.home (fun d => { d with ovf := d.ovf ++ [(r.set, n)] }))

/-- Puts a row into an array. -/
def State.putArr (s : State) (e : SetEnt) (r : SRow) : State := s.onDie e.home (fun d => { d with rows := d.rows ++ [r] })

/-- Whether the arrays of a die have a free row. -/
def State.arrRoom (s : State) (die : Nat) : Bool := decide ((s.die die).rows.length < arrayRows)

/-! ### Sequence descriptors (R187) -/

/-- Whether a descriptor is consistent. -/
def descOk (b : List Byte) : Bool :=
  let n := fieldAt b 8 4
  let t := fieldAt b 12 4
  decide (n ≤ 2 ^ 24) && decide (t ≤ 16 * n) && decide (16 * n ≤ t + 16)

/-- SETID of a descriptor. -/
def descSet (b : List Byte) : Nat := fieldAt b 0x10 3

/-- The frame of a page in LAST16, for the last sixteen pages. -/
def last16 (b : List Byte) (p : Nat) : Option Nat :=
  let n := fieldAt b 8 4
  if p < n && n ≤ p + 16 then some (fieldAt b (0x40 + 4 * (p % 16)) 4) else none

/-! ### The selection (R192, R193) -/

/-- Inserts by an order. -/
def placeBy {α : Type} (before : α → α → Bool) (a : α) : List α → List α
  | [] => [a]
  | b :: l => if before a b then a :: b :: l else b :: placeBy before a l

/-- Sorts by an order. -/
def orderBy {α : Type} (before : α → α → Bool) : List α → List α
  | [] => []
  | a :: l => placeBy before a (orderBy before l)

/-- The score of a row (R193). -/
def rowScore (e : SetEnt) (q sig : Nat) : Nat :=
  popN 256 e.mask - popN 256 (Nat.land (Nat.xor q sig) e.mask)

/-- An entry of the output list: frame, page, score, flags. -/
structure Pick where
  frame : Nat
  lpage : Nat
  score : Nat
  flags : Nat
deriving DecidableEq, Repr

/-- The chosen rows with their scores, in the order of R193. -/
def chooseRows (e : SetEnt) (n q k : Nat) (rows : List HRow) : List (Nat × HRow) :=
  let cands := (rows.filter (fun h => e.sink ≤ h.row.lpage && h.row.lpage + e.recent < n)).map
    (fun h => (rowScore e q h.row.sig.toNat, h))
  (orderBy (fun a b => decide (b.1 < a.1) || (a.1 == b.1 && decide (b.2.row.lpage < a.2.row.lpage))) cands).take k

/-- The frame of a known page: LAST16 before a row (R192). -/
def knownFrame (d : List Byte) (rows : List HRow) (p : Nat) : Option Nat :=
  match last16 d p with
  | some f => some f
  | none => (rows.find? (fun h => h.row.lpage == p)).map (·.row.frame)

/-- Pages that are sink or recent, known or not. -/
def fixedPages (e : SetEnt) (n : Nat) : List Nat :=
  let a := min e.sink n
  List.range a ++ ((List.range (min n e.recent)).map (fun i => n - min n e.recent + i)).filter (fun p => a ≤ p)

/-- The output list in ascending page order, and the number of missing pages. -/
def selectPages (e : SetEnt) (d : List Byte) (chosen : List (Nat × HRow)) (rows : List HRow) : List Pick × Nat :=
  let n := fieldAt d 8 4
  let fixed := fixedPages e n
  let flags (p : Nat) : Nat := (if p < e.sink then 1 else 0) + (if n ≤ p + e.recent then 2 else 0)
  let kept := fixed.filterMap (fun p => (knownFrame d rows p).map (fun f => (⟨f, p, 0, flags p⟩ : Pick)))
  let picks := chosen.map (fun c => (⟨(knownFrame d rows c.2.row.lpage).getD c.2.row.frame, c.2.row.lpage, c.1, 4⟩ : Pick))
  (orderBy (fun a b => decide (a.lpage < b.lpage)) (kept ++ picks),
    (fixed.filter (fun p => (knownFrame d rows p).isNone)).length)

/-- The 16 bytes of an output entry (R194). -/
def Pick.bytes (ntok : Nat) (p : Pick) : List Byte :=
  leBytes 4 p.frame ++ leBytes 4 p.lpage ++ leBytes 2 p.score ++ leBytes 1 p.flags ++
  leBytes 1 (min 16 (ntok - 16 * p.lpage)) ++ leBytes 4 0

/-- The header of an output list. -/
def selHeader (count status n miss : Nat) : List Byte := leBytes 4 count ++ leBytes 4 status ++ leBytes 4 n ++ leBytes 4 miss

/-- Writes the entries of an output list. -/
def State.writeList (s : State) (w : Who) (out : Opnd) (d : List Byte) (ps : List Pick) : Acc Unit × State :=
  s.wrOp w true (out.plus 16) (ps.flatMap (Pick.bytes (fieldAt d 12 4)))

/-- The header of an `SSEL` is its report (R194); the fault that it tells of follows it, whatever the header's own write meets
(log 46). -/
def State.sselReport (s : State) (r : Report) (f : Nat × W64) : Acc Unit × State :=
  match s.lastWrite r with
  | (.wait, s1) => (.wait, s1)
  | (.ok false, s1) => (.ok (), s1)
  | (_, s1) => (.err f.1 f.2, s1)

/-- Whether some pages take a write of an agent; the first that does not faults, before anything is written (R390). -/
def State.pagesOpen (w : Who) : List Nat → State → Acc Unit × State
  | [], s => (.ok (), s)
  | a :: l, s =>
    match s.xlate w.die w.asid a true with
    | (.ok _ _, s1) => State.pagesOpen w l s1
    | (.err c sub, s1) => (xlFault c true sub a, s1)
    | (.wait, s1) => (.wait, s1)

/-- An address in each page that `n` bytes at an operand meet, where it is a virtual address. -/
def Opnd.pages (o : Opnd) (n : Nat) : List Nat :=
  match o with
  | .va a => (List.range ((a % 4096 + n + 4095) / 4096)).map (fun i => if i = 0 then a else (a / 4096 + i) * 4096)
  | _ => []

/-- What an `SSEL` writes before its header: the list's entries, and the ages of the rows that it has chosen (R193, R194). -/
def State.sselWrite (s : State) (w : Who) (e : SetEnt) (o : Opnd) (d : List Byte) (list : List Pick) (chosen : List HRow) :
    Acc Unit × State :=
  let slots := (chosen.filterMap HRow.slot).flatMap (fun n => (Opnd.va (e.ovf + 48 * n)).pages 48)
  Acc.bind (State.pagesOpen w (o.pages (16 + 16 * list.length) ++ slots) s) fun _ s1 =>
    Acc.bind (s1.writeList w o d list) fun _ s2 => State.setAges w e (fun _ => 255) chosen s2

/-- The end of an `SSEL` that has found its list: entries, ages and header, or nothing of them where one faults (R390). A header that
has gone to a peer performs there; what stands before it stands, and the end comes with the peer's answer (log 46). -/
def State.sselClose (s : State) (w : Who) (e : SetEnt) (o : Opnd) (d : List Byte) (r : Report) (list : List Pick)
    (chosen : List HRow) : Acc Unit × State :=
  match s.sselWrite w e o d list chosen with
  | (.ok _, s1) =>
    match s.allOrNone (s1.statusAt w r.addr r.word) with
    | (.wait, s2) => if s1.fab.length < s2.fab.length then (.ok (), { s2 with reports := s2.reports ++ [r] }) else (.wait, s2)
    | a => a
  | a => s.allOrNone a

/-- Whether every access of an agent to a peer has its answer. -/
def State.allAnswered (s : State) (w : Who) : Bool := s.fab.all (fun f => f.who != w || f.reply.isSome)

/-- An `SSEL` whose header is due: that of a list has gone out and ends with the peer's answer; one that tells of a fault is a report
as any. -/
def State.sselDue (s : State) (w : Who) (r : Report) : Acc Unit × State :=
  match r.fault with
  | some f => s.sselReport r f
  | none => if s.allAnswered w then (.ok (), s.quit w) else (.wait, s)

/-- The report of an `SSEL` on a poisoned set, and its fault (R197). -/
def State.sselPoisoned (s : State) (w : Who) (out : W64) (d : List Byte) : Acc Unit × State :=
  s.sselReport ⟨w, out, selHeader 0 0x18 (fieldAt d 8 4) 0, some (0x18, 0)⟩ (0x18, 0)

/-- An `SSEL` at its start in set order (R192 to R194, R197): the checks for `ADDRESS`, then POISON, which an uncorrectable
row among those it reads sets. The list's entries and the ages stand before the header goes out (R151), and where one of these
writes faults, none stands (R390). -/
def State.sselGo (s : State) (w : Who) (set : Nat) (blk : List Byte) (out : W64) (k : Nat) : Acc Unit × State :=
  match s.dueOf w, opndOf w.core out with
  | some r, _ => s.sselDue w r
  | none, none => (.err 0x12 0, s)
  | none, some o =>
    Acc.bind (s.rdOp w false (.va (fieldAt blk 0x20 8)) 128) fun d s1 =>
      Acc.bind (s1.setEnt w.die set) fun e s2 =>
        if !e.valid || k = 0 || e.kmax < k || !descOk d then (.err 0x12 0, s2)
        else if e.poison then s2.sselPoisoned w out d
        else
          Acc.bind (s2.setRows w e set) fun rows s3 =>
            if (s3.setNow set).poison then s3.sselPoisoned w out d
            else
              let live := rows.filter (fun h => h.row.lpage < fieldAt d 8 4)
              let chosen := chooseRows e (fieldAt d 8 4) (fieldAt blk 0 32) k live
              let list := selectPages e d chosen live
              s3.sselClose w e o d ⟨w, out, selHeader list.1.length 0 (fieldAt d 8 4) list.2, none⟩ list.1 (chosen.map (·.2))

/-! ### Maintenance (R188, R196, R200, R373, R382, R383, R387, R388, R391) -/

/-- Whether an image of a set entry obeys R189. -/
def imageOk (i : SetEnt) : Bool :=
  decide (1 ≤ i.w) && decide (i.w ≤ 256) && decide (i.sink ≤ 16) && decide (i.recent ≤ 16) && decide (1 ≤ i.kmax) &&
  decide (i.kmax ≤ 256) && i.ovf % 64 == 0

/-- Rows in overflow move with the region when an `SSET` names another region or a smaller one: they are kept (R189). -/
def State.moveOvf (w : Who) (e : SetEnt) : List HRow → State → Acc Unit × State
  | [], s => (.ok (), s)
  | h :: hs, s => Acc.bind (s.putOvf w e h.row) fun _ s1 => State.moveOvf w e hs s1

/-- `SSET` (R189, R391). Where rows in overflow move, the slots that they leave hold free bytes (R444, log 8). -/
def State.ssetGo (s : State) (w : Who) (set : Nat) (blk : List Byte) : Acc Unit × State :=
  Acc.bind (s.setEnt w.die set) fun e s1 =>
    let i := SetEnt.ofBytes blk
    let used := s1.slotsOf e.home set
    if !imageOk i || !s1.diemask.getLsbD i.home || (i.home != e.home && s1.rowCount e.home set != 0) ||
       decide (i.cap < used.length) then (.err 0x12 0, s1)
    else
      let entry (s : State) : State :=
        (((s.putSet set 0 (blk.take 0x26)).putSet set 0x26 (leBytes 1 i.home)).putFlags set i.valid
          (s.setNow set).poison).putSet set 0x2C ((blk.drop 0x2C).take 12)
      if used.isEmpty || (i.ovf = e.ovf && used.all (fun n => decide (n < i.cap))) then (.ok (), entry s1)
      else
        Acc.bind (State.readSlots w e set used s1) fun rows s2 =>
          s2.allOrNone (Acc.bind (State.moveOvf w i rows (used.foldl (fun s n => s.freeSlot w e set n) s2)) fun _ s3 =>
            (.ok (), entry s3))

/-- `SINS` (R196, R387). -/
def State.sinsGo (s : State) (w : Who) (blk : List Byte) : Acc Unit × State :=
  let set := fieldAt blk 0x20 3
  let lpage := fieldAt blk 0x24 3
  let frame := fieldAt blk 0x28 4
  Acc.bind (s.setEnt w.die set) fun e s1 =>
    if !e.valid || e.poison || frame = 0xFFFFFFFF || fieldAt blk 0x23 1 != 0 || fieldAt blk 0x27 1 != 0 ||
       fieldAt blk 0x2C 20 != 0 then (.err 0x12 0, s1)
    else
      Acc.bind (s1.setRows w e set) fun rows s2 =>
        let r : SRow := ⟨set, lpage, frame, 255, BitVec.ofNat 256 (fieldAt blk 0 32 % 2 ^ e.w)⟩
        let s3 := State.removeRows w e set (rows.filter (fun h => h.row.lpage == lpage)) s2
        s2.allOrNone (if s3.arrRoom e.home then (.ok (), (s3.putArr e r).recount e.home set)
          else Acc.bind (s3.putOvf w e r) fun _ s4 => (.ok (), s4.recount e.home set))

/-- `SDEL.ALL`: every row leaves, unread, and V and POISON clear (R200). -/
def State.sdelAll (s : State) (w : Who) (e : SetEnt) (set : Nat) : State :=
  let s1 := s.onDie e.home (fun d => { d with rows := d.rows.filter (fun r => r.set != set) })
  let s2 := { s1 with errs := s1.errs.filter (fun x => !(x.kind == 7 && x.unit == e.home && x.idx / 2 ^ 24 == set)) }
  ((((s2.slotsOf e.home set).foldl (fun s n => s.freeSlot w e set n) s2)).putFlags set false false).recount e.home set

/-- `SDEL` (R200, R383). -/
def State.sdelGo (s : State) (w : Who) (set : Nat) (rng : W64) (all : Bool) : Acc Unit × State :=
  Acc.bind (s.setEnt w.die set) fun e s1 =>
    if all then (.ok (), s1.sdelAll w e set)
    else
      Acc.bind (s1.setRows w e set) fun rows s2 =>
        let lo := bitsOf rng.toNat 23 0
        let hi := bitsOf rng.toNat 47 24
        let gone := rows.filter (fun h => lo ≤ h.row.lpage && h.row.lpage ≤ hi)
        (.ok (), (State.removeRows w e set gone s2).recount e.home set)

/-- `SAGE` (R200, R382). -/
def State.sageGo (s : State) (w : Who) (set d : Nat) : Acc Unit × State :=
  Acc.bind (s.setEnt w.die set) fun e s1 =>
    if !e.valid then (.err 0x12 0, s1)
    else Acc.bind (s1.setRows w e set) fun rows s2 => State.setAges w e (fun a => a - d) rows s2

/-- Moves rows between homes, one after another, while there is room (R388). -/
def State.migrate (w : Who) (e : SetEnt) (set : Nat) (inward : Bool) : List HRow → State → Acc Unit × State
  | [], s => (.ok (), s)
  | h :: hs, s =>
    if inward then
      if s.arrRoom e.home then
        State.migrate w e set inward hs ((State.removeRows w e set [h] s).putArr e h.row)
      else (.ok (), s)
    else if e.cap ≤ (s.slotsOf e.home set).length then (.ok (), s)
    else Acc.bind (s.putOvf w e h.row) fun _ s1 => State.migrate w e set inward hs (State.removeRows w e set [h] s1)

/-- `SMIG` (R200, R388). -/
def State.smigGo (s : State) (w : Who) (set mark : Nat) (inward : Bool) : Acc Unit × State :=
  Acc.bind (s.setEnt w.die set) fun e s1 =>
    if !e.valid then (.err 0x12 0, s1)
    else if e.cap = 0 then (.ok (), s1)
    else
      Acc.bind (s1.setRows w e set) fun rows s2 =>
        let moved := rows.filter (fun h => if inward then h.slot.isSome && decide (mark < h.row.age)
          else h.slot.isNone && decide (h.row.age ≤ mark))
        State.migrate w e set inward (orderBy (fun a b => decide (a.row.lpage < b.row.lpage)) moved) s2

/-- `PGAP` (R188, R373): the header, the old tail's NEXT, the descriptor, as one update. A STATUS word of `SEQ_FULL` whose write
faults is dropped, and the fault is `SEQ_FULL` (log 46). -/
def State.pgapGo (s : State) (w : Who) (set : Nat) (desc frame : W64) : Acc Unit × State :=
  match opndOf w.core desc with
  | none => (.err 0x12 0, s)
  | some o =>
    Acc.bind (s.rdOp w true o 128) fun d s1 =>
      Acc.bind (s1.setEnt w.die set) fun e s2 =>
        let n := fieldAt d 8 4
        let f := frame.toNat % 2 ^ 32
        let hdr (f : Nat) : Opnd := .va ((fieldAt d 0x20 8 + 64 * f) % 2 ^ 64)
        if !e.valid then (.err 0x12 0, s2)
        else if 2 ^ 24 ≤ n then
          match s2.wrOp w true (o.plus 0x14) (leBytes 4 0x26) with
          | (.wait, s3) => (.wait, s3)
          | (_, s3) => (.err 0x26 0, s3)
        else
          s2.allOrNone (
            Acc.bind (s2.wrOp w false (hdr f) (leBytes 4 0xFFFFFFFF ++ leBytes 4 n ++ leBytes 4 0 ++
              leBytes 4 (descSet d) ++ leBytes 48 0)) fun _ s3 =>
            Acc.bind (if n = 0 then s3.wrOp w true o (leBytes 4 f)
              else s3.wrOp w false (hdr (fieldAt d 4 4)) (leBytes 4 f)) fun _ s4 =>
            Acc.bind (s4.wrOp w true (o.plus (0x40 + 4 * (n % 16))) (leBytes 4 f)) fun _ s5 =>
              s5.wrOp w true (o.plus 4) (leBytes 4 f ++ leBytes 4 (n + 1)))

/-! ### Set order (R198, R199) -/

/-- The agent of an operation of a complex. -/
def SetOp.who (x : SetOp) : Who := ⟨x.core, dieOf x.core, x.asid, x.uid, rankScarab⟩

/-- One operation of the complex of a die. A core of another die does not reach the complex of a die that is clear in
`DIEMASK` (R14, log 14). -/
def State.setOpGo (s : State) (die : Nat) (x : SetOp) : Acc Unit × State :=
  let w := x.who
  if !s.reaches w.die die then (.err 0x12 0, s) else
  match x.kind with
  | .ssel out _ k => s.sselGo w x.set x.blk out k
  | .sset _ _ => s.ssetGo w x.set x.blk
  | .sins _ => s.sinsGo w x.blk
  | .sdel _ rng all => s.sdelGo w x.set rng all
  | .sage _ d => s.sageGo w x.set d
  | .smig _ mark inward => s.smigGo w x.set mark inward
  | .pgap desc frame => s.pgapGo w x.set desc frame
  | _ => (.ok (), s)

/-- Operations of a queue that no earlier operation of their set precedes. -/
def setReady : List Nat → List SetOp → List SetOp
  | _, [] => []
  | seen, x :: l => if seen.contains x.set then setReady seen l else x :: setReady (x.set :: seen) l

/-- The end of an operation: it leaves the complex and its command completes, with its fault if it has one. -/
def State.setOpEnd (s : State) (die : Nat) (x : SetOp) (f : Option (Nat × W64)) : State :=
  let s1 := (s.quit x.who).onDie die (fun d => { d with setq := d.setq.filter (fun y => y.uid != x.uid) })
  match ((s1.core x.core).chan x.chan).cmds.find? (fun m => m.uid == x.uid) with
  | none => s1
  | some m => (match f with
    | some e => s1.cmdFault x.core x.chan m e.1 e.2
    | none => s1).endCmd x.core x.chan m

/-- Tries operations in order; one that waits lets the next of another set go, and one whose report is due has not ended. -/
def State.trySetOps (s : State) (die : Nat) : List SetOp → Option State
  | [] => none
  | x :: l =>
    match s.setOpGo die x with
    | (.ok _, s1) => some (if (s1.dueOf x.who).isSome then s1 else s1.setOpEnd die x none)
    | (.err c d, s1) => some (s1.setOpEnd die x (some (c, d)))
    | (.wait, s1) => match s.waited s1 with
      | some s2 => some s2
      | none => State.trySetOps s die l

/-- A select. -/
def CmdKind.isSsel : CmdKind → Bool
  | .ssel _ _ _ => true
  | _ => false

/-- `SSEL_START` when it is enabled (R199). -/
def State.trySsel (s : State) (die : Nat) : Option State :=
  s.trySetOps die ((setReady [] (s.die die).setq).filter (fun x => x.kind.isSsel))

/-- `SSEL_START` (R192 to R199). -/
def execSselStart (die : Nat) (s : State) : Res := orSame s (s.trySsel die)

/-- `SCARAB_SET_OPERATION` when it is enabled. -/
def State.trySetOp (s : State) (die : Nat) : Option State :=
  s.trySetOps die ((setReady [] (s.die die).setq).filter (fun x => !x.kind.isSsel))

/-- `SCARAB_SET_OPERATION` (R188, R196, R198, R200). -/
def execScarabSetOperation (die : Nat) (s : State) : Res := orSame s (s.trySetOp die)

end Sys2Proof.Machine
end

