-- ==== Sys2Proof/Machine/Weevil.lean ====
section
/-! DEFINITION. Weevil, the page fetcher (spec/08_scarab.md R185, R186, R201 to R205; spec/15 R374): one page of a list or of
a chain into the ring of a core, its CRC, the return of its slot, and the status word. -/

namespace Sys2Proof.Machine

/-- The engine's record with a change. -/
def Core.onWeevil (c : Core) (uid : Nat) (f : Weevil → Weevil) : Core :=
  { c with weevil := c.weevil.map (fun x => if x.uid = uid then f x else x) }

/-- The status word of R204. -/
def pgftWord (cause lpage n : Nat) : List Byte := leBytes 8 (cause * 2 ^ 56 + lpage % 2 ^ 24 * 2 ^ 32 + n % 2 ^ 32)

/-- The fault data of an engine with a status word: the record of R175, or else the status word (R252). -/
def faultData (word : List Byte) (f : Nat × W64) : Nat × W64 :=
  (f.1, if f.1 = 0x20 || f.1 = 0x21 then f.2 else BitVec.ofNat 64 (leNat word))

/-- The agent that fetches the pages of a `PGFT`. -/
def State.whoPage (s : State) (k : Nat) (x : Weevil) : Who := { s.who k with op := x.uid, rank := rankWeevil }

/-- A `PGFT` is over: its fault, its command, its record. -/
def State.weevilDone (s : State) (w : Who) (x : Weevil) (m : Cmd) (f : Option (Nat × W64)) : State :=
  ((match f with
    | some e => (s.quit w).cmdFault w.core x.chan m e.1 e.2
    | none => s.quit w).endCmd w.core x.chan m).onCore w.core (fun c => { c with weevil := c.weevil.filter (fun y => y.uid != x.uid) })

/-- The end of a `PGFT`: its status word, its fault, and its command. A stop whose status word faults too keeps its own fault
(log 46). -/
def State.weevilEnd (s : State) (w : Who) (x : Weevil) (m : Cmd) (lpage : Nat) (f : Option (Nat × W64)) :
    Acc Unit × State :=
  let word := pgftWord ((f.map (·.1)).getD 0) lpage x.next
  s.reportEnd ⟨w, x.status, word, f.map (faultData word)⟩ (fun s f => s.weevilDone w x m f)

/-- A write that is dropped where it faults (R203). -/
def State.dropWrite (r : Acc Unit × State) : Acc Unit × State :=
  match r with
  | (.err _ _, s) => (.ok (), s)
  | a => a

/-- K columns of token slots from NTOK on are zeros: each token has 256 bytes (R201). -/
def maskK (ntok : Nat) (b : List Byte) : List Byte := b.take (256 * ntok) ++ leBytes (4096 - 256 * min 16 ntok) 0

/-- The V block transposed as by `.T16`: dimension by dimension, the 16 tokens, zeros from NTOK on (R201). -/
def turnV (ntok : Nat) (b : List Byte) : List Byte :=
  let m := maskK ntok b
  let toks := (List.range 16).map (fun t => (m.drop (256 * t)).take 256)
  weave 2 128 toks

/-- The frame of page `i`: from the list's entry, or from the chain. -/
def State.pageFrame (s : State) (w : Who) (x : Weevil) : Acc (Nat × Nat) × State :=
  if x.chain then (.ok (x.frame, x.next), s)
  else
    match opndOf w.core x.list with
    | none => (.err 0x12 0, s)
    | some o => Acc.bind (s.rdOp w true (o.plus (16 + 16 * x.next)) 16) fun b s1 => (.ok (fieldAt b 0 4, fieldAt b 4 3), s1)

/-- What a page brings: its header, its two blocks. -/
structure PageIn where
  hdr : List Byte
  k : List Byte
  v : List Byte
deriving DecidableEq, Repr

/-- Reads a page of the pool (R185): a POOL or HDRT that is not aligned is used as it stands (log 46). -/
def State.readPage (s : State) (w : Who) (x : Weevil) (f : Nat) : Acc PageIn × State :=
  Acc.bind (s.rdOp w false (.va (x.hdrt.toNat + 64 * f)) 64) fun h s1 =>
    Acc.bind (s1.rdOp w false (.va (x.pool.toNat + 8192 * f)) 4096) fun k s2 =>
      Acc.bind (s2.rdOp w false (.va (x.pool.toNat + 8192 * f + 4096)) 4096) fun v s3 => (.ok ⟨h, k, v⟩, s3)

/-- Writes a page into its slot (R201). -/
def State.writeSlot (s : State) (w : Who) (x : Weevil) (p : PageIn) : Acc Unit × State :=
  let q := x.q0 + 2 * (x.next % 4)
  let ntok := fieldAt p.hdr 8 1
  Acc.bind (s.wrOp w true (.scr w.core (4096 * q)) (maskK ntok p.k)) fun _ s1 =>
    s1.wrOp w true (.scr w.core (4096 * (q + 1))) (turnV ntok p.v)

/-- Whether an earlier-accepted command of the channel still writes what a page's fetch reads: the list's entry, the header,
the two blocks (R150). -/
def State.pageHeld (s : State) (k : Nat) (x : Weevil) (m : Cmd) (f : Nat) : Bool :=
  let e := x.list + BitVec.ofNat 64 (16 + 16 * x.next)
  s.readsHeld k x.chan m (if x.chain then [] else qAt k e 16)
    ((if x.chain then [] else vaAt k e 16) ++ [(x.hdrt.toNat + 64 * f, 64), (x.pool.toNat + 8192 * f, 8192)])

/-- One page, or the end of the list, unless the report is due. A fault at the list's entry has no failing page, so the status
word holds 0 there; one of a read names the entry's LPAGE or the chain's index, and one after the reads the LPAGE of the page's header
(R204, log 46). A list's frame 0xFFFF_FFFF is fetched as any other number (R185, log 46). -/
def State.weevilGo (s : State) (w : Who) (x : Weevil) (m : Cmd) : Acc Unit × State :=
  match s.dueOf w with
  | some r => s.reportEnd r (fun s f => s.weevilDone w x m f)
  | none =>
  if x.count ≤ x.next || (x.chain && x.frame = 0xFFFFFFFF) then s.weevilEnd w x m 0 none
  else
    match s.pageFrame w x with
    | (.wait, s1) => (.wait, s1)
    | (.err c d, s1) => s1.weevilEnd w x m 0 (some (c, d))
    | (.ok fl, s1) =>
      if s1.pageHeld w.core x m fl.1 then (.wait, s1) else
      match s1.readPage w x fl.1 with
      | (.wait, s2) => (.wait, s2)
      | (.err c d, s2) => s2.weevilEnd w x m fl.2 (some (c, d))
      | (.ok p, s2) =>
        match s2.writeSlot w x p with
        | (.wait, s3) => (.wait, s3)
        | (.err c d, s3) => s3.weevilEnd w x m (fieldAt p.hdr 4 3) (some (c, d))
        | (.ok _, s3) =>
          if crc32c (p.k ++ p.v) = fieldAt p.hdr 0x10 4 then
            let q := x.q0 + 2 * (x.next % 4)
            (.ok (), (s3.quit w).onCore w.core (fun c =>
              let c1 := c.onWeevil x.uid (fun y => { y with
                next := y.next + 1, frame := fieldAt p.hdr 0 4, back := c.cyc + 2, given := y.given.filter (fun g => g != q && g != q + 1) })
              { c1 with pend := c1.pend ++ [⟨c.cyc + 1, c.cyc, cNum x.chan, false, m.baddr, .slotBack [q, q + 1]⟩] }))
          else
            Acc.bind (State.dropWrite (s3.wrOp w false (.va (x.hdrt.toNat + 64 * fl.1 + 0x14)) (leBytes 4 0x24))) fun _ s4 =>
              Acc.bind (State.dropWrite (match opndOf w.core x.desc with
                | some o => s4.wrOp w true (o.plus 0x14) (leBytes 4 0x24)
                | none => (.ok (), s4))) fun _ s5 =>
                s5.weevilEnd w x m (fieldAt p.hdr 4 3) (some (0x24, 0))

/-- Whether a record can act now: its last return has taken place, or the slot of its next page is given. -/
def Core.weevilReady (c : Core) (x : Weevil) : Bool :=
  let q := x.q0 + 2 * (x.next % 4)
  if x.count ≤ x.next || (x.chain && x.frame = 0xFFFFFFFF) then decide (x.back ≤ c.cyc)
  else x.given.contains q && x.given.contains (q + 1)

/-- Tries records in order. -/
def State.tryPages (s : State) (k : Nat) : List Weevil → Option State
  | [] => none
  | x :: l =>
    match ((s.core k).chan x.chan).cmds.find? (fun m => m.uid == x.uid) with
    | none => State.tryPages s k l
    | some m =>
      match s.weevilGo (s.whoPage k x) x m with
      | (.wait, s1) => match s.waited s1 with
        | some s2 => some s2
        | none => State.tryPages s k l
      | (_, s1) => some s1

/-- `WEEVIL_PAGE_RETURN` when it is enabled. -/
def State.tryPage (s : State) (k : Nat) (ch : Bool) : Option State :=
  let c := s.core k
  if c.run && !c.frozen && !c.stopped then s.tryPages k (c.weevil.filter (fun x => x.chan == ch && c.weevilReady x)) else none

/-- `WEEVIL_PAGE_RETURN` (R201 to R204). -/
def execWeevilPageReturn (core : Nat) (ch : Bool) (s : State) : Res := orSame s (s.tryPage core ch)

end Sys2Proof.Machine
end

