-- ==== Sys2Proof/Machine/Plan.lean ====
section
/-! DEFINITION. `PLAN` (spec/08_scarab.md R206 to R208, spec/02_execution.md R41, spec/15 R375, R376): blocks of a batch dealt
to cores, work lists and merge plan. -/

namespace Sys2Proof.Machine

/-- The end of a command that another engine ran: its fault, then its completion (R363), which ends its accesses. -/
def State.engineEnd (s : State) (k : Nat) (ch : Bool) (m : Cmd) (r : Acc Unit × State) : Option State :=
  match r with
  | (.ok _, s1) => some (s1.endCmd k ch m)
  | (.err c d, s1) => some ((s1.cmdFault k ch m c d).endCmd k ch m)
  | (.wait, s1) => s.waited s1

/-- The number of cores that a `PLAN` names on T (R376). -/
def State.planCores (s : State) (k : Nat) (blk : List Byte) : Nat :=
  ((s.instCores (s.core k).inst).filter (fun j =>
    !bitOf (fieldAt blk 0x1C 1) 0 || (s.core j).crv 0x002 == fieldAt blk 0x1D 1)).length

/-- The limits of a plan block (R208, R375). -/
def planBlkOk (blk : List Byte) : Bool :=
  let st := fieldAt blk 0x18 4
  decide (fieldAt blk 0x1C 1 < 2) && fieldAt blk 0x1E 2 == 0 && decide (fieldAt blk 0x1D 1 ≤ 63) &&
  st % 64 == 0 && decide (64 ≤ st) && decide (st ≤ 65536) && fieldAt blk 8 8 % 64 == 0 && fieldAt blk 0x10 8 % 8 == 0

/-- The block counts of the entries of a batch table (R206), with the checks of R208. A DESC that is not aligned is used as it stands
(log 46). -/
def State.planCounts (w : Who) : List (List Byte) → State → Acc (List Nat) × State
  | [], s => (.ok [], s)
  | e :: es, s =>
    Acc.bind (s.rdOp w false (.va (fieldAt e 0 8)) 128) fun d s1 =>
      Acc.bind (s1.setEnt w.die (descSet d)) fun st s2 =>
        let k := fieldAt e 0x10 2
        if !descOk d || !st.valid || k = 0 || 256 < k then (.err 0x12 0, s2)
        else Acc.bind (State.planCounts w es s2) fun l s3 => (.ok (min (fieldAt d 8 4) (st.sink + k + st.recent) :: l), s3)

/-- Cuts a byte list into `n` entries of 32 bytes. -/
def entries32 : Nat → List Byte → List (List Byte)
  | 0, _ => []
  | n + 1, b => b.take 32 :: entries32 n (b.drop 32)

/-- The first block of each entry. -/
def startsOf : Nat → List Nat → List Nat
  | _, [] => []
  | a, b :: l => a :: startsOf (a + b) l

/-- The span of rank `j` among `c` ranks of `b` blocks (R41). -/
def spanOf (b c j : Nat) : Nat × Nat := (j * b / c, (j + 1) * b / c)

/-- A segment of a work list: entry, first block, count, flags (R207). -/
def segOf (lo hi e start n : Nat) : Option (List Byte) :=
  let a := max lo start
  let z := min hi (start + n)
  if a < z then
    some (leBytes 2 e ++ leBytes 2 (a - start) ++ leBytes 2 (z - a) ++
      leBytes 2 ((if a = start then 1 else 0) + (if z = start + n then 2 else 0)))
  else none

/-- The work list of a rank. -/
def workList (counts : List Nat) (c j : Nat) : List Byte × Nat :=
  let sp := spanOf counts.sum c j
  let segs := ((counts.zip (startsOf 0 counts)).zipIdx).filterMap (fun e => segOf sp.1 sp.2 e.2 e.1.2 e.1.1)
  (leBytes 4 segs.length ++ leBytes 4 (sp.2 - sp.1) ++ leBytes 4 sp.1 ++ leBytes 4 0 ++ segs.flatten, segs.length)

/-- The rank that holds a block. -/
def rankOf (b c blk : Nat) : Nat :=
  ((List.range c).find? (fun j => decide ((spanOf b c j).1 ≤ blk) && decide (blk < (spanOf b c j).2))).getD 0

/-- The merge-plan record of an entry (R207): the ranks from that of its first block to that of its last. -/
def mergeRec (b c start n : Nat) : List Byte :=
  if n = 0 then leBytes 8 0
  else
    let f := rankOf b c start
    leBytes 2 f ++ leBytes 2 (rankOf b c (start + n - 1) + 1 - f) ++ leBytes 2 n ++ leBytes 2 0

/-- Writes pieces at operand addresses, in order. -/
def State.writeAll (w : Who) : List (Opnd × List Byte) → State → Acc Unit × State
  | [], s => (.ok (), s)
  | e :: l, s => Acc.bind (s.wrOp w true e.1 e.2) fun _ s1 => State.writeAll w l s1

/-- A `PLAN` with its block read and its cores counted on T: every check before the first write (R208). -/
def State.planGo (s : State) (w : Who) (blk : List Byte) : Acc Unit × State :=
  let c := fieldAt blk 32 4
  let stride := fieldAt blk 0x18 4
  match opndOf w.core (BitVec.ofNat 64 (fieldAt blk 0 8)), opndOf w.core (BitVec.ofNat 64 (fieldAt blk 8 8)),
      opndOf w.core (BitVec.ofNat 64 (fieldAt blk 0x10 8)) with
  | some bt, some wl, some mp =>
    if !planBlkOk blk || c = 0 || bt.isIsc then (.err 0x12 0, s)
    else
      Acc.bind (s.rdOp w false bt 16) fun h s1 =>
        let n := fieldAt h 0 4
        if n = 0 || 4096 < n then (.err 0x12 0, s1)
        else
          Acc.bind (s1.rdOp w false (bt.plus 16) (32 * n)) fun tab s2 =>
            Acc.bind (State.planCounts w (entries32 n tab) s2) fun counts s3 =>
              let lists := (List.range c).map (workList counts c)
              if lists.any (fun l => decide (stride < 16 + 8 * l.2)) then (.err 0x12 0, s3)
              else
                State.writeAll w
                  ((lists.zipIdx).map (fun l => (wl.plus (stride * l.2), l.1.1)) ++
                   ((counts.zip (startsOf 0 counts)).zipIdx).map (fun e =>
                     (mp.plus (8 * e.2), mergeRec counts.sum c e.1.2 e.1.1))) s3
  | _, _, _ => (.err 0x12 0, s)

/-- `PLAN_REPORT` when it is enabled. The writes of a `PLAN` to scratch have the place of its channel in the order of R144, for the
spec names none for a command core (log 46). -/
def State.tryPlan (s : State) (k : Nat) (ch : Bool) : Option State :=
  let c := s.core k
  let isPlan (m : Cmd) : Bool := m.phase == .handed && (match m.kind with
    | .plan _ => true
    | _ => false)
  match (c.chan ch).cmds.find? isPlan with
  | some m => if c.run && !c.frozen && !c.stopped then s.engineEnd k ch m (s.planGo (s.whoOf k ch m) m.blk) else none
  | none => none

/-- `PLAN_REPORT` (R208). -/
def execPlanReport (core : Nat) (ch : Bool) (s : State) : Res := orSame s (s.tryPlan core ch)

end Sys2Proof.Machine
end

