-- ==== Sys2Proof/Machine/Pmov.lean ====
section
/-! DEFINITION. The accesses of peers to this module's HBM (spec/06_ordering.md R162), and `PMOV` (spec/07_translation.md R182, spec/06_ordering.md R163, spec/15 R378, R379): the checks and the start of a
move, and its end, where the bytes of the page stand at the new home and both leaves are rewritten. -/

namespace Sys2Proof

/-! ### Accesses of peers -/

/-- The address and the length of a flit's access. -/
def Flit.range (f : Flit) : Option (Nat × Nat) :=
  match f with
  | .write a data _ _ => some (a.toNat, data.length)
  | .read a n _ _ => some (a.toNat, n)
  | .atomic a _ _ eight _ _ _ _ => some (a.toNat, if eight then 8 else 4)
  | _ => none

/-- Whether a flit's access reads. -/
def Flit.reads (f : Flit) : Bool :=
  match f with
  | .read _ _ _ _ => true
  | .atomic _ _ _ _ _ _ _ _ => true
  | _ => false

/-- Whether a flit's access is a read-modify-write. -/
def Flit.modifies (f : Flit) : Bool :=
  match f with
  | .atomic _ _ _ _ _ _ _ _ => true
  | _ => false

/-- A flit's access at another address. -/
def Flit.moved (f : Flit) (a : BitVec 41) : Flit :=
  match f with
  | .write _ data peer tag => .write a data peer tag
  | .read _ n peer tag => .read a n peer tag
  | .atomic _ op u eight val cmp peer tag => .atomic a op u eight val cmp peer tag
  | f => f

end Sys2Proof

namespace Sys2Proof.Machine

/-- A peer's read-modify-write of a word performs at its home. -/
def State.peerAtomic (s : State) (key op : Nat) (u eight : Bool) (val cmp : W64) : Nat × State :=
  let n := if eight then 8 else 4
  let old := rdLE s.mem key n
  let new := atomNew (8 * n) op u old (val.toNat % 2 ^ (8 * n)) (cmp.toNat % 2 ^ (8 * n))
  (old, s.store key (leBytes n new))

/-- Whether an access of a peer meets an uncorrectable granule of local HBM, or asks host memory for an operation that it does not
support (R139): it is answered without data. -/
def State.unserved (s : State) (key : Nat) (f : Flit) : Bool :=
  let n := (f.range.map (·.2)).getD 0
  if key < 2 ^ 42 then f.reads && (granules (key - 2 ^ 41) n).any s.hbmBad
  else match f with
    | .atomic _ op _ _ _ _ _ _ => !atomOn op.toNat 2
    | _ => false

/-- An access of a peer performs at a flat key of local HBM or host memory, and is acknowledged (R162); a correctable granule is
counted (R265). -/
def State.serve (s : State) (key : Nat) (f : Flit) : State :=
  let count (n : Nat) : State := if key < 2 ^ 42 then s.hbmCount (granules (key - 2 ^ 41) n) else s
  match f with
  | .write _ data peer tag => (s.store key data).send (.flitReply peer.toNat tag [])
  | .read _ n peer tag =>
    if s.unserved key f then s.send (.flitReply peer.toNat tag []) else (count n).send (.flitReply peer.toNat tag (s.oldBytes key n))
  | .atomic _ op u eight val cmp peer tag =>
    if s.unserved key f then s.send (.flitReply peer.toNat tag [])
    else
      let n := if eight then 8 else 4
      let r := (count n).peerAtomic key op.toNat u eight val cmp
      r.2.send (.flitReply peer.toNat tag (leBytes n r.1))
  | _ => s

/-- An access of a peer goes on to another peer, whose answer this module passes back. -/
def State.relay (s : State) (key : Nat) (f : Flit) : State :=
  let ask (peer : BitVec 10) (tag : Nat) (req : PeerReq) : State := (s.peer ⟨0xFFFF, 0, peer.toNat, tag, rankRelay⟩ key req).2
  match f with
  | .write _ data peer tag => ask peer tag (.write data)
  | .read _ n peer tag => ask peer tag (.read n)
  | .atomic _ op u eight val cmp peer tag => ask peer tag (.atomic op.toNat u eight val cmp)
  | _ => s

/-- Whether an address of local HBM lies in a page that a move has in transit. -/
def State.inTransit (s : State) (pa : Nat) : Bool :=
  s.moves.any (fun m => match s.homeOf (rdLE s.mem (hbmKey m.leafAt) 8) m.log2 0 with
    | .ok key 0 => decide (key ≤ hbmKey pa) && decide (hbmKey pa < key + 2 ^ m.log2)
    | _ => false)

/-- Whether an access of a peer cannot perform now: its page is in transit (R163), or it is atomic and an engine has written there
on this global cycle (R143). -/
def State.flitHeld (s : State) (f : Flit) : Bool :=
  match f.range with
  | some r => s.inTransit r.1 || (f.modifies && s.fresh (hbmKey r.1) r.2)
  | none => false

/-- An access of a peer through a port: the HBM of a die that is clear in `DIEMASK` is not reached (R14, log 14). -/
def State.flitGo (s : State) (p : BitVec 7) (f : Flit) : State :=
  match f.range with
  | some r => if s.reaches (p.toNat / 32) (hbmDie r.1) then s.serve (hbmKey r.1) f else s
  | none => s

/-- An access of a peer as it arrives: it waits where it cannot perform, and behind one of its port that waits, for flits keep
their order (R283). -/
def State.flitIn (s : State) (p : BitVec 7) (f : Flit) : State :=
  if s.flitHeld f || s.flits.any (fun e => e.1 == p) then { s with flits := s.flits ++ [(p, f)] } else s.flitGo p f

/-- The first waiting access of some port that can perform now. -/
def State.flitTurn (s : State) : Option State :=
  (s.flits.find? (fun e => !s.flitHeld e.2 && s.flits.find? (fun x => x.1 == e.1) == some e)).map
    (fun e => State.flitGo { s with flits := s.flits.erase e } e.1 e.2)

/-! ### Moves -/

/-- The bytes of a range moved to another range; the old range reads as before. -/
def memCopy (m : List Host.Cell) (src dst len : Nat) : List Host.Cell :=
  (m.filter (fun e => src ≤ e.1 && e.1 < src + len)).foldl (fun m e => wrByte m (dst + (e.1 - src)) e.2)
    (m.filter (fun e => !(dst ≤ e.1 && e.1 < dst + len)))

/-- The status word of R379: the cause, and SUB of R175 for a fault of translation or of a walk. -/
def pmovWord (cause : Nat) (d : W64) : List Byte :=
  leBytes 8 (cause * 2 ^ 56 + (if cause = 0x20 || cause = 0x21 then bitsOf d.toNat 60 57 else 0) * 2 ^ 52)

/-- A command with a status word is over: its fault, its command. A fault of translation stands in the status word and in TRAPDATA, and
`TFLT.Cn` does not keep it (R175, log 46). -/
def State.pmovDone (s : State) (w : Who) (ch : Bool) (m : Cmd) (f : Option (Nat × W64)) : State :=
  ((match f with
    | some e => s.cmdFault w.core ch m e.1 e.2
    | none => s).endCmd w.core ch m).quit w

/-- The end of a `PMOV`: its status word, its fault, its command. -/
def State.pmovEnd (s : State) (w : Who) (ch : Bool) (m : Cmd) (status : W64) (f : Option (Nat × W64)) : Acc Unit × State :=
  let word := match f with
    | some e => pmovWord e.1 e.2
    | none => pmovWord 0 0
  s.reportEnd ⟨w, status, word, f.map (faultData word)⟩ (fun s f => s.pmovDone w ch m f)

/-- The leaf word on the way of a VA, whatever its form: a leaf with MIG set, or a spare frame that is not aligned, is one of
the cases of R182 and no failed translation. -/
def State.leafFrom (s : State) (va : Nat) : List (Nat × Nat) → Nat → Option (Nat × Nat)
  | [], _ => none
  | (lo, nb) :: more, table =>
    let w := rdLE s.mem (hbmKey (table + 8 * (va / 2 ^ lo % 2 ^ nb))) 8
    if bitOf w 62 then (if lo = 46 then none else some (lo, w)) else State.leafFrom s va more (bitsOf w 45 7 * 2 ^ 7)

/-- The fault of a move for a leaf that is malformed: one of the cases of R182, or a failed translation. -/
def State.moveFault (s : State) (asid va : Nat) (spare : Bool) : Acc (Nat × Nat × Nat) :=
  match s.leafFrom va walkLevels (bitsOf (s.ctxWord asid) 45 13 * 2 ^ 13) with
  | some e =>
    if bitOf e.2 58 || (spare && bitsOf e.2 45 16 * 2 ^ 16 % 2 ^ e.1 != 0) then .err 0x12 0 else .err 0x20 (tfltWord spare 3 va)
  | none => .err 0x20 (tfltWord spare 3 va)

/-- The leaf of a VA for a move: the entry, its size and its word, or a fault. The tables are walked, whatever a TLB holds. -/
def State.moveLeaf (s : State) (die asid va : Nat) (spare : Bool) : Acc (Nat × Nat × Nat) × State :=
  if va < 2 ^ 56 || 2 ^ 57 ≤ va then (.err 0x12 0, s)
  else if s.ctxFresh asid then (.wait, s)
  else match s.ctxFault die asid with
  | some f => (.err f.1 (if f.1 = 0x12 then 0 else tfltWord spare f.2 va), s)
  | none =>
    let r := s.walk die asid va
    let s1 := s.walked die asid r
    match r.res with
    | .far => (.err 0x12 0, s1)
    | .busy => (.wait, s1)
    | .leaf entry log2 w =>
      if s.moving entry || bitOf w.toNat 59 || (spare && !bitOf w.toNat 60) then (.err 0x12 0, s1) else (.ok (entry, log2, w.toNat), s1)
    | .sub 6 => (.err 0x21 (tfltWord spare 6 va), s1)
    | .sub 1 => (if spare then .err 0x12 0 else .err 0x20 (tfltWord spare 1 va), s1)
    | .sub 3 => (s.moveFault asid va spare, s1)
    | .sub n => (.err 0x20 (tfltWord spare n va), s1)

/-- Sets or clears MIG in an entry, for a die. -/
def State.setMig (s : State) (die entry : Nat) (on : Bool) : State :=
  let w := rdLE s.mem (hbmKey entry) 8
  s.storeFor die entry (leBytes 8 (w / 2 ^ 59 * 2 ^ 59 + on.toNat * 2 ^ 58 + w % 2 ^ 58))

/-- Whether a running stack program accesses, through the base that its launch translated, the page of an address: the start of
a move waits for it, for no access performs at the old home after the start (R163). -/
def State.lanesIn (s : State) (asid va log2 : Nat) : Bool :=
  s.laneUses (fun a => a == asid) (fun b l => decide (b / 2 ^ l * 2 ^ l < va / 2 ^ log2 * 2 ^ log2 + 2 ^ log2) &&
    decide (va / 2 ^ log2 * 2 ^ log2 < b / 2 ^ l * 2 ^ l + 2 ^ l))

/-- Whether an access to a page in a peer's HBM has gone out and its agent has not taken the answer yet: the start of a move waits
for it, for after the move the agent would ask again at the new home (R163). -/
def State.peerBusy (s : State) (w log2 : Nat) : Bool :=
  match s.homeOf w log2 0 with
  | .ok key 1 => s.fab.any (fun f => f.req.isAccess && decide (key ≤ f.place) && decide (f.place < key + 2 ^ log2))
  | _ => false

/-- The start of a move: the checks of R378, and MIG in both leaves. -/
def State.pmovStart (s : State) (w : Who) (ch : Bool) (m : Cmd) (va spare status : W64) : Acc Unit × State :=
  let stop (c : Nat) (d : W64) (s : State) : Acc Unit × State := s.pmovEnd w ch m status (some (c, d))
  Acc.catch (s.moveLeaf w.die w.asid va.toNat false) (g := stop) fun a s1 =>
    Acc.catch (s1.moveLeaf w.die w.asid spare.toNat true) (g := stop) fun b s2 =>
      if a.1 = b.1 || a.2.1 != b.2.1 then stop 0x12 0 s2
      else if s2.lanesIn w.asid va.toNat a.2.1 || s2.lanesIn w.asid spare.toNat b.2.1 || s2.peerBusy a.2.2 a.2.1 ||
        s2.peerBusy b.2.2 b.2.1 then (.wait, s2)
      else
        let x : Move := ⟨w.core, ch, m.uid, w.asid, va.toNat, spare.toNat, a.2.1, a.1, b.1, status⟩
        let s3 : State := { (s2.setMig w.die a.1 true).setMig w.die b.1 true with moves := s2.moves ++ [x] }
        (.ok (), s3.onCore w.core (fun c => c.onCmd ch m.uid (fun x => { x with phase := .handed })))

/-- The base of the page that a leaf names, as a die reaches it: its flat key and tier, or a fault. -/
def State.pageHome (s : State) (die w log2 : Nat) : Xl := s.reach die (s.homeOf w log2 0)

/-- The granules of a page in local HBM with an error mark: uncorrectable ones, or correctable ones. -/
def State.errsIn (s : State) (tier key len : Nat) (bad : Bool) : List Nat :=
  if tier = 0 then
    (s.errs.filter (fun e => e.kind == 6 && e.bad == bad && decide (key ≤ 2 ^ 41 + e.unit * 2 ^ 36 + e.idx * 32) &&
      decide (2 ^ 41 + e.unit * 2 ^ 36 + e.idx * 32 < key + len))).map (fun e => e.unit * 2 ^ 36 + e.idx * 32)
  else []

/-- The content of a page at its new home. A peer's page is read, or written, by one access there (R162, log 15); an answer
without data is an uncorrectable error. -/
def State.pageCopy (s : State) (w : Who) (src t dst u len : Nat) : Acc Bool × State :=
  let bytes : Acc (List Byte) × State := if t = 1 then s.peer w src (.read len) else (.ok [], s)
  Acc.bind bytes fun bs s1 =>
    if t = 1 && bs.isEmpty then (.ok false, s1)
    else if u = 1 then
      Acc.bind (s1.peer w dst (.write (if t = 1 then bs else (List.range len).map (fun i => rdByte s1.mem (src + i))))) fun _ s2 =>
        (.ok true, s2)
    else (.ok true, { s1 with mem := if t = 1 then wrBytes s1.mem dst bs else memCopy s1.mem src dst len })

/-- A move that stops: both leaves keep their homes, with MIG clear. -/
def State.moveOff (s : State) (x : Move) : State :=
  { (s.setMig (dieOf x.core) x.leafAt false).setMig (dieOf x.core) x.spareAt false with moves := s.moves.filter (fun y => y.uid != x.uid) }

/-- A move that an uncorrectable error in HBM stops, at an offset in the page (R182, R260). -/
def State.moveBad (s : State) (w : Who) (m : Cmd) (x : Move) (off pa : Nat) : Acc Unit × State :=
  let va := x.va / 2 ^ x.log2 * 2 ^ x.log2 + off
  ((s.moveOff x).poison w.die x.asid va pa).pmovEnd w x.chan m x.status (some (if s.inWeights x.asid va then 0x25 else 0x18, 0))

/-- The accesses of peers that waited for a page in transit, at its new home (R163): in local HBM they go on from there, in host
memory they perform, and to another peer they are passed on. -/
def State.rehome (s : State) (old new tier len : Nat) : State :=
  let one (s : State) (e : BitVec 7 × Flit) : State :=
    match e.2.range with
    | none => { s with flits := s.flits ++ [e] }
    | some r =>
      let off := hbmKey r.1 - old
      if hbmKey r.1 < old || old + len ≤ hbmKey r.1 then { s with flits := s.flits ++ [e] }
      else match tier with
        | 0 => { s with flits := s.flits ++ [(e.1, e.2.moved (BitVec.ofNat 41 (new + off)))] }
        | 1 => s.relay (new + off) e.2
        | _ => s.serve (new + off) e.2
  s.flits.foldl one { s with flits := [] }

/-- Both leaves after the copy: the homes change places, the spare leaf has V clear, and both pages leave every TLB. -/
def State.moveMap (s : State) (x : Move) (a b : Nat) : State :=
  let hi (w : Nat) : Nat := w / 2 ^ 59 * 2 ^ 59
  let home (w : Nat) : Nat := w % 2 ^ 58 / 2 ^ 16 * 2 ^ 16
  let s1 := (s.store (hbmKey x.leafAt) (leBytes 8 (hi a + home b + a % 2 ^ 16))).store (hbmKey x.spareAt)
    (leBytes 8 (hi b % 2 ^ 63 + home a + b % 2 ^ 16))
  { s1 with moves := s1.moves.filter (fun y => y.uid != x.uid) }.tlbDrop (fun t => t.entry == x.leafAt || t.entry == x.spareAt)

/-- The end of a move (R379): the bytes at the new home, both leaves, both pages out of every TLB, MIG clear. A move whose leaves
lie in HBM that its core no longer reaches ends with `ADDRESS` (R14, log 14). -/
def State.pmovGo (s : State) (w : Who) (m : Cmd) (x : Move) : Acc Unit × State :=
  let a := rdLE s.mem (hbmKey x.leafAt) 8
  let b := rdLE s.mem (hbmKey x.spareAt) 8
  let fail (c sub va : Nat) (wr : Bool) : Acc Unit × State :=
    (s.moveOff x).pmovEnd w x.chan m x.status (some (c, if c = 0x20 then tfltWord wr sub va else 0))
  if !s.reaches w.die (hbmDie x.leafAt) || !s.reaches w.die (hbmDie x.spareAt) then fail 0x12 0 x.va false
  else match s.pageHome w.die a x.log2, s.pageHome w.die b x.log2 with
  | .ok src t, .ok dst u =>
    match s.errsIn t src (2 ^ x.log2) true with
    | pa :: _ => s.moveBad w m x (hbmKey pa - src) pa
    | [] =>
      Acc.bind (s.pageCopy w src t dst u (2 ^ x.log2)) fun sound s1 =>
        if sound then
          let s2 := (s1.hbmCount (s1.errsIn t src (2 ^ x.log2) false)).moveMap x a b
          (if t = 0 then s2.rehome src dst u (2 ^ x.log2) else s2).pmovEnd w x.chan m x.status none
        else s1.moveBad w m x 0 ((src - 2 ^ 70) % 2 ^ 46)
  | .err c sub, _ => fail c sub x.va false
  | _, .err c sub => fail c sub x.spare true
  | _, _ => (.wait, s)

/-- The report of a move whose pages have changed places. -/
def State.pmovReport (s : State) (k : Nat) (ch : Bool) : Option State :=
  ((s.core k).chan ch).cmds.findSome? (fun m => match m.kind, m.phase, s.dueOf (s.whoOf k ch m) with
    | .pmov _ _ _, .handed, some r => (match s.reportEnd r (fun s f => s.pmovDone r.who ch m f) with
      | (.wait, s1) => s.waited s1
      | (_, s1) => some s1)
    | _, _, _ => none)

/-- `PMOV_COMPLETE` when it is enabled. -/
def State.tryPmov (s : State) (k : Nat) (ch : Bool) : Option State :=
  match s.moves.find? (fun x => x.core == k && x.chan == ch) with
  | none => s.pmovReport k ch
  | some x =>
    match ((s.core k).chan ch).cmds.find? (fun m => m.uid == x.uid) with
    | none => some (s.moveOff x)
    | some m =>
      match s.pmovGo (s.whoOf k ch m) m x with
      | (.wait, s1) => s.waited s1
      | (_, s1) => some s1

/-- `PMOV_COMPLETE` (R182, R379). -/
def execPmovComplete (core : Nat) (ch : Bool) (s : State) : Res := orSame s (s.tryPmov core ch)

end Sys2Proof.Machine
end

