-- ==== Sys2Proof/Machine/Collect.lean ====
section
/-! DEFINITION. The collective engines (spec/12_host.md R285, spec/04_numbers.md R104, spec/14 R328, R329): the block and the
team descriptor, the exchange of contributions, the sums, and the report. -/

namespace Sys2Proof.Machine

/-! ### Taking a collective (R329) -/

/-- The formats of R285. -/
def collFmt (f : Nat) : Bool := f == 0 || f == 1 || f == 2 || f == 8

/-- An entry of a team descriptor: module, die, engine. -/
def teamEnt (b : List Byte) (r : Nat) : Nat × Nat × Nat :=
  let w := fieldAt b (16 + 8 * r) 8
  (bitsOf w 9 0, bitsOf w 11 10, bitsOf w 14 12)

/-- Whether a team descriptor and a collective block obey their ranges (R285, R328). -/
def collOk (blk team : List Byte) : Bool :=
  let n := fieldAt team 0 2
  let count := fieldAt blk 0x18 8
  let opr := fieldAt blk 0x28 8
  decide (1 ≤ n) && decide (n ≤ 4096) && decide (fieldAt team 2 2 < n) && decide (fieldAt team 4 1 ≤ 3) &&
  collFmt (fieldAt team 5 1) && collFmt (fieldAt team 6 1) && fieldAt team 7 9 == 0 &&
  (List.range n).all (fun r => decide (fieldAt team (16 + 8 * r) 8 < 2 ^ 15)) &&
  decide (1 ≤ count) && decide (count ≤ 2 ^ 28) && opr % 2 ^ 8 / 4 == 0 && decide (opr < 2 ^ 16) &&
  (bitsOf opr 1 0 != 3 || decide (bitsOf opr 15 8 < n))

/-- The collective of a block and a team descriptor, apart from where it comes from. -/
def Coll.make (blk team : List Byte) : Coll :=
  let opr := fieldAt blk 0x28 8
  { core := none, depth := 0, slot := 0, baddr := 0, iss := 0, strm := none, inst := 0, asid := 0, nrank := fieldAt team 0 2
    myrank := fieldAt team 2 2, cls := fieldAt team 4 1, fmt := fieldAt team 5 1, outfmt := fieldAt team 6 1
    ranks := (List.range (fieldAt team 0 2)).map (teamEnt team), send := BitVec.ofNat 64 (fieldAt blk 8 8)
    recv := BitVec.ofNat 64 (fieldAt blk 0x10 8), status := BitVec.ofNat 64 (fieldAt blk 0x20 8), count := fieldAt blk 0x18 8
    op := bitsOf opr 1 0, root := bitsOf opr 15 8, sent := false }

/-- Whether a collective's operands are operand addresses; instruction scratch is a destination only (R314, R331). -/
def Coll.operandsOk (x : Coll) (self : Nat) : Bool :=
  opndOk self x.send 1 && dstIn self x.recv 1 (collSz x.outfmt * x.recvN) && dstIn self x.status 1 8

/-- Reads the team descriptor that a block names, and makes the collective. -/
def State.collRead (s : State) (w : Who) (own : Bool) (blk : List Byte) : Acc Coll × State :=
  match opndOf w.core (BitVec.ofNat 64 (fieldAt blk 0 8)) with
  | none => (.err 0x12 0, s)
  | some o =>
    Acc.bind (s.rdOp w own o 16) fun h s1 =>
      let n := fieldAt h 0 2
      if n = 0 || 4096 < n then (.err 0x12 0, s1)
      else
        Acc.bind (s1.rdOp w own o (16 + 8 * n)) fun team s2 =>
          let x := Coll.make blk team
          if collOk blk team && x.operandsOk w.core then (.ok x, s2) else (.err 0x12 0, s2)

/-- The engine that entry MYRANK names. -/
def Coll.home (x : Coll) : Nat × Nat × Nat := x.ranks.getD x.myrank (0, 0, 0)

/-- The queue of an engine. -/
def State.collQ (s : State) (die eng : Nat) : List Coll := Sparse.get [] (s.die die).coll eng

/-- Replaces the queue of an engine. -/
def State.setCollQ (s : State) (die eng : Nat) (q : List Coll) : State :=
  s.onDie die (fun d => { d with coll := Sparse.set [] d.coll eng q })

/-- The engine takes a collective: `ADDRESS` where MYRANK's entry is not here, or is an engine of a die that the asking one does
not reach (R14), `TIMING` where 16 wait (R329). `die` is that of the core that issued it, or of a stream's port. -/
def State.collTake (s : State) (die : Nat) (x : Coll) : Acc Unit × State :=
  let h := x.home
  if h.1 != s.mymod || (x.core.isSome && die != h.2.1) || !s.reaches die h.2.1 then (.err 0x12 0, s)
  else if 16 ≤ (s.collQ h.2.1 h.2.2).length then (.err 0x11 0, s)
  else (.ok (), s.setCollQ h.2.1 h.2.2 (s.collQ h.2.1 h.2.2 ++ [x]))

/-! ### Sums (R104) -/

/-- Element `i` of a byte list. -/
def elemAt (sz : Nat) (b : List Byte) (i : Nat) : Nat := fieldAt b (sz * i) sz

/-- A value in the output format, by one rounding to nearest even (R104); to INT32 and from INT32 by R91. -/
def collOut (outfmt : Nat) (v : Fp) : Nat :=
  if outfmt = 8 then v.toInt 32 false false else (Fmt.ofTy outfmt).narrow false false v

/-- The sum of one element over the ranks, in the output format. -/
def collSum (fmt outfmt : Nat) (l : List Nat) : Nat :=
  if fmt = 8 then (if outfmt = 8 then l.sum % 2 ^ 32 else collOut outfmt (Fp.int (rdInt 32 false (l.sum % 2 ^ 32))))
  else
    let f := Fmt.ofTy fmt
    match l with
    | [] => 0
    | c :: cs => collOut outfmt (cs.foldl (fun a b => d32 (r32 (a.add (f.decode b)))) (f.decode c))

/-- The result bytes of a rank from all contributions (R285). -/
def Coll.result (x : Coll) (cs : List (List Byte)) : List Byte :=
  let sz := collSz x.fmt
  let osz := collSz x.outfmt
  let one (l : List Nat) : List Byte := leBytes osz (collSum x.fmt x.outfmt l)
  let pass (b : List Byte) : List Byte :=
    if x.fmt = x.outfmt then b.take (sz * x.count) else (List.range x.count).flatMap (fun i => one [elemAt sz b i])
  match x.op with
  | 0 => (List.range x.count).flatMap (fun i => one (cs.map (fun c => elemAt sz c i)))
  | 1 => (List.range x.count).flatMap (fun i => one (cs.map (fun c => elemAt sz c (x.myrank * x.count + i))))
  | 2 => cs.flatMap pass
  | _ => pass (cs.getD x.root [])

/-! ### The exchange -/

/-- What ranks exchange before any data, as 16 bytes in front of a contribution (log 8). -/
def Coll.header (x : Coll) : List Byte :=
  leBytes 1 x.op ++ leBytes 1 x.fmt ++ leBytes 1 x.outfmt ++ leBytes 1 0 ++ leBytes 4 x.root ++ leBytes 8 x.count

/-- The die of a collective's agent: that of its core, or of its stream's port. -/
def Coll.die (x : Coll) : Nat :=
  match x.core, x.strm with
  | some k, _ => dieOf k
  | none, some (true, _, _) => 3
  | _, _ => 0

/-- A number for the operation of a collective that no other operation of its agent has: its stream's record, or the issue cycle
and channel of its command. -/
def Coll.tag (x : Coll) : Nat :=
  match x.strm with
  | some (p, n, q) => 2 ^ 41 + (q.toNat * 1024 + 2 * n + p.toNat)
  | none => 2 ^ 41 + (2 * x.iss + x.slot % 2)

/-- The agent of a collective: its core, or a stream. -/
def Coll.who (x : Coll) : Who := ⟨x.core.getD 0xFFFF, x.die, x.asid, x.tag, rankColl⟩

/-- Two entries of one team. -/
def Coll.sameTeam (x y : Coll) : Bool := x.nrank == y.nrank && x.ranks == y.ranks

/-- How many collectives of a team are over at a rank. -/
def State.teamDone (s : State) (ranks : List (Nat × Nat × Nat)) (r : Nat) : Nat :=
  ((s.teams.find? (fun t => t.ranks == ranks && t.rank == r)).map (·.done)).getD 0

/-- One more collective of a team is over at a rank. -/
def State.teamStep (s : State) (ranks : List (Nat × Nat × Nat)) (r : Nat) : State :=
  { s with teams := ⟨ranks, r, s.teamDone ranks r + 1⟩ :: s.teams.filter (fun t => !(t.ranks == ranks && t.rank == r)) }

/-- The number of a rank's oldest collective of a team: each rank's first is that of the team's first (log 26). -/
def State.collNth (s : State) (x : Coll) : Nat := s.teamDone x.ranks x.myrank

/-- The oldest entry of a rank of a team on this module. -/
def State.rankFirst (s : State) (x : Coll) (r : Nat) : Option Coll :=
  let h := x.ranks.getD r (0, 0, 0)
  if h.1 = s.mymod then (s.collQ h.2.1 h.2.2).find? (fun y => x.sameTeam y && y.myrank == r) else none

/-- The entry of a local rank for the collective that an entry stands for: one of the same number. -/
def State.rankHere (s : State) (x : Coll) (r : Nat) : Option Coll :=
  if s.teamDone x.ranks r = s.collNth x then s.rankFirst x r else none

/-- Whether a contribution that has arrived is that of a rank for this entry of its team, whose number is `n`. -/
def Coll.takes (x : Coll) (n r : Nat) (c : Contrib) : Bool :=
  c.ranks == x.ranks && c.dst == x.myrank && c.src == r && c.nth == n

/-- The contribution of a rank of another module, as it arrived for an entry. -/
def State.rankThere (s : State) (x : Coll) (r : Nat) : Option (List Byte) :=
  (s.collrx.find? (x.takes (s.collNth x) r)).map (·.data)

/-- Whether a contribution is for a collective that is over at its rank. -/
def State.collStale (s : State) (c : Contrib) : Bool := decide (c.nth < s.teamDone c.ranks c.dst)

/-- Ranks of a team on other modules. -/
def State.farRanks (s : State) (x : Coll) : List Nat :=
  (List.range x.nrank).filter (fun r => (x.ranks.getD r (0, 0, 0)).1 != s.mymod)

/-- Ranks of a team on this module. -/
def State.nearRanks (s : State) (x : Coll) : List Nat :=
  (List.range x.nrank).filter (fun r => (x.ranks.getD r (0, 0, 0)).1 == s.mymod)

/-- Reads the contribution of an entry. -/
def State.contrib (s : State) (x : Coll) : Acc (List Byte) × State :=
  if x.sendN = 0 then (.ok [], s)
  else
    match opndOf x.who.core x.send with
    | some o => s.rdOp x.who true o (collSz x.fmt * x.sendN)
    | none => (.err 0x12 0, s)

/-- The dies of a team's engines on this module. -/
def State.nearDies (s : State) (x : Coll) : List Nat := ((s.nearRanks x).map (fun r => (x.ranks.getD r (0, 0, 0)).2.1)).eraseDups

/-- Whether what a collective needs is in reach: a route to other modules, and every die of its engines from every other, for each
gives and takes (R14, R283). -/
def State.collReach (s : State) (x : Coll) : Bool :=
  ((s.farRanks x).isEmpty || s.routed) &&
  (s.nearDies x).all (fun a => (s.nearDies x).all (fun b => s.reaches a b))

/-- Marks a stream's collective as reported. -/
def SCmd.collDone (c : SCmd) (q : W32) : SCmd :=
  match c.kind with
  | .coll _ => if c.seq = q then { c with kind := .coll true } else c
  | _ => c

/-- A collective is over at its rank: it leaves its engine with what has come for it, and what comes for it later is dropped; then
the fault of the core that issued it, or the end of the stream's command. -/
def State.collDone (s : State) (x : Coll) (f : Option (Nat × W64)) : State :=
  let s1 := (s.quit x.who).setCollQ x.home.2.1 x.home.2.2 ((s.collQ x.home.2.1 x.home.2.2).erase x)
  let s3 := s1.teamStep x.ranks x.myrank
  let s2 := { s3 with collrx := s3.collrx.filter (fun c => !s3.collStale c) }
  match x.core, f with
  | some k, some e => s2.onCore k (fun c => c.engFault x.slot e.1 (accSub e.1 e.2) e.2 x.baddr x.depth)
  | some _, none => s2
  | none, _ => match x.strm with
    | some (p, n, q) => s2.onStrm p n (fun t => { t with fly := t.fly.map (SCmd.collDone · q) })
    | none => s2

/-- The end of a collective at its rank: the status word, then the fault of the core that issued it or the end of the
stream's command. -/
def State.collEnd (s : State) (x : Coll) (f : Option (Nat × W64)) : Acc Unit × State :=
  let word := pgftWord ((f.map (·.1)).getD 0) 0 (if f.isNone then x.count else 0)
  s.reportEnd ⟨x.who, x.status, word, f.map (faultData word)⟩ (fun s f => s.collDone x f)

/-- The contributions of all ranks in rank order with their headers; the first rank whose read faults stops there. -/
def State.collGather (x : Coll) : List Nat → State → Acc (List (List Byte × List Byte)) × State × Option Coll
  | [], s => (.ok [], s, none)
  | r :: rs, s =>
    match s.rankThere x r, s.rankHere x r with
    | _, some y =>
      match s.contrib y with
      | (.ok b, s1) =>
        match State.collGather x rs s1 with
        | (.ok l, s2) => (.ok ((y.header, b) :: l), s2)
        | r => r
      | (.err c d, s1) => (.err c d, s1, some y)
      | (.wait, s1) => (.wait, s1, none)
    | some b, none =>
      match State.collGather x rs s with
      | (.ok l, s2) => (.ok ((b.take 16, b.drop 16) :: l), s2)
      | r => r
    | none, none => (.wait, s, none)

/-- Writes the results of the local ranks and reports them. -/
def State.collWrite (cs : List (List Byte)) : List Coll → State → Acc Unit × State
  | [], s => (.ok (), s)
  | y :: ys, s =>
    let r := match opndOf y.who.core y.recv with
      | some o => s.wrOp y.who true o (y.result cs)
      | none => (.err 0x12 0, s)
    match r with
    | (.wait, s1) => (.wait, s1)
    | (.ok _, s1) => Acc.bind (s1.collEnd y none) fun _ s2 => State.collWrite cs ys s2
    | (.err c d, s1) => Acc.bind (s1.collEnd y (some (c, d))) fun _ s2 => State.collWrite cs ys s2

/-- Ends some entries with a fault. -/
def State.collFail (c : Nat) : List Coll → State → Acc Unit × State
  | [], s => (.ok (), s)
  | y :: ys, s => Acc.bind (s.collEnd y (some (c, 0))) fun _ s1 => State.collFail c ys s1

/-- The contribution of an entry goes to the ranks on other modules, each of which acknowledges it (R54). -/
def State.collSend (s : State) (x : Coll) (b : List Byte) : State :=
  (s.farRanks x).foldl (fun s r =>
    (s.peer x.who (peerKey (x.ranks.getD r (0, 0, 0)).1 0) (.coll ⟨x.ranks, x.myrank, r, s.collNth x, x.header ++ b⟩)).2) s

/-- Whether every acknowledgement of an entry's contribution has come: it reports only then (R54, R151). -/
def State.collAcked (s : State) (x : Coll) : Bool :=
  s.fab.all (fun f => f.who != x.who || f.req.isAccess || f.reply.isSome)

/-- One step of an entry, unless its report is due: its contribution goes to other modules; or, with every contribution there
and its own acknowledged, the team's local ranks receive their results and report. The oldest entry of a rank goes first. -/
def State.collGo (s : State) (die eng : Nat) (x : Coll) : Acc Unit × State :=
  match s.dueOf x.who with
  | some r => s.reportEnd r (fun s f => s.collDone x f)
  | none =>
  if s.rankFirst x x.myrank != some x then (.wait, s)
  else if !s.collReach x then s.collEnd x (some (0x12, 0))
  else if !(s.farRanks x).isEmpty && !x.sent then
    match s.contrib x with
    | (.wait, s1) => (.wait, s1)
    | (.err c d, s1) => s1.collEnd x (some (c, d))
    | (.ok b, s1) =>
      let s2 := s1.setCollQ die eng ((s1.collQ die eng).map (fun y => if y = x then { y with sent := true } else y))
      (.ok (), s2.collSend x b)
  else
    let near := (s.nearRanks x).filterMap (s.rankHere x)
    if near.length != (s.nearRanks x).length || near.any (fun y => !(s.farRanks x).isEmpty && (!y.sent || !s.collAcked y)) then (.wait, s)
    else if near.any (fun y => y.header != x.header) then State.collFail 0x12 near s
    else
      match State.collGather x (List.range x.nrank) s with
      | (.wait, s1, _) => (.wait, s1)
      | (.err c d, s1, y) => s1.collEnd (y.getD x) (some (c, d))
      | (.ok l, s1, _) =>
        if l.all (fun e => e.1 == x.header) then State.collWrite (l.map (·.2)) near s1
        else State.collFail 0x12 near s1

/-- Tries the entries of a queue in order. -/
def State.tryColls (s : State) (die eng : Nat) : List Coll → Option State
  | [] => none
  | x :: l =>
    match s.collGo die eng x with
    | (.wait, s1) => match s.waited s1 with
      | some s2 => some s2
      | none => State.tryColls s die eng l
    | (_, s1) => some s1

/-- `COLLECTIVE_REPORT` when it is enabled. -/
def State.tryColl (s : State) (die eng : Nat) : Option State := s.tryColls die eng (s.collQ die eng)

/-- `COLLECTIVE_REPORT` (R285). -/
def execCollectiveReport (die eng : Nat) (s : State) : Res := orSame s (s.tryColl die eng)

end Sys2Proof.Machine
end

