-- ==== Sys2Proof/Machine/StackLane.lean ====
section
/-! DEFINITION. Stack engine lanes (spec/10_stack.md R232 to R245; spec/14 R341, R351 to R356): the launch descriptor, the
words, their reads and landings, refresh, the end of a program and its status word. The lane that issues is `klane`, and the
base-die cycle is `glob` (R233). -/

namespace Sys2Proof.Machine

/-! ### Lanes -/

/-- The lane that issues. -/
def State.kl (s : State) : Lane := s.laneAt s.klane

/-- Refresh phase of a base-die cycle, with the PHASE of a power-up (R244). -/
def refPhase (e n : Nat) : Nat := (n + 3900 - Config.refreshPhase e % 3900) % 3900

/-- Whether an occupancy of `n` cycles from `t` overlaps a refresh window of 240 cycles. -/
def hitsWindow (e t n : Nat) : Bool := n != 0 && (decide (refPhase e t < 240) || decide (3900 < refPhase e t + n))

/-- The engine side of a lane. -/
def Lane.who (l : Lane) : Who := ⟨l.core, dieOf l.core, l.asid, 2 ^ 40 + (2 * l.iss + l.slot % 2), rankStack⟩

/-- Aborts the program of a lane (R243): the results of earlier words land, those of the faulting word do not. -/
def Lane.abort (l : Lane) (cause t : Nat) : Lane :=
  { l with phase := .ending cause, discard := true, cycles := t + 1 - l.t0, pend := l.pend.filter (fun p => p.iss != t) }

/-- A word that has issued on `t`: it occupies the lane for `occ` cycles, and the next word follows after WAIT (R237). -/
def Lane.issued (l : Lane) (t occ : Nat) (w : BitVec 8) : Lane :=
  { l with word := l.idx, idx := l.idx + 1, next := t + occ + w.toNat }

/-- The address of `n` bytes at an offset from a base, when they lie within it (R352). -/
def Lane.at? (l : Lane) (base : BitVec 2) (off n : Nat) : Option Nat :=
  if n != 0 && off + n ≤ l.len.getD base.toNat 0 then some (l.base.getD base.toNat 0 + off) else none

/-- The bytes of HBM from a physical address, as they stood before the writes of this cycle (R237, R143). -/
def State.hbmBytes (s : State) (pa n : Nat) : List Byte := s.oldBytes (hbmKey pa) n

/-- A lane's read of `n` bytes at an offset from a base: where they lie, or the cause with which the program aborts. An
uncorrectable granule poisons its page, as any read of HBM does (R260); a correctable one is counted (R265). -/
def State.laneRead (s : State) (l : Lane) (base : BitVec 2) (off n : Nat) : Sum Nat Nat × State :=
  match l.at? base off n with
  | none => (.inl 0x12, s)
  | some pa =>
    let gs := granules pa n
    match gs.find? s.hbmBad with
    | none => (.inr pa, s.hbmCount gs)
    | some g =>
      let va := (l.bva.getD base.toNat (0, 0)).1 + off + (max g pa - pa)
      (.inl (if s.inWeights l.asid va then 0x25 else 0x18), s.poison (dieOf l.core) l.asid va g)

/-- A word: what it does to its lane, or the cause with which its program aborts. A lock-step word that overlaps a window is
not issued (R244). -/
def State.kword (s : State) (w : BitVec 8) (occ : Nat) (lockstep : Bool) (r : Sum Nat Lane) : Res :=
  let t := s.glob
  if lockstep && hitsWindow s.epoch t occ then
    .next (s.onLane s.klane (fun l => l.abort 0x23 t))
  else
    match r with
    | .inl cause => .next (s.onLane s.klane (fun l => { l with word := l.idx }.abort cause t))
    | .inr l => .next (s.onLane s.klane (fun _ =>
        let l1 := l.issued t occ w
        if lockstep then { l1 with lock := t + occ, lockIss := t, undo := [] } else l1))

/-- A lock-step word that reads HBM; one that is not issued reads nothing. -/
def State.klock (s : State) (w : BitVec 8) (occ : Nat) (r : Sum Nat Lane × State) : Res :=
  if hitsWindow s.epoch s.glob occ then s.kword w occ true r.1 else r.2.kword w occ true r.1

/-- Adds reads and landings of a word that issues on `t`. -/
def Lane.add (l : Lane) (t : Nat) (es : List (Nat × KEff)) : Lane :=
  { l with pend := l.pend ++ es.map (fun e => ⟨t + e.1, t, e.2⟩) }

/-- One byte of the activation buffer. -/
def Lane.bufAt (l : Lane) (k : Nat) : Byte := Sparse.get 0 l.buf (k % 4096)

/-- `n` bytes of the buffer. -/
def Lane.bufBytes (l : Lane) (k n : Nat) : List Byte := (List.range n).map (fun i => l.bufAt (k + i))

/-- Writes bytes into the buffer. -/
def Lane.putBuf (l : Lane) : Nat → List Byte → Lane
  | _, [] => l
  | k, b :: bs => Lane.putBuf { l with buf := Sparse.set 0 l.buf (k % 4096) b } (k + 1) bs

/-- Writes accumulators from `j` up. -/
def Lane.putAccs (l : Lane) : Nat → List W32 → Lane
  | _, [] => l
  | j, v :: vs => Lane.putAccs { l with acc := Sparse.set 0 l.acc (j % 512) v } (j + 1) vs

/-- All 512 accumulators. -/
def Lane.accList (l : Lane) : List W32 := (List.range 512).map (fun j => Sparse.get 0 l.acc j)

/-! ### The words (R351 to R356) -/

/-- `KNOP`. -/
def execKnop (w : BitVec 8) (s : State) : Res := s.kword w 1 false (.inr s.kl)

/-- Reads rows of the scratch window, from window row `r` on. -/
def State.windowRows (s : State) (l : Lane) : Nat → Nat → Acc (List (List Byte)) × State
  | _, 0 => (.ok [], s)
  | r, n + 1 =>
    Acc.bind (s.rdOp l.who true (.scr (l.sbase / 2 ^ 18) (l.sbase % 2 ^ 18 + 64 * r)) 64) fun b s1 =>
      Acc.bind (State.windowRows s1 l (r + 1) n) fun bs s2 => (.ok (b :: bs), s2)

/-- Free choices, one for each of `n` things (log 8). -/
def State.chooseN : Nat → State → List Nat × State
  | 0, s => ([], s)
  | n + 1, s =>
    let r := State.chooseN n s.choose.2
    (s.choose.1 :: r.1, r.2)

/-- Free choices made ascending: each is at least the one before it. -/
def rising : Nat → List Nat → List Nat
  | _, [] => []
  | m, n :: l => max m n :: rising (max m n) l

/-- `KACT` (R353): the rows land in ascending order, each on its own arrival, on a cycle that the mesh decides, and the word occupies
the lane until the last one has arrived (log 8). -/
def execKact (w : BitVec 8) (wrow : BitVec 12) (n1 brow : BitVec 6) (s : State) : Res :=
  let l := s.kl
  let n := n1.toNat + 1
  if l.slen < 64 * (wrow.toNat + n) then s.kword w 1 false (.inl 0x12)
  else
    match s.windowRows l wrow.toNat n with
    | (.ok rows, s1) =>
      let ch := State.chooseN n s1
      let land := rising 0 ch.1
      ch.2.kword w (land.getLastD 0 + 1) false (.inr (l.add s.glob ((rows.zip land).zipIdx.map (fun r =>
        (r.1.2, .buf (64 * ((brow.toNat + r.2) % 64)) r.1.1)))))
    | (.err c _, s1) => s1.kword w 1 false (.inl c)
    | (.wait, s1) => .next s1

/-- `KRD` (R353): row k is read on t + k and lands on t + k + 16. -/
def execKrd (w : BitVec 8) (r : KRow) (brow : BitVec 4) (s : State) : Res :=
  let l := s.kl
  let n := r.n1.toNat + 1
  if 16 < n then s.kword w n false (.inl 0x01)
  else
    match s.laneRead l r.base (256 * r.off.toNat) (256 * n) with
    | (.inr pa, s1) => s.klock w n (.inr (l.add s.glob ((List.range n).map (fun k =>
        (k, .rdBuf (pa + 256 * k) (256 * ((brow.toNat + k) % 16)))))), s1)
    | (.inl c, s1) => s.klock w n (.inl c, s1)

/-- `KWR` (R353): row k is read on t + k and performs on t + k + 16. -/
def execKwr (w : BitVec 8) (r : KRow) (brow : BitVec 4) (s : State) : Res :=
  let l := s.kl
  let n := r.n1.toNat + 1
  match if n ≤ 16 then l.at? r.base (256 * r.off.toNat) (256 * n) else none with
  | some pa =>
    s.kword w n true (.inr (l.add s.glob ((List.range n).map (fun k =>
      (k, .rdOut (256 * ((brow.toNat + k) % 16)) (pa + 256 * k))))))
  | none => s.kword w n (decide (n ≤ 16)) (.inl (if n ≤ 16 then 0x12 else 0x01))

/-- `KPRE` (R356): the following word issues WAIT cycles after the next cycle of a refresh phase. -/
def execKpre (w : BitVec 8) (ph : BitVec 12) (s : State) : Res :=
  if 3900 ≤ ph.toNat then s.kword w 1 false (.inl 0x01)
  else
    let d := (ph.toNat + 3900 - refPhase s.epoch s.glob) % 3900
    s.kword w (if d = 0 then 3900 else d) false (.inr s.kl)

/-- `KMAC8` and `KMAC4` (R238, R354): `first` is the first accumulator. -/
def State.kmac (s : State) (w : BitVec 8) (r : KRow) (four : Bool) (first : Nat) (k0 : BitVec 12) : Res :=
  let l := s.kl
  let n := r.n1.toNat + 1
  match s.laneRead l r.base (256 * r.off.toNat) (256 * n) with
  | (.inr pa, s1) => s.klock w n (.inr ({ l with acclive := true }.add s.glob ((List.range n).map (fun k =>
      (k, .rdMac (pa + 256 * k) first four (k0.toNat + k))))), s1)
  | (.inl c, s1) => s.klock w n (.inl c, s1)

/-- `KMAC8` (R238). -/
def execKmac8 (w : BitVec 8) (r : KRow) (half : Bool) (k0 : BitVec 12) (s : State) : Res :=
  s.kmac w r false (256 * half.toNat) k0

/-- `KMAC4` (R238). -/
def execKmac4 (w : BitVec 8) (r : KRow) (k0 : BitVec 12) (s : State) : Res := s.kmac w r true 0 k0

/-- A dequantised accumulator (R239): two roundings. -/
def kdqVal (a : W32) (scale : Nat) : W32 :=
  BitVec.ofNat 32 (r32 ((d32 (r32 (Fp.int a.toInt))).mul (d32 scale)))

/-- `KDQ` (R239): the scales and every accumulator are read on t and written on t + 32. -/
def execKdq (w : BitVec 8) (base : BitVec 2) (off : BitVec 24) (gc : BitVec 2) (s : State) : Res :=
  let l := s.kl
  let g := 32 * 2 ^ gc.toNat
  if gc.toNat = 3 then s.kword w 32 false (.inl 0x01)
  else
    match s.laneRead l base (256 * off.toNat) (4 * (512 / g)) with
    | (.inr pa, s1) =>
      let sc := s1.hbmBytes pa (4 * (512 / g))
      s1.kword w 32 false (.inr (l.add s.glob [(32, .accs ((l.accList.zipIdx).map (fun a =>
        kdqVal a.1 (fieldAt sc (4 * (a.2 / g)) 4))))]))
    | (.inl c, s1) => s1.kword w 32 false (.inl c)

/-- The expander's source of a lane: HBM from an offset of a base on, within the base's range. -/
def kexpSrc (l : Lane) (base : BitVec 2) (src : Nat) : Src where
  rd off n s :=
    match s.laneRead l base (src + off) n with
    | (.inr pa, s1) => (.ok (s1.hbmBytes pa n), s1)
    | (.inl c, s1) => (.err c 0, s1)
  peek off n s := s.hbmBytes (l.base.getD base.toNat 0 + src + off) n

/-- Some blocks of an expander's source from block `k` on, as output bytes. -/
def expandBlocks (rd : Src) (fmt : Nat) (b16 : Bool) : Nat → Nat → State → Acc (List Byte) × State
  | _, 0, s => (.ok [], s)
  | k, n + 1, s =>
    Acc.bind (expand rd fmt k s) fun v s1 =>
      Acc.bind (expandBlocks rd fmt b16 (k + 1) n s1) fun bs s2 => (.ok (expBytes b16 v ++ bs), s2)

/-- `KEXP` (R241, R355): output row k performs on t + k + 16. -/
def execKexp (w : BitVec 8) (r : KRow) (fmt : BitVec 2) (b16 : Bool) (db : BitVec 2) (s : State) : Res :=
  let l := s.kl
  let n := r.n1.toNat + 1
  let src := 256 * r.off.toNat
  let pa := l.base.getD r.base.toNat 0 + src
  let per := if b16 then 2 else 4
  if fmt.toNat = 3 then s.kword w n true (.inl 0x01)
  else
    match l.at? db 0 (256 * n) with
    | none => s.kword w n true (.inl 0x12)
    | some dst =>
      if fmt.toNat = 2 && pa % 4096 != 0 then s.kword w n true (.inl 0x12)
      else
        match expandBlocks (kexpSrc l r.base src) fmt.toNat b16 0 (per * n) s with
        | (.ok bs, s1) => s.klock w n (.inr (l.add s.glob ((List.range n).map (fun k =>
            (k + 16, .hbm (dst + 256 * k) ((bs.drop (256 * k)).take 256))))), s1)
        | (.err c _, s1) => s.klock w n (.inl c, s1)
        | (.wait, s1) => .next s1

/-- Whether the rows of a range of the scratch window may be accessed: own quarters were checked at launch (R121, R235). -/
def State.windowOpen (s : State) (l : Lane) (off n : Nat) : Bool :=
  (qRange (.scr (l.sbase / 2 ^ 18) (l.sbase % 2 ^ 18 + off)) n).all (fun q => s.mayTouch l.who true (q / 64) (4096 * (q % 64)))

/-- `KACR` (R240, R354): the accumulators read on t go to the window or to a base, and are zero from t + 1. Of the forms with
WIN = 1 each value of BASE means the same. -/
def execKacr (w : BitVec 8) (base : BitVec 2) (win : Bool) (off : BitVec 24) (s : State) : Res :=
  let l := s.kl
  let bytes := l.accList.flatMap (fun a => leBytes 4 a.toNat)
  if win then
    if 4064 < off.toNat then s.kword w 8 false (.inl 0x01)
    else if l.slen < 64 * off.toNat + 2048 then s.kword w 8 false (.inl 0x12)
    else if !s.windowOpen l (64 * off.toNat) 2048 then s.kword w 8 false (.inl 0x10)
    else s.kword w 8 false (.inr (l.add s.glob [(1, .clear), (1, .win (64 * off.toNat) bytes)]))
  else
    match l.at? base (256 * off.toNat) 2048 with
    | some pa => s.kword w 8 false (.inr (l.add s.glob [(1, .clear), (1, .hbm pa bytes)]))
    | none => s.kword w 8 false (.inl 0x12)

/-- `KEND` (R242): the program ends once its results have landed. -/
def execKend (w : BitVec 8) (discard : Bool) (s : State) : Res :=
  .next (s.onLane s.klane (fun l => { l.issued s.glob 1 w with
    phase := .ending 0, discard := discard, cycles := s.glob + 1 - l.t0 }))

/-! ### Reads and landings of a cycle (R237) -/

/-- A read of a row: its landing 16 cycles later. -/
def State.krdGo (s : State) (l : Lane) (p : KPend) : KPend :=
  match p.eff with
  | .rdBuf pa pos => ⟨p.due + 16, p.iss, .buf pos (s.hbmBytes pa 256)⟩
  | .rdOut pos pa => ⟨p.due + 16, p.iss, .hbm pa (l.bufBytes pos 256)⟩
  | .rdMac pa first four k => ⟨p.due + 16, p.iss, .mac first four (s.hbmBytes pa 256) (l.bufAt k).toInt⟩
  | e => ⟨p.due, p.iss, e⟩

/-- The reads of a lane on a cycle. -/
def State.laneReads (s : State) (n : Nat) : State :=
  { s with lanes := s.lanes.map (fun e =>
      (e.1, { e.2 with pend := e.2.pend.map (fun p => if p.due ≤ n then s.krdGo e.2 p else p) })) }

/-- An accumulator after one weight (R238). -/
def macOne (sat : Bool) (acc : W32) (w a : Int) : W32 :=
  if sat then BitVec.ofInt 32 (satS 32 (acc.toInt + w * a)) else BitVec.ofInt 32 (acc.toInt + w * a)

/-- A row of weights times one activation. -/
def Lane.macRow (l : Lane) (first : Nat) (four : Bool) (ws : List Byte) (a : Int) : Lane :=
  let vals : List Int := if four then ws.flatMap (fun b => [sgn 4 (b.toNat % 16), sgn 4 (b.toNat / 16)])
    else ws.map (fun b => b.toInt)
  l.putAccs first ((vals.zipIdx).map (fun v => macOne l.sat (Sparse.get 0 l.acc ((first + v.2) % 512)) v.1 a))

/-- An abort found where a row of the window is delivered: the word that made it is over (R243). -/
def Lane.fail (l : Lane) (cause t : Nat) : Lane :=
  { l with phase := .ending cause, discard := true, cycles := if l.phase == .running then t + 1 - l.t0 else l.cycles }

/-- Rows of the scratch window are delivered once their core's ports take them; a row whose quarter is no longer ENGINE aborts
the program. -/
def State.landWin (s : State) (k : Nat) (p : KPend) (off : Nat) (bs : List Byte) : State :=
  let l := s.laneAt k
  match s.wrOp l.who true (.scr (l.sbase / 2 ^ 18) (l.sbase % 2 ^ 18 + off)) bs with
  | (.ok _, s1) => s1
  | (.err c _, _) => s.onLane k (fun l => l.fail c s.glob)
  | (.wait, s1) => ((s.waited s1).getD s).onLane k (fun l => { l with pend := l.pend ++ [{ p with due := s.glob + 1 }] })

/-- A row that a lane writes to HBM; of the present lock-step word the lane keeps what the row replaces. -/
def State.landRow (s : State) (k : Nat) (p : KPend) (pa : Nat) (bs : List Byte) : State :=
  let old := (List.range bs.length).map (fun i => (hbmKey pa + i, rdByte s.mem (hbmKey pa + i)))
  (s.store (hbmKey pa) bs).onLane k (fun l =>
    if p.iss = l.lockIss && s.glob < l.lock then { l with undo := l.undo ++ old } else l)

/-- One landing. -/
def State.landK (s : State) (k : Nat) (p : KPend) : State :=
  match p.eff with
  | .buf pos bs => s.onLane k (fun l => l.putBuf pos bs)
  | .mac first four ws a => s.onLane k (fun l => l.macRow first four ws a)
  | .accs v => s.onLane k (fun l => l.putAccs 0 v)
  | .clear => s.onLane k (fun l => { l with acc := [], acclive := false })
  | .hbm pa bs => s.landRow k p pa bs
  | .win off bs => s.landWin k p off bs
  | _ => s

/-- Landings that come before the others of their cycle: those that replace the accumulators (R239, R240). -/
def KEff.first : KEff → Bool
  | .accs _ => true
  | .clear => true
  | _ => false

/-- The landings of one lane on a cycle, an earlier word's first (R353). -/
def State.laneLand (n : Nat) (s : State) (k : Nat) : State :=
  let due := (s.laneAt k).pend.filter (fun p => decide (p.due ≤ n))
  let s1 := s.onLane k (fun l => { l with pend := l.pend.filter (fun p => !decide (p.due ≤ n)) })
  (due.filter (fun p => p.eff.first) ++
    orderBy (fun a b => decide (a.iss ≤ b.iss)) (due.filter (fun p => !p.eff.first))).foldl (fun s p => s.landK k p) s1

/-! ### Status and end (R242, R243) -/

/-- The status word of R242. -/
def kstatWord (cause word : Nat) (disc : Bool) (cycles : Nat) : List Byte :=
  leBytes 8 (cause * 2 ^ 56 + word % 2 ^ 8 * 2 ^ 48 + disc.toNat * 2 ^ 47 + cycles % 2 ^ 32)

/-- The fault of a lane is charged to the core that issued its `CSTK`. -/
def State.laneFault (s : State) (l : Lane) (f : Nat × W64) : State :=
  s.onCore l.core (fun c => c.engFault l.slot f.1 (accSub f.1 f.2) f.2 l.baddr l.depth)

/-- The end of a program whose results have landed: accumulators kept or discarded, the status word, the fault. -/
def State.laneEnd (s : State) (k : Nat) : State :=
  let l := s.laneAt k
  match l.phase with
  | .ending cause =>
    if !l.pend.isEmpty then s
    else
      let word := kstatWord cause l.word l.discOut l.cycles
      let l1 := if l.discard then { l with phase := .idle, acc := [], acclive := false }
        else { l with phase := .idle, kept := some l.asid, stands := true, disc := false }
      let f : Option (Nat × W64) := if cause = 0 then none else some (faultData word (cause, 0))
      match s.statusAt l.who l.status word with
      | (.wait, s1) => (s.waited s1).getD s
      | (.ok _, s1) => match f with
        | some e => ((s1.quit l.who).onLane k (fun _ => l1)).laneFault l e
        | none => (s1.quit l.who).onLane k (fun _ => l1)
      | (.err c d, s1) => ((s1.quit l.who).onLane k (fun _ => l1)).laneFault l (f.getD (c, d))
  | _ => s

/-- All lanes at the end of a base-die cycle. -/
def State.laneCycle (s : State) : State :=
  let ks := s.lanes.map (·.1)
  let s1 := s.laneReads s.glob
  let s2 := ks.foldl (State.laneLand s.glob) s1
  ks.foldl State.laneEnd s2

/-! ### Launch (R234 to R236, R341) -/

/-- Whether the fields of a launch descriptor obey their ranges, STATUS apart. The program and the bases in use are addresses of
57 bits. -/
def descrOk (d : List Byte) : Bool :=
  (fieldAt d 8 2 == 0 || decide (fieldAt d 0 8 < 2 ^ 57)) &&
  (List.range 4).all (fun b => fieldAt d (0x40 + 4 * b) 4 == 0 || decide (fieldAt d (0x20 + 8 * b) 8 < 2 ^ 57)) &&
  decide (fieldAt d 8 2 ≤ 256) && decide (fieldAt d 0x0B 1 < 4) && decide (fieldAt d 0x0C 2 < 3900) &&
  fieldAt d 0x0E 2 == 0 && fieldAt d 0x1C 4 % 64 == 0 && decide (fieldAt d 0x1C 4 ≤ 262144) &&
  (List.range 4).all (fun b => fieldAt d (0x20 + 8 * b) 8 % 256 == 0 && fieldAt d (0x40 + 4 * b) 4 % 256 == 0) &&
  fieldAt d 0x50 48 == 0 &&
  (fieldAt d 0x1C 4 == 0 || decide (fieldAt d 0x18 4 % 2 ^ 18 + fieldAt d 0x1C 4 ≤ 2 ^ 18))

/-- STATUS of a descriptor as an operand address. -/
def descrStatus (d : List Byte) : Option W64 :=
  let v := fieldAt d 0x10 8
  if v < 2 ^ 57 || (2 ^ 63 ≤ v && v < 2 ^ 63 + 2 ^ 32) then some (BitVec.ofNat 64 v) else none

/-- Whether a base's range lies within a leaf of TIER 0b00 whose frame lies in a stack (R235). A leaf in transit, or with
POISON, is no matter of its tier. -/
def State.baseFits (s : State) (stack va len : Nat) (leaf : Nat × Nat × W64) : Bool :=
  let w := leaf.2.2.toNat
  s.moving leaf.1 || bitOf w 59 ||
  (bitsOf w 57 56 == 0 && bitsOf w 45 16 * 2 ^ 16 % 2 ^ 41 / 2 ^ 36 == stack && decide (va % 2 ^ leaf.2.1 + len ≤ 2 ^ leaf.2.1))

/-- A base: its physical address, and the virtual address and log2 page size from which a launch translated it. -/
structure KBase where
  pa : Nat
  va : Nat
  log2 : Nat
deriving DecidableEq, Repr

/-- Translates a base of 57 bits (R235). One of the host half is in no leaf. -/
def State.baseAt (s : State) (die asid stack va len : Nat) : Acc KBase × State :=
  if len = 0 then (.ok ⟨0, 0, 0⟩, s)
  else if va < 2 ^ 56 then (.err 0x20 (tfltWord false 0 va), s)
  else
    let leaf := s.leafOf die asid va
    match leaf.map (s.baseFits stack va len), s.xlate die asid va false with
    | some false, (_, s1) => (.err 0x20 (tfltWord false 0 va), s1)
    | _, (.ok key _, s1) => (.ok ⟨key - 2 ^ 41, va, (leaf.map (·.2.1)).getD 16⟩, s1)
    | _, (.err c sub, s1) => (xlFault c false sub va, s1)
    | _, (.wait, s1) => (.wait, s1)

/-- The four bases. -/
def State.basesAt (die asid stack : Nat) (d : List Byte) : Nat → State → Acc (List KBase) × State
  | 0, s => (.ok [], s)
  | n + 1, s =>
    let b := 3 - n
    Acc.bind (s.baseAt die asid stack (fieldAt d (0x20 + 8 * b) 8) (fieldAt d (0x40 + 4 * b) 4)) fun a s1 =>
      Acc.bind (State.basesAt die asid stack d n s1) fun l s2 => (.ok (a :: l), s2)

/-- The program words. -/
def progWords (b : List Byte) : Sparse W64 :=
  (List.range (b.length / 8)).foldl (fun p i => Sparse.set 0 p i (BitVec.ofNat 64 (fieldAt b (8 * i) 8))) []

/-- A lane as a launch leaves it (R236). DISC reports a forced discard, or a launch under another ASID, since the last keep. -/
def Lane.loadFrom (l : Lane) (d : List Byte) (prog : List Byte) (bases : List KBase) (asid : Nat) (status : W64) (k slot : Nat)
    (m : Cmd) (inst : Nat) : Lane :=
  let fl := fieldAt d 0x0B 1
  let change := match l.kept with
    | some a => a != asid
    | none => false
  let stand := bitOf fl 1 && l.stands && l.kept == some asid
  { l with
    phase := .loaded
    prog := (List.range 256).foldl (fun p i => if i < prog.length / 8 then Sparse.set 0 p i (Sparse.get 0 (progWords prog) i) else p) l.prog
    acc := if stand then l.acc else [], acclive := stand && l.acclive, base := bases.map (·.pa), bva := bases.map (fun b => (b.va, b.log2))
    len := (List.range 4).map (fun b => fieldAt d (0x40 + 4 * b) 4), sbase := fieldAt d 0x18 4, slen := fieldAt d 0x1C 4
    idx := fieldAt d 0x0A 1, next := 0, t0 := 0, word := fieldAt d 0x0A 1, cycles := 0, startph := fieldAt d 0x0C 2
    sat := bitOf fl 0, keep := bitOf fl 1, lock := 0, lockIss := 0, disc := l.disc || change, discOut := l.disc || change
    stands := false, discard := false, asid := asid, status := status, core := k, slot := slot, baddr := m.baddr, depth := m.depth, inst := inst
    iss := m.iss, pend := [], undo := [] }

/-- Own quarters of a scratch window. -/
def windowQs (k : Nat) (d : List Byte) : List Nat :=
  (qRange (.scr (fieldAt d 0x18 4 / 2 ^ 18) (fieldAt d 0x18 4 % 2 ^ 18)) (fieldAt d 0x1C 4)).filter (fun q => q / 64 == k)

/-- The virtual addresses that a launch and its program read: the words, and the ranges of the bases (R234). -/
def descrReads (d : List Byte) : List (Nat × Nat) :=
  (if fieldAt d 8 2 = 0 then [] else [(fieldAt d 0 8, 8 * fieldAt d 8 2)]) ++
  ((List.range 4).filter (fun b => fieldAt d (0x40 + 4 * b) 4 != 0)).map (fun b =>
    (fieldAt d (0x20 + 8 * b) 8, fieldAt d (0x40 + 4 * b) 4))

/-- Why a lane does not take a launch, as its descriptor stands, or 0: `TIMING` where it runs a program, `ADDRESS`, and `OWNERSHIP`
for the quarters of the window on the issuing core (R235, R121). -/
def State.cstkRefusal (s : State) (k stack lane : Nat) (d : List Byte) : Nat :=
  if (s.laneAt (stack * 16 + lane)).phase != .idle && lane != 15 then 0x11
  else if lane = 15 || !s.diemask.getLsbD (stack / 8) || s.stackOff.contains stack || !descrOk d || (descrStatus d).isNone ||
     (fieldAt d 0x1C 4 != 0 && (scratchAt s.diemask (fieldAt d 0x18 4)).isNone) then 0x12
  else if (windowQs k d).any (fun q => (s.core k).owner (q % 64) != .engine) then 0x10
  else 0

/-- A `CSTK` with its descriptor read: the lane takes it or refuses it (R235); a refusal writes the status word, whose WORD, DISC
and CYCLES are 0 (log 27), and is charged to the core. -/
def State.cstkGo (s : State) (k : Nat) (ch : Bool) (m : Cmd) (stack lane : Nat) (d : List Byte) : Acc Unit × State :=
  let w := s.whoOf k ch m
  let li := stack * 16 + lane
  let refuse (s : State) (cause : Nat) (x : W64) : Acc Unit × State :=
    match descrStatus d with
    | none => (.err cause x, s)
    | some st =>
      let word := kstatWord cause 0 false 0
      match s.statusAt w st word with
      | (.wait, s1) => (.wait, s1)
      | (_, s1) => (.err cause (faultData word (cause, x)).2, s1)
  if s.cstkRefusal k stack lane d != 0 then refuse s (s.cstkRefusal k stack lane d) 0
  else
    match State.basesAt w.die w.asid stack d 4 s with
    | (.wait, s1) => (.wait, s1)
    | (.err c x, s1) => refuse s1 c x
    | (.ok bases, s1) =>
      match if fieldAt d 8 2 = 0 then (.ok [], s1) else s1.rdOp w false (.va (fieldAt d 0 8)) (8 * fieldAt d 8 2) with
      | (.wait, s2) => (.wait, s2)
      | (.err c x, s2) => refuse s2 c x
      | (.ok prog, s2) =>
        let s3 : State := { s2 with unloaded := Sparse.put s2.unloaded li (s2.laneAt li) }
        (.ok (), (s3.onLane li (fun l => l.loadFrom d prog bases w.asid ((descrStatus d).getD 0) k (cNum ch) m
          (s3.core k).inst)))

/-- `STACK_PROGRAM_START` when it is enabled: the first word issues on this cycle (R236). -/
def State.tryStart (s : State) (l : Nat) : Option State :=
  let x := s.laneAt l
  if x.phase == .loaded && refPhase s.epoch s.glob = x.startph then
    some ({ s with unloaded := s.unloaded.filter (fun e => e.1 != l) }.onLane l (fun x =>
      { x with phase := .running, t0 := s.glob, next := s.glob }))
  else none

/-- `STACK_PROGRAM_START` (R236). -/
def execStackProgramStart (lane : Nat) (s : State) : Res := orSame s (s.tryStart lane)

/-- Whether a lane issues a word on this cycle. -/
def State.laneDue (s : State) (l : Nat) : Bool := (s.laneAt l).phase == .running && decide ((s.laneAt l).next ≤ s.glob)

/-- The word of a lane, or nothing: past index 255, unassigned, malformed (R237). -/
def State.laneWord (s : State) (l : Nat) : Option Instr :=
  let x := s.laneAt l
  if 256 ≤ x.idx then none else (decodeK (Sparse.get 0 x.prog x.idx).toNat).toOption

/-- A word that does not decode aborts its program with `ILLEGAL` (R237). -/
def State.laneIllegal (s : State) (l : Nat) : State :=
  s.onLane l (fun x => { x with word := min 255 x.idx }.abort 0x01 s.glob)

/-! ### Refresh (R244) -/

/-- The abort of the lock-step word of a lane: what its rows have written is as before (R243). -/
def State.lockAbort (s : State) (k : Nat) : State :=
  ((s.laneAt k).undo.foldl (fun s e => s.store e.1 [e.2]) s).onLane k (fun l =>
    { l.abort 0x23 s.glob with pend := l.pend.filter (fun p => p.iss != l.lockIss), undo := [] })

/-- `REFRESH_INTERVAL` when it is enabled: a hot stack's mid-interval refresh falls due, is postponed once by a lock-step word,
and aborts the lowest such lane when it falls due again inside one, whether or not the stack is still hot. -/
def State.tryRefresh (s : State) (stack : Nat) : Option State :=
  if (s.hot.getLsbD stack || s.postponed.contains stack) && refPhase s.epoch s.glob = 1950 && Sparse.get 0 s.refAt stack != s.glob + 1 then
    let s1 := { s with refAt := Sparse.set 0 s.refAt stack (s.glob + 1) }
    let busy := (List.range 16).filter (fun i =>
      (s.laneAt (stack * 16 + i)).phase == .running && decide (s.glob < (s.laneAt (stack * 16 + i)).lock))
    match busy with
    | [] => some { s1 with postponed := s.postponed.filter (· != stack) }
    | i :: _ =>
      if s.postponed.contains stack then
        some ({ s1 with postponed := s.postponed.filter (· != stack) }.lockAbort (stack * 16 + i))
      else some { s1 with postponed := stack :: s.postponed }
  else none

/-- `REFRESH_INTERVAL` (R244). -/
def execRefreshInterval (stack : Nat) (s : State) : Res := orSame s (s.tryRefresh stack)

/-- `POWER_DOWN_REQUEST` (R245): firmware refuses it with `BUSY_ACC` while a lane of the stack runs or is live. -/
def execPowerDownRequest (stack : BitVec 5) (s : State) : Res :=
  let k := stack.toNat
  let busy := (List.range 16).any (fun i =>
    (s.laneAt (k * 16 + i)).phase != .idle || (s.laneAt (k * 16 + i)).acclive)
  .next (s.send (.power k (if busy then 0x30 else 0)))

end Sys2Proof.Machine
end

