-- ==== Sys2Proof/Machine/Handon.lean ====
section
/-! DEFINITION. The start of a channel command (spec/05_scratchpad.md R133) with its second part for the commands that other
engines run (spec/15 R363, R374 to R376, R378; spec/14 R329, R341): the operand block is read and the command is handed on. -/

namespace Sys2Proof.Machine

/-- A command that faults before another engine has it: the channel records a fault of translation (R175), and the command
completes (R363). -/
def State.handFault (s : State) (k : Nat) (ch : Bool) (m : Cmd) (cause : Nat) (d : W64) : State :=
  (s.stopCmd k ch m cause d).endCmd k ch m

/-- A command as its channel holds it now. -/
def State.cmdNow (s : State) (k : Nat) (ch : Bool) (m : Cmd) : Cmd :=
  (((s.core k).chan ch).cmds.find? (fun x => x.uid == m.uid)).getD m

/-- Takes the result of reading a block: a fault ends the command, which names what its block has named; one whose report is due
goes on. -/
def State.handEnd (s : State) (k : Nat) (ch : Bool) (m : Cmd) (r : Acc Unit × State) : Option State :=
  match r with
  | (.ok _, s1) => some (if (s1.dueOf (s.whoOf k ch m)).isSome then s1 else s1.quit (s.whoOf k ch m))
  | (.err c d, s1) => some (s1.handFault k ch (s1.cmdNow k ch m) c d)
  | (.wait, s1) => s.waited s1

/-- Reads the operand block at a register's address. -/
def State.block (s : State) (w : Who) (v : W64) (n : Nat) : Acc (List Byte) × State :=
  match opndOf w.core v with
  | some o => s.rdOp w true o n
  | none => (.err 0x12 0, s)

/-- The complex to which an operation goes: the one where an earlier operation of its set waits, else the set's home
(R198, R363). A core does not reach the complex of another die that is clear in `DIEMASK` (R14, log 14). -/
def State.complexOf (s : State) (die set : Nat) : Acc Nat × State :=
  let via (home : Nat) (s : State) : Acc Nat × State := if s.reaches die home then (.ok home, s) else (.err 0x12 0, s)
  match s.dies.find? (fun d => d.2.setq.any (fun x => x.set == set)) with
  | some d => via d.1 s
  | none => Acc.bind (s.setEnt die set) fun e s1 => via e.home s1

/-- A set operation arrives at its complex. -/
def State.arriveSet (s : State) (w : Who) (ch : Bool) (m : Cmd) (set : Nat) (blk : List Byte) : Acc Unit × State :=
  Acc.bind (s.complexOf w.die set) fun die s1 =>
    let x : SetOp := ⟨w.core, ch, m.uid, set, w.asid, m.kind, blk⟩
    let s2 := s1.onDie die (fun d => { d with setq := d.setq ++ [x] })
    (.ok (), s2.onCore w.core (fun c => c.onCmd ch m.uid (fun x => { x with phase := .handed })))

/-- Whether own quarters among some are ENGINE (R121). -/
def State.ownEngine (s : State) (k : Nat) (qs : List Nat) : Bool :=
  (qs.filter (fun q => q / 64 == k)).all (fun q => (s.core k).owner (q % 64) == .engine)

/-- Marks a command handed on with the quarters that its block names. -/
def State.handed (s : State) (k : Nat) (ch : Bool) (m : Cmd) (qs : List Nat) (blk : List Byte) : State :=
  s.onCore k (fun c => c.onCmd ch m.uid (fun x => { x with phase := .handed, qset := qs, blk := blk }))

/-- The quarters that a command's block names are those of its region, whether or not the command goes on (R258). -/
def State.note (s : State) (k : Nat) (m : Cmd) (qs : List Nat) : State := s.onCore k (fun c => c.noteNames m.depth qs)

/-- Whether a destination that a block names lies in the current half of the issuing core (R81, R132). -/
def State.inHalf (s : State) (k : Nat) (v : W64) : Bool := halfOf k v == some (s.core k).half

/-- The size of the batch that a plan block names, as far as its header can be read: the engine meets its faults (R208). -/
def State.planSize (s : State) (w : Who) (blk : List Byte) : Acc Nat × State :=
  match opndOf w.core (BitVec.ofNat 64 (fieldAt blk 0 8)) with
  | none => (.ok 0, s)
  | some o => Acc.catch (s.rdOp w false o 16) (fun h s1 => (.ok (min 4096 (fieldAt h 0 4)), s1)) (fun _ _ s1 => (.ok 0, s1))

/-- A `PLAN` on T (R376): its block, its cores, the quarters of its lists and records, which its `.RET` returns even where it faults
here. Its block names those of the batch table too (R99, R258). -/
def State.handPlan (s : State) (w : Who) (ch : Bool) (m : Cmd) (v : W64) : Acc Unit × State :=
  Acc.bind (s.block w v 32) fun blk s1 =>
    Acc.bind (s1.planSize w blk) fun size s2 =>
      let c := s2.planCores w.core blk
      let wl := BitVec.ofNat 64 (fieldAt blk 8 8)
      let mp := BitVec.ofNat 64 (fieldAt blk 0x10 8)
      let wlen := c * min 65536 (fieldAt blk 0x18 4)
      let qs := (qAt w.core wl wlen ++ qAt w.core mp (8 * size)).eraseDups
      let bt := qAt w.core (BitVec.ofNat 64 (fieldAt blk 0 8)) (16 + 32 * size)
      let s3 := (s2.onCore w.core (fun c => c.onCmd ch m.uid (fun x => { x with qset := qs }))).note w.core m (qs ++ bt)
      if !planBlkOk blk || !dstIn w.core wl 1 wlen || !dstIn w.core mp 1 (8 * size) then (.err 0x12 0, s3)
      else if !s2.ownEngine w.core qs || s2.inHalf w.core wl || s2.inHalf w.core mp then (.err 0x10 0, s3)
      else (.ok (), s3.handed w.core ch m qs (blk ++ leBytes 4 c ++ leBytes 4 size))

/-- The quarters that a collective block names, before its team descriptor says how long its operands are. -/
def collNames (self : Nat) (blk : List Byte) : List Nat :=
  qAt self (BitVec.ofNat 64 (fieldAt blk 0 8)) 16 ++ qAt self (BitVec.ofNat 64 (fieldAt blk 8 8)) 1 ++
  qAt self (BitVec.ofNat 64 (fieldAt blk 0x10 8)) 1 ++ qAt self (BitVec.ofNat 64 (fieldAt blk 0x20 8)) 8

/-- A `COLL` on T (R329): the block and the team descriptor, own operands, and the engine that takes it. Where own quarters are not
ENGINE, the command does nothing, as one that fails on its start cycle (R133). -/
def State.handColl (s : State) (w : Who) (ch : Bool) (m : Cmd) (v : W64) : Acc Unit × State :=
  Acc.bind (s.block w v 48) fun blk s0 =>
    let s1 := s0.note w.core m (collNames w.core blk)
    Acc.bind (s1.collRead w false blk) fun x s2 =>
      let c := s2.core w.core
      let n := collSz x.fmt * x.sendN
      let team := BitVec.ofNat 64 (fieldAt blk 0 8)
      let ql := qAt w.core team (16 + 8 * x.nrank) ++ qAt w.core x.send n
      let vl := vaAt w.core team (16 + 8 * x.nrank) ++ vaAt w.core x.send n
      if s2.readsHeld w.core ch m ql vl then (.wait, s2) else
      let y := { x with
        core := some w.core, depth := m.depth, slot := cNum ch, baddr := m.baddr, iss := m.iss, inst := c.inst, asid := w.asid }
      let qs := y.quarters.eraseDups
      let s3 := s2.note w.core m (ql ++ qs)
      if !s3.ownEngine w.core qs || s3.inHalf w.core y.recv || s3.inHalf w.core y.status then
        (.ok (), (s3.quit w).startStop w.core ch m 0x10)
      else Acc.bind (s3.collTake w.die y) fun _ s4 => (.ok (), s4.endCmd w.core ch m)

/-- A `CSTK` on T (R341): complete once the lane has taken or refused it. Where own quarters of the window are not ENGINE, the
command does nothing, as one that fails on its start cycle (R133, R235). -/
def State.handCstk (s : State) (w : Who) (ch : Bool) (m : Cmd) (v : W64) (stack lane : Nat) : Acc Unit × State :=
  Acc.bind (s.block w v 128) fun d s0 =>
    if s0.readsHeld w.core ch m (windowQs w.core d) (descrReads d) then (.wait, s0) else
    let s1 := s0.note w.core m (windowQs w.core d ++ qAt w.core ((descrStatus d).getD 0) 8)
    if s1.cstkRefusal w.core stack lane d = 0x10 then (.ok (), (s1.quit w).startStop w.core ch m 0x10) else
    match s1.cstkGo w.core ch m stack lane d with
    | (.ok _, s2) => (.ok (), s2.endCmd w.core ch m)
    | (.err c x, s2) => (.ok (), (s2.cmdFault w.core ch m c x).endCmd w.core ch m)
    | (.wait, s2) => (.wait, s2)

/-- A `PGFT` on T (R374): the descriptor, the list's header, and the ring with all its quarters given. The list's own quarters
are named, checked and noted as far as COUNT reaches (R121, R363). -/
def State.handPgft (s : State) (w : Who) (ch : Bool) (m : Cmd) (ra rb rc : W64) (q0 : Nat) (chain : Bool) :
    Acc Unit × State :=
  let x0 : Weevil := ⟨m.uid, ch, 0, 0, rb, ra, rc, q0, chain, 0, 0, 0, 0, (List.range 8).map (q0 + ·)⟩
  let stop (s : State) (f : Nat × W64) : Acc Unit × State := s.weevilEnd w x0 m 0 (some f)
  match s.block w rb 128 with
  | (.wait, s1) => (.wait, s1)
  | (.err c d, s1) => stop s1 (c, d)
  | (.ok d, s1) =>
    let go (count : Nat) (qs : List Nat) (s : State) : Acc Unit × State :=
      let x := { x0 with
        pool := BitVec.ofNat 64 (fieldAt d 0x18 8), hdrt := BitVec.ofNat 64 (fieldAt d 0x20 8), count := count, frame := fieldAt d 0 4 }
      let t := s.note w.core m qs
      if count = 0 then s.weevilEnd w x m 0 none
      else if !s.ownEngine w.core qs then (.err 0x10 0, t)
      else (.ok (), (t.handed w.core ch m qs []).onCore w.core (fun c => { c with weevil := c.weevil ++ [x] }))
    if chain then go (ra.toNat % 2 ^ 25) [] s1
    else
      match s1.block w ra 16 with
      | (.wait, s2) => (.wait, s2)
      | (.err c e, s2) => stop s2 (c, e)
      | (.ok h, s2) =>
        if fieldAt h 4 1 = 0 then go (fieldAt h 0 4) (qAt w.core ra (16 + 16 * fieldAt h 0 4)) s2
        else
          match s2.statusAt w rc (pgftWord (fieldAt h 4 1) 0 0) with
          | (.wait, s3) => (.wait, s3)
          | (.ok _, s3) => (.ok (), s3.endCmd w.core ch m)
          | (.err c e, s3) => (.ok (), (s3.cmdFault w.core ch m c e).endCmd w.core ch m)

/-- What handing a command on does; the report of one that stopped there may be due. -/
def State.handGo (s : State) (w : Who) (ch : Bool) (m : Cmd) : Acc Unit × State :=
  match s.dueOf w with
  | some r => s.reportEnd r (fun s f => s.pmovDone w ch m f)
  | none =>
  match m.kind with
  | .sset id img => Acc.bind (s.block w img 64) fun b s1 => s1.arriveSet w ch m id.toNat b
  | .sins blk => Acc.bind (s.block w blk 64) fun b s1 => s1.arriveSet w ch m (fieldAt b 0x20 3) b
  | .ssel _ qb _ =>
    Acc.bind (s.block w qb 64) fun b s1 =>
      let d := fieldAt b 0x20 8
      if d % 128 != 0 then (.err 0x12 0, s1)
      else Acc.bind (s1.rdOp w false (.va d) 128) fun e s2 => s2.arriveSet w ch m (descSet e) b
  | .sage id _ => s.arriveSet w ch m id.toNat []
  | .sdel id _ _ => s.arriveSet w ch m id.toNat []
  | .smig id _ _ => s.arriveSet w ch m id.toNat []
  | .pgap desc _ => Acc.bind (s.block w desc 128) fun d s1 => s1.arriveSet w ch m (descSet d) []
  | .plan blk => s.handPlan w ch m blk
  | .coll blk => s.handColl w ch m blk
  | .cstk d stack lane => s.handCstk w ch m d stack lane
  | .pgft ra rb rc q0 chain => s.handPgft w ch m ra rb rc q0 chain
  | .pmov ra rb rc => s.pmovStart w ch m ra rb rc
  | _ => (.ok (), s)

/-- A command that waits to be handed on: commands of a channel go in their order of acceptance (R198). -/
def Chan.handing (q : Chan) : Option Cmd := q.cmds.find? (fun m => m.phase == .running && m.kind.other)

/-- The second part of a start, when nothing holds the command's accesses. -/
def State.tryHand (s : State) (k : Nat) (ch : Bool) : Option State :=
  let c := s.core k
  match (c.chan ch).handing with
  | none => none
  | some m =>
    if !c.run || c.frozen || c.stopped || s.mustWait k ch m then none
    else s.handEnd k ch m (s.handGo (s.whoOf k ch m) ch m)

/-- `COPY_COMMAND_START` when it is enabled: the start cycle of the next command, or the handing on of one that has started. -/
def State.tryCmdStart (s : State) (k : Nat) (ch : Bool) : Option State :=
  match s.tryHand k ch with
  | some s1 => some s1
  | none => s.startCmd k ch

/-- `COPY_COMMAND_START` (R133, R363). -/
def execCopyCommandStart (core : Nat) (ch : Bool) (s : State) : Res := orSame s (s.tryCmdStart core ch)

end Sys2Proof.Machine
end

