-- ==== Sys2Proof/Machine/Image.lean ====
section
/-! DEFINITION. Kernel images (spec/02_execution.md R19 to R26): the header, the tables and their checks; and placement
(R27 to R31). -/

namespace Sys2Proof.Machine

/-! ### The image -/

/-- A core-table entry with its tables (R19, R24). -/
structure ICore where
  lrow : Nat
  lcol : Nat
  ldie : Nat
  stage : Nat
  grp : Nat
  entry : Nat
  code : List Byte
  data : List Byte
  tens : List W64
  shapes : List W64
  leaves : List (BitVec 256)
deriving DecidableEq, Repr

/-- An image that has passed its checks. -/
structure Image where
  rows : Nat
  cols : Nat
  ldies : Nat
  stages : Nat
  queues : Nat
  args : Nat
  argsize : Nat
  cores : List ICore
  sched : List Resv
  /-- Count and scope of each barrier. -/
  bars : List (Nat × Nat)
  qinit : List (Nat × Nat × TRec)
deriving DecidableEq, Repr

/-- Whether a byte range is zero. -/
def zeroAt (b : List Byte) (off n : Nat) : Bool := fieldAt b off n == 0

/-- Whether two half-open ranges are disjoint. -/
def apart (a b : Nat × Nat) : Bool := decide (a.2 ≤ b.1) || decide (b.2 ≤ a.1)

/-- Whether the ranges of a list are pairwise disjoint, equal ones apart where `same` allows it. -/
def allApart (same : Bool) : List (Nat × Nat) → Bool
  | [] => true
  | a :: l => l.all (fun b => apart a b || (same && a == b)) && allApart same l

/-- The header's own checks (R19, R20). -/
def headerOk (b : List Byte) : Bool :=
  let n := fieldAt b 0x30 4
  fieldAt b 0 4 == 0x324C4D4B && fieldAt b 4 2 == 2 && zeroAt b 6 2 && zeroAt b 0x34 4 && zeroAt b 0x3C 4 &&
  decide (64 ≤ n) && b.length == n && fieldAt b 0x38 4 == crc32c (b.take 0x38 ++ b.drop 0x40) &&
  decide (1 ≤ fieldAt b 8 1) && decide (fieldAt b 8 1 ≤ 24) && decide (1 ≤ fieldAt b 9 1) && decide (fieldAt b 9 1 ≤ 24) &&
  [1, 2, 4].contains (fieldAt b 10 1) && decide (1 ≤ fieldAt b 11 1) && decide (fieldAt b 11 1 ≤ 64) &&
  decide (fieldAt b 12 2 ≤ 256) && decide (fieldAt b 14 1 ≤ 8) && decide (fieldAt b 15 1 ≤ 16) &&
  decide (fieldAt b 0x28 4 ≤ 65536)

/-- Entries of the core table. -/
def imgCores (b : List Byte) : Nat := fieldAt b 8 1 * fieldAt b 9 1 * fieldAt b 10 1

/-- The sections of an image: offset, bytes, and whether it may be absent (R21, R24). -/
def imgSections (b : List Byte) : List (Nat × Nat × Bool) :=
  let n := imgCores b
  let q := fieldAt b 0x2C 4
  [(fieldAt b 0x10 4, 32 * n, false), (fieldAt b 0x14 4, 16 * fieldAt b 12 2, fieldAt b 12 2 == 0),
    (fieldAt b 0x18 4, 4 * fieldAt b 15 1, fieldAt b 15 1 == 0), (fieldAt b 0x1C 4, 512 * n, true),
    (fieldAt b 0x20 4, 2560 * n, true), (fieldAt b 0x24 4, fieldAt b 0x28 4, fieldAt b 0x28 4 == 0),
    (q, 64 + 128 * fieldAt b q 4, true)]

/-- Whether the sections lie as R21 says. The 64-byte header counts as one that no section overlaps (log 46). -/
def sectionsOk (b : List Byte) : Bool :=
  let size := b.length
  (imgSections b).all (fun e => if e.1 = 0 then e.2.2 else e.1 % 8 == 0 && decide (e.1 + e.2.1 ≤ size)) &&
  allApart false ((0, 64) :: ((imgSections b).filter (fun e => e.1 != 0 && e.2.1 != 0)).map (fun e => (e.1, e.1 + e.2.1)))

/-- Entry `i` of the core table. -/
def coreEnt (b : List Byte) (i : Nat) : List Byte := (b.drop (fieldAt b 0x10 4 + 32 * i)).take 32

/-- The field ranges of a core-table entry (R19, R21). -/
def coreEntOk (b e : List Byte) : Bool :=
  let size := b.length
  let code := fieldAt e 8 4
  let cs := fieldAt e 12 4
  let data := fieldAt e 16 4
  let ds := fieldAt e 20 4
  decide (fieldAt e 0 1 < fieldAt b 8 1) && decide (fieldAt e 1 1 < fieldAt b 9 1) && decide (fieldAt e 2 1 < fieldAt b 10 1) &&
  decide (fieldAt e 3 1 < fieldAt b 11 1) && (fieldAt e 4 2 == 0xFFFF || decide (fieldAt e 4 2 < fieldAt b 12 2)) &&
  fieldAt e 6 2 % 2 == 0 && decide (fieldAt e 6 2 < 14336) && cs % 2 == 0 && decide (2 ≤ cs) && decide (cs ≤ 14336) &&
  ds % 64 == 0 && decide (ds ≤ 262144) && zeroAt e 24 8 && code % 8 == 0 && data % 8 == 0 && (ds != 0 || data == 0) &&
  decide (code + cs ≤ size) && decide (data + ds ≤ size)

/-- Whether code and preload ranges overlap nothing but ranges identical to them (R21). -/
def rangesOk (b : List Byte) : Bool :=
  let es := (List.range (imgCores b)).map (coreEnt b)
  let rs := (es.flatMap (fun e => [(fieldAt e 8 4, fieldAt e 8 4 + fieldAt e 12 4), (fieldAt e 16 4, fieldAt e 16 4 + fieldAt e 20 4)])).filter
    (fun r => r.1 != r.2)
  let ss := (0, 64) :: ((imgSections b).filter (fun e => e.1 != 0 && e.2.1 != 0)).map (fun e => (e.1, e.1 + e.2.1))
  allApart true rs && rs.all (fun r => ss.all (apart r))

/-- Group, die and place of the logical cores. -/
def imgPlaces (b : List Byte) : List (Nat × Nat × Nat × Nat) :=
  (List.range (imgCores b)).map (fun i =>
    let e := coreEnt b i
    (fieldAt e 4 2, fieldAt e 2 1, fieldAt e 0 1, fieldAt e 1 1))

/-- Whether a list has no repeats. -/
def distinct {α : Type} [BEq α] : List α → Bool
  | [] => true
  | a :: l => !l.contains a && distinct l

/-- The cores and groups of an image (R20, R22). -/
def placesOk (b : List Byte) : Bool :=
  let ps := imgPlaces b
  distinct (ps.map (·.2)) &&
  (List.range (fieldAt b 12 2)).all (fun g =>
    match (ps.filter (fun p => p.1 == g)).map (·.2.1) with
    | [] => false
    | d :: ds => ds.all (· == d))

/-- The reservations of a group, with the checks of R22. -/
def imgResv (b : List Byte) (g : Nat) : Option (List Resv) :=
  let e := (b.drop (fieldAt b 0x14 4 + 16 * g)).take 16
  let n := fieldAt e 0 4
  let off := fieldAt e 4 4
  let ps := (imgPlaces b).filter (fun p => p.1 == g)
  let ldie := ((ps.head?).map (·.2.1)).getD 0
  let rs := (List.range n).map (fun i => (b.drop (off + 16 * i)).take 16)
  let resv (r : List Byte) : Resv :=
    ⟨g, ldie, fieldAt r 0 1, fieldAt r 1 1, fieldAt r 2 1, fieldAt r 3 1, fieldAt r 4 1, fieldAt r 6 2, fieldAt r 8 8⟩
  let inGrp (i j : Nat) : Bool := ps.any (fun p => p.2.2.1 == i && p.2.2.2 == j)
  if 65535 < n || !zeroAt e 8 8 || (n == 0) != (off == 0) || b.length < off + 16 * n then none
  else if rs.all (fun r =>
      let x := resv r
      zeroAt r 5 1 && decide (1 ≤ x.n) && decide (x.n ≤ 16) && decide (x.dfirst + x.n ≤ 4096) && inGrp x.srow x.scol &&
      inGrp x.drow x.dcol && !(x.srow == x.drow && x.scol == x.dcol)) &&
    distinct (rs.map (fun r => (fieldAt r 0 1, fieldAt r 1 1, fieldAt r 8 8))) then some (rs.map resv)
  else none

/-- All reservations, or nothing where a group fails. -/
def imgSched (b : List Byte) : Option (List Resv) :=
  (List.range (fieldAt b 12 2)).foldl (fun acc g => match acc, imgResv b g with
    | some l, some r => some (l ++ r)
    | _, _ => none) (some [])

/-- The barrier table (R23). -/
def imgBars (b : List Byte) : List (Nat × Nat) :=
  (List.range (fieldAt b 15 1)).map (fun i =>
    let w := fieldAt b (fieldAt b 0x18 4 + 4 * i) 4
    (w % 2 ^ 12, w / 2 ^ 12))
def barsOk (l : List (Nat × Nat)) : Bool := l.all (fun e => decide (1 ≤ e.1) && decide (e.1 ≤ 2304) && decide (e.2 < 3))

/-- The tables of core-table entry `i` (R24). -/
def imgTens (b : List Byte) (i : Nat) : List W64 :=
  let t := fieldAt b 0x1C 4
  (List.range 64).map (fun k => if t = 0 then 0 else BitVec.ofNat 64 (fieldAt b (t + 512 * i + 8 * k) 8))
def imgShapes (b : List Byte) (i : Nat) : List W64 :=
  let t := fieldAt b 0x20 4
  (List.range 64).map (fun k => if t = 0 then 0 else BitVec.ofNat 64 (fieldAt b (t + 2560 * i + 8 * k) 8))
def imgLeaves (b : List Byte) (i : Nat) : List (BitVec 256) :=
  let t := fieldAt b 0x20 4
  (List.range 64).map (fun k => if t = 0 then 0 else BitVec.ofNat 256 (fieldAt b (t + 2560 * i + 512 + 32 * k) 32))

/-- The initial records (R24). -/
def imgQinit (b : List Byte) : List (Nat × Nat × TRec) :=
  let q := fieldAt b 0x2C 4
  if q = 0 then []
  else (List.range (fieldAt b q 4)).map (fun i =>
    let e := (b.drop (q + 64 + 128 * i)).take 128
    (fieldAt e 0 1, fieldAt e 1 1, ⟨fieldAt e 2 1, BitVec.ofNat 512 (fieldAt e 64 64)⟩))
def qinitOk (b : List Byte) : Bool :=
  let q := fieldAt b 0x2C 4
  q == 0 || (decide (fieldAt b q 4 ≤ 131072) && zeroAt b (q + 4) 60 &&
    (List.range (fieldAt b q 4)).all (fun i => zeroAt b (q + 64 + 128 * i + 3) 61) &&
    (imgQinit b).all (fun e => decide (e.1 < fieldAt b 10 1) && decide (e.2.1 < fieldAt b 14 1) && decide (e.2.2.pri < 4) &&
      decide (((imgQinit b).filter (fun f => f.1 == e.1 && f.2.1 == e.2.1)).length ≤ 4096)))

/-- A core of the image. -/
def imgCore (b : List Byte) (i : Nat) : ICore :=
  let e := coreEnt b i
  ⟨fieldAt e 0 1, fieldAt e 1 1, fieldAt e 2 1, fieldAt e 3 1, fieldAt e 4 2, fieldAt e 6 2,
    (b.drop (fieldAt e 8 4)).take (fieldAt e 12 4), (b.drop (fieldAt e 16 4)).take (fieldAt e 20 4),
    imgTens b i, imgShapes b i, imgLeaves b i⟩

/-- The image in its bytes, or nothing where a check of R20 to R24 fails. -/
def imageOf (b : List Byte) : Option Image :=
  if !headerOk b || !sectionsOk b then none
  else
    let n := imgCores b
    let cores := (List.range n).map (imgCore b)
    if !(List.range n).all (fun i => coreEntOk b (coreEnt b i)) || !rangesOk b || !placesOk b || !barsOk (imgBars b) ||
       !qinitOk b || !cores.all (fun c => c.tens.all (fun t => t == 0 || ttValid t.toNat)) then none
    else (imgSched b).map (fun sched =>
      ⟨fieldAt b 8 1, fieldAt b 9 1, fieldAt b 10 1, fieldAt b 11 1, fieldAt b 14 1, fieldAt b 0x24 4, fieldAt b 0x28 4,
        cores, sched, imgBars b, imgQinit b⟩)

/-! ### Placement -/

/-- Where logical (i, j) of an H × W grid lands in its footprint (R27). -/
def orient (o h w i j : Nat) : Nat × Nat :=
  match o with
  | 0 => (i, j)
  | 1 => (j, h - 1 - i)
  | 2 => (h - 1 - i, w - 1 - j)
  | 3 => (w - 1 - j, i)
  | 4 => (i, w - 1 - j)
  | 5 => (j, i)
  | 6 => (h - 1 - i, j)
  | _ => (w - 1 - j, h - 1 - i)

/-- Rows and columns of a footprint. -/
def footprint (o h w : Nat) : Nat × Nat := if o % 2 = 0 then (h, w) else (w, h)

/-- The physical index of a die row and column (R16). -/
def physAt (die r c : Nat) : Nat := die * 1024 + (6 * (r / 4) + c / 4) * 16 + 4 * (r % 4) + c % 4

/-- The cores that a footprint covers under an anchor. -/
def covered (die cr cc o h w : Nat) : List Nat :=
  let f := footprint o h w
  (List.range f.1).flatMap (fun a => (List.range f.2).map (fun b => physAt die (4 * cr + a) (4 * cc + b)))

/-- Anchors and orientations in the order of R28. -/
def anchors : List (Nat × Nat × Nat) :=
  (List.range 6).flatMap (fun cr => (List.range 6).flatMap (fun cc => (List.range 8).map (fun o => (cr, cc, o))))

/-- The per-die search (R28). -/
def placeDie (avail : Nat → Bool) (h w die : Nat) : Option (Nat × Nat × Nat) :=
  anchors.find? (fun a =>
    let f := footprint a.2.2 h w
    decide (4 * a.1 + f.1 ≤ 24) && decide (4 * a.2.1 + f.2 ≤ 24) && (covered die a.1 a.2.1 a.2.2 h w).all avail)

/-- The physical die of a logical die under a die map (R29). -/
def dieMap (m ld : Nat) : Nat :=
  let p := orient m 2 2 (ld / 2) (ld % 2)
  2 * p.1 + p.2

/-- The die maps to try: one that sends some logical die where an earlier one has tried it is skipped (R29). -/
def dieMaps (ldies : Nat) : List Nat :=
  (List.range 8).foldl (fun acc m =>
    if (List.range ldies).any (fun ld => acc.any (fun t => dieMap t ld == dieMap m ld)) then acc else acc ++ [m]) []

/-- A placement: the die map, and per logical die its die, anchor and orientation. -/
structure Placed where
  dmap : Nat
  place : List (Nat × Nat × Nat × Nat)
deriving DecidableEq, Repr

/-- The placements of all logical dies under a die map. -/
def placeMap (avail : Nat → Bool) (h w ldies m : Nat) : Option Placed :=
  let l := (List.range ldies).filterMap (fun ld =>
    (placeDie avail h w (dieMap m ld)).map (fun a => (dieMap m ld, a.1, a.2.1, a.2.2)))
  if l.length = ldies then some ⟨m, l⟩ else none

/-- The placement search (R28, R29). -/
def placeAll (avail : Nat → Bool) (h w ldies : Nat) : Option Placed :=
  (dieMaps ldies).findSome? (placeMap avail h w ldies)

/-- The physical core of a logical core. -/
def Placed.phys (p : Placed) (h w ld i j : Nat) : Nat :=
  let a := p.place.getD ld (0, 0, 0, 0)
  let b := orient a.2.2.2 h w i j
  physAt a.1 (4 * a.2.1 + b.1) (4 * a.2.2.1 + b.2)

/-- All cores of the footprints. -/
def Placed.cover (p : Placed) (h w : Nat) : List Nat := p.place.flatMap (fun a => covered a.1 a.2.1 a.2.2.1 a.2.2.2 h w)

/-- A core that may ever be placed: it exists, is no command core, is not retired, and its die works (R28). A core of a unit that
firmware has retired counts as retired here while an instance still holds it, so that a launch which only that core could hold fails
with `NO_PLACEMENT` at once (R30, log 32). -/
def State.placeable (s : State) (k : Nat) : Bool :=
  realCore k && !cmdCore k && !s.isOut k && s.diemask.getLsbD (dieOf k)

/-- An available core (R28). -/
def State.available (s : State) (k : Nat) : Bool := s.placeable k && !s.insts.any (fun i => i.held.contains k)

/-- The lowest-numbered free queues of a die, or nothing where they are too few (R36). -/
def State.freeQueues (s : State) (die n : Nat) : Option (List Nat) :=
  let l := ((List.range 64).filter (fun q => !(s.die die).bound.contains q)).take n
  if l.length = n then some l else none

/-- The queue binding of a placement: logical die, logical queue, physical queue (R36). -/
def State.bindQueues (s : State) (p : Placed) (n : Nat) : Option (List (Nat × Nat × Nat)) :=
  (p.place.zipIdx).foldl (fun acc e => match acc, s.freeQueues e.1.1 n with
    | some l, some qs => some (l ++ (qs.zipIdx).map (fun q => (e.2, q.2, q.1)))
    | _, _ => none) (some [])

end Sys2Proof.Machine
end

