-- ==== Sys2Proof/Machine/Launch.lean ====
section
/-! DEFINITION. Launch boundaries, admission, retirement and pre-emption (spec/02_execution.md R20, R25, R26, R30, R33, R36,
R44 to R54; spec/07_translation.md R166, R180; spec/11_faults.md R270). -/

namespace Sys2Proof.Machine

/-- Reads bytes at a VA. -/
def State.vaRead (s : State) (w : Who) (va n : Nat) : Acc (List Byte) × State := s.rdOp w false (.va va) n

/-! ### The image of a launch -/

/-- The agent that serves a launch: it reads the image and writes the record. -/
def Launch.who (l : Launch) : Who :=
  { hostWho l.port l.asid with op := 2 ^ 43 + (l.seq.toNat * 1024 + 2 * l.strm + l.port.toNat) }

/-- What an image read finds. -/
inductive ImgRes where
  | ok (i : Image)
  | bad
  | wait
deriving DecidableEq, Repr

/-- Reads and checks the image of a launch (R20, R166). -/
def State.readImage (s : State) (l : Launch) : ImgRes × State :=
  let w := l.who
  match s.vaRead w l.image.toNat 64 with
  | (.wait, s1) => (.wait, s1)
  | (.err _ _, s1) => (.bad, s1)
  | (.ok h, s1) =>
    if fieldAt h 0 4 != 0x324C4D4B || fieldAt h 0x30 4 < 64 then (.bad, s1)
    else
      match s1.vaRead w l.image.toNat (fieldAt h 0x30 4) with
      | (.wait, s2) => (.wait, s2)
      | (.err _ _, s2) => (.bad, s2)
      | (.ok b, s2) => (match imageOf b with
        | some i => .ok i
        | none => .bad, s2)

/-! ### Completion records (R52) -/

/-- The 64 bytes of a completion record. -/
def recordBytes (i : Inst) (status glob : Nat) : List Byte :=
  let none' := i.faults == 0
  leBytes 2 status ++ leBytes 1 (if none' then 0 else i.cause) ++ leBytes 1 0 ++ leBytes 4 i.faults ++
  leBytes 4 i.l.seq.toNat ++ leBytes 2 (i.l.port.toNat * 2 ^ 9 + i.l.strm) ++ leBytes 2 0 ++ leBytes 8 i.start ++
  leBytes 8 glob ++ leBytes 2 (if none' then 0 else i.fpcore) ++ leBytes 2 (if none' then 0 else i.flcore) ++
  leBytes 4 i.freezes ++ leBytes 4 i.delay ++ leBytes 2 i.preempts ++ leBytes 2 0 ++ leBytes 4 i.stWgt ++
  leBytes 4 i.stHbm ++ leBytes 4 i.stHost ++ leBytes 4 i.stPeer

/-- Marks a launch's stream command: its record has performed, and its signal stands next; a record that could not be
written has no signal (R279). -/
def SCmd.launched (c : SCmd) (q : W32) (sig : Bool) : SCmd :=
  match c.kind with
  | .launch a v m _ => if c.seq = q then { c with kind := .launch (if sig then a else 0) v m true } else c
  | _ => c

/-- Writes a completion record; true says that the record has performed or faulted, false that it is due, as it stood on the cycle
of retirement, which END names (R52, R151). A fault of the write completes the command with a STREAM_ERROR event (R279). -/
def State.writeRecord (s : State) (i : Inst) (status : Nat) : Acc Bool × State :=
  let l := i.l
  let r := (s.dueOf l.who).getD ⟨l.who, l.cmpl, recordBytes i status s.glob, none⟩
  match s.wrOp l.who false (.va l.cmpl.toNat) r.word with
  | (.wait, s1) => if s.reports.contains r then (.wait, s1) else (.ok false, { s with reports := s.reports ++ [r] })
  | (.ok _, s1) => (.ok true, (s1.quit l.who).onStrm l.port l.strm (fun t => { t with fly := t.fly.map (SCmd.launched · l.seq true) }))
  | (.err c _, s1) =>
    (.ok true, ((s1.quit l.who).onStrm l.port l.strm (fun t => { t with fly := t.fly.map (SCmd.launched · l.seq false) })).event l.port 2 c l.strm
      l.seq 0)

/-- An instance that never started (R53). -/
def Inst.unstarted (l : Launch) (glob : Nat) : Inst :=
  { id := 0, l := l, phase := .vanish, stages := 0, rows := 0, cols := 0, ldies := 0, queues := 0, dmap := 0, place := []
    held := [], sched := [], bars := [], bind := [], start := glob, cause := 0, faults := 0, fpcore := 0, flcore := 0
    ffirst := none, freezes := 0, delay := sat32 (glob - l.tm), preempts := 0, stWgt := 0, stHbm := 0, stHost := 0
    stPeer := 0, porder := 0, cores := [], qsave := [] }

/-- A launch that fails before any core starts. Until its record has performed it stands among the candidates, with the record
due. -/
def State.failLaunch (s : State) (l : Launch) (status : Nat) : Option State :=
  match s.writeRecord (Inst.unstarted l s.glob) status with
  | (.ok true, s1) => some { s1 with cands := s1.cands.erase l }
  | (.ok false, s1) => some s1
  | (_, s1) => s.waited s1

/-- Whether a launch has failed, and its record is due. -/
def State.failed (s : State) (l : Launch) : Bool := (s.dueOf l.who).isSome

/-- The records of failed launches that are due, tried in turn. -/
def State.retryRecords (s : State) : Option State :=
  s.cands.findSome? (fun l => if s.failed l then s.failLaunch l 0 else none)

/-! ### Admission (R25, R33, R36, R44) -/

/-- Forgets what a core's memories held. -/
def State.wipe (s : State) (k : Nat) : State :=
  { s with
    mem := s.mem.filter (fun e => !(scrKey k 0 ≤ e.1 && e.1 < scrKey k 0 + 2 ^ 18) &&
      !(iscKey k false 0 ≤ e.1 && e.1 < iscKey k false 0 + 2 ^ 15))
    errs := s.errs.filter (fun e => !(e.unit == k && e.ofCore)) }

/-- `LCORE` and `PCORE` (R30, R31). -/
def lcoreWord (grp ldie lrow lcol : Nat) : W64 :=
  BitVec.ofNat 64 (min grp 0xFF * 2 ^ 24 + ldie * 2 ^ 22 + lrow * 2 ^ 8 + lcol)
def pcoreWord (dmap o phys : Nat) : W64 := BitVec.ofNat 64 (dmap * 2 ^ 20 + o * 2 ^ 16 + phys)

/-- `TQBIND` of a logical die (R36). -/
def tqbindWord (bind : List (Nat × Nat × Nat)) (ldie : Nat) : W64 :=
  BitVec.ofNat 64 (((bind.filter (fun b => b.1 == ldie)).map (fun b => (0x80 + b.2.2) * 2 ^ (8 * b.2.1))).sum)

/-- The registers of a core that a placement gives (R30, R36). -/
def Core.placeRegs (c : Core) (p : Placed) (bind : List (Nat × Nat × Nat)) : Core :=
  (c.setCr 0x004 (pcoreWord p.dmap (p.place.getD c.ldie (0, 0, 0, 0)).2.2.2 c.id)).setCr 0x005 (tqbindWord bind c.ldie)

/-- LGRP of a core: 0xFF for a group of one core (R30). -/
def Image.lgrp (img : Image) (c : ICore) : Nat := if (img.cores.filter (fun x => x.grp == c.grp)).length ≤ 1 then 0xFF else c.grp

/-- The quarters of a core that the static schedule writes into (R22, R25). -/
def schedQs (sched : List Resv) (c : ICore) : List Nat :=
  (sched.filter (fun r => r.grp == c.grp && r.ldie == c.ldie && r.drow == c.lrow && r.dcol == c.lcol)).flatMap
    (fun r => (List.range ((r.dfirst + r.n - 1) / 64 - r.dfirst / 64 + 1)).map (fun i => r.dfirst / 64 + i))

/-- A core at its entry bundle (R25, R26, R252). -/
def entryCore (img : Image) (l : Launch) (inst : Nat) (p : Placed) (bind : List (Nat × Nat × Nat)) (phys : Nat) (c : ICore) :
    Core :=
  let c0 : Core := { Core.idle phys with
    run := true, exited := false, inst := inst, grp := c.grp, lrow := c.lrow, lcol := c.lcol, ldie := c.ldie, pc := c.entry
    tt := (c.tens.zipIdx).foldl (fun m e => Sparse.set 0 m e.2 e.1) []
    own := (schedQs img.sched c).foldl (fun m q => Sparse.set .core m q .sched) [] }
  let c1 := (((c0.setShapes 0 c.shapes).setLeaves 0 c.leaves).setCr 0x003
    (lcoreWord (img.lgrp c) c.ldie c.lrow c.lcol)).placeRegs p bind
  let args : W64 × W64 := if l.argva = 0 then (l.image + BitVec.ofNat 64 img.args, BitVec.ofNat 64 img.argsize)
    else (l.argva, l.arglen)
  (((c1.setCr 0x002 (BitVec.ofNat 64 c.stage)).setCr 0x080 (BitVec.ofNat 64 (Config.stubEntry.toNat / 2 * 2))).setReg .s 1
    args.1).setReg .s 2 args.2

/-- The trap stub. -/
def stubBytes : List Byte := (List.range 2048).map Config.stubByte

/-- Loads the memories of a core: preload rows, code into half A, and the stub into both halves (R20, R25, R253). -/
def State.loadCore (s : State) (phys : Nat) (c : ICore) : State :=
  let s1 := s.wipe phys
  let m := wrBytes (wrBytes s1.mem (scrKey phys 0) c.data) (iscKey phys false 0) c.code
  { s1 with mem := wrBytes (wrBytes m (iscKey phys false 14336) stubBytes) (iscKey phys true 14336) stubBytes }

/-- Appends a record to a queue of a die. -/
def State.qpush (s : State) (die q : Nat) (r : TRec) : State :=
  s.onDie die (fun d => { d with queues := Sparse.set [] d.queues q (Sparse.get [] d.queues q ++ [r]) })

/-- Takes queues of the dies. -/
def State.takeQueues (s : State) (p : Placed) (bind : List (Nat × Nat × Nat)) : State :=
  bind.foldl (fun s b => s.onDie (p.place.getD b.1 (0, 0, 0, 0)).1 (fun d =>
    { d with bound := b.2.2 :: d.bound, queues := Sparse.set [] d.queues b.2.2 [] })) s

/-- The barriers of an instance at launch (R23, R40). -/
def launchBars (img : Image) : List Barr :=
  (img.bars.zipIdx).flatMap (fun e =>
    (List.range (if e.1.2 = 2 then 1 else img.ldies)).map (fun ld => ⟨ld, e.2, e.1.2, e.1.1, 0, false⟩))

/-- The physical queue of a logical one under a binding. -/
def boundQ (bind : List (Nat × Nat × Nat)) (ld q : Nat) : Nat :=
  ((bind.find? (fun b => b.1 == ld && b.2.1 == q)).map (·.2.2)).getD 0

/-- Admits a launch (R25, R33, R36): every core of it issues its entry bundle in the present period of the task clock, on
which its `TASKCYC` reads 0; START is the cycle of the edge that has begun it (R12, R52). -/
def State.enterInst (s : State) (l : Launch) (img : Image) (p : Placed) (bind : List (Nat × Nat × Nat)) : State :=
  let id := s.nuid + 1
  let inst : Inst := { Inst.unstarted l s.glob with
    id := id, phase := .running, stages := img.stages, rows := img.rows, cols := img.cols, ldies := img.ldies
    queues := img.queues, dmap := p.dmap, place := p.place, held := p.cover img.rows img.cols, sched := img.sched
    bars := launchBars img, bind := bind }
  let s1 : State := { s with nuid := id, insts := s.insts ++ [inst], cands := s.cands.erase l
                             rr := (l.port.toNat * 512 + l.strm + 1) % 1024 }
  let s2 := img.qinit.foldl (fun s e => s.qpush (p.place.getD e.1 (0, 0, 0, 0)).1 (boundQ bind e.1 e.2.1) e.2.2)
    (s1.takeQueues p bind)
  let s3 := img.cores.foldl (fun s c =>
    let phys := p.phys img.rows img.cols c.ldie c.lrow c.lcol
    (s.loadCore phys c).setCore phys (entryCore img l id p bind phys c)) s2
  { s3 with turn := s3.turn ++ img.cores.map (fun c => p.phys img.rows img.cols c.ldie c.lrow c.lcol) }

/-- A candidate for admission (R44). -/
inductive Cand where
  | saved (i : Inst)
  | fresh (l : Launch)
deriving DecidableEq, Repr

/-- The first waiting launch of each stream. -/
def firstOf : List (Bool × Nat) → List Launch → List Launch
  | _, [] => []
  | seen, l :: ls => if seen.contains (l.port, l.strm) then firstOf seen ls else l :: firstOf ((l.port, l.strm) :: seen) ls

/-- The place of a stream in the round-robin. -/
def State.turnOf (s : State) (l : Launch) : Nat := (l.port.toNat * 512 + l.strm + 1024 - s.rr % 1024) % 1024

/-- Whether the module power limit delays a launch at this time (R12). -/
def State.delays (s : State) (l : Launch) : Bool :=
  match l.hold with
  | some t => decide (s.glob < t)
  | none => false

/-- The waiting launches that may be admitted: the first of each stream, none during the thermal hold (R13), and none that
the power limit delays (R12). One that has failed waits for its record alone. -/
def State.waitingNow (s : State) : List Launch :=
  if s.thermal then [] else (firstOf [] (s.cands.filter (fun l => !s.failed l))).filter (fun l => !s.delays l)

/-- Candidates in the order of R44. -/
def State.candOrder (s : State) : List Cand :=
  let fresh := orderBy (fun a b => decide (s.turnOf a < s.turnOf b)) s.waitingNow
  let saved := orderBy (fun a b => decide (a.porder < b.porder)) (s.insts.filter (fun i => i.phase == .saved))
  [3, 2, 1, 0].flatMap (fun p =>
    (saved.filter (fun i => i.l.prio == p)).map Cand.saved ++ (fresh.filter (fun l => l.prio == p)).map Cand.fresh)

/-- What becomes of a boundary: a candidate acts, or none does; `wait` says that an image read waits. -/
inductive Admit where
  | bad (l : Launch)
  | noPlace (l : Launch)
  | start (l : Launch) (img : Image) (p : Placed) (bind : List (Nat × Nat × Nat))
  | resume (i : Inst) (p : Placed) (bind : List (Nat × Nat × Nat))
  | none (wait : Bool)
deriving DecidableEq, Repr

/-- A placement with its queues, from available cores. -/
def State.fit (s : State) (h w ldies queues : Nat) : Option (Placed × List (Nat × Nat × Nat)) :=
  (placeAll s.available h w ldies).bind (fun p => (s.bindQueues p queues).map (fun b => (p, b)))

/-- The first candidate that acts (R30, R44, R50). A launch whose image read must wait is passed over while it waits, and later
candidates are admitted before it (log 35). -/
def State.nextCand : Bool → List Cand → State → Admit × State
  | wait, [], s => (.none wait, s)
  | wait, .saved i :: cs, s =>
    match s.fit i.rows i.cols i.ldies i.queues with
    | some f => (.resume i f.1 f.2, s)
    | none => State.nextCand wait cs s
  | wait, .fresh l :: cs, s =>
    match s.readImage l with
    | (.wait, s1) => State.nextCand true cs s1
    | (.bad, s1) => (.bad l, s1)
    | (.ok img, s1) =>
      if (placeAll s1.placeable img.rows img.cols img.ldies).isNone then (.noPlace l, s1)
      else
        match s1.fit img.rows img.cols img.ldies img.queues with
        | some f => (.start l img f.1 f.2, s1)
        | none => State.nextCand wait cs s1

/-- The pre-emption bound of an instance in global cycles: the smallest of its dies' (R49). -/
def State.boundOf (s : State) (i : Inst) : Nat :=
  1000 * ((i.place.map (fun a => s.bounds.getD a.1 200)).foldl min 10000)

/-- Whether an instance is pre-empted before another (R45): lower priority, then later start, then lower lowest core. -/
def victimBefore (a b : Inst) : Bool :=
  decide (a.l.prio < b.l.prio) || (a.l.prio == b.l.prio && (decide (b.start < a.start) ||
    (a.start == b.start && decide (a.held.foldl min 4096 < b.held.foldl min 4096))))

/-- Requests the pre-emption of one instance for a waiting launch (R45), none while one drains. -/
def State.preemptFor (s : State) : State :=
  let top := (s.waitingNow.map (·.prio)).foldl max 0
  let lower := s.insts.filter (fun i => i.phase == .running && i.l.prio < top)
  let busy := s.insts.any (fun i => match i.phase with
    | .draining _ => true
    | _ => false)
  match orderBy victimBefore lower with
  | v :: _ => if busy then s else s.onInst v.id (fun i => { i with phase := .draining (s.glob + s.boundOf i) })
  | [] => s

/-- What the image reads of waiting launches have asked of peers is of no more use. -/
def State.imagesOver (s : State) : State :=
  s.cands.foldl (fun (t : State) (l : Launch) => if t.failed l then t else t.quit l.who) s

/-- A launch with another hold. -/
def State.setHold (s : State) (l : Launch) (h : Option Nat) : State :=
  { s with cands := s.cands.map (fun x => if x = l then { l with hold := h } else x) }

/-- A launch that would be admitted under a power limit below 4,600 W is delayed once, by a free number of global cycles
(R12, log 31). -/
def State.powerHold (s : State) (l : Launch) : Option State :=
  if s.powerLimit < 4600 && l.hold.isNone then
    let c := s.choose
    some (c.2.setHold l (some (s.glob + c.1)))
  else none

/-- The launch whose delay is over: a launch boundary begins for it. -/
def State.holdOver (s : State) : Option State :=
  match s.cands.find? (fun l => match l.hold with
    | some t => t != 0 && decide (t ≤ s.glob)
    | none => false) with
  | some l => some { s.setHold l (some 0) with boundary := true }
  | none => none

/-- Whether the global cycle is that of a task-clock edge which has just come. -/
def State.atEdge (s : State) : Bool := decide (10 ≤ s.debt)

/-- A launch that has a placement starts on a task-clock edge, unless the power limit delays it. -/
def State.admitAt (s : State) (l : Launch) (img : Image) (p : Placed) (bind : List (Nat × Nat × Nat)) : Option State :=
  match s.powerHold l with
  | some t => some t
  | none => if s.atEdge then some (s.enterInst l img p bind) else none

/-- A boundary that is being served: one candidate of it, or its end. -/
def State.serveBoundary (s : State) : Option State :=
  match State.nextCand false s.candOrder s with
  | (.bad l, s1) => s1.failLaunch l 4
  | (.noPlace l, s1) => s1.failLaunch l 2
  | (.start l img p b, s1) => (s1.quit l.who).admitAt l img p b
  | (.resume _ _ _, _) => none
  | (.none true, s1) => s.waited s1
  | (.none false, s1) => some { s1.imagesOver with boundary := false }.preemptFor

/-- `LAUNCH_ADMISSION` when it is enabled: the record of a launch that has failed, or a boundary, or the end of a power delay. -/
def State.tryAdmit (s : State) : Option State :=
  match s.retryRecords with
  | some t => some t
  | none => if s.boundary then s.serveBoundary else s.holdOver

/-- `LAUNCH_ADMISSION` (R44, R45). -/
def execLaunchAdmission (s : State) : Res := orSame s s.tryAdmit

/-! ### Drain and stop (R46, R47, R270) -/

/-- The name of a core's group within its instance: a group of one core takes a name of its own. -/
def Core.gname (c : Core) : Nat := if c.grp = 0xFFFF then 0x10000 + c.id else c.grp

/-- Whether an instance is draining. -/
def Inst.drains (i : Inst) : Bool :=
  match i.phase with
  | .draining _ => true
  | .forced => true
  | _ => false

/-- Whether a core stands at a drain point, or has exited with nothing in flight (R46). -/
def Core.drained (c : Core) : Bool := if c.exited then !c.landing && c.pend.all (fun p => p.eff.quiet) else c.atDrain && c.calm

/-- Whether a core has nothing left that a stop waits for: it stopped, or it has exited and its results have landed. The
task clock of an exited core goes on for the commands that its channels still hold (R46, R47, R51, log 43). -/
def State.halts (s : State) (k : Nat) : Bool := (s.core k).stopped || ((s.core k).exited && (s.core k).drained)

/-- Whether a core is ready for the stop of its group (R47). -/
def State.mayStop (s : State) (k : Nat) : Bool :=
  let c := s.core k
  c.drained && (c.exited || (!c.stopped && !s.turn.contains k && c.freeze == 0))

/-- The control effects of the last bundle take hold before its core stops (R46); a stalled bundle is presented again. -/
def State.settle (s : State) (k : Nat) : State :=
  let s1 := s.onCore k (fun c => { c with pend := c.pend.map (fun p => { p with due := c.cyc }) })
  (s1.edgeOpen k).edgeLand k

/-- Stops the cores of a group that have not exited. -/
def State.stopCores (s : State) (ks : List Nat) : State :=
  ks.foldl (fun s k => s.onCore k (fun c => { c with stopped := !c.exited, stall := none, stopAt := none })) s

/-- Whether all engine work of an instance has performed. -/
def State.instIdle (s : State) (i : Nat) : Bool := (s.instCores i).all (fun k => (s.engineWork k).isEmpty)

/-- The task cycle on which the group of a core stopped: that of a stopped core of it, else the core's own (R47, log 43). -/
def State.stopCyc (s : State) (k : Nat) : Nat :=
  match (s.groupOf k).find? (fun j => (s.core j).stopped) with
  | some j => (s.core j).cyc
  | none => (s.core k).cyc

/-- Gives exited cores the task cycle on which their groups stopped. -/
def State.alignCyc (s : State) (ks : List Nat) : State :=
  ks.foldl (fun t k => t.onCore k (fun c => { c with cyc := s.stopCyc k })) s

/-- `GROUP_DRAIN_STOP` when it is enabled: the group stops, or with every group stopped and a forced drain the instance
halts. -/
def State.tryStop (s : State) (i grp : Nat) : Option State :=
  match s.inst? i with
  | none => none
  | some x =>
    let all := s.instCores i
    let ks := all.filter (fun k => (s.core k).gname == grp)
    if !x.drains then none
    else if ks.any (fun k => !(s.core k).exited) && ks.all s.mayStop then
      let s1 := ks.foldl State.settle s
      if ks.any (fun k => (s1.core k).flt.isSome) then none else some (s1.stopCores ks)
    else if x.phase == .forced && all.all s.halts && s.instIdle i then
      some ((s.alignCyc all).onInst i (fun x => { x with phase := .halted }))
    else none

/-- `GROUP_DRAIN_STOP` (R47). -/
def execGroupDrainStop (inst grp : Nat) (s : State) : Res := orSame s (s.tryStop inst grp)

/-! ### Saving and resuming (R48, R50, R180) -/

/-- Writes back the dirty mapped quarters of a core (R180). -/
def State.writeBack (s : State) (k : Nat) : List Nat → Acc Unit × State
  | [] => (.ok (), s)
  | q :: qs =>
    let w := s.who k
    Acc.bind (s.wrOp w false (.va ((s.core k).vaOf q)) (rdBytes s.mem (scrKey k (4096 * q)) 4096)) fun _ s1 =>
      s1.writeBack k qs

/-- Writes back for all cores of an instance; a fault names the core. -/
def State.writeBackAll : List Nat → State → (Acc Unit × Option Nat) × State
  | [], s => ((.ok (), none), s)
  | k :: ks, s =>
    match s.writeBack k ((List.range 64).filter (fun q => bitOf (s.core k).mdirty.toNat q && (s.core k).mapped q)) with
    | (.ok _, s1) => State.writeBackAll ks s1
    | (r, s1) => ((r, some k), s1)

/-- The end of what cores do themselves at their home. -/
def State.quitAll (s : State) (ks : List Nat) : State := ks.foldl (fun s k => s.quit (s.who k)) s

/-- A core's saved context (R48). -/
def State.saveCore (s : State) (k : Nat) : SavedCore :=
  { core := s.core k
    scratch := (s.mem.filter (fun e => scrKey k 0 ≤ e.1 && e.1 < scrKey k 0 + 2 ^ 18)).map (fun e => (e.1 - scrKey k 0, e.2))
    code := (s.mem.filter (fun e => iscKey k false 0 ≤ e.1 && e.1 < iscKey k false 0 + 2 ^ 15)).map
      (fun e => (e.1 - iscKey k false 0, e.2))
    errs := s.errs.filter (fun e => e.unit == k && e.ofCore) }

/-- The physical die of a queue binding of an instance. -/
def Inst.qdie (i : Inst) (b : Nat × Nat × Nat) : Nat := (i.place.getD b.1 (0, 0, 0, 0)).1

/-- Frees the cores and the queues of an instance, and begins a launch boundary (R44, R54). -/
def State.release (s : State) (i : Inst) : State :=
  let ks := s.instCores i.id
  let s1 : State := { s with cores := ks.foldl (fun m k => Sparse.del k m) s.cores, boundary := true
                             turn := s.turn.filter (fun k => !ks.contains k) }
  i.bind.foldl (fun s b => s.onDie (i.qdie b) (fun d =>
    { d with bound := d.bound.erase b.2.2, queues := Sparse.set [] d.queues b.2.2 [] })) s1

/-- Bytes of the context pool that an instance of some cores and queues takes (R269). -/
def ctxBytes (cores queues : Nat) : Nat := 360448 * cores + 16384 + 262144 * queues

/-- The bytes of the context pool: at least what an instance on all cores with every physical queue takes (R269, log 39). -/
def poolBytes : Nat := Config.contextPool + ctxBytes 2304 256

/-- Whether the context pool has room for one more instance beside those saved (R269, log 39). -/
def State.poolFits (s : State) (cores queues : Nat) : Bool :=
  decide (((s.insts.filter (fun i => i.phase == .saved)).map (fun i => ctxBytes i.cores.length i.qsave.length)).sum +
    ctxBytes cores queues ≤ poolBytes)

/-- `PREEMPT_COMPLETE` when it is enabled (R47, R48, R180). A pre-emption for which the context pool is short ends the
instance with `PREEMPT_ABORT` (R269). -/
def State.tryPreempt (s : State) (i : Nat) : Option State :=
  match s.inst? i with
  | none => none
  | some x =>
    let ks := s.instCores i
    match x.phase with
    | .draining _ =>
      if ks.all s.halts && s.instIdle i then
        if !s.poolFits ks.length x.bind.length then some (s.stopInst i (.ending 3))
        else match State.writeBackAll ks (s.alignCyc ks) with
        | ((.wait, _), s1) => s.waited s1
        | ((.err c _, k), s1) => some (((s1.quitAll ks).countFault (k.getD 0) c s1.glob).stopInst i (.ending 1))
        | ((.ok _, _), s1) =>
          let s1 := s1.quitAll ks
          let saved := ks.map s1.saveCore
          let qs := x.bind.map (fun b => (b.1, b.2.1, Sparse.get [] (s1.die (x.qdie b)).queues b.2.2))
          some ((s1.release x).onInst i (fun y => { y with
            phase := .saved, held := [], bind := [], cores := saved, qsave := qs, porder := s1.norder
            preempts := min 0xFFFF (y.preempts + 1) }) |> fun s2 => State.replCheck { s2 with norder := s2.norder + 1 } s)
      else none
    | _ => none

/-- `PREEMPT_COMPLETE` (R47, R48). -/
def execPreemptComplete (inst : Nat) (s : State) : Res := orSame s (s.tryPreempt inst)

/-- `PREEMPT_ABORT` when it is enabled: the bound is over (R49). -/
def State.tryPreemptAbort (s : State) (i : Nat) : Option State :=
  match s.inst? i with
  | none => none
  | some x =>
    match x.phase with
    | .draining till => if till < s.glob then some (s.stopInst i (.ending 3)) else none
    | _ => none

/-- `PREEMPT_ABORT` (R49). -/
def execPreemptAbort (inst : Nat) (s : State) : Res := orSame s (s.tryPreemptAbort inst)

/-- Restores a saved core on a physical core (R50): its registers and memories return; `PCORE` and `TQBIND` are new; mapped
quarters are not resident and clean (R180). -/
def State.restoreCore (s : State) (p : Placed) (bind : List (Nat × Nat × Nat)) (h w : Nat) (x : SavedCore) : State :=
  let phys := p.phys h w x.core.ldie x.core.lrow x.core.lcol
  let s1 := s.wipe phys
  let m1 := x.scratch.foldl (fun m e => wrByte m (scrKey phys 0 + e.1) e.2) s1.mem
  let m2 := x.code.foldl (fun m e => wrByte m (iscKey phys false 0 + e.1) e.2) m1
  let c : Core := { x.core with id := phys, stopped := false, atDrain := false, mres := 0, mdirty := 0 }
  let s2 : State := { s1 with mem := m2, errs := s1.errs ++ x.errs.map (fun (e : ErrMark) => { e with unit := phys }) }
  s2.setCore phys (c.placeRegs p bind)

/-- Resumes a saved instance under a placement. -/
def State.resumeAt (s : State) (i : Inst) (p : Placed) (bind : List (Nat × Nat × Nat)) : State :=
  let s1 := i.qsave.foldl (fun s e => s.onDie (p.place.getD e.1 (0, 0, 0, 0)).1 (fun d =>
    { d with queues := Sparse.set [] d.queues (boundQ bind e.1 e.2.1) e.2.2 })) (s.takeQueues p bind)
  let s2 := i.cores.foldl (fun s x => s.restoreCore p bind i.rows i.cols x) s1
  s2.onInst i.id (fun y => { y with
    phase := .running, dmap := p.dmap, place := p.place, held := p.cover i.rows i.cols, bind := bind, cores := [], qsave := [] })

/-- `INSTANCE_RESUME` when it is enabled: at a launch boundary, in its turn (R44, R50). -/
def State.tryResume (s : State) (i : Nat) : Option State :=
  if !s.boundary then none
  else
    match State.nextCand false s.candOrder s with
    | (.resume x p b, s1) => if x.id = i then some (s1.resumeAt x p b) else none
    | _ => none

/-- `INSTANCE_RESUME` (R50). -/
def execInstanceResume (inst : Nat) (s : State) : Res := orSame s (s.tryResume inst)

/-! ### Retirement (R51 to R54) -/

/-- The status with which an instance retires. -/
def Inst.status (i : Inst) : Nat :=
  match i.phase with
  | .ending n => n
  | _ => 0

/-- Whether an instance may retire: no core of it issues, nothing is in flight, and its engine work has performed. -/
def State.mayRetire (s : State) (i : Inst) : Bool :=
  i.phase != .saved && i.phase != .halted &&
  (s.instCores i.id).all (fun k => (s.core k).exited && (s.core k).pend.isEmpty && (s.core k).flt.isNone) && s.instIdle i.id

/-- Removes an instance. Units that firmware has retired leave PCORES with it (R14, R266, R267). -/
def State.dropInst (s : State) (i : Inst) : State :=
  let s1 := s.release i
  State.replCheck { s1 with insts := s1.insts.filter (fun x => x.id != i.id) } s

/-- `INSTANCE_RETIRE` when it is enabled: the record performs, and the cores and queues are released in the same step. A record that
must wait is due as it stands now. -/
def State.tryRetireInst (s : State) (i : Nat) : Option State :=
  match s.inst? i with
  | none => none
  | some x =>
    if !s.mayRetire x then none
    else if x.phase == .vanish then some ((s.quit x.l.who).dropInst x)
    else
      match s.writeRecord x x.status with
      | (.ok true, s1) => some (s1.dropInst x)
      | (.ok false, s1) => some s1
      | (_, s1) => s.waited s1

/-- `INSTANCE_RETIRE` (R51 to R54). -/
def execInstanceRetire (inst : Nat) (s : State) : Res := orSame s (s.tryRetireInst inst)

end Sys2Proof.Machine
end

