-- ==== Sys2Proof/Machine/Boot.lean ====
section
/-! DEFINITION. Power, the boot window and the start of firmware (spec/12_host.md R273 to R276, R443), the thermal marks
(spec/01_module.md R13), and what firmware takes out of the module (R14, R267). -/

namespace Sys2Proof.Machine

/-! ### Power (R13, R267, R273) -/

/-- Without power nothing of the module keeps its state; host and peer memory are not its own. What is sent, and the free
choices already made, stand. -/
def State.powerLost (s : State) : State :=
  { State.reset with
    power := false, mem := s.mem.filter (fun e => decide (2 ^ 64 ≤ e.1)), inbox := s.inbox, out := s.out, free := s.free
    epoch := s.epoch + 1
    ports := [(0, { Port.zero with up := false }), (1, { Port.zero with up := false })] }

/-- `MODULE_POWER_UP` (R273): the boot ROMs open the boot window of a module that had no power. -/
def execModulePowerUp (s : State) : Res := .next (if s.power then s else { s with power := true, ports := [] })

/-- `MODULE_POWER_OFF` (R267). -/
def execModulePowerOff (s : State) : Res := .next (if s.power then s.powerLost else s)

/-- `THERMAL_TRIP` (R13). -/
def execThermalTrip (s : State) : Res := .next (if s.power then s.powerLost else s)

/-- `THERMAL_THROTTLE` (R13): no further launch is admitted; firmware raises the THERMAL event. -/
def execThermalThrottle (s : State) : Res :=
  .next (if s.power && s.fwUp && !s.thermal then { s with thermal := true }.eventAll 6 0 0
    else { s with thermal := s.thermal || s.power })

/-- `THERMAL_RELEASE` (R13): launches are tried again. -/
def execThermalRelease (s : State) : Res := .next (if s.thermal then { s with thermal := false, boundary := true } else s)

/-! ### The claim (R274) -/

/-- Whether a host reaches the module through a port. -/
def State.reachable (s : State) (p : Bool) : Bool := s.power && (s.port p).up

/-- STATE of the window for a claim of a port. -/
def claimOf (p : Bool) : Nat := if p then 2 else 1

/-- The port holds the claim. -/
def State.claims (s : State) (p : Bool) : Bool := s.boot.st == claimOf p

/-- The claim of a port (R274). -/
def Boot.claim (b : Boot) (port : Bool) (now : Nat) : Boot :=
  { b with st := claimOf port, tm := now, before := (b.addr, b.len, b.result, b.attempts) }

/-- The window without the claim of port 1 that a tie undoes: what port 1 has written since is ignored (R274). -/
def Boot.unclaim (b : Boot) : Boot :=
  { b with st := 0, load := none, addr := b.before.1, len := b.before.2.1, result := b.before.2.2.1, attempts := b.before.2.2.2 }

/-- `BOOTCLAIM_WRITE` (R274): a claim in the open window; of two claims on one global cycle port 0 wins. -/
def execBootclaimWrite (port : Bool) (v : W64) (s : State) : Res :=
  let b := s.boot
  .next (if !s.reachable port || !v.getLsbD 0 then s
    else if b.st = 0 then { s with boot := b.claim port s.glob }
    else if b.st = 2 && !port && b.tm == s.glob then { s with boot := b.unclaim.claim port s.glob }
    else s)

/-- A claim ends (R274); a load in progress ends with it. -/
def Boot.lapse (b : Boot) (result : Nat) : Boot := { b with st := 0, load := none, result := result }

/-- `BOOT_CLAIM_LAPSE` when it is enabled: no GO within 10 s of the claim. -/
def State.tryLapse (s : State) : Option State :=
  let b := s.boot
  if s.power && (b.st == 1 || b.st == 2) && b.load.isNone && b.result != 2 && decide (b.tm + 10 ^ 10 ≤ s.glob) then
    some { s with boot := b.lapse b.result }
  else none

/-- `BOOT_CLAIM_LAPSE` (R274). -/
def execBootClaimLapse (s : State) : Res := orSame s s.tryLapse

/-! ### The load and its checks (R275) -/

/-- `BOOT_LOAD_START` (R273, R275): the claimant writes LEN; GO starts a load where none runs. -/
def execBootLoadStart (port : Bool) (v : W64) (s : State) : Res :=
  let b := s.boot
  let b1 := { b with len := v.toNat % 2 ^ 25 }
  .next (if !s.reachable port || !s.claims port then s
    else if bitOf v.toNat 63 && b.load.isNone && b.result != 2 then
      { s with boot := { b1 with load := some (b.addr.toNat, b1.len), result := 1, attempts := min 0xFF (b.attempts + 1) } }
    else { s with boot := b1 })

/-- LEN obeys its range. -/
def bootLenOk (n : Nat) : Bool := n % 4096 == 0 && decide (4096 ≤ n) && decide (n ≤ 16777216)

/-- RESULT of the checks of an image (R275). -/
def bootCheck (img : List Byte) : Nat :=
  let n := img.length
  let key := (img.drop 0x20).take 97
  let sig := img.drop (n - 96)
  if !bootLenOk n || fieldAt img 0 4 != 0x324C4C48 || fieldAt img 4 4 != n || fieldAt key 0 1 != 4 then 0x10
  else if sha384 key != Config.keyHash then 0x11
  else if ecdsaOk (beNat ((key.drop 1).take 48), beNat (key.drop 49)) (beNat (sig.take 48)) (beNat (sig.drop 48))
      (sha384 (img.take (n - 96))) then 0x02
  else 0x12

/-- Where the image goes in HBM of stack 0 (log 3). -/
def bootImageAt : Nat := Config.bootImage.toNat % (2 ^ 36 - 2 ^ 24)

/-- `BOOT_IMAGE_CHECK` when it is enabled, once the cycle of the claim is over: the image is read by DMA and checked; a read that the host does not answer has
failed (R273, log 13). A RESULT of 0x10 or above ends the claim (R274). -/
def State.tryBootCheck (s : State) : Option State :=
  match s.boot.load with
  | none => none
  | some (bus, n) =>
    if s.boot.tm = s.glob then none
    else if !bootLenOk n then some { s with boot := s.boot.lapse 0x10 }
    else if Config.hostRefuses (s.boot.st == 2) bus n then some { s with boot := s.boot.lapse 0x13 }
    else
      let img := rdBytes s.mem (hostKey (s.boot.st == 2) bus) n
      let r := bootCheck img
      some { s with
        mem := wrBytes s.mem (hbmKey bootImageAt) img
        boot := if r = 2 then { s.boot with result := 2, load := none } else s.boot.lapse r }

/-- `BOOT_IMAGE_CHECK` (R275). -/
def execBootImageCheck (s : State) : Res := orSame s s.tryBootCheck

/-! ### Firmware (R276, R443) -/

/-- The indices below `n` whose bit a mask leaves clear. -/
def clearBits (n m : Nat) : List Nat := (List.range n).filter (fun i => !bitOf m i)

/-- Where the context table of a power-up lies: 256 KiB of local HBM (R165, R443, log 3). -/
def ctxTableAt (e : Nat) : Nat := (Config.ctxBase e).toNat % 2 ^ 23 * 2 ^ 18

/-- Where the set table of a power-up lies: 1 GiB of local HBM that does not hold the context table (R165, R443, log 3). -/
def setTableAt (e : Nat) : Nat :=
  let g := (Config.setBase e).toNat % 2 ^ 11
  (if g = ctxTableAt e / 2 ^ 30 then (g + 1) % 2 ^ 11 else g) * 2 ^ 30

/-- `FIRMWARE_BOOT_COMPLETE` (R276): after a successful check firmware loads `MODID`, retires the listed units, writes
`CTXBASE` and `SETBASE`, and closes the window. `hbm` and `cports` are the stacks and ports that it found usable. -/
def execFirmwareBootComplete (fwMin : BitVec 8) (hbm : BitVec 32) (cports : BitVec 128) (units : List (BitVec 32)) (s : State) :
    Res :=
  .next (if s.power && s.boot.result == 2 && !s.fwUp then
    State.replCheck (old := s) { s with
      fwUp := true, fwMaj := 2, fwMin := fwMin.toNat, boot := { s.boot with st := 3 }
      stackOff := clearBits 32 hbm.toNat, portDown := clearBits 128 cports.toNat
      retired := s.retired ++ units.filter (fun (u : BitVec 32) => unitOk u.toNat)
      ctxbase := BitVec.ofNat 64 (ctxTableAt s.epoch), setbase := BitVec.ofNat 64 (setTableAt s.epoch) }
  else s)

/-- `MODID` (R14). -/
def State.modid (s : State) : Nat :=
  2 * 2 ^ 56 + s.fwMaj % 256 * 2 ^ 48 + s.fwMin % 256 * 2 ^ 40 + s.diemask.toNat * 2 ^ 32 +
  (if s.fwUp then s.pcores * 2 ^ 20 + s.stackCount * 2 ^ 12 + s.cportCount * 2 ^ 4 else 0) + s.repl.toNat

/-! ### What firmware takes out (R14, R267) -/

/-- `DIEMASK_CLEAR` (R14, R267): the die's cores, stacks and ports leave the counts, and REPL is raised. -/
def execDiemaskClear (die : BitVec 2) (s : State) : Res :=
  .next (if s.fwUp && s.diemask.getLsbD die.toNat then
    { s with diemask := s.diemask &&& ~~~(1#4 <<< die.toNat) }.replace else s)

/-- `STACK_DISABLE` (R14, R267): STACKS falls where the stack's die still counts. -/
def execStackDisable (stack : BitVec 5) (s : State) : Res :=
  let s1 : State := { s with stackOff := s.stackOff ++ [stack.toNat] }
  .next (if !s.fwUp || s.stackOff.contains stack.toNat then s
    else if s.diemask.getLsbD (stack.toNat / 8) then s1.replace else s1)

end Sys2Proof.Machine
end

