-- ==== Sys2Proof/Machine/Ports.lean ====
section
/-! DEFINITION. The PCI Express ports (spec/12_host.md R277, R278, R280 to R282, R445; spec/07_translation.md R169, R170):
register writes through BAR0, the event ring, resets and link loss, host-half translation, and the BAR2 window. -/

namespace Sys2Proof.Machine

/-! ### Stream contexts (R277, R278) -/

/-- A byte as a control byte. -/
def flagByte (l : List Bool) : Byte := BitVec.ofNat 8 (flagBits l)

/-- The 64 bytes of a stream context as they read. -/
def Strm.bytes (t : Strm) : List Byte :=
  leBytes 8 t.ring.toNat ++ leBytes 1 t.log2n ++ leBytes 1 t.prio ++ leBytes 2 t.asid ++
  [flagByte [t.en, t.err, t.debug], 0, 0, 0] ++ leBytes 4 t.wridx.toNat ++ leBytes 4 t.consumed.toNat ++
  leBytes 4 t.completed.toNat ++ leBytes 1 t.errcode ++ leBytes 3 0 ++ leBytes 4 t.errseq.toNat ++ leBytes 28 0

/-- LOG2N obeys its range. -/
def logOk (n : Nat) : Bool := decide (4 ≤ n) && decide (n ≤ 16)

/-- A field that a write reaches only while `free` holds. -/
def gated {α : Type} (free : Bool) (new old : α) : α := if free then new else old

/-- The fields of a stream context apart from EN after a write whose bytes are `b` (R277). -/
def Strm.fields (t : Strm) (b : List Byte) : Strm :=
  let fr := !t.en
  let done := BitVec.ofNat 32 (fieldAt b 0x18 4)
  { t with
    ring := gated fr (BitVec.ofNat 64 (fieldAt b 0 8)) t.ring
    log2n := gated (fr && logOk (fieldAt b 8 1)) (fieldAt b 8 1) t.log2n
    prio := gated fr (fieldAt b 9 1 % 4) t.prio
    asid := gated fr (fieldAt b 10 2 % 2 ^ 14) t.asid
    debug := gated fr (bitOf (fieldAt b 0xC 1) 2) t.debug
    wridx := BitVec.ofNat 32 (fieldAt b 0x10 4)
    consumed := gated fr (BitVec.ofNat 32 (fieldAt b 0x14 4)) t.consumed
    completed := gated fr done t.completed
    ahead := gated (fr && done != t.completed) [] t.ahead }

/-- A stream error (R278): ERR, ERRCODE, ERRSEQ, and the event. -/
def State.streamErr (s : State) (p : Bool) (n code : Nat) (seq : W32) : State :=
  (s.onStrm p n (fun t => { t with err := true, errcode := code, errseq := seq })).event p 2 code n seq 0

/-- Writes EN (R277, R278): clearing it clears ERR; setting it with LOG2N out of range sets ERR with code 0x04. -/
def State.setEn (s : State) (p : Bool) (n : Nat) (v : Bool) : State :=
  let t := s.strm p n
  let s1 := s.onStrm p n (fun t => { t with en := v, err := t.err && v })
  if v && !t.en && !logOk t.log2n then s1.streamErr p n 4 (t.consumed + 1) else s1

/-- A write of a context's bytes; `ctl` says that it writes the byte of CTL that holds EN. -/
def State.writeStrm (s : State) (p : Bool) (n : Nat) (b : List Byte) (ctl : Bool) : State :=
  let s1 := s.onStrm p n (·.fields b)
  if ctl then s1.setEn p n (bitOf (fieldAt b 0xC 1) 0) else s1

/-- Whether firmware serves a port's registers (R276). -/
def State.serves (s : State) (p : Bool) : Bool := s.reachable p && s.fwUp

/-- The port through which a host access comes that keeps the order of that port (R160): an access of the BAR2 window, or a write
of what firmware serves behind BAR0. -/
def hostPort (i : Instr) : Option Bool :=
  match i with
  | .bar2WindowWrite p _ _ => some p
  | .bar2WindowRead p _ _ => some p
  | .registerWrite p _ _ => some p
  | .streamEnable p _ => some p
  | .streamDisable p _ => some p
  | .streamWridxWrite p _ _ => some p
  | .eventRingEnable p => some p
  | .evconsWrite p _ => some p
  | _ => none

/-- The host accesses of a port that wait. -/
def State.parked (s : State) (p : Bool) : List Instr := s.waiting.filter (fun i => hostPort i == some p)

/-- A host access that waits. -/
def State.park (s : State) (i : Instr) : State := { s with waiting := s.waiting ++ [i] }

/-- A host access in the order of its port: behind one that waits it waits too (R160). -/
def State.inOrder (s : State) (p : Bool) (i : Instr) (r : State) : Res := .next (if (s.parked p).isEmpty then r else s.park i)

/-- `STREAM_ENABLE` (R277, R278). -/
def execStreamEnable (port : Bool) (strm : BitVec 9) (s : State) : Res :=
  s.inOrder port (.streamEnable port strm) (if s.serves port then s.setEn port strm.toNat true else s)

/-- `STREAM_DISABLE` (R278). -/
def execStreamDisable (port : Bool) (strm : BitVec 9) (s : State) : Res :=
  s.inOrder port (.streamDisable port strm) (if s.serves port then s.setEn port strm.toNat false else s)

/-- `STREAM_WRIDX_WRITE` (R278). -/
def execStreamWridxWrite (port : Bool) (strm : BitVec 9) (v : W32) (s : State) : Res :=
  s.inOrder port (.streamWridxWrite port strm v)
    (if s.serves port then s.onStrm port strm.toNat (fun t => { t with wridx := v }) else s)

/-! ### The event ring (R280) -/

/-- The 64 bytes of an event ring context as they read. -/
def Port.ringBytes (q : Port) : List Byte :=
  leBytes 8 q.evring.toNat ++ leBytes 1 q.evlog ++ [flagByte [q.even]] ++ leBytes 6 0 ++ leBytes 4 q.evprod.toNat ++
  leBytes 4 q.evcons.toNat ++ leBytes 4 q.evlost.toNat ++ leBytes 36 0

/-- Writes EN of the ring: ignored while LOG2N is out of range; held events follow when it is set. -/
def State.setEven (s : State) (p v : Bool) : State :=
  (s.onPort p (fun q => { q with even := v && (q.even || logOk q.evlog) })).flushEvts p 1024

/-- A write of the ring context's bytes; `ctl` says that it writes the byte that holds EN. -/
def State.writeRing (s : State) (p : Bool) (b : List Byte) (ctl : Bool) : State :=
  let s1 := s.onPort p (fun q => { q with
    evring := gated (!q.even) (BitVec.ofNat 64 (fieldAt b 0 8)) q.evring
    evlog := gated (!q.even && logOk (fieldAt b 8 1)) (fieldAt b 8 1) q.evlog
    evcons := BitVec.ofNat 32 (fieldAt b 0x14 4) })
  if ctl then s1.setEven p (bitOf (fieldAt b 9 1) 0) else s1.flushEvts p 1024

/-- `EVENT_RING_ENABLE` (R280). -/
def execEventRingEnable (port : Bool) (s : State) : Res :=
  s.inOrder port (.eventRingEnable port) (if s.serves port then s.setEven port true else s)

/-- `EVCONS_WRITE` (R280). -/
def execEvconsWrite (port : Bool) (v : W32) (s : State) : Res :=
  s.inOrder port (.evconsWrite port v)
    (if s.serves port then (s.onPort port (fun q => { q with evcons := v })).flushEvts port 1024 else s)

/-! ### Writes through BAR0 (R6, R273, R277, R280) -/

/-- Overlays bytes from an offset on. -/
def overlay (old : List Byte) (off : Nat) (new : List Byte) : List Byte :=
  old.take off ++ new ++ old.drop (off + new.length)

/-- The 64 bytes of the boot window (R14, R273): `MODID`, `BOOTCLAIM`, `BOOTADDR`, `BOOTLEN`, `BOOTSTAT`. -/
def State.windowBytes (s : State) : List Byte :=
  leBytes 8 s.modid ++ leBytes 8 (s.boot.st * 2 ^ 62) ++ leBytes 8 s.boot.addr.toNat ++ leBytes 8 s.boot.len ++
  leBytes 8 (s.boot.result * 2 ^ 56 + s.boot.attempts * 2 ^ 48) ++ leBytes 24 0

/-- Whether a write of `n` bytes at `off` of a block reaches some bytes of it. -/
def hitsAt (off n a len : Nat) : Bool := decide (off < a + len) && decide (a < off + n)

/-- A write of `BOOTADDR` (R273): the claimant's alone. -/
def State.bootAddr (s : State) (p : Bool) (v : Nat) : State :=
  if s.claims p then { s with boot := { s.boot with addr := BitVec.ofNat 64 (v / 2 ^ 12 * 2 ^ 12) } } else s

/-- A write into the boot window's registers, in the order of their offsets: the claim, the claimant's address, and its
length with GO (R6, R273). -/
def State.writeWindow (s : State) (p : Bool) (off : Nat) (b new : List Byte) : Res :=
  match if hitsAt off new.length 8 8 then execBootclaimWrite p (BitVec.ofNat 64 (fieldAt b 8 8)) s else .next s with
  | .next s1 =>
    let s2 := if hitsAt off new.length 0x10 8 then s1.bootAddr p (fieldAt b 0x10 8) else s1
    if hitsAt off new.length 0x18 8 then execBootLoadStart p (BitVec.ofNat 64 (fieldAt b 0x18 8)) s2 else .next s2
  | r => r

/-- What the 64 bytes of BAR0 at a block's offset read as: the boot window and `MODID`; with firmware the ring context and the
stream contexts; every other offset reads zero (R273, R276, R277, R280). -/
def State.blockBytes (s : State) (p : Bool) (blk : Nat) : List Byte :=
  if blk = 0 then s.windowBytes
  else if !s.fwUp then leBytes 64 0
  else if blk = 0xF0000 then (s.port p).ringBytes
  else if 0x100000 ≤ blk && blk < 0x108000 then (s.strm p ((blk - 0x100000) / 64)).bytes
  else leBytes 64 0

/-- One byte of BAR0 as a host reads it through a port. -/
def State.readBar0 (s : State) (p : Bool) (off : Nat) : Byte := (s.blockBytes p (off / 64 * 64)).getD (off % 64) 0

/-- One piece of a BAR0 write: at most 64 bytes within one 64-byte block. Other offsets ignore it. -/
def State.writeBlock (s : State) (p : Bool) (off : Nat) (new : List Byte) : Res :=
  let o := off % 64
  let blk := off / 64 * 64
  let b := overlay (s.blockBytes p blk) o new
  if !s.reachable p then .next s
  else if blk = 0 then s.writeWindow p o b new
  else if !s.fwUp then .next s
  else if blk = 0xF0000 then .next (s.writeRing p b (hitsAt o new.length 9 1))
  else if 0x100000 ≤ blk && blk < 0x108000 then
    .next (s.writeStrm p ((blk - 0x100000) / 64) b (hitsAt o new.length 0xC 1))
  else .next s

/-- Writes bytes through BAR0, block by block. -/
def State.writeBar0 (p : Bool) : Nat → Nat → List Byte → State → Res
  | 0, _, _, s => .next s
  | n + 1, off, bs, s =>
    if bs.isEmpty then .next s
    else
      let k := 64 - off % 64
      match s.writeBlock p off (bs.take k) with
      | .next s1 => State.writeBar0 p n (off + k) (bs.drop k) s1
      | r => r

/-- `REGISTER_WRITE` (R6): a host write through BAR0 under the access codes. -/
def execRegisterWrite (port : Bool) (off : BitVec 26) (data : List Byte) (s : State) : Res :=
  if (s.parked port).isEmpty then State.writeBar0 port (pieces data.length) off.toNat data s
  else .next (s.park (.registerWrite port off data))

/-! ### Resets and links (R282, R274) -/

/-- Ends the instances of a port without records (R282): running ones are killed, saved ones discarded. -/
def State.killPort (s : State) (p : Bool) : State :=
  let rest := (s.cands.filter (fun l => l.port == p)).foldl (fun (t : State) (l : Launch) => t.quit l.who) s
  let s1 : State := { rest with
    cands := s.cands.filter (fun l => l.port != p)
    insts := s.insts.filter (fun i => !(i.l.port == p && i.phase == .saved)) }
  ((s1.insts.filter (fun i => i.l.port == p)).map (·.id)).foldl (fun s i => s.stopInst i .vanish) s1

/-- A launch in flight. -/
def SCmd.isLaunch (c : SCmd) : Bool :=
  match c.kind with
  | .launch _ _ _ _ => true
  | _ => false

/-- A stream disabled by a reset: its launches never complete (R282). -/
def Strm.reset (t : Strm) : Strm := { t with en := false, err := false, fly := t.fly.filter (fun c => !c.isLaunch) }

/-- Host-half translation through a port stops (R169, R282): no translation of it stands, and no request. -/
def State.atsStop (s : State) (p : Bool) : State :=
  (s.hostDrop p (fun _ => true)).onPort p (fun q => { q with refused := [], preqs := [] })

/-- What a function-level reset and a link loss share (R282): streams, the event ring, instances, host-half translation, and
the host accesses that wait. -/
def State.portReset (s : State) (p : Bool) : State :=
  let s1 := ((s.killPort p).atsStop p).onPort p (fun q => { q with
    strms := q.strms.map (fun e => (e.1, e.2.map Strm.reset))
    even := false, held := [], evcons := q.evseq, inval := [] })
  { s1 with waiting := s1.waiting.filter (fun i => hostPort i != some p) }

/-- `FUNCTION_LEVEL_RESET` (R282): it also clears the enables of R169. -/
def execFunctionLevelReset (port : Bool) (s : State) : Res :=
  .next (if s.reachable port then (s.portReset port).onPort port (fun q => { q with ats := false }) else s)

/-- `LINK_DOWN` (R282, R274): a claim of the port lapses; a load that it fed has failed. -/
def execLinkDown (port : Bool) (s : State) : Res :=
  let s1 := (s.portReset port).onPort port (fun q => { q with up := false })
  .next (if !s.reachable port then s
    else if s.claims port then { s1 with boot := s.boot.lapse (if s.boot.load.isSome then 0x13 else s.boot.result) } else s1)

/-- `LINK_UP` (R282). -/
def execLinkUp (port : Bool) (s : State) : Res :=
  .next (if s.power then s.onPort port (fun q => { q with up := true }) else s)

/-! ### Host-half translation (R169, R170) -/

/-- `ADDRESS_TRANSLATION_ENABLE` (R169): without the enables no translation stands. -/
def execAddressTranslationEnable (port en : Bool) (s : State) : Res :=
  .next (if s.reachable port then
    (if en then s else s.atsStop port).onPort port (fun q => { q with ats := en })
  else s)

/-- The size at which a grant is held (R170): the largest that the range allows and to which the page is aligned. -/
def grantSize (a : HostPage) : Option Nat :=
  [30, 26, 21, 16, 12].find? (fun l => decide (l ≤ a.log2) && a.va.toNat % 2 ^ l == 0 && a.bus.toNat % 2 ^ l == 0)

/-- The grant of the page that holds an address, or nothing where the answer does not cover it. -/
def grantAt (a : HostPage) (va : Nat) : Option HostPage :=
  match grantSize a with
  | none => none
  | some l =>
    if a.va.toNat ≤ va && va < a.va.toNat + 2 ^ a.log2 then
      let base := va / 2 ^ l * 2 ^ l
      some { a with va := BitVec.ofNat 56 base, bus := a.bus + BitVec.ofNat 64 (base - a.va.toNat), log2 := l }
    else none

/-- The TLB entry of a grant: the die holds it for the ASID that asked (R170, R171). -/
def grantEnt (p : Bool) (asid : Nat) (g : HostPage) : TlbEnt := ⟨asid, g.va.toNat, g.log2, 0, 0, some (p, g), false⟩

/-- Puts a grant into the TLB of the die that asked. -/
def State.holdGrant (s : State) (p : Bool) (r : PReq) (g : HostPage) : State :=
  let e := grantEnt p r.asid g
  s.onDie r.die (fun d => { d with tlb := (e :: d.tlb.filter (fun t => t != e)).take 4096 })

/-- Page requests that are with the host. -/
def Port.paging (q : Port) : Nat := (q.preqs.filter (fun r => r.stage == .paging)).length

/-- Sends the page request of a miss, where fewer than 512 are outstanding; else the miss waits for a free entry (R169). -/
def State.askPage (s : State) (p : Bool) (r : PReq) : State :=
  if (s.port p).paging < 512 then
    (s.onPort p (fun q => { q with preqs := q.preqs.map (fun x =>
      if x.id = r.id then { x with stage := .paging, tm := s.glob } else x) })).send (.pageReq p r.id (s.pasidOf r.asid) r.va r.w)
  else s.onPort p (fun q => { q with preqs := q.preqs.map (fun x => if x.id = r.id then { x with stage := .queued } else x) })

/-- A miss is over; one that waited for an entry takes the place of its page request. -/
def State.missOver (s : State) (p : Bool) (r : PReq) : State :=
  let s1 := s.onPort p (fun q => { q with preqs := q.preqs.filter (fun x => x.id != r.id) })
  match (s1.port p).preqs.find? (fun x => x.stage == .queued) with
  | some x => if (s1.port p).paging < 512 then s1.askPage p x else s1
  | none => s1

/-- A miss that the host refuses, or does not answer: an access that waits for it faults with `HOST` (R169). -/
def State.missFails (s : State) (p : Bool) (r : PReq) : State :=
  (s.missOver p r).onPort p (fun q => { q with refused := q.refused ++ [(r.die, r.asid, r.va)] })

/-- The host's answer to the request of a miss (R169): a grant that permits the access; a page that is not present or not
permitted, for which a page request goes out; a refusal, or a grant that does not cover the page; a page request served, after
which the access asks again. -/
def State.hostAnswer (s : State) (p : Bool) (r : PReq) (ans : HostAns) : State :=
  let absent : State := if r.stage == .asked then s.askPage p r else s
  match ans with
  | .grant a => (match grantAt a r.va with
    | some g => if g.w || !r.w then (s.missOver p r).holdGrant p r g else absent
    | none => s.missFails p r)
  | .absent => absent
  | .refused => s.missFails p r
  | .paged => if r.stage == .paging then s.missOver p r else s

/-- `HOST_PAGE_RESPONSE` (R169). -/
def execHostPageResponse (port : Bool) (req : Nat) (ans : HostAns) (s : State) : Res :=
  match (s.port port).preqs.find? (fun r => r.id == req) with
  | none => .next s
  | some r => .next (if s.atsOn port then s.hostAnswer port r ans else s)

/-- `PAGE_REQUEST_TIMEOUT` when it is enabled: 100 ms are over. -/
def State.tryPageTimeout (s : State) (p : Bool) (req : Nat) : Option State :=
  match (s.port p).preqs.find? (fun r => r.id == req) with
  | some r => if r.stage == .paging && decide (r.tm + 10 ^ 8 ≤ s.glob) then some (s.missFails p r) else none
  | none => none

/-- `PAGE_REQUEST_TIMEOUT` (R169). -/
def execPageRequestTimeout (port : Bool) (req : Nat) (s : State) : Res := orSame s (s.tryPageTimeout port req)

/-- Whether an entry of a TLB meets a range of a process that the host names. -/
def State.inRange (s : State) (pasid lo len : Nat) (t : TlbEnt) : Bool :=
  s.pasidOf t.asid == pasid && decide (t.va < lo + len) && decide (lo < t.va + 2 ^ t.log2)

/-- `HOST_INVALIDATION_REQUEST` (R170): the entries that meet the range go. -/
def execHostInvalidationRequest (port : Bool) (tag : Nat) (pasid : BitVec 20) (va : BitVec 56) (log2 : Nat) (s : State) : Res :=
  .next (if s.atsOn port then
    (s.hostDrop port (s.inRange pasid.toNat (va.toNat / 2 ^ log2 * 2 ^ log2) (2 ^ log2))).onPort port (fun q =>
      { q with inval := q.inval ++ [tag] })
  else s)

/-- `HOST_INVALIDATION_COMPLETION` when it is enabled: every access of this model that used an entry has performed. -/
def State.tryInvalDone (s : State) (p : Bool) (tag : Nat) : Option State :=
  if (s.port p).inval.contains tag then
    some ((s.onPort p (fun q => { q with inval := q.inval.erase tag })).send (.invDone p tag))
  else none

/-- `HOST_INVALIDATION_COMPLETION` (R170). -/
def execHostInvalidationCompletion (port : Bool) (tag : Nat) (s : State) : Res := orSame s (s.tryInvalDone port tag)

/-! ### The BAR2 window (R281, R445) -/

/-- The VA of a window offset. -/
def Port.windowVA (q : Port) (off : Nat) : Nat := 2 ^ 56 + q.apbase.toNat + off

/-- The agent of a port's window. -/
def State.windowWho (s : State) (p : Bool) : Who := { hostWho p (s.port p).apasid with op := 1 }

/-- A window access that has performed: those that wait behind it may. -/
def State.windowed (s : State) (p : Bool) : State := s.quit (s.windowWho p)

/-- A window access that must wait: what it has asked of hosts and peers stands. -/
def State.windowWait (s s1 : State) (i : Instr) : State := ((s.waited s1).getD s).park i

/-- `BAR2_WINDOW_WRITE` (R445): a write that fails translation is dropped and logged, and changes nothing else. -/
def execBar2WindowWrite (port : Bool) (off : BitVec 36) (data : List Byte) (s : State) : Res :=
  let i : Instr := .bar2WindowWrite port off data
  if !s.serves port then .next s
  else if !(s.parked port).isEmpty then .next (s.park i)
  else
    match s.wrOp (s.windowWho port) false (.va ((s.port port).windowVA off.toNat)) data with
    | (.ok _, s1) => .next (s1.windowed port)
    | (.err _ _, s1) => .next (((s.undone s1).windowed port).send (.aer port))
    | (.wait, s1) => .next (s.windowWait s1 i)

/-- `BAR2_WINDOW_READ` (R445): a read that fails is answered with Completer Abort, and logged. -/
def execBar2WindowRead (port : Bool) (off : BitVec 36) (len : Nat) (s : State) : Res :=
  let i : Instr := .bar2WindowRead port off len
  if !s.serves port then .next s
  else if !(s.parked port).isEmpty then .next (s.park i)
  else
    match s.rdOp (s.windowWho port) false (.va ((s.port port).windowVA off.toNat)) len with
    | (.ok bs, s1) => .next ((s1.windowed port).send (.bar2 port (some bs)))
    | (.err c _, s1) =>
      let s2 := if c = 0x18 || c = 0x25 then s1 else s.undone s1
      .next (((s2.windowed port).send (.bar2 port none)).send (.aer port))
    | (.wait, s1) => .next (s.windowWait s1 i)

end Sys2Proof.Machine
end

