-- ==== Sys2Proof/Machine/Streams.lean ====
section
/-! DEFINITION. Command streams (spec/12_host.md R278, R279; spec/06_ordering.md R161): the checks and the consumption of a
record, what each command does, and completion. -/

namespace Sys2Proof.Machine

/-! ### Reading the next record (R278) -/

/-- A command that holds back every later one: a `WAITV` or a fence (R161). -/
def SCmd.holds (c : SCmd) : Bool :=
  match c.kind with
  | .waitv _ _ _ _ => true
  | .fence => true
  | _ => false

/-- The reserved bytes and operand ranges of a record (R279). -/
def recOk (t : Strm) (b : List Byte) : Bool :=
  let fl := fieldAt b 1 1
  let al (off n : Nat) : Bool := fieldAt b off 8 % n == 0
  fieldAt b 2 2 == 0 && (match fieldAt b 0 1 with
    | 1 => decide (fl < 4) && (!bitOf fl 0 || t.debug) && al 0x10 64 && al 0x18 8 && zeroAt b 0x34 12 &&
      (fieldAt b 0x28 8 != 0 || fieldAt b 0x30 4 == 0)
    | 2 => decide (fl < 6) && al 8 8 && zeroAt b 0x20 32
    | 3 => decide (fl < 4) && al 8 8 && zeroAt b 0x18 40
    | 4 => fl == 0 && al 8 64 && al 0x10 64 && al 0x18 64 && decide (64 ≤ fieldAt b 0x18 8) &&
      decide (fieldAt b 0x18 8 ≤ 2 ^ 32) && zeroAt b 0x20 32
    | 5 => fl == 0 && decide (1 ≤ fieldAt b 0x20 8) && decide (fieldAt b 0x20 8 ≤ 2 ^ 28) && fieldAt b 0x30 8 % 256 / 4 == 0 && decide (fieldAt b 0x30 8 < 2 ^ 16) && zeroAt b 0x38 8
    | 6 => fl == 0 && zeroAt b 0x10 48
    | _ => fl == 0 && zeroAt b 8 56)

/-- What a stream finds at its next record: nothing to take, a failed check with its code, or a record. -/
inductive Next where
  | nothing
  | wait
  | bad (code : Nat)
  | got (b : List Byte)
deriving DecidableEq, Repr

/-- The agent of a stream's record and of its command. -/
def State.strmWho (s : State) (p : Bool) (n : Nat) (seq : W32) : Who :=
  { hostWho p (s.strm p n).asid with op := 2 ^ 44 + (seq.toNat * 1024 + 2 * n + p.toNat) }

/-- The next record of a stream (R278): the checks in the order of what they need. -/
def State.nextRec (s : State) (p : Bool) (n : Nat) : Next × State :=
  let t := s.strm p n
  let seq := t.consumed + 1
  let ready := (t.wridx - t.consumed).toNat
  if !s.serves p || !t.en || t.err || t.fly.any SCmd.holds || ready = 0 then (.nothing, s)
  else if 2 ^ t.log2n < ready then (.bad 2, s)
  else
    match s.vaRead (s.strmWho p n seq) (t.ring.toNat + 64 * (seq.toNat % 2 ^ t.log2n)) 64 with
    | (.wait, s1) => (.wait, s1)
    | (.err _ _, s1) => (.bad 5, s1)
    | (.ok b, s1) =>
      let op := fieldAt b 0 1
      (if fieldAt b 4 4 != seq.toNat then .bad 1
        else if op = 0 || 7 < op then .bad 3
        else if recOk t b then .got b else .bad 4, s1)

/-- A consumed record in flight; its reads are over. -/
def State.fly (s : State) (p : Bool) (n : Nat) (k : SKind) : State :=
  (s.quit (s.strmWho p n ((s.strm p n).consumed + 1))).onStrm p n (fun t => { t with consumed := t.consumed + 1, fly := t.fly ++ [⟨t.consumed + 1, k⟩] })

/-- Takes the next record of a stream when it is one of an OP. A record that fails a check stops the stream, and belongs to
no OP: `bad` says whether this step raises the error. -/
def State.takeRec (s : State) (p : Bool) (n op : Nat) (bad : Bool) (f : List Byte → State → Option State) : Option State :=
  match s.nextRec p n with
  | (.nothing, _) => none
  | (.wait, s1) => if bad then s.waited s1 else none
  | (.bad c, s1) =>
    let seq := (s1.strm p n).consumed + 1
    if bad then some ((s1.quit (s1.strmWho p n seq)).streamErr p n c seq) else none
  | (.got b, s1) => if fieldAt b 0 1 = op then f b s1 else none

/-! ### The commands -/

/-- A 64-bit word of a record. -/
def wordAt (b : List Byte) (off : Nat) : W64 := BitVec.ofNat 64 (fieldAt b off 8)

/-- The launch that a record names. -/
def launchOf (s : State) (p : Bool) (n : Nat) (b : List Byte) : Launch :=
  let t := s.strm p n
  let fl := fieldAt b 1 1
  { port := p, strm := n, seq := t.consumed + 1, asid := t.asid, prio := t.prio, debug := bitOf fl 0, msix := bitOf fl 1
    image := wordAt b 8, cmpl := wordAt b 0x10, sig := wordAt b 0x18, sigval := wordAt b 0x20, argva := wordAt b 0x28
    arglen := BitVec.ofNat 64 (fieldAt b 0x30 4), tm := s.glob, hold := none }

/-- `LAUNCH` when the next record is one (R279, R44): it waits for admission, and a launch boundary begins. -/
def State.tryLaunch (s : State) (p : Bool) (n : Nat) : Option State :=
  s.takeRec p n 1 true (fun b s1 =>
    let l := launchOf s1 p n b
    let s2 := s1.fly p n (.launch l.sig l.sigval l.msix false)
    some { s2 with cands := s2.cands ++ [l], boundary := true })

/-- `LAUNCH` (R279). A record that fails a check is stopped here (R278). -/
def execLaunchRec (port : Bool) (strm : BitVec 9) (s : State) : Res := orSame s (s.tryLaunch port strm.toNat)

/-- `WAITV` when the next record is one. -/
def State.tryWaitv (s : State) (p : Bool) (n : Nat) : Option State :=
  s.takeRec p n 2 false (fun b s1 =>
    some (s1.fly p n (.waitv (wordAt b 8) (wordAt b 0x10) (wordAt b 0x18) (fieldAt b 1 1 % 8))))

/-- `WAITV` (R279). -/
def execWaitvRec (port : Bool) (strm : BitVec 9) (s : State) : Res := orSame s (s.tryWaitv port strm.toNat)

/-- `SIGNAL` when the next record is one. -/
def State.trySignal (s : State) (p : Bool) (n : Nat) : Option State :=
  s.takeRec p n 3 false (fun b s1 =>
    some (s1.fly p n (.signal (wordAt b 8) (wordAt b 0x10) (bitOf (fieldAt b 1 1) 0) (bitOf (fieldAt b 1 1) 1))))

/-- `SIGNAL` (R279). -/
def execSignalRec (port : Bool) (strm : BitVec 9) (s : State) : Res := orSame s (s.trySignal port strm.toNat)

/-- `COPY` when the next record is one. -/
def State.tryCopyRec (s : State) (p : Bool) (n : Nat) : Option State :=
  s.takeRec p n 4 false (fun b s1 => some (s1.fly p n (.copy (wordAt b 8) (wordAt b 0x10) (fieldAt b 0x18 8))))

/-- `COPY` (R279). -/
def execCopyRec (port : Bool) (strm : BitVec 9) (s : State) : Res := orSame s (s.tryCopyRec port strm.toNat)

/-- `EVENT` when the next record is one. -/
def State.tryEventRec (s : State) (p : Bool) (n : Nat) : Option State :=
  s.takeRec p n 6 false (fun b s1 => some (s1.fly p n (.event (wordAt b 8) none)))

/-- `EVENT` (R279). -/
def execEventRec (port : Bool) (strm : BitVec 9) (s : State) : Res := orSame s (s.tryEventRec port strm.toNat)

/-- A fence when the next record is one. -/
def State.tryFenceRec (s : State) (p : Bool) (n : Nat) : Option State :=
  s.takeRec p n 7 false (fun _ s1 => some (s1.fly p n .fence))

/-- The operands of a stream's collective are virtual addresses (R279). -/
def collVAs (blk : List Byte) : Bool := [0, 8, 0x10, 0x20].all (fun o => decide (fieldAt blk o 8 < 2 ^ 57))

/-- `COLLECTIVE` when the next record is one: its engine takes it, or it waits for room, or it fails and completes with a
STREAM_ERROR event. -/
def State.tryCollRec (s : State) (p : Bool) (n : Nat) : Option State :=
  s.takeRec p n 5 false (fun b s1 =>
    let blk := (b.drop 8).take 48
    let seq := (s1.strm p n).consumed + 1
    let fail (c : Nat) (s2 : State) : Option State := some ((s2.fly p n (.coll true)).event p 2 c n seq 0)
    if !collVAs blk then fail 0x12 s1
    else
      match s1.collRead (s1.strmWho p n seq) false blk with
      | (.wait, s2) => s.waited s2
      | (.err c _, s2) => fail c s2
      | (.ok x, s2) =>
        match s2.collTake (if p then 3 else 0) { x with strm := some (p, n, seq), asid := (s2.strm p n).asid } with
        | (.ok _, s3) => some (s3.fly p n (.coll false))
        | (.err c _, s3) => if c = 0x11 then none else fail c s3
        | (.wait, _) => none)

/-- `COLLECTIVE` (R279, R285). -/
def execCollectiveRec (port : Bool) (strm : BitVec 9) (s : State) : Res := orSame s (s.tryCollRec port strm.toNat)

/-! ### Completion -/

/-- Advances COMPLETED over commands that have completed above it (R277). -/
def Strm.advance : Nat → Strm → Strm
  | 0, t => t
  | n + 1, t =>
    if t.ahead.contains (t.completed + 1) then
      Strm.advance n { t with completed := t.completed + 1, ahead := t.ahead.erase (t.completed + 1) }
    else t

/-- A command has completed. -/
def Strm.finish (t : Strm) (seq : W32) : Strm :=
  Strm.advance (t.ahead.length + 1) { t with fly := t.fly.filter (fun c => c.seq != seq), ahead := t.ahead ++ [seq] }

/-- Completes a command, with the MSI-X vector of its stream where it asks for one. -/
def State.finishCmd (s : State) (p : Bool) (n : Nat) (seq : W32) (msix : Bool) : State :=
  let s1 := s.onStrm p n (·.finish seq)
  if msix then s1.send (.msix p (1 + n)) else s1

/-- Whether every earlier command of a stream has completed. -/
def Strm.first (t : Strm) (seq : W32) : Bool :=
  match t.fly with
  | c :: _ => c.seq == seq
  | [] => false

/-- The end of a command's access: completion, and a STREAM_ERROR event for a fault (R279). -/
def State.endAcc {α : Type} (s : State) (p : Bool) (n : Nat) (seq : W32) (msix : Bool) (r : Acc α × State) : Option State :=
  let w := s.strmWho p n seq
  match r with
  | (.wait, s1) => s.waited s1
  | (.ok _, s1) => some ((s1.quit w).finishCmd p n seq msix)
  | (.err c _, s1) => some (((s1.quit w).event p 2 c n seq 0).finishCmd p n seq msix)

/-- A write or an atomic add of 8 bytes for a stream. -/
def State.sigWrite (s : State) (p : Bool) (n : Nat) (seq : W32) (addr val : W64) (add : Bool) : Acc Nat × State :=
  let w := s.strmWho p n seq
  if add then s.rmw w (.va addr.toNat) 8 (.atomic 0 true true val 0) (fun _ old => some ((old + val.toNat) % 2 ^ 64))
  else Acc.bind (s.wrOp w false (.va addr.toNat) (leBytes 8 val.toNat)) fun _ s1 => (.ok 0, s1)

/-- One row of a stream's copy, or its end. -/
def State.copyStep (s : State) (p : Bool) (n : Nat) (seq : W32) (src dst : W64) (len : Nat) : Option State :=
  let w := s.strmWho p n seq
  if len = 0 then some (s.finishCmd p n seq false)
  else
    match Acc.bind (s.rdOp w false (.va src.toNat) 64) (fun bs s1 => s1.wrOp w false (.va dst.toNat) bs) with
    | (.ok _, s1) => some ((s1.quit w).onStrm p n (fun t => { t with fly := t.fly.map (fun c =>
        if c.seq = seq then { c with kind := .copy (src + 64) (dst + 64) (len - 64) } else c) }))
    | r => s.endAcc p n seq false r

/-- Whether an event of a port still waits for its ring. -/
def Port.holds (q : Port) (seq : W32) : Bool := q.held.any (fun e => e.seq == seq)

/-- The USER event of an EVENT (R279): it is raised, and the command completes once it is written, or has been dropped
(log 46). -/
def State.userEvent (s : State) (p : Bool) (n : Nat) (seq : W32) (tag : W64) (ev : Option W32) : Option State :=
  match ev with
  | some e => if (s.port p).holds e then none else some (s.finishCmd p n seq false)
  | none =>
    let s1 := s.event p 1 0 n seq tag
    let e := (s.port p).evseq + 1
    some (if (s1.port p).holds e then s1.onStrm p n (fun t => { t with fly := t.fly.map (fun c =>
        if c.seq = seq then { c with kind := .event tag (some e) } else c) })
      else s1.finishCmd p n seq false)

/-- `STREAM_COMMAND_COMPLETE` when it is enabled (R279): the signal of a launch whose record has performed and a
signal, each after every earlier command, a row of a copy, a reported collective, an event, a fence that is first. -/
def State.tryCmdDone (s : State) (p : Bool) (n : Nat) (seq : W32) : Option State :=
  let t := s.strm p n
  match t.fly.find? (fun c => c.seq == seq) with
  | none => none
  | some c =>
    match c.kind with
    | .launch a v m done =>
      if !done then none
      else if a = 0 then some (s.finishCmd p n seq m)
      else if t.first seq then s.endAcc p n seq m (s.sigWrite p n seq a v false)
      else none
    | .waitv _ _ _ _ => none
    | .signal a v add m => if t.first seq then s.endAcc p n seq m (s.sigWrite p n seq a v add) else none
    | .copy src dst len => s.copyStep p n seq src dst len
    | .coll done => if done then some (s.finishCmd p n seq false) else none
    | .event tag e => s.userEvent p n seq tag e
    | .fence => none

/-- `STREAM_COMMAND_COMPLETE` (R279). -/
def execStreamCommandComplete (port : Bool) (strm : BitVec 9) (seq : W32) (s : State) : Res :=
  orSame s (s.tryCmdDone port strm.toNat seq)

/-- A fence that is first in flight completes. -/
def State.tryFenceDone (s : State) (p : Bool) (n : Nat) : Option State :=
  match (s.strm p n).fly with
  | c :: _ => if c.kind == .fence then some (s.finishCmd p n c.seq false) else none
  | [] => none

/-- `FENCE` of a stream (R161): it is taken when it is the next record, and completes when it is the first in flight. -/
def execStreamFence (port : Bool) (strm : BitVec 9) (s : State) : Res :=
  orSame s ((s.tryFenceDone port strm.toNat).orElse (fun _ => s.tryFenceRec port strm.toNat))

/-- One read of a `WAITV` in flight (R279): it completes when the condition holds; a fault stops the stream with code 0x06. -/
def State.tryWaitvPoll (s : State) (p : Bool) (n : Nat) : Option State :=
  match (s.strm p n).fly.find? (fun c => match c.kind with
    | .waitv _ _ _ _ => true
    | _ => false) with
  | none => none
  | some c =>
    match c.kind with
    | .waitv a v m cc =>
      let w := s.strmWho p n c.seq
      match s.vaRead w a.toNat 8 with
      | (.wait, s1) => s.waited s1
      | (.err _ _, s1) =>
        some (((s1.quit w).onStrm p n (fun t => { t with fly := t.fly.filter (fun x => x.seq != c.seq) })).streamErr p n 6 c.seq)
      | (.ok bs, s1) =>
        if condHolds 64 cc ((BitVec.ofNat 64 (leNat bs)) &&& m).toNat v.toNat then some ((s1.quit w).finishCmd p n c.seq false)
        else if s1.fab.any (fun f => f.who == w) then some (s1.quit w) else none
    | _ => none

/-- `WAITV_POLL` (R279). -/
def execWaitvPoll (port : Bool) (strm : BitVec 9) (s : State) : Res := orSame s (s.tryWaitvPoll port strm.toNat)

/-- The first step that a stream can take, and the instruction that it is. -/
def State.tryStrm (s : State) (p : Bool) (n : Nat) : Option Instr :=
  let k : BitVec 9 := BitVec.ofNat 9 n
  match (s.strm p n).fly.find? (fun c => (s.tryCmdDone p n c.seq).isSome) with
  | some c => some (.streamCommandComplete p k c.seq)
  | none =>
    if (s.tryWaitvPoll p n).isSome then some (.waitvPoll p k)
    else if ((s.tryFenceDone p n).orElse (fun _ => s.tryFenceRec p n)).isSome then some (.streamFence p k)
    else if (s.tryLaunch p n).isSome then some (.launchRec p k)
    else if (s.tryWaitv p n).isSome then some (.waitvRec p k)
    else if (s.trySignal p n).isSome then some (.signalRec p k)
    else if (s.tryCopyRec p n).isSome then some (.copyRec p k)
    else if (s.tryCollRec p n).isSome then some (.collectiveRec p k)
    else if (s.tryEventRec p n).isSome then some (.eventRec p k)
    else none

end Sys2Proof.Machine
end

