-- ==== Sys2Proof/Machine/Fabric.lean ====
section
/-! DEFINITION. The Cloeth fabric (spec/12_host.md R283; spec/06_ordering.md R162): flits that arrive, retries, and a port that
goes down. -/

namespace Sys2Proof.Machine

/-- The answer of a peer to a request of this module (R162): the request has performed, and what waits for it goes on. The answer
to an access that this module passed on goes to the peer that it came from. -/
def State.answered (s : State) (tag : Nat) (data : List Byte) : State :=
  match s.fab.find? (fun f => f.tag == tag && f.reply.isNone && f.who.rank == rankRelay) with
  | some f => { s with fab := s.fab.erase f }.send (.flitReply f.who.asid f.who.op data)
  | none => { s with fab := s.fab.map (fun f => if f.tag = tag && f.reply.isNone then { f with reply := some data } else f) }

/-- The die of the engine that a contribution is for. -/
def contribDie (c : Contrib) : Nat := (c.ranks.getD c.dst (0, 0, 0)).2.1

/-- `CLOETH_FLIT_ARRIVAL` (R283, R162): an access of a peer performs here, a contribution to a collective arrives and is
acknowledged (R54), one for a collective that is over being dropped (log 26), or a peer answers. -/
def execCloethFlitArrival (p : BitVec 7) (f : Flit) (s : State) : Res :=
  if !s.portUp p.toNat then .next s
  else
    match f with
    | .ack tag data => .next (s.answered tag data)
    | .coll c peer tag =>
      if s.reaches (p.toNat / 32) (contribDie c) then
        .next ({ s with collrx := if s.collStale c then s.collrx else s.collrx ++ [c] }.send (.flitReply peer.toNat tag []))
      else .next s
    | f => .next (s.flitIn p f)

/-- `CLOETH_FLIT_CRC_FAIL` (R283): the flit is sent again in order, and the port's retries of this second add 1. -/
def execCloethFlitCrcFail (p : BitVec 7) (s : State) : Res :=
  .next (if s.portUp p.toNat then
    { s with retries := Sparse.set 0 s.retries p.toNat (Sparse.get 0 s.retries p.toNat + 1) }.send (.flitResend p.toNat)
  else s)

/-- `CLOETH_PORT_DOWN` when it is enabled: more than 1,000 retries in one second. -/
def State.tryPortDown (s : State) (p : Nat) : Option State :=
  if s.portUp p && decide (1000 < Sparse.get 0 s.retries p) then
    some (({ s with portDown := s.portDown ++ [p] }.eventAll 7 0 (BitVec.ofNat 64 p)).replace)
  else none

/-- `CLOETH_PORT_DOWN` (R283, R267). -/
def execCloethPortDown (p : BitVec 7) (s : State) : Res := orSame s (s.tryPortDown p.toNat)

end Sys2Proof.Machine
end

