-- ==== Sys2Proof/Machine/Mgmt.lean ====
section
/-! DEFINITION. Management over MCTP (spec/12_host.md R286 to R288) with the settings that it reaches (R12, R49, R260, R263,
R265, R267, R245, R281, R283) and the debugger (spec/11_faults.md R270, R271). -/

namespace Sys2Proof.Machine

/-! ### Answers (R287) -/

/-- The answer to a request. -/
def State.reply (s : State) (r : Mgmt) (cmd status : Nat) (data : List Byte) : Res :=
  .next (s.send (.mgmt r.port cmd status r.sel.toNat r.tag.toNat data))

/-- Serves a request of a command whose selector obeys `ok`; another selector is unassigned (status 0x02). Before firmware
runs, requests stay unanswered (R273). -/
def State.onSel (s : State) (r : Mgmt) (cmd : Nat) (ok : Bool) (f : Res) : Res :=
  if !s.serves r.port then .next s else if ok then f else s.reply r cmd 2 []

/-- Whether a frame obeys R287: its reserved bits are zero and LEN counts its DATA. Any other is out of range and refused
(log 46). -/
def frameOk (r : Mgmt) : Bool := r.opf == 0 && r.len == r.data.length && decide (r.len ≤ 1024)

/-- A read: its key has `n` bytes, and `v` is the value, nothing where the key is out of range. -/
def State.mread (s : State) (r : Mgmt) (cmd : Nat) (ok : Bool) (n : Nat) (v : Option (List Byte)) : Res :=
  s.onSel r cmd ok (match v with
    | some d => if frameOk r && r.data.length = n then s.reply r cmd 0 d else s.reply r cmd 1 []
    | none => s.reply r cmd 1 [])

/-- A write: `v` is the state with the new setting, nothing where the request is out of range; `now` is the setting in force
(R287). -/
def State.mwrite (s : State) (r : Mgmt) (cmd : Nat) (ok : Bool) (v : Option State) (now : State → List Byte) : Res :=
  s.onSel r cmd ok (match if frameOk r then v else none with
    | some t => t.reply r cmd 0 (now t)
    | none => s.reply r cmd 1 (now s))

/-- A value that a request may set. -/
def allow {α : Type} (ok : Bool) (a : α) : Option α := if ok then some a else none

/-! ### Reads of identity and telemetry -/

/-- The read of `MODID`, which management answers in the boot window too (R273). Its CMD is 0x00, whatever the selector (log 34). -/
def execMgmtReadModid (r : Mgmt) (s : State) : Res :=
  if !s.reachable r.port then .next s
  else if frameOk r && r.data.isEmpty then s.reply r 0 0 (leBytes 8 s.modid) else s.reply r 0 1 []

/-- The n-th measured value (log 9). -/
def State.meas (s : State) (i bytes : Nat) : List Byte := leBytes bytes (Config.measured (s.free + i) % 2 ^ (8 * bytes))

/-- Cloeth ports that are up. -/
def State.upBits (s : State) : Nat :=
  flagBits ((List.range 128).map (fun p => s.diemask.getLsbD (p / 32) && !s.portDown.contains p))

/-- A subject of telemetry: measured values are free, the power at the inlet within the 4,600 W of R12, and a PCI Express port's
lanes and rate within the eight lanes at 64 GT/s of R281 (log 9). -/
def State.telemetry (s : State) (n : Nat) : List Byte :=
  match n with
  | 0 => leBytes 4 (Config.measured s.free % 4601) ++ (List.range 4).flatMap (fun i => s.meas (1 + i) 2)
  | 1 => (List.range 2).flatMap (fun i =>
      leBytes 1 (Config.measured (s.free + 2 * i) % 9) ++ leBytes 1 (Config.measured (s.free + 2 * i + 1) % 65) ++ leBytes 2 0)
  | 2 => leBytes 16 s.upBits
  | _ => leBytes 8 s.parity

/-- The state after a measurement. -/
def State.measured (s : State) : State := { s with free := s.free + 5 }

/-- `MGMT_READ_TELEMETRY`. -/
def execMgmtReadTelemetry (r : Mgmt) (s : State) : Res :=
  s.measured.mread r 1 (decide (r.sel.toNat < 4)) 0 (some (s.telemetry r.sel.toNat))

/-! ### Settings -/

/-- The module power limit (R12). -/
def execMgmtReadPowerLimit (r : Mgmt) (s : State) : Res := s.mread r 2 (r.sel == 0) 0 (some (leBytes 4 s.powerLimit))
def execMgmtWritePowerLimit (r : Mgmt) (s : State) : Res :=
  let v := leNat r.data
  s.mwrite r 2 (r.sel == 0) (allow (r.data.length == 4 && decide (2000 ≤ v) && decide (v ≤ 4600) && v % 25 == 0)
    { s with powerLimit := v }) (fun t => leBytes 4 t.powerLimit)

/-- The pre-emption bound of a die (R49). -/
def execMgmtReadPreemptBound (r : Mgmt) (s : State) : Res :=
  s.mread r 3 (decide (r.sel.toNat < 4)) 0 (some (leBytes 4 (s.bounds.getD r.sel.toNat 200)))
def execMgmtWritePreemptBound (r : Mgmt) (s : State) : Res :=
  let v := leNat r.data
  s.mwrite r 3 (decide (r.sel.toNat < 4)) (allow (r.data.length == 4 && decide (10 ≤ v) && decide (v ≤ 10000))
    { s with bounds := s.bounds.set r.sel.toNat v }) (fun t => leBytes 4 (t.bounds.getD r.sel.toNat 200))

/-- `LEAKPER` (R265). A write that sets reserved bits is refused as a whole with status 0x01; R286 and R6 do not say whether the
other field is written then (log 46). -/
def execMgmtReadLeakper (r : Mgmt) (s : State) : Res := s.mread r 4 (r.sel == 0) 0 (some (leBytes 8 s.leakper.toNat))
def execMgmtWriteLeakper (r : Mgmt) (s : State) : Res :=
  let v := leNat r.data
  s.mwrite r 4 (r.sel == 0) (allow (r.data.length == 8 && decide (2 ^ 20 ≤ v) && decide (v < 2 ^ 48))
    { s with leakper := BitVec.ofNat 64 v }) (fun t => leBytes 8 t.leakper.toNat)

/-- `BKTMARK` (R265). -/
def execMgmtReadBktmark (r : Mgmt) (s : State) : Res := s.mread r 4 (r.sel == 1) 0 (some (leBytes 8 s.bktmark.toNat))
def execMgmtWriteBktmark (r : Mgmt) (s : State) : Res :=
  s.mwrite r 4 (r.sel == 1) (allow (r.data.length == 8) (s.newMarks (BitVec.ofNat 64 (leNat r.data))))
    (fun t => leBytes 8 t.bktmark.toNat)

/-- How many counters a class has (R265, R288). -/
def bucketCount (cls : Nat) : Nat :=
  match cls with
  | 0 => 65536
  | 1 => 65536
  | 2 => 144
  | 3 => 32768
  | _ => 0

/-- The counters that a key names, where it is in range. -/
def State.counters (s : State) (key : List Byte) : Option (List Byte) :=
  let cls := fieldAt key 0 1
  let n := fieldAt key 2 2
  let first := fieldAt key 4 4
  allow (fieldAt key 1 1 == 0 && decide (1 ≤ n) && decide (n ≤ 512) && decide (first + n ≤ bucketCount cls))
    ((List.range n).flatMap (fun i => leBytes 2 (Sparse.get 0 s.buckets (cls * 2 ^ 32 + first + i))))

/-- `MGMT_READ_BUCKET_COUNTERS` (R288). -/
def execMgmtReadBucketCounters (r : Mgmt) (s : State) : Res := s.mread r 4 (r.sel == 2) 8 (s.counters r.data)

/-- The retired units, at most 255 codes from an index. -/
def State.retiredBytes (s : State) (first : Nat) : List Byte :=
  leBytes 4 s.retired.length ++ ((s.retired.drop first).take 255).flatMap (fun u => leBytes 4 u.toNat)

/-- `MGMT_READ_RETIRED_UNITS` (R267). -/
def execMgmtReadRetiredUnits (r : Mgmt) (s : State) : Res :=
  s.mread r 5 (r.sel == 0) 4 (some (s.retiredBytes (leNat r.data)))

/-- Retires units that no instance holds; the others wait for `UNIT_RETIRE` (R266, R267). -/
def State.retireAll (s : State) (codes : List Nat) : State :=
  codes.foldl (fun s c =>
    let s1 : State := { s with owes := if s.owes.contains c then s.owes else s.owes ++ [c] }
    (s1.tryRetire (BitVec.ofNat 32 c)).getD s1) s

/-- `MGMT_WRITE_RETIRED_UNITS` (R266, R267): a code that names no unit, or a command core, refuses the request. -/
def execMgmtWriteRetiredUnits (r : Mgmt) (s : State) : Res :=
  let n := fieldAt r.data 0 4
  let codes := (List.range (min n 255)).map (fun i => fieldAt r.data (4 + 4 * i) 4)
  s.mwrite r 5 (r.sel == 0) (allow (decide (n ≤ 255) && r.data.length == 4 + 4 * n && codes.all unitOk) (s.retireAll codes))
    (fun t => t.retiredBytes 0)

/-- REPLMIN (R267). -/
def execMgmtReadReplmin (r : Mgmt) (s : State) : Res := s.mread r 5 (r.sel == 1) 0 (some (leBytes 2 s.replmin))
def execMgmtWriteReplmin (r : Mgmt) (s : State) : Res :=
  let v := leNat r.data
  s.mwrite r 5 (r.sel == 1) (allow (r.data.length == 2 && decide (v ≤ 2296)) (State.replCheck { s with replmin := v } s))
    (fun t => leBytes 2 t.replmin)

/-- The 24 bytes of a weight range (R288). -/
def State.wrangeBytes (s : State) (n : Nat) : List Byte :=
  match Sparse.get none s.wranges n with
  | some w => leBytes 2 w.asid ++ leBytes 1 1 ++ leBytes 5 0 ++ leBytes 8 w.va ++ leBytes 8 w.len
  | none => leBytes 24 0

/-- Weight ranges (R260). -/
def execMgmtReadWeightRange (r : Mgmt) (s : State) : Res :=
  s.mread r 6 (decide (r.sel.toNat < 256)) 0 (some (s.wrangeBytes r.sel.toNat))
def execMgmtWriteWeightRange (r : Mgmt) (s : State) : Res :=
  let asid := fieldAt r.data 0 2
  let v := fieldAt r.data 2 1
  let w : WRange := ⟨asid, fieldAt r.data 8 8, fieldAt r.data 0x10 8⟩
  s.mwrite r 6 (decide (r.sel.toNat < 256)) (allow (r.data.length == 24 && decide (asid < 2 ^ 14) && decide (v < 2) &&
      zeroAt r.data 3 5 && decide (w.va + w.len ≤ 2 ^ 57))
    { s with wranges := Sparse.set none s.wranges r.sel.toNat (if v = 1 then some w else none) })
    (fun t => t.wrangeBytes r.sel.toNat)

/-- `MGMT_FORCED_DISCARD` (R245): idle lanes among the named ones lose their accumulators; the others are skipped. -/
def execMgmtForcedDiscard (r : Mgmt) (s : State) : Res :=
  let k := r.sel.toNat
  let hit := (List.range 16).filter (fun i => bitOf (leNat r.data) i && (s.laneAt (k * 16 + i)).phase == .idle)
  let t := hit.foldl (fun s i => s.onLane (k * 16 + i) (fun l => { l with acc := [], acclive := false, disc := true, stands := false })) s
  s.onSel r 7 (decide (k < 32)) (if frameOk r && r.data.length = 2 then t.reply r 7 0 (leBytes 2 ((hit.map (2 ^ ·)).sum)) else s.reply r 7 1 [])

/-- `ERRINJEN` (R263). A write that sets reserved bits is refused as a whole with status 0x01 (log 46). -/
def execMgmtReadErrinjen (r : Mgmt) (s : State) : Res := s.mread r 8 (r.sel == 0) 0 (some (leBytes 1 s.errinjen.toNat))
def execMgmtWriteErrinjen (r : Mgmt) (s : State) : Res :=
  let v := leNat r.data
  s.mwrite r 8 (r.sel == 0) (allow (r.data.length == 1 && decide (v < 2)) { s with errinjen := v == 1 })
    (fun t => leBytes 1 t.errinjen.toNat)

/-- `MYMOD` and the enabling of Cloeth (R283). -/
def State.mymodBytes (s : State) : List Byte := leBytes 2 s.mymod ++ leBytes 1 s.cloeth.toNat
def execMgmtReadMymod (r : Mgmt) (s : State) : Res := s.mread r 10 (r.sel == 0) 0 (some s.mymodBytes)
def execMgmtWriteMymod (r : Mgmt) (s : State) : Res :=
  let m := fieldAt r.data 0 2
  let e := fieldAt r.data 2 1
  s.mwrite r 10 (r.sel == 0) (allow (r.data.length == 3 && decide (m < 1024) && decide (e < 2))
    { s with mymod := m, cloeth := e == 1 }) State.mymodBytes

/-- `APBASE` and `APASID` of the requesting port (R281): the window stays within the device half. -/
def Port.apBytes (q : Port) : List Byte := leBytes 8 q.apbase.toNat ++ leBytes 2 q.apasid
def execMgmtReadAperture (r : Mgmt) (s : State) : Res := s.mread r 11 (r.sel == 0) 0 (some (s.port r.port).apBytes)
def execMgmtWriteAperture (r : Mgmt) (s : State) : Res :=
  let b := fieldAt r.data 0 8
  let a := fieldAt r.data 8 2
  s.mwrite r 11 (r.sel == 0) (allow (r.data.length == 10 && decide (b + 2 ^ 36 ≤ 2 ^ 56) && decide (a < 2 ^ 14))
    (s.onPort r.port (fun q => { q with apbase := BitVec.ofNat 64 b, apasid := a }))) (fun t => (t.port r.port).apBytes)

/-! ### The debugger (R270, R271) -/

/-- The instance that a record launched. -/
def State.launched? (s : State) (d : List Byte) : Option Inst :=
  s.insts.find? (fun i => i.l.port.toNat == fieldAt d 0 1 && i.l.strm == fieldAt d 2 2 && i.l.seq.toNat == fieldAt d 4 4)

/-- A write about the instance that the data names, when it stands in a phase that allows it. -/
def State.onDebug (s : State) (r : Mgmt) (sel : Nat) (ok : IPhase → Bool) (f : Inst → State) : Res :=
  let i := s.launched? r.data
  s.mwrite r 9 (r.sel.toNat == sel) (match i with
    | some x => allow (r.data.length == 8 && fieldAt r.data 1 1 == 0 && ok x.phase) (f x)
    | none => none) (fun _ => [])

/-- `MGMT_DEBUG_FORCED_DRAIN` (R270). -/
def execMgmtDebugForcedDrain (r : Mgmt) (s : State) : Res :=
  s.onDebug r 0 (fun p => p == .running || p == .forced || p == .halted) (fun x => s.forceDrain x.id)

/-- A halted instance issues again on the next task-clock edge (R271). It runs again, so that a launch of higher priority which
found no place may ask for its cores (R45); where a boundary is being served, its end does that. -/
def State.unhalt (s : State) (i : Nat) : State :=
  let t := (s.instCores i).foldl (fun s k => s.onCore k (fun c => { c with stopped := false, atDrain := false }))
    (s.onInst i (fun x => { x with phase := .running }))
  if t.boundary then t else t.preemptFor

/-- `MGMT_DEBUG_RESUME` (R271). -/
def execMgmtDebugResume (r : Mgmt) (s : State) : Res := s.onDebug r 1 (fun p => p == .halted) (fun x => s.unhalt x.id)

/-- `MGMT_DEBUG_ABORT` (R270): the drain is abandoned, and the instance retires FAULTED. -/
def execMgmtDebugAbort (r : Mgmt) (s : State) : Res :=
  s.onDebug r 2 (fun p => p == .forced || p == .halted) (fun x => s.stopInst x.id (.ending 1))

/-- A core of a halted instance. -/
def State.haltedCore (s : State) (k : Nat) : Bool :=
  (s.core k).run && (match s.inst? (s.core k).inst with
    | some x => x.phase == .halted
    | none => false)

/-- Bytes of a register of a FILE, and how many there are (R288). A tile register has sixteen rows of 64 bytes: INDEX is the tile's
number and 8 × the row (log 16). -/
def fileShape (f : Nat) : Nat × Nat :=
  match f with
  | 0 => (8, 32)
  | 1 => (64, 64)
  | 2 => (64, 64)
  | 3 => (8, 16)
  | 4 => (8, 16)
  | 5 => (1, 16)
  | 6 => (8, 8)
  | 7 => (64, 128)
  | 8 => (6, 16384)
  | 9 => (4, 512)
  | 10 => (8, 4096)
  | _ => (0, 0)

/-- The register of a FILE as bytes; registers have their physical numbers (log 16). -/
def State.fileGet (s : State) (k f n : Nat) : List Byte :=
  let c := s.core k
  leBytes (fileShape f).1 (match f with
    | 0 => (c.rdS n).toNat
    | 1 => (Sparse.get 0 c.x n).toNat
    | 2 => (Sparse.get 0 c.y n).toNat
    | 3 => (Sparse.get 0 c.g n).toNat
    | 4 => (Sparse.get 0 c.h n).toNat
    | 5 => (c.rdP n).toNat
    | 6 => c.wreg n
    | 7 => (c.tileRow (n % 8) (n / 8)).toNat
    | 8 => (Sparse.get 0 c.acc n).toNat
    | 9 => c.zreg n
    | _ => s.readCr k n)

/-- The words that hold a register of a FILE, by kind (R140); `s0`, `p0` and `w0` are none. -/
def State.fileWords (s : State) (k f n : Nat) : Nat × List Nat :=
  let row (r : Nat) : List Nat := (List.range 8).map (fun i => r * 8 + i)
  let one : List Nat := if n = 0 then [] else [n]
  match f with
  | 0 => (9, one)
  | 1 => (2, row n)
  | 2 => (3, row n)
  | 3 => (10, [n])
  | 4 => (11, [n])
  | 5 => (12, one)
  | 6 => (13, one)
  | 7 => (14, row (n % 8 * 16 + n / 8))
  | 8 => (1, [n])
  | 9 => (4, [n])
  | _ => if n = 0x029 then (15, [(s.core k).crv 0x028 % 64]) else (18, [n])

/-- The answer to a request of the debugger with what some words of a core hold, which it reads as any agent does (R140, R264): a
correctable error is mended, with its freeze and its count, and of an uncorrectable one the unit's event comes and no value, with
status 0x01 (log 37). -/
def State.dreply (s : State) (r : Mgmt) (k kind : Nat) (ws : List Nat) (v : State → List Byte) : Res :=
  match s.readWords kind k ws with
  | (true, s1) => s1.reply r 9 1 []
  | (false, s1) => s1.reply r 9 0 (v s1)

/-- A request of the debugger for a subject, in range or not; `f` serves one that is. -/
def State.onKey (s : State) (r : Mgmt) (sel : Nat) (ok : Bool) (f : Res) : Res :=
  s.onSel r 9 (r.sel.toNat == sel) (if frameOk r && ok then f else s.reply r 9 1 [])

/-- Control registers that the debugger may write (R271): loop counters, rotation, shapes, steps, `SB`, `SCLD`, `SXE`. -/
def debugCr (n : Nat) : Bool :=
  (0x008 ≤ n && n ≤ 0x00D) || (0x010 ≤ n && n ≤ 0x01C) || n == 0x020 || n == 0x021 || n == 0x024 || n == 0x025

/-- A debugger's write of a register; of a register that it may not write, nothing comes. -/
def State.fileSet (s : State) (k f n v : Nat) : State :=
  let w := BitVec.ofNat 64 v
  let ones : Vec := BitVec.ofNat 512 (2 ^ 512 - 1)
  match f with
  | 0 => s.regGo k .s n w
  | 1 => (s.clearErr 2 k ((List.range 8).map (fun i => n * 8 + i))).onCore k (fun c => c.setVec false n (BitVec.ofNat 512 v) ones)
  | 2 => (s.clearErr 3 k ((List.range 8).map (fun i => n * 8 + i))).onCore k (fun c => c.setVec true n (BitVec.ofNat 512 v) ones)
  | 3 => s.regGo k .g n w
  | 4 => s.regGo k .h n w
  | 5 => (s.clearErr 12 k [n]).onCore k (fun c => c.setP n (v % 2 == 1))
  | 6 => (s.clearErr 13 k [n]).onCore k (fun c => c.setW n w (BitVec.ofNat 64 (2 ^ 64 - 1)))
  | 7 =>
    let row := n % 8 * 16 + n / 8
    (s.clearErr 14 k ((List.range 8).map (fun i => row * 8 + i))).onCore k (fun c =>
      { c with t := Sparse.set 0 c.t row (BitVec.ofNat 512 v) })
  | 8 => (s.clearErr 1 k [n]).onCore k (fun c => { c with acc := Sparse.set 0 c.acc n (BitVec.ofNat 48 v) })
  | 9 => (s.clearErr 4 k [n]).onCore k (fun c => { c with z := Sparse.set 0 c.z n (BitVec.ofNat 32 v) })
  | _ => if debugCr n then (s.clearErr 18 k [n]).writeCr k n v else s

/-- Whether a request names a register of a halted core; `extra` bytes of value follow the key. -/
def State.regKey (s : State) (d : List Byte) (write : Bool) : Bool :=
  let f := fieldAt d 2 1
  let sh := fileShape f
  s.haltedCore (fieldAt d 0 2) && fieldAt d 3 1 == 0 && decide (fieldAt d 4 4 < sh.2) &&
  d.length == 8 + (if write then sh.1 else 0) && (f != 8 || decide (fieldAt d 4 4 % 4096 < 2193))

/-- `MGMT_DEBUG_REGISTER_READ` (R271). -/
def execMgmtDebugRegisterRead (r : Mgmt) (s : State) : Res :=
  let k := fieldAt r.data 0 2
  let f := fieldAt r.data 2 1
  let n := fieldAt r.data 4 4
  let w := s.fileWords k f n
  s.onKey r 3 (s.regKey r.data false) (s.dreply r k w.1 w.2 (fun t => t.fileGet k f n))

/-- `MGMT_DEBUG_REGISTER_WRITE` (R271): the answer holds what the register reads as then. -/
def execMgmtDebugRegisterWrite (r : Mgmt) (s : State) : Res :=
  let k := fieldAt r.data 0 2
  let f := fieldAt r.data 2 1
  let n := fieldAt r.data 4 4
  let w := s.fileWords k f n
  s.onKey r 3 (s.regKey r.data true)
    ((s.fileSet k f n (leNat (r.data.drop 8))).dreply r k w.1 w.2 (fun t => t.fileGet k f n))

/-- Whether a request names a scratch row of a halted core. -/
def State.rowKey (s : State) (d : List Byte) (write : Bool) : Bool :=
  s.haltedCore (fieldAt d 0 2) && decide (fieldAt d 2 2 < 4096) && fieldAt d 4 4 == 0 && d.length == (if write then 72 else 8)

/-- A debugger's write of a scratch row: only rows in CORE or SCHED quarters take it. -/
def State.debugRow (s : State) (k row : Nat) (bs : List Byte) : State :=
  let o := (s.core k).owner (row / 64)
  if o == .core || o == .sched then
    { s with mem := wrBytes s.mem (scrKey k (64 * row)) bs }.clearErr 0 k (rowWords row) else s

/-- `MGMT_DEBUG_SCRATCH_READ` (R271). -/
def execMgmtDebugScratchRead (r : Mgmt) (s : State) : Res :=
  let k := fieldAt r.data 0 2
  let row := fieldAt r.data 2 2
  s.onKey r 4 (s.rowKey r.data false) (s.dreply r k 0 (rowWords row) (fun t => rdBytes t.mem (scrKey k (64 * row)) 64))

/-- `MGMT_DEBUG_SCRATCH_WRITE` (R271): the answer holds what the row reads as then. -/
def execMgmtDebugScratchWrite (r : Mgmt) (s : State) : Res :=
  let k := fieldAt r.data 0 2
  let row := fieldAt r.data 2 2
  s.onKey r 4 (s.rowKey r.data true)
    ((s.debugRow k row (r.data.drop 8)).dreply r k 0 (rowWords row) (fun t => rdBytes t.mem (scrKey k (64 * row)) 64))

/-! ### The rest (R287) -/

/-- Subjects that are read only: telemetry and the counters. -/
def readOnly (cmd sel : Nat) : Bool := (cmd == 1 && decide (sel < 4)) || (cmd == 4 && sel == 2)

/-- `MGMT_UNASSIGNED_REQUEST` (R287): a write to a read-only subject has status 0x03 and carries what a read gives; any other
has status 0x02. -/
def execMgmtUnassignedRequest (cmd : BitVec 8) (write : Bool) (r : Mgmt) (s : State) : Res :=
  s.onSel r cmd.toNat true (
    if write && readOnly cmd.toNat r.sel.toNat then
      if cmd.toNat = 1 then s.measured.reply r 1 3 (s.telemetry r.sel.toNat)
      else s.reply r cmd.toNat 3 ((s.counters r.data).getD [])
    else s.reply r cmd.toNat 2 [])

end Sys2Proof.Machine
end

