-- ==== Sys2Proof/Machine/Global.lean ====
section
/-! DEFINITION. The global cycle (spec/02_execution.md R35): the base-die cycle of the lanes (R233, R237), the tier-stall
counters (spec/07_translation.md R183), and the seconds of R283. -/

namespace Sys2Proof.Machine

/-! ### Tier stalls (R183) -/

/-- The tier of a virtual address: 0 HBM, 1 peer, 2 host, whether or not an access there must wait. -/
def State.tierAt (s : State) (w : Who) (va : Nat) : Option Nat := s.leafTier w.die w.asid va

/-- The tier of an operand; scratch has none. -/
def State.tierOf (s : State) (w : Who) (o : Option Opnd) : Option Nat :=
  match o with
  | some (.va a) => s.tierAt w a
  | _ => none

/-- The home tier of the oldest undelivered source row of a command. -/
def State.srcTier (s : State) (k : Nat) (m : Cmd) : Option Nat :=
  let w := s.who k
  let c := s.core k
  match m.kind with
  | .cpy _ src _ none => s.tierOf w (opndAt k src (64 * m.done))
  | .cpy _ src _ (some _) => s.tierOf w (opndOf k src)
  | .cpy2 _ src dim lines tr =>
    let lr := bitsOf dim.toNat 15 0
    let ss := bitsOf dim.toNat 39 16
    if tr = 0 then s.tierOf w (opndAt k (lineAt src ss (m.done / lr)) (64 * (m.done % lr)))
    else s.tierOf w (opndAt k src (m.done * (64 / lines)))
  | .cpyl _ list p _ =>
    if m.ent.map (·.1) == some (m.done / p.toNat) then
      s.tierOf w (opndAt k ((m.ent.map (·.2)).getD 0) (64 * (m.done % p.toNat)))
    else match (s.rdMaybe w true (opndAt k list (8 * (m.done / p.toNat))) 8).1 with
    | .ok bs => s.tierOf w (opndAt k (BitVec.ofNat 64 (leNat bs)) (64 * (m.done % p.toNat)))
    | _ => none
  | .preq q _ => s.tierAt w (c.vaOf (q + m.done / 64) + 64 * (m.done % 64))
  | .pgft _ _ _ _ _ =>
    match c.weevil.find? (fun x => x.uid == m.uid) with
    | some x =>
      match (s.pageFrame w x).1 with
      | .ok f => s.tierAt w (x.pool.toNat + 8192 * f.1)
      | _ => none
    | none => none
  | _ => none

/-- Whether a command still has rows to deliver. A command of another engine but `PGFT`, a `FENCE` and a `WBK` that has not started
have none, and what stands behind them is charged (R183, log 46). -/
def Cmd.owesRows (m : Cmd) : Bool :=
  match m.kind with
  | .pgft _ _ _ _ _ => true
  | k => k.rows && decide (m.done < m.n)

/-- The tier to which a channel's oldest undelivered row is charged. Where its oldest undelivered row is that of an `ATOM` or a `SIG`,
which has no source in a tier, nothing is charged, whatever stands behind it (log 46). -/
def State.chanTier (s : State) (k : Nat) (ch : Bool) : Option Nat :=
  match ((s.core k).chan ch).cmds.find? (·.owesRows) with
  | some m => s.srcTier k m
  | none => none

/-- What a stalled core charges: 0 HBM, 1 peer, 2 host, 3 the weight gate. -/
def State.charge (s : State) (k : Nat) : Option Nat :=
  let c := s.core k
  match c.stall with
  | some (.wp ch _) => s.chanTier k ch
  | some (.own q) =>
    if c.c0.cmds.any (fun m => (m.names k).contains (k * 64 + q)) then s.chanTier k false
    else if c.c1.cmds.any (fun m => (m.names k).contains (k * 64 + q)) then s.chanTier k true
    else none
  | some .gate => some 3
  | _ => none

/-- Counts one cycle of an instance (R183): each counter at most once. -/
def Inst.charged (i : Inst) (l : List Nat) : Inst :=
  { i with
    stHbm := sat32 (i.stHbm + (l.contains 0).toNat), stPeer := sat32 (i.stPeer + (l.contains 1).toNat)
    stHost := sat32 (i.stHost + (l.contains 2).toNat), stWgt := sat32 (i.stWgt + (l.contains 3).toNat) }

/-- The tier stalls of a cycle. -/
def State.tierStalls (s : State) : State :=
  { s with insts := s.insts.map (fun i => i.charged ((s.instCores i.id).filterMap s.charge)) }

/-! ### The cycle -/

/-- `GLOBAL_CYCLE` (R35): the lanes' base-die cycle ends, the stalls are counted, events that wait for their rings are tried
again, correctable errors that table reads met are counted (R265), and `GLOBCYC` adds 1. Firmware shows in HOT the stacks that are hot on the next cycle (R244, log 31). A second of the
retry count of R283 ends every 10^9 cycles (log 15). -/
def State.globalTick (s : State) : State :=
  let s1 := ((s.hbmCount s.met).laneCycle.tierStalls.flushEvts false 1024).flushEvts true 1024
  { s1 with
    glob := s1.glob + 1, debt := s1.debt - 7, was := [], met := []
    hot := if s1.fwUp then Config.hotStacks (s1.glob + 1) else s1.hot
    retries := if (s1.glob + 1) % 10 ^ 9 = 0 then [] else s1.retries }

/-- `GLOBAL_CYCLE` (R35). -/
def execGlobalCycle (s : State) : Res := .next s.globalTick

end Sys2Proof.Machine
end

