-- ==== Sys2Proof/Machine/Dispatch.lean ====
section
/-! DEFINITION. One arm per instruction: the meaning of each is one call. -/

namespace Sys2Proof.Machine

/-- The outcome of one instruction in a state. -/
def exec (i : Instr) (s : State) : Host.Outcome State Fault Refusal :=
  match i with
  | .nopS g => Sys2Proof.Machine.execNopS g s
  | .addReg g d a b u sat => Sys2Proof.Machine.execAddReg g d a b u sat s
  | .addImm g d a im => Sys2Proof.Machine.execAddImm g d a im s
  | .subReg g d a b u sat => Sys2Proof.Machine.execSubReg g d a b u sat s
  | .subImm g d a im => Sys2Proof.Machine.execSubImm g d a im s
  | .mulReg g d a b u sat => Sys2Proof.Machine.execMulReg g d a b u sat s
  | .mulImm g d a im => Sys2Proof.Machine.execMulImm g d a im s
  | .mulhReg g d a b u => Sys2Proof.Machine.execMulhReg g d a b u s
  | .mulhImm g d a im => Sys2Proof.Machine.execMulhImm g d a im s
  | .divReg g d a b u => Sys2Proof.Machine.execDivReg g d a b u s
  | .divImm g d a im => Sys2Proof.Machine.execDivImm g d a im s
  | .remReg g d a b u => Sys2Proof.Machine.execRemReg g d a b u s
  | .remImm g d a im => Sys2Proof.Machine.execRemImm g d a im s
  | .andReg g d a b => Sys2Proof.Machine.execAndReg g d a b s
  | .andImm g d a im => Sys2Proof.Machine.execAndImm g d a im s
  | .orReg g d a b => Sys2Proof.Machine.execOrReg g d a b s
  | .orImm g d a im => Sys2Proof.Machine.execOrImm g d a im s
  | .xorReg g d a b => Sys2Proof.Machine.execXorReg g d a b s
  | .xorImm g d a im => Sys2Proof.Machine.execXorImm g d a im s
  | .shlReg g d a b => Sys2Proof.Machine.execShlReg g d a b s
  | .shlImm g d a im => Sys2Proof.Machine.execShlImm g d a im s
  | .shrReg g d a b => Sys2Proof.Machine.execShrReg g d a b s
  | .shrImm g d a im => Sys2Proof.Machine.execShrImm g d a im s
  | .sraReg g d a b => Sys2Proof.Machine.execSraReg g d a b s
  | .sraImm g d a im => Sys2Proof.Machine.execSraImm g d a im s
  | .rotlReg g d a b => Sys2Proof.Machine.execRotlReg g d a b s
  | .rotlImm g d a im => Sys2Proof.Machine.execRotlImm g d a im s
  | .clzReg g d a => Sys2Proof.Machine.execClzReg g d a s
  | .clzImm g d im => Sys2Proof.Machine.execClzImm g d im s
  | .popcReg g d a => Sys2Proof.Machine.execPopcReg g d a s
  | .popcImm g d im => Sys2Proof.Machine.execPopcImm g d im s
  | .minReg g d a b u => Sys2Proof.Machine.execMinReg g d a b u s
  | .minImm g d a im => Sys2Proof.Machine.execMinImm g d a im s
  | .maxReg g d a b u => Sys2Proof.Machine.execMaxReg g d a b u s
  | .maxImm g d a im => Sys2Proof.Machine.execMaxImm g d a im s
  | .sel g d a b p => Sys2Proof.Machine.execSel g d a b p s
  | .li g d im => Sys2Proof.Machine.execLi g d im s
  | .lih g d im => Sys2Proof.Machine.execLih g d im s
  | .cmp g pd pe a b cc => Sys2Proof.Machine.execCmp g pd pe a b cc s
  | .cmpi g pd pe a cc im => Sys2Proof.Machine.execCmpi g pd pe a cc im s
  | .plog g pd pa pb tt => Sys2Proof.Machine.execPlog g pd pa pb tt s
  | .lds g d a e u o => Sys2Proof.Machine.execLds g d a e u o s
  | .sts g d a e o => Sys2Proof.Machine.execSts g d a e o s
  | .xcpS g f r a => Sys2Proof.Machine.execXcpS g f r a s
  | .crd g r n => Sys2Proof.Machine.execCrd g r n s
  | .cwr g r n => Sys2Proof.Machine.execCwr g r n s
  | .cyc g d t => Sys2Proof.Machine.execCyc g d t s
  | .cmptS g a b => Sys2Proof.Machine.execCmptS g a b s
  | .br g o => Sys2Proof.Machine.execBr g o s
  | .jmp g a => Sys2Proof.Machine.execJmp g a s
  | .loop g a k o => Sys2Proof.Machine.execLoop g a k o s
  | .bloop g o => Sys2Proof.Machine.execBloop g o s
  | .bsw g o => Sys2Proof.Machine.execBsw g o s
  | .ifence g => Sys2Proof.Machine.execIfence g s
  | .waitOwn g q => Sys2Proof.Machine.execWaitOwn g q s
  | .waitWp g ch a => Sys2Proof.Machine.execWaitWp g ch a s
  | .waitBar g b => Sys2Proof.Machine.execWaitBar g b s
  | .waitVal g acq cc a b sc z => Sys2Proof.Machine.execWaitVal g acq cc a b sc z s
  | .waitCyc g a => Sys2Proof.Machine.execWaitCyc g a s
  | .bar g b => Sys2Proof.Machine.execBar g b s
  | .tnext g pd q a => Sys2Proof.Machine.execTnext g pd q a s
  | .enq g pd q pri a => Sys2Proof.Machine.execEnq g pd q pri a s
  | .exit g => Sys2Proof.Machine.execExit g s
  | .dbrk g => Sys2Proof.Machine.execDbrk g s
  | .trap g im => Sys2Proof.Machine.execTrap g im s
  | .tret g => Sys2Proof.Machine.execTret g s
  | .crgnOpen g id o => Sys2Proof.Machine.execCrgnOpen g id o s
  | .crgnClose g => Sys2Proof.Machine.execCrgnClose g s
  | .nopEngineSlot slot g => Sys2Proof.Machine.execNopEngineSlot slot g s
  | .xcpV h a f r lane => Sys2Proof.Machine.execXcpV h a f r lane s
  | .cmptV h o => Sys2Proof.Machine.execCmptV h o s
  | .vld h o => Sys2Proof.Machine.execVld h o s
  | .vst h o => Sys2Proof.Machine.execVst h o s
  | .vgth h o => Sys2Proof.Machine.execVgth h o s
  | .vsct h o => Sys2Proof.Machine.execVsct h o s
  | .vrmg h o => Sys2Proof.Machine.execVrmg h o s
  | .vadd h o => Sys2Proof.Machine.execVadd h o s
  | .vsub h o => Sys2Proof.Machine.execVsub h o s
  | .vmul h o => Sys2Proof.Machine.execVmul h o s
  | .vfma h o => Sys2Proof.Machine.execVfma h o s
  | .vmin h o => Sys2Proof.Machine.execVmin h o s
  | .vmax h o => Sys2Proof.Machine.execVmax h o s
  | .vabs h o => Sys2Proof.Machine.execVabs h o s
  | .vneg h o => Sys2Proof.Machine.execVneg h o s
  | .vrcp h o => Sys2Proof.Machine.execVrcp h o s
  | .vrsq h o => Sys2Proof.Machine.execVrsq h o s
  | .vexp2 h o => Sys2Proof.Machine.execVexp2 h o s
  | .vlog2 h o => Sys2Proof.Machine.execVlog2 h o s
  | .vcvt h o => Sys2Proof.Machine.execVcvt h o s
  | .viadd h o => Sys2Proof.Machine.execViadd h o s
  | .visub h o => Sys2Proof.Machine.execVisub h o s
  | .vimul h o => Sys2Proof.Machine.execVimul h o s
  | .vlogic h o => Sys2Proof.Machine.execVlogic h o s
  | .vshl h o => Sys2Proof.Machine.execVshl h o s
  | .vshr h o => Sys2Proof.Machine.execVshr h o s
  | .vpopc h o => Sys2Proof.Machine.execVpopc h o s
  | .viota h o => Sys2Proof.Machine.execViota h o s
  | .vmovi h o => Sys2Proof.Machine.execVmovi h o s
  | .vcmp h o => Sys2Proof.Machine.execVcmp h o s
  | .vicmp h o => Sys2Proof.Machine.execVicmp h o s
  | .vselm h o => Sys2Proof.Machine.execVselm h o s
  | .wlog h o => Sys2Proof.Machine.execWlog h o s
  | .wcnt h o => Sys2Proof.Machine.execWcnt h o s
  | .vbits h o => Sys2Proof.Machine.execVbits h o s
  | .vrsum h o => Sys2Proof.Machine.execVrsum h o s
  | .vrmax h o => Sys2Proof.Machine.execVrmax h o s
  | .vperm h o => Sys2Proof.Machine.execVperm h o s
  | .vbcst h o => Sys2Proof.Machine.execVbcst h o s
  | .ard h o => Sys2Proof.Machine.execArd h o s
  | .awr h o => Sys2Proof.Machine.execAwr h o s
  | .zld h d z => Sys2Proof.Machine.execZld h d z s
  | .zst h d z => Sys2Proof.Machine.execZst h d z s
  | .vbmax h o => Sys2Proof.Machine.execVbmax h o s
  | .vqsx h o => Sys2Proof.Machine.execVqsx h o s
  | .vdqsx h o => Sys2Proof.Machine.execVdqsx h o s
  | .vsigp h o => Sys2Proof.Machine.execVsigp h o s
  | .vmaj h o => Sys2Proof.Machine.execVmaj h o s
  | .vosm h o => Sys2Proof.Machine.execVosm h o s
  | .vosf h o => Sys2Proof.Machine.execVosf h o s
  | .vrope h o => Sys2Proof.Machine.execVrope h o s
  | .vrng h o => Sys2Proof.Machine.execVrng h o s
  | .mstat h tid => Sys2Proof.Machine.execMstat h tid s
  | .mrel h tid layout => Sys2Proof.Machine.execMrel h tid layout s
  | .mtld h t row => Sys2Proof.Machine.execMtld h t row s
  | .mtst h t row => Sys2Proof.Machine.execMtst h t row s
  | .mmul h acc ck fmt bank t tid k0 n0 => Sys2Proof.Machine.execMmul h acc ck fmt bank t tid k0 n0 s
  | .mclr h bank => Sys2Proof.Machine.execMclr h bank s
  | .tup h md zd sh lm base => Sys2Proof.Machine.execTup h md zd sh lm base s
  | .tdn h md zd zg sh lm base => Sys2Proof.Machine.execTdn h md zd zg sh lm base s
  | .tmxp h md zd sh lm base => Sys2Proof.Machine.execTmxp h md zd sh lm base s
  | .tscl h all zd => Sys2Proof.Machine.execTscl h all zd s
  | .tshl h l e row => Sys2Proof.Machine.execTshl h l e row s
  | .tcvt h md zd zs => Sys2Proof.Machine.execTcvt h md zd zs s
  | .xcpM h zs f r => Sys2Proof.Machine.execXcpM h zs f r s
  | .addC h d a o => Sys2Proof.Machine.execAddC h d a o s
  | .subC h d a o => Sys2Proof.Machine.execSubC h d a o s
  | .shlC h d a o => Sys2Proof.Machine.execShlC h d a o s
  | .liC h d im => Sys2Proof.Machine.execLiC h d im s
  | .lihC h d im => Sys2Proof.Machine.execLihC h d im s
  | .xcpC h a f r => Sys2Proof.Machine.execXcpC h a f r s
  | .cmptC h a b => Sys2Proof.Machine.execCmptC h a b s
  | .cpy h o => Sys2Proof.Machine.execCpy h o s
  | .cpy2 h o => Sys2Proof.Machine.execCpy2 h o s
  | .cpyl h o => Sys2Proof.Machine.execCpyl h o s
  | .put h srow drow n1 lrow lcol => Sys2Proof.Machine.execPut h srow drow n1 lrow lcol s
  | .give h w q n => Sys2Proof.Machine.execGive h w q n s
  | .take h q n => Sys2Proof.Machine.execTake h q n s
  | .atom h o => Sys2Proof.Machine.execAtom h o s
  | .sig h o => Sys2Proof.Machine.execSig h o s
  | .fence h o => Sys2Proof.Machine.execFence h o s
  | .coll h o => Sys2Proof.Machine.execColl h o s
  | .cstk h o => Sys2Proof.Machine.execCstk h o s
  | .pgft h o => Sys2Proof.Machine.execPgft h o s
  | .preq h o => Sys2Proof.Machine.execPreq h o s
  | .wbk h o => Sys2Proof.Machine.execWbk h o s
  | .mapr h slot q n ra => Sys2Proof.Machine.execMapr h slot q n ra s
  | .pmov h o => Sys2Proof.Machine.execPmov h o s
  | .sset h o => Sys2Proof.Machine.execSset h o s
  | .sins h o => Sys2Proof.Machine.execSins h o s
  | .ssel h o => Sys2Proof.Machine.execSsel h o s
  | .sage h o => Sys2Proof.Machine.execSage h o s
  | .sdel h o => Sys2Proof.Machine.execSdel h o s
  | .smig h o => Sys2Proof.Machine.execSmig h o s
  | .pgap h o => Sys2Proof.Machine.execPgap h o s
  | .plan h o => Sys2Proof.Machine.execPlan h o s
  | .knop w => Sys2Proof.Machine.execKnop w s
  | .kact w wrow n1 brow => Sys2Proof.Machine.execKact w wrow n1 brow s
  | .krd w r brow => Sys2Proof.Machine.execKrd w r brow s
  | .kwr w r brow => Sys2Proof.Machine.execKwr w r brow s
  | .kpre w ph => Sys2Proof.Machine.execKpre w ph s
  | .kmac8 w r half k0 => Sys2Proof.Machine.execKmac8 w r half k0 s
  | .kmac4 w r k0 => Sys2Proof.Machine.execKmac4 w r k0 s
  | .kdq w base off gc => Sys2Proof.Machine.execKdq w base off gc s
  | .kexp w r fmt b16 db => Sys2Proof.Machine.execKexp w r fmt b16 db s
  | .kacr w base win off => Sys2Proof.Machine.execKacr w base win off s
  | .kend w discard => Sys2Proof.Machine.execKend w discard s
  | .emptyBundle drain rep => Sys2Proof.Machine.execEmptyBundle drain rep s
  | .trapEntry core => Sys2Proof.Machine.execTrapEntry core s
  | .containmentUnwind core => Sys2Proof.Machine.execContainmentUnwind core s
  | .killInstance inst => Sys2Proof.Machine.execKillInstance inst s
  | .freezeEnd core => Sys2Proof.Machine.execFreezeEnd core s
  | .leakyBucketLeak => Sys2Proof.Machine.execLeakyBucketLeak s
  | .unitRetire code => Sys2Proof.Machine.execUnitRetire code s
  | .errinjFlip core => Sys2Proof.Machine.execErrinjFlip core s
  | .tlbInvalidationComplete => Sys2Proof.Machine.execTlbInvalidationComplete s
  | .launchAdmission => Sys2Proof.Machine.execLaunchAdmission s
  | .groupDrainStop inst grp => Sys2Proof.Machine.execGroupDrainStop inst grp s
  | .preemptComplete inst => Sys2Proof.Machine.execPreemptComplete inst s
  | .preemptAbort inst => Sys2Proof.Machine.execPreemptAbort inst s
  | .instanceResume inst => Sys2Proof.Machine.execInstanceResume inst s
  | .instanceRetire inst => Sys2Proof.Machine.execInstanceRetire inst s
  | .bundleStallResume core => Sys2Proof.Machine.execBundleStallResume core s
  | .waitValRead core => Sys2Proof.Machine.execWaitValRead core s
  | .copyCommandStart core ch => Sys2Proof.Machine.execCopyCommandStart core ch s
  | .hostPageResponse port req ans => Sys2Proof.Machine.execHostPageResponse port req ans s
  | .pageRequestTimeout port req => Sys2Proof.Machine.execPageRequestTimeout port req s
  | .hostInvalidationRequest port tag pasid va log2 => Sys2Proof.Machine.execHostInvalidationRequest port tag pasid va log2 s
  | .hostInvalidationCompletion port tag => Sys2Proof.Machine.execHostInvalidationCompletion port tag s
  | .rowDelivered core ch => Sys2Proof.Machine.execRowDelivered core ch s
  | .copyCommandComplete core ch => Sys2Proof.Machine.execCopyCommandComplete core ch s
  | .weevilPageReturn core ch => Sys2Proof.Machine.execWeevilPageReturn core ch s
  | .sselStart die => Sys2Proof.Machine.execSselStart die s
  | .scarabSetOperation die => Sys2Proof.Machine.execScarabSetOperation die s
  | .pmovComplete core ch => Sys2Proof.Machine.execPmovComplete core ch s
  | .collectiveReport die eng => Sys2Proof.Machine.execCollectiveReport die eng s
  | .stackProgramStart lane => Sys2Proof.Machine.execStackProgramStart lane s
  | .refreshInterval stack => Sys2Proof.Machine.execRefreshInterval stack s
  | .planReport core ch => Sys2Proof.Machine.execPlanReport core ch s
  | .modulePowerUp => Sys2Proof.Machine.execModulePowerUp s
  | .bootclaimWrite port v => Sys2Proof.Machine.execBootclaimWrite port v s
  | .bootLoadStart port v => Sys2Proof.Machine.execBootLoadStart port v s
  | .bootImageCheck => Sys2Proof.Machine.execBootImageCheck s
  | .firmwareBootComplete fwMin hbm cports units => Sys2Proof.Machine.execFirmwareBootComplete fwMin hbm cports units s
  | .bootClaimLapse => Sys2Proof.Machine.execBootClaimLapse s
  | .registerWrite port off data => Sys2Proof.Machine.execRegisterWrite port off data s
  | .streamEnable port strm => Sys2Proof.Machine.execStreamEnable port strm s
  | .streamDisable port strm => Sys2Proof.Machine.execStreamDisable port strm s
  | .streamWridxWrite port strm v => Sys2Proof.Machine.execStreamWridxWrite port strm v s
  | .launchRec port strm => Sys2Proof.Machine.execLaunchRec port strm s
  | .waitvRec port strm => Sys2Proof.Machine.execWaitvRec port strm s
  | .waitvPoll port strm => Sys2Proof.Machine.execWaitvPoll port strm s
  | .signalRec port strm => Sys2Proof.Machine.execSignalRec port strm s
  | .copyRec port strm => Sys2Proof.Machine.execCopyRec port strm s
  | .collectiveRec port strm => Sys2Proof.Machine.execCollectiveRec port strm s
  | .eventRec port strm => Sys2Proof.Machine.execEventRec port strm s
  | .streamFence port strm => Sys2Proof.Machine.execStreamFence port strm s
  | .streamCommandComplete port strm seq => Sys2Proof.Machine.execStreamCommandComplete port strm seq s
  | .eventRingEnable port => Sys2Proof.Machine.execEventRingEnable port s
  | .evconsWrite port v => Sys2Proof.Machine.execEvconsWrite port v s
  | .functionLevelReset port => Sys2Proof.Machine.execFunctionLevelReset port s
  | .linkDown port => Sys2Proof.Machine.execLinkDown port s
  | .bar2WindowWrite port off data => Sys2Proof.Machine.execBar2WindowWrite port off data s
  | .bar2WindowRead port off len => Sys2Proof.Machine.execBar2WindowRead port off len s
  | .cloethFlitCrcFail p => Sys2Proof.Machine.execCloethFlitCrcFail p s
  | .cloethPortDown p => Sys2Proof.Machine.execCloethPortDown p s
  | .thermalThrottle => Sys2Proof.Machine.execThermalThrottle s
  | .thermalRelease => Sys2Proof.Machine.execThermalRelease s
  | .thermalTrip => Sys2Proof.Machine.execThermalTrip s
  | .mgmtReadModid r => Sys2Proof.Machine.execMgmtReadModid r s
  | .mgmtReadTelemetry r => Sys2Proof.Machine.execMgmtReadTelemetry r s
  | .mgmtReadPowerLimit r => Sys2Proof.Machine.execMgmtReadPowerLimit r s
  | .mgmtWritePowerLimit r => Sys2Proof.Machine.execMgmtWritePowerLimit r s
  | .mgmtReadPreemptBound r => Sys2Proof.Machine.execMgmtReadPreemptBound r s
  | .mgmtWritePreemptBound r => Sys2Proof.Machine.execMgmtWritePreemptBound r s
  | .mgmtReadLeakper r => Sys2Proof.Machine.execMgmtReadLeakper r s
  | .mgmtWriteLeakper r => Sys2Proof.Machine.execMgmtWriteLeakper r s
  | .mgmtReadBktmark r => Sys2Proof.Machine.execMgmtReadBktmark r s
  | .mgmtWriteBktmark r => Sys2Proof.Machine.execMgmtWriteBktmark r s
  | .mgmtReadBucketCounters r => Sys2Proof.Machine.execMgmtReadBucketCounters r s
  | .mgmtReadRetiredUnits r => Sys2Proof.Machine.execMgmtReadRetiredUnits r s
  | .mgmtWriteRetiredUnits r => Sys2Proof.Machine.execMgmtWriteRetiredUnits r s
  | .mgmtReadReplmin r => Sys2Proof.Machine.execMgmtReadReplmin r s
  | .mgmtWriteReplmin r => Sys2Proof.Machine.execMgmtWriteReplmin r s
  | .mgmtReadWeightRange r => Sys2Proof.Machine.execMgmtReadWeightRange r s
  | .mgmtWriteWeightRange r => Sys2Proof.Machine.execMgmtWriteWeightRange r s
  | .mgmtForcedDiscard r => Sys2Proof.Machine.execMgmtForcedDiscard r s
  | .mgmtReadErrinjen r => Sys2Proof.Machine.execMgmtReadErrinjen r s
  | .mgmtWriteErrinjen r => Sys2Proof.Machine.execMgmtWriteErrinjen r s
  | .mgmtDebugForcedDrain r => Sys2Proof.Machine.execMgmtDebugForcedDrain r s
  | .mgmtDebugResume r => Sys2Proof.Machine.execMgmtDebugResume r s
  | .mgmtDebugAbort r => Sys2Proof.Machine.execMgmtDebugAbort r s
  | .mgmtDebugRegisterRead r => Sys2Proof.Machine.execMgmtDebugRegisterRead r s
  | .mgmtDebugRegisterWrite r => Sys2Proof.Machine.execMgmtDebugRegisterWrite r s
  | .mgmtDebugScratchRead r => Sys2Proof.Machine.execMgmtDebugScratchRead r s
  | .mgmtDebugScratchWrite r => Sys2Proof.Machine.execMgmtDebugScratchWrite r s
  | .mgmtReadMymod r => Sys2Proof.Machine.execMgmtReadMymod r s
  | .mgmtWriteMymod r => Sys2Proof.Machine.execMgmtWriteMymod r s
  | .mgmtReadAperture r => Sys2Proof.Machine.execMgmtReadAperture r s
  | .mgmtWriteAperture r => Sys2Proof.Machine.execMgmtWriteAperture r s
  | .taskClockEdge => Sys2Proof.Machine.execTaskClockEdge s
  | .globalCycle => Sys2Proof.Machine.execGlobalCycle s
  | .powerDownRequest stack => Sys2Proof.Machine.execPowerDownRequest stack s
  | .addressTranslationEnable port en => Sys2Proof.Machine.execAddressTranslationEnable port en s
  | .linkUp port => Sys2Proof.Machine.execLinkUp port s
  | .modulePowerOff => Sys2Proof.Machine.execModulePowerOff s
  | .cloethFlitArrival p f => Sys2Proof.Machine.execCloethFlitArrival p f s
  | .diemaskClear die => Sys2Proof.Machine.execDiemaskClear die s
  | .stackDisable stack => Sys2Proof.Machine.execStackDisable stack s
  | .mgmtUnassignedRequest cmd write r => Sys2Proof.Machine.execMgmtUnassignedRequest cmd write r s

end Sys2Proof.Machine
end

