-- ==== Sys2Proof/Machine/Events.lean ====
section
/-! DEFINITION. Which step the module takes next: urgent events of cores, the cores whose turn it is, engines, streams and
firmware, and the two clocks (spec/02_execution.md R33 to R35, R39; log 6, log 7, log 17). -/

namespace Sys2Proof.Machine

/-- Whether an instruction is an event, which the outside world may bring about, and no word of a slot or a lane. -/
def isEvent (i : Instr) : Bool :=
  match i with
  | .nopS _ | .addReg _ _ _ _ _ _ | .addImm _ _ _ _ | .subReg _ _ _ _ _ _ | .subImm _ _ _ _ | .mulReg _ _ _ _ _ _
  | .mulImm _ _ _ _ | .mulhReg _ _ _ _ _ | .mulhImm _ _ _ _ | .divReg _ _ _ _ _ | .divImm _ _ _ _ | .remReg _ _ _ _ _
  | .remImm _ _ _ _ | .andReg _ _ _ _ | .andImm _ _ _ _ | .orReg _ _ _ _ | .orImm _ _ _ _ | .xorReg _ _ _ _
  | .xorImm _ _ _ _ | .shlReg _ _ _ _ | .shlImm _ _ _ _ | .shrReg _ _ _ _ | .shrImm _ _ _ _ | .sraReg _ _ _ _
  | .sraImm _ _ _ _ | .rotlReg _ _ _ _ | .rotlImm _ _ _ _ | .clzReg _ _ _ | .clzImm _ _ _ | .popcReg _ _ _
  | .popcImm _ _ _ | .minReg _ _ _ _ _ | .minImm _ _ _ _ | .maxReg _ _ _ _ _ | .maxImm _ _ _ _ | .sel _ _ _ _ _
  | .li _ _ _ | .lih _ _ _ | .cmp _ _ _ _ _ _ | .cmpi _ _ _ _ _ _ | .plog _ _ _ _ _ | .lds _ _ _ _ _ _
  | .sts _ _ _ _ _ | .xcpS _ _ _ _ | .crd _ _ _ | .cwr _ _ _ | .cyc _ _ _ | .cmptS _ _ _ | .br _ _ | .jmp _ _
  | .loop _ _ _ _ | .bloop _ _ | .bsw _ _ | .ifence _ | .waitOwn _ _ | .waitWp _ _ _ | .waitBar _ _
  | .waitVal _ _ _ _ _ _ _ | .waitCyc _ _ | .bar _ _ | .tnext _ _ _ _ | .enq _ _ _ _ _ | .exit _ | .dbrk _
  | .trap _ _ | .tret _ | .crgnOpen _ _ _ | .crgnClose _ | .nopEngineSlot _ _ | .xcpV _ _ _ _ _ | .cmptV _ _
  | .vld _ _ | .vst _ _ | .vgth _ _ | .vsct _ _ | .vrmg _ _ | .vadd _ _ | .vsub _ _ | .vmul _ _ | .vfma _ _
  | .vmin _ _ | .vmax _ _ | .vabs _ _ | .vneg _ _ | .vrcp _ _ | .vrsq _ _ | .vexp2 _ _ | .vlog2 _ _ | .vcvt _ _
  | .viadd _ _ | .visub _ _ | .vimul _ _ | .vlogic _ _ | .vshl _ _ | .vshr _ _ | .vpopc _ _ | .viota _ _ | .vmovi _ _
  | .vcmp _ _ | .vicmp _ _ | .vselm _ _ | .wlog _ _ | .wcnt _ _ | .vbits _ _ | .vrsum _ _ | .vrmax _ _ | .vperm _ _
  | .vbcst _ _ | .ard _ _ | .awr _ _ | .zld _ _ _ | .zst _ _ _ | .vbmax _ _ | .vqsx _ _ | .vdqsx _ _ | .vsigp _ _
  | .vmaj _ _ | .vosm _ _ | .vosf _ _ | .vrope _ _ | .vrng _ _ | .mstat _ _ | .mrel _ _ _ | .mtld _ _ _ | .mtst _ _ _
  | .mmul _ _ _ _ _ _ _ _ _ | .mclr _ _ | .tup _ _ _ _ _ _ | .tdn _ _ _ _ _ _ _ | .tmxp _ _ _ _ _ _ | .tscl _ _ _
  | .tshl _ _ _ _ | .tcvt _ _ _ _ | .xcpM _ _ _ _ | .addC _ _ _ _ | .subC _ _ _ _ | .shlC _ _ _ _ | .liC _ _ _
  | .lihC _ _ _ | .xcpC _ _ _ _ | .cmptC _ _ _ | .cpy _ _ | .cpy2 _ _ | .cpyl _ _ | .put _ _ _ _ _ _ | .give _ _ _ _
  | .take _ _ _ | .atom _ _ | .sig _ _ | .fence _ _ | .coll _ _ | .cstk _ _ | .pgft _ _ | .preq _ _ | .wbk _ _
  | .mapr _ _ _ _ _ | .pmov _ _ | .sset _ _ | .sins _ _ | .ssel _ _ | .sage _ _ | .sdel _ _ | .smig _ _ | .pgap _ _
  | .plan _ _ | .knop _ | .kact _ _ _ _ | .krd _ _ _ | .kwr _ _ _ | .kpre _ _ | .kmac8 _ _ _ _ | .kmac4 _ _ _
  | .kdq _ _ _ _ | .kexp _ _ _ _ _ | .kacr _ _ _ _ | .kend _ _ | .emptyBundle _ _ => false
  | .trapEntry _ | .containmentUnwind _ | .killInstance _ | .freezeEnd _ | .leakyBucketLeak | .unitRetire _
  | .errinjFlip _ | .tlbInvalidationComplete | .launchAdmission | .groupDrainStop _ _ | .preemptComplete _
  | .preemptAbort _ | .instanceResume _ | .instanceRetire _ | .bundleStallResume _ | .waitValRead _
  | .copyCommandStart _ _ | .hostPageResponse _ _ _ | .pageRequestTimeout _ _ | .hostInvalidationRequest _ _ _ _ _
  | .hostInvalidationCompletion _ _ | .rowDelivered _ _ | .copyCommandComplete _ _ | .weevilPageReturn _ _
  | .sselStart _ | .scarabSetOperation _ | .pmovComplete _ _ | .collectiveReport _ _ | .stackProgramStart _
  | .refreshInterval _ | .modulePowerUp | .bootclaimWrite _ _ | .bootLoadStart _ _ | .bootImageCheck
  | .firmwareBootComplete _ _ _ _ | .bootClaimLapse | .registerWrite _ _ _ | .streamEnable _ _ | .streamDisable _ _
  | .streamWridxWrite _ _ _ | .launchRec _ _ | .waitvRec _ _ | .waitvPoll _ _ | .signalRec _ _ | .copyRec _ _
  | .collectiveRec _ _ | .eventRec _ _ | .streamFence _ _ | .streamCommandComplete _ _ _ | .eventRingEnable _
  | .evconsWrite _ _ | .functionLevelReset _ | .linkDown _ | .bar2WindowWrite _ _ _ | .bar2WindowRead _ _ _
  | .cloethFlitCrcFail _ | .cloethPortDown _ | .thermalThrottle | .thermalRelease | .thermalTrip | .mgmtReadModid _
  | .mgmtReadTelemetry _ | .mgmtReadPowerLimit _ | .mgmtWritePowerLimit _ | .mgmtReadPreemptBound _
  | .mgmtWritePreemptBound _ | .mgmtReadLeakper _ | .mgmtWriteLeakper _ | .mgmtReadBktmark _ | .mgmtWriteBktmark _
  | .mgmtReadBucketCounters _ | .mgmtReadRetiredUnits _ | .mgmtWriteRetiredUnits _ | .mgmtReadReplmin _
  | .mgmtWriteReplmin _ | .mgmtReadWeightRange _ | .mgmtWriteWeightRange _ | .mgmtForcedDiscard _
  | .mgmtReadErrinjen _ | .mgmtWriteErrinjen _ | .mgmtDebugForcedDrain _ | .mgmtDebugResume _ | .mgmtDebugAbort _
  | .mgmtDebugRegisterRead _ | .mgmtDebugRegisterWrite _ | .mgmtDebugScratchRead _ | .mgmtDebugScratchWrite _
  | .mgmtReadMymod _ | .mgmtWriteMymod _ | .mgmtReadAperture _ | .mgmtWriteAperture _ | .taskClockEdge | .globalCycle
  | .planReport _ _ | .powerDownRequest _ | .addressTranslationEnable _ _ | .linkUp _ | .modulePowerOff
  | .cloethFlitArrival _ _ | .diemaskClear _ | .stackDisable _ | .mgmtUnassignedRequest _ _ _ => true

/-- An instruction when it is enabled. -/
def when' (o : Option State) (i : Instr) : Option Instr := if o.isSome then some i else none

/-- The physical indices of the cores that hold anything. -/
def State.coreKeys (s : State) : List Nat := s.cores.map (·.1)

/-- Both channels of every core. -/
def State.chans (s : State) : List (Nat × Bool) := s.coreKeys.flatMap (fun k => [(k, false), (k, true)])

/-- The four dies. -/
def dieList : List Nat := [0, 1, 2, 3]

/-- Events that come before any further issue: trap entry, unwinding, the end of a freeze, kills. -/
def State.urgentOf (s : State) (k : Nat) : Option Instr :=
  when' (s.tryTrap k) (.trapEntry k) <|>
  when' (s.tryUnwind k) (.containmentUnwind k) <|> when' (s.tryFreezeEnd k) (.freezeEnd k)

/-- The first urgent event. -/
def State.urgent (s : State) : Option Instr :=
  s.coreKeys.findSome? s.urgentOf <|> s.insts.findSome? (fun i => when' (s.tryKill i.id) (.killInstance i.id))

/-- The work of a channel. -/
def State.chanWork (s : State) (e : Nat × Bool) : Option Instr :=
  when' (s.tryCmdStart e.1 e.2) (.copyCommandStart e.1 e.2) <|> when' (s.tryRow e.1 e.2) (.rowDelivered e.1 e.2) <|>
  when' (s.tryComplete e.1 e.2) (.copyCommandComplete e.1 e.2) <|> when' (s.tryPmov e.1 e.2) (.pmovComplete e.1 e.2)

/-- The work of a die's collective engines. -/
def State.collWork (s : State) (d : Nat) : Option Instr :=
  (List.range 8).findSome? (fun e => when' (s.tryColl d e) (.collectiveReport d e))

/-- The work of a die's Scarab complex: a select before the maintenance of other sets (R199). -/
def State.setWork (s : State) (d : Nat) : Option Instr :=
  when' (s.trySsel d) (.sselStart d) <|> when' (s.trySetOp d) (.scarabSetOperation d)

/-- The work of Weevil for a channel's command, and a plan. -/
def State.pageWork (s : State) (e : Nat × Bool) : Option Instr :=
  when' (s.tryPage e.1 e.2) (.weevilPageReturn e.1 e.2) <|> when' (s.tryPlan e.1 e.2) (.planReport e.1 e.2)

/-- The work of engines that write scratch, in the order of R144: channels by core, collectives, Scarab, Weevil. A lane's rows
come with its landings; a write that comes out of order waits (R144). -/
def State.engineWorks (s : State) : Option Instr :=
  s.chans.findSome? s.chanWork <|> dieList.findSome? s.collWork <|> dieList.findSome? s.setWork <|> s.chans.findSome? s.pageWork

/-- The work of firmware for an instance. -/
def State.instWork (s : State) (i : Nat) : Option Instr :=
  when' (s.tryRetireInst i) (.instanceRetire i) <|>
  (((s.instCores i).map (fun k => (s.core k).gname)).findSome? (fun g => when' (s.tryStop i g) (.groupDrainStop i g))) <|>
  when' (s.tryPreempt i) (.preemptComplete i) <|> when' (s.tryPreemptAbort i) (.preemptAbort i) <|>
  when' (s.tryResume i) (.instanceResume i)

/-- The work of a port. -/
def State.portWork (s : State) (p : Bool) : Option Instr :=
  (s.port p).inval.findSome? (fun t => when' (s.tryInvalDone p t) (.hostInvalidationCompletion p t)) <|>
  (s.port p).preqs.findSome? (fun r => when' (s.tryPageTimeout p r.id) (.pageRequestTimeout p r.id)) <|>
  (s.port p).strms.findSome? (fun e => s.tryStrm p e.1)

/-- The work of the module as a whole. -/
def State.moduleWork (s : State) : Option Instr :=
  when' s.tryTlbInv .tlbInvalidationComplete <|> when' s.tryLeak .leakyBucketLeak <|>
  s.owes.findSome? (fun c => when' (s.tryRetire (BitVec.ofNat 32 c)) (.unitRetire (BitVec.ofNat 32 c))) <|>
  (s.retries.findSome? (fun e => when' (s.tryPortDown e.1) (.cloethPortDown (BitVec.ofNat 7 e.1)))) <|>
  when' s.tryBootCheck .bootImageCheck <|> when' s.tryLapse .bootClaimLapse

/-- The first step that something other than a core or a clock can take. -/
def State.background (s : State) : Option Instr :=
  s.coreKeys.findSome? (fun k => when' (s.tryWaitVal k) (.waitValRead k)) <|>
  s.engineWorks <|> (s.lanes.findSome? (fun e => when' (s.tryStart e.1) (.stackProgramStart e.1))) <|>
  [false, true].findSome? s.portWork <|> when' s.tryAdmit .launchAdmission <|>
  s.insts.findSome? (fun i => s.instWork i.id) <|> s.moduleWork

/-- The first lane whose word issues on this base-die cycle. -/
def State.laneTurn (s : State) : Option Nat := (s.lanes.map (·.1)).find? s.laneDue

/-- The mid-interval refresh of a hot stack, once the words of the cycle have issued (R244). -/
def State.refreshDue (s : State) : Option Instr :=
  if s.hot = 0 && s.postponed.isEmpty then none else (List.range 32).findSome? (fun k => when' (s.tryRefresh k) (.refreshInterval k))

/-- The first host access of a port that waits, when it can perform now (R160, R163). One that waits again keeps what it has
asked of hosts and peers. -/
def State.windowTurn (s : State) (run : Instr → State → Res) (p : Bool) : Option Res :=
  match s.parked p with
  | [] => none
  | i :: rest =>
    match run i { s with waiting := s.waiting.filter (fun x => hostPort x != some p) } with
    | .next t =>
      if (t.parked p).isEmpty then some (.next { t with waiting := t.waiting ++ rest })
      else (s.waited t).map (fun u => .next u)
    | r => some r

/-- The flip of `ERRINJ`, after every other write of its task cycle (R263). -/
def State.injectDue (s : State) : Option Instr := s.coreKeys.findSome? (fun k => when' (s.tryInject k) (.errinjFlip k))

/-- The clock that is due; before the task clock, the flips of the cycle that it ends. -/
def State.clockTurn (s : State) : Instr := if 7 ≤ s.debt then .globalCycle else s.injectDue.getD .taskClockEdge

/-- The core whose turn it is: its stalled bundle goes on, its next bundle issues, or it does not issue on this cycle. -/
def State.turnOfCore (run : Instr → State → Res) (k : Nat) (rest : List Nat) (s : State) : Res :=
  if s.resumable k then run (.bundleStallResume k) s
  else if (s.core k).issues then State.issue run { s with turn := rest, cur := k }
  else .next { s with turn := rest }

/-- The next lane word through `run`; a word that does not decode aborts its program (R237). -/
def State.laneIssue (run : Instr → State → Res) (l : Nat) (s : State) : Res :=
  match s.laneWord l with
  | some i => run i { s with klane := l }
  | none => .next (s.laneIllegal l)

/-- When no host access that waits can perform: engines, firmware, lanes, then the clock that is due. -/
def State.quietStep (run : Instr → State → Res) (s : State) : Res :=
  match s.background with
  | some i => run i s
  | none =>
    match s.laneTurn with
    | some l => s.laneIssue run l
    | none => run (s.refreshDue.getD s.clockTurn) s

/-- When no event and no core acts: accesses of hosts and peers that waited, for they came before what the module does now (R160),
then the module itself. -/
def State.idleStep (run : Instr → State → Res) (s : State) : Res :=
  (((s.windowTurn run false).orElse (fun _ => s.windowTurn run true)).orElse (fun _ => s.flitTurn.map .next)).getD (s.quietStep run)

/-- One step of a module with power whose inbox is empty. -/
def State.innerStep (run : Instr → State → Res) (s : State) : Res :=
  match s.urgent with
  | some i => run i s
  | none =>
    match s.turn with
    | k :: rest => s.turnOfCore run k rest
    | [] => s.idleStep run

/-- The bundle of a row's word at a core's program counter, and a core that issues it next: core `k` as it stands when it
issues, else as a launched core; and nothing else that would act before it. -/
def State.placeBundle (s : State) (k : Nat) (bs : List Byte) : State :=
  let c := s.core k
  let fresh := !(c.issues && (s.inst? c.inst).isSome && decide (c.pc + bs.length ≤ 16384))
  let id := s.nuid + 1
  let c1 : Core := if fresh then { c with run := true, exited := false, stopped := false, inst := id, pc := 0, half := false } else c
  let c2 : Core := { c1 with flt := none, stall := none, stopAt := none, rep := 0, rlen := 0, stub := false }
  let s1 : State := if fresh then { s with
      nuid := id, insts := s.insts ++ [{ Inst.unstarted ⟨false, 0, 0, 0, 0, false, false, 0, 0, 0, 0, 0, 0, 0, none⟩ s.glob with
        id := id, phase := .running, stages := 1, rows := 1, cols := 1, ldies := 1, held := [k] }] } else s
  { s1 with
    power := true, inbox := [], turn := k :: s.turn.tail, mem := wrBytes s1.mem (iscKey k c2.half c2.pc) bs
    errs := s1.errs.filter (fun e => !(e.unit == k && e.kind == 5)) }.setCore k c2

end Sys2Proof.Machine
end

