-- ==== Sys2Proof/Machine/Step.lean ====
section
/-! DEFINITION. One step of the module, and the placing of a word where the next step fetches it. -/

namespace Sys2Proof.Machine

/-- One step: an event of the outside world that has arrived; else, in a module with power, what comes next of itself. A word
of a slot or a lane is no event. -/
def step (s : State) : Host.Outcome State Fault Refusal :=
  match s.inbox with
  | i :: rest => if isEvent i then exec i { s with inbox := rest } else .refused .notAnEvent
  | [] => if s.power then s.innerStep exec else .next s

/-- The state with a row's word as the bundle that the next step issues (log 12). -/
def State.withFetchWord (s : State) (nbits w : Nat) : State := s.placeBundle (s.turn.headD 0) (loneBundle nbits w)

end Sys2Proof.Machine
end

