-- ==== Sys2Proof/Laws/PerInstr.lean ====
section
/-! SUPPORT. The family RoundTrip, one lemma per instruction: the decoder reads back from an instruction's encoded word the
instruction itself, with every operand (spec/13_encoding.md R289 to R304). -/

set_option linter.unusedSimpArgs false

namespace Sys2Proof.Laws

/-! ### Reading a word back -/

theorem fld_eq {n w lo : Nat} {v : BitVec n} (h : w / 2 ^ lo % 2 ^ n = v.toNat) : fld n w lo = v := by
  apply BitVec.eq_of_toNat_eq; simp [fld, h]

theorem flg_eq {w lo : Nat} {b : Bool} (h : w / 2 ^ lo % 2 = b.toNat) : flg w lo = b := by
  cases b <;> simp_all [flg]

theorem offZero {o : Off} (h : (o == ⟨0, 0, 0⟩) = true) : o = ⟨0, 0, 0⟩ := eq_of_beq h

theorem xShort {n : Nat} (v : BitVec n) : (Imm.short v).x = 0 := rfl
theorem xExt {n : Nat} (v : BitVec 32) : (Imm.ext v : Imm n).x = 1 := rfl
theorem nShort {n : Nat} (v : BitVec n) : (Imm.short v).shortNat = v.toNat := rfl
theorem nExt {n : Nat} (v : BitVec 32) : (Imm.ext v : Imm n).shortNat = 0 := rfl
theorem zero5 : (0 : BitVec 5).toNat = 0 := rfl

/-- What the decoder reads from a word of a slot, numbered as in TRAPSLOT; with 6 from a stack word, or from a header of 16
bits. -/
def readBack (slot n w : Nat) (ext : BitVec 32) : Option Instr :=
  match slot with
  | 0 => (decodeS w ext).toOption
  | 1 => (decodeV false w ext).toOption
  | 2 => (decodeV true w ext).toOption
  | 3 => (decodeM w).toOption
  | 4 => (decodeC false w ext).toOption
  | 5 => (decodeC true w ext).toOption
  | _ => if n = 16 then (decodeBundle (leBytes 2 w)).toOption.bind Bundle.lone else (decodeK w).toOption

/-- An instruction that has a word of its own, with legal fields and no sticky offset, is read back from that word, which
fits its width. -/
def RoundTrip.Statement (i : Instr) : Prop :=
  ∀ n w, i.wf = true → i.plain = true → encode i = some (n, w) → w < 2 ^ n ∧ readBack i.slot n w (extWord i) = some i

theorem RoundTrip.Statement.of {i : Instr} {n w k : Nat} {e : BitVec 32} (he : encode i = some (n, w)) (hs : i.slot = k)
    (hx : extWord i = e) (h : i.wf = true → i.plain = true → w < 2 ^ n ∧ readBack k n w e = some i) : RoundTrip.Statement i := by
  intro n' w' hw hp he'
  rw [he] at he'; injection he' with he'; injection he' with h1 h2; subst h1; subst h2; subst hs; subst hx
  exact h hw hp

/-- A step that has no word. -/
theorem RoundTrip.Statement.none {i : Instr} (he : encode i = Option.none) : RoundTrip.Statement i := by
  intro n w _ _ h; rw [he] at h; cases h

/-! ### The fields of the shared formats -/

theorem srFn {w op : Nat} {g d a b : BitVec 5} {u s : Bool} (hop : op < 64) (hw : w = encSR op g d a b (encFn u s)) :
    w < 2 ^ 32 ∧ num 6 w 21 = op ∧ fld 5 w 27 = g ∧ fld 5 w 16 = d ∧ fld 5 w 11 = a ∧ flg w 10 = false ∧ fld 5 w 5 = b ∧ flg w 1 = u ∧ flg w 0 = s ∧ num 3 w 2 = 0 := by
  have b0 := g.isLt
  have b2 := d.isLt
  have b3 := a.isLt
  have b4 := b.isLt
  have b5 := Bool.toNat_le u
  have b6 := Bool.toNat_le s
  simp only [encSR, encSI, encSHead, encFn, encVR, encVHead, encCE, encCHead, xShort, xExt, nShort, nExt, zero5, Bool.toNat_false] at hw
  exact ⟨by omega, by simp only [num]; omega, fld_eq (by omega), fld_eq (by omega), fld_eq (by omega), flg_eq (by simp; omega), fld_eq (by omega), flg_eq (by omega), flg_eq (by omega), by simp only [num]; omega⟩

theorem srU {w op : Nat} {g d a b : BitVec 5} {u : Bool} (hop : op < 64) (hw : w = encSR op g d a b (encFn u false)) :
    w < 2 ^ 32 ∧ num 6 w 21 = op ∧ fld 5 w 27 = g ∧ fld 5 w 16 = d ∧ fld 5 w 11 = a ∧ flg w 10 = false ∧ fld 5 w 5 = b ∧ flg w 1 = u ∧ flg w 0 = false ∧ num 3 w 2 = 0 := by
  have b0 := g.isLt
  have b2 := d.isLt
  have b3 := a.isLt
  have b4 := b.isLt
  have b5 := Bool.toNat_le u
  simp only [encSR, encSI, encSHead, encFn, encVR, encVHead, encCE, encCHead, xShort, xExt, nShort, nExt, zero5, Bool.toNat_false] at hw
  exact ⟨by omega, by simp only [num]; omega, fld_eq (by omega), fld_eq (by omega), fld_eq (by omega), flg_eq (by simp; omega), fld_eq (by omega), flg_eq (by omega), flg_eq (by simp; omega), by simp only [num]; omega⟩

theorem srPlain {w op : Nat} {g d a b : BitVec 5} (hop : op < 64) (hw : w = encSR op g d a b 0) :
    w < 2 ^ 32 ∧ num 6 w 21 = op ∧ fld 5 w 27 = g ∧ fld 5 w 16 = d ∧ fld 5 w 11 = a ∧ flg w 10 = false ∧ fld 5 w 5 = b ∧ num 5 w 0 = 0 := by
  have b0 := g.isLt
  have b2 := d.isLt
  have b3 := a.isLt
  have b4 := b.isLt
  simp only [encSR, encSI, encSHead, encFn, encVR, encVHead, encCE, encCHead, xShort, xExt, nShort, nExt, zero5, Bool.toNat_false] at hw
  exact ⟨by omega, by simp only [num]; omega, fld_eq (by omega), fld_eq (by omega), fld_eq (by omega), flg_eq (by simp; omega), fld_eq (by omega), by simp only [num]; omega⟩

theorem siShort {w op : Nat} {g d a : BitVec 5} {v : BitVec 9} (hop : op < 64) (hw : w = encSI op g d a (.short v)) :
    w < 2 ^ 32 ∧ num 6 w 21 = op ∧ fld 5 w 27 = g ∧ fld 5 w 16 = d ∧ fld 5 w 11 = a ∧ flg w 10 = true ∧ flg w 9 = false ∧ num 9 w 0 = v.toNat := by
  have b0 := g.isLt
  have b2 := d.isLt
  have b3 := a.isLt
  have b5 := v.isLt
  simp only [encSR, encSI, encSHead, encFn, encVR, encVHead, encCE, encCHead, xShort, xExt, nShort, nExt, zero5, Bool.toNat_false] at hw
  exact ⟨by omega, by simp only [num]; omega, fld_eq (by omega), fld_eq (by omega), fld_eq (by omega), flg_eq (by simp; omega), flg_eq (by simp; omega), by simp only [num]; omega⟩

theorem siExt {w op : Nat} {g d a : BitVec 5} {v : BitVec 32} (hop : op < 64) (hw : w = encSI op g d a (.ext v)) :
    w < 2 ^ 32 ∧ num 6 w 21 = op ∧ fld 5 w 27 = g ∧ fld 5 w 16 = d ∧ fld 5 w 11 = a ∧ flg w 10 = true ∧ flg w 9 = true ∧ num 9 w 0 = 0 := by
  have b0 := g.isLt
  have b2 := d.isLt
  have b3 := a.isLt
  simp only [encSR, encSI, encSHead, encFn, encVR, encVHead, encCE, encCHead, xShort, xExt, nShort, nExt, zero5, Bool.toNat_false] at hw
  exact ⟨by omega, by simp only [num]; omega, fld_eq (by omega), fld_eq (by omega), fld_eq (by omega), flg_eq (by simp; omega), flg_eq (by simp; omega), by simp only [num]; omega⟩

theorem vrFields {w op : Nat} {sl : Bool} {g : BitVec 5} {k : Bool} {m : BitVec 3} {st : Off} {d a b c : BitVec 6} {ty mod : BitVec 4} (hop : op < 128) (hw : w = encVR op ⟨sl, g, k, m, st⟩ ⟨d, a, b, c, ty, mod⟩) :
    w < 2 ^ 48 ∧ num 7 w 36 = op ∧ fld 5 w 43 = g ∧ flg w 35 = k ∧ fld 3 w 32 = m ∧ fld 6 w 26 = d ∧ fld 6 w 20 = a ∧ fld 6 w 14 = b ∧ fld 6 w 8 = c ∧ fld 4 w 4 = ty ∧ fld 4 w 0 = mod := by
  have b0 := g.isLt
  have b2 := Bool.toNat_le k
  have b3 := m.isLt
  have b4 := d.isLt
  have b5 := a.isLt
  have b6 := b.isLt
  have b7 := c.isLt
  have b8 := ty.isLt
  have b9 := mod.isLt
  simp only [encSR, encSI, encSHead, encFn, encVR, encVHead, encCE, encCHead, xShort, xExt, nShort, nExt, zero5, Bool.toNat_false] at hw
  exact ⟨by omega, by simp only [num]; omega, fld_eq (by omega), flg_eq (by omega), fld_eq (by omega), fld_eq (by omega), fld_eq (by omega), fld_eq (by omega), fld_eq (by omega), fld_eq (by omega), fld_eq (by omega)⟩

theorem ceShort {w op : Nat} {sl : Bool} {g : BitVec 5} {k : Bool} {st : Off} {tr : BitVec 5} {toff : BitVec 12} {ra rb rc : BitVec 5} {q : BitVec 7} {v : BitVec 12} (hop : op < 64) (hw : w = encCE op ⟨sl, g, k, st⟩ ⟨tr, toff, ra, rb, rc, q, .short v⟩) :
    w < 2 ^ 64 ∧ num 6 w 53 = op ∧ fld 5 w 59 = g ∧ flg w 52 = k ∧ flg w 51 = false ∧ fld 5 w 46 = tr ∧ fld 12 w 34 = toff ∧ fld 5 w 29 = ra ∧ fld 5 w 24 = rb ∧ fld 5 w 19 = rc ∧ fld 7 w 12 = q ∧ num 12 w 0 = v.toNat := by
  have b0 := g.isLt
  have b2 := Bool.toNat_le k
  have b3 := tr.isLt
  have b4 := toff.isLt
  have b5 := ra.isLt
  have b6 := rb.isLt
  have b7 := rc.isLt
  have b8 := q.isLt
  have b9 := v.isLt
  simp only [encSR, encSI, encSHead, encFn, encVR, encVHead, encCE, encCHead, xShort, xExt, nShort, nExt, zero5, Bool.toNat_false] at hw
  exact ⟨by omega, by simp only [num]; omega, fld_eq (by omega), flg_eq (by omega), flg_eq (by simp; omega), fld_eq (by omega), fld_eq (by omega), fld_eq (by omega), fld_eq (by omega), fld_eq (by omega), fld_eq (by omega), by simp only [num]; omega⟩

theorem ceExt {w op : Nat} {sl : Bool} {g : BitVec 5} {k : Bool} {st : Off} {tr : BitVec 5} {toff : BitVec 12} {ra rb rc : BitVec 5} {q : BitVec 7} {v : BitVec 32} (hop : op < 64) (hw : w = encCE op ⟨sl, g, k, st⟩ ⟨tr, toff, ra, rb, rc, q, .ext v⟩) :
    w < 2 ^ 64 ∧ num 6 w 53 = op ∧ fld 5 w 59 = g ∧ flg w 52 = k ∧ flg w 51 = true ∧ fld 5 w 46 = tr ∧ fld 12 w 34 = toff ∧ fld 5 w 29 = ra ∧ fld 5 w 24 = rb ∧ fld 5 w 19 = rc ∧ fld 7 w 12 = q ∧ num 12 w 0 = 0 := by
  have b0 := g.isLt
  have b2 := Bool.toNat_le k
  have b3 := tr.isLt
  have b4 := toff.isLt
  have b5 := ra.isLt
  have b6 := rb.isLt
  have b7 := rc.isLt
  have b8 := q.isLt
  simp only [encSR, encSI, encSHead, encFn, encVR, encVHead, encCE, encCHead, xShort, xExt, nShort, nExt, zero5, Bool.toNat_false] at hw
  exact ⟨by omega, by simp only [num]; omega, fld_eq (by omega), flg_eq (by omega), flg_eq (by simp; omega), fld_eq (by omega), fld_eq (by omega), fld_eq (by omega), fld_eq (by omega), fld_eq (by omega), fld_eq (by omega), by simp only [num]; omega⟩

/-! ### One lemma per instruction -/

theorem RoundTrip.nopS (g : BitVec 5) : RoundTrip.Statement (.nopS g) := by
  have b0 := g.isLt
  obtain ⟨w, hw⟩ : ∃ w, w = encSHead g 0 := ⟨_, rfl⟩
  refine .of (n := 32) (w := w) (k := 0) (e := 0) (by rw [hw]; rfl) rfl rfl fun hwf hp => ?_
  try simp only [encSR, encSI, encSHead, encFn, encVR, encVM, encVI, encVA, encVHead, encMHead, encCHead, encCI, encCE, encKR, xShort, xExt, nShort, nExt, zero5, Bool.toNat_false] at hw
  refine ⟨by omega, ?_⟩
  have f0 : fld 5 w 27 = g := fld_eq (by omega)
  have f1 : fld 5 w 16 = 0 := fld_eq (by simp; omega)
  have f2 : fld 5 w 11 = 0 := fld_eq (by simp; omega)
  have f3 : fld 5 w 5 = 0 := fld_eq (by simp; omega)
  have f4 : flg w 1 = false := flg_eq (by simp; omega)
  have f5 : flg w 0 = false := flg_eq (by simp; omega)
  have f6 : flg w 10 = false := flg_eq (by simp; omega)
  have f7 : flg w 9 = false := flg_eq (by simp; omega)
  have f8 : num 9 w 0 = 0 := by simp only [num]; omega
  have f9 : num 21 w 0 = 0 := by simp only [num]; omega
  have f10 : num 6 w 21 = 0 := by simp only [num]; omega
  simp [readBack, decodeS, accept, hwf, immOf, immZ, Imm.extNat, noOff, Except.toOption, f0, f1, f2, f3, f4, f5, f6, f7, f8, f9, f10]

theorem RoundTrip.addReg (g : BitVec 5) (d : BitVec 5) (a : BitVec 5) (b : BitVec 5) (u : Bool) (s : Bool) : RoundTrip.Statement (.addReg g d a b u s) := by
  obtain ⟨w, hw⟩ : ∃ w, w = encSR 0x01 g d a b (encFn u s) := ⟨_, rfl⟩
  refine .of (n := 32) (w := w) (k := 0) (e := 0) (by rw [hw]; rfl) rfl rfl fun hwf hp => ?_
  obtain ⟨lt, f0, f1, f2, f3, f4, f5, f6, f7, f8⟩ := srFn (by decide) hw
  refine ⟨lt, ?_⟩
  simp [readBack, decodeS, accept, hwf, immOf, immZ, Imm.extNat, noOff, Except.toOption, f0, f1, f2, f3, f4, f5, f6, f7, f8]

theorem RoundTrip.addImm (g : BitVec 5) (d : BitVec 5) (a : BitVec 5) (i : Imm 9) : RoundTrip.Statement (.addImm g d a i) := by
  cases i with
  | short v =>
    obtain ⟨w, hw⟩ : ∃ w, w = encSI 0x01 g d a (Imm.short v) := ⟨_, rfl⟩
    refine .of (n := 32) (w := w) (k := 0) (e := BitVec.ofNat 32 0) (by rw [hw]; rfl) rfl rfl fun hwf hp => ?_
    obtain ⟨lt, f0, f1, f2, f3, f4, f5, f6⟩ := siShort (by decide) hw
    refine ⟨lt, ?_⟩
    simp [readBack, decodeS, accept, hwf, immOf, immZ, Imm.extNat, noOff, Except.toOption, f0, f1, f2, f3, f4, f5, f6]
  | ext v =>
    obtain ⟨w, hw⟩ : ∃ w, w = encSI 0x01 g d a (Imm.ext v : Imm 9) := ⟨_, rfl⟩
    refine .of (n := 32) (w := w) (k := 0) (e := BitVec.ofNat 32 v.toNat) (by rw [hw]; rfl) rfl rfl fun hwf hp => ?_
    obtain ⟨lt, f0, f1, f2, f3, f4, f5, f6⟩ := siExt (by decide) hw
    refine ⟨lt, ?_⟩
    simp [readBack, decodeS, accept, hwf, immOf, immZ, Imm.extNat, noOff, Except.toOption, f0, f1, f2, f3, f4, f5, f6]

theorem RoundTrip.subReg (g : BitVec 5) (d : BitVec 5) (a : BitVec 5) (b : BitVec 5) (u : Bool) (s : Bool) : RoundTrip.Statement (.subReg g d a b u s) := by
  obtain ⟨w, hw⟩ : ∃ w, w = encSR 0x02 g d a b (encFn u s) := ⟨_, rfl⟩
  refine .of (n := 32) (w := w) (k := 0) (e := 0) (by rw [hw]; rfl) rfl rfl fun hwf hp => ?_
  obtain ⟨lt, f0, f1, f2, f3, f4, f5, f6, f7, f8⟩ := srFn (by decide) hw
  refine ⟨lt, ?_⟩
  simp [readBack, decodeS, accept, hwf, immOf, immZ, Imm.extNat, noOff, Except.toOption, f0, f1, f2, f3, f4, f5, f6, f7, f8]

theorem RoundTrip.subImm (g : BitVec 5) (d : BitVec 5) (a : BitVec 5) (i : Imm 9) : RoundTrip.Statement (.subImm g d a i) := by
  cases i with
  | short v =>
    obtain ⟨w, hw⟩ : ∃ w, w = encSI 0x02 g d a (Imm.short v) := ⟨_, rfl⟩
    refine .of (n := 32) (w := w) (k := 0) (e := BitVec.ofNat 32 0) (by rw [hw]; rfl) rfl rfl fun hwf hp => ?_
    obtain ⟨lt, f0, f1, f2, f3, f4, f5, f6⟩ := siShort (by decide) hw
    refine ⟨lt, ?_⟩
    simp [readBack, decodeS, accept, hwf, immOf, immZ, Imm.extNat, noOff, Except.toOption, f0, f1, f2, f3, f4, f5, f6]
  | ext v =>
    obtain ⟨w, hw⟩ : ∃ w, w = encSI 0x02 g d a (Imm.ext v : Imm 9) := ⟨_, rfl⟩
    refine .of (n := 32) (w := w) (k := 0) (e := BitVec.ofNat 32 v.toNat) (by rw [hw]; rfl) rfl rfl fun hwf hp => ?_
    obtain ⟨lt, f0, f1, f2, f3, f4, f5, f6⟩ := siExt (by decide) hw
    refine ⟨lt, ?_⟩
    simp [readBack, decodeS, accept, hwf, immOf, immZ, Imm.extNat, noOff, Except.toOption, f0, f1, f2, f3, f4, f5, f6]

theorem RoundTrip.mulReg (g : BitVec 5) (d : BitVec 5) (a : BitVec 5) (b : BitVec 5) (u : Bool) (s : Bool) : RoundTrip.Statement (.mulReg g d a b u s) := by
  obtain ⟨w, hw⟩ : ∃ w, w = encSR 0x03 g d a b (encFn u s) := ⟨_, rfl⟩
  refine .of (n := 32) (w := w) (k := 0) (e := 0) (by rw [hw]; rfl) rfl rfl fun hwf hp => ?_
  obtain ⟨lt, f0, f1, f2, f3, f4, f5, f6, f7, f8⟩ := srFn (by decide) hw
  refine ⟨lt, ?_⟩
  simp [readBack, decodeS, accept, hwf, immOf, immZ, Imm.extNat, noOff, Except.toOption, f0, f1, f2, f3, f4, f5, f6, f7, f8]

theorem RoundTrip.mulImm (g : BitVec 5) (d : BitVec 5) (a : BitVec 5) (i : Imm 9) : RoundTrip.Statement (.mulImm g d a i) := by
  cases i with
  | short v =>
    obtain ⟨w, hw⟩ : ∃ w, w = encSI 0x03 g d a (Imm.short v) := ⟨_, rfl⟩
    refine .of (n := 32) (w := w) (k := 0) (e := BitVec.ofNat 32 0) (by rw [hw]; rfl) rfl rfl fun hwf hp => ?_
    obtain ⟨lt, f0, f1, f2, f3, f4, f5, f6⟩ := siShort (by decide) hw
    refine ⟨lt, ?_⟩
    simp [readBack, decodeS, accept, hwf, immOf, immZ, Imm.extNat, noOff, Except.toOption, f0, f1, f2, f3, f4, f5, f6]
  | ext v =>
    obtain ⟨w, hw⟩ : ∃ w, w = encSI 0x03 g d a (Imm.ext v : Imm 9) := ⟨_, rfl⟩
    refine .of (n := 32) (w := w) (k := 0) (e := BitVec.ofNat 32 v.toNat) (by rw [hw]; rfl) rfl rfl fun hwf hp => ?_
    obtain ⟨lt, f0, f1, f2, f3, f4, f5, f6⟩ := siExt (by decide) hw
    refine ⟨lt, ?_⟩
    simp [readBack, decodeS, accept, hwf, immOf, immZ, Imm.extNat, noOff, Except.toOption, f0, f1, f2, f3, f4, f5, f6]

theorem RoundTrip.mulhReg (g : BitVec 5) (d : BitVec 5) (a : BitVec 5) (b : BitVec 5) (u : Bool) : RoundTrip.Statement (.mulhReg g d a b u) := by
  obtain ⟨w, hw⟩ : ∃ w, w = encSR 0x04 g d a b (encFn u false) := ⟨_, rfl⟩
  refine .of (n := 32) (w := w) (k := 0) (e := 0) (by rw [hw]; rfl) rfl rfl fun hwf hp => ?_
  obtain ⟨lt, f0, f1, f2, f3, f4, f5, f6, f7, f8⟩ := srU (by decide) hw
  refine ⟨lt, ?_⟩
  simp [readBack, decodeS, accept, hwf, immOf, immZ, Imm.extNat, noOff, Except.toOption, f0, f1, f2, f3, f4, f5, f6, f7, f8]

theorem RoundTrip.mulhImm (g : BitVec 5) (d : BitVec 5) (a : BitVec 5) (i : Imm 9) : RoundTrip.Statement (.mulhImm g d a i) := by
  cases i with
  | short v =>
    obtain ⟨w, hw⟩ : ∃ w, w = encSI 0x04 g d a (Imm.short v) := ⟨_, rfl⟩
    refine .of (n := 32) (w := w) (k := 0) (e := BitVec.ofNat 32 0) (by rw [hw]; rfl) rfl rfl fun hwf hp => ?_
    obtain ⟨lt, f0, f1, f2, f3, f4, f5, f6⟩ := siShort (by decide) hw
    refine ⟨lt, ?_⟩
    simp [readBack, decodeS, accept, hwf, immOf, immZ, Imm.extNat, noOff, Except.toOption, f0, f1, f2, f3, f4, f5, f6]
  | ext v =>
    obtain ⟨w, hw⟩ : ∃ w, w = encSI 0x04 g d a (Imm.ext v : Imm 9) := ⟨_, rfl⟩
    refine .of (n := 32) (w := w) (k := 0) (e := BitVec.ofNat 32 v.toNat) (by rw [hw]; rfl) rfl rfl fun hwf hp => ?_
    obtain ⟨lt, f0, f1, f2, f3, f4, f5, f6⟩ := siExt (by decide) hw
    refine ⟨lt, ?_⟩
    simp [readBack, decodeS, accept, hwf, immOf, immZ, Imm.extNat, noOff, Except.toOption, f0, f1, f2, f3, f4, f5, f6]

theorem RoundTrip.divReg (g : BitVec 5) (d : BitVec 5) (a : BitVec 5) (b : BitVec 5) (u : Bool) : RoundTrip.Statement (.divReg g d a b u) := by
  obtain ⟨w, hw⟩ : ∃ w, w = encSR 0x05 g d a b (encFn u false) := ⟨_, rfl⟩
  refine .of (n := 32) (w := w) (k := 0) (e := 0) (by rw [hw]; rfl) rfl rfl fun hwf hp => ?_
  obtain ⟨lt, f0, f1, f2, f3, f4, f5, f6, f7, f8⟩ := srU (by decide) hw
  refine ⟨lt, ?_⟩
  simp [readBack, decodeS, accept, hwf, immOf, immZ, Imm.extNat, noOff, Except.toOption, f0, f1, f2, f3, f4, f5, f6, f7, f8]

theorem RoundTrip.divImm (g : BitVec 5) (d : BitVec 5) (a : BitVec 5) (i : Imm 9) : RoundTrip.Statement (.divImm g d a i) := by
  cases i with
  | short v =>
    obtain ⟨w, hw⟩ : ∃ w, w = encSI 0x05 g d a (Imm.short v) := ⟨_, rfl⟩
    refine .of (n := 32) (w := w) (k := 0) (e := BitVec.ofNat 32 0) (by rw [hw]; rfl) rfl rfl fun hwf hp => ?_
    obtain ⟨lt, f0, f1, f2, f3, f4, f5, f6⟩ := siShort (by decide) hw
    refine ⟨lt, ?_⟩
    simp [readBack, decodeS, accept, hwf, immOf, immZ, Imm.extNat, noOff, Except.toOption, f0, f1, f2, f3, f4, f5, f6]
  | ext v =>
    obtain ⟨w, hw⟩ : ∃ w, w = encSI 0x05 g d a (Imm.ext v : Imm 9) := ⟨_, rfl⟩
    refine .of (n := 32) (w := w) (k := 0) (e := BitVec.ofNat 32 v.toNat) (by rw [hw]; rfl) rfl rfl fun hwf hp => ?_
    obtain ⟨lt, f0, f1, f2, f3, f4, f5, f6⟩ := siExt (by decide) hw
    refine ⟨lt, ?_⟩
    simp [readBack, decodeS, accept, hwf, immOf, immZ, Imm.extNat, noOff, Except.toOption, f0, f1, f2, f3, f4, f5, f6]

theorem RoundTrip.remReg (g : BitVec 5) (d : BitVec 5) (a : BitVec 5) (b : BitVec 5) (u : Bool) : RoundTrip.Statement (.remReg g d a b u) := by
  obtain ⟨w, hw⟩ : ∃ w, w = encSR 0x06 g d a b (encFn u false) := ⟨_, rfl⟩
  refine .of (n := 32) (w := w) (k := 0) (e := 0) (by rw [hw]; rfl) rfl rfl fun hwf hp => ?_
  obtain ⟨lt, f0, f1, f2, f3, f4, f5, f6, f7, f8⟩ := srU (by decide) hw
  refine ⟨lt, ?_⟩
  simp [readBack, decodeS, accept, hwf, immOf, immZ, Imm.extNat, noOff, Except.toOption, f0, f1, f2, f3, f4, f5, f6, f7, f8]

theorem RoundTrip.remImm (g : BitVec 5) (d : BitVec 5) (a : BitVec 5) (i : Imm 9) : RoundTrip.Statement (.remImm g d a i) := by
  cases i with
  | short v =>
    obtain ⟨w, hw⟩ : ∃ w, w = encSI 0x06 g d a (Imm.short v) := ⟨_, rfl⟩
    refine .of (n := 32) (w := w) (k := 0) (e := BitVec.ofNat 32 0) (by rw [hw]; rfl) rfl rfl fun hwf hp => ?_
    obtain ⟨lt, f0, f1, f2, f3, f4, f5, f6⟩ := siShort (by decide) hw
    refine ⟨lt, ?_⟩
    simp [readBack, decodeS, accept, hwf, immOf, immZ, Imm.extNat, noOff, Except.toOption, f0, f1, f2, f3, f4, f5, f6]
  | ext v =>
    obtain ⟨w, hw⟩ : ∃ w, w = encSI 0x06 g d a (Imm.ext v : Imm 9) := ⟨_, rfl⟩
    refine .of (n := 32) (w := w) (k := 0) (e := BitVec.ofNat 32 v.toNat) (by rw [hw]; rfl) rfl rfl fun hwf hp => ?_
    obtain ⟨lt, f0, f1, f2, f3, f4, f5, f6⟩ := siExt (by decide) hw
    refine ⟨lt, ?_⟩
    simp [readBack, decodeS, accept, hwf, immOf, immZ, Imm.extNat, noOff, Except.toOption, f0, f1, f2, f3, f4, f5, f6]

theorem RoundTrip.andReg (g : BitVec 5) (d : BitVec 5) (a : BitVec 5) (b : BitVec 5) : RoundTrip.Statement (.andReg g d a b) := by
  obtain ⟨w, hw⟩ : ∃ w, w = encSR 0x07 g d a b 0 := ⟨_, rfl⟩
  refine .of (n := 32) (w := w) (k := 0) (e := 0) (by rw [hw]; rfl) rfl rfl fun hwf hp => ?_
  obtain ⟨lt, f0, f1, f2, f3, f4, f5, f6⟩ := srPlain (by decide) hw
  refine ⟨lt, ?_⟩
  simp [readBack, decodeS, accept, hwf, immOf, immZ, Imm.extNat, noOff, Except.toOption, f0, f1, f2, f3, f4, f5, f6]

theorem RoundTrip.andImm (g : BitVec 5) (d : BitVec 5) (a : BitVec 5) (i : Imm 9) : RoundTrip.Statement (.andImm g d a i) := by
  cases i with
  | short v =>
    obtain ⟨w, hw⟩ : ∃ w, w = encSI 0x07 g d a (Imm.short v) := ⟨_, rfl⟩
    refine .of (n := 32) (w := w) (k := 0) (e := BitVec.ofNat 32 0) (by rw [hw]; rfl) rfl rfl fun hwf hp => ?_
    obtain ⟨lt, f0, f1, f2, f3, f4, f5, f6⟩ := siShort (by decide) hw
    refine ⟨lt, ?_⟩
    simp [readBack, decodeS, accept, hwf, immOf, immZ, Imm.extNat, noOff, Except.toOption, f0, f1, f2, f3, f4, f5, f6]
  | ext v =>
    obtain ⟨w, hw⟩ : ∃ w, w = encSI 0x07 g d a (Imm.ext v : Imm 9) := ⟨_, rfl⟩
    refine .of (n := 32) (w := w) (k := 0) (e := BitVec.ofNat 32 v.toNat) (by rw [hw]; rfl) rfl rfl fun hwf hp => ?_
    obtain ⟨lt, f0, f1, f2, f3, f4, f5, f6⟩ := siExt (by decide) hw
    refine ⟨lt, ?_⟩
    simp [readBack, decodeS, accept, hwf, immOf, immZ, Imm.extNat, noOff, Except.toOption, f0, f1, f2, f3, f4, f5, f6]

theorem RoundTrip.orReg (g : BitVec 5) (d : BitVec 5) (a : BitVec 5) (b : BitVec 5) : RoundTrip.Statement (.orReg g d a b) := by
  obtain ⟨w, hw⟩ : ∃ w, w = encSR 0x08 g d a b 0 := ⟨_, rfl⟩
  refine .of (n := 32) (w := w) (k := 0) (e := 0) (by rw [hw]; rfl) rfl rfl fun hwf hp => ?_
  obtain ⟨lt, f0, f1, f2, f3, f4, f5, f6⟩ := srPlain (by decide) hw
  refine ⟨lt, ?_⟩
  simp [readBack, decodeS, accept, hwf, immOf, immZ, Imm.extNat, noOff, Except.toOption, f0, f1, f2, f3, f4, f5, f6]

theorem RoundTrip.orImm (g : BitVec 5) (d : BitVec 5) (a : BitVec 5) (i : Imm 9) : RoundTrip.Statement (.orImm g d a i) := by
  cases i with
  | short v =>
    obtain ⟨w, hw⟩ : ∃ w, w = encSI 0x08 g d a (Imm.short v) := ⟨_, rfl⟩
    refine .of (n := 32) (w := w) (k := 0) (e := BitVec.ofNat 32 0) (by rw [hw]; rfl) rfl rfl fun hwf hp => ?_
    obtain ⟨lt, f0, f1, f2, f3, f4, f5, f6⟩ := siShort (by decide) hw
    refine ⟨lt, ?_⟩
    simp [readBack, decodeS, accept, hwf, immOf, immZ, Imm.extNat, noOff, Except.toOption, f0, f1, f2, f3, f4, f5, f6]
  | ext v =>
    obtain ⟨w, hw⟩ : ∃ w, w = encSI 0x08 g d a (Imm.ext v : Imm 9) := ⟨_, rfl⟩
    refine .of (n := 32) (w := w) (k := 0) (e := BitVec.ofNat 32 v.toNat) (by rw [hw]; rfl) rfl rfl fun hwf hp => ?_
    obtain ⟨lt, f0, f1, f2, f3, f4, f5, f6⟩ := siExt (by decide) hw
    refine ⟨lt, ?_⟩
    simp [readBack, decodeS, accept, hwf, immOf, immZ, Imm.extNat, noOff, Except.toOption, f0, f1, f2, f3, f4, f5, f6]

theorem RoundTrip.xorReg (g : BitVec 5) (d : BitVec 5) (a : BitVec 5) (b : BitVec 5) : RoundTrip.Statement (.xorReg g d a b) := by
  obtain ⟨w, hw⟩ : ∃ w, w = encSR 0x09 g d a b 0 := ⟨_, rfl⟩
  refine .of (n := 32) (w := w) (k := 0) (e := 0) (by rw [hw]; rfl) rfl rfl fun hwf hp => ?_
  obtain ⟨lt, f0, f1, f2, f3, f4, f5, f6⟩ := srPlain (by decide) hw
  refine ⟨lt, ?_⟩
  simp [readBack, decodeS, accept, hwf, immOf, immZ, Imm.extNat, noOff, Except.toOption, f0, f1, f2, f3, f4, f5, f6]

theorem RoundTrip.xorImm (g : BitVec 5) (d : BitVec 5) (a : BitVec 5) (i : Imm 9) : RoundTrip.Statement (.xorImm g d a i) := by
  cases i with
  | short v =>
    obtain ⟨w, hw⟩ : ∃ w, w = encSI 0x09 g d a (Imm.short v) := ⟨_, rfl⟩
    refine .of (n := 32) (w := w) (k := 0) (e := BitVec.ofNat 32 0) (by rw [hw]; rfl) rfl rfl fun hwf hp => ?_
    obtain ⟨lt, f0, f1, f2, f3, f4, f5, f6⟩ := siShort (by decide) hw
    refine ⟨lt, ?_⟩
    simp [readBack, decodeS, accept, hwf, immOf, immZ, Imm.extNat, noOff, Except.toOption, f0, f1, f2, f3, f4, f5, f6]
  | ext v =>
    obtain ⟨w, hw⟩ : ∃ w, w = encSI 0x09 g d a (Imm.ext v : Imm 9) := ⟨_, rfl⟩
    refine .of (n := 32) (w := w) (k := 0) (e := BitVec.ofNat 32 v.toNat) (by rw [hw]; rfl) rfl rfl fun hwf hp => ?_
    obtain ⟨lt, f0, f1, f2, f3, f4, f5, f6⟩ := siExt (by decide) hw
    refine ⟨lt, ?_⟩
    simp [readBack, decodeS, accept, hwf, immOf, immZ, Imm.extNat, noOff, Except.toOption, f0, f1, f2, f3, f4, f5, f6]

theorem RoundTrip.shlReg (g : BitVec 5) (d : BitVec 5) (a : BitVec 5) (b : BitVec 5) : RoundTrip.Statement (.shlReg g d a b) := by
  obtain ⟨w, hw⟩ : ∃ w, w = encSR 0x0a g d a b 0 := ⟨_, rfl⟩
  refine .of (n := 32) (w := w) (k := 0) (e := 0) (by rw [hw]; rfl) rfl rfl fun hwf hp => ?_
  obtain ⟨lt, f0, f1, f2, f3, f4, f5, f6⟩ := srPlain (by decide) hw
  refine ⟨lt, ?_⟩
  simp [readBack, decodeS, accept, hwf, immOf, immZ, Imm.extNat, noOff, Except.toOption, f0, f1, f2, f3, f4, f5, f6]

theorem RoundTrip.shlImm (g : BitVec 5) (d : BitVec 5) (a : BitVec 5) (i : Imm 9) : RoundTrip.Statement (.shlImm g d a i) := by
  cases i with
  | short v =>
    obtain ⟨w, hw⟩ : ∃ w, w = encSI 0x0a g d a (Imm.short v) := ⟨_, rfl⟩
    refine .of (n := 32) (w := w) (k := 0) (e := BitVec.ofNat 32 0) (by rw [hw]; rfl) rfl rfl fun hwf hp => ?_
    obtain ⟨lt, f0, f1, f2, f3, f4, f5, f6⟩ := siShort (by decide) hw
    refine ⟨lt, ?_⟩
    simp [readBack, decodeS, accept, hwf, immOf, immZ, Imm.extNat, noOff, Except.toOption, f0, f1, f2, f3, f4, f5, f6]
  | ext v =>
    obtain ⟨w, hw⟩ : ∃ w, w = encSI 0x0a g d a (Imm.ext v : Imm 9) := ⟨_, rfl⟩
    refine .of (n := 32) (w := w) (k := 0) (e := BitVec.ofNat 32 v.toNat) (by rw [hw]; rfl) rfl rfl fun hwf hp => ?_
    obtain ⟨lt, f0, f1, f2, f3, f4, f5, f6⟩ := siExt (by decide) hw
    refine ⟨lt, ?_⟩
    simp [readBack, decodeS, accept, hwf, immOf, immZ, Imm.extNat, noOff, Except.toOption, f0, f1, f2, f3, f4, f5, f6]

theorem RoundTrip.shrReg (g : BitVec 5) (d : BitVec 5) (a : BitVec 5) (b : BitVec 5) : RoundTrip.Statement (.shrReg g d a b) := by
  obtain ⟨w, hw⟩ : ∃ w, w = encSR 0x0b g d a b 0 := ⟨_, rfl⟩
  refine .of (n := 32) (w := w) (k := 0) (e := 0) (by rw [hw]; rfl) rfl rfl fun hwf hp => ?_
  obtain ⟨lt, f0, f1, f2, f3, f4, f5, f6⟩ := srPlain (by decide) hw
  refine ⟨lt, ?_⟩
  simp [readBack, decodeS, accept, hwf, immOf, immZ, Imm.extNat, noOff, Except.toOption, f0, f1, f2, f3, f4, f5, f6]

theorem RoundTrip.shrImm (g : BitVec 5) (d : BitVec 5) (a : BitVec 5) (i : Imm 9) : RoundTrip.Statement (.shrImm g d a i) := by
  cases i with
  | short v =>
    obtain ⟨w, hw⟩ : ∃ w, w = encSI 0x0b g d a (Imm.short v) := ⟨_, rfl⟩
    refine .of (n := 32) (w := w) (k := 0) (e := BitVec.ofNat 32 0) (by rw [hw]; rfl) rfl rfl fun hwf hp => ?_
    obtain ⟨lt, f0, f1, f2, f3, f4, f5, f6⟩ := siShort (by decide) hw
    refine ⟨lt, ?_⟩
    simp [readBack, decodeS, accept, hwf, immOf, immZ, Imm.extNat, noOff, Except.toOption, f0, f1, f2, f3, f4, f5, f6]
  | ext v =>
    obtain ⟨w, hw⟩ : ∃ w, w = encSI 0x0b g d a (Imm.ext v : Imm 9) := ⟨_, rfl⟩
    refine .of (n := 32) (w := w) (k := 0) (e := BitVec.ofNat 32 v.toNat) (by rw [hw]; rfl) rfl rfl fun hwf hp => ?_
    obtain ⟨lt, f0, f1, f2, f3, f4, f5, f6⟩ := siExt (by decide) hw
    refine ⟨lt, ?_⟩
    simp [readBack, decodeS, accept, hwf, immOf, immZ, Imm.extNat, noOff, Except.toOption, f0, f1, f2, f3, f4, f5, f6]

theorem RoundTrip.sraReg (g : BitVec 5) (d : BitVec 5) (a : BitVec 5) (b : BitVec 5) : RoundTrip.Statement (.sraReg g d a b) := by
  obtain ⟨w, hw⟩ : ∃ w, w = encSR 0x0c g d a b 0 := ⟨_, rfl⟩
  refine .of (n := 32) (w := w) (k := 0) (e := 0) (by rw [hw]; rfl) rfl rfl fun hwf hp => ?_
  obtain ⟨lt, f0, f1, f2, f3, f4, f5, f6⟩ := srPlain (by decide) hw
  refine ⟨lt, ?_⟩
  simp [readBack, decodeS, accept, hwf, immOf, immZ, Imm.extNat, noOff, Except.toOption, f0, f1, f2, f3, f4, f5, f6]

theorem RoundTrip.sraImm (g : BitVec 5) (d : BitVec 5) (a : BitVec 5) (i : Imm 9) : RoundTrip.Statement (.sraImm g d a i) := by
  cases i with
  | short v =>
    obtain ⟨w, hw⟩ : ∃ w, w = encSI 0x0c g d a (Imm.short v) := ⟨_, rfl⟩
    refine .of (n := 32) (w := w) (k := 0) (e := BitVec.ofNat 32 0) (by rw [hw]; rfl) rfl rfl fun hwf hp => ?_
    obtain ⟨lt, f0, f1, f2, f3, f4, f5, f6⟩ := siShort (by decide) hw
    refine ⟨lt, ?_⟩
    simp [readBack, decodeS, accept, hwf, immOf, immZ, Imm.extNat, noOff, Except.toOption, f0, f1, f2, f3, f4, f5, f6]
  | ext v =>
    obtain ⟨w, hw⟩ : ∃ w, w = encSI 0x0c g d a (Imm.ext v : Imm 9) := ⟨_, rfl⟩
    refine .of (n := 32) (w := w) (k := 0) (e := BitVec.ofNat 32 v.toNat) (by rw [hw]; rfl) rfl rfl fun hwf hp => ?_
    obtain ⟨lt, f0, f1, f2, f3, f4, f5, f6⟩ := siExt (by decide) hw
    refine ⟨lt, ?_⟩
    simp [readBack, decodeS, accept, hwf, immOf, immZ, Imm.extNat, noOff, Except.toOption, f0, f1, f2, f3, f4, f5, f6]

theorem RoundTrip.rotlReg (g : BitVec 5) (d : BitVec 5) (a : BitVec 5) (b : BitVec 5) : RoundTrip.Statement (.rotlReg g d a b) := by
  obtain ⟨w, hw⟩ : ∃ w, w = encSR 0x0d g d a b 0 := ⟨_, rfl⟩
  refine .of (n := 32) (w := w) (k := 0) (e := 0) (by rw [hw]; rfl) rfl rfl fun hwf hp => ?_
  obtain ⟨lt, f0, f1, f2, f3, f4, f5, f6⟩ := srPlain (by decide) hw
  refine ⟨lt, ?_⟩
  simp [readBack, decodeS, accept, hwf, immOf, immZ, Imm.extNat, noOff, Except.toOption, f0, f1, f2, f3, f4, f5, f6]

theorem RoundTrip.rotlImm (g : BitVec 5) (d : BitVec 5) (a : BitVec 5) (i : Imm 9) : RoundTrip.Statement (.rotlImm g d a i) := by
  cases i with
  | short v =>
    obtain ⟨w, hw⟩ : ∃ w, w = encSI 0x0d g d a (Imm.short v) := ⟨_, rfl⟩
    refine .of (n := 32) (w := w) (k := 0) (e := BitVec.ofNat 32 0) (by rw [hw]; rfl) rfl rfl fun hwf hp => ?_
    obtain ⟨lt, f0, f1, f2, f3, f4, f5, f6⟩ := siShort (by decide) hw
    refine ⟨lt, ?_⟩
    simp [readBack, decodeS, accept, hwf, immOf, immZ, Imm.extNat, noOff, Except.toOption, f0, f1, f2, f3, f4, f5, f6]
  | ext v =>
    obtain ⟨w, hw⟩ : ∃ w, w = encSI 0x0d g d a (Imm.ext v : Imm 9) := ⟨_, rfl⟩
    refine .of (n := 32) (w := w) (k := 0) (e := BitVec.ofNat 32 v.toNat) (by rw [hw]; rfl) rfl rfl fun hwf hp => ?_
    obtain ⟨lt, f0, f1, f2, f3, f4, f5, f6⟩ := siExt (by decide) hw
    refine ⟨lt, ?_⟩
    simp [readBack, decodeS, accept, hwf, immOf, immZ, Imm.extNat, noOff, Except.toOption, f0, f1, f2, f3, f4, f5, f6]

theorem RoundTrip.clzReg (g : BitVec 5) (d : BitVec 5) (a : BitVec 5) : RoundTrip.Statement (.clzReg g d a) := by
  have b0 := g.isLt
  have b2 := d.isLt
  have b3 := a.isLt
  obtain ⟨w, hw⟩ : ∃ w, w = encSR 0x0e g d a 0 0 := ⟨_, rfl⟩
  refine .of (n := 32) (w := w) (k := 0) (e := 0) (by rw [hw]; rfl) rfl rfl fun hwf hp => ?_
  try simp only [encSR, encSI, encSHead, encFn, encVR, encVM, encVI, encVA, encVHead, encMHead, encCHead, encCI, encCE, encKR, xShort, xExt, nShort, nExt, zero5, Bool.toNat_false] at hw
  refine ⟨by omega, ?_⟩
  have f0 : fld 5 w 27 = g := fld_eq (by omega)
  have f1 : fld 5 w 16 = d := fld_eq (by omega)
  have f2 : fld 5 w 11 = a := fld_eq (by omega)
  have f3 : fld 5 w 5 = 0 := fld_eq (by simp; omega)
  have f4 : flg w 1 = false := flg_eq (by simp; omega)
  have f5 : flg w 0 = false := flg_eq (by simp; omega)
  have f6 : flg w 10 = false := flg_eq (by simp; omega)
  have f7 : flg w 9 = false := flg_eq (by simp; omega)
  have f8 : num 9 w 0 = 0 := by simp only [num]; omega
  have f9 : num 10 w 0 = 0 := by simp only [num]; omega
  have f10 : num 6 w 21 = 14 := by simp only [num]; omega
  simp [readBack, decodeS, accept, hwf, immOf, immZ, Imm.extNat, noOff, Except.toOption, f0, f1, f2, f3, f4, f5, f6, f7, f8, f9, f10]

theorem RoundTrip.clzImm (g : BitVec 5) (d : BitVec 5) (i : Imm 9) : RoundTrip.Statement (.clzImm g d i) := by
  cases i with
  | short v =>
    have b0 := g.isLt
    have b2 := d.isLt
    have b4 := v.isLt
    obtain ⟨w, hw⟩ : ∃ w, w = encSI 0x0e g d 0 (Imm.short v) := ⟨_, rfl⟩
    refine .of (n := 32) (w := w) (k := 0) (e := BitVec.ofNat 32 0) (by rw [hw]; rfl) rfl rfl fun hwf hp => ?_
    try simp only [encSR, encSI, encSHead, encFn, encVR, encVM, encVI, encVA, encVHead, encMHead, encCHead, encCI, encCE, encKR, xShort, xExt, nShort, nExt, zero5, Bool.toNat_false] at hw
    refine ⟨by omega, ?_⟩
    have f0 : fld 5 w 27 = g := fld_eq (by omega)
    have f1 : fld 5 w 16 = d := fld_eq (by omega)
    have f2 : fld 5 w 11 = 0 := fld_eq (by simp; omega)
    have f3 : flg w 10 = true := flg_eq (by simp; omega)
    have f4 : flg w 9 = false := flg_eq (by simp; omega)
    have f5 : num 9 w 0 = v.toNat := by simp only [num]; omega
    have f6 : num 10 w 0 = v.toNat := by simp only [num]; omega
    have f7 : num 6 w 21 = 14 := by simp only [num]; omega
    simp [readBack, decodeS, accept, hwf, immOf, immZ, Imm.extNat, noOff, Except.toOption, f0, f1, f2, f3, f4, f5, f6, f7]
  | ext v =>
    have b0 := g.isLt
    have b2 := d.isLt
    obtain ⟨w, hw⟩ : ∃ w, w = encSI 0x0e g d 0 (Imm.ext v : Imm 9) := ⟨_, rfl⟩
    refine .of (n := 32) (w := w) (k := 0) (e := BitVec.ofNat 32 v.toNat) (by rw [hw]; rfl) rfl rfl fun hwf hp => ?_
    try simp only [encSR, encSI, encSHead, encFn, encVR, encVM, encVI, encVA, encVHead, encMHead, encCHead, encCI, encCE, encKR, xShort, xExt, nShort, nExt, zero5, Bool.toNat_false] at hw
    refine ⟨by omega, ?_⟩
    have f0 : fld 5 w 27 = g := fld_eq (by omega)
    have f1 : fld 5 w 16 = d := fld_eq (by omega)
    have f2 : fld 5 w 11 = 0 := fld_eq (by simp; omega)
    have f3 : fld 5 w 5 = 16 := fld_eq (by simp; omega)
    have f4 : flg w 1 = false := flg_eq (by simp; omega)
    have f5 : flg w 0 = false := flg_eq (by simp; omega)
    have f6 : flg w 10 = true := flg_eq (by simp; omega)
    have f7 : flg w 9 = true := flg_eq (by simp; omega)
    have f8 : num 9 w 0 = 0 := by simp only [num]; omega
    have f9 : num 10 w 0 = 512 := by simp only [num]; omega
    have f10 : num 6 w 21 = 14 := by simp only [num]; omega
    simp [readBack, decodeS, accept, hwf, immOf, immZ, Imm.extNat, noOff, Except.toOption, f0, f1, f2, f3, f4, f5, f6, f7, f8, f9, f10]

theorem RoundTrip.popcReg (g : BitVec 5) (d : BitVec 5) (a : BitVec 5) : RoundTrip.Statement (.popcReg g d a) := by
  have b0 := g.isLt
  have b2 := d.isLt
  have b3 := a.isLt
  obtain ⟨w, hw⟩ : ∃ w, w = encSR 0x0f g d a 0 0 := ⟨_, rfl⟩
  refine .of (n := 32) (w := w) (k := 0) (e := 0) (by rw [hw]; rfl) rfl rfl fun hwf hp => ?_
  try simp only [encSR, encSI, encSHead, encFn, encVR, encVM, encVI, encVA, encVHead, encMHead, encCHead, encCI, encCE, encKR, xShort, xExt, nShort, nExt, zero5, Bool.toNat_false] at hw
  refine ⟨by omega, ?_⟩
  have f0 : fld 5 w 27 = g := fld_eq (by omega)
  have f1 : fld 5 w 16 = d := fld_eq (by omega)
  have f2 : fld 5 w 11 = a := fld_eq (by omega)
  have f3 : fld 5 w 5 = 0 := fld_eq (by simp; omega)
  have f4 : flg w 1 = false := flg_eq (by simp; omega)
  have f5 : flg w 0 = false := flg_eq (by simp; omega)
  have f6 : flg w 10 = false := flg_eq (by simp; omega)
  have f7 : flg w 9 = false := flg_eq (by simp; omega)
  have f8 : num 9 w 0 = 0 := by simp only [num]; omega
  have f9 : num 10 w 0 = 0 := by simp only [num]; omega
  have f10 : num 6 w 21 = 15 := by simp only [num]; omega
  simp [readBack, decodeS, accept, hwf, immOf, immZ, Imm.extNat, noOff, Except.toOption, f0, f1, f2, f3, f4, f5, f6, f7, f8, f9, f10]

theorem RoundTrip.popcImm (g : BitVec 5) (d : BitVec 5) (i : Imm 9) : RoundTrip.Statement (.popcImm g d i) := by
  cases i with
  | short v =>
    have b0 := g.isLt
    have b2 := d.isLt
    have b4 := v.isLt
    obtain ⟨w, hw⟩ : ∃ w, w = encSI 0x0f g d 0 (Imm.short v) := ⟨_, rfl⟩
    refine .of (n := 32) (w := w) (k := 0) (e := BitVec.ofNat 32 0) (by rw [hw]; rfl) rfl rfl fun hwf hp => ?_
    try simp only [encSR, encSI, encSHead, encFn, encVR, encVM, encVI, encVA, encVHead, encMHead, encCHead, encCI, encCE, encKR, xShort, xExt, nShort, nExt, zero5, Bool.toNat_false] at hw
    refine ⟨by omega, ?_⟩
    have f0 : fld 5 w 27 = g := fld_eq (by omega)
    have f1 : fld 5 w 16 = d := fld_eq (by omega)
    have f2 : fld 5 w 11 = 0 := fld_eq (by simp; omega)
    have f3 : flg w 10 = true := flg_eq (by simp; omega)
    have f4 : flg w 9 = false := flg_eq (by simp; omega)
    have f5 : num 9 w 0 = v.toNat := by simp only [num]; omega
    have f6 : num 10 w 0 = v.toNat := by simp only [num]; omega
    have f7 : num 6 w 21 = 15 := by simp only [num]; omega
    simp [readBack, decodeS, accept, hwf, immOf, immZ, Imm.extNat, noOff, Except.toOption, f0, f1, f2, f3, f4, f5, f6, f7]
  | ext v =>
    have b0 := g.isLt
    have b2 := d.isLt
    obtain ⟨w, hw⟩ : ∃ w, w = encSI 0x0f g d 0 (Imm.ext v : Imm 9) := ⟨_, rfl⟩
    refine .of (n := 32) (w := w) (k := 0) (e := BitVec.ofNat 32 v.toNat) (by rw [hw]; rfl) rfl rfl fun hwf hp => ?_
    try simp only [encSR, encSI, encSHead, encFn, encVR, encVM, encVI, encVA, encVHead, encMHead, encCHead, encCI, encCE, encKR, xShort, xExt, nShort, nExt, zero5, Bool.toNat_false] at hw
    refine ⟨by omega, ?_⟩
    have f0 : fld 5 w 27 = g := fld_eq (by omega)
    have f1 : fld 5 w 16 = d := fld_eq (by omega)
    have f2 : fld 5 w 11 = 0 := fld_eq (by simp; omega)
    have f3 : fld 5 w 5 = 16 := fld_eq (by simp; omega)
    have f4 : flg w 1 = false := flg_eq (by simp; omega)
    have f5 : flg w 0 = false := flg_eq (by simp; omega)
    have f6 : flg w 10 = true := flg_eq (by simp; omega)
    have f7 : flg w 9 = true := flg_eq (by simp; omega)
    have f8 : num 9 w 0 = 0 := by simp only [num]; omega
    have f9 : num 10 w 0 = 512 := by simp only [num]; omega
    have f10 : num 6 w 21 = 15 := by simp only [num]; omega
    simp [readBack, decodeS, accept, hwf, immOf, immZ, Imm.extNat, noOff, Except.toOption, f0, f1, f2, f3, f4, f5, f6, f7, f8, f9, f10]

theorem RoundTrip.minReg (g : BitVec 5) (d : BitVec 5) (a : BitVec 5) (b : BitVec 5) (u : Bool) : RoundTrip.Statement (.minReg g d a b u) := by
  obtain ⟨w, hw⟩ : ∃ w, w = encSR 0x10 g d a b (encFn u false) := ⟨_, rfl⟩
  refine .of (n := 32) (w := w) (k := 0) (e := 0) (by rw [hw]; rfl) rfl rfl fun hwf hp => ?_
  obtain ⟨lt, f0, f1, f2, f3, f4, f5, f6, f7, f8⟩ := srU (by decide) hw
  refine ⟨lt, ?_⟩
  simp [readBack, decodeS, accept, hwf, immOf, immZ, Imm.extNat, noOff, Except.toOption, f0, f1, f2, f3, f4, f5, f6, f7, f8]

theorem RoundTrip.minImm (g : BitVec 5) (d : BitVec 5) (a : BitVec 5) (i : Imm 9) : RoundTrip.Statement (.minImm g d a i) := by
  cases i with
  | short v =>
    obtain ⟨w, hw⟩ : ∃ w, w = encSI 0x10 g d a (Imm.short v) := ⟨_, rfl⟩
    refine .of (n := 32) (w := w) (k := 0) (e := BitVec.ofNat 32 0) (by rw [hw]; rfl) rfl rfl fun hwf hp => ?_
    obtain ⟨lt, f0, f1, f2, f3, f4, f5, f6⟩ := siShort (by decide) hw
    refine ⟨lt, ?_⟩
    simp [readBack, decodeS, accept, hwf, immOf, immZ, Imm.extNat, noOff, Except.toOption, f0, f1, f2, f3, f4, f5, f6]
  | ext v =>
    obtain ⟨w, hw⟩ : ∃ w, w = encSI 0x10 g d a (Imm.ext v : Imm 9) := ⟨_, rfl⟩
    refine .of (n := 32) (w := w) (k := 0) (e := BitVec.ofNat 32 v.toNat) (by rw [hw]; rfl) rfl rfl fun hwf hp => ?_
    obtain ⟨lt, f0, f1, f2, f3, f4, f5, f6⟩ := siExt (by decide) hw
    refine ⟨lt, ?_⟩
    simp [readBack, decodeS, accept, hwf, immOf, immZ, Imm.extNat, noOff, Except.toOption, f0, f1, f2, f3, f4, f5, f6]

theorem RoundTrip.maxReg (g : BitVec 5) (d : BitVec 5) (a : BitVec 5) (b : BitVec 5) (u : Bool) : RoundTrip.Statement (.maxReg g d a b u) := by
  obtain ⟨w, hw⟩ : ∃ w, w = encSR 0x11 g d a b (encFn u false) := ⟨_, rfl⟩
  refine .of (n := 32) (w := w) (k := 0) (e := 0) (by rw [hw]; rfl) rfl rfl fun hwf hp => ?_
  obtain ⟨lt, f0, f1, f2, f3, f4, f5, f6, f7, f8⟩ := srU (by decide) hw
  refine ⟨lt, ?_⟩
  simp [readBack, decodeS, accept, hwf, immOf, immZ, Imm.extNat, noOff, Except.toOption, f0, f1, f2, f3, f4, f5, f6, f7, f8]

theorem RoundTrip.maxImm (g : BitVec 5) (d : BitVec 5) (a : BitVec 5) (i : Imm 9) : RoundTrip.Statement (.maxImm g d a i) := by
  cases i with
  | short v =>
    obtain ⟨w, hw⟩ : ∃ w, w = encSI 0x11 g d a (Imm.short v) := ⟨_, rfl⟩
    refine .of (n := 32) (w := w) (k := 0) (e := BitVec.ofNat 32 0) (by rw [hw]; rfl) rfl rfl fun hwf hp => ?_
    obtain ⟨lt, f0, f1, f2, f3, f4, f5, f6⟩ := siShort (by decide) hw
    refine ⟨lt, ?_⟩
    simp [readBack, decodeS, accept, hwf, immOf, immZ, Imm.extNat, noOff, Except.toOption, f0, f1, f2, f3, f4, f5, f6]
  | ext v =>
    obtain ⟨w, hw⟩ : ∃ w, w = encSI 0x11 g d a (Imm.ext v : Imm 9) := ⟨_, rfl⟩
    refine .of (n := 32) (w := w) (k := 0) (e := BitVec.ofNat 32 v.toNat) (by rw [hw]; rfl) rfl rfl fun hwf hp => ?_
    obtain ⟨lt, f0, f1, f2, f3, f4, f5, f6⟩ := siExt (by decide) hw
    refine ⟨lt, ?_⟩
    simp [readBack, decodeS, accept, hwf, immOf, immZ, Imm.extNat, noOff, Except.toOption, f0, f1, f2, f3, f4, f5, f6]

theorem RoundTrip.sel (g : BitVec 5) (d : BitVec 5) (a : BitVec 5) (b : BitVec 5) (p : BitVec 4) : RoundTrip.Statement (.sel g d a b p) := by
  have b0 := g.isLt
  have b2 := d.isLt
  have b3 := a.isLt
  have b4 := b.isLt
  have b5 := p.isLt
  obtain ⟨w, hw⟩ : ∃ w, w = encSR 0x12 g d a b p.toNat := ⟨_, rfl⟩
  refine .of (n := 32) (w := w) (k := 0) (e := 0) (by rw [hw]; rfl) rfl rfl fun hwf hp => ?_
  try simp only [encSR, encSI, encSHead, encFn, encVR, encVM, encVI, encVA, encVHead, encMHead, encCHead, encCI, encCE, encKR, xShort, xExt, nShort, nExt, zero5, Bool.toNat_false] at hw
  refine ⟨by omega, ?_⟩
  have f0 : fld 5 w 27 = g := fld_eq (by omega)
  have f1 : fld 5 w 16 = d := fld_eq (by omega)
  have f2 : fld 5 w 11 = a := fld_eq (by omega)
  have f3 : fld 5 w 5 = b := fld_eq (by omega)
  have f4 : flg w 10 = false := flg_eq (by simp; omega)
  have f5 : flg w 4 = false := flg_eq (by simp; omega)
  have f6 : fld 4 w 0 = p := fld_eq (by omega)
  have f7 : num 6 w 21 = 18 := by simp only [num]; omega
  simp [readBack, decodeS, accept, hwf, immOf, immZ, Imm.extNat, noOff, Except.toOption, f0, f1, f2, f3, f4, f5, f6, f7]

theorem RoundTrip.li (g : BitVec 5) (d : BitVec 5) (i : Imm 15) : RoundTrip.Statement (.li g d i) := by
  cases i with
  | short v =>
    have b0 := g.isLt
    have b2 := d.isLt
    have b3 := v.isLt
    obtain ⟨w, hw⟩ : ∃ w, w = encSHead g 0x13 + d.toNat * 2 ^ 16 + (Imm.short v).x * 2 ^ 15 + (Imm.short v).shortNat := ⟨_, rfl⟩
    refine .of (n := 32) (w := w) (k := 0) (e := BitVec.ofNat 32 0) (by rw [hw]; rfl) rfl rfl fun hwf hp => ?_
    try simp only [encSR, encSI, encSHead, encFn, encVR, encVM, encVI, encVA, encVHead, encMHead, encCHead, encCI, encCE, encKR, xShort, xExt, nShort, nExt, zero5, Bool.toNat_false] at hw
    refine ⟨by omega, ?_⟩
    have f0 : fld 5 w 27 = g := fld_eq (by omega)
    have f1 : fld 5 w 16 = d := fld_eq (by omega)
    have f2 : flg w 15 = false := flg_eq (by simp; omega)
    have f3 : num 15 w 0 = v.toNat := by simp only [num]; omega
    have f4 : num 6 w 21 = 19 := by simp only [num]; omega
    simp [readBack, decodeS, accept, hwf, immOf, immZ, Imm.extNat, noOff, Except.toOption, f0, f1, f2, f3, f4]
  | ext v =>
    have b0 := g.isLt
    have b2 := d.isLt
    obtain ⟨w, hw⟩ : ∃ w, w = encSHead g 0x13 + d.toNat * 2 ^ 16 + (Imm.ext v : Imm 15).x * 2 ^ 15 + (Imm.ext v : Imm 15).shortNat := ⟨_, rfl⟩
    refine .of (n := 32) (w := w) (k := 0) (e := BitVec.ofNat 32 v.toNat) (by rw [hw]; rfl) rfl rfl fun hwf hp => ?_
    try simp only [encSR, encSI, encSHead, encFn, encVR, encVM, encVI, encVA, encVHead, encMHead, encCHead, encCI, encCE, encKR, xShort, xExt, nShort, nExt, zero5, Bool.toNat_false] at hw
    refine ⟨by omega, ?_⟩
    have f0 : fld 5 w 27 = g := fld_eq (by omega)
    have f1 : fld 5 w 16 = d := fld_eq (by omega)
    have f2 : fld 5 w 11 = 16 := fld_eq (by simp; omega)
    have f3 : fld 5 w 5 = 0 := fld_eq (by simp; omega)
    have f4 : flg w 1 = false := flg_eq (by simp; omega)
    have f5 : flg w 0 = false := flg_eq (by simp; omega)
    have f6 : flg w 10 = false := flg_eq (by simp; omega)
    have f7 : flg w 9 = false := flg_eq (by simp; omega)
    have f8 : num 9 w 0 = 0 := by simp only [num]; omega
    have f9 : flg w 15 = true := flg_eq (by simp; omega)
    have f10 : num 15 w 0 = 0 := by simp only [num]; omega
    have f11 : num 6 w 21 = 19 := by simp only [num]; omega
    simp [readBack, decodeS, accept, hwf, immOf, immZ, Imm.extNat, noOff, Except.toOption, f0, f1, f2, f3, f4, f5, f6, f7, f8, f9, f10, f11]

theorem RoundTrip.lih (g : BitVec 5) (d : BitVec 5) (i : Imm 15) : RoundTrip.Statement (.lih g d i) := by
  cases i with
  | short v =>
    have b0 := g.isLt
    have b2 := d.isLt
    have b3 := v.isLt
    obtain ⟨w, hw⟩ : ∃ w, w = encSHead g 0x14 + d.toNat * 2 ^ 16 + (Imm.short v).x * 2 ^ 15 + (Imm.short v).shortNat := ⟨_, rfl⟩
    refine .of (n := 32) (w := w) (k := 0) (e := BitVec.ofNat 32 0) (by rw [hw]; rfl) rfl rfl fun hwf hp => ?_
    try simp only [encSR, encSI, encSHead, encFn, encVR, encVM, encVI, encVA, encVHead, encMHead, encCHead, encCI, encCE, encKR, xShort, xExt, nShort, nExt, zero5, Bool.toNat_false] at hw
    refine ⟨by omega, ?_⟩
    have f0 : fld 5 w 27 = g := fld_eq (by omega)
    have f1 : fld 5 w 16 = d := fld_eq (by omega)
    have f2 : flg w 15 = false := flg_eq (by simp; omega)
    have f3 : num 15 w 0 = v.toNat := by simp only [num]; omega
    have f4 : num 6 w 21 = 20 := by simp only [num]; omega
    simp [readBack, decodeS, accept, hwf, immOf, immZ, Imm.extNat, noOff, Except.toOption, f0, f1, f2, f3, f4]
  | ext v =>
    have b0 := g.isLt
    have b2 := d.isLt
    obtain ⟨w, hw⟩ : ∃ w, w = encSHead g 0x14 + d.toNat * 2 ^ 16 + (Imm.ext v : Imm 15).x * 2 ^ 15 + (Imm.ext v : Imm 15).shortNat := ⟨_, rfl⟩
    refine .of (n := 32) (w := w) (k := 0) (e := BitVec.ofNat 32 v.toNat) (by rw [hw]; rfl) rfl rfl fun hwf hp => ?_
    try simp only [encSR, encSI, encSHead, encFn, encVR, encVM, encVI, encVA, encVHead, encMHead, encCHead, encCI, encCE, encKR, xShort, xExt, nShort, nExt, zero5, Bool.toNat_false] at hw
    refine ⟨by omega, ?_⟩
    have f0 : fld 5 w 27 = g := fld_eq (by omega)
    have f1 : fld 5 w 16 = d := fld_eq (by omega)
    have f2 : fld 5 w 11 = 16 := fld_eq (by simp; omega)
    have f3 : fld 5 w 5 = 0 := fld_eq (by simp; omega)
    have f4 : flg w 1 = false := flg_eq (by simp; omega)
    have f5 : flg w 0 = false := flg_eq (by simp; omega)
    have f6 : flg w 10 = false := flg_eq (by simp; omega)
    have f7 : flg w 9 = false := flg_eq (by simp; omega)
    have f8 : num 9 w 0 = 0 := by simp only [num]; omega
    have f9 : flg w 15 = true := flg_eq (by simp; omega)
    have f10 : num 15 w 0 = 0 := by simp only [num]; omega
    have f11 : num 6 w 21 = 20 := by simp only [num]; omega
    simp [readBack, decodeS, accept, hwf, immOf, immZ, Imm.extNat, noOff, Except.toOption, f0, f1, f2, f3, f4, f5, f6, f7, f8, f9, f10, f11]

theorem RoundTrip.cmp (g : BitVec 5) (pd : BitVec 4) (pe : BitVec 4) (a : BitVec 5) (b : BitVec 5) (cc : BitVec 3) : RoundTrip.Statement (.cmp g pd pe a b cc) := by
  have b0 := g.isLt
  have b2 := pd.isLt
  have b3 := pe.isLt
  have b4 := a.isLt
  have b5 := cc.isLt
  have b6 := b.isLt
  obtain ⟨w, hw⟩ : ∃ w, w = encSHead g 0x15 + pd.toNat * 2 ^ 17 + pe.toNat * 2 ^ 13 + a.toNat * 2 ^ 8 + cc.toNat * 2 ^ 5 + b.toNat := ⟨_, rfl⟩
  refine .of (n := 32) (w := w) (k := 0) (e := 0) (by rw [hw]; rfl) rfl rfl fun hwf hp => ?_
  try simp only [encSR, encSI, encSHead, encFn, encVR, encVM, encVI, encVA, encVHead, encMHead, encCHead, encCI, encCE, encKR, xShort, xExt, nShort, nExt, zero5, Bool.toNat_false] at hw
  refine ⟨by omega, ?_⟩
  have f0 : fld 5 w 27 = g := fld_eq (by omega)
  have f1 : fld 4 w 17 = pd := fld_eq (by omega)
  have f2 : fld 4 w 13 = pe := fld_eq (by omega)
  have f3 : fld 5 w 8 = a := fld_eq (by omega)
  have f4 : fld 5 w 0 = b := fld_eq (by omega)
  have f5 : fld 3 w 5 = cc := fld_eq (by omega)
  have f6 : num 6 w 21 = 21 := by simp only [num]; omega
  simp [readBack, decodeS, accept, hwf, immOf, immZ, Imm.extNat, noOff, Except.toOption, f0, f1, f2, f3, f4, f5, f6]

theorem RoundTrip.cmpi (g : BitVec 5) (pd : BitVec 4) (pe : BitVec 4) (a : BitVec 5) (cc : BitVec 3) (i : Imm 4) : RoundTrip.Statement (.cmpi g pd pe a cc i) := by
  cases i with
  | short v =>
    have b0 := g.isLt
    have b2 := pd.isLt
    have b3 := pe.isLt
    have b4 := a.isLt
    have b5 := cc.isLt
    have b6 := v.isLt
    obtain ⟨w, hw⟩ : ∃ w, w = encSHead g 0x16 + pd.toNat * 2 ^ 17 + pe.toNat * 2 ^ 13 + a.toNat * 2 ^ 8 + cc.toNat * 2 ^ 5 + (Imm.short v).x * 2 ^ 4 + (Imm.short v).shortNat := ⟨_, rfl⟩
    refine .of (n := 32) (w := w) (k := 0) (e := BitVec.ofNat 32 0) (by rw [hw]; rfl) rfl rfl fun hwf hp => ?_
    try simp only [encSR, encSI, encSHead, encFn, encVR, encVM, encVI, encVA, encVHead, encMHead, encCHead, encCI, encCE, encKR, xShort, xExt, nShort, nExt, zero5, Bool.toNat_false] at hw
    refine ⟨by omega, ?_⟩
    have f0 : fld 5 w 27 = g := fld_eq (by omega)
    have f1 : flg w 4 = false := flg_eq (by simp; omega)
    have f2 : num 4 w 0 = v.toNat := by simp only [num]; omega
    have f3 : fld 4 w 17 = pd := fld_eq (by omega)
    have f4 : fld 4 w 13 = pe := fld_eq (by omega)
    have f5 : fld 5 w 8 = a := fld_eq (by omega)
    have f6 : fld 3 w 5 = cc := fld_eq (by omega)
    have f7 : num 6 w 21 = 22 := by simp only [num]; omega
    simp [readBack, decodeS, accept, hwf, immOf, immZ, Imm.extNat, noOff, Except.toOption, f0, f1, f2, f3, f4, f5, f6, f7]
  | ext v =>
    have b0 := g.isLt
    have b2 := pd.isLt
    have b3 := pe.isLt
    have b4 := a.isLt
    have b5 := cc.isLt
    obtain ⟨w, hw⟩ : ∃ w, w = encSHead g 0x16 + pd.toNat * 2 ^ 17 + pe.toNat * 2 ^ 13 + a.toNat * 2 ^ 8 + cc.toNat * 2 ^ 5 + (Imm.ext v : Imm 4).x * 2 ^ 4 + (Imm.ext v : Imm 4).shortNat := ⟨_, rfl⟩
    refine .of (n := 32) (w := w) (k := 0) (e := BitVec.ofNat 32 v.toNat) (by rw [hw]; rfl) rfl rfl fun hwf hp => ?_
    try simp only [encSR, encSI, encSHead, encFn, encVR, encVM, encVI, encVA, encVHead, encMHead, encCHead, encCI, encCE, encKR, xShort, xExt, nShort, nExt, zero5, Bool.toNat_false] at hw
    refine ⟨by omega, ?_⟩
    have f0 : fld 5 w 27 = g := fld_eq (by omega)
    have f1 : flg w 1 = false := flg_eq (by simp; omega)
    have f2 : flg w 0 = false := flg_eq (by simp; omega)
    have f3 : flg w 4 = true := flg_eq (by simp; omega)
    have f4 : num 4 w 0 = 0 := by simp only [num]; omega
    have f5 : fld 4 w 17 = pd := fld_eq (by omega)
    have f6 : fld 4 w 13 = pe := fld_eq (by omega)
    have f7 : fld 5 w 8 = a := fld_eq (by omega)
    have f8 : fld 3 w 5 = cc := fld_eq (by omega)
    have f9 : num 6 w 21 = 22 := by simp only [num]; omega
    simp [readBack, decodeS, accept, hwf, immOf, immZ, Imm.extNat, noOff, Except.toOption, f0, f1, f2, f3, f4, f5, f6, f7, f8, f9]

theorem RoundTrip.plog (g : BitVec 5) (pd : BitVec 4) (pa : BitVec 4) (pb : BitVec 4) (tt : BitVec 4) : RoundTrip.Statement (.plog g pd pa pb tt) := by
  have b0 := g.isLt
  have b2 := pd.isLt
  have b3 := pa.isLt
  have b4 := pb.isLt
  have b5 := tt.isLt
  obtain ⟨w, hw⟩ : ∃ w, w = encSHead g 0x17 + pd.toNat * 2 ^ 17 + pa.toNat * 2 ^ 13 + pb.toNat * 2 ^ 9 + tt.toNat * 2 ^ 5 := ⟨_, rfl⟩
  refine .of (n := 32) (w := w) (k := 0) (e := 0) (by rw [hw]; rfl) rfl rfl fun hwf hp => ?_
  try simp only [encSR, encSI, encSHead, encFn, encVR, encVM, encVI, encVA, encVHead, encMHead, encCHead, encCI, encCE, encKR, xShort, xExt, nShort, nExt, zero5, Bool.toNat_false] at hw
  refine ⟨by omega, ?_⟩
  have f0 : fld 5 w 27 = g := fld_eq (by omega)
  have f1 : flg w 1 = false := flg_eq (by simp; omega)
  have f2 : flg w 0 = false := flg_eq (by simp; omega)
  have f3 : num 5 w 0 = 0 := by simp only [num]; omega
  have f4 : fld 4 w 17 = pd := fld_eq (by omega)
  have f5 : fld 4 w 13 = pa := fld_eq (by omega)
  have f6 : fld 4 w 9 = pb := fld_eq (by omega)
  have f7 : fld 4 w 5 = tt := fld_eq (by omega)
  have f8 : num 6 w 21 = 23 := by simp only [num]; omega
  simp [readBack, decodeS, accept, hwf, immOf, immZ, Imm.extNat, noOff, Except.toOption, f0, f1, f2, f3, f4, f5, f6, f7, f8]

theorem RoundTrip.lds (g : BitVec 5) (d : BitVec 5) (a : BitVec 5) (e : BitVec 2) (u : Bool) (o : BitVec 8) : RoundTrip.Statement (.lds g d a e u o) := by
  have b0 := g.isLt
  have b2 := d.isLt
  have b3 := a.isLt
  have b4 := e.isLt
  have b5 := Bool.toNat_le u
  have b6 := o.isLt
  obtain ⟨w, hw⟩ : ∃ w, w = encSHead g 0x18 + d.toNat * 2 ^ 16 + a.toNat * 2 ^ 11 + e.toNat * 2 ^ 9 + u.toNat * 2 ^ 8 + o.toNat := ⟨_, rfl⟩
  refine .of (n := 32) (w := w) (k := 0) (e := 0) (by rw [hw]; rfl) rfl rfl fun hwf hp => ?_
  try simp only [encSR, encSI, encSHead, encFn, encVR, encVM, encVI, encVA, encVHead, encMHead, encCHead, encCI, encCE, encKR, xShort, xExt, nShort, nExt, zero5, Bool.toNat_false] at hw
  refine ⟨by omega, ?_⟩
  have f0 : fld 5 w 27 = g := fld_eq (by omega)
  have f1 : fld 5 w 16 = d := fld_eq (by omega)
  have f2 : fld 5 w 11 = a := fld_eq (by omega)
  have f3 : fld 2 w 9 = e := fld_eq (by omega)
  have f4 : flg w 8 = u := flg_eq (by omega)
  have f5 : fld 8 w 0 = o := fld_eq (by omega)
  have f6 : num 6 w 21 = 24 := by simp only [num]; omega
  simp [readBack, decodeS, accept, hwf, immOf, immZ, Imm.extNat, noOff, Except.toOption, f0, f1, f2, f3, f4, f5, f6]

theorem RoundTrip.sts (g : BitVec 5) (d : BitVec 5) (a : BitVec 5) (e : BitVec 2) (o : BitVec 8) : RoundTrip.Statement (.sts g d a e o) := by
  have b0 := g.isLt
  have b2 := d.isLt
  have b3 := a.isLt
  have b4 := e.isLt
  have b5 := o.isLt
  obtain ⟨w, hw⟩ : ∃ w, w = encSHead g 0x19 + d.toNat * 2 ^ 16 + a.toNat * 2 ^ 11 + e.toNat * 2 ^ 9 + o.toNat := ⟨_, rfl⟩
  refine .of (n := 32) (w := w) (k := 0) (e := 0) (by rw [hw]; rfl) rfl rfl fun hwf hp => ?_
  try simp only [encSR, encSI, encSHead, encFn, encVR, encVM, encVI, encVA, encVHead, encMHead, encCHead, encCI, encCE, encKR, xShort, xExt, nShort, nExt, zero5, Bool.toNat_false] at hw
  refine ⟨by omega, ?_⟩
  have f0 : fld 5 w 27 = g := fld_eq (by omega)
  have f1 : fld 5 w 16 = d := fld_eq (by omega)
  have f2 : fld 5 w 11 = a := fld_eq (by omega)
  have f3 : num 9 w 0 = o.toNat := by simp only [num]; omega
  have f4 : flg w 8 = false := flg_eq (by simp; omega)
  have f5 : fld 2 w 9 = e := fld_eq (by omega)
  have f6 : fld 8 w 0 = o := fld_eq (by omega)
  have f7 : num 6 w 21 = 25 := by simp only [num]; omega
  simp [readBack, decodeS, accept, hwf, immOf, immZ, Imm.extNat, noOff, Except.toOption, f0, f1, f2, f3, f4, f5, f6, f7]

theorem RoundTrip.xcpS (g : BitVec 5) (f : BitVec 3) (r : BitVec 9) (a : BitVec 5) : RoundTrip.Statement (.xcpS g f r a) := by
  have b0 := g.isLt
  have b2 := f.isLt
  have b3 := r.isLt
  have b4 := a.isLt
  obtain ⟨w, hw⟩ : ∃ w, w = encSHead g 0x1A + f.toNat * 2 ^ 18 + r.toNat * 2 ^ 9 + a.toNat * 2 ^ 4 := ⟨_, rfl⟩
  refine .of (n := 32) (w := w) (k := 0) (e := 0) (by rw [hw]; rfl) rfl rfl fun hwf hp => ?_
  try simp only [encSR, encSI, encSHead, encFn, encVR, encVM, encVI, encVA, encVHead, encMHead, encCHead, encCI, encCE, encKR, xShort, xExt, nShort, nExt, zero5, Bool.toNat_false] at hw
  refine ⟨by omega, ?_⟩
  have f0 : fld 5 w 27 = g := fld_eq (by omega)
  have f1 : flg w 1 = false := flg_eq (by simp; omega)
  have f2 : flg w 0 = false := flg_eq (by simp; omega)
  have f3 : num 4 w 0 = 0 := by simp only [num]; omega
  have f4 : fld 3 w 18 = f := fld_eq (by omega)
  have f5 : fld 9 w 9 = r := fld_eq (by omega)
  have f6 : fld 5 w 4 = a := fld_eq (by omega)
  have f7 : num 6 w 21 = 26 := by simp only [num]; omega
  simp [readBack, decodeS, accept, hwf, immOf, immZ, Imm.extNat, noOff, Except.toOption, f0, f1, f2, f3, f4, f5, f6, f7]

theorem RoundTrip.crd (g : BitVec 5) (r : BitVec 5) (n : BitVec 12) : RoundTrip.Statement (.crd g r n) := by
  have b0 := g.isLt
  have b2 := r.isLt
  have b3 := n.isLt
  obtain ⟨w, hw⟩ : ∃ w, w = encSHead g 0x1B + r.toNat * 2 ^ 16 + n.toNat := ⟨_, rfl⟩
  refine .of (n := 32) (w := w) (k := 0) (e := 0) (by rw [hw]; rfl) rfl rfl fun hwf hp => ?_
  try simp only [encSR, encSI, encSHead, encFn, encVR, encVM, encVI, encVA, encVHead, encMHead, encCHead, encCI, encCE, encKR, xShort, xExt, nShort, nExt, zero5, Bool.toNat_false] at hw
  refine ⟨by omega, ?_⟩
  have f0 : fld 5 w 27 = g := fld_eq (by omega)
  have f1 : fld 5 w 16 = r := fld_eq (by omega)
  have f2 : num 4 w 12 = 0 := by simp only [num]; omega
  have f3 : fld 12 w 0 = n := fld_eq (by omega)
  have f4 : num 6 w 21 = 27 := by simp only [num]; omega
  simp [readBack, decodeS, accept, hwf, immOf, immZ, Imm.extNat, noOff, Except.toOption, f0, f1, f2, f3, f4]

theorem RoundTrip.cwr (g : BitVec 5) (r : BitVec 5) (n : BitVec 12) : RoundTrip.Statement (.cwr g r n) := by
  have b0 := g.isLt
  have b2 := r.isLt
  have b3 := n.isLt
  obtain ⟨w, hw⟩ : ∃ w, w = encSHead g 0x1C + r.toNat * 2 ^ 16 + n.toNat := ⟨_, rfl⟩
  refine .of (n := 32) (w := w) (k := 0) (e := 0) (by rw [hw]; rfl) rfl rfl fun hwf hp => ?_
  try simp only [encSR, encSI, encSHead, encFn, encVR, encVM, encVI, encVA, encVHead, encMHead, encCHead, encCI, encCE, encKR, xShort, xExt, nShort, nExt, zero5, Bool.toNat_false] at hw
  refine ⟨by omega, ?_⟩
  have f0 : fld 5 w 27 = g := fld_eq (by omega)
  have f1 : fld 5 w 16 = r := fld_eq (by omega)
  have f2 : num 4 w 12 = 0 := by simp only [num]; omega
  have f3 : fld 12 w 0 = n := fld_eq (by omega)
  have f4 : num 6 w 21 = 28 := by simp only [num]; omega
  simp [readBack, decodeS, accept, hwf, immOf, immZ, Imm.extNat, noOff, Except.toOption, f0, f1, f2, f3, f4]

theorem RoundTrip.cyc (g : BitVec 5) (d : BitVec 5) (t : Bool) : RoundTrip.Statement (.cyc g d t) := by
  have b0 := g.isLt
  have b2 := d.isLt
  have b3 := Bool.toNat_le t
  obtain ⟨w, hw⟩ : ∃ w, w = encSHead g 0x1D + d.toNat * 2 ^ 16 + t.toNat := ⟨_, rfl⟩
  refine .of (n := 32) (w := w) (k := 0) (e := 0) (by rw [hw]; rfl) rfl rfl fun hwf hp => ?_
  try simp only [encSR, encSI, encSHead, encFn, encVR, encVM, encVI, encVA, encVHead, encMHead, encCHead, encCI, encCE, encKR, xShort, xExt, nShort, nExt, zero5, Bool.toNat_false] at hw
  refine ⟨by omega, ?_⟩
  have f0 : fld 5 w 27 = g := fld_eq (by omega)
  have f1 : fld 5 w 16 = d := fld_eq (by omega)
  have f2 : fld 5 w 11 = 0 := fld_eq (by simp; omega)
  have f3 : fld 5 w 5 = 0 := fld_eq (by simp; omega)
  have f4 : flg w 1 = false := flg_eq (by simp; omega)
  have f5 : flg w 0 = t := flg_eq (by omega)
  have f6 : flg w 10 = false := flg_eq (by simp; omega)
  have f7 : flg w 9 = false := flg_eq (by simp; omega)
  have f8 : num 9 w 0 = t.toNat := by simp only [num]; omega
  have f9 : num 15 w 1 = 0 := by simp only [num]; omega
  have f10 : num 6 w 21 = 29 := by simp only [num]; omega
  simp [readBack, decodeS, accept, hwf, immOf, immZ, Imm.extNat, noOff, Except.toOption, f0, f1, f2, f3, f4, f5, f6, f7, f8, f9, f10]

theorem RoundTrip.cmptS (g : BitVec 5) (a : BitVec 5) (b : BitVec 5) : RoundTrip.Statement (.cmptS g a b) := by
  obtain ⟨w, hw⟩ : ∃ w, w = encSR 0x1E g 0 a b 0 := ⟨_, rfl⟩
  refine .of (n := 32) (w := w) (k := 0) (e := 0) (by rw [hw]; rfl) rfl rfl fun hwf hp => ?_
  obtain ⟨lt, f0, f1, f2, f3, f4, f5, f6⟩ := srPlain (by decide) hw
  refine ⟨lt, ?_⟩
  simp [readBack, decodeS, accept, hwf, immOf, immZ, Imm.extNat, noOff, Except.toOption, f0, f1, f2, f3, f4, f5, f6]

theorem RoundTrip.br (g : BitVec 5) (o : BitVec 14) : RoundTrip.Statement (.br g o) := by
  have b0 := g.isLt
  have b2 := o.isLt
  obtain ⟨w, hw⟩ : ∃ w, w = encSHead g 0x20 + o.toNat := ⟨_, rfl⟩
  refine .of (n := 32) (w := w) (k := 0) (e := 0) (by rw [hw]; rfl) rfl rfl fun hwf hp => ?_
  try simp only [encSR, encSI, encSHead, encFn, encVR, encVM, encVI, encVA, encVHead, encMHead, encCHead, encCI, encCE, encKR, xShort, xExt, nShort, nExt, zero5, Bool.toNat_false] at hw
  refine ⟨by omega, ?_⟩
  have f0 : fld 5 w 27 = g := fld_eq (by omega)
  have f1 : fld 5 w 16 = 0 := fld_eq (by simp; omega)
  have f2 : num 7 w 14 = 0 := by simp only [num]; omega
  have f3 : fld 14 w 0 = o := fld_eq (by omega)
  have f4 : num 6 w 21 = 32 := by simp only [num]; omega
  simp [readBack, decodeS, accept, hwf, immOf, immZ, Imm.extNat, noOff, Except.toOption, f0, f1, f2, f3, f4]

theorem RoundTrip.jmp (g : BitVec 5) (a : BitVec 5) : RoundTrip.Statement (.jmp g a) := by
  have b0 := g.isLt
  have b2 := a.isLt
  obtain ⟨w, hw⟩ : ∃ w, w = encSR 0x21 g 0 a 0 0 := ⟨_, rfl⟩
  refine .of (n := 32) (w := w) (k := 0) (e := 0) (by rw [hw]; rfl) rfl rfl fun hwf hp => ?_
  try simp only [encSR, encSI, encSHead, encFn, encVR, encVM, encVI, encVA, encVHead, encMHead, encCHead, encCI, encCE, encKR, xShort, xExt, nShort, nExt, zero5, Bool.toNat_false] at hw
  refine ⟨by omega, ?_⟩
  have f0 : fld 5 w 27 = g := fld_eq (by omega)
  have f1 : fld 5 w 16 = 0 := fld_eq (by simp; omega)
  have f2 : fld 5 w 11 = a := fld_eq (by omega)
  have f3 : fld 5 w 5 = 0 := fld_eq (by simp; omega)
  have f4 : flg w 1 = false := flg_eq (by simp; omega)
  have f5 : flg w 0 = false := flg_eq (by simp; omega)
  have f6 : flg w 10 = false := flg_eq (by simp; omega)
  have f7 : flg w 9 = false := flg_eq (by simp; omega)
  have f8 : num 9 w 0 = 0 := by simp only [num]; omega
  have f9 : num 11 w 0 = 0 := by simp only [num]; omega
  have f10 : num 6 w 21 = 33 := by simp only [num]; omega
  simp [readBack, decodeS, accept, hwf, immOf, immZ, Imm.extNat, noOff, Except.toOption, f0, f1, f2, f3, f4, f5, f6, f7, f8, f9, f10]

theorem RoundTrip.loop (g : BitVec 5) (a : BitVec 5) (k : BitVec 3) (o : BitVec 13) : RoundTrip.Statement (.loop g a k o) := by
  have b0 := g.isLt
  have b2 := a.isLt
  have b3 := k.isLt
  have b4 := o.isLt
  obtain ⟨w, hw⟩ : ∃ w, w = encSHead g 0x22 + a.toNat * 2 ^ 16 + k.toNat * 2 ^ 13 + o.toNat := ⟨_, rfl⟩
  refine .of (n := 32) (w := w) (k := 0) (e := 0) (by rw [hw]; rfl) rfl rfl fun hwf hp => ?_
  try simp only [encSR, encSI, encSHead, encFn, encVR, encVM, encVI, encVA, encVHead, encMHead, encCHead, encCI, encCE, encKR, xShort, xExt, nShort, nExt, zero5, Bool.toNat_false] at hw
  refine ⟨by omega, ?_⟩
  have f0 : fld 5 w 27 = g := fld_eq (by omega)
  have f1 : fld 5 w 16 = a := fld_eq (by omega)
  have f2 : fld 3 w 13 = k := fld_eq (by omega)
  have f3 : fld 13 w 0 = o := fld_eq (by omega)
  have f4 : num 6 w 21 = 34 := by simp only [num]; omega
  simp [readBack, decodeS, accept, hwf, immOf, immZ, Imm.extNat, noOff, Except.toOption, f0, f1, f2, f3, f4]

theorem RoundTrip.bloop (g : BitVec 5) (o : BitVec 14) : RoundTrip.Statement (.bloop g o) := by
  have b0 := g.isLt
  have b2 := o.isLt
  obtain ⟨w, hw⟩ : ∃ w, w = encSHead g 0x23 + o.toNat := ⟨_, rfl⟩
  refine .of (n := 32) (w := w) (k := 0) (e := 0) (by rw [hw]; rfl) rfl rfl fun hwf hp => ?_
  try simp only [encSR, encSI, encSHead, encFn, encVR, encVM, encVI, encVA, encVHead, encMHead, encCHead, encCI, encCE, encKR, xShort, xExt, nShort, nExt, zero5, Bool.toNat_false] at hw
  refine ⟨by omega, ?_⟩
  have f0 : fld 5 w 27 = g := fld_eq (by omega)
  have f1 : fld 5 w 16 = 0 := fld_eq (by simp; omega)
  have f2 : num 7 w 14 = 0 := by simp only [num]; omega
  have f3 : fld 14 w 0 = o := fld_eq (by omega)
  have f4 : num 6 w 21 = 35 := by simp only [num]; omega
  simp [readBack, decodeS, accept, hwf, immOf, immZ, Imm.extNat, noOff, Except.toOption, f0, f1, f2, f3, f4]

theorem RoundTrip.bsw (g : BitVec 5) (o : BitVec 14) : RoundTrip.Statement (.bsw g o) := by
  have b0 := g.isLt
  have b2 := o.isLt
  obtain ⟨w, hw⟩ : ∃ w, w = encSHead g 0x24 + o.toNat := ⟨_, rfl⟩
  refine .of (n := 32) (w := w) (k := 0) (e := 0) (by rw [hw]; rfl) rfl rfl fun hwf hp => ?_
  try simp only [encSR, encSI, encSHead, encFn, encVR, encVM, encVI, encVA, encVHead, encMHead, encCHead, encCI, encCE, encKR, xShort, xExt, nShort, nExt, zero5, Bool.toNat_false] at hw
  refine ⟨by omega, ?_⟩
  have f0 : fld 5 w 27 = g := fld_eq (by omega)
  have f1 : fld 5 w 16 = 0 := fld_eq (by simp; omega)
  have f2 : num 7 w 14 = 0 := by simp only [num]; omega
  have f3 : fld 14 w 0 = o := fld_eq (by omega)
  have f4 : num 6 w 21 = 36 := by simp only [num]; omega
  simp [readBack, decodeS, accept, hwf, immOf, immZ, Imm.extNat, noOff, Except.toOption, f0, f1, f2, f3, f4]

theorem RoundTrip.ifence (g : BitVec 5) : RoundTrip.Statement (.ifence g) := by
  have b0 := g.isLt
  obtain ⟨w, hw⟩ : ∃ w, w = encSHead g 0x25 := ⟨_, rfl⟩
  refine .of (n := 32) (w := w) (k := 0) (e := 0) (by rw [hw]; rfl) rfl rfl fun hwf hp => ?_
  try simp only [encSR, encSI, encSHead, encFn, encVR, encVM, encVI, encVA, encVHead, encMHead, encCHead, encCI, encCE, encKR, xShort, xExt, nShort, nExt, zero5, Bool.toNat_false] at hw
  refine ⟨by omega, ?_⟩
  have f0 : fld 5 w 27 = g := fld_eq (by omega)
  have f1 : fld 5 w 16 = 0 := fld_eq (by simp; omega)
  have f2 : fld 5 w 11 = 0 := fld_eq (by simp; omega)
  have f3 : fld 5 w 5 = 0 := fld_eq (by simp; omega)
  have f4 : flg w 1 = false := flg_eq (by simp; omega)
  have f5 : flg w 0 = false := flg_eq (by simp; omega)
  have f6 : flg w 10 = false := flg_eq (by simp; omega)
  have f7 : flg w 9 = false := flg_eq (by simp; omega)
  have f8 : num 9 w 0 = 0 := by simp only [num]; omega
  have f9 : num 21 w 0 = 0 := by simp only [num]; omega
  have f10 : num 6 w 21 = 37 := by simp only [num]; omega
  simp [readBack, decodeS, accept, hwf, immOf, immZ, Imm.extNat, noOff, Except.toOption, f0, f1, f2, f3, f4, f5, f6, f7, f8, f9, f10]

theorem RoundTrip.waitOwn (g : BitVec 5) (q : BitVec 6) : RoundTrip.Statement (.waitOwn g q) := by
  have b0 := g.isLt
  have b2 := q.isLt
  obtain ⟨w, hw⟩ : ∃ w, w = encSHead g 0x26 + q.toNat * 2 ^ 12 := ⟨_, rfl⟩
  refine .of (n := 32) (w := w) (k := 0) (e := 0) (by rw [hw]; rfl) rfl rfl fun hwf hp => ?_
  try simp only [encSR, encSI, encSHead, encFn, encVR, encVM, encVI, encVA, encVHead, encMHead, encCHead, encCI, encCE, encKR, xShort, xExt, nShort, nExt, zero5, Bool.toNat_false] at hw
  refine ⟨by omega, ?_⟩
  have f0 : fld 5 w 27 = g := fld_eq (by omega)
  have f1 : fld 5 w 5 = 0 := fld_eq (by simp; omega)
  have f2 : flg w 1 = false := flg_eq (by simp; omega)
  have f3 : flg w 0 = false := flg_eq (by simp; omega)
  have f4 : flg w 10 = false := flg_eq (by simp; omega)
  have f5 : flg w 9 = false := flg_eq (by simp; omega)
  have f6 : num 9 w 0 = 0 := by simp only [num]; omega
  have f7 : num 12 w 0 = 0 := by simp only [num]; omega
  have f8 : fld 6 w 12 = q := fld_eq (by omega)
  have f9 : num 6 w 21 = 38 := by simp only [num]; omega
  have f10 : num 3 w 18 = 0 := by simp only [num]; omega
  simp [readBack, decodeS, accept, hwf, immOf, immZ, Imm.extNat, noOff, Except.toOption, f0, f1, f2, f3, f4, f5, f6, f7, f8, f9, f10]

theorem RoundTrip.waitWp (g : BitVec 5) (ch : Bool) (a : BitVec 5) : RoundTrip.Statement (.waitWp g ch a) := by
  have b0 := g.isLt
  have b3 := Bool.toNat_le ch
  have b4 := a.isLt
  obtain ⟨w, hw⟩ : ∃ w, w = encSHead g 0x26 + 1 * 2 ^ 18 + ch.toNat * 2 ^ 17 + a.toNat * 2 ^ 12 := ⟨_, rfl⟩
  refine .of (n := 32) (w := w) (k := 0) (e := 0) (by rw [hw]; rfl) rfl rfl fun hwf hp => ?_
  try simp only [encSR, encSI, encSHead, encFn, encVR, encVM, encVI, encVA, encVHead, encMHead, encCHead, encCI, encCE, encKR, xShort, xExt, nShort, nExt, zero5, Bool.toNat_false] at hw
  refine ⟨by omega, ?_⟩
  have f0 : fld 5 w 27 = g := fld_eq (by omega)
  have f1 : fld 5 w 5 = 0 := fld_eq (by simp; omega)
  have f2 : flg w 1 = false := flg_eq (by simp; omega)
  have f3 : flg w 0 = false := flg_eq (by simp; omega)
  have f4 : flg w 10 = false := flg_eq (by simp; omega)
  have f5 : flg w 9 = false := flg_eq (by simp; omega)
  have f6 : num 9 w 0 = 0 := by simp only [num]; omega
  have f7 : num 12 w 0 = 0 := by simp only [num]; omega
  have f8 : flg w 17 = ch := flg_eq (by omega)
  have f9 : fld 5 w 12 = a := fld_eq (by omega)
  have f10 : num 6 w 21 = 38 := by simp only [num]; omega
  have f11 : num 3 w 18 = 1 := by simp only [num]; omega
  simp [readBack, decodeS, accept, hwf, immOf, immZ, Imm.extNat, noOff, Except.toOption, f0, f1, f2, f3, f4, f5, f6, f7, f8, f9, f10, f11]

theorem RoundTrip.waitBar (g : BitVec 5) (b : BitVec 4) : RoundTrip.Statement (.waitBar g b) := by
  have b0 := g.isLt
  have b3 := b.isLt
  obtain ⟨w, hw⟩ : ∃ w, w = encSHead g 0x26 + 2 * 2 ^ 18 + b.toNat * 2 ^ 14 := ⟨_, rfl⟩
  refine .of (n := 32) (w := w) (k := 0) (e := 0) (by rw [hw]; rfl) rfl rfl fun hwf hp => ?_
  try simp only [encSR, encSI, encSHead, encFn, encVR, encVM, encVI, encVA, encVHead, encMHead, encCHead, encCI, encCE, encKR, xShort, xExt, nShort, nExt, zero5, Bool.toNat_false] at hw
  refine ⟨by omega, ?_⟩
  have f0 : fld 5 w 27 = g := fld_eq (by omega)
  have f1 : fld 5 w 5 = 0 := fld_eq (by simp; omega)
  have f2 : flg w 1 = false := flg_eq (by simp; omega)
  have f3 : flg w 0 = false := flg_eq (by simp; omega)
  have f4 : flg w 10 = false := flg_eq (by simp; omega)
  have f5 : flg w 9 = false := flg_eq (by simp; omega)
  have f6 : num 9 w 0 = 0 := by simp only [num]; omega
  have f7 : num 14 w 0 = 0 := by simp only [num]; omega
  have f8 : fld 4 w 14 = b := fld_eq (by omega)
  have f9 : num 6 w 21 = 38 := by simp only [num]; omega
  have f10 : num 3 w 18 = 2 := by simp only [num]; omega
  simp [readBack, decodeS, accept, hwf, immOf, immZ, Imm.extNat, noOff, Except.toOption, f0, f1, f2, f3, f4, f5, f6, f7, f8, f9, f10]

theorem RoundTrip.waitVal (g : BitVec 5) (acq : Bool) (cc : BitVec 3) (a : BitVec 5) (b : BitVec 5) (sc : BitVec 3) (z : Bool) : RoundTrip.Statement (.waitVal g acq cc a b sc z) := by
  have b0 := g.isLt
  have b3 := Bool.toNat_le acq
  have b4 := cc.isLt
  have b5 := a.isLt
  have b6 := b.isLt
  have b7 := sc.isLt
  have b8 := Bool.toNat_le z
  obtain ⟨w, hw⟩ : ∃ w, w = encSHead g 0x26 + 3 * 2 ^ 18 + acq.toNat * 2 ^ 17 + cc.toNat * 2 ^ 14 + a.toNat * 2 ^ 9 + b.toNat * 2 ^ 4 + sc.toNat * 2 + z.toNat := ⟨_, rfl⟩
  refine .of (n := 32) (w := w) (k := 0) (e := 0) (by rw [hw]; rfl) rfl rfl fun hwf hp => ?_
  try simp only [encSR, encSI, encSHead, encFn, encVR, encVM, encVI, encVA, encVHead, encMHead, encCHead, encCI, encCE, encKR, xShort, xExt, nShort, nExt, zero5, Bool.toNat_false] at hw
  refine ⟨by omega, ?_⟩
  have f0 : fld 5 w 27 = g := fld_eq (by omega)
  have f1 : flg w 0 = z := flg_eq (by omega)
  have f2 : flg w 17 = acq := flg_eq (by omega)
  have f3 : fld 3 w 14 = cc := fld_eq (by omega)
  have f4 : fld 5 w 9 = a := fld_eq (by omega)
  have f5 : fld 5 w 4 = b := fld_eq (by omega)
  have f6 : fld 3 w 1 = sc := fld_eq (by omega)
  have f7 : num 6 w 21 = 38 := by simp only [num]; omega
  have f8 : num 3 w 18 = 3 := by simp only [num]; omega
  simp [readBack, decodeS, accept, hwf, immOf, immZ, Imm.extNat, noOff, Except.toOption, f0, f1, f2, f3, f4, f5, f6, f7, f8]

theorem RoundTrip.waitCyc (g : BitVec 5) (a : BitVec 5) : RoundTrip.Statement (.waitCyc g a) := by
  have b0 := g.isLt
  have b3 := a.isLt
  obtain ⟨w, hw⟩ : ∃ w, w = encSHead g 0x26 + 4 * 2 ^ 18 + a.toNat * 2 ^ 12 := ⟨_, rfl⟩
  refine .of (n := 32) (w := w) (k := 0) (e := 0) (by rw [hw]; rfl) rfl rfl fun hwf hp => ?_
  try simp only [encSR, encSI, encSHead, encFn, encVR, encVM, encVI, encVA, encVHead, encMHead, encCHead, encCI, encCE, encKR, xShort, xExt, nShort, nExt, zero5, Bool.toNat_false] at hw
  refine ⟨by omega, ?_⟩
  have f0 : fld 5 w 27 = g := fld_eq (by omega)
  have f1 : fld 5 w 5 = 0 := fld_eq (by simp; omega)
  have f2 : flg w 1 = false := flg_eq (by simp; omega)
  have f3 : flg w 0 = false := flg_eq (by simp; omega)
  have f4 : flg w 10 = false := flg_eq (by simp; omega)
  have f5 : flg w 9 = false := flg_eq (by simp; omega)
  have f6 : num 9 w 0 = 0 := by simp only [num]; omega
  have f7 : flg w 17 = false := flg_eq (by simp; omega)
  have f8 : num 12 w 0 = 0 := by simp only [num]; omega
  have f9 : fld 5 w 12 = a := fld_eq (by omega)
  have f10 : num 6 w 21 = 38 := by simp only [num]; omega
  have f11 : num 3 w 18 = 4 := by simp only [num]; omega
  simp [readBack, decodeS, accept, hwf, immOf, immZ, Imm.extNat, noOff, Except.toOption, f0, f1, f2, f3, f4, f5, f6, f7, f8, f9, f10, f11]

theorem RoundTrip.bar (g : BitVec 5) (b : BitVec 4) : RoundTrip.Statement (.bar g b) := by
  have b0 := g.isLt
  have b2 := b.isLt
  obtain ⟨w, hw⟩ : ∃ w, w = encSHead g 0x27 + b.toNat * 2 ^ 17 := ⟨_, rfl⟩
  refine .of (n := 32) (w := w) (k := 0) (e := 0) (by rw [hw]; rfl) rfl rfl fun hwf hp => ?_
  try simp only [encSR, encSI, encSHead, encFn, encVR, encVM, encVI, encVA, encVHead, encMHead, encCHead, encCI, encCE, encKR, xShort, xExt, nShort, nExt, zero5, Bool.toNat_false] at hw
  refine ⟨by omega, ?_⟩
  have f0 : fld 5 w 27 = g := fld_eq (by omega)
  have f1 : fld 5 w 11 = 0 := fld_eq (by simp; omega)
  have f2 : fld 5 w 5 = 0 := fld_eq (by simp; omega)
  have f3 : flg w 1 = false := flg_eq (by simp; omega)
  have f4 : flg w 0 = false := flg_eq (by simp; omega)
  have f5 : flg w 10 = false := flg_eq (by simp; omega)
  have f6 : flg w 9 = false := flg_eq (by simp; omega)
  have f7 : num 9 w 0 = 0 := by simp only [num]; omega
  have f8 : num 17 w 0 = 0 := by simp only [num]; omega
  have f9 : fld 4 w 17 = b := fld_eq (by omega)
  have f10 : num 6 w 21 = 39 := by simp only [num]; omega
  simp [readBack, decodeS, accept, hwf, immOf, immZ, Imm.extNat, noOff, Except.toOption, f0, f1, f2, f3, f4, f5, f6, f7, f8, f9, f10]

theorem RoundTrip.tnext (g : BitVec 5) (pd : BitVec 4) (q : BitVec 3) (a : BitVec 5) : RoundTrip.Statement (.tnext g pd q a) := by
  have b0 := g.isLt
  have b2 := pd.isLt
  have b3 := q.isLt
  have b4 := a.isLt
  obtain ⟨w, hw⟩ : ∃ w, w = encSHead g 0x28 + pd.toNat * 2 ^ 17 + q.toNat * 2 ^ 14 + a.toNat * 2 ^ 7 := ⟨_, rfl⟩
  refine .of (n := 32) (w := w) (k := 0) (e := 0) (by rw [hw]; rfl) rfl rfl fun hwf hp => ?_
  try simp only [encSR, encSI, encSHead, encFn, encVR, encVM, encVI, encVA, encVHead, encMHead, encCHead, encCI, encCE, encKR, xShort, xExt, nShort, nExt, zero5, Bool.toNat_false] at hw
  refine ⟨by omega, ?_⟩
  have f0 : fld 5 w 27 = g := fld_eq (by omega)
  have f1 : flg w 1 = false := flg_eq (by simp; omega)
  have f2 : flg w 0 = false := flg_eq (by simp; omega)
  have f3 : num 2 w 12 = 0 := by simp only [num]; omega
  have f4 : num 7 w 0 = 0 := by simp only [num]; omega
  have f5 : fld 4 w 17 = pd := fld_eq (by omega)
  have f6 : fld 3 w 14 = q := fld_eq (by omega)
  have f7 : fld 5 w 7 = a := fld_eq (by omega)
  have f8 : num 6 w 21 = 40 := by simp only [num]; omega
  simp [readBack, decodeS, accept, hwf, immOf, immZ, Imm.extNat, noOff, Except.toOption, f0, f1, f2, f3, f4, f5, f6, f7, f8]

theorem RoundTrip.enq (g : BitVec 5) (pd : BitVec 4) (q : BitVec 3) (pri : BitVec 2) (a : BitVec 5) : RoundTrip.Statement (.enq g pd q pri a) := by
  have b0 := g.isLt
  have b2 := pd.isLt
  have b3 := q.isLt
  have b4 := pri.isLt
  have b5 := a.isLt
  obtain ⟨w, hw⟩ : ∃ w, w = encSHead g 0x29 + pd.toNat * 2 ^ 17 + q.toNat * 2 ^ 14 + pri.toNat * 2 ^ 12 + a.toNat * 2 ^ 7 := ⟨_, rfl⟩
  refine .of (n := 32) (w := w) (k := 0) (e := 0) (by rw [hw]; rfl) rfl rfl fun hwf hp => ?_
  try simp only [encSR, encSI, encSHead, encFn, encVR, encVM, encVI, encVA, encVHead, encMHead, encCHead, encCI, encCE, encKR, xShort, xExt, nShort, nExt, zero5, Bool.toNat_false] at hw
  refine ⟨by omega, ?_⟩
  have f0 : fld 5 w 27 = g := fld_eq (by omega)
  have f1 : flg w 1 = false := flg_eq (by simp; omega)
  have f2 : flg w 0 = false := flg_eq (by simp; omega)
  have f3 : num 7 w 0 = 0 := by simp only [num]; omega
  have f4 : fld 4 w 17 = pd := fld_eq (by omega)
  have f5 : fld 3 w 14 = q := fld_eq (by omega)
  have f6 : fld 2 w 12 = pri := fld_eq (by omega)
  have f7 : fld 5 w 7 = a := fld_eq (by omega)
  have f8 : num 6 w 21 = 41 := by simp only [num]; omega
  simp [readBack, decodeS, accept, hwf, immOf, immZ, Imm.extNat, noOff, Except.toOption, f0, f1, f2, f3, f4, f5, f6, f7, f8]

theorem RoundTrip.exit (g : BitVec 5) : RoundTrip.Statement (.exit g) := by
  have b0 := g.isLt
  obtain ⟨w, hw⟩ : ∃ w, w = encSHead g 0x2A := ⟨_, rfl⟩
  refine .of (n := 32) (w := w) (k := 0) (e := 0) (by rw [hw]; rfl) rfl rfl fun hwf hp => ?_
  try simp only [encSR, encSI, encSHead, encFn, encVR, encVM, encVI, encVA, encVHead, encMHead, encCHead, encCI, encCE, encKR, xShort, xExt, nShort, nExt, zero5, Bool.toNat_false] at hw
  refine ⟨by omega, ?_⟩
  have f0 : fld 5 w 27 = g := fld_eq (by omega)
  have f1 : fld 5 w 16 = 0 := fld_eq (by simp; omega)
  have f2 : fld 5 w 11 = 0 := fld_eq (by simp; omega)
  have f3 : fld 5 w 5 = 0 := fld_eq (by simp; omega)
  have f4 : flg w 1 = false := flg_eq (by simp; omega)
  have f5 : flg w 0 = false := flg_eq (by simp; omega)
  have f6 : flg w 10 = false := flg_eq (by simp; omega)
  have f7 : flg w 9 = false := flg_eq (by simp; omega)
  have f8 : num 9 w 0 = 0 := by simp only [num]; omega
  have f9 : num 21 w 0 = 0 := by simp only [num]; omega
  have f10 : num 6 w 21 = 42 := by simp only [num]; omega
  simp [readBack, decodeS, accept, hwf, immOf, immZ, Imm.extNat, noOff, Except.toOption, f0, f1, f2, f3, f4, f5, f6, f7, f8, f9, f10]

theorem RoundTrip.dbrk (g : BitVec 5) : RoundTrip.Statement (.dbrk g) := by
  have b0 := g.isLt
  obtain ⟨w, hw⟩ : ∃ w, w = encSHead g 0x2B := ⟨_, rfl⟩
  refine .of (n := 32) (w := w) (k := 0) (e := 0) (by rw [hw]; rfl) rfl rfl fun hwf hp => ?_
  try simp only [encSR, encSI, encSHead, encFn, encVR, encVM, encVI, encVA, encVHead, encMHead, encCHead, encCI, encCE, encKR, xShort, xExt, nShort, nExt, zero5, Bool.toNat_false] at hw
  refine ⟨by omega, ?_⟩
  have f0 : fld 5 w 27 = g := fld_eq (by omega)
  have f1 : fld 5 w 16 = 0 := fld_eq (by simp; omega)
  have f2 : fld 5 w 11 = 0 := fld_eq (by simp; omega)
  have f3 : fld 5 w 5 = 0 := fld_eq (by simp; omega)
  have f4 : flg w 1 = false := flg_eq (by simp; omega)
  have f5 : flg w 0 = false := flg_eq (by simp; omega)
  have f6 : flg w 10 = false := flg_eq (by simp; omega)
  have f7 : flg w 9 = false := flg_eq (by simp; omega)
  have f8 : num 9 w 0 = 0 := by simp only [num]; omega
  have f9 : num 21 w 0 = 0 := by simp only [num]; omega
  have f10 : num 6 w 21 = 43 := by simp only [num]; omega
  simp [readBack, decodeS, accept, hwf, immOf, immZ, Imm.extNat, noOff, Except.toOption, f0, f1, f2, f3, f4, f5, f6, f7, f8, f9, f10]

theorem RoundTrip.trap (g : BitVec 5) (i : BitVec 16) : RoundTrip.Statement (.trap g i) := by
  have b0 := g.isLt
  have b2 := i.isLt
  obtain ⟨w, hw⟩ : ∃ w, w = encSHead g 0x2C + i.toNat := ⟨_, rfl⟩
  refine .of (n := 32) (w := w) (k := 0) (e := 0) (by rw [hw]; rfl) rfl rfl fun hwf hp => ?_
  try simp only [encSR, encSI, encSHead, encFn, encVR, encVM, encVI, encVA, encVHead, encMHead, encCHead, encCI, encCE, encKR, xShort, xExt, nShort, nExt, zero5, Bool.toNat_false] at hw
  refine ⟨by omega, ?_⟩
  have f0 : fld 5 w 27 = g := fld_eq (by omega)
  have f1 : fld 5 w 16 = 0 := fld_eq (by simp; omega)
  have f2 : num 5 w 16 = 0 := by simp only [num]; omega
  have f3 : fld 16 w 0 = i := fld_eq (by omega)
  have f4 : num 6 w 21 = 44 := by simp only [num]; omega
  simp [readBack, decodeS, accept, hwf, immOf, immZ, Imm.extNat, noOff, Except.toOption, f0, f1, f2, f3, f4]

theorem RoundTrip.tret (g : BitVec 5) : RoundTrip.Statement (.tret g) := by
  have b0 := g.isLt
  obtain ⟨w, hw⟩ : ∃ w, w = encSHead g 0x2D := ⟨_, rfl⟩
  refine .of (n := 32) (w := w) (k := 0) (e := 0) (by rw [hw]; rfl) rfl rfl fun hwf hp => ?_
  try simp only [encSR, encSI, encSHead, encFn, encVR, encVM, encVI, encVA, encVHead, encMHead, encCHead, encCI, encCE, encKR, xShort, xExt, nShort, nExt, zero5, Bool.toNat_false] at hw
  refine ⟨by omega, ?_⟩
  have f0 : fld 5 w 27 = g := fld_eq (by omega)
  have f1 : fld 5 w 16 = 0 := fld_eq (by simp; omega)
  have f2 : fld 5 w 11 = 0 := fld_eq (by simp; omega)
  have f3 : fld 5 w 5 = 0 := fld_eq (by simp; omega)
  have f4 : flg w 1 = false := flg_eq (by simp; omega)
  have f5 : flg w 0 = false := flg_eq (by simp; omega)
  have f6 : flg w 10 = false := flg_eq (by simp; omega)
  have f7 : flg w 9 = false := flg_eq (by simp; omega)
  have f8 : num 9 w 0 = 0 := by simp only [num]; omega
  have f9 : num 21 w 0 = 0 := by simp only [num]; omega
  have f10 : num 6 w 21 = 45 := by simp only [num]; omega
  simp [readBack, decodeS, accept, hwf, immOf, immZ, Imm.extNat, noOff, Except.toOption, f0, f1, f2, f3, f4, f5, f6, f7, f8, f9, f10]

theorem RoundTrip.crgnOpen (g : BitVec 5) (id : BitVec 8) (o : BitVec 12) : RoundTrip.Statement (.crgnOpen g id o) := by
  have b0 := g.isLt
  have b2 := id.isLt
  have b3 := o.isLt
  obtain ⟨w, hw⟩ : ∃ w, w = encSHead g 0x2E + id.toNat * 2 ^ 12 + o.toNat := ⟨_, rfl⟩
  refine .of (n := 32) (w := w) (k := 0) (e := 0) (by rw [hw]; rfl) rfl rfl fun hwf hp => ?_
  try simp only [encSR, encSI, encSHead, encFn, encVR, encVM, encVI, encVA, encVHead, encMHead, encCHead, encCI, encCE, encKR, xShort, xExt, nShort, nExt, zero5, Bool.toNat_false] at hw
  refine ⟨by omega, ?_⟩
  have f0 : fld 5 w 27 = g := fld_eq (by omega)
  have f1 : fld 8 w 12 = id := fld_eq (by omega)
  have f2 : fld 12 w 0 = o := fld_eq (by omega)
  have f3 : num 6 w 21 = 46 := by simp only [num]; omega
  have f4 : flg w 20 = false := flg_eq (by simp; omega)
  simp [readBack, decodeS, accept, hwf, immOf, immZ, Imm.extNat, noOff, Except.toOption, f0, f1, f2, f3, f4]

theorem RoundTrip.crgnClose (g : BitVec 5) : RoundTrip.Statement (.crgnClose g) := by
  have b0 := g.isLt
  obtain ⟨w, hw⟩ : ∃ w, w = encSHead g 0x2E + 2 ^ 20 := ⟨_, rfl⟩
  refine .of (n := 32) (w := w) (k := 0) (e := 0) (by rw [hw]; rfl) rfl rfl fun hwf hp => ?_
  try simp only [encSR, encSI, encSHead, encFn, encVR, encVM, encVI, encVA, encVHead, encMHead, encCHead, encCI, encCE, encKR, xShort, xExt, nShort, nExt, zero5, Bool.toNat_false] at hw
  refine ⟨by omega, ?_⟩
  have f0 : fld 5 w 27 = g := fld_eq (by omega)
  have f1 : fld 5 w 16 = 16 := fld_eq (by simp; omega)
  have f2 : fld 5 w 11 = 0 := fld_eq (by simp; omega)
  have f3 : fld 5 w 5 = 0 := fld_eq (by simp; omega)
  have f4 : flg w 1 = false := flg_eq (by simp; omega)
  have f5 : flg w 0 = false := flg_eq (by simp; omega)
  have f6 : flg w 10 = false := flg_eq (by simp; omega)
  have f7 : flg w 9 = false := flg_eq (by simp; omega)
  have f8 : num 9 w 0 = 0 := by simp only [num]; omega
  have f9 : num 20 w 0 = 0 := by simp only [num]; omega
  have f10 : fld 8 w 12 = 0 := fld_eq (by simp; omega)
  have f11 : fld 12 w 0 = 0 := fld_eq (by simp; omega)
  have f12 : num 6 w 21 = 46 := by simp only [num]; omega
  have f13 : flg w 20 = true := flg_eq (by simp; omega)
  simp [readBack, decodeS, accept, hwf, immOf, immZ, Imm.extNat, noOff, Except.toOption, f0, f1, f2, f3, f4, f5, f6, f7, f8, f9, f10, f11, f12, f13]

theorem RoundTrip.nopEngineSlot (slot : ESlot) (g : BitVec 5) : RoundTrip.Statement (.nopEngineSlot slot g) := by
  have b := g.isLt
  have v {w : Nat} (hw : w = g.toNat * 2 ^ 43) : w < 2 ^ 48 ∧ num 7 w 36 = 0 ∧ fld 5 w 43 = g ∧ num 36 w 0 = 0 :=
    ⟨by omega, by simp only [num]; omega, fld_eq (by omega), by simp only [num]; omega⟩
  have m {w : Nat} (hw : w = g.toNat * 2 ^ 59) : w < 2 ^ 64 ∧ num 6 w 53 = 0 ∧ fld 5 w 59 = g ∧ num 53 w 0 = 0 ∧ flg w 51 = false :=
    ⟨by omega, by simp only [num]; omega, fld_eq (by omega), by simp only [num]; omega, flg_eq (by simp; omega)⟩
  cases slot
  · obtain ⟨w, hw⟩ : ∃ w, w = g.toNat * 2 ^ 43 := ⟨_, rfl⟩
    refine .of (n := 48) (w := w) (k := 1) (e := 0) (by rw [hw]; rfl) rfl rfl fun hwf hp => ?_
    obtain ⟨lt, f0, f1, f2⟩ := v hw
    exact ⟨lt, by simp [readBack, decodeV, accept, hwf, Except.toOption, f0, f1, f2]⟩
  · obtain ⟨w, hw⟩ : ∃ w, w = g.toNat * 2 ^ 43 := ⟨_, rfl⟩
    refine .of (n := 48) (w := w) (k := 2) (e := 0) (by rw [hw]; rfl) rfl rfl fun hwf hp => ?_
    obtain ⟨lt, f0, f1, f2⟩ := v hw
    exact ⟨lt, by simp [readBack, decodeV, accept, hwf, Except.toOption, f0, f1, f2]⟩
  · obtain ⟨w, hw⟩ : ∃ w, w = g.toNat * 2 ^ 59 := ⟨_, rfl⟩
    refine .of (n := 64) (w := w) (k := 3) (e := 0) (by rw [hw]; rfl) rfl rfl fun hwf hp => ?_
    obtain ⟨lt, f0, f1, f2, f3⟩ := m hw
    exact ⟨lt, by simp [readBack, decodeM, accept, hwf, Except.toOption, f0, f1, f2, f3]⟩
  · obtain ⟨w, hw⟩ : ∃ w, w = g.toNat * 2 ^ 59 := ⟨_, rfl⟩
    refine .of (n := 64) (w := w) (k := 4) (e := 0) (by rw [hw]; rfl) rfl rfl fun hwf hp => ?_
    obtain ⟨lt, f0, f1, f2, f3⟩ := m hw
    exact ⟨lt, by simp [readBack, decodeC, accept, hwf, Except.toOption, f0, f1, f2, f3]⟩
  · obtain ⟨w, hw⟩ : ∃ w, w = g.toNat * 2 ^ 59 := ⟨_, rfl⟩
    refine .of (n := 64) (w := w) (k := 5) (e := 0) (by rw [hw]; rfl) rfl rfl fun hwf hp => ?_
    obtain ⟨lt, f0, f1, f2, f3⟩ := m hw
    exact ⟨lt, by simp [readBack, decodeC, accept, hwf, Except.toOption, f0, f1, f2, f3]⟩

theorem RoundTrip.xcpV (h : VHead) (a : BitVec 6) (f : BitVec 3) (r : BitVec 9) (lane : BitVec 3) : RoundTrip.Statement (.xcpV h a f r lane) := by
  obtain ⟨h_slot, h_g, h_k, h_m, h_st⟩ := h
  cases h_slot
  · have b0 := h_g.isLt
    have b2 := Bool.toNat_le h_k
    have b3 := h_m.isLt
    have b4 := a.isLt
    have b5 := f.isLt
    have b6 := r.isLt
    have b7 := lane.isLt
    obtain ⟨w, hw⟩ : ∃ w, w = encVHead ⟨false, h_g, h_k, h_m, h_st⟩ 1 + a.toNat * 2 ^ 26 + f.toNat * 2 ^ 23 + r.toNat * 2 ^ 14 + lane.toNat * 2 ^ 11 := ⟨_, rfl⟩
    refine .of (n := 48) (w := w) (k := 1) (e := 0) (by rw [hw]; rfl) rfl rfl fun hwf hp => ?_
    try simp only [encSR, encSI, encSHead, encFn, encVR, encVM, encVI, encVA, encVHead, encMHead, encCHead, encCI, encCE, encKR, xShort, xExt, nShort, nExt, zero5, Bool.toNat_false] at hw
    refine ⟨by omega, ?_⟩
    have f0 : fld 5 w 43 = h_g := fld_eq (by omega)
    have f1 : flg w 35 = h_k := flg_eq (by omega)
    have f2 : fld 3 w 32 = h_m := fld_eq (by omega)
    have f3 : fld 6 w 26 = a := fld_eq (by omega)
    have f4 : fld 4 w 4 = 0 := fld_eq (by simp; omega)
    have f5 : fld 4 w 0 = 0 := fld_eq (by simp; omega)
    have f6 : fld 3 w 4 = 0 := fld_eq (by simp; omega)
    have f7 : fld 3 w 0 = 0 := fld_eq (by simp; omega)
    have f8 : flg w 3 = false := flg_eq (by simp; omega)
    have f9 : num 11 w 0 = 0 := by simp only [num]; omega
    have f10 : fld 3 w 23 = f := fld_eq (by omega)
    have f11 : fld 9 w 14 = r := fld_eq (by omega)
    have f12 : fld 3 w 11 = lane := fld_eq (by omega)
    have f13 : num 7 w 36 = 1 := by simp only [num]; omega
    have hst : h_st = ⟨0, 0, 0⟩ := offZero hp
    subst hst
    simp [readBack, decodeV, accept, hwf, immOf, immZ, Imm.extNat, noOff, Except.toOption, f0, f1, f2, f3, f4, f5, f6, f7, f8, f9, f10, f11, f12, f13]
  · have b0 := h_g.isLt
    have b2 := Bool.toNat_le h_k
    have b3 := h_m.isLt
    have b4 := a.isLt
    have b5 := f.isLt
    have b6 := r.isLt
    have b7 := lane.isLt
    obtain ⟨w, hw⟩ : ∃ w, w = encVHead ⟨true, h_g, h_k, h_m, h_st⟩ 1 + a.toNat * 2 ^ 26 + f.toNat * 2 ^ 23 + r.toNat * 2 ^ 14 + lane.toNat * 2 ^ 11 := ⟨_, rfl⟩
    refine .of (n := 48) (w := w) (k := 2) (e := 0) (by rw [hw]; rfl) rfl rfl fun hwf hp => ?_
    try simp only [encSR, encSI, encSHead, encFn, encVR, encVM, encVI, encVA, encVHead, encMHead, encCHead, encCI, encCE, encKR, xShort, xExt, nShort, nExt, zero5, Bool.toNat_false] at hw
    refine ⟨by omega, ?_⟩
    have f0 : fld 5 w 43 = h_g := fld_eq (by omega)
    have f1 : flg w 35 = h_k := flg_eq (by omega)
    have f2 : fld 3 w 32 = h_m := fld_eq (by omega)
    have f3 : fld 6 w 26 = a := fld_eq (by omega)
    have f4 : fld 4 w 4 = 0 := fld_eq (by simp; omega)
    have f5 : fld 4 w 0 = 0 := fld_eq (by simp; omega)
    have f6 : fld 3 w 4 = 0 := fld_eq (by simp; omega)
    have f7 : fld 3 w 0 = 0 := fld_eq (by simp; omega)
    have f8 : flg w 3 = false := flg_eq (by simp; omega)
    have f9 : num 11 w 0 = 0 := by simp only [num]; omega
    have f10 : fld 3 w 23 = f := fld_eq (by omega)
    have f11 : fld 9 w 14 = r := fld_eq (by omega)
    have f12 : fld 3 w 11 = lane := fld_eq (by omega)
    have f13 : num 7 w 36 = 1 := by simp only [num]; omega
    have hst : h_st = ⟨0, 0, 0⟩ := offZero hp
    subst hst
    simp [readBack, decodeV, accept, hwf, immOf, immZ, Imm.extNat, noOff, Except.toOption, f0, f1, f2, f3, f4, f5, f6, f7, f8, f9, f10, f11, f12, f13]

theorem RoundTrip.cmptV (h : VHead) (o : VR) : RoundTrip.Statement (.cmptV h o) := by
  obtain ⟨h_slot, h_g, h_k, h_m, h_st⟩ := h
  obtain ⟨o_d, o_a, o_b, o_c, o_ty, o_mod⟩ := o
  cases h_slot
  · obtain ⟨w, hw⟩ : ∃ w, w = encVR 0x02 ⟨false, h_g, h_k, h_m, h_st⟩ ⟨o_d, o_a, o_b, o_c, o_ty, o_mod⟩ := ⟨_, rfl⟩
    refine .of (n := 48) (w := w) (k := 1) (e := 0) (by rw [hw]; rfl) rfl rfl fun hwf hp => ?_
    obtain ⟨lt, f0, f1, f2, f3, f4, f5, f6, f7, f8, f9⟩ := vrFields (by decide) hw
    refine ⟨lt, ?_⟩
    have hst : h_st = ⟨0, 0, 0⟩ := offZero hp
    subst hst
    simp [readBack, decodeV, accept, hwf, immOf, immZ, Imm.extNat, noOff, Except.toOption, f0, f1, f2, f3, f4, f5, f6, f7, f8, f9]
  · obtain ⟨w, hw⟩ : ∃ w, w = encVR 0x02 ⟨true, h_g, h_k, h_m, h_st⟩ ⟨o_d, o_a, o_b, o_c, o_ty, o_mod⟩ := ⟨_, rfl⟩
    refine .of (n := 48) (w := w) (k := 2) (e := 0) (by rw [hw]; rfl) rfl rfl fun hwf hp => ?_
    obtain ⟨lt, f0, f1, f2, f3, f4, f5, f6, f7, f8, f9⟩ := vrFields (by decide) hw
    refine ⟨lt, ?_⟩
    have hst : h_st = ⟨0, 0, 0⟩ := offZero hp
    subst hst
    simp [readBack, decodeV, accept, hwf, immOf, immZ, Imm.extNat, noOff, Except.toOption, f0, f1, f2, f3, f4, f5, f6, f7, f8, f9]

theorem RoundTrip.vld (h : VHead) (o : VM) : RoundTrip.Statement (.vld h o) := by
  obtain ⟨h_slot, h_g, h_k, h_m, h_st⟩ := h
  obtain ⟨o_d, o_a, o_ab, o_row, o_aux, o_mod⟩ := o
  cases h_slot
  · have b0 := h_g.isLt
    have b2 := Bool.toNat_le h_k
    have b3 := h_m.isLt
    have b4 := o_d.isLt
    have b5 := o_a.isLt
    have b6 := Bool.toNat_le o_ab
    have b7 := o_row.isLt
    have b8 := o_aux.isLt
    have b9 := o_mod.isLt
    obtain ⟨w, hw⟩ : ∃ w, w = encVM 0x03 ⟨false, h_g, h_k, h_m, h_st⟩ ⟨o_d, o_a, o_ab, o_row, o_aux, o_mod⟩ := ⟨_, rfl⟩
    refine .of (n := 48) (w := w) (k := 1) (e := 0) (by rw [hw]; rfl) rfl rfl fun hwf hp => ?_
    try simp only [encSR, encSI, encSHead, encFn, encVR, encVM, encVI, encVA, encVHead, encMHead, encCHead, encCI, encCE, encKR, xShort, xExt, nShort, nExt, zero5, Bool.toNat_false] at hw
    refine ⟨by omega, ?_⟩
    have f0 : fld 5 w 43 = h_g := fld_eq (by omega)
    have f1 : flg w 35 = h_k := flg_eq (by omega)
    have f2 : fld 3 w 32 = h_m := fld_eq (by omega)
    have f3 : fld 6 w 26 = o_d := fld_eq (by omega)
    have f4 : fld 6 w 20 = o_a := fld_eq (by omega)
    have f5 : fld 4 w 0 = o_mod := fld_eq (by omega)
    have f6 : flg w 19 = o_ab := flg_eq (by omega)
    have f7 : fld 12 w 7 = o_row := fld_eq (by omega)
    have f8 : fld 3 w 4 = o_aux := fld_eq (by omega)
    have f9 : num 7 w 36 = 3 := by simp only [num]; omega
    have hst : h_st = ⟨0, 0, 0⟩ := offZero hp
    subst hst
    simp [readBack, decodeV, accept, hwf, immOf, immZ, Imm.extNat, noOff, Except.toOption, f0, f1, f2, f3, f4, f5, f6, f7, f8, f9]
  · have b0 := h_g.isLt
    have b2 := Bool.toNat_le h_k
    have b3 := h_m.isLt
    have b4 := o_d.isLt
    have b5 := o_a.isLt
    have b6 := Bool.toNat_le o_ab
    have b7 := o_row.isLt
    have b8 := o_aux.isLt
    have b9 := o_mod.isLt
    obtain ⟨w, hw⟩ : ∃ w, w = encVM 0x03 ⟨true, h_g, h_k, h_m, h_st⟩ ⟨o_d, o_a, o_ab, o_row, o_aux, o_mod⟩ := ⟨_, rfl⟩
    refine .of (n := 48) (w := w) (k := 2) (e := 0) (by rw [hw]; rfl) rfl rfl fun hwf hp => ?_
    try simp only [encSR, encSI, encSHead, encFn, encVR, encVM, encVI, encVA, encVHead, encMHead, encCHead, encCI, encCE, encKR, xShort, xExt, nShort, nExt, zero5, Bool.toNat_false] at hw
    refine ⟨by omega, ?_⟩
    have f0 : fld 5 w 43 = h_g := fld_eq (by omega)
    have f1 : flg w 35 = h_k := flg_eq (by omega)
    have f2 : fld 3 w 32 = h_m := fld_eq (by omega)
    have f3 : fld 6 w 26 = o_d := fld_eq (by omega)
    have f4 : fld 6 w 20 = o_a := fld_eq (by omega)
    have f5 : fld 4 w 0 = o_mod := fld_eq (by omega)
    have f6 : flg w 19 = o_ab := flg_eq (by omega)
    have f7 : fld 12 w 7 = o_row := fld_eq (by omega)
    have f8 : fld 3 w 4 = o_aux := fld_eq (by omega)
    have f9 : num 7 w 36 = 3 := by simp only [num]; omega
    have hst : h_st = ⟨0, 0, 0⟩ := offZero hp
    subst hst
    simp [readBack, decodeV, accept, hwf, immOf, immZ, Imm.extNat, noOff, Except.toOption, f0, f1, f2, f3, f4, f5, f6, f7, f8, f9]

theorem RoundTrip.vst (h : VHead) (o : VM) : RoundTrip.Statement (.vst h o) := by
  obtain ⟨h_slot, h_g, h_k, h_m, h_st⟩ := h
  obtain ⟨o_d, o_a, o_ab, o_row, o_aux, o_mod⟩ := o
  cases h_slot
  · have b0 := h_g.isLt
    have b2 := Bool.toNat_le h_k
    have b3 := h_m.isLt
    have b4 := o_d.isLt
    have b5 := o_a.isLt
    have b6 := Bool.toNat_le o_ab
    have b7 := o_row.isLt
    have b8 := o_aux.isLt
    have b9 := o_mod.isLt
    obtain ⟨w, hw⟩ : ∃ w, w = encVM 0x04 ⟨false, h_g, h_k, h_m, h_st⟩ ⟨o_d, o_a, o_ab, o_row, o_aux, o_mod⟩ := ⟨_, rfl⟩
    refine .of (n := 48) (w := w) (k := 1) (e := 0) (by rw [hw]; rfl) rfl rfl fun hwf hp => ?_
    try simp only [encSR, encSI, encSHead, encFn, encVR, encVM, encVI, encVA, encVHead, encMHead, encCHead, encCI, encCE, encKR, xShort, xExt, nShort, nExt, zero5, Bool.toNat_false] at hw
    refine ⟨by omega, ?_⟩
    have f0 : fld 5 w 43 = h_g := fld_eq (by omega)
    have f1 : flg w 35 = h_k := flg_eq (by omega)
    have f2 : fld 3 w 32 = h_m := fld_eq (by omega)
    have f3 : fld 6 w 26 = o_d := fld_eq (by omega)
    have f4 : fld 6 w 20 = o_a := fld_eq (by omega)
    have f5 : fld 4 w 0 = o_mod := fld_eq (by omega)
    have f6 : flg w 19 = o_ab := flg_eq (by omega)
    have f7 : fld 12 w 7 = o_row := fld_eq (by omega)
    have f8 : fld 3 w 4 = o_aux := fld_eq (by omega)
    have f9 : num 7 w 36 = 4 := by simp only [num]; omega
    have hst : h_st = ⟨0, 0, 0⟩ := offZero hp
    subst hst
    simp [readBack, decodeV, accept, hwf, immOf, immZ, Imm.extNat, noOff, Except.toOption, f0, f1, f2, f3, f4, f5, f6, f7, f8, f9]
  · have b0 := h_g.isLt
    have b2 := Bool.toNat_le h_k
    have b3 := h_m.isLt
    have b4 := o_d.isLt
    have b5 := o_a.isLt
    have b6 := Bool.toNat_le o_ab
    have b7 := o_row.isLt
    have b8 := o_aux.isLt
    have b9 := o_mod.isLt
    obtain ⟨w, hw⟩ : ∃ w, w = encVM 0x04 ⟨true, h_g, h_k, h_m, h_st⟩ ⟨o_d, o_a, o_ab, o_row, o_aux, o_mod⟩ := ⟨_, rfl⟩
    refine .of (n := 48) (w := w) (k := 2) (e := 0) (by rw [hw]; rfl) rfl rfl fun hwf hp => ?_
    try simp only [encSR, encSI, encSHead, encFn, encVR, encVM, encVI, encVA, encVHead, encMHead, encCHead, encCI, encCE, encKR, xShort, xExt, nShort, nExt, zero5, Bool.toNat_false] at hw
    refine ⟨by omega, ?_⟩
    have f0 : fld 5 w 43 = h_g := fld_eq (by omega)
    have f1 : flg w 35 = h_k := flg_eq (by omega)
    have f2 : fld 3 w 32 = h_m := fld_eq (by omega)
    have f3 : fld 6 w 26 = o_d := fld_eq (by omega)
    have f4 : fld 6 w 20 = o_a := fld_eq (by omega)
    have f5 : fld 4 w 0 = o_mod := fld_eq (by omega)
    have f6 : flg w 19 = o_ab := flg_eq (by omega)
    have f7 : fld 12 w 7 = o_row := fld_eq (by omega)
    have f8 : fld 3 w 4 = o_aux := fld_eq (by omega)
    have f9 : num 7 w 36 = 4 := by simp only [num]; omega
    have hst : h_st = ⟨0, 0, 0⟩ := offZero hp
    subst hst
    simp [readBack, decodeV, accept, hwf, immOf, immZ, Imm.extNat, noOff, Except.toOption, f0, f1, f2, f3, f4, f5, f6, f7, f8, f9]

theorem RoundTrip.vgth (h : VHead) (o : VM) : RoundTrip.Statement (.vgth h o) := by
  obtain ⟨h_slot, h_g, h_k, h_m, h_st⟩ := h
  obtain ⟨o_d, o_a, o_ab, o_row, o_aux, o_mod⟩ := o
  cases h_slot
  · have b0 := h_g.isLt
    have b2 := Bool.toNat_le h_k
    have b3 := h_m.isLt
    have b4 := o_d.isLt
    have b5 := o_a.isLt
    have b6 := Bool.toNat_le o_ab
    have b7 := o_row.isLt
    have b8 := o_aux.isLt
    have b9 := o_mod.isLt
    obtain ⟨w, hw⟩ : ∃ w, w = encVM 0x05 ⟨false, h_g, h_k, h_m, h_st⟩ ⟨o_d, o_a, o_ab, o_row, o_aux, o_mod⟩ := ⟨_, rfl⟩
    refine .of (n := 48) (w := w) (k := 1) (e := 0) (by rw [hw]; rfl) rfl rfl fun hwf hp => ?_
    try simp only [encSR, encSI, encSHead, encFn, encVR, encVM, encVI, encVA, encVHead, encMHead, encCHead, encCI, encCE, encKR, xShort, xExt, nShort, nExt, zero5, Bool.toNat_false] at hw
    refine ⟨by omega, ?_⟩
    have f0 : fld 5 w 43 = h_g := fld_eq (by omega)
    have f1 : flg w 35 = h_k := flg_eq (by omega)
    have f2 : fld 3 w 32 = h_m := fld_eq (by omega)
    have f3 : fld 6 w 26 = o_d := fld_eq (by omega)
    have f4 : fld 6 w 20 = o_a := fld_eq (by omega)
    have f5 : fld 4 w 0 = o_mod := fld_eq (by omega)
    have f6 : flg w 19 = o_ab := flg_eq (by omega)
    have f7 : fld 12 w 7 = o_row := fld_eq (by omega)
    have f8 : fld 3 w 4 = o_aux := fld_eq (by omega)
    have f9 : num 7 w 36 = 5 := by simp only [num]; omega
    have hst : h_st = ⟨0, 0, 0⟩ := offZero hp
    subst hst
    simp [readBack, decodeV, accept, hwf, immOf, immZ, Imm.extNat, noOff, Except.toOption, f0, f1, f2, f3, f4, f5, f6, f7, f8, f9]
  · have b0 := h_g.isLt
    have b2 := Bool.toNat_le h_k
    have b3 := h_m.isLt
    have b4 := o_d.isLt
    have b5 := o_a.isLt
    have b6 := Bool.toNat_le o_ab
    have b7 := o_row.isLt
    have b8 := o_aux.isLt
    have b9 := o_mod.isLt
    obtain ⟨w, hw⟩ : ∃ w, w = encVM 0x05 ⟨true, h_g, h_k, h_m, h_st⟩ ⟨o_d, o_a, o_ab, o_row, o_aux, o_mod⟩ := ⟨_, rfl⟩
    refine .of (n := 48) (w := w) (k := 2) (e := 0) (by rw [hw]; rfl) rfl rfl fun hwf hp => ?_
    try simp only [encSR, encSI, encSHead, encFn, encVR, encVM, encVI, encVA, encVHead, encMHead, encCHead, encCI, encCE, encKR, xShort, xExt, nShort, nExt, zero5, Bool.toNat_false] at hw
    refine ⟨by omega, ?_⟩
    have f0 : fld 5 w 43 = h_g := fld_eq (by omega)
    have f1 : flg w 35 = h_k := flg_eq (by omega)
    have f2 : fld 3 w 32 = h_m := fld_eq (by omega)
    have f3 : fld 6 w 26 = o_d := fld_eq (by omega)
    have f4 : fld 6 w 20 = o_a := fld_eq (by omega)
    have f5 : fld 4 w 0 = o_mod := fld_eq (by omega)
    have f6 : flg w 19 = o_ab := flg_eq (by omega)
    have f7 : fld 12 w 7 = o_row := fld_eq (by omega)
    have f8 : fld 3 w 4 = o_aux := fld_eq (by omega)
    have f9 : num 7 w 36 = 5 := by simp only [num]; omega
    have hst : h_st = ⟨0, 0, 0⟩ := offZero hp
    subst hst
    simp [readBack, decodeV, accept, hwf, immOf, immZ, Imm.extNat, noOff, Except.toOption, f0, f1, f2, f3, f4, f5, f6, f7, f8, f9]

theorem RoundTrip.vsct (h : VHead) (o : VM) : RoundTrip.Statement (.vsct h o) := by
  obtain ⟨h_slot, h_g, h_k, h_m, h_st⟩ := h
  obtain ⟨o_d, o_a, o_ab, o_row, o_aux, o_mod⟩ := o
  cases h_slot
  · have b0 := h_g.isLt
    have b2 := Bool.toNat_le h_k
    have b3 := h_m.isLt
    have b4 := o_d.isLt
    have b5 := o_a.isLt
    have b6 := Bool.toNat_le o_ab
    have b7 := o_row.isLt
    have b8 := o_aux.isLt
    have b9 := o_mod.isLt
    obtain ⟨w, hw⟩ : ∃ w, w = encVM 0x06 ⟨false, h_g, h_k, h_m, h_st⟩ ⟨o_d, o_a, o_ab, o_row, o_aux, o_mod⟩ := ⟨_, rfl⟩
    refine .of (n := 48) (w := w) (k := 1) (e := 0) (by rw [hw]; rfl) rfl rfl fun hwf hp => ?_
    try simp only [encSR, encSI, encSHead, encFn, encVR, encVM, encVI, encVA, encVHead, encMHead, encCHead, encCI, encCE, encKR, xShort, xExt, nShort, nExt, zero5, Bool.toNat_false] at hw
    refine ⟨by omega, ?_⟩
    have f0 : fld 5 w 43 = h_g := fld_eq (by omega)
    have f1 : flg w 35 = h_k := flg_eq (by omega)
    have f2 : fld 3 w 32 = h_m := fld_eq (by omega)
    have f3 : fld 6 w 26 = o_d := fld_eq (by omega)
    have f4 : fld 6 w 20 = o_a := fld_eq (by omega)
    have f5 : fld 4 w 0 = o_mod := fld_eq (by omega)
    have f6 : flg w 19 = o_ab := flg_eq (by omega)
    have f7 : fld 12 w 7 = o_row := fld_eq (by omega)
    have f8 : fld 3 w 4 = o_aux := fld_eq (by omega)
    have f9 : num 7 w 36 = 6 := by simp only [num]; omega
    have hst : h_st = ⟨0, 0, 0⟩ := offZero hp
    subst hst
    simp [readBack, decodeV, accept, hwf, immOf, immZ, Imm.extNat, noOff, Except.toOption, f0, f1, f2, f3, f4, f5, f6, f7, f8, f9]
  · have b0 := h_g.isLt
    have b2 := Bool.toNat_le h_k
    have b3 := h_m.isLt
    have b4 := o_d.isLt
    have b5 := o_a.isLt
    have b6 := Bool.toNat_le o_ab
    have b7 := o_row.isLt
    have b8 := o_aux.isLt
    have b9 := o_mod.isLt
    obtain ⟨w, hw⟩ : ∃ w, w = encVM 0x06 ⟨true, h_g, h_k, h_m, h_st⟩ ⟨o_d, o_a, o_ab, o_row, o_aux, o_mod⟩ := ⟨_, rfl⟩
    refine .of (n := 48) (w := w) (k := 2) (e := 0) (by rw [hw]; rfl) rfl rfl fun hwf hp => ?_
    try simp only [encSR, encSI, encSHead, encFn, encVR, encVM, encVI, encVA, encVHead, encMHead, encCHead, encCI, encCE, encKR, xShort, xExt, nShort, nExt, zero5, Bool.toNat_false] at hw
    refine ⟨by omega, ?_⟩
    have f0 : fld 5 w 43 = h_g := fld_eq (by omega)
    have f1 : flg w 35 = h_k := flg_eq (by omega)
    have f2 : fld 3 w 32 = h_m := fld_eq (by omega)
    have f3 : fld 6 w 26 = o_d := fld_eq (by omega)
    have f4 : fld 6 w 20 = o_a := fld_eq (by omega)
    have f5 : fld 4 w 0 = o_mod := fld_eq (by omega)
    have f6 : flg w 19 = o_ab := flg_eq (by omega)
    have f7 : fld 12 w 7 = o_row := fld_eq (by omega)
    have f8 : fld 3 w 4 = o_aux := fld_eq (by omega)
    have f9 : num 7 w 36 = 6 := by simp only [num]; omega
    have hst : h_st = ⟨0, 0, 0⟩ := offZero hp
    subst hst
    simp [readBack, decodeV, accept, hwf, immOf, immZ, Imm.extNat, noOff, Except.toOption, f0, f1, f2, f3, f4, f5, f6, f7, f8, f9]

theorem RoundTrip.vrmg (h : VHead) (o : VR) : RoundTrip.Statement (.vrmg h o) := by
  obtain ⟨h_slot, h_g, h_k, h_m, h_st⟩ := h
  obtain ⟨o_d, o_a, o_b, o_c, o_ty, o_mod⟩ := o
  cases h_slot
  · obtain ⟨w, hw⟩ : ∃ w, w = encVR 0x07 ⟨false, h_g, h_k, h_m, h_st⟩ ⟨o_d, o_a, o_b, o_c, o_ty, o_mod⟩ := ⟨_, rfl⟩
    refine .of (n := 48) (w := w) (k := 1) (e := 0) (by rw [hw]; rfl) rfl rfl fun hwf hp => ?_
    obtain ⟨lt, f0, f1, f2, f3, f4, f5, f6, f7, f8, f9⟩ := vrFields (by decide) hw
    refine ⟨lt, ?_⟩
    have hst : h_st = ⟨0, 0, 0⟩ := offZero hp
    subst hst
    simp [readBack, decodeV, accept, hwf, immOf, immZ, Imm.extNat, noOff, Except.toOption, f0, f1, f2, f3, f4, f5, f6, f7, f8, f9]
  · obtain ⟨w, hw⟩ : ∃ w, w = encVR 0x07 ⟨true, h_g, h_k, h_m, h_st⟩ ⟨o_d, o_a, o_b, o_c, o_ty, o_mod⟩ := ⟨_, rfl⟩
    refine .of (n := 48) (w := w) (k := 2) (e := 0) (by rw [hw]; rfl) rfl rfl fun hwf hp => ?_
    obtain ⟨lt, f0, f1, f2, f3, f4, f5, f6, f7, f8, f9⟩ := vrFields (by decide) hw
    refine ⟨lt, ?_⟩
    have hst : h_st = ⟨0, 0, 0⟩ := offZero hp
    subst hst
    simp [readBack, decodeV, accept, hwf, immOf, immZ, Imm.extNat, noOff, Except.toOption, f0, f1, f2, f3, f4, f5, f6, f7, f8, f9]

theorem RoundTrip.vadd (h : VHead) (o : VR) : RoundTrip.Statement (.vadd h o) := by
  obtain ⟨h_slot, h_g, h_k, h_m, h_st⟩ := h
  obtain ⟨o_d, o_a, o_b, o_c, o_ty, o_mod⟩ := o
  cases h_slot
  · obtain ⟨w, hw⟩ : ∃ w, w = encVR 0x08 ⟨false, h_g, h_k, h_m, h_st⟩ ⟨o_d, o_a, o_b, o_c, o_ty, o_mod⟩ := ⟨_, rfl⟩
    refine .of (n := 48) (w := w) (k := 1) (e := 0) (by rw [hw]; rfl) rfl rfl fun hwf hp => ?_
    obtain ⟨lt, f0, f1, f2, f3, f4, f5, f6, f7, f8, f9⟩ := vrFields (by decide) hw
    refine ⟨lt, ?_⟩
    have hst : h_st = ⟨0, 0, 0⟩ := offZero hp
    subst hst
    simp [readBack, decodeV, accept, hwf, immOf, immZ, Imm.extNat, noOff, Except.toOption, f0, f1, f2, f3, f4, f5, f6, f7, f8, f9]
  · obtain ⟨w, hw⟩ : ∃ w, w = encVR 0x08 ⟨true, h_g, h_k, h_m, h_st⟩ ⟨o_d, o_a, o_b, o_c, o_ty, o_mod⟩ := ⟨_, rfl⟩
    refine .of (n := 48) (w := w) (k := 2) (e := 0) (by rw [hw]; rfl) rfl rfl fun hwf hp => ?_
    obtain ⟨lt, f0, f1, f2, f3, f4, f5, f6, f7, f8, f9⟩ := vrFields (by decide) hw
    refine ⟨lt, ?_⟩
    have hst : h_st = ⟨0, 0, 0⟩ := offZero hp
    subst hst
    simp [readBack, decodeV, accept, hwf, immOf, immZ, Imm.extNat, noOff, Except.toOption, f0, f1, f2, f3, f4, f5, f6, f7, f8, f9]

theorem RoundTrip.vsub (h : VHead) (o : VR) : RoundTrip.Statement (.vsub h o) := by
  obtain ⟨h_slot, h_g, h_k, h_m, h_st⟩ := h
  obtain ⟨o_d, o_a, o_b, o_c, o_ty, o_mod⟩ := o
  cases h_slot
  · obtain ⟨w, hw⟩ : ∃ w, w = encVR 0x09 ⟨false, h_g, h_k, h_m, h_st⟩ ⟨o_d, o_a, o_b, o_c, o_ty, o_mod⟩ := ⟨_, rfl⟩
    refine .of (n := 48) (w := w) (k := 1) (e := 0) (by rw [hw]; rfl) rfl rfl fun hwf hp => ?_
    obtain ⟨lt, f0, f1, f2, f3, f4, f5, f6, f7, f8, f9⟩ := vrFields (by decide) hw
    refine ⟨lt, ?_⟩
    have hst : h_st = ⟨0, 0, 0⟩ := offZero hp
    subst hst
    simp [readBack, decodeV, accept, hwf, immOf, immZ, Imm.extNat, noOff, Except.toOption, f0, f1, f2, f3, f4, f5, f6, f7, f8, f9]
  · obtain ⟨w, hw⟩ : ∃ w, w = encVR 0x09 ⟨true, h_g, h_k, h_m, h_st⟩ ⟨o_d, o_a, o_b, o_c, o_ty, o_mod⟩ := ⟨_, rfl⟩
    refine .of (n := 48) (w := w) (k := 2) (e := 0) (by rw [hw]; rfl) rfl rfl fun hwf hp => ?_
    obtain ⟨lt, f0, f1, f2, f3, f4, f5, f6, f7, f8, f9⟩ := vrFields (by decide) hw
    refine ⟨lt, ?_⟩
    have hst : h_st = ⟨0, 0, 0⟩ := offZero hp
    subst hst
    simp [readBack, decodeV, accept, hwf, immOf, immZ, Imm.extNat, noOff, Except.toOption, f0, f1, f2, f3, f4, f5, f6, f7, f8, f9]

theorem RoundTrip.vmul (h : VHead) (o : VR) : RoundTrip.Statement (.vmul h o) := by
  obtain ⟨h_slot, h_g, h_k, h_m, h_st⟩ := h
  obtain ⟨o_d, o_a, o_b, o_c, o_ty, o_mod⟩ := o
  cases h_slot
  · obtain ⟨w, hw⟩ : ∃ w, w = encVR 0x0a ⟨false, h_g, h_k, h_m, h_st⟩ ⟨o_d, o_a, o_b, o_c, o_ty, o_mod⟩ := ⟨_, rfl⟩
    refine .of (n := 48) (w := w) (k := 1) (e := 0) (by rw [hw]; rfl) rfl rfl fun hwf hp => ?_
    obtain ⟨lt, f0, f1, f2, f3, f4, f5, f6, f7, f8, f9⟩ := vrFields (by decide) hw
    refine ⟨lt, ?_⟩
    have hst : h_st = ⟨0, 0, 0⟩ := offZero hp
    subst hst
    simp [readBack, decodeV, accept, hwf, immOf, immZ, Imm.extNat, noOff, Except.toOption, f0, f1, f2, f3, f4, f5, f6, f7, f8, f9]
  · obtain ⟨w, hw⟩ : ∃ w, w = encVR 0x0a ⟨true, h_g, h_k, h_m, h_st⟩ ⟨o_d, o_a, o_b, o_c, o_ty, o_mod⟩ := ⟨_, rfl⟩
    refine .of (n := 48) (w := w) (k := 2) (e := 0) (by rw [hw]; rfl) rfl rfl fun hwf hp => ?_
    obtain ⟨lt, f0, f1, f2, f3, f4, f5, f6, f7, f8, f9⟩ := vrFields (by decide) hw
    refine ⟨lt, ?_⟩
    have hst : h_st = ⟨0, 0, 0⟩ := offZero hp
    subst hst
    simp [readBack, decodeV, accept, hwf, immOf, immZ, Imm.extNat, noOff, Except.toOption, f0, f1, f2, f3, f4, f5, f6, f7, f8, f9]

theorem RoundTrip.vfma (h : VHead) (o : VR) : RoundTrip.Statement (.vfma h o) := by
  obtain ⟨h_slot, h_g, h_k, h_m, h_st⟩ := h
  obtain ⟨o_d, o_a, o_b, o_c, o_ty, o_mod⟩ := o
  cases h_slot
  · obtain ⟨w, hw⟩ : ∃ w, w = encVR 0x0b ⟨false, h_g, h_k, h_m, h_st⟩ ⟨o_d, o_a, o_b, o_c, o_ty, o_mod⟩ := ⟨_, rfl⟩
    refine .of (n := 48) (w := w) (k := 1) (e := 0) (by rw [hw]; rfl) rfl rfl fun hwf hp => ?_
    obtain ⟨lt, f0, f1, f2, f3, f4, f5, f6, f7, f8, f9⟩ := vrFields (by decide) hw
    refine ⟨lt, ?_⟩
    have hst : h_st = ⟨0, 0, 0⟩ := offZero hp
    subst hst
    simp [readBack, decodeV, accept, hwf, immOf, immZ, Imm.extNat, noOff, Except.toOption, f0, f1, f2, f3, f4, f5, f6, f7, f8, f9]
  · obtain ⟨w, hw⟩ : ∃ w, w = encVR 0x0b ⟨true, h_g, h_k, h_m, h_st⟩ ⟨o_d, o_a, o_b, o_c, o_ty, o_mod⟩ := ⟨_, rfl⟩
    refine .of (n := 48) (w := w) (k := 2) (e := 0) (by rw [hw]; rfl) rfl rfl fun hwf hp => ?_
    obtain ⟨lt, f0, f1, f2, f3, f4, f5, f6, f7, f8, f9⟩ := vrFields (by decide) hw
    refine ⟨lt, ?_⟩
    have hst : h_st = ⟨0, 0, 0⟩ := offZero hp
    subst hst
    simp [readBack, decodeV, accept, hwf, immOf, immZ, Imm.extNat, noOff, Except.toOption, f0, f1, f2, f3, f4, f5, f6, f7, f8, f9]

theorem RoundTrip.vmin (h : VHead) (o : VR) : RoundTrip.Statement (.vmin h o) := by
  obtain ⟨h_slot, h_g, h_k, h_m, h_st⟩ := h
  obtain ⟨o_d, o_a, o_b, o_c, o_ty, o_mod⟩ := o
  cases h_slot
  · obtain ⟨w, hw⟩ : ∃ w, w = encVR 0x0c ⟨false, h_g, h_k, h_m, h_st⟩ ⟨o_d, o_a, o_b, o_c, o_ty, o_mod⟩ := ⟨_, rfl⟩
    refine .of (n := 48) (w := w) (k := 1) (e := 0) (by rw [hw]; rfl) rfl rfl fun hwf hp => ?_
    obtain ⟨lt, f0, f1, f2, f3, f4, f5, f6, f7, f8, f9⟩ := vrFields (by decide) hw
    refine ⟨lt, ?_⟩
    have hst : h_st = ⟨0, 0, 0⟩ := offZero hp
    subst hst
    simp [readBack, decodeV, accept, hwf, immOf, immZ, Imm.extNat, noOff, Except.toOption, f0, f1, f2, f3, f4, f5, f6, f7, f8, f9]
  · obtain ⟨w, hw⟩ : ∃ w, w = encVR 0x0c ⟨true, h_g, h_k, h_m, h_st⟩ ⟨o_d, o_a, o_b, o_c, o_ty, o_mod⟩ := ⟨_, rfl⟩
    refine .of (n := 48) (w := w) (k := 2) (e := 0) (by rw [hw]; rfl) rfl rfl fun hwf hp => ?_
    obtain ⟨lt, f0, f1, f2, f3, f4, f5, f6, f7, f8, f9⟩ := vrFields (by decide) hw
    refine ⟨lt, ?_⟩
    have hst : h_st = ⟨0, 0, 0⟩ := offZero hp
    subst hst
    simp [readBack, decodeV, accept, hwf, immOf, immZ, Imm.extNat, noOff, Except.toOption, f0, f1, f2, f3, f4, f5, f6, f7, f8, f9]

theorem RoundTrip.vmax (h : VHead) (o : VR) : RoundTrip.Statement (.vmax h o) := by
  obtain ⟨h_slot, h_g, h_k, h_m, h_st⟩ := h
  obtain ⟨o_d, o_a, o_b, o_c, o_ty, o_mod⟩ := o
  cases h_slot
  · obtain ⟨w, hw⟩ : ∃ w, w = encVR 0x0d ⟨false, h_g, h_k, h_m, h_st⟩ ⟨o_d, o_a, o_b, o_c, o_ty, o_mod⟩ := ⟨_, rfl⟩
    refine .of (n := 48) (w := w) (k := 1) (e := 0) (by rw [hw]; rfl) rfl rfl fun hwf hp => ?_
    obtain ⟨lt, f0, f1, f2, f3, f4, f5, f6, f7, f8, f9⟩ := vrFields (by decide) hw
    refine ⟨lt, ?_⟩
    have hst : h_st = ⟨0, 0, 0⟩ := offZero hp
    subst hst
    simp [readBack, decodeV, accept, hwf, immOf, immZ, Imm.extNat, noOff, Except.toOption, f0, f1, f2, f3, f4, f5, f6, f7, f8, f9]
  · obtain ⟨w, hw⟩ : ∃ w, w = encVR 0x0d ⟨true, h_g, h_k, h_m, h_st⟩ ⟨o_d, o_a, o_b, o_c, o_ty, o_mod⟩ := ⟨_, rfl⟩
    refine .of (n := 48) (w := w) (k := 2) (e := 0) (by rw [hw]; rfl) rfl rfl fun hwf hp => ?_
    obtain ⟨lt, f0, f1, f2, f3, f4, f5, f6, f7, f8, f9⟩ := vrFields (by decide) hw
    refine ⟨lt, ?_⟩
    have hst : h_st = ⟨0, 0, 0⟩ := offZero hp
    subst hst
    simp [readBack, decodeV, accept, hwf, immOf, immZ, Imm.extNat, noOff, Except.toOption, f0, f1, f2, f3, f4, f5, f6, f7, f8, f9]

theorem RoundTrip.vabs (h : VHead) (o : VR) : RoundTrip.Statement (.vabs h o) := by
  obtain ⟨h_slot, h_g, h_k, h_m, h_st⟩ := h
  obtain ⟨o_d, o_a, o_b, o_c, o_ty, o_mod⟩ := o
  cases h_slot
  · obtain ⟨w, hw⟩ : ∃ w, w = encVR 0x0e ⟨false, h_g, h_k, h_m, h_st⟩ ⟨o_d, o_a, o_b, o_c, o_ty, o_mod⟩ := ⟨_, rfl⟩
    refine .of (n := 48) (w := w) (k := 1) (e := 0) (by rw [hw]; rfl) rfl rfl fun hwf hp => ?_
    obtain ⟨lt, f0, f1, f2, f3, f4, f5, f6, f7, f8, f9⟩ := vrFields (by decide) hw
    refine ⟨lt, ?_⟩
    have hst : h_st = ⟨0, 0, 0⟩ := offZero hp
    subst hst
    simp [readBack, decodeV, accept, hwf, immOf, immZ, Imm.extNat, noOff, Except.toOption, f0, f1, f2, f3, f4, f5, f6, f7, f8, f9]
  · obtain ⟨w, hw⟩ : ∃ w, w = encVR 0x0e ⟨true, h_g, h_k, h_m, h_st⟩ ⟨o_d, o_a, o_b, o_c, o_ty, o_mod⟩ := ⟨_, rfl⟩
    refine .of (n := 48) (w := w) (k := 2) (e := 0) (by rw [hw]; rfl) rfl rfl fun hwf hp => ?_
    obtain ⟨lt, f0, f1, f2, f3, f4, f5, f6, f7, f8, f9⟩ := vrFields (by decide) hw
    refine ⟨lt, ?_⟩
    have hst : h_st = ⟨0, 0, 0⟩ := offZero hp
    subst hst
    simp [readBack, decodeV, accept, hwf, immOf, immZ, Imm.extNat, noOff, Except.toOption, f0, f1, f2, f3, f4, f5, f6, f7, f8, f9]

theorem RoundTrip.vneg (h : VHead) (o : VR) : RoundTrip.Statement (.vneg h o) := by
  obtain ⟨h_slot, h_g, h_k, h_m, h_st⟩ := h
  obtain ⟨o_d, o_a, o_b, o_c, o_ty, o_mod⟩ := o
  cases h_slot
  · obtain ⟨w, hw⟩ : ∃ w, w = encVR 0x0f ⟨false, h_g, h_k, h_m, h_st⟩ ⟨o_d, o_a, o_b, o_c, o_ty, o_mod⟩ := ⟨_, rfl⟩
    refine .of (n := 48) (w := w) (k := 1) (e := 0) (by rw [hw]; rfl) rfl rfl fun hwf hp => ?_
    obtain ⟨lt, f0, f1, f2, f3, f4, f5, f6, f7, f8, f9⟩ := vrFields (by decide) hw
    refine ⟨lt, ?_⟩
    have hst : h_st = ⟨0, 0, 0⟩ := offZero hp
    subst hst
    simp [readBack, decodeV, accept, hwf, immOf, immZ, Imm.extNat, noOff, Except.toOption, f0, f1, f2, f3, f4, f5, f6, f7, f8, f9]
  · obtain ⟨w, hw⟩ : ∃ w, w = encVR 0x0f ⟨true, h_g, h_k, h_m, h_st⟩ ⟨o_d, o_a, o_b, o_c, o_ty, o_mod⟩ := ⟨_, rfl⟩
    refine .of (n := 48) (w := w) (k := 2) (e := 0) (by rw [hw]; rfl) rfl rfl fun hwf hp => ?_
    obtain ⟨lt, f0, f1, f2, f3, f4, f5, f6, f7, f8, f9⟩ := vrFields (by decide) hw
    refine ⟨lt, ?_⟩
    have hst : h_st = ⟨0, 0, 0⟩ := offZero hp
    subst hst
    simp [readBack, decodeV, accept, hwf, immOf, immZ, Imm.extNat, noOff, Except.toOption, f0, f1, f2, f3, f4, f5, f6, f7, f8, f9]

theorem RoundTrip.vrcp (h : VHead) (o : VR) : RoundTrip.Statement (.vrcp h o) := by
  obtain ⟨h_slot, h_g, h_k, h_m, h_st⟩ := h
  obtain ⟨o_d, o_a, o_b, o_c, o_ty, o_mod⟩ := o
  cases h_slot
  · obtain ⟨w, hw⟩ : ∃ w, w = encVR 0x10 ⟨false, h_g, h_k, h_m, h_st⟩ ⟨o_d, o_a, o_b, o_c, o_ty, o_mod⟩ := ⟨_, rfl⟩
    refine .of (n := 48) (w := w) (k := 1) (e := 0) (by rw [hw]; rfl) rfl rfl fun hwf hp => ?_
    obtain ⟨lt, f0, f1, f2, f3, f4, f5, f6, f7, f8, f9⟩ := vrFields (by decide) hw
    refine ⟨lt, ?_⟩
    have hst : h_st = ⟨0, 0, 0⟩ := offZero hp
    subst hst
    simp [readBack, decodeV, accept, hwf, immOf, immZ, Imm.extNat, noOff, Except.toOption, f0, f1, f2, f3, f4, f5, f6, f7, f8, f9]
  · obtain ⟨w, hw⟩ : ∃ w, w = encVR 0x10 ⟨true, h_g, h_k, h_m, h_st⟩ ⟨o_d, o_a, o_b, o_c, o_ty, o_mod⟩ := ⟨_, rfl⟩
    refine .of (n := 48) (w := w) (k := 2) (e := 0) (by rw [hw]; rfl) rfl rfl fun hwf hp => ?_
    obtain ⟨lt, f0, f1, f2, f3, f4, f5, f6, f7, f8, f9⟩ := vrFields (by decide) hw
    refine ⟨lt, ?_⟩
    have hst : h_st = ⟨0, 0, 0⟩ := offZero hp
    subst hst
    simp [readBack, decodeV, accept, hwf, immOf, immZ, Imm.extNat, noOff, Except.toOption, f0, f1, f2, f3, f4, f5, f6, f7, f8, f9]

theorem RoundTrip.vrsq (h : VHead) (o : VR) : RoundTrip.Statement (.vrsq h o) := by
  obtain ⟨h_slot, h_g, h_k, h_m, h_st⟩ := h
  obtain ⟨o_d, o_a, o_b, o_c, o_ty, o_mod⟩ := o
  cases h_slot
  · obtain ⟨w, hw⟩ : ∃ w, w = encVR 0x11 ⟨false, h_g, h_k, h_m, h_st⟩ ⟨o_d, o_a, o_b, o_c, o_ty, o_mod⟩ := ⟨_, rfl⟩
    refine .of (n := 48) (w := w) (k := 1) (e := 0) (by rw [hw]; rfl) rfl rfl fun hwf hp => ?_
    obtain ⟨lt, f0, f1, f2, f3, f4, f5, f6, f7, f8, f9⟩ := vrFields (by decide) hw
    refine ⟨lt, ?_⟩
    have hst : h_st = ⟨0, 0, 0⟩ := offZero hp
    subst hst
    simp [readBack, decodeV, accept, hwf, immOf, immZ, Imm.extNat, noOff, Except.toOption, f0, f1, f2, f3, f4, f5, f6, f7, f8, f9]
  · obtain ⟨w, hw⟩ : ∃ w, w = encVR 0x11 ⟨true, h_g, h_k, h_m, h_st⟩ ⟨o_d, o_a, o_b, o_c, o_ty, o_mod⟩ := ⟨_, rfl⟩
    refine .of (n := 48) (w := w) (k := 2) (e := 0) (by rw [hw]; rfl) rfl rfl fun hwf hp => ?_
    obtain ⟨lt, f0, f1, f2, f3, f4, f5, f6, f7, f8, f9⟩ := vrFields (by decide) hw
    refine ⟨lt, ?_⟩
    have hst : h_st = ⟨0, 0, 0⟩ := offZero hp
    subst hst
    simp [readBack, decodeV, accept, hwf, immOf, immZ, Imm.extNat, noOff, Except.toOption, f0, f1, f2, f3, f4, f5, f6, f7, f8, f9]

theorem RoundTrip.vexp2 (h : VHead) (o : VR) : RoundTrip.Statement (.vexp2 h o) := by
  obtain ⟨h_slot, h_g, h_k, h_m, h_st⟩ := h
  obtain ⟨o_d, o_a, o_b, o_c, o_ty, o_mod⟩ := o
  cases h_slot
  · obtain ⟨w, hw⟩ : ∃ w, w = encVR 0x12 ⟨false, h_g, h_k, h_m, h_st⟩ ⟨o_d, o_a, o_b, o_c, o_ty, o_mod⟩ := ⟨_, rfl⟩
    refine .of (n := 48) (w := w) (k := 1) (e := 0) (by rw [hw]; rfl) rfl rfl fun hwf hp => ?_
    obtain ⟨lt, f0, f1, f2, f3, f4, f5, f6, f7, f8, f9⟩ := vrFields (by decide) hw
    refine ⟨lt, ?_⟩
    have hst : h_st = ⟨0, 0, 0⟩ := offZero hp
    subst hst
    simp [readBack, decodeV, accept, hwf, immOf, immZ, Imm.extNat, noOff, Except.toOption, f0, f1, f2, f3, f4, f5, f6, f7, f8, f9]
  · obtain ⟨w, hw⟩ : ∃ w, w = encVR 0x12 ⟨true, h_g, h_k, h_m, h_st⟩ ⟨o_d, o_a, o_b, o_c, o_ty, o_mod⟩ := ⟨_, rfl⟩
    refine .of (n := 48) (w := w) (k := 2) (e := 0) (by rw [hw]; rfl) rfl rfl fun hwf hp => ?_
    obtain ⟨lt, f0, f1, f2, f3, f4, f5, f6, f7, f8, f9⟩ := vrFields (by decide) hw
    refine ⟨lt, ?_⟩
    have hst : h_st = ⟨0, 0, 0⟩ := offZero hp
    subst hst
    simp [readBack, decodeV, accept, hwf, immOf, immZ, Imm.extNat, noOff, Except.toOption, f0, f1, f2, f3, f4, f5, f6, f7, f8, f9]

theorem RoundTrip.vlog2 (h : VHead) (o : VR) : RoundTrip.Statement (.vlog2 h o) := by
  obtain ⟨h_slot, h_g, h_k, h_m, h_st⟩ := h
  obtain ⟨o_d, o_a, o_b, o_c, o_ty, o_mod⟩ := o
  cases h_slot
  · obtain ⟨w, hw⟩ : ∃ w, w = encVR 0x13 ⟨false, h_g, h_k, h_m, h_st⟩ ⟨o_d, o_a, o_b, o_c, o_ty, o_mod⟩ := ⟨_, rfl⟩
    refine .of (n := 48) (w := w) (k := 1) (e := 0) (by rw [hw]; rfl) rfl rfl fun hwf hp => ?_
    obtain ⟨lt, f0, f1, f2, f3, f4, f5, f6, f7, f8, f9⟩ := vrFields (by decide) hw
    refine ⟨lt, ?_⟩
    have hst : h_st = ⟨0, 0, 0⟩ := offZero hp
    subst hst
    simp [readBack, decodeV, accept, hwf, immOf, immZ, Imm.extNat, noOff, Except.toOption, f0, f1, f2, f3, f4, f5, f6, f7, f8, f9]
  · obtain ⟨w, hw⟩ : ∃ w, w = encVR 0x13 ⟨true, h_g, h_k, h_m, h_st⟩ ⟨o_d, o_a, o_b, o_c, o_ty, o_mod⟩ := ⟨_, rfl⟩
    refine .of (n := 48) (w := w) (k := 2) (e := 0) (by rw [hw]; rfl) rfl rfl fun hwf hp => ?_
    obtain ⟨lt, f0, f1, f2, f3, f4, f5, f6, f7, f8, f9⟩ := vrFields (by decide) hw
    refine ⟨lt, ?_⟩
    have hst : h_st = ⟨0, 0, 0⟩ := offZero hp
    subst hst
    simp [readBack, decodeV, accept, hwf, immOf, immZ, Imm.extNat, noOff, Except.toOption, f0, f1, f2, f3, f4, f5, f6, f7, f8, f9]

theorem RoundTrip.vcvt (h : VHead) (o : VR) : RoundTrip.Statement (.vcvt h o) := by
  obtain ⟨h_slot, h_g, h_k, h_m, h_st⟩ := h
  obtain ⟨o_d, o_a, o_b, o_c, o_ty, o_mod⟩ := o
  cases h_slot
  · obtain ⟨w, hw⟩ : ∃ w, w = encVR 0x15 ⟨false, h_g, h_k, h_m, h_st⟩ ⟨o_d, o_a, o_b, o_c, o_ty, o_mod⟩ := ⟨_, rfl⟩
    refine .of (n := 48) (w := w) (k := 1) (e := 0) (by rw [hw]; rfl) rfl rfl fun hwf hp => ?_
    obtain ⟨lt, f0, f1, f2, f3, f4, f5, f6, f7, f8, f9⟩ := vrFields (by decide) hw
    refine ⟨lt, ?_⟩
    have hst : h_st = ⟨0, 0, 0⟩ := offZero hp
    subst hst
    simp [readBack, decodeV, accept, hwf, immOf, immZ, Imm.extNat, noOff, Except.toOption, f0, f1, f2, f3, f4, f5, f6, f7, f8, f9]
  · obtain ⟨w, hw⟩ : ∃ w, w = encVR 0x15 ⟨true, h_g, h_k, h_m, h_st⟩ ⟨o_d, o_a, o_b, o_c, o_ty, o_mod⟩ := ⟨_, rfl⟩
    refine .of (n := 48) (w := w) (k := 2) (e := 0) (by rw [hw]; rfl) rfl rfl fun hwf hp => ?_
    obtain ⟨lt, f0, f1, f2, f3, f4, f5, f6, f7, f8, f9⟩ := vrFields (by decide) hw
    refine ⟨lt, ?_⟩
    have hst : h_st = ⟨0, 0, 0⟩ := offZero hp
    subst hst
    simp [readBack, decodeV, accept, hwf, immOf, immZ, Imm.extNat, noOff, Except.toOption, f0, f1, f2, f3, f4, f5, f6, f7, f8, f9]

theorem RoundTrip.viadd (h : VHead) (o : VR) : RoundTrip.Statement (.viadd h o) := by
  obtain ⟨h_slot, h_g, h_k, h_m, h_st⟩ := h
  obtain ⟨o_d, o_a, o_b, o_c, o_ty, o_mod⟩ := o
  cases h_slot
  · obtain ⟨w, hw⟩ : ∃ w, w = encVR 0x18 ⟨false, h_g, h_k, h_m, h_st⟩ ⟨o_d, o_a, o_b, o_c, o_ty, o_mod⟩ := ⟨_, rfl⟩
    refine .of (n := 48) (w := w) (k := 1) (e := 0) (by rw [hw]; rfl) rfl rfl fun hwf hp => ?_
    obtain ⟨lt, f0, f1, f2, f3, f4, f5, f6, f7, f8, f9⟩ := vrFields (by decide) hw
    refine ⟨lt, ?_⟩
    have hst : h_st = ⟨0, 0, 0⟩ := offZero hp
    subst hst
    simp [readBack, decodeV, accept, hwf, immOf, immZ, Imm.extNat, noOff, Except.toOption, f0, f1, f2, f3, f4, f5, f6, f7, f8, f9]
  · obtain ⟨w, hw⟩ : ∃ w, w = encVR 0x18 ⟨true, h_g, h_k, h_m, h_st⟩ ⟨o_d, o_a, o_b, o_c, o_ty, o_mod⟩ := ⟨_, rfl⟩
    refine .of (n := 48) (w := w) (k := 2) (e := 0) (by rw [hw]; rfl) rfl rfl fun hwf hp => ?_
    obtain ⟨lt, f0, f1, f2, f3, f4, f5, f6, f7, f8, f9⟩ := vrFields (by decide) hw
    refine ⟨lt, ?_⟩
    have hst : h_st = ⟨0, 0, 0⟩ := offZero hp
    subst hst
    simp [readBack, decodeV, accept, hwf, immOf, immZ, Imm.extNat, noOff, Except.toOption, f0, f1, f2, f3, f4, f5, f6, f7, f8, f9]

theorem RoundTrip.visub (h : VHead) (o : VR) : RoundTrip.Statement (.visub h o) := by
  obtain ⟨h_slot, h_g, h_k, h_m, h_st⟩ := h
  obtain ⟨o_d, o_a, o_b, o_c, o_ty, o_mod⟩ := o
  cases h_slot
  · obtain ⟨w, hw⟩ : ∃ w, w = encVR 0x19 ⟨false, h_g, h_k, h_m, h_st⟩ ⟨o_d, o_a, o_b, o_c, o_ty, o_mod⟩ := ⟨_, rfl⟩
    refine .of (n := 48) (w := w) (k := 1) (e := 0) (by rw [hw]; rfl) rfl rfl fun hwf hp => ?_
    obtain ⟨lt, f0, f1, f2, f3, f4, f5, f6, f7, f8, f9⟩ := vrFields (by decide) hw
    refine ⟨lt, ?_⟩
    have hst : h_st = ⟨0, 0, 0⟩ := offZero hp
    subst hst
    simp [readBack, decodeV, accept, hwf, immOf, immZ, Imm.extNat, noOff, Except.toOption, f0, f1, f2, f3, f4, f5, f6, f7, f8, f9]
  · obtain ⟨w, hw⟩ : ∃ w, w = encVR 0x19 ⟨true, h_g, h_k, h_m, h_st⟩ ⟨o_d, o_a, o_b, o_c, o_ty, o_mod⟩ := ⟨_, rfl⟩
    refine .of (n := 48) (w := w) (k := 2) (e := 0) (by rw [hw]; rfl) rfl rfl fun hwf hp => ?_
    obtain ⟨lt, f0, f1, f2, f3, f4, f5, f6, f7, f8, f9⟩ := vrFields (by decide) hw
    refine ⟨lt, ?_⟩
    have hst : h_st = ⟨0, 0, 0⟩ := offZero hp
    subst hst
    simp [readBack, decodeV, accept, hwf, immOf, immZ, Imm.extNat, noOff, Except.toOption, f0, f1, f2, f3, f4, f5, f6, f7, f8, f9]

theorem RoundTrip.vimul (h : VHead) (o : VR) : RoundTrip.Statement (.vimul h o) := by
  obtain ⟨h_slot, h_g, h_k, h_m, h_st⟩ := h
  obtain ⟨o_d, o_a, o_b, o_c, o_ty, o_mod⟩ := o
  cases h_slot
  · obtain ⟨w, hw⟩ : ∃ w, w = encVR 0x1a ⟨false, h_g, h_k, h_m, h_st⟩ ⟨o_d, o_a, o_b, o_c, o_ty, o_mod⟩ := ⟨_, rfl⟩
    refine .of (n := 48) (w := w) (k := 1) (e := 0) (by rw [hw]; rfl) rfl rfl fun hwf hp => ?_
    obtain ⟨lt, f0, f1, f2, f3, f4, f5, f6, f7, f8, f9⟩ := vrFields (by decide) hw
    refine ⟨lt, ?_⟩
    have hst : h_st = ⟨0, 0, 0⟩ := offZero hp
    subst hst
    simp [readBack, decodeV, accept, hwf, immOf, immZ, Imm.extNat, noOff, Except.toOption, f0, f1, f2, f3, f4, f5, f6, f7, f8, f9]
  · obtain ⟨w, hw⟩ : ∃ w, w = encVR 0x1a ⟨true, h_g, h_k, h_m, h_st⟩ ⟨o_d, o_a, o_b, o_c, o_ty, o_mod⟩ := ⟨_, rfl⟩
    refine .of (n := 48) (w := w) (k := 2) (e := 0) (by rw [hw]; rfl) rfl rfl fun hwf hp => ?_
    obtain ⟨lt, f0, f1, f2, f3, f4, f5, f6, f7, f8, f9⟩ := vrFields (by decide) hw
    refine ⟨lt, ?_⟩
    have hst : h_st = ⟨0, 0, 0⟩ := offZero hp
    subst hst
    simp [readBack, decodeV, accept, hwf, immOf, immZ, Imm.extNat, noOff, Except.toOption, f0, f1, f2, f3, f4, f5, f6, f7, f8, f9]

theorem RoundTrip.vlogic (h : VHead) (o : VR) : RoundTrip.Statement (.vlogic h o) := by
  obtain ⟨h_slot, h_g, h_k, h_m, h_st⟩ := h
  obtain ⟨o_d, o_a, o_b, o_c, o_ty, o_mod⟩ := o
  cases h_slot
  · obtain ⟨w, hw⟩ : ∃ w, w = encVR 0x1b ⟨false, h_g, h_k, h_m, h_st⟩ ⟨o_d, o_a, o_b, o_c, o_ty, o_mod⟩ := ⟨_, rfl⟩
    refine .of (n := 48) (w := w) (k := 1) (e := 0) (by rw [hw]; rfl) rfl rfl fun hwf hp => ?_
    obtain ⟨lt, f0, f1, f2, f3, f4, f5, f6, f7, f8, f9⟩ := vrFields (by decide) hw
    refine ⟨lt, ?_⟩
    have hst : h_st = ⟨0, 0, 0⟩ := offZero hp
    subst hst
    simp [readBack, decodeV, accept, hwf, immOf, immZ, Imm.extNat, noOff, Except.toOption, f0, f1, f2, f3, f4, f5, f6, f7, f8, f9]
  · obtain ⟨w, hw⟩ : ∃ w, w = encVR 0x1b ⟨true, h_g, h_k, h_m, h_st⟩ ⟨o_d, o_a, o_b, o_c, o_ty, o_mod⟩ := ⟨_, rfl⟩
    refine .of (n := 48) (w := w) (k := 2) (e := 0) (by rw [hw]; rfl) rfl rfl fun hwf hp => ?_
    obtain ⟨lt, f0, f1, f2, f3, f4, f5, f6, f7, f8, f9⟩ := vrFields (by decide) hw
    refine ⟨lt, ?_⟩
    have hst : h_st = ⟨0, 0, 0⟩ := offZero hp
    subst hst
    simp [readBack, decodeV, accept, hwf, immOf, immZ, Imm.extNat, noOff, Except.toOption, f0, f1, f2, f3, f4, f5, f6, f7, f8, f9]

theorem RoundTrip.vshl (h : VHead) (o : VR) : RoundTrip.Statement (.vshl h o) := by
  obtain ⟨h_slot, h_g, h_k, h_m, h_st⟩ := h
  obtain ⟨o_d, o_a, o_b, o_c, o_ty, o_mod⟩ := o
  cases h_slot
  · obtain ⟨w, hw⟩ : ∃ w, w = encVR 0x1c ⟨false, h_g, h_k, h_m, h_st⟩ ⟨o_d, o_a, o_b, o_c, o_ty, o_mod⟩ := ⟨_, rfl⟩
    refine .of (n := 48) (w := w) (k := 1) (e := 0) (by rw [hw]; rfl) rfl rfl fun hwf hp => ?_
    obtain ⟨lt, f0, f1, f2, f3, f4, f5, f6, f7, f8, f9⟩ := vrFields (by decide) hw
    refine ⟨lt, ?_⟩
    have hst : h_st = ⟨0, 0, 0⟩ := offZero hp
    subst hst
    simp [readBack, decodeV, accept, hwf, immOf, immZ, Imm.extNat, noOff, Except.toOption, f0, f1, f2, f3, f4, f5, f6, f7, f8, f9]
  · obtain ⟨w, hw⟩ : ∃ w, w = encVR 0x1c ⟨true, h_g, h_k, h_m, h_st⟩ ⟨o_d, o_a, o_b, o_c, o_ty, o_mod⟩ := ⟨_, rfl⟩
    refine .of (n := 48) (w := w) (k := 2) (e := 0) (by rw [hw]; rfl) rfl rfl fun hwf hp => ?_
    obtain ⟨lt, f0, f1, f2, f3, f4, f5, f6, f7, f8, f9⟩ := vrFields (by decide) hw
    refine ⟨lt, ?_⟩
    have hst : h_st = ⟨0, 0, 0⟩ := offZero hp
    subst hst
    simp [readBack, decodeV, accept, hwf, immOf, immZ, Imm.extNat, noOff, Except.toOption, f0, f1, f2, f3, f4, f5, f6, f7, f8, f9]

theorem RoundTrip.vshr (h : VHead) (o : VR) : RoundTrip.Statement (.vshr h o) := by
  obtain ⟨h_slot, h_g, h_k, h_m, h_st⟩ := h
  obtain ⟨o_d, o_a, o_b, o_c, o_ty, o_mod⟩ := o
  cases h_slot
  · obtain ⟨w, hw⟩ : ∃ w, w = encVR 0x1d ⟨false, h_g, h_k, h_m, h_st⟩ ⟨o_d, o_a, o_b, o_c, o_ty, o_mod⟩ := ⟨_, rfl⟩
    refine .of (n := 48) (w := w) (k := 1) (e := 0) (by rw [hw]; rfl) rfl rfl fun hwf hp => ?_
    obtain ⟨lt, f0, f1, f2, f3, f4, f5, f6, f7, f8, f9⟩ := vrFields (by decide) hw
    refine ⟨lt, ?_⟩
    have hst : h_st = ⟨0, 0, 0⟩ := offZero hp
    subst hst
    simp [readBack, decodeV, accept, hwf, immOf, immZ, Imm.extNat, noOff, Except.toOption, f0, f1, f2, f3, f4, f5, f6, f7, f8, f9]
  · obtain ⟨w, hw⟩ : ∃ w, w = encVR 0x1d ⟨true, h_g, h_k, h_m, h_st⟩ ⟨o_d, o_a, o_b, o_c, o_ty, o_mod⟩ := ⟨_, rfl⟩
    refine .of (n := 48) (w := w) (k := 2) (e := 0) (by rw [hw]; rfl) rfl rfl fun hwf hp => ?_
    obtain ⟨lt, f0, f1, f2, f3, f4, f5, f6, f7, f8, f9⟩ := vrFields (by decide) hw
    refine ⟨lt, ?_⟩
    have hst : h_st = ⟨0, 0, 0⟩ := offZero hp
    subst hst
    simp [readBack, decodeV, accept, hwf, immOf, immZ, Imm.extNat, noOff, Except.toOption, f0, f1, f2, f3, f4, f5, f6, f7, f8, f9]

theorem RoundTrip.vpopc (h : VHead) (o : VR) : RoundTrip.Statement (.vpopc h o) := by
  obtain ⟨h_slot, h_g, h_k, h_m, h_st⟩ := h
  obtain ⟨o_d, o_a, o_b, o_c, o_ty, o_mod⟩ := o
  cases h_slot
  · obtain ⟨w, hw⟩ : ∃ w, w = encVR 0x1e ⟨false, h_g, h_k, h_m, h_st⟩ ⟨o_d, o_a, o_b, o_c, o_ty, o_mod⟩ := ⟨_, rfl⟩
    refine .of (n := 48) (w := w) (k := 1) (e := 0) (by rw [hw]; rfl) rfl rfl fun hwf hp => ?_
    obtain ⟨lt, f0, f1, f2, f3, f4, f5, f6, f7, f8, f9⟩ := vrFields (by decide) hw
    refine ⟨lt, ?_⟩
    have hst : h_st = ⟨0, 0, 0⟩ := offZero hp
    subst hst
    simp [readBack, decodeV, accept, hwf, immOf, immZ, Imm.extNat, noOff, Except.toOption, f0, f1, f2, f3, f4, f5, f6, f7, f8, f9]
  · obtain ⟨w, hw⟩ : ∃ w, w = encVR 0x1e ⟨true, h_g, h_k, h_m, h_st⟩ ⟨o_d, o_a, o_b, o_c, o_ty, o_mod⟩ := ⟨_, rfl⟩
    refine .of (n := 48) (w := w) (k := 2) (e := 0) (by rw [hw]; rfl) rfl rfl fun hwf hp => ?_
    obtain ⟨lt, f0, f1, f2, f3, f4, f5, f6, f7, f8, f9⟩ := vrFields (by decide) hw
    refine ⟨lt, ?_⟩
    have hst : h_st = ⟨0, 0, 0⟩ := offZero hp
    subst hst
    simp [readBack, decodeV, accept, hwf, immOf, immZ, Imm.extNat, noOff, Except.toOption, f0, f1, f2, f3, f4, f5, f6, f7, f8, f9]

theorem RoundTrip.viota (h : VHead) (o : VI) : RoundTrip.Statement (.viota h o) := by
  obtain ⟨h_slot, h_g, h_k, h_m, h_st⟩ := h
  obtain ⟨o_d, o_ty, o_mod, o_imm⟩ := o
  cases o_imm with
  | short v =>
    cases h_slot
    · have b0 := h_g.isLt
      have b2 := Bool.toNat_le h_k
      have b3 := h_m.isLt
      have b4 := o_d.isLt
      have b5 := o_ty.isLt
      have b6 := o_mod.isLt
      have b7 := v.isLt
      obtain ⟨w, hw⟩ : ∃ w, w = encVI 0x2A ⟨false, h_g, h_k, h_m, h_st⟩ ⟨o_d, o_ty, o_mod, (Imm.short v)⟩ := ⟨_, rfl⟩
      refine .of (n := 48) (w := w) (k := 1) (e := BitVec.ofNat 32 0) (by rw [hw]; rfl) rfl rfl fun hwf hp => ?_
      try simp only [encSR, encSI, encSHead, encFn, encVR, encVM, encVI, encVA, encVHead, encMHead, encCHead, encCI, encCE, encKR, xShort, xExt, nShort, nExt, zero5, Bool.toNat_false] at hw
      refine ⟨by omega, ?_⟩
      have f0 : fld 5 w 43 = h_g := fld_eq (by omega)
      have f1 : flg w 35 = h_k := flg_eq (by omega)
      have f2 : fld 3 w 32 = h_m := fld_eq (by omega)
      have f3 : fld 6 w 26 = o_d := fld_eq (by omega)
      have f4 : fld 6 w 20 = 0 := fld_eq (by simp; omega)
      have f5 : fld 4 w 4 = o_ty := fld_eq (by omega)
      have f6 : fld 3 w 0 = o_mod := fld_eq (by omega)
      have f7 : flg w 3 = false := flg_eq (by simp; omega)
      have f8 : num 12 w 8 = v.toNat := by simp only [num]; omega
      have f9 : fld 2 w 24 = 0 := fld_eq (by simp; omega)
      have f10 : num 6 w 20 = 0 := by simp only [num]; omega
      have f11 : num 7 w 36 = 42 := by simp only [num]; omega
      have hst : h_st = ⟨0, 0, 0⟩ := offZero hp
      subst hst
      simp [readBack, decodeV, accept, hwf, immOf, immZ, Imm.extNat, noOff, Except.toOption, f0, f1, f2, f3, f4, f5, f6, f7, f8, f9, f10, f11]
    · have b0 := h_g.isLt
      have b2 := Bool.toNat_le h_k
      have b3 := h_m.isLt
      have b4 := o_d.isLt
      have b5 := o_ty.isLt
      have b6 := o_mod.isLt
      have b7 := v.isLt
      obtain ⟨w, hw⟩ : ∃ w, w = encVI 0x2A ⟨true, h_g, h_k, h_m, h_st⟩ ⟨o_d, o_ty, o_mod, (Imm.short v)⟩ := ⟨_, rfl⟩
      refine .of (n := 48) (w := w) (k := 2) (e := BitVec.ofNat 32 0) (by rw [hw]; rfl) rfl rfl fun hwf hp => ?_
      try simp only [encSR, encSI, encSHead, encFn, encVR, encVM, encVI, encVA, encVHead, encMHead, encCHead, encCI, encCE, encKR, xShort, xExt, nShort, nExt, zero5, Bool.toNat_false] at hw
      refine ⟨by omega, ?_⟩
      have f0 : fld 5 w 43 = h_g := fld_eq (by omega)
      have f1 : flg w 35 = h_k := flg_eq (by omega)
      have f2 : fld 3 w 32 = h_m := fld_eq (by omega)
      have f3 : fld 6 w 26 = o_d := fld_eq (by omega)
      have f4 : fld 6 w 20 = 0 := fld_eq (by simp; omega)
      have f5 : fld 4 w 4 = o_ty := fld_eq (by omega)
      have f6 : fld 3 w 0 = o_mod := fld_eq (by omega)
      have f7 : flg w 3 = false := flg_eq (by simp; omega)
      have f8 : num 12 w 8 = v.toNat := by simp only [num]; omega
      have f9 : fld 2 w 24 = 0 := fld_eq (by simp; omega)
      have f10 : num 6 w 20 = 0 := by simp only [num]; omega
      have f11 : num 7 w 36 = 42 := by simp only [num]; omega
      have hst : h_st = ⟨0, 0, 0⟩ := offZero hp
      subst hst
      simp [readBack, decodeV, accept, hwf, immOf, immZ, Imm.extNat, noOff, Except.toOption, f0, f1, f2, f3, f4, f5, f6, f7, f8, f9, f10, f11]
  | ext v =>
    cases h_slot
    · have b0 := h_g.isLt
      have b2 := Bool.toNat_le h_k
      have b3 := h_m.isLt
      have b4 := o_d.isLt
      have b5 := o_ty.isLt
      have b6 := o_mod.isLt
      obtain ⟨w, hw⟩ : ∃ w, w = encVI 0x2A ⟨false, h_g, h_k, h_m, h_st⟩ ⟨o_d, o_ty, o_mod, (Imm.ext v : Imm 12)⟩ := ⟨_, rfl⟩
      refine .of (n := 48) (w := w) (k := 1) (e := BitVec.ofNat 32 v.toNat) (by rw [hw]; rfl) rfl rfl fun hwf hp => ?_
      try simp only [encSR, encSI, encSHead, encFn, encVR, encVM, encVI, encVA, encVHead, encMHead, encCHead, encCI, encCE, encKR, xShort, xExt, nShort, nExt, zero5, Bool.toNat_false] at hw
      refine ⟨by omega, ?_⟩
      have f0 : fld 5 w 43 = h_g := fld_eq (by omega)
      have f1 : flg w 35 = h_k := flg_eq (by omega)
      have f2 : fld 3 w 32 = h_m := fld_eq (by omega)
      have f3 : fld 6 w 26 = o_d := fld_eq (by omega)
      have f4 : fld 6 w 20 = 0 := fld_eq (by simp; omega)
      have f5 : fld 6 w 14 = 0 := fld_eq (by simp; omega)
      have f6 : fld 6 w 8 = 0 := fld_eq (by simp; omega)
      have f7 : fld 4 w 4 = o_ty := fld_eq (by omega)
      have f8 : flg w 19 = false := flg_eq (by simp; omega)
      have f9 : fld 3 w 0 = o_mod := fld_eq (by omega)
      have f10 : flg w 3 = true := flg_eq (by simp; omega)
      have f11 : num 12 w 8 = 0 := by simp only [num]; omega
      have f12 : fld 2 w 24 = 0 := fld_eq (by simp; omega)
      have f13 : fld 5 w 19 = 0 := fld_eq (by simp; omega)
      have f14 : fld 8 w 11 = 0 := fld_eq (by simp; omega)
      have f15 : num 6 w 20 = 0 := by simp only [num]; omega
      have f16 : num 7 w 36 = 42 := by simp only [num]; omega
      have hst : h_st = ⟨0, 0, 0⟩ := offZero hp
      subst hst
      simp [readBack, decodeV, accept, hwf, immOf, immZ, Imm.extNat, noOff, Except.toOption, f0, f1, f2, f3, f4, f5, f6, f7, f8, f9, f10, f11, f12, f13, f14, f15, f16]
    · have b0 := h_g.isLt
      have b2 := Bool.toNat_le h_k
      have b3 := h_m.isLt
      have b4 := o_d.isLt
      have b5 := o_ty.isLt
      have b6 := o_mod.isLt
      obtain ⟨w, hw⟩ : ∃ w, w = encVI 0x2A ⟨true, h_g, h_k, h_m, h_st⟩ ⟨o_d, o_ty, o_mod, (Imm.ext v : Imm 12)⟩ := ⟨_, rfl⟩
      refine .of (n := 48) (w := w) (k := 2) (e := BitVec.ofNat 32 v.toNat) (by rw [hw]; rfl) rfl rfl fun hwf hp => ?_
      try simp only [encSR, encSI, encSHead, encFn, encVR, encVM, encVI, encVA, encVHead, encMHead, encCHead, encCI, encCE, encKR, xShort, xExt, nShort, nExt, zero5, Bool.toNat_false] at hw
      refine ⟨by omega, ?_⟩
      have f0 : fld 5 w 43 = h_g := fld_eq (by omega)
      have f1 : flg w 35 = h_k := flg_eq (by omega)
      have f2 : fld 3 w 32 = h_m := fld_eq (by omega)
      have f3 : fld 6 w 26 = o_d := fld_eq (by omega)
      have f4 : fld 6 w 20 = 0 := fld_eq (by simp; omega)
      have f5 : fld 6 w 14 = 0 := fld_eq (by simp; omega)
      have f6 : fld 6 w 8 = 0 := fld_eq (by simp; omega)
      have f7 : fld 4 w 4 = o_ty := fld_eq (by omega)
      have f8 : flg w 19 = false := flg_eq (by simp; omega)
      have f9 : fld 3 w 0 = o_mod := fld_eq (by omega)
      have f10 : flg w 3 = true := flg_eq (by simp; omega)
      have f11 : num 12 w 8 = 0 := by simp only [num]; omega
      have f12 : fld 2 w 24 = 0 := fld_eq (by simp; omega)
      have f13 : fld 5 w 19 = 0 := fld_eq (by simp; omega)
      have f14 : fld 8 w 11 = 0 := fld_eq (by simp; omega)
      have f15 : num 6 w 20 = 0 := by simp only [num]; omega
      have f16 : num 7 w 36 = 42 := by simp only [num]; omega
      have hst : h_st = ⟨0, 0, 0⟩ := offZero hp
      subst hst
      simp [readBack, decodeV, accept, hwf, immOf, immZ, Imm.extNat, noOff, Except.toOption, f0, f1, f2, f3, f4, f5, f6, f7, f8, f9, f10, f11, f12, f13, f14, f15, f16]

theorem RoundTrip.vmovi (h : VHead) (o : VI) : RoundTrip.Statement (.vmovi h o) := by
  obtain ⟨h_slot, h_g, h_k, h_m, h_st⟩ := h
  obtain ⟨o_d, o_ty, o_mod, o_imm⟩ := o
  cases o_imm with
  | short v =>
    cases h_slot
    · have b0 := h_g.isLt
      have b2 := Bool.toNat_le h_k
      have b3 := h_m.isLt
      have b4 := o_d.isLt
      have b5 := o_ty.isLt
      have b6 := o_mod.isLt
      have b7 := v.isLt
      obtain ⟨w, hw⟩ : ∃ w, w = encVI 0x2B ⟨false, h_g, h_k, h_m, h_st⟩ ⟨o_d, o_ty, o_mod, (Imm.short v)⟩ := ⟨_, rfl⟩
      refine .of (n := 48) (w := w) (k := 1) (e := BitVec.ofNat 32 0) (by rw [hw]; rfl) rfl rfl fun hwf hp => ?_
      try simp only [encSR, encSI, encSHead, encFn, encVR, encVM, encVI, encVA, encVHead, encMHead, encCHead, encCI, encCE, encKR, xShort, xExt, nShort, nExt, zero5, Bool.toNat_false] at hw
      refine ⟨by omega, ?_⟩
      have f0 : fld 5 w 43 = h_g := fld_eq (by omega)
      have f1 : flg w 35 = h_k := flg_eq (by omega)
      have f2 : fld 3 w 32 = h_m := fld_eq (by omega)
      have f3 : fld 6 w 26 = o_d := fld_eq (by omega)
      have f4 : fld 6 w 20 = 0 := fld_eq (by simp; omega)
      have f5 : fld 4 w 4 = o_ty := fld_eq (by omega)
      have f6 : fld 3 w 0 = o_mod := fld_eq (by omega)
      have f7 : flg w 3 = false := flg_eq (by simp; omega)
      have f8 : num 12 w 8 = v.toNat := by simp only [num]; omega
      have f9 : fld 2 w 24 = 0 := fld_eq (by simp; omega)
      have f10 : num 6 w 20 = 0 := by simp only [num]; omega
      have f11 : num 7 w 36 = 43 := by simp only [num]; omega
      have hst : h_st = ⟨0, 0, 0⟩ := offZero hp
      subst hst
      simp [readBack, decodeV, accept, hwf, immOf, immZ, Imm.extNat, noOff, Except.toOption, f0, f1, f2, f3, f4, f5, f6, f7, f8, f9, f10, f11]
    · have b0 := h_g.isLt
      have b2 := Bool.toNat_le h_k
      have b3 := h_m.isLt
      have b4 := o_d.isLt
      have b5 := o_ty.isLt
      have b6 := o_mod.isLt
      have b7 := v.isLt
      obtain ⟨w, hw⟩ : ∃ w, w = encVI 0x2B ⟨true, h_g, h_k, h_m, h_st⟩ ⟨o_d, o_ty, o_mod, (Imm.short v)⟩ := ⟨_, rfl⟩
      refine .of (n := 48) (w := w) (k := 2) (e := BitVec.ofNat 32 0) (by rw [hw]; rfl) rfl rfl fun hwf hp => ?_
      try simp only [encSR, encSI, encSHead, encFn, encVR, encVM, encVI, encVA, encVHead, encMHead, encCHead, encCI, encCE, encKR, xShort, xExt, nShort, nExt, zero5, Bool.toNat_false] at hw
      refine ⟨by omega, ?_⟩
      have f0 : fld 5 w 43 = h_g := fld_eq (by omega)
      have f1 : flg w 35 = h_k := flg_eq (by omega)
      have f2 : fld 3 w 32 = h_m := fld_eq (by omega)
      have f3 : fld 6 w 26 = o_d := fld_eq (by omega)
      have f4 : fld 6 w 20 = 0 := fld_eq (by simp; omega)
      have f5 : fld 4 w 4 = o_ty := fld_eq (by omega)
      have f6 : fld 3 w 0 = o_mod := fld_eq (by omega)
      have f7 : flg w 3 = false := flg_eq (by simp; omega)
      have f8 : num 12 w 8 = v.toNat := by simp only [num]; omega
      have f9 : fld 2 w 24 = 0 := fld_eq (by simp; omega)
      have f10 : num 6 w 20 = 0 := by simp only [num]; omega
      have f11 : num 7 w 36 = 43 := by simp only [num]; omega
      have hst : h_st = ⟨0, 0, 0⟩ := offZero hp
      subst hst
      simp [readBack, decodeV, accept, hwf, immOf, immZ, Imm.extNat, noOff, Except.toOption, f0, f1, f2, f3, f4, f5, f6, f7, f8, f9, f10, f11]
  | ext v =>
    cases h_slot
    · have b0 := h_g.isLt
      have b2 := Bool.toNat_le h_k
      have b3 := h_m.isLt
      have b4 := o_d.isLt
      have b5 := o_ty.isLt
      have b6 := o_mod.isLt
      obtain ⟨w, hw⟩ : ∃ w, w = encVI 0x2B ⟨false, h_g, h_k, h_m, h_st⟩ ⟨o_d, o_ty, o_mod, (Imm.ext v : Imm 12)⟩ := ⟨_, rfl⟩
      refine .of (n := 48) (w := w) (k := 1) (e := BitVec.ofNat 32 v.toNat) (by rw [hw]; rfl) rfl rfl fun hwf hp => ?_
      try simp only [encSR, encSI, encSHead, encFn, encVR, encVM, encVI, encVA, encVHead, encMHead, encCHead, encCI, encCE, encKR, xShort, xExt, nShort, nExt, zero5, Bool.toNat_false] at hw
      refine ⟨by omega, ?_⟩
      have f0 : fld 5 w 43 = h_g := fld_eq (by omega)
      have f1 : flg w 35 = h_k := flg_eq (by omega)
      have f2 : fld 3 w 32 = h_m := fld_eq (by omega)
      have f3 : fld 6 w 26 = o_d := fld_eq (by omega)
      have f4 : fld 6 w 20 = 0 := fld_eq (by simp; omega)
      have f5 : fld 6 w 14 = 0 := fld_eq (by simp; omega)
      have f6 : fld 6 w 8 = 0 := fld_eq (by simp; omega)
      have f7 : fld 4 w 4 = o_ty := fld_eq (by omega)
      have f8 : flg w 19 = false := flg_eq (by simp; omega)
      have f9 : fld 3 w 0 = o_mod := fld_eq (by omega)
      have f10 : flg w 3 = true := flg_eq (by simp; omega)
      have f11 : num 12 w 8 = 0 := by simp only [num]; omega
      have f12 : fld 2 w 24 = 0 := fld_eq (by simp; omega)
      have f13 : fld 5 w 19 = 0 := fld_eq (by simp; omega)
      have f14 : fld 8 w 11 = 0 := fld_eq (by simp; omega)
      have f15 : num 6 w 20 = 0 := by simp only [num]; omega
      have f16 : num 7 w 36 = 43 := by simp only [num]; omega
      have hst : h_st = ⟨0, 0, 0⟩ := offZero hp
      subst hst
      simp [readBack, decodeV, accept, hwf, immOf, immZ, Imm.extNat, noOff, Except.toOption, f0, f1, f2, f3, f4, f5, f6, f7, f8, f9, f10, f11, f12, f13, f14, f15, f16]
    · have b0 := h_g.isLt
      have b2 := Bool.toNat_le h_k
      have b3 := h_m.isLt
      have b4 := o_d.isLt
      have b5 := o_ty.isLt
      have b6 := o_mod.isLt
      obtain ⟨w, hw⟩ : ∃ w, w = encVI 0x2B ⟨true, h_g, h_k, h_m, h_st⟩ ⟨o_d, o_ty, o_mod, (Imm.ext v : Imm 12)⟩ := ⟨_, rfl⟩
      refine .of (n := 48) (w := w) (k := 2) (e := BitVec.ofNat 32 v.toNat) (by rw [hw]; rfl) rfl rfl fun hwf hp => ?_
      try simp only [encSR, encSI, encSHead, encFn, encVR, encVM, encVI, encVA, encVHead, encMHead, encCHead, encCI, encCE, encKR, xShort, xExt, nShort, nExt, zero5, Bool.toNat_false] at hw
      refine ⟨by omega, ?_⟩
      have f0 : fld 5 w 43 = h_g := fld_eq (by omega)
      have f1 : flg w 35 = h_k := flg_eq (by omega)
      have f2 : fld 3 w 32 = h_m := fld_eq (by omega)
      have f3 : fld 6 w 26 = o_d := fld_eq (by omega)
      have f4 : fld 6 w 20 = 0 := fld_eq (by simp; omega)
      have f5 : fld 6 w 14 = 0 := fld_eq (by simp; omega)
      have f6 : fld 6 w 8 = 0 := fld_eq (by simp; omega)
      have f7 : fld 4 w 4 = o_ty := fld_eq (by omega)
      have f8 : flg w 19 = false := flg_eq (by simp; omega)
      have f9 : fld 3 w 0 = o_mod := fld_eq (by omega)
      have f10 : flg w 3 = true := flg_eq (by simp; omega)
      have f11 : num 12 w 8 = 0 := by simp only [num]; omega
      have f12 : fld 2 w 24 = 0 := fld_eq (by simp; omega)
      have f13 : fld 5 w 19 = 0 := fld_eq (by simp; omega)
      have f14 : fld 8 w 11 = 0 := fld_eq (by simp; omega)
      have f15 : num 6 w 20 = 0 := by simp only [num]; omega
      have f16 : num 7 w 36 = 43 := by simp only [num]; omega
      have hst : h_st = ⟨0, 0, 0⟩ := offZero hp
      subst hst
      simp [readBack, decodeV, accept, hwf, immOf, immZ, Imm.extNat, noOff, Except.toOption, f0, f1, f2, f3, f4, f5, f6, f7, f8, f9, f10, f11, f12, f13, f14, f15, f16]

theorem RoundTrip.vcmp (h : VHead) (o : VR) : RoundTrip.Statement (.vcmp h o) := by
  obtain ⟨h_slot, h_g, h_k, h_m, h_st⟩ := h
  obtain ⟨o_d, o_a, o_b, o_c, o_ty, o_mod⟩ := o
  cases h_slot
  · obtain ⟨w, hw⟩ : ∃ w, w = encVR 0x20 ⟨false, h_g, h_k, h_m, h_st⟩ ⟨o_d, o_a, o_b, o_c, o_ty, o_mod⟩ := ⟨_, rfl⟩
    refine .of (n := 48) (w := w) (k := 1) (e := 0) (by rw [hw]; rfl) rfl rfl fun hwf hp => ?_
    obtain ⟨lt, f0, f1, f2, f3, f4, f5, f6, f7, f8, f9⟩ := vrFields (by decide) hw
    refine ⟨lt, ?_⟩
    have hst : h_st = ⟨0, 0, 0⟩ := offZero hp
    subst hst
    simp [readBack, decodeV, accept, hwf, immOf, immZ, Imm.extNat, noOff, Except.toOption, f0, f1, f2, f3, f4, f5, f6, f7, f8, f9]
  · obtain ⟨w, hw⟩ : ∃ w, w = encVR 0x20 ⟨true, h_g, h_k, h_m, h_st⟩ ⟨o_d, o_a, o_b, o_c, o_ty, o_mod⟩ := ⟨_, rfl⟩
    refine .of (n := 48) (w := w) (k := 2) (e := 0) (by rw [hw]; rfl) rfl rfl fun hwf hp => ?_
    obtain ⟨lt, f0, f1, f2, f3, f4, f5, f6, f7, f8, f9⟩ := vrFields (by decide) hw
    refine ⟨lt, ?_⟩
    have hst : h_st = ⟨0, 0, 0⟩ := offZero hp
    subst hst
    simp [readBack, decodeV, accept, hwf, immOf, immZ, Imm.extNat, noOff, Except.toOption, f0, f1, f2, f3, f4, f5, f6, f7, f8, f9]

theorem RoundTrip.vicmp (h : VHead) (o : VR) : RoundTrip.Statement (.vicmp h o) := by
  obtain ⟨h_slot, h_g, h_k, h_m, h_st⟩ := h
  obtain ⟨o_d, o_a, o_b, o_c, o_ty, o_mod⟩ := o
  cases h_slot
  · obtain ⟨w, hw⟩ : ∃ w, w = encVR 0x21 ⟨false, h_g, h_k, h_m, h_st⟩ ⟨o_d, o_a, o_b, o_c, o_ty, o_mod⟩ := ⟨_, rfl⟩
    refine .of (n := 48) (w := w) (k := 1) (e := 0) (by rw [hw]; rfl) rfl rfl fun hwf hp => ?_
    obtain ⟨lt, f0, f1, f2, f3, f4, f5, f6, f7, f8, f9⟩ := vrFields (by decide) hw
    refine ⟨lt, ?_⟩
    have hst : h_st = ⟨0, 0, 0⟩ := offZero hp
    subst hst
    simp [readBack, decodeV, accept, hwf, immOf, immZ, Imm.extNat, noOff, Except.toOption, f0, f1, f2, f3, f4, f5, f6, f7, f8, f9]
  · obtain ⟨w, hw⟩ : ∃ w, w = encVR 0x21 ⟨true, h_g, h_k, h_m, h_st⟩ ⟨o_d, o_a, o_b, o_c, o_ty, o_mod⟩ := ⟨_, rfl⟩
    refine .of (n := 48) (w := w) (k := 2) (e := 0) (by rw [hw]; rfl) rfl rfl fun hwf hp => ?_
    obtain ⟨lt, f0, f1, f2, f3, f4, f5, f6, f7, f8, f9⟩ := vrFields (by decide) hw
    refine ⟨lt, ?_⟩
    have hst : h_st = ⟨0, 0, 0⟩ := offZero hp
    subst hst
    simp [readBack, decodeV, accept, hwf, immOf, immZ, Imm.extNat, noOff, Except.toOption, f0, f1, f2, f3, f4, f5, f6, f7, f8, f9]

theorem RoundTrip.vselm (h : VHead) (o : VR) : RoundTrip.Statement (.vselm h o) := by
  obtain ⟨h_slot, h_g, h_k, h_m, h_st⟩ := h
  obtain ⟨o_d, o_a, o_b, o_c, o_ty, o_mod⟩ := o
  cases h_slot
  · obtain ⟨w, hw⟩ : ∃ w, w = encVR 0x22 ⟨false, h_g, h_k, h_m, h_st⟩ ⟨o_d, o_a, o_b, o_c, o_ty, o_mod⟩ := ⟨_, rfl⟩
    refine .of (n := 48) (w := w) (k := 1) (e := 0) (by rw [hw]; rfl) rfl rfl fun hwf hp => ?_
    obtain ⟨lt, f0, f1, f2, f3, f4, f5, f6, f7, f8, f9⟩ := vrFields (by decide) hw
    refine ⟨lt, ?_⟩
    have hst : h_st = ⟨0, 0, 0⟩ := offZero hp
    subst hst
    simp [readBack, decodeV, accept, hwf, immOf, immZ, Imm.extNat, noOff, Except.toOption, f0, f1, f2, f3, f4, f5, f6, f7, f8, f9]
  · obtain ⟨w, hw⟩ : ∃ w, w = encVR 0x22 ⟨true, h_g, h_k, h_m, h_st⟩ ⟨o_d, o_a, o_b, o_c, o_ty, o_mod⟩ := ⟨_, rfl⟩
    refine .of (n := 48) (w := w) (k := 2) (e := 0) (by rw [hw]; rfl) rfl rfl fun hwf hp => ?_
    obtain ⟨lt, f0, f1, f2, f3, f4, f5, f6, f7, f8, f9⟩ := vrFields (by decide) hw
    refine ⟨lt, ?_⟩
    have hst : h_st = ⟨0, 0, 0⟩ := offZero hp
    subst hst
    simp [readBack, decodeV, accept, hwf, immOf, immZ, Imm.extNat, noOff, Except.toOption, f0, f1, f2, f3, f4, f5, f6, f7, f8, f9]

theorem RoundTrip.wlog (h : VHead) (o : VR) : RoundTrip.Statement (.wlog h o) := by
  obtain ⟨h_slot, h_g, h_k, h_m, h_st⟩ := h
  obtain ⟨o_d, o_a, o_b, o_c, o_ty, o_mod⟩ := o
  cases h_slot
  · obtain ⟨w, hw⟩ : ∃ w, w = encVR 0x23 ⟨false, h_g, h_k, h_m, h_st⟩ ⟨o_d, o_a, o_b, o_c, o_ty, o_mod⟩ := ⟨_, rfl⟩
    refine .of (n := 48) (w := w) (k := 1) (e := 0) (by rw [hw]; rfl) rfl rfl fun hwf hp => ?_
    obtain ⟨lt, f0, f1, f2, f3, f4, f5, f6, f7, f8, f9⟩ := vrFields (by decide) hw
    refine ⟨lt, ?_⟩
    have hst : h_st = ⟨0, 0, 0⟩ := offZero hp
    subst hst
    simp [readBack, decodeV, accept, hwf, immOf, immZ, Imm.extNat, noOff, Except.toOption, f0, f1, f2, f3, f4, f5, f6, f7, f8, f9]
  · obtain ⟨w, hw⟩ : ∃ w, w = encVR 0x23 ⟨true, h_g, h_k, h_m, h_st⟩ ⟨o_d, o_a, o_b, o_c, o_ty, o_mod⟩ := ⟨_, rfl⟩
    refine .of (n := 48) (w := w) (k := 2) (e := 0) (by rw [hw]; rfl) rfl rfl fun hwf hp => ?_
    obtain ⟨lt, f0, f1, f2, f3, f4, f5, f6, f7, f8, f9⟩ := vrFields (by decide) hw
    refine ⟨lt, ?_⟩
    have hst : h_st = ⟨0, 0, 0⟩ := offZero hp
    subst hst
    simp [readBack, decodeV, accept, hwf, immOf, immZ, Imm.extNat, noOff, Except.toOption, f0, f1, f2, f3, f4, f5, f6, f7, f8, f9]

theorem RoundTrip.wcnt (h : VHead) (o : VR) : RoundTrip.Statement (.wcnt h o) := by
  obtain ⟨h_slot, h_g, h_k, h_m, h_st⟩ := h
  obtain ⟨o_d, o_a, o_b, o_c, o_ty, o_mod⟩ := o
  cases h_slot
  · obtain ⟨w, hw⟩ : ∃ w, w = encVR 0x24 ⟨false, h_g, h_k, h_m, h_st⟩ ⟨o_d, o_a, o_b, o_c, o_ty, o_mod⟩ := ⟨_, rfl⟩
    refine .of (n := 48) (w := w) (k := 1) (e := 0) (by rw [hw]; rfl) rfl rfl fun hwf hp => ?_
    obtain ⟨lt, f0, f1, f2, f3, f4, f5, f6, f7, f8, f9⟩ := vrFields (by decide) hw
    refine ⟨lt, ?_⟩
    have hst : h_st = ⟨0, 0, 0⟩ := offZero hp
    subst hst
    simp [readBack, decodeV, accept, hwf, immOf, immZ, Imm.extNat, noOff, Except.toOption, f0, f1, f2, f3, f4, f5, f6, f7, f8, f9]
  · obtain ⟨w, hw⟩ : ∃ w, w = encVR 0x24 ⟨true, h_g, h_k, h_m, h_st⟩ ⟨o_d, o_a, o_b, o_c, o_ty, o_mod⟩ := ⟨_, rfl⟩
    refine .of (n := 48) (w := w) (k := 2) (e := 0) (by rw [hw]; rfl) rfl rfl fun hwf hp => ?_
    obtain ⟨lt, f0, f1, f2, f3, f4, f5, f6, f7, f8, f9⟩ := vrFields (by decide) hw
    refine ⟨lt, ?_⟩
    have hst : h_st = ⟨0, 0, 0⟩ := offZero hp
    subst hst
    simp [readBack, decodeV, accept, hwf, immOf, immZ, Imm.extNat, noOff, Except.toOption, f0, f1, f2, f3, f4, f5, f6, f7, f8, f9]

theorem RoundTrip.vbits (h : VHead) (o : VR) : RoundTrip.Statement (.vbits h o) := by
  obtain ⟨h_slot, h_g, h_k, h_m, h_st⟩ := h
  obtain ⟨o_d, o_a, o_b, o_c, o_ty, o_mod⟩ := o
  cases h_slot
  · obtain ⟨w, hw⟩ : ∃ w, w = encVR 0x1f ⟨false, h_g, h_k, h_m, h_st⟩ ⟨o_d, o_a, o_b, o_c, o_ty, o_mod⟩ := ⟨_, rfl⟩
    refine .of (n := 48) (w := w) (k := 1) (e := 0) (by rw [hw]; rfl) rfl rfl fun hwf hp => ?_
    obtain ⟨lt, f0, f1, f2, f3, f4, f5, f6, f7, f8, f9⟩ := vrFields (by decide) hw
    refine ⟨lt, ?_⟩
    have hst : h_st = ⟨0, 0, 0⟩ := offZero hp
    subst hst
    simp [readBack, decodeV, accept, hwf, immOf, immZ, Imm.extNat, noOff, Except.toOption, f0, f1, f2, f3, f4, f5, f6, f7, f8, f9]
  · obtain ⟨w, hw⟩ : ∃ w, w = encVR 0x1f ⟨true, h_g, h_k, h_m, h_st⟩ ⟨o_d, o_a, o_b, o_c, o_ty, o_mod⟩ := ⟨_, rfl⟩
    refine .of (n := 48) (w := w) (k := 2) (e := 0) (by rw [hw]; rfl) rfl rfl fun hwf hp => ?_
    obtain ⟨lt, f0, f1, f2, f3, f4, f5, f6, f7, f8, f9⟩ := vrFields (by decide) hw
    refine ⟨lt, ?_⟩
    have hst : h_st = ⟨0, 0, 0⟩ := offZero hp
    subst hst
    simp [readBack, decodeV, accept, hwf, immOf, immZ, Imm.extNat, noOff, Except.toOption, f0, f1, f2, f3, f4, f5, f6, f7, f8, f9]

theorem RoundTrip.vrsum (h : VHead) (o : VR) : RoundTrip.Statement (.vrsum h o) := by
  obtain ⟨h_slot, h_g, h_k, h_m, h_st⟩ := h
  obtain ⟨o_d, o_a, o_b, o_c, o_ty, o_mod⟩ := o
  cases h_slot
  · obtain ⟨w, hw⟩ : ∃ w, w = encVR 0x25 ⟨false, h_g, h_k, h_m, h_st⟩ ⟨o_d, o_a, o_b, o_c, o_ty, o_mod⟩ := ⟨_, rfl⟩
    refine .of (n := 48) (w := w) (k := 1) (e := 0) (by rw [hw]; rfl) rfl rfl fun hwf hp => ?_
    obtain ⟨lt, f0, f1, f2, f3, f4, f5, f6, f7, f8, f9⟩ := vrFields (by decide) hw
    refine ⟨lt, ?_⟩
    have hst : h_st = ⟨0, 0, 0⟩ := offZero hp
    subst hst
    simp [readBack, decodeV, accept, hwf, immOf, immZ, Imm.extNat, noOff, Except.toOption, f0, f1, f2, f3, f4, f5, f6, f7, f8, f9]
  · obtain ⟨w, hw⟩ : ∃ w, w = encVR 0x25 ⟨true, h_g, h_k, h_m, h_st⟩ ⟨o_d, o_a, o_b, o_c, o_ty, o_mod⟩ := ⟨_, rfl⟩
    refine .of (n := 48) (w := w) (k := 2) (e := 0) (by rw [hw]; rfl) rfl rfl fun hwf hp => ?_
    obtain ⟨lt, f0, f1, f2, f3, f4, f5, f6, f7, f8, f9⟩ := vrFields (by decide) hw
    refine ⟨lt, ?_⟩
    have hst : h_st = ⟨0, 0, 0⟩ := offZero hp
    subst hst
    simp [readBack, decodeV, accept, hwf, immOf, immZ, Imm.extNat, noOff, Except.toOption, f0, f1, f2, f3, f4, f5, f6, f7, f8, f9]

theorem RoundTrip.vrmax (h : VHead) (o : VR) : RoundTrip.Statement (.vrmax h o) := by
  obtain ⟨h_slot, h_g, h_k, h_m, h_st⟩ := h
  obtain ⟨o_d, o_a, o_b, o_c, o_ty, o_mod⟩ := o
  cases h_slot
  · obtain ⟨w, hw⟩ : ∃ w, w = encVR 0x26 ⟨false, h_g, h_k, h_m, h_st⟩ ⟨o_d, o_a, o_b, o_c, o_ty, o_mod⟩ := ⟨_, rfl⟩
    refine .of (n := 48) (w := w) (k := 1) (e := 0) (by rw [hw]; rfl) rfl rfl fun hwf hp => ?_
    obtain ⟨lt, f0, f1, f2, f3, f4, f5, f6, f7, f8, f9⟩ := vrFields (by decide) hw
    refine ⟨lt, ?_⟩
    have hst : h_st = ⟨0, 0, 0⟩ := offZero hp
    subst hst
    simp [readBack, decodeV, accept, hwf, immOf, immZ, Imm.extNat, noOff, Except.toOption, f0, f1, f2, f3, f4, f5, f6, f7, f8, f9]
  · obtain ⟨w, hw⟩ : ∃ w, w = encVR 0x26 ⟨true, h_g, h_k, h_m, h_st⟩ ⟨o_d, o_a, o_b, o_c, o_ty, o_mod⟩ := ⟨_, rfl⟩
    refine .of (n := 48) (w := w) (k := 2) (e := 0) (by rw [hw]; rfl) rfl rfl fun hwf hp => ?_
    obtain ⟨lt, f0, f1, f2, f3, f4, f5, f6, f7, f8, f9⟩ := vrFields (by decide) hw
    refine ⟨lt, ?_⟩
    have hst : h_st = ⟨0, 0, 0⟩ := offZero hp
    subst hst
    simp [readBack, decodeV, accept, hwf, immOf, immZ, Imm.extNat, noOff, Except.toOption, f0, f1, f2, f3, f4, f5, f6, f7, f8, f9]

theorem RoundTrip.vperm (h : VHead) (o : VR) : RoundTrip.Statement (.vperm h o) := by
  obtain ⟨h_slot, h_g, h_k, h_m, h_st⟩ := h
  obtain ⟨o_d, o_a, o_b, o_c, o_ty, o_mod⟩ := o
  cases h_slot
  · obtain ⟨w, hw⟩ : ∃ w, w = encVR 0x28 ⟨false, h_g, h_k, h_m, h_st⟩ ⟨o_d, o_a, o_b, o_c, o_ty, o_mod⟩ := ⟨_, rfl⟩
    refine .of (n := 48) (w := w) (k := 1) (e := 0) (by rw [hw]; rfl) rfl rfl fun hwf hp => ?_
    obtain ⟨lt, f0, f1, f2, f3, f4, f5, f6, f7, f8, f9⟩ := vrFields (by decide) hw
    refine ⟨lt, ?_⟩
    have hst : h_st = ⟨0, 0, 0⟩ := offZero hp
    subst hst
    simp [readBack, decodeV, accept, hwf, immOf, immZ, Imm.extNat, noOff, Except.toOption, f0, f1, f2, f3, f4, f5, f6, f7, f8, f9]
  · obtain ⟨w, hw⟩ : ∃ w, w = encVR 0x28 ⟨true, h_g, h_k, h_m, h_st⟩ ⟨o_d, o_a, o_b, o_c, o_ty, o_mod⟩ := ⟨_, rfl⟩
    refine .of (n := 48) (w := w) (k := 2) (e := 0) (by rw [hw]; rfl) rfl rfl fun hwf hp => ?_
    obtain ⟨lt, f0, f1, f2, f3, f4, f5, f6, f7, f8, f9⟩ := vrFields (by decide) hw
    refine ⟨lt, ?_⟩
    have hst : h_st = ⟨0, 0, 0⟩ := offZero hp
    subst hst
    simp [readBack, decodeV, accept, hwf, immOf, immZ, Imm.extNat, noOff, Except.toOption, f0, f1, f2, f3, f4, f5, f6, f7, f8, f9]

theorem RoundTrip.vbcst (h : VHead) (o : VR) : RoundTrip.Statement (.vbcst h o) := by
  obtain ⟨h_slot, h_g, h_k, h_m, h_st⟩ := h
  obtain ⟨o_d, o_a, o_b, o_c, o_ty, o_mod⟩ := o
  cases h_slot
  · obtain ⟨w, hw⟩ : ∃ w, w = encVR 0x29 ⟨false, h_g, h_k, h_m, h_st⟩ ⟨o_d, o_a, o_b, o_c, o_ty, o_mod⟩ := ⟨_, rfl⟩
    refine .of (n := 48) (w := w) (k := 1) (e := 0) (by rw [hw]; rfl) rfl rfl fun hwf hp => ?_
    obtain ⟨lt, f0, f1, f2, f3, f4, f5, f6, f7, f8, f9⟩ := vrFields (by decide) hw
    refine ⟨lt, ?_⟩
    have hst : h_st = ⟨0, 0, 0⟩ := offZero hp
    subst hst
    simp [readBack, decodeV, accept, hwf, immOf, immZ, Imm.extNat, noOff, Except.toOption, f0, f1, f2, f3, f4, f5, f6, f7, f8, f9]
  · obtain ⟨w, hw⟩ : ∃ w, w = encVR 0x29 ⟨true, h_g, h_k, h_m, h_st⟩ ⟨o_d, o_a, o_b, o_c, o_ty, o_mod⟩ := ⟨_, rfl⟩
    refine .of (n := 48) (w := w) (k := 2) (e := 0) (by rw [hw]; rfl) rfl rfl fun hwf hp => ?_
    obtain ⟨lt, f0, f1, f2, f3, f4, f5, f6, f7, f8, f9⟩ := vrFields (by decide) hw
    refine ⟨lt, ?_⟩
    have hst : h_st = ⟨0, 0, 0⟩ := offZero hp
    subst hst
    simp [readBack, decodeV, accept, hwf, immOf, immZ, Imm.extNat, noOff, Except.toOption, f0, f1, f2, f3, f4, f5, f6, f7, f8, f9]

theorem RoundTrip.ard (h : VHead) (o : VA) : RoundTrip.Statement (.ard h o) := by
  obtain ⟨h_slot, h_g, h_k, h_m, h_st⟩ := h
  obtain ⟨o_d, o_bank, o_arow, o_acol, o_ty, o_mod⟩ := o
  cases h_slot
  · have b0 := h_g.isLt
    have b2 := Bool.toNat_le h_k
    have b3 := h_m.isLt
    have b4 := o_d.isLt
    have b5 := o_bank.isLt
    have b6 := o_arow.isLt
    have b7 := o_acol.isLt
    have b8 := o_ty.isLt
    have b9 := o_mod.isLt
    obtain ⟨w, hw⟩ : ∃ w, w = encVA 0x38 ⟨false, h_g, h_k, h_m, h_st⟩ ⟨o_d, o_bank, o_arow, o_acol, o_ty, o_mod⟩ := ⟨_, rfl⟩
    refine .of (n := 48) (w := w) (k := 1) (e := 0) (by rw [hw]; rfl) rfl rfl fun hwf hp => ?_
    try simp only [encSR, encSI, encSHead, encFn, encVR, encVM, encVI, encVA, encVHead, encMHead, encCHead, encCI, encCE, encKR, xShort, xExt, nShort, nExt, zero5, Bool.toNat_false] at hw
    refine ⟨by omega, ?_⟩
    have f0 : fld 5 w 43 = h_g := fld_eq (by omega)
    have f1 : flg w 35 = h_k := flg_eq (by omega)
    have f2 : fld 3 w 32 = h_m := fld_eq (by omega)
    have f3 : fld 6 w 26 = o_d := fld_eq (by omega)
    have f4 : fld 4 w 4 = o_ty := fld_eq (by omega)
    have f5 : fld 4 w 0 = o_mod := fld_eq (by omega)
    have f6 : fld 2 w 24 = o_bank := fld_eq (by omega)
    have f7 : fld 5 w 19 = o_arow := fld_eq (by omega)
    have f8 : fld 8 w 11 = o_acol := fld_eq (by omega)
    have f9 : num 7 w 36 = 56 := by simp only [num]; omega
    have fr : num 3 w 8 = 0 := by simp only [num]; omega
    have hst : h_st = ⟨0, 0, 0⟩ := offZero hp
    subst hst
    simp [readBack, decodeV, accept, hwf, immOf, immZ, Imm.extNat, noOff, Except.toOption, fr, f0, f1, f2, f3, f4, f5, f6, f7, f8, f9]
  · have b0 := h_g.isLt
    have b2 := Bool.toNat_le h_k
    have b3 := h_m.isLt
    have b4 := o_d.isLt
    have b5 := o_bank.isLt
    have b6 := o_arow.isLt
    have b7 := o_acol.isLt
    have b8 := o_ty.isLt
    have b9 := o_mod.isLt
    obtain ⟨w, hw⟩ : ∃ w, w = encVA 0x38 ⟨true, h_g, h_k, h_m, h_st⟩ ⟨o_d, o_bank, o_arow, o_acol, o_ty, o_mod⟩ := ⟨_, rfl⟩
    refine .of (n := 48) (w := w) (k := 2) (e := 0) (by rw [hw]; rfl) rfl rfl fun hwf hp => ?_
    try simp only [encSR, encSI, encSHead, encFn, encVR, encVM, encVI, encVA, encVHead, encMHead, encCHead, encCI, encCE, encKR, xShort, xExt, nShort, nExt, zero5, Bool.toNat_false] at hw
    refine ⟨by omega, ?_⟩
    have f0 : fld 5 w 43 = h_g := fld_eq (by omega)
    have f1 : flg w 35 = h_k := flg_eq (by omega)
    have f2 : fld 3 w 32 = h_m := fld_eq (by omega)
    have f3 : fld 6 w 26 = o_d := fld_eq (by omega)
    have f4 : fld 4 w 4 = o_ty := fld_eq (by omega)
    have f5 : fld 4 w 0 = o_mod := fld_eq (by omega)
    have f6 : fld 2 w 24 = o_bank := fld_eq (by omega)
    have f7 : fld 5 w 19 = o_arow := fld_eq (by omega)
    have f8 : fld 8 w 11 = o_acol := fld_eq (by omega)
    have f9 : num 7 w 36 = 56 := by simp only [num]; omega
    have fr : num 3 w 8 = 0 := by simp only [num]; omega
    have hst : h_st = ⟨0, 0, 0⟩ := offZero hp
    subst hst
    simp [readBack, decodeV, accept, hwf, immOf, immZ, Imm.extNat, noOff, Except.toOption, fr, f0, f1, f2, f3, f4, f5, f6, f7, f8, f9]

theorem RoundTrip.awr (h : VHead) (o : VA) : RoundTrip.Statement (.awr h o) := by
  obtain ⟨h_slot, h_g, h_k, h_m, h_st⟩ := h
  obtain ⟨o_d, o_bank, o_arow, o_acol, o_ty, o_mod⟩ := o
  cases h_slot
  · have b0 := h_g.isLt
    have b2 := Bool.toNat_le h_k
    have b3 := h_m.isLt
    have b4 := o_d.isLt
    have b5 := o_bank.isLt
    have b6 := o_arow.isLt
    have b7 := o_acol.isLt
    have b8 := o_ty.isLt
    have b9 := o_mod.isLt
    obtain ⟨w, hw⟩ : ∃ w, w = encVA 0x39 ⟨false, h_g, h_k, h_m, h_st⟩ ⟨o_d, o_bank, o_arow, o_acol, o_ty, o_mod⟩ := ⟨_, rfl⟩
    refine .of (n := 48) (w := w) (k := 1) (e := 0) (by rw [hw]; rfl) rfl rfl fun hwf hp => ?_
    try simp only [encSR, encSI, encSHead, encFn, encVR, encVM, encVI, encVA, encVHead, encMHead, encCHead, encCI, encCE, encKR, xShort, xExt, nShort, nExt, zero5, Bool.toNat_false] at hw
    refine ⟨by omega, ?_⟩
    have f0 : fld 5 w 43 = h_g := fld_eq (by omega)
    have f1 : flg w 35 = h_k := flg_eq (by omega)
    have f2 : fld 3 w 32 = h_m := fld_eq (by omega)
    have f3 : fld 6 w 26 = o_d := fld_eq (by omega)
    have f4 : fld 4 w 4 = o_ty := fld_eq (by omega)
    have f5 : fld 4 w 0 = o_mod := fld_eq (by omega)
    have f6 : fld 2 w 24 = o_bank := fld_eq (by omega)
    have f7 : fld 5 w 19 = o_arow := fld_eq (by omega)
    have f8 : fld 8 w 11 = o_acol := fld_eq (by omega)
    have f9 : num 7 w 36 = 57 := by simp only [num]; omega
    have fr : num 3 w 8 = 0 := by simp only [num]; omega
    have hst : h_st = ⟨0, 0, 0⟩ := offZero hp
    subst hst
    simp [readBack, decodeV, accept, hwf, immOf, immZ, Imm.extNat, noOff, Except.toOption, fr, f0, f1, f2, f3, f4, f5, f6, f7, f8, f9]
  · have b0 := h_g.isLt
    have b2 := Bool.toNat_le h_k
    have b3 := h_m.isLt
    have b4 := o_d.isLt
    have b5 := o_bank.isLt
    have b6 := o_arow.isLt
    have b7 := o_acol.isLt
    have b8 := o_ty.isLt
    have b9 := o_mod.isLt
    obtain ⟨w, hw⟩ : ∃ w, w = encVA 0x39 ⟨true, h_g, h_k, h_m, h_st⟩ ⟨o_d, o_bank, o_arow, o_acol, o_ty, o_mod⟩ := ⟨_, rfl⟩
    refine .of (n := 48) (w := w) (k := 2) (e := 0) (by rw [hw]; rfl) rfl rfl fun hwf hp => ?_
    try simp only [encSR, encSI, encSHead, encFn, encVR, encVM, encVI, encVA, encVHead, encMHead, encCHead, encCI, encCE, encKR, xShort, xExt, nShort, nExt, zero5, Bool.toNat_false] at hw
    refine ⟨by omega, ?_⟩
    have f0 : fld 5 w 43 = h_g := fld_eq (by omega)
    have f1 : flg w 35 = h_k := flg_eq (by omega)
    have f2 : fld 3 w 32 = h_m := fld_eq (by omega)
    have f3 : fld 6 w 26 = o_d := fld_eq (by omega)
    have f4 : fld 4 w 4 = o_ty := fld_eq (by omega)
    have f5 : fld 4 w 0 = o_mod := fld_eq (by omega)
    have f6 : fld 2 w 24 = o_bank := fld_eq (by omega)
    have f7 : fld 5 w 19 = o_arow := fld_eq (by omega)
    have f8 : fld 8 w 11 = o_acol := fld_eq (by omega)
    have f9 : num 7 w 36 = 57 := by simp only [num]; omega
    have fr : num 3 w 8 = 0 := by simp only [num]; omega
    have hst : h_st = ⟨0, 0, 0⟩ := offZero hp
    subst hst
    simp [readBack, decodeV, accept, hwf, immOf, immZ, Imm.extNat, noOff, Except.toOption, fr, f0, f1, f2, f3, f4, f5, f6, f7, f8, f9]

theorem RoundTrip.zld (h : VHead) (d : BitVec 6) (z : BitVec 9) : RoundTrip.Statement (.zld h d z) := by
  obtain ⟨h_slot, h_g, h_k, h_m, h_st⟩ := h
  cases h_slot
  · have b0 := h_g.isLt
    have b2 := Bool.toNat_le h_k
    have b3 := h_m.isLt
    have b4 := d.isLt
    have b5 := z.isLt
    obtain ⟨w, hw⟩ : ∃ w, w = encVHead ⟨false, h_g, h_k, h_m, h_st⟩ 0x3A + d.toNat * 2 ^ 26 + z.toNat * 2 ^ 17 := ⟨_, rfl⟩
    refine .of (n := 48) (w := w) (k := 1) (e := 0) (by rw [hw]; rfl) rfl rfl fun hwf hp => ?_
    try simp only [encSR, encSI, encSHead, encFn, encVR, encVM, encVI, encVA, encVHead, encMHead, encCHead, encCI, encCE, encKR, xShort, xExt, nShort, nExt, zero5, Bool.toNat_false] at hw
    refine ⟨by omega, ?_⟩
    have f0 : fld 5 w 43 = h_g := fld_eq (by omega)
    have f1 : flg w 35 = h_k := flg_eq (by omega)
    have f2 : fld 3 w 32 = h_m := fld_eq (by omega)
    have f3 : fld 6 w 26 = d := fld_eq (by omega)
    have f4 : fld 6 w 8 = 0 := fld_eq (by simp; omega)
    have f5 : fld 4 w 4 = 0 := fld_eq (by simp; omega)
    have f6 : fld 4 w 0 = 0 := fld_eq (by simp; omega)
    have f7 : fld 3 w 4 = 0 := fld_eq (by simp; omega)
    have f8 : fld 3 w 0 = 0 := fld_eq (by simp; omega)
    have f9 : flg w 3 = false := flg_eq (by simp; omega)
    have f10 : num 17 w 0 = 0 := by simp only [num]; omega
    have f11 : fld 9 w 17 = z := fld_eq (by omega)
    have f12 : num 7 w 36 = 58 := by simp only [num]; omega
    have hst : h_st = ⟨0, 0, 0⟩ := offZero hp
    subst hst
    simp [readBack, decodeV, accept, hwf, immOf, immZ, Imm.extNat, noOff, Except.toOption, f0, f1, f2, f3, f4, f5, f6, f7, f8, f9, f10, f11, f12]
  · have b0 := h_g.isLt
    have b2 := Bool.toNat_le h_k
    have b3 := h_m.isLt
    have b4 := d.isLt
    have b5 := z.isLt
    obtain ⟨w, hw⟩ : ∃ w, w = encVHead ⟨true, h_g, h_k, h_m, h_st⟩ 0x3A + d.toNat * 2 ^ 26 + z.toNat * 2 ^ 17 := ⟨_, rfl⟩
    refine .of (n := 48) (w := w) (k := 2) (e := 0) (by rw [hw]; rfl) rfl rfl fun hwf hp => ?_
    try simp only [encSR, encSI, encSHead, encFn, encVR, encVM, encVI, encVA, encVHead, encMHead, encCHead, encCI, encCE, encKR, xShort, xExt, nShort, nExt, zero5, Bool.toNat_false] at hw
    refine ⟨by omega, ?_⟩
    have f0 : fld 5 w 43 = h_g := fld_eq (by omega)
    have f1 : flg w 35 = h_k := flg_eq (by omega)
    have f2 : fld 3 w 32 = h_m := fld_eq (by omega)
    have f3 : fld 6 w 26 = d := fld_eq (by omega)
    have f4 : fld 6 w 8 = 0 := fld_eq (by simp; omega)
    have f5 : fld 4 w 4 = 0 := fld_eq (by simp; omega)
    have f6 : fld 4 w 0 = 0 := fld_eq (by simp; omega)
    have f7 : fld 3 w 4 = 0 := fld_eq (by simp; omega)
    have f8 : fld 3 w 0 = 0 := fld_eq (by simp; omega)
    have f9 : flg w 3 = false := flg_eq (by simp; omega)
    have f10 : num 17 w 0 = 0 := by simp only [num]; omega
    have f11 : fld 9 w 17 = z := fld_eq (by omega)
    have f12 : num 7 w 36 = 58 := by simp only [num]; omega
    have hst : h_st = ⟨0, 0, 0⟩ := offZero hp
    subst hst
    simp [readBack, decodeV, accept, hwf, immOf, immZ, Imm.extNat, noOff, Except.toOption, f0, f1, f2, f3, f4, f5, f6, f7, f8, f9, f10, f11, f12]

theorem RoundTrip.zst (h : VHead) (d : BitVec 6) (z : BitVec 9) : RoundTrip.Statement (.zst h d z) := by
  obtain ⟨h_slot, h_g, h_k, h_m, h_st⟩ := h
  cases h_slot
  · have b0 := h_g.isLt
    have b2 := Bool.toNat_le h_k
    have b3 := h_m.isLt
    have b4 := d.isLt
    have b5 := z.isLt
    obtain ⟨w, hw⟩ : ∃ w, w = encVHead ⟨false, h_g, h_k, h_m, h_st⟩ 0x3B + d.toNat * 2 ^ 26 + z.toNat * 2 ^ 17 := ⟨_, rfl⟩
    refine .of (n := 48) (w := w) (k := 1) (e := 0) (by rw [hw]; rfl) rfl rfl fun hwf hp => ?_
    try simp only [encSR, encSI, encSHead, encFn, encVR, encVM, encVI, encVA, encVHead, encMHead, encCHead, encCI, encCE, encKR, xShort, xExt, nShort, nExt, zero5, Bool.toNat_false] at hw
    refine ⟨by omega, ?_⟩
    have f0 : fld 5 w 43 = h_g := fld_eq (by omega)
    have f1 : flg w 35 = h_k := flg_eq (by omega)
    have f2 : fld 3 w 32 = h_m := fld_eq (by omega)
    have f3 : fld 6 w 26 = d := fld_eq (by omega)
    have f4 : fld 6 w 8 = 0 := fld_eq (by simp; omega)
    have f5 : fld 4 w 4 = 0 := fld_eq (by simp; omega)
    have f6 : fld 4 w 0 = 0 := fld_eq (by simp; omega)
    have f7 : fld 3 w 4 = 0 := fld_eq (by simp; omega)
    have f8 : fld 3 w 0 = 0 := fld_eq (by simp; omega)
    have f9 : flg w 3 = false := flg_eq (by simp; omega)
    have f10 : num 17 w 0 = 0 := by simp only [num]; omega
    have f11 : fld 9 w 17 = z := fld_eq (by omega)
    have f12 : num 7 w 36 = 59 := by simp only [num]; omega
    have hst : h_st = ⟨0, 0, 0⟩ := offZero hp
    subst hst
    simp [readBack, decodeV, accept, hwf, immOf, immZ, Imm.extNat, noOff, Except.toOption, f0, f1, f2, f3, f4, f5, f6, f7, f8, f9, f10, f11, f12]
  · have b0 := h_g.isLt
    have b2 := Bool.toNat_le h_k
    have b3 := h_m.isLt
    have b4 := d.isLt
    have b5 := z.isLt
    obtain ⟨w, hw⟩ : ∃ w, w = encVHead ⟨true, h_g, h_k, h_m, h_st⟩ 0x3B + d.toNat * 2 ^ 26 + z.toNat * 2 ^ 17 := ⟨_, rfl⟩
    refine .of (n := 48) (w := w) (k := 2) (e := 0) (by rw [hw]; rfl) rfl rfl fun hwf hp => ?_
    try simp only [encSR, encSI, encSHead, encFn, encVR, encVM, encVI, encVA, encVHead, encMHead, encCHead, encCI, encCE, encKR, xShort, xExt, nShort, nExt, zero5, Bool.toNat_false] at hw
    refine ⟨by omega, ?_⟩
    have f0 : fld 5 w 43 = h_g := fld_eq (by omega)
    have f1 : flg w 35 = h_k := flg_eq (by omega)
    have f2 : fld 3 w 32 = h_m := fld_eq (by omega)
    have f3 : fld 6 w 26 = d := fld_eq (by omega)
    have f4 : fld 6 w 8 = 0 := fld_eq (by simp; omega)
    have f5 : fld 4 w 4 = 0 := fld_eq (by simp; omega)
    have f6 : fld 4 w 0 = 0 := fld_eq (by simp; omega)
    have f7 : fld 3 w 4 = 0 := fld_eq (by simp; omega)
    have f8 : fld 3 w 0 = 0 := fld_eq (by simp; omega)
    have f9 : flg w 3 = false := flg_eq (by simp; omega)
    have f10 : num 17 w 0 = 0 := by simp only [num]; omega
    have f11 : fld 9 w 17 = z := fld_eq (by omega)
    have f12 : num 7 w 36 = 59 := by simp only [num]; omega
    have hst : h_st = ⟨0, 0, 0⟩ := offZero hp
    subst hst
    simp [readBack, decodeV, accept, hwf, immOf, immZ, Imm.extNat, noOff, Except.toOption, f0, f1, f2, f3, f4, f5, f6, f7, f8, f9, f10, f11, f12]

theorem RoundTrip.vbmax (h : VHead) (o : VR) : RoundTrip.Statement (.vbmax h o) := by
  obtain ⟨h_slot, h_g, h_k, h_m, h_st⟩ := h
  obtain ⟨o_d, o_a, o_b, o_c, o_ty, o_mod⟩ := o
  cases h_slot
  · obtain ⟨w, hw⟩ : ∃ w, w = encVR 0x30 ⟨false, h_g, h_k, h_m, h_st⟩ ⟨o_d, o_a, o_b, o_c, o_ty, o_mod⟩ := ⟨_, rfl⟩
    refine .of (n := 48) (w := w) (k := 1) (e := 0) (by rw [hw]; rfl) rfl rfl fun hwf hp => ?_
    obtain ⟨lt, f0, f1, f2, f3, f4, f5, f6, f7, f8, f9⟩ := vrFields (by decide) hw
    refine ⟨lt, ?_⟩
    have hst : h_st = ⟨0, 0, 0⟩ := offZero hp
    subst hst
    simp [readBack, decodeV, accept, hwf, immOf, immZ, Imm.extNat, noOff, Except.toOption, f0, f1, f2, f3, f4, f5, f6, f7, f8, f9]
  · obtain ⟨w, hw⟩ : ∃ w, w = encVR 0x30 ⟨true, h_g, h_k, h_m, h_st⟩ ⟨o_d, o_a, o_b, o_c, o_ty, o_mod⟩ := ⟨_, rfl⟩
    refine .of (n := 48) (w := w) (k := 2) (e := 0) (by rw [hw]; rfl) rfl rfl fun hwf hp => ?_
    obtain ⟨lt, f0, f1, f2, f3, f4, f5, f6, f7, f8, f9⟩ := vrFields (by decide) hw
    refine ⟨lt, ?_⟩
    have hst : h_st = ⟨0, 0, 0⟩ := offZero hp
    subst hst
    simp [readBack, decodeV, accept, hwf, immOf, immZ, Imm.extNat, noOff, Except.toOption, f0, f1, f2, f3, f4, f5, f6, f7, f8, f9]

theorem RoundTrip.vqsx (h : VHead) (o : VR) : RoundTrip.Statement (.vqsx h o) := by
  obtain ⟨h_slot, h_g, h_k, h_m, h_st⟩ := h
  obtain ⟨o_d, o_a, o_b, o_c, o_ty, o_mod⟩ := o
  cases h_slot
  · obtain ⟨w, hw⟩ : ∃ w, w = encVR 0x31 ⟨false, h_g, h_k, h_m, h_st⟩ ⟨o_d, o_a, o_b, o_c, o_ty, o_mod⟩ := ⟨_, rfl⟩
    refine .of (n := 48) (w := w) (k := 1) (e := 0) (by rw [hw]; rfl) rfl rfl fun hwf hp => ?_
    obtain ⟨lt, f0, f1, f2, f3, f4, f5, f6, f7, f8, f9⟩ := vrFields (by decide) hw
    refine ⟨lt, ?_⟩
    have hst : h_st = ⟨0, 0, 0⟩ := offZero hp
    subst hst
    simp [readBack, decodeV, accept, hwf, immOf, immZ, Imm.extNat, noOff, Except.toOption, f0, f1, f2, f3, f4, f5, f6, f7, f8, f9]
  · obtain ⟨w, hw⟩ : ∃ w, w = encVR 0x31 ⟨true, h_g, h_k, h_m, h_st⟩ ⟨o_d, o_a, o_b, o_c, o_ty, o_mod⟩ := ⟨_, rfl⟩
    refine .of (n := 48) (w := w) (k := 2) (e := 0) (by rw [hw]; rfl) rfl rfl fun hwf hp => ?_
    obtain ⟨lt, f0, f1, f2, f3, f4, f5, f6, f7, f8, f9⟩ := vrFields (by decide) hw
    refine ⟨lt, ?_⟩
    have hst : h_st = ⟨0, 0, 0⟩ := offZero hp
    subst hst
    simp [readBack, decodeV, accept, hwf, immOf, immZ, Imm.extNat, noOff, Except.toOption, f0, f1, f2, f3, f4, f5, f6, f7, f8, f9]

theorem RoundTrip.vdqsx (h : VHead) (o : VR) : RoundTrip.Statement (.vdqsx h o) := by
  obtain ⟨h_slot, h_g, h_k, h_m, h_st⟩ := h
  obtain ⟨o_d, o_a, o_b, o_c, o_ty, o_mod⟩ := o
  cases h_slot
  · obtain ⟨w, hw⟩ : ∃ w, w = encVR 0x32 ⟨false, h_g, h_k, h_m, h_st⟩ ⟨o_d, o_a, o_b, o_c, o_ty, o_mod⟩ := ⟨_, rfl⟩
    refine .of (n := 48) (w := w) (k := 1) (e := 0) (by rw [hw]; rfl) rfl rfl fun hwf hp => ?_
    obtain ⟨lt, f0, f1, f2, f3, f4, f5, f6, f7, f8, f9⟩ := vrFields (by decide) hw
    refine ⟨lt, ?_⟩
    have hst : h_st = ⟨0, 0, 0⟩ := offZero hp
    subst hst
    simp [readBack, decodeV, accept, hwf, immOf, immZ, Imm.extNat, noOff, Except.toOption, f0, f1, f2, f3, f4, f5, f6, f7, f8, f9]
  · obtain ⟨w, hw⟩ : ∃ w, w = encVR 0x32 ⟨true, h_g, h_k, h_m, h_st⟩ ⟨o_d, o_a, o_b, o_c, o_ty, o_mod⟩ := ⟨_, rfl⟩
    refine .of (n := 48) (w := w) (k := 2) (e := 0) (by rw [hw]; rfl) rfl rfl fun hwf hp => ?_
    obtain ⟨lt, f0, f1, f2, f3, f4, f5, f6, f7, f8, f9⟩ := vrFields (by decide) hw
    refine ⟨lt, ?_⟩
    have hst : h_st = ⟨0, 0, 0⟩ := offZero hp
    subst hst
    simp [readBack, decodeV, accept, hwf, immOf, immZ, Imm.extNat, noOff, Except.toOption, f0, f1, f2, f3, f4, f5, f6, f7, f8, f9]

theorem RoundTrip.vsigp (h : VHead) (o : VR) : RoundTrip.Statement (.vsigp h o) := by
  obtain ⟨h_slot, h_g, h_k, h_m, h_st⟩ := h
  obtain ⟨o_d, o_a, o_b, o_c, o_ty, o_mod⟩ := o
  cases h_slot
  · obtain ⟨w, hw⟩ : ∃ w, w = encVR 0x33 ⟨false, h_g, h_k, h_m, h_st⟩ ⟨o_d, o_a, o_b, o_c, o_ty, o_mod⟩ := ⟨_, rfl⟩
    refine .of (n := 48) (w := w) (k := 1) (e := 0) (by rw [hw]; rfl) rfl rfl fun hwf hp => ?_
    obtain ⟨lt, f0, f1, f2, f3, f4, f5, f6, f7, f8, f9⟩ := vrFields (by decide) hw
    refine ⟨lt, ?_⟩
    have hst : h_st = ⟨0, 0, 0⟩ := offZero hp
    subst hst
    simp [readBack, decodeV, accept, hwf, immOf, immZ, Imm.extNat, noOff, Except.toOption, f0, f1, f2, f3, f4, f5, f6, f7, f8, f9]
  · obtain ⟨w, hw⟩ : ∃ w, w = encVR 0x33 ⟨true, h_g, h_k, h_m, h_st⟩ ⟨o_d, o_a, o_b, o_c, o_ty, o_mod⟩ := ⟨_, rfl⟩
    refine .of (n := 48) (w := w) (k := 2) (e := 0) (by rw [hw]; rfl) rfl rfl fun hwf hp => ?_
    obtain ⟨lt, f0, f1, f2, f3, f4, f5, f6, f7, f8, f9⟩ := vrFields (by decide) hw
    refine ⟨lt, ?_⟩
    have hst : h_st = ⟨0, 0, 0⟩ := offZero hp
    subst hst
    simp [readBack, decodeV, accept, hwf, immOf, immZ, Imm.extNat, noOff, Except.toOption, f0, f1, f2, f3, f4, f5, f6, f7, f8, f9]

theorem RoundTrip.vmaj (h : VHead) (o : VR) : RoundTrip.Statement (.vmaj h o) := by
  obtain ⟨h_slot, h_g, h_k, h_m, h_st⟩ := h
  obtain ⟨o_d, o_a, o_b, o_c, o_ty, o_mod⟩ := o
  cases h_slot
  · obtain ⟨w, hw⟩ : ∃ w, w = encVR 0x34 ⟨false, h_g, h_k, h_m, h_st⟩ ⟨o_d, o_a, o_b, o_c, o_ty, o_mod⟩ := ⟨_, rfl⟩
    refine .of (n := 48) (w := w) (k := 1) (e := 0) (by rw [hw]; rfl) rfl rfl fun hwf hp => ?_
    obtain ⟨lt, f0, f1, f2, f3, f4, f5, f6, f7, f8, f9⟩ := vrFields (by decide) hw
    refine ⟨lt, ?_⟩
    have hst : h_st = ⟨0, 0, 0⟩ := offZero hp
    subst hst
    simp [readBack, decodeV, accept, hwf, immOf, immZ, Imm.extNat, noOff, Except.toOption, f0, f1, f2, f3, f4, f5, f6, f7, f8, f9]
  · obtain ⟨w, hw⟩ : ∃ w, w = encVR 0x34 ⟨true, h_g, h_k, h_m, h_st⟩ ⟨o_d, o_a, o_b, o_c, o_ty, o_mod⟩ := ⟨_, rfl⟩
    refine .of (n := 48) (w := w) (k := 2) (e := 0) (by rw [hw]; rfl) rfl rfl fun hwf hp => ?_
    obtain ⟨lt, f0, f1, f2, f3, f4, f5, f6, f7, f8, f9⟩ := vrFields (by decide) hw
    refine ⟨lt, ?_⟩
    have hst : h_st = ⟨0, 0, 0⟩ := offZero hp
    subst hst
    simp [readBack, decodeV, accept, hwf, immOf, immZ, Imm.extNat, noOff, Except.toOption, f0, f1, f2, f3, f4, f5, f6, f7, f8, f9]

theorem RoundTrip.vosm (h : VHead) (o : VR) : RoundTrip.Statement (.vosm h o) := by
  obtain ⟨h_slot, h_g, h_k, h_m, h_st⟩ := h
  obtain ⟨o_d, o_a, o_b, o_c, o_ty, o_mod⟩ := o
  cases h_slot
  · obtain ⟨w, hw⟩ : ∃ w, w = encVR 0x35 ⟨false, h_g, h_k, h_m, h_st⟩ ⟨o_d, o_a, o_b, o_c, o_ty, o_mod⟩ := ⟨_, rfl⟩
    refine .of (n := 48) (w := w) (k := 1) (e := 0) (by rw [hw]; rfl) rfl rfl fun hwf hp => ?_
    obtain ⟨lt, f0, f1, f2, f3, f4, f5, f6, f7, f8, f9⟩ := vrFields (by decide) hw
    refine ⟨lt, ?_⟩
    have hst : h_st = ⟨0, 0, 0⟩ := offZero hp
    subst hst
    simp [readBack, decodeV, accept, hwf, immOf, immZ, Imm.extNat, noOff, Except.toOption, f0, f1, f2, f3, f4, f5, f6, f7, f8, f9]
  · obtain ⟨w, hw⟩ : ∃ w, w = encVR 0x35 ⟨true, h_g, h_k, h_m, h_st⟩ ⟨o_d, o_a, o_b, o_c, o_ty, o_mod⟩ := ⟨_, rfl⟩
    refine .of (n := 48) (w := w) (k := 2) (e := 0) (by rw [hw]; rfl) rfl rfl fun hwf hp => ?_
    obtain ⟨lt, f0, f1, f2, f3, f4, f5, f6, f7, f8, f9⟩ := vrFields (by decide) hw
    refine ⟨lt, ?_⟩
    have hst : h_st = ⟨0, 0, 0⟩ := offZero hp
    subst hst
    simp [readBack, decodeV, accept, hwf, immOf, immZ, Imm.extNat, noOff, Except.toOption, f0, f1, f2, f3, f4, f5, f6, f7, f8, f9]

theorem RoundTrip.vosf (h : VHead) (o : VR) : RoundTrip.Statement (.vosf h o) := by
  obtain ⟨h_slot, h_g, h_k, h_m, h_st⟩ := h
  obtain ⟨o_d, o_a, o_b, o_c, o_ty, o_mod⟩ := o
  cases h_slot
  · obtain ⟨w, hw⟩ : ∃ w, w = encVR 0x36 ⟨false, h_g, h_k, h_m, h_st⟩ ⟨o_d, o_a, o_b, o_c, o_ty, o_mod⟩ := ⟨_, rfl⟩
    refine .of (n := 48) (w := w) (k := 1) (e := 0) (by rw [hw]; rfl) rfl rfl fun hwf hp => ?_
    obtain ⟨lt, f0, f1, f2, f3, f4, f5, f6, f7, f8, f9⟩ := vrFields (by decide) hw
    refine ⟨lt, ?_⟩
    have hst : h_st = ⟨0, 0, 0⟩ := offZero hp
    subst hst
    simp [readBack, decodeV, accept, hwf, immOf, immZ, Imm.extNat, noOff, Except.toOption, f0, f1, f2, f3, f4, f5, f6, f7, f8, f9]
  · obtain ⟨w, hw⟩ : ∃ w, w = encVR 0x36 ⟨true, h_g, h_k, h_m, h_st⟩ ⟨o_d, o_a, o_b, o_c, o_ty, o_mod⟩ := ⟨_, rfl⟩
    refine .of (n := 48) (w := w) (k := 2) (e := 0) (by rw [hw]; rfl) rfl rfl fun hwf hp => ?_
    obtain ⟨lt, f0, f1, f2, f3, f4, f5, f6, f7, f8, f9⟩ := vrFields (by decide) hw
    refine ⟨lt, ?_⟩
    have hst : h_st = ⟨0, 0, 0⟩ := offZero hp
    subst hst
    simp [readBack, decodeV, accept, hwf, immOf, immZ, Imm.extNat, noOff, Except.toOption, f0, f1, f2, f3, f4, f5, f6, f7, f8, f9]

theorem RoundTrip.vrope (h : VHead) (o : VR) : RoundTrip.Statement (.vrope h o) := by
  obtain ⟨h_slot, h_g, h_k, h_m, h_st⟩ := h
  obtain ⟨o_d, o_a, o_b, o_c, o_ty, o_mod⟩ := o
  cases h_slot
  · obtain ⟨w, hw⟩ : ∃ w, w = encVR 0x14 ⟨false, h_g, h_k, h_m, h_st⟩ ⟨o_d, o_a, o_b, o_c, o_ty, o_mod⟩ := ⟨_, rfl⟩
    refine .of (n := 48) (w := w) (k := 1) (e := 0) (by rw [hw]; rfl) rfl rfl fun hwf hp => ?_
    obtain ⟨lt, f0, f1, f2, f3, f4, f5, f6, f7, f8, f9⟩ := vrFields (by decide) hw
    refine ⟨lt, ?_⟩
    have hst : h_st = ⟨0, 0, 0⟩ := offZero hp
    subst hst
    simp [readBack, decodeV, accept, hwf, immOf, immZ, Imm.extNat, noOff, Except.toOption, f0, f1, f2, f3, f4, f5, f6, f7, f8, f9]
  · obtain ⟨w, hw⟩ : ∃ w, w = encVR 0x14 ⟨true, h_g, h_k, h_m, h_st⟩ ⟨o_d, o_a, o_b, o_c, o_ty, o_mod⟩ := ⟨_, rfl⟩
    refine .of (n := 48) (w := w) (k := 2) (e := 0) (by rw [hw]; rfl) rfl rfl fun hwf hp => ?_
    obtain ⟨lt, f0, f1, f2, f3, f4, f5, f6, f7, f8, f9⟩ := vrFields (by decide) hw
    refine ⟨lt, ?_⟩
    have hst : h_st = ⟨0, 0, 0⟩ := offZero hp
    subst hst
    simp [readBack, decodeV, accept, hwf, immOf, immZ, Imm.extNat, noOff, Except.toOption, f0, f1, f2, f3, f4, f5, f6, f7, f8, f9]

theorem RoundTrip.vrng (h : VHead) (o : VR) : RoundTrip.Statement (.vrng h o) := by
  obtain ⟨h_slot, h_g, h_k, h_m, h_st⟩ := h
  obtain ⟨o_d, o_a, o_b, o_c, o_ty, o_mod⟩ := o
  cases h_slot
  · obtain ⟨w, hw⟩ : ∃ w, w = encVR 0x16 ⟨false, h_g, h_k, h_m, h_st⟩ ⟨o_d, o_a, o_b, o_c, o_ty, o_mod⟩ := ⟨_, rfl⟩
    refine .of (n := 48) (w := w) (k := 1) (e := 0) (by rw [hw]; rfl) rfl rfl fun hwf hp => ?_
    obtain ⟨lt, f0, f1, f2, f3, f4, f5, f6, f7, f8, f9⟩ := vrFields (by decide) hw
    refine ⟨lt, ?_⟩
    have hst : h_st = ⟨0, 0, 0⟩ := offZero hp
    subst hst
    simp [readBack, decodeV, accept, hwf, immOf, immZ, Imm.extNat, noOff, Except.toOption, f0, f1, f2, f3, f4, f5, f6, f7, f8, f9]
  · obtain ⟨w, hw⟩ : ∃ w, w = encVR 0x16 ⟨true, h_g, h_k, h_m, h_st⟩ ⟨o_d, o_a, o_b, o_c, o_ty, o_mod⟩ := ⟨_, rfl⟩
    refine .of (n := 48) (w := w) (k := 2) (e := 0) (by rw [hw]; rfl) rfl rfl fun hwf hp => ?_
    obtain ⟨lt, f0, f1, f2, f3, f4, f5, f6, f7, f8, f9⟩ := vrFields (by decide) hw
    refine ⟨lt, ?_⟩
    have hst : h_st = ⟨0, 0, 0⟩ := offZero hp
    subst hst
    simp [readBack, decodeV, accept, hwf, immOf, immZ, Imm.extNat, noOff, Except.toOption, f0, f1, f2, f3, f4, f5, f6, f7, f8, f9]

theorem RoundTrip.mstat (h : MHead) (tid : BitVec 6) : RoundTrip.Statement (.mstat h tid) := by
  obtain ⟨h_g, h_k, h_st⟩ := h
  have b0 := h_g.isLt
  have b2 := Bool.toNat_le h_k
  have b3 := tid.isLt
  obtain ⟨w, hw⟩ : ∃ w, w = encMHead ⟨h_g, h_k, h_st⟩ 8 + tid.toNat * 2 ^ 33 := ⟨_, rfl⟩
  refine .of (n := 64) (w := w) (k := 3) (e := 0) (by rw [hw]; rfl) rfl rfl fun hwf hp => ?_
  try simp only [encSR, encSI, encSHead, encFn, encVR, encVM, encVI, encVA, encVHead, encMHead, encCHead, encCI, encCE, encKR, xShort, xExt, nShort, nExt, zero5, Bool.toNat_false] at hw
  refine ⟨by omega, ?_⟩
  have f0 : fld 5 w 59 = h_g := fld_eq (by omega)
  have f1 : flg w 52 = h_k := flg_eq (by omega)
  have f2 : fld 6 w 33 = tid := fld_eq (by omega)
  have f3 : fld 9 w 40 = 0 := fld_eq (by simp; omega)
  have f4 : fld 9 w 19 = 0 := fld_eq (by simp; omega)
  have f5 : flg w 51 = false := flg_eq (by simp; omega)
  have f6 : num 12 w 39 = 0 := by simp only [num]; omega
  have f7 : num 33 w 0 = 0 := by simp only [num]; omega
  have f8 : num 6 w 53 = 8 := by simp only [num]; omega
  have hst : h_st = ⟨0, 0, 0⟩ := offZero hp
  subst hst
  simp [readBack, decodeM, accept, hwf, immOf, immZ, Imm.extNat, noOff, Except.toOption, f0, f1, f2, f3, f4, f5, f6, f7, f8]

theorem RoundTrip.mrel (h : MHead) (tid : BitVec 6) (l : BitVec 2) : RoundTrip.Statement (.mrel h tid l) := by
  obtain ⟨h_g, h_k, h_st⟩ := h
  have b0 := h_g.isLt
  have b2 := Bool.toNat_le h_k
  have b3 := tid.isLt
  have b4 := l.isLt
  obtain ⟨w, hw⟩ : ∃ w, w = encMHead ⟨h_g, h_k, h_st⟩ 9 + tid.toNat * 2 ^ 33 + l.toNat * 2 ^ 31 := ⟨_, rfl⟩
  refine .of (n := 64) (w := w) (k := 3) (e := 0) (by rw [hw]; rfl) rfl rfl fun hwf hp => ?_
  try simp only [encSR, encSI, encSHead, encFn, encVR, encVM, encVI, encVA, encVHead, encMHead, encCHead, encCI, encCE, encKR, xShort, xExt, nShort, nExt, zero5, Bool.toNat_false] at hw
  refine ⟨by omega, ?_⟩
  have f0 : fld 5 w 59 = h_g := fld_eq (by omega)
  have f1 : flg w 52 = h_k := flg_eq (by omega)
  have f2 : fld 6 w 33 = tid := fld_eq (by omega)
  have f3 : fld 9 w 40 = 0 := fld_eq (by simp; omega)
  have f4 : fld 9 w 19 = 0 := fld_eq (by simp; omega)
  have f5 : flg w 51 = false := flg_eq (by simp; omega)
  have f6 : num 12 w 39 = 0 := by simp only [num]; omega
  have f7 : num 31 w 0 = 0 := by simp only [num]; omega
  have f8 : fld 2 w 31 = l := fld_eq (by omega)
  have f9 : num 6 w 53 = 9 := by simp only [num]; omega
  have hst : h_st = ⟨0, 0, 0⟩ := offZero hp
  subst hst
  simp [readBack, decodeM, accept, hwf, immOf, immZ, Imm.extNat, noOff, Except.toOption, f0, f1, f2, f3, f4, f5, f6, f7, f8, f9]

theorem RoundTrip.mtld (h : MHead) (t : BitVec 4) (row : BitVec 12) : RoundTrip.Statement (.mtld h t row) := by
  obtain ⟨h_g, h_k, h_st⟩ := h
  have b0 := h_g.isLt
  have b2 := Bool.toNat_le h_k
  have b3 := t.isLt
  have b4 := row.isLt
  obtain ⟨w, hw⟩ : ∃ w, w = encMHead ⟨h_g, h_k, h_st⟩ 0x0A + t.toNat * 2 ^ 39 + row.toNat * 2 ^ 27 := ⟨_, rfl⟩
  refine .of (n := 64) (w := w) (k := 3) (e := 0) (by rw [hw]; rfl) rfl rfl fun hwf hp => ?_
  try simp only [encSR, encSI, encSHead, encFn, encVR, encVM, encVI, encVA, encVHead, encMHead, encCHead, encCI, encCE, encKR, xShort, xExt, nShort, nExt, zero5, Bool.toNat_false] at hw
  refine ⟨by omega, ?_⟩
  have f0 : fld 5 w 59 = h_g := fld_eq (by omega)
  have f1 : flg w 52 = h_k := flg_eq (by omega)
  have f2 : flg w 51 = false := flg_eq (by simp; omega)
  have f3 : num 8 w 43 = 0 := by simp only [num]; omega
  have f4 : num 27 w 0 = 0 := by simp only [num]; omega
  have f5 : fld 4 w 39 = t := fld_eq (by omega)
  have f6 : fld 12 w 27 = row := fld_eq (by omega)
  have f7 : num 6 w 53 = 10 := by simp only [num]; omega
  have hst : h_st = ⟨0, 0, 0⟩ := offZero hp
  subst hst
  simp [readBack, decodeM, accept, hwf, immOf, immZ, Imm.extNat, noOff, Except.toOption, f0, f1, f2, f3, f4, f5, f6, f7]

theorem RoundTrip.mtst (h : MHead) (t : BitVec 4) (row : BitVec 12) : RoundTrip.Statement (.mtst h t row) := by
  obtain ⟨h_g, h_k, h_st⟩ := h
  have b0 := h_g.isLt
  have b2 := Bool.toNat_le h_k
  have b3 := t.isLt
  have b4 := row.isLt
  obtain ⟨w, hw⟩ : ∃ w, w = encMHead ⟨h_g, h_k, h_st⟩ 0x0B + t.toNat * 2 ^ 39 + row.toNat * 2 ^ 27 := ⟨_, rfl⟩
  refine .of (n := 64) (w := w) (k := 3) (e := 0) (by rw [hw]; rfl) rfl rfl fun hwf hp => ?_
  try simp only [encSR, encSI, encSHead, encFn, encVR, encVM, encVI, encVA, encVHead, encMHead, encCHead, encCI, encCE, encKR, xShort, xExt, nShort, nExt, zero5, Bool.toNat_false] at hw
  refine ⟨by omega, ?_⟩
  have f0 : fld 5 w 59 = h_g := fld_eq (by omega)
  have f1 : flg w 52 = h_k := flg_eq (by omega)
  have f2 : flg w 51 = false := flg_eq (by simp; omega)
  have f3 : num 8 w 43 = 0 := by simp only [num]; omega
  have f4 : num 27 w 0 = 0 := by simp only [num]; omega
  have f5 : fld 4 w 39 = t := fld_eq (by omega)
  have f6 : fld 12 w 27 = row := fld_eq (by omega)
  have f7 : num 6 w 53 = 11 := by simp only [num]; omega
  have hst : h_st = ⟨0, 0, 0⟩ := offZero hp
  subst hst
  simp [readBack, decodeM, accept, hwf, immOf, immZ, Imm.extNat, noOff, Except.toOption, f0, f1, f2, f3, f4, f5, f6, f7]

theorem RoundTrip.mmul (h : MHead) (acc : Bool) (ck : Bool) (fmt : BitVec 3) (bank : BitVec 3) (t : BitVec 4) (tid : BitVec 6) (k0 : BitVec 16) (n0 : BitVec 16) : RoundTrip.Statement (.mmul h acc ck fmt bank t tid k0 n0) := by
  obtain ⟨h_g, h_k, h_st⟩ := h
  have b0 := h_g.isLt
  have b2 := Bool.toNat_le h_k
  have b3 := Bool.toNat_le acc
  have b4 := Bool.toNat_le ck
  have b5 := fmt.isLt
  have b6 := bank.isLt
  have b7 := t.isLt
  have b8 := tid.isLt
  have b9 := k0.isLt
  have b10 := n0.isLt
  obtain ⟨w, hw⟩ : ∃ w, w = encMHead ⟨h_g, h_k, h_st⟩ 0x0C + acc.toNat * 2 ^ 50 + ck.toNat * 2 ^ 49 + fmt.toNat * 2 ^ 46 + bank.toNat * 2 ^ 43 + t.toNat * 2 ^ 39 + tid.toNat * 2 ^ 33 + k0.toNat * 2 ^ 17 + n0.toNat * 2 := ⟨_, rfl⟩
  refine .of (n := 64) (w := w) (k := 3) (e := 0) (by rw [hw]; rfl) rfl rfl fun hwf hp => ?_
  try simp only [encSR, encSI, encSHead, encFn, encVR, encVM, encVI, encVA, encVHead, encMHead, encCHead, encCI, encCE, encKR, xShort, xExt, nShort, nExt, zero5, Bool.toNat_false] at hw
  refine ⟨by omega, ?_⟩
  have f0 : fld 5 w 59 = h_g := fld_eq (by omega)
  have f1 : flg w 52 = h_k := flg_eq (by omega)
  have f2 : fld 6 w 33 = tid := fld_eq (by omega)
  have f3 : flg w 51 = false := flg_eq (by simp; omega)
  have f4 : flg w 0 = false := flg_eq (by simp; omega)
  have f5 : flg w 50 = acc := flg_eq (by omega)
  have f6 : flg w 49 = ck := flg_eq (by omega)
  have f7 : fld 3 w 46 = fmt := fld_eq (by omega)
  have f8 : fld 3 w 43 = bank := fld_eq (by omega)
  have f9 : fld 4 w 39 = t := fld_eq (by omega)
  have f10 : fld 16 w 17 = k0 := fld_eq (by omega)
  have f11 : fld 16 w 1 = n0 := fld_eq (by omega)
  have f12 : num 6 w 53 = 12 := by simp only [num]; omega
  have hst : h_st = ⟨0, 0, 0⟩ := offZero hp
  subst hst
  simp [readBack, decodeM, accept, hwf, immOf, immZ, Imm.extNat, noOff, Except.toOption, f0, f1, f2, f3, f4, f5, f6, f7, f8, f9, f10, f11, f12]

theorem RoundTrip.mclr (h : MHead) (bank : BitVec 3) : RoundTrip.Statement (.mclr h bank) := by
  obtain ⟨h_g, h_k, h_st⟩ := h
  have b0 := h_g.isLt
  have b2 := Bool.toNat_le h_k
  have b3 := bank.isLt
  obtain ⟨w, hw⟩ : ∃ w, w = encMHead ⟨h_g, h_k, h_st⟩ 0x0D + bank.toNat * 2 ^ 43 := ⟨_, rfl⟩
  refine .of (n := 64) (w := w) (k := 3) (e := 0) (by rw [hw]; rfl) rfl rfl fun hwf hp => ?_
  try simp only [encSR, encSI, encSHead, encFn, encVR, encVM, encVI, encVA, encVHead, encMHead, encCHead, encCI, encCE, encKR, xShort, xExt, nShort, nExt, zero5, Bool.toNat_false] at hw
  refine ⟨by omega, ?_⟩
  have f0 : fld 5 w 59 = h_g := fld_eq (by omega)
  have f1 : flg w 52 = h_k := flg_eq (by omega)
  have f2 : fld 6 w 33 = 0 := fld_eq (by simp; omega)
  have f3 : fld 6 w 34 = 0 := fld_eq (by simp; omega)
  have f4 : fld 6 w 28 = 0 := fld_eq (by simp; omega)
  have f5 : fld 9 w 19 = 0 := fld_eq (by simp; omega)
  have f6 : flg w 51 = false := flg_eq (by simp; omega)
  have f7 : num 5 w 46 = 0 := by simp only [num]; omega
  have f8 : num 43 w 0 = 0 := by simp only [num]; omega
  have f9 : fld 3 w 43 = bank := fld_eq (by omega)
  have f10 : num 6 w 53 = 13 := by simp only [num]; omega
  have hst : h_st = ⟨0, 0, 0⟩ := offZero hp
  subst hst
  simp [readBack, decodeM, accept, hwf, immOf, immZ, Imm.extNat, noOff, Except.toOption, f0, f1, f2, f3, f4, f5, f6, f7, f8, f9, f10]

theorem RoundTrip.tup (h : MHead) (md : BitVec 2) (zd : BitVec 9) (sh : BitVec 6) (lm : BitVec 6) (base : BitVec 9) : RoundTrip.Statement (.tup h md zd sh lm base) := by
  obtain ⟨h_g, h_k, h_st⟩ := h
  have b0 := h_g.isLt
  have b2 := Bool.toNat_le h_k
  have b3 := md.isLt
  have b4 := zd.isLt
  have b5 := sh.isLt
  have b6 := lm.isLt
  have b7 := base.isLt
  obtain ⟨w, hw⟩ : ∃ w, w = encMHead ⟨h_g, h_k, h_st⟩ 0x10 + md.toNat * 2 ^ 49 + zd.toNat * 2 ^ 40 + sh.toNat * 2 ^ 34 + lm.toNat * 2 ^ 28 + base.toNat * 2 ^ 19 := ⟨_, rfl⟩
  refine .of (n := 64) (w := w) (k := 3) (e := 0) (by rw [hw]; rfl) rfl rfl fun hwf hp => ?_
  try simp only [encSR, encSI, encSHead, encFn, encVR, encVM, encVI, encVA, encVHead, encMHead, encCHead, encCI, encCE, encKR, xShort, xExt, nShort, nExt, zero5, Bool.toNat_false] at hw
  refine ⟨by omega, ?_⟩
  have f0 : fld 5 w 59 = h_g := fld_eq (by omega)
  have f1 : flg w 52 = h_k := flg_eq (by omega)
  have f2 : fld 9 w 40 = zd := fld_eq (by omega)
  have f3 : fld 6 w 34 = sh := fld_eq (by omega)
  have f4 : fld 6 w 28 = lm := fld_eq (by omega)
  have f5 : fld 9 w 19 = base := fld_eq (by omega)
  have f6 : flg w 51 = false := flg_eq (by simp; omega)
  have f7 : num 19 w 0 = 0 := by simp only [num]; omega
  have f8 : fld 2 w 49 = md := fld_eq (by omega)
  have f9 : num 6 w 53 = 16 := by simp only [num]; omega
  have hst : h_st = ⟨0, 0, 0⟩ := offZero hp
  subst hst
  simp [readBack, decodeM, accept, hwf, immOf, immZ, Imm.extNat, noOff, Except.toOption, f0, f1, f2, f3, f4, f5, f6, f7, f8, f9]

theorem RoundTrip.tdn (h : MHead) (md : BitVec 2) (zd : BitVec 9) (zg : BitVec 9) (sh : BitVec 6) (lm : BitVec 6) (base : BitVec 9) : RoundTrip.Statement (.tdn h md zd zg sh lm base) := by
  obtain ⟨h_g, h_k, h_st⟩ := h
  have b0 := h_g.isLt
  have b2 := Bool.toNat_le h_k
  have b3 := md.isLt
  have b4 := zd.isLt
  have b5 := sh.isLt
  have b6 := lm.isLt
  have b7 := base.isLt
  have b8 := zg.isLt
  obtain ⟨w, hw⟩ : ∃ w, w = encMHead ⟨h_g, h_k, h_st⟩ 0x11 + md.toNat * 2 ^ 49 + zd.toNat * 2 ^ 40 + sh.toNat * 2 ^ 34 + lm.toNat * 2 ^ 28 + base.toNat * 2 ^ 19 + zg.toNat * 2 ^ 10 := ⟨_, rfl⟩
  refine .of (n := 64) (w := w) (k := 3) (e := 0) (by rw [hw]; rfl) rfl rfl fun hwf hp => ?_
  try simp only [encSR, encSI, encSHead, encFn, encVR, encVM, encVI, encVA, encVHead, encMHead, encCHead, encCI, encCE, encKR, xShort, xExt, nShort, nExt, zero5, Bool.toNat_false] at hw
  refine ⟨by omega, ?_⟩
  have f0 : fld 5 w 59 = h_g := fld_eq (by omega)
  have f1 : flg w 52 = h_k := flg_eq (by omega)
  have f2 : fld 9 w 40 = zd := fld_eq (by omega)
  have f3 : fld 6 w 34 = sh := fld_eq (by omega)
  have f4 : fld 6 w 28 = lm := fld_eq (by omega)
  have f5 : fld 9 w 19 = base := fld_eq (by omega)
  have f6 : flg w 51 = false := flg_eq (by simp; omega)
  have f7 : num 10 w 0 = 0 := by simp only [num]; omega
  have f8 : fld 2 w 49 = md := fld_eq (by omega)
  have f9 : fld 9 w 10 = zg := fld_eq (by omega)
  have f10 : num 6 w 53 = 17 := by simp only [num]; omega
  have hst : h_st = ⟨0, 0, 0⟩ := offZero hp
  subst hst
  simp [readBack, decodeM, accept, hwf, immOf, immZ, Imm.extNat, noOff, Except.toOption, f0, f1, f2, f3, f4, f5, f6, f7, f8, f9, f10]

theorem RoundTrip.tmxp (h : MHead) (md : BitVec 2) (zd : BitVec 9) (sh : BitVec 6) (lm : BitVec 6) (base : BitVec 9) : RoundTrip.Statement (.tmxp h md zd sh lm base) := by
  obtain ⟨h_g, h_k, h_st⟩ := h
  have b0 := h_g.isLt
  have b2 := Bool.toNat_le h_k
  have b3 := md.isLt
  have b4 := zd.isLt
  have b5 := sh.isLt
  have b6 := lm.isLt
  have b7 := base.isLt
  obtain ⟨w, hw⟩ : ∃ w, w = encMHead ⟨h_g, h_k, h_st⟩ 0x12 + md.toNat * 2 ^ 49 + zd.toNat * 2 ^ 40 + sh.toNat * 2 ^ 34 + lm.toNat * 2 ^ 28 + base.toNat * 2 ^ 19 := ⟨_, rfl⟩
  refine .of (n := 64) (w := w) (k := 3) (e := 0) (by rw [hw]; rfl) rfl rfl fun hwf hp => ?_
  try simp only [encSR, encSI, encSHead, encFn, encVR, encVM, encVI, encVA, encVHead, encMHead, encCHead, encCI, encCE, encKR, xShort, xExt, nShort, nExt, zero5, Bool.toNat_false] at hw
  refine ⟨by omega, ?_⟩
  have f0 : fld 5 w 59 = h_g := fld_eq (by omega)
  have f1 : flg w 52 = h_k := flg_eq (by omega)
  have f2 : fld 9 w 40 = zd := fld_eq (by omega)
  have f3 : fld 6 w 34 = sh := fld_eq (by omega)
  have f4 : fld 6 w 28 = lm := fld_eq (by omega)
  have f5 : fld 9 w 19 = base := fld_eq (by omega)
  have f6 : flg w 51 = false := flg_eq (by simp; omega)
  have f7 : num 19 w 0 = 0 := by simp only [num]; omega
  have f8 : fld 2 w 49 = md := fld_eq (by omega)
  have f9 : num 6 w 53 = 18 := by simp only [num]; omega
  have hst : h_st = ⟨0, 0, 0⟩ := offZero hp
  subst hst
  simp [readBack, decodeM, accept, hwf, immOf, immZ, Imm.extNat, noOff, Except.toOption, f0, f1, f2, f3, f4, f5, f6, f7, f8, f9]

theorem RoundTrip.tscl (h : MHead) (all : Bool) (zd : BitVec 9) : RoundTrip.Statement (.tscl h all zd) := by
  obtain ⟨h_g, h_k, h_st⟩ := h
  have b0 := h_g.isLt
  have b2 := Bool.toNat_le h_k
  have b3 := Bool.toNat_le all
  have b4 := zd.isLt
  obtain ⟨w, hw⟩ : ∃ w, w = encMHead ⟨h_g, h_k, h_st⟩ 0x13 + all.toNat * 2 ^ 50 + zd.toNat * 2 ^ 40 := ⟨_, rfl⟩
  refine .of (n := 64) (w := w) (k := 3) (e := 0) (by rw [hw]; rfl) rfl rfl fun hwf hp => ?_
  try simp only [encSR, encSI, encSHead, encFn, encVR, encVM, encVI, encVA, encVHead, encMHead, encCHead, encCI, encCE, encKR, xShort, xExt, nShort, nExt, zero5, Bool.toNat_false] at hw
  refine ⟨by omega, ?_⟩
  have f0 : fld 5 w 59 = h_g := fld_eq (by omega)
  have f1 : flg w 52 = h_k := flg_eq (by omega)
  have f2 : fld 6 w 33 = 0 := fld_eq (by simp; omega)
  have f3 : fld 9 w 40 = zd := fld_eq (by omega)
  have f4 : fld 6 w 34 = 0 := fld_eq (by simp; omega)
  have f5 : fld 6 w 28 = 0 := fld_eq (by simp; omega)
  have f6 : fld 9 w 19 = 0 := fld_eq (by simp; omega)
  have f7 : flg w 51 = false := flg_eq (by simp; omega)
  have f8 : flg w 49 = false := flg_eq (by simp; omega)
  have f9 : num 40 w 0 = 0 := by simp only [num]; omega
  have f10 : flg w 50 = all := flg_eq (by omega)
  have f11 : num 6 w 53 = 19 := by simp only [num]; omega
  have hst : h_st = ⟨0, 0, 0⟩ := offZero hp
  subst hst
  simp [readBack, decodeM, accept, hwf, immOf, immZ, Imm.extNat, noOff, Except.toOption, f0, f1, f2, f3, f4, f5, f6, f7, f8, f9, f10, f11]

theorem RoundTrip.tshl (h : MHead) (l : Bool) (e : BitVec 6) (row : BitVec 12) : RoundTrip.Statement (.tshl h l e row) := by
  obtain ⟨h_g, h_k, h_st⟩ := h
  have b0 := h_g.isLt
  have b2 := Bool.toNat_le h_k
  have b3 := Bool.toNat_le l
  have b4 := e.isLt
  have b5 := row.isLt
  obtain ⟨w, hw⟩ : ∃ w, w = encMHead ⟨h_g, h_k, h_st⟩ 0x14 + l.toNat * 2 ^ 50 + e.toNat * 2 ^ 34 + row.toNat * 2 ^ 22 := ⟨_, rfl⟩
  refine .of (n := 64) (w := w) (k := 3) (e := 0) (by rw [hw]; rfl) rfl rfl fun hwf hp => ?_
  try simp only [encSR, encSI, encSHead, encFn, encVR, encVM, encVI, encVA, encVHead, encMHead, encCHead, encCI, encCE, encKR, xShort, xExt, nShort, nExt, zero5, Bool.toNat_false] at hw
  refine ⟨by omega, ?_⟩
  have f0 : fld 5 w 59 = h_g := fld_eq (by omega)
  have f1 : flg w 52 = h_k := flg_eq (by omega)
  have f2 : fld 9 w 40 = 0 := fld_eq (by simp; omega)
  have f3 : fld 6 w 34 = e := fld_eq (by omega)
  have f4 : flg w 51 = false := flg_eq (by simp; omega)
  have f5 : num 10 w 40 = 0 := by simp only [num]; omega
  have f6 : num 22 w 0 = 0 := by simp only [num]; omega
  have f7 : flg w 50 = l := flg_eq (by omega)
  have f8 : fld 12 w 22 = row := fld_eq (by omega)
  have f9 : num 6 w 53 = 20 := by simp only [num]; omega
  have hst : h_st = ⟨0, 0, 0⟩ := offZero hp
  subst hst
  simp [readBack, decodeM, accept, hwf, immOf, immZ, Imm.extNat, noOff, Except.toOption, f0, f1, f2, f3, f4, f5, f6, f7, f8, f9]

theorem RoundTrip.tcvt (h : MHead) (md : BitVec 2) (zd : BitVec 9) (zs : BitVec 9) : RoundTrip.Statement (.tcvt h md zd zs) := by
  obtain ⟨h_g, h_k, h_st⟩ := h
  have b0 := h_g.isLt
  have b2 := Bool.toNat_le h_k
  have b3 := md.isLt
  have b4 := zd.isLt
  have b5 := zs.isLt
  obtain ⟨w, hw⟩ : ∃ w, w = encMHead ⟨h_g, h_k, h_st⟩ 0x15 + md.toNat * 2 ^ 49 + zd.toNat * 2 ^ 40 + zs.toNat * 2 ^ 31 := ⟨_, rfl⟩
  refine .of (n := 64) (w := w) (k := 3) (e := 0) (by rw [hw]; rfl) rfl rfl fun hwf hp => ?_
  try simp only [encSR, encSI, encSHead, encFn, encVR, encVM, encVI, encVA, encVHead, encMHead, encCHead, encCI, encCE, encKR, xShort, xExt, nShort, nExt, zero5, Bool.toNat_false] at hw
  refine ⟨by omega, ?_⟩
  have f0 : fld 5 w 59 = h_g := fld_eq (by omega)
  have f1 : flg w 52 = h_k := flg_eq (by omega)
  have f2 : fld 9 w 40 = zd := fld_eq (by omega)
  have f3 : fld 9 w 19 = 0 := fld_eq (by simp; omega)
  have f4 : flg w 51 = false := flg_eq (by simp; omega)
  have f5 : num 31 w 0 = 0 := by simp only [num]; omega
  have f6 : fld 2 w 49 = md := fld_eq (by omega)
  have f7 : fld 9 w 31 = zs := fld_eq (by omega)
  have f8 : num 6 w 53 = 21 := by simp only [num]; omega
  have hst : h_st = ⟨0, 0, 0⟩ := offZero hp
  subst hst
  simp [readBack, decodeM, accept, hwf, immOf, immZ, Imm.extNat, noOff, Except.toOption, f0, f1, f2, f3, f4, f5, f6, f7, f8]

theorem RoundTrip.xcpM (h : MHead) (zs : BitVec 9) (f : BitVec 3) (r : BitVec 5) : RoundTrip.Statement (.xcpM h zs f r) := by
  obtain ⟨h_g, h_k, h_st⟩ := h
  have b0 := h_g.isLt
  have b2 := Bool.toNat_le h_k
  have b3 := zs.isLt
  have b4 := f.isLt
  have b5 := r.isLt
  obtain ⟨w, hw⟩ : ∃ w, w = encMHead ⟨h_g, h_k, h_st⟩ 1 + zs.toNat * 2 ^ 40 + f.toNat * 2 ^ 37 + r.toNat * 2 ^ 32 := ⟨_, rfl⟩
  refine .of (n := 64) (w := w) (k := 3) (e := 0) (by rw [hw]; rfl) rfl rfl fun hwf hp => ?_
  try simp only [encSR, encSI, encSHead, encFn, encVR, encVM, encVI, encVA, encVHead, encMHead, encCHead, encCI, encCE, encKR, xShort, xExt, nShort, nExt, zero5, Bool.toNat_false] at hw
  refine ⟨by omega, ?_⟩
  have f0 : fld 5 w 59 = h_g := fld_eq (by omega)
  have f1 : flg w 52 = h_k := flg_eq (by omega)
  have f2 : fld 9 w 40 = zs := fld_eq (by omega)
  have f3 : fld 9 w 19 = 0 := fld_eq (by simp; omega)
  have f4 : flg w 51 = false := flg_eq (by simp; omega)
  have f5 : num 2 w 49 = 0 := by simp only [num]; omega
  have f6 : num 32 w 0 = 0 := by simp only [num]; omega
  have f7 : fld 3 w 37 = f := fld_eq (by omega)
  have f8 : fld 5 w 32 = r := fld_eq (by omega)
  have f9 : num 6 w 53 = 1 := by simp only [num]; omega
  have hst : h_st = ⟨0, 0, 0⟩ := offZero hp
  subst hst
  simp [readBack, decodeM, accept, hwf, immOf, immZ, Imm.extNat, noOff, Except.toOption, f0, f1, f2, f3, f4, f5, f6, f7, f8, f9]

theorem RoundTrip.addC (h : CHead) (d : BitVec 5) (a : BitVec 5) (o : COp) : RoundTrip.Statement (.addC h d a o) := by
  obtain ⟨h_slot, h_g, h_k, h_st⟩ := h
  cases o with
  | reg v =>
    cases h_slot
    · have b0 := h_g.isLt
      have b2 := Bool.toNat_le h_k
      have b3 := d.isLt
      have b4 := a.isLt
      have b5 := v.isLt
      obtain ⟨w, hw⟩ : ∃ w, w = encCI 0x01 ⟨false, h_g, h_k, h_st⟩ d a (.reg v) := ⟨_, rfl⟩
      refine .of (n := 64) (w := w) (k := 4) (e := 0) (by rw [hw]; rfl) rfl rfl fun hwf hp => ?_
      try simp only [encSR, encSI, encSHead, encFn, encVR, encVM, encVI, encVA, encVHead, encMHead, encCHead, encCI, encCE, encKR, xShort, xExt, nShort, nExt, zero5, Bool.toNat_false] at hw
      refine ⟨by omega, ?_⟩
      have f0 : fld 5 w 59 = h_g := fld_eq (by omega)
      have f1 : flg w 52 = h_k := flg_eq (by omega)
      have f2 : flg w 51 = false := flg_eq (by simp; omega)
      have f3 : fld 5 w 46 = d := fld_eq (by omega)
      have f4 : fld 5 w 41 = a := fld_eq (by omega)
      have f5 : flg w 40 = false := flg_eq (by simp; omega)
      have f6 : fld 5 w 35 = v := fld_eq (by omega)
      have f7 : num 8 w 0 = 0 := by simp only [num]; omega
      have f8 : num 35 w 0 = 0 := by simp only [num]; omega
      have f9 : fld 5 w 29 = 0 := fld_eq (by simp; omega)
      have f10 : fld 5 w 24 = 0 := fld_eq (by simp; omega)
      have f11 : fld 5 w 19 = 0 := fld_eq (by simp; omega)
      have f12 : fld 7 w 12 = 0 := fld_eq (by simp; omega)
      have f13 : num 12 w 0 = 0 := by simp only [num]; omega
      have f14 : num 6 w 53 = 1 := by simp only [num]; omega
      have hst : h_st = ⟨0, 0, 0⟩ := offZero hp
      subst hst
      simp [readBack, decodeC, accept, hwf, immOf, immZ, Imm.extNat, noOff, Except.toOption, f0, f1, f2, f3, f4, f5, f6, f7, f8, f9, f10, f11, f12, f13, f14]
    · have b0 := h_g.isLt
      have b2 := Bool.toNat_le h_k
      have b3 := d.isLt
      have b4 := a.isLt
      have b5 := v.isLt
      obtain ⟨w, hw⟩ : ∃ w, w = encCI 0x01 ⟨true, h_g, h_k, h_st⟩ d a (.reg v) := ⟨_, rfl⟩
      refine .of (n := 64) (w := w) (k := 5) (e := 0) (by rw [hw]; rfl) rfl rfl fun hwf hp => ?_
      try simp only [encSR, encSI, encSHead, encFn, encVR, encVM, encVI, encVA, encVHead, encMHead, encCHead, encCI, encCE, encKR, xShort, xExt, nShort, nExt, zero5, Bool.toNat_false] at hw
      refine ⟨by omega, ?_⟩
      have f0 : fld 5 w 59 = h_g := fld_eq (by omega)
      have f1 : flg w 52 = h_k := flg_eq (by omega)
      have f2 : flg w 51 = false := flg_eq (by simp; omega)
      have f3 : fld 5 w 46 = d := fld_eq (by omega)
      have f4 : fld 5 w 41 = a := fld_eq (by omega)
      have f5 : flg w 40 = false := flg_eq (by simp; omega)
      have f6 : fld 5 w 35 = v := fld_eq (by omega)
      have f7 : num 8 w 0 = 0 := by simp only [num]; omega
      have f8 : num 35 w 0 = 0 := by simp only [num]; omega
      have f9 : fld 5 w 29 = 0 := fld_eq (by simp; omega)
      have f10 : fld 5 w 24 = 0 := fld_eq (by simp; omega)
      have f11 : fld 5 w 19 = 0 := fld_eq (by simp; omega)
      have f12 : fld 7 w 12 = 0 := fld_eq (by simp; omega)
      have f13 : num 12 w 0 = 0 := by simp only [num]; omega
      have f14 : num 6 w 53 = 1 := by simp only [num]; omega
      have hst : h_st = ⟨0, 0, 0⟩ := offZero hp
      subst hst
      simp [readBack, decodeC, accept, hwf, immOf, immZ, Imm.extNat, noOff, Except.toOption, f0, f1, f2, f3, f4, f5, f6, f7, f8, f9, f10, f11, f12, f13, f14]
  | imm v =>
    cases h_slot
    · have b0 := h_g.isLt
      have b2 := Bool.toNat_le h_k
      have b3 := d.isLt
      have b4 := a.isLt
      have b6 := v.isLt
      obtain ⟨w, hw⟩ : ∃ w, w = encCI 0x01 ⟨false, h_g, h_k, h_st⟩ d a (.imm v) := ⟨_, rfl⟩
      refine .of (n := 64) (w := w) (k := 4) (e := 0) (by rw [hw]; rfl) rfl rfl fun hwf hp => ?_
      try simp only [encSR, encSI, encSHead, encFn, encVR, encVM, encVI, encVA, encVHead, encMHead, encCHead, encCI, encCE, encKR, xShort, xExt, nShort, nExt, zero5, Bool.toNat_false] at hw
      refine ⟨by omega, ?_⟩
      have f0 : fld 5 w 59 = h_g := fld_eq (by omega)
      have f1 : flg w 52 = h_k := flg_eq (by omega)
      have f2 : flg w 51 = false := flg_eq (by simp; omega)
      have f3 : fld 5 w 46 = d := fld_eq (by omega)
      have f4 : fld 5 w 41 = a := fld_eq (by omega)
      have f5 : flg w 40 = true := flg_eq (by simp; omega)
      have f6 : fld 32 w 8 = v := fld_eq (by omega)
      have f7 : num 8 w 0 = 0 := by simp only [num]; omega
      have f8 : num 6 w 53 = 1 := by simp only [num]; omega
      have hst : h_st = ⟨0, 0, 0⟩ := offZero hp
      subst hst
      simp [readBack, decodeC, accept, hwf, immOf, immZ, Imm.extNat, noOff, Except.toOption, f0, f1, f2, f3, f4, f5, f6, f7, f8]
    · have b0 := h_g.isLt
      have b2 := Bool.toNat_le h_k
      have b3 := d.isLt
      have b4 := a.isLt
      have b6 := v.isLt
      obtain ⟨w, hw⟩ : ∃ w, w = encCI 0x01 ⟨true, h_g, h_k, h_st⟩ d a (.imm v) := ⟨_, rfl⟩
      refine .of (n := 64) (w := w) (k := 5) (e := 0) (by rw [hw]; rfl) rfl rfl fun hwf hp => ?_
      try simp only [encSR, encSI, encSHead, encFn, encVR, encVM, encVI, encVA, encVHead, encMHead, encCHead, encCI, encCE, encKR, xShort, xExt, nShort, nExt, zero5, Bool.toNat_false] at hw
      refine ⟨by omega, ?_⟩
      have f0 : fld 5 w 59 = h_g := fld_eq (by omega)
      have f1 : flg w 52 = h_k := flg_eq (by omega)
      have f2 : flg w 51 = false := flg_eq (by simp; omega)
      have f3 : fld 5 w 46 = d := fld_eq (by omega)
      have f4 : fld 5 w 41 = a := fld_eq (by omega)
      have f5 : flg w 40 = true := flg_eq (by simp; omega)
      have f6 : fld 32 w 8 = v := fld_eq (by omega)
      have f7 : num 8 w 0 = 0 := by simp only [num]; omega
      have f8 : num 6 w 53 = 1 := by simp only [num]; omega
      have hst : h_st = ⟨0, 0, 0⟩ := offZero hp
      subst hst
      simp [readBack, decodeC, accept, hwf, immOf, immZ, Imm.extNat, noOff, Except.toOption, f0, f1, f2, f3, f4, f5, f6, f7, f8]

theorem RoundTrip.subC (h : CHead) (d : BitVec 5) (a : BitVec 5) (o : COp) : RoundTrip.Statement (.subC h d a o) := by
  obtain ⟨h_slot, h_g, h_k, h_st⟩ := h
  cases o with
  | reg v =>
    cases h_slot
    · have b0 := h_g.isLt
      have b2 := Bool.toNat_le h_k
      have b3 := d.isLt
      have b4 := a.isLt
      have b5 := v.isLt
      obtain ⟨w, hw⟩ : ∃ w, w = encCI 0x02 ⟨false, h_g, h_k, h_st⟩ d a (.reg v) := ⟨_, rfl⟩
      refine .of (n := 64) (w := w) (k := 4) (e := 0) (by rw [hw]; rfl) rfl rfl fun hwf hp => ?_
      try simp only [encSR, encSI, encSHead, encFn, encVR, encVM, encVI, encVA, encVHead, encMHead, encCHead, encCI, encCE, encKR, xShort, xExt, nShort, nExt, zero5, Bool.toNat_false] at hw
      refine ⟨by omega, ?_⟩
      have f0 : fld 5 w 59 = h_g := fld_eq (by omega)
      have f1 : flg w 52 = h_k := flg_eq (by omega)
      have f2 : flg w 51 = false := flg_eq (by simp; omega)
      have f3 : fld 5 w 46 = d := fld_eq (by omega)
      have f4 : fld 5 w 41 = a := fld_eq (by omega)
      have f5 : flg w 40 = false := flg_eq (by simp; omega)
      have f6 : fld 5 w 35 = v := fld_eq (by omega)
      have f7 : num 8 w 0 = 0 := by simp only [num]; omega
      have f8 : num 35 w 0 = 0 := by simp only [num]; omega
      have f9 : fld 5 w 29 = 0 := fld_eq (by simp; omega)
      have f10 : fld 5 w 24 = 0 := fld_eq (by simp; omega)
      have f11 : fld 5 w 19 = 0 := fld_eq (by simp; omega)
      have f12 : fld 7 w 12 = 0 := fld_eq (by simp; omega)
      have f13 : num 12 w 0 = 0 := by simp only [num]; omega
      have f14 : num 6 w 53 = 2 := by simp only [num]; omega
      have hst : h_st = ⟨0, 0, 0⟩ := offZero hp
      subst hst
      simp [readBack, decodeC, accept, hwf, immOf, immZ, Imm.extNat, noOff, Except.toOption, f0, f1, f2, f3, f4, f5, f6, f7, f8, f9, f10, f11, f12, f13, f14]
    · have b0 := h_g.isLt
      have b2 := Bool.toNat_le h_k
      have b3 := d.isLt
      have b4 := a.isLt
      have b5 := v.isLt
      obtain ⟨w, hw⟩ : ∃ w, w = encCI 0x02 ⟨true, h_g, h_k, h_st⟩ d a (.reg v) := ⟨_, rfl⟩
      refine .of (n := 64) (w := w) (k := 5) (e := 0) (by rw [hw]; rfl) rfl rfl fun hwf hp => ?_
      try simp only [encSR, encSI, encSHead, encFn, encVR, encVM, encVI, encVA, encVHead, encMHead, encCHead, encCI, encCE, encKR, xShort, xExt, nShort, nExt, zero5, Bool.toNat_false] at hw
      refine ⟨by omega, ?_⟩
      have f0 : fld 5 w 59 = h_g := fld_eq (by omega)
      have f1 : flg w 52 = h_k := flg_eq (by omega)
      have f2 : flg w 51 = false := flg_eq (by simp; omega)
      have f3 : fld 5 w 46 = d := fld_eq (by omega)
      have f4 : fld 5 w 41 = a := fld_eq (by omega)
      have f5 : flg w 40 = false := flg_eq (by simp; omega)
      have f6 : fld 5 w 35 = v := fld_eq (by omega)
      have f7 : num 8 w 0 = 0 := by simp only [num]; omega
      have f8 : num 35 w 0 = 0 := by simp only [num]; omega
      have f9 : fld 5 w 29 = 0 := fld_eq (by simp; omega)
      have f10 : fld 5 w 24 = 0 := fld_eq (by simp; omega)
      have f11 : fld 5 w 19 = 0 := fld_eq (by simp; omega)
      have f12 : fld 7 w 12 = 0 := fld_eq (by simp; omega)
      have f13 : num 12 w 0 = 0 := by simp only [num]; omega
      have f14 : num 6 w 53 = 2 := by simp only [num]; omega
      have hst : h_st = ⟨0, 0, 0⟩ := offZero hp
      subst hst
      simp [readBack, decodeC, accept, hwf, immOf, immZ, Imm.extNat, noOff, Except.toOption, f0, f1, f2, f3, f4, f5, f6, f7, f8, f9, f10, f11, f12, f13, f14]
  | imm v =>
    cases h_slot
    · have b0 := h_g.isLt
      have b2 := Bool.toNat_le h_k
      have b3 := d.isLt
      have b4 := a.isLt
      have b6 := v.isLt
      obtain ⟨w, hw⟩ : ∃ w, w = encCI 0x02 ⟨false, h_g, h_k, h_st⟩ d a (.imm v) := ⟨_, rfl⟩
      refine .of (n := 64) (w := w) (k := 4) (e := 0) (by rw [hw]; rfl) rfl rfl fun hwf hp => ?_
      try simp only [encSR, encSI, encSHead, encFn, encVR, encVM, encVI, encVA, encVHead, encMHead, encCHead, encCI, encCE, encKR, xShort, xExt, nShort, nExt, zero5, Bool.toNat_false] at hw
      refine ⟨by omega, ?_⟩
      have f0 : fld 5 w 59 = h_g := fld_eq (by omega)
      have f1 : flg w 52 = h_k := flg_eq (by omega)
      have f2 : flg w 51 = false := flg_eq (by simp; omega)
      have f3 : fld 5 w 46 = d := fld_eq (by omega)
      have f4 : fld 5 w 41 = a := fld_eq (by omega)
      have f5 : flg w 40 = true := flg_eq (by simp; omega)
      have f6 : fld 32 w 8 = v := fld_eq (by omega)
      have f7 : num 8 w 0 = 0 := by simp only [num]; omega
      have f8 : num 6 w 53 = 2 := by simp only [num]; omega
      have hst : h_st = ⟨0, 0, 0⟩ := offZero hp
      subst hst
      simp [readBack, decodeC, accept, hwf, immOf, immZ, Imm.extNat, noOff, Except.toOption, f0, f1, f2, f3, f4, f5, f6, f7, f8]
    · have b0 := h_g.isLt
      have b2 := Bool.toNat_le h_k
      have b3 := d.isLt
      have b4 := a.isLt
      have b6 := v.isLt
      obtain ⟨w, hw⟩ : ∃ w, w = encCI 0x02 ⟨true, h_g, h_k, h_st⟩ d a (.imm v) := ⟨_, rfl⟩
      refine .of (n := 64) (w := w) (k := 5) (e := 0) (by rw [hw]; rfl) rfl rfl fun hwf hp => ?_
      try simp only [encSR, encSI, encSHead, encFn, encVR, encVM, encVI, encVA, encVHead, encMHead, encCHead, encCI, encCE, encKR, xShort, xExt, nShort, nExt, zero5, Bool.toNat_false] at hw
      refine ⟨by omega, ?_⟩
      have f0 : fld 5 w 59 = h_g := fld_eq (by omega)
      have f1 : flg w 52 = h_k := flg_eq (by omega)
      have f2 : flg w 51 = false := flg_eq (by simp; omega)
      have f3 : fld 5 w 46 = d := fld_eq (by omega)
      have f4 : fld 5 w 41 = a := fld_eq (by omega)
      have f5 : flg w 40 = true := flg_eq (by simp; omega)
      have f6 : fld 32 w 8 = v := fld_eq (by omega)
      have f7 : num 8 w 0 = 0 := by simp only [num]; omega
      have f8 : num 6 w 53 = 2 := by simp only [num]; omega
      have hst : h_st = ⟨0, 0, 0⟩ := offZero hp
      subst hst
      simp [readBack, decodeC, accept, hwf, immOf, immZ, Imm.extNat, noOff, Except.toOption, f0, f1, f2, f3, f4, f5, f6, f7, f8]

theorem RoundTrip.shlC (h : CHead) (d : BitVec 5) (a : BitVec 5) (o : COp) : RoundTrip.Statement (.shlC h d a o) := by
  obtain ⟨h_slot, h_g, h_k, h_st⟩ := h
  cases o with
  | reg v =>
    cases h_slot
    · have b0 := h_g.isLt
      have b2 := Bool.toNat_le h_k
      have b3 := d.isLt
      have b4 := a.isLt
      have b5 := v.isLt
      obtain ⟨w, hw⟩ : ∃ w, w = encCI 0x0A ⟨false, h_g, h_k, h_st⟩ d a (.reg v) := ⟨_, rfl⟩
      refine .of (n := 64) (w := w) (k := 4) (e := 0) (by rw [hw]; rfl) rfl rfl fun hwf hp => ?_
      try simp only [encSR, encSI, encSHead, encFn, encVR, encVM, encVI, encVA, encVHead, encMHead, encCHead, encCI, encCE, encKR, xShort, xExt, nShort, nExt, zero5, Bool.toNat_false] at hw
      refine ⟨by omega, ?_⟩
      have f0 : fld 5 w 59 = h_g := fld_eq (by omega)
      have f1 : flg w 52 = h_k := flg_eq (by omega)
      have f2 : flg w 51 = false := flg_eq (by simp; omega)
      have f3 : fld 5 w 46 = d := fld_eq (by omega)
      have f4 : fld 5 w 41 = a := fld_eq (by omega)
      have f5 : flg w 40 = false := flg_eq (by simp; omega)
      have f6 : fld 5 w 35 = v := fld_eq (by omega)
      have f7 : num 8 w 0 = 0 := by simp only [num]; omega
      have f8 : num 35 w 0 = 0 := by simp only [num]; omega
      have f9 : fld 5 w 29 = 0 := fld_eq (by simp; omega)
      have f10 : fld 5 w 24 = 0 := fld_eq (by simp; omega)
      have f11 : fld 5 w 19 = 0 := fld_eq (by simp; omega)
      have f12 : fld 7 w 12 = 0 := fld_eq (by simp; omega)
      have f13 : num 12 w 0 = 0 := by simp only [num]; omega
      have f14 : num 6 w 53 = 10 := by simp only [num]; omega
      have hst : h_st = ⟨0, 0, 0⟩ := offZero hp
      subst hst
      simp [readBack, decodeC, accept, hwf, immOf, immZ, Imm.extNat, noOff, Except.toOption, f0, f1, f2, f3, f4, f5, f6, f7, f8, f9, f10, f11, f12, f13, f14]
    · have b0 := h_g.isLt
      have b2 := Bool.toNat_le h_k
      have b3 := d.isLt
      have b4 := a.isLt
      have b5 := v.isLt
      obtain ⟨w, hw⟩ : ∃ w, w = encCI 0x0A ⟨true, h_g, h_k, h_st⟩ d a (.reg v) := ⟨_, rfl⟩
      refine .of (n := 64) (w := w) (k := 5) (e := 0) (by rw [hw]; rfl) rfl rfl fun hwf hp => ?_
      try simp only [encSR, encSI, encSHead, encFn, encVR, encVM, encVI, encVA, encVHead, encMHead, encCHead, encCI, encCE, encKR, xShort, xExt, nShort, nExt, zero5, Bool.toNat_false] at hw
      refine ⟨by omega, ?_⟩
      have f0 : fld 5 w 59 = h_g := fld_eq (by omega)
      have f1 : flg w 52 = h_k := flg_eq (by omega)
      have f2 : flg w 51 = false := flg_eq (by simp; omega)
      have f3 : fld 5 w 46 = d := fld_eq (by omega)
      have f4 : fld 5 w 41 = a := fld_eq (by omega)
      have f5 : flg w 40 = false := flg_eq (by simp; omega)
      have f6 : fld 5 w 35 = v := fld_eq (by omega)
      have f7 : num 8 w 0 = 0 := by simp only [num]; omega
      have f8 : num 35 w 0 = 0 := by simp only [num]; omega
      have f9 : fld 5 w 29 = 0 := fld_eq (by simp; omega)
      have f10 : fld 5 w 24 = 0 := fld_eq (by simp; omega)
      have f11 : fld 5 w 19 = 0 := fld_eq (by simp; omega)
      have f12 : fld 7 w 12 = 0 := fld_eq (by simp; omega)
      have f13 : num 12 w 0 = 0 := by simp only [num]; omega
      have f14 : num 6 w 53 = 10 := by simp only [num]; omega
      have hst : h_st = ⟨0, 0, 0⟩ := offZero hp
      subst hst
      simp [readBack, decodeC, accept, hwf, immOf, immZ, Imm.extNat, noOff, Except.toOption, f0, f1, f2, f3, f4, f5, f6, f7, f8, f9, f10, f11, f12, f13, f14]
  | imm v =>
    cases h_slot
    · have b0 := h_g.isLt
      have b2 := Bool.toNat_le h_k
      have b3 := d.isLt
      have b4 := a.isLt
      have b6 := v.isLt
      obtain ⟨w, hw⟩ : ∃ w, w = encCI 0x0A ⟨false, h_g, h_k, h_st⟩ d a (.imm v) := ⟨_, rfl⟩
      refine .of (n := 64) (w := w) (k := 4) (e := 0) (by rw [hw]; rfl) rfl rfl fun hwf hp => ?_
      try simp only [encSR, encSI, encSHead, encFn, encVR, encVM, encVI, encVA, encVHead, encMHead, encCHead, encCI, encCE, encKR, xShort, xExt, nShort, nExt, zero5, Bool.toNat_false] at hw
      refine ⟨by omega, ?_⟩
      have f0 : fld 5 w 59 = h_g := fld_eq (by omega)
      have f1 : flg w 52 = h_k := flg_eq (by omega)
      have f2 : flg w 51 = false := flg_eq (by simp; omega)
      have f3 : fld 5 w 46 = d := fld_eq (by omega)
      have f4 : fld 5 w 41 = a := fld_eq (by omega)
      have f5 : flg w 40 = true := flg_eq (by simp; omega)
      have f6 : fld 32 w 8 = v := fld_eq (by omega)
      have f7 : num 8 w 0 = 0 := by simp only [num]; omega
      have f8 : num 6 w 53 = 10 := by simp only [num]; omega
      have hst : h_st = ⟨0, 0, 0⟩ := offZero hp
      subst hst
      simp [readBack, decodeC, accept, hwf, immOf, immZ, Imm.extNat, noOff, Except.toOption, f0, f1, f2, f3, f4, f5, f6, f7, f8]
    · have b0 := h_g.isLt
      have b2 := Bool.toNat_le h_k
      have b3 := d.isLt
      have b4 := a.isLt
      have b6 := v.isLt
      obtain ⟨w, hw⟩ : ∃ w, w = encCI 0x0A ⟨true, h_g, h_k, h_st⟩ d a (.imm v) := ⟨_, rfl⟩
      refine .of (n := 64) (w := w) (k := 5) (e := 0) (by rw [hw]; rfl) rfl rfl fun hwf hp => ?_
      try simp only [encSR, encSI, encSHead, encFn, encVR, encVM, encVI, encVA, encVHead, encMHead, encCHead, encCI, encCE, encKR, xShort, xExt, nShort, nExt, zero5, Bool.toNat_false] at hw
      refine ⟨by omega, ?_⟩
      have f0 : fld 5 w 59 = h_g := fld_eq (by omega)
      have f1 : flg w 52 = h_k := flg_eq (by omega)
      have f2 : flg w 51 = false := flg_eq (by simp; omega)
      have f3 : fld 5 w 46 = d := fld_eq (by omega)
      have f4 : fld 5 w 41 = a := fld_eq (by omega)
      have f5 : flg w 40 = true := flg_eq (by simp; omega)
      have f6 : fld 32 w 8 = v := fld_eq (by omega)
      have f7 : num 8 w 0 = 0 := by simp only [num]; omega
      have f8 : num 6 w 53 = 10 := by simp only [num]; omega
      have hst : h_st = ⟨0, 0, 0⟩ := offZero hp
      subst hst
      simp [readBack, decodeC, accept, hwf, immOf, immZ, Imm.extNat, noOff, Except.toOption, f0, f1, f2, f3, f4, f5, f6, f7, f8]

theorem RoundTrip.liC (h : CHead) (d : BitVec 5) (i : BitVec 32) : RoundTrip.Statement (.liC h d i) := by
  obtain ⟨h_slot, h_g, h_k, h_st⟩ := h
  cases h_slot
  · have b0 := h_g.isLt
    have b2 := Bool.toNat_le h_k
    have b3 := d.isLt
    have b5 := i.isLt
    obtain ⟨w, hw⟩ : ∃ w, w = encCI 0x13 ⟨false, h_g, h_k, h_st⟩ d 0 (.imm i) := ⟨_, rfl⟩
    refine .of (n := 64) (w := w) (k := 4) (e := 0) (by rw [hw]; rfl) rfl rfl fun hwf hp => ?_
    try simp only [encSR, encSI, encSHead, encFn, encVR, encVM, encVI, encVA, encVHead, encMHead, encCHead, encCI, encCE, encKR, xShort, xExt, nShort, nExt, zero5, Bool.toNat_false] at hw
    refine ⟨by omega, ?_⟩
    have f0 : fld 5 w 59 = h_g := fld_eq (by omega)
    have f1 : flg w 52 = h_k := flg_eq (by omega)
    have f2 : flg w 51 = false := flg_eq (by simp; omega)
    have f3 : fld 5 w 46 = d := fld_eq (by omega)
    have f4 : fld 5 w 41 = 0 := fld_eq (by simp; omega)
    have f5 : flg w 40 = true := flg_eq (by simp; omega)
    have f6 : fld 32 w 8 = i := fld_eq (by omega)
    have f7 : num 8 w 0 = 0 := by simp only [num]; omega
    have f8 : num 6 w 53 = 19 := by simp only [num]; omega
    have hst : h_st = ⟨0, 0, 0⟩ := offZero hp
    subst hst
    simp [readBack, decodeC, accept, hwf, immOf, immZ, Imm.extNat, noOff, Except.toOption, f0, f1, f2, f3, f4, f5, f6, f7, f8]
  · have b0 := h_g.isLt
    have b2 := Bool.toNat_le h_k
    have b3 := d.isLt
    have b5 := i.isLt
    obtain ⟨w, hw⟩ : ∃ w, w = encCI 0x13 ⟨true, h_g, h_k, h_st⟩ d 0 (.imm i) := ⟨_, rfl⟩
    refine .of (n := 64) (w := w) (k := 5) (e := 0) (by rw [hw]; rfl) rfl rfl fun hwf hp => ?_
    try simp only [encSR, encSI, encSHead, encFn, encVR, encVM, encVI, encVA, encVHead, encMHead, encCHead, encCI, encCE, encKR, xShort, xExt, nShort, nExt, zero5, Bool.toNat_false] at hw
    refine ⟨by omega, ?_⟩
    have f0 : fld 5 w 59 = h_g := fld_eq (by omega)
    have f1 : flg w 52 = h_k := flg_eq (by omega)
    have f2 : flg w 51 = false := flg_eq (by simp; omega)
    have f3 : fld 5 w 46 = d := fld_eq (by omega)
    have f4 : fld 5 w 41 = 0 := fld_eq (by simp; omega)
    have f5 : flg w 40 = true := flg_eq (by simp; omega)
    have f6 : fld 32 w 8 = i := fld_eq (by omega)
    have f7 : num 8 w 0 = 0 := by simp only [num]; omega
    have f8 : num 6 w 53 = 19 := by simp only [num]; omega
    have hst : h_st = ⟨0, 0, 0⟩ := offZero hp
    subst hst
    simp [readBack, decodeC, accept, hwf, immOf, immZ, Imm.extNat, noOff, Except.toOption, f0, f1, f2, f3, f4, f5, f6, f7, f8]

theorem RoundTrip.lihC (h : CHead) (d : BitVec 5) (i : BitVec 32) : RoundTrip.Statement (.lihC h d i) := by
  obtain ⟨h_slot, h_g, h_k, h_st⟩ := h
  cases h_slot
  · have b0 := h_g.isLt
    have b2 := Bool.toNat_le h_k
    have b3 := d.isLt
    have b5 := i.isLt
    obtain ⟨w, hw⟩ : ∃ w, w = encCI 0x14 ⟨false, h_g, h_k, h_st⟩ d 0 (.imm i) := ⟨_, rfl⟩
    refine .of (n := 64) (w := w) (k := 4) (e := 0) (by rw [hw]; rfl) rfl rfl fun hwf hp => ?_
    try simp only [encSR, encSI, encSHead, encFn, encVR, encVM, encVI, encVA, encVHead, encMHead, encCHead, encCI, encCE, encKR, xShort, xExt, nShort, nExt, zero5, Bool.toNat_false] at hw
    refine ⟨by omega, ?_⟩
    have f0 : fld 5 w 59 = h_g := fld_eq (by omega)
    have f1 : flg w 52 = h_k := flg_eq (by omega)
    have f2 : flg w 51 = false := flg_eq (by simp; omega)
    have f3 : fld 5 w 46 = d := fld_eq (by omega)
    have f4 : fld 5 w 41 = 0 := fld_eq (by simp; omega)
    have f5 : flg w 40 = true := flg_eq (by simp; omega)
    have f6 : fld 32 w 8 = i := fld_eq (by omega)
    have f7 : num 8 w 0 = 0 := by simp only [num]; omega
    have f8 : num 6 w 53 = 20 := by simp only [num]; omega
    have hst : h_st = ⟨0, 0, 0⟩ := offZero hp
    subst hst
    simp [readBack, decodeC, accept, hwf, immOf, immZ, Imm.extNat, noOff, Except.toOption, f0, f1, f2, f3, f4, f5, f6, f7, f8]
  · have b0 := h_g.isLt
    have b2 := Bool.toNat_le h_k
    have b3 := d.isLt
    have b5 := i.isLt
    obtain ⟨w, hw⟩ : ∃ w, w = encCI 0x14 ⟨true, h_g, h_k, h_st⟩ d 0 (.imm i) := ⟨_, rfl⟩
    refine .of (n := 64) (w := w) (k := 5) (e := 0) (by rw [hw]; rfl) rfl rfl fun hwf hp => ?_
    try simp only [encSR, encSI, encSHead, encFn, encVR, encVM, encVI, encVA, encVHead, encMHead, encCHead, encCI, encCE, encKR, xShort, xExt, nShort, nExt, zero5, Bool.toNat_false] at hw
    refine ⟨by omega, ?_⟩
    have f0 : fld 5 w 59 = h_g := fld_eq (by omega)
    have f1 : flg w 52 = h_k := flg_eq (by omega)
    have f2 : flg w 51 = false := flg_eq (by simp; omega)
    have f3 : fld 5 w 46 = d := fld_eq (by omega)
    have f4 : fld 5 w 41 = 0 := fld_eq (by simp; omega)
    have f5 : flg w 40 = true := flg_eq (by simp; omega)
    have f6 : fld 32 w 8 = i := fld_eq (by omega)
    have f7 : num 8 w 0 = 0 := by simp only [num]; omega
    have f8 : num 6 w 53 = 20 := by simp only [num]; omega
    have hst : h_st = ⟨0, 0, 0⟩ := offZero hp
    subst hst
    simp [readBack, decodeC, accept, hwf, immOf, immZ, Imm.extNat, noOff, Except.toOption, f0, f1, f2, f3, f4, f5, f6, f7, f8]

theorem RoundTrip.xcpC (h : CHead) (a : BitVec 5) (f : BitVec 3) (r : BitVec 9) : RoundTrip.Statement (.xcpC h a f r) := by
  obtain ⟨h_slot, h_g, h_k, h_st⟩ := h
  cases h_slot
  · have b0 := h_g.isLt
    have b2 := Bool.toNat_le h_k
    have b3 := a.isLt
    have b4 := f.isLt
    have b5 := r.isLt
    obtain ⟨w, hw⟩ : ∃ w, w = encCHead ⟨false, h_g, h_k, h_st⟩ 0x1A + a.toNat * 2 ^ 46 + f.toNat * 2 ^ 43 + r.toNat * 2 ^ 34 := ⟨_, rfl⟩
    refine .of (n := 64) (w := w) (k := 4) (e := 0) (by rw [hw]; rfl) rfl rfl fun hwf hp => ?_
    try simp only [encSR, encSI, encSHead, encFn, encVR, encVM, encVI, encVA, encVHead, encMHead, encCHead, encCI, encCE, encKR, xShort, xExt, nShort, nExt, zero5, Bool.toNat_false] at hw
    refine ⟨by omega, ?_⟩
    have f0 : fld 5 w 59 = h_g := fld_eq (by omega)
    have f1 : flg w 52 = h_k := flg_eq (by omega)
    have f2 : flg w 51 = false := flg_eq (by simp; omega)
    have f3 : fld 5 w 46 = a := fld_eq (by omega)
    have f4 : num 8 w 0 = 0 := by simp only [num]; omega
    have f5 : fld 5 w 29 = 0 := fld_eq (by simp; omega)
    have f6 : fld 5 w 24 = 0 := fld_eq (by simp; omega)
    have f7 : fld 5 w 19 = 0 := fld_eq (by simp; omega)
    have f8 : fld 7 w 12 = 0 := fld_eq (by simp; omega)
    have f9 : num 12 w 0 = 0 := by simp only [num]; omega
    have f10 : num 34 w 0 = 0 := by simp only [num]; omega
    have f11 : fld 3 w 43 = f := fld_eq (by omega)
    have f12 : fld 9 w 34 = r := fld_eq (by omega)
    have f13 : num 6 w 53 = 26 := by simp only [num]; omega
    have hst : h_st = ⟨0, 0, 0⟩ := offZero hp
    subst hst
    simp [readBack, decodeC, accept, hwf, immOf, immZ, Imm.extNat, noOff, Except.toOption, f0, f1, f2, f3, f4, f5, f6, f7, f8, f9, f10, f11, f12, f13]
  · have b0 := h_g.isLt
    have b2 := Bool.toNat_le h_k
    have b3 := a.isLt
    have b4 := f.isLt
    have b5 := r.isLt
    obtain ⟨w, hw⟩ : ∃ w, w = encCHead ⟨true, h_g, h_k, h_st⟩ 0x1A + a.toNat * 2 ^ 46 + f.toNat * 2 ^ 43 + r.toNat * 2 ^ 34 := ⟨_, rfl⟩
    refine .of (n := 64) (w := w) (k := 5) (e := 0) (by rw [hw]; rfl) rfl rfl fun hwf hp => ?_
    try simp only [encSR, encSI, encSHead, encFn, encVR, encVM, encVI, encVA, encVHead, encMHead, encCHead, encCI, encCE, encKR, xShort, xExt, nShort, nExt, zero5, Bool.toNat_false] at hw
    refine ⟨by omega, ?_⟩
    have f0 : fld 5 w 59 = h_g := fld_eq (by omega)
    have f1 : flg w 52 = h_k := flg_eq (by omega)
    have f2 : flg w 51 = false := flg_eq (by simp; omega)
    have f3 : fld 5 w 46 = a := fld_eq (by omega)
    have f4 : num 8 w 0 = 0 := by simp only [num]; omega
    have f5 : fld 5 w 29 = 0 := fld_eq (by simp; omega)
    have f6 : fld 5 w 24 = 0 := fld_eq (by simp; omega)
    have f7 : fld 5 w 19 = 0 := fld_eq (by simp; omega)
    have f8 : fld 7 w 12 = 0 := fld_eq (by simp; omega)
    have f9 : num 12 w 0 = 0 := by simp only [num]; omega
    have f10 : num 34 w 0 = 0 := by simp only [num]; omega
    have f11 : fld 3 w 43 = f := fld_eq (by omega)
    have f12 : fld 9 w 34 = r := fld_eq (by omega)
    have f13 : num 6 w 53 = 26 := by simp only [num]; omega
    have hst : h_st = ⟨0, 0, 0⟩ := offZero hp
    subst hst
    simp [readBack, decodeC, accept, hwf, immOf, immZ, Imm.extNat, noOff, Except.toOption, f0, f1, f2, f3, f4, f5, f6, f7, f8, f9, f10, f11, f12, f13]

theorem RoundTrip.cmptC (h : CHead) (a : BitVec 5) (b : BitVec 5) : RoundTrip.Statement (.cmptC h a b) := by
  obtain ⟨h_slot, h_g, h_k, h_st⟩ := h
  cases h_slot
  · have b0 := h_g.isLt
    have b2 := Bool.toNat_le h_k
    have b3 := a.isLt
    have b4 := b.isLt
    obtain ⟨w, hw⟩ : ∃ w, w = encCI 0x1E ⟨false, h_g, h_k, h_st⟩ 0 a (.reg b) := ⟨_, rfl⟩
    refine .of (n := 64) (w := w) (k := 4) (e := 0) (by rw [hw]; rfl) rfl rfl fun hwf hp => ?_
    try simp only [encSR, encSI, encSHead, encFn, encVR, encVM, encVI, encVA, encVHead, encMHead, encCHead, encCI, encCE, encKR, xShort, xExt, nShort, nExt, zero5, Bool.toNat_false] at hw
    refine ⟨by omega, ?_⟩
    have f0 : fld 5 w 59 = h_g := fld_eq (by omega)
    have f1 : flg w 52 = h_k := flg_eq (by omega)
    have f2 : flg w 51 = false := flg_eq (by simp; omega)
    have f3 : fld 5 w 46 = 0 := fld_eq (by simp; omega)
    have f4 : fld 5 w 41 = a := fld_eq (by omega)
    have f5 : flg w 40 = false := flg_eq (by simp; omega)
    have f6 : fld 5 w 35 = b := fld_eq (by omega)
    have f7 : num 8 w 0 = 0 := by simp only [num]; omega
    have f8 : num 35 w 0 = 0 := by simp only [num]; omega
    have f9 : fld 5 w 29 = 0 := fld_eq (by simp; omega)
    have f10 : fld 5 w 24 = 0 := fld_eq (by simp; omega)
    have f11 : fld 5 w 19 = 0 := fld_eq (by simp; omega)
    have f12 : fld 7 w 12 = 0 := fld_eq (by simp; omega)
    have f13 : num 12 w 0 = 0 := by simp only [num]; omega
    have f14 : num 6 w 53 = 30 := by simp only [num]; omega
    have hst : h_st = ⟨0, 0, 0⟩ := offZero hp
    subst hst
    simp [readBack, decodeC, accept, hwf, immOf, immZ, Imm.extNat, noOff, Except.toOption, f0, f1, f2, f3, f4, f5, f6, f7, f8, f9, f10, f11, f12, f13, f14]
  · have b0 := h_g.isLt
    have b2 := Bool.toNat_le h_k
    have b3 := a.isLt
    have b4 := b.isLt
    obtain ⟨w, hw⟩ : ∃ w, w = encCI 0x1E ⟨true, h_g, h_k, h_st⟩ 0 a (.reg b) := ⟨_, rfl⟩
    refine .of (n := 64) (w := w) (k := 5) (e := 0) (by rw [hw]; rfl) rfl rfl fun hwf hp => ?_
    try simp only [encSR, encSI, encSHead, encFn, encVR, encVM, encVI, encVA, encVHead, encMHead, encCHead, encCI, encCE, encKR, xShort, xExt, nShort, nExt, zero5, Bool.toNat_false] at hw
    refine ⟨by omega, ?_⟩
    have f0 : fld 5 w 59 = h_g := fld_eq (by omega)
    have f1 : flg w 52 = h_k := flg_eq (by omega)
    have f2 : flg w 51 = false := flg_eq (by simp; omega)
    have f3 : fld 5 w 46 = 0 := fld_eq (by simp; omega)
    have f4 : fld 5 w 41 = a := fld_eq (by omega)
    have f5 : flg w 40 = false := flg_eq (by simp; omega)
    have f6 : fld 5 w 35 = b := fld_eq (by omega)
    have f7 : num 8 w 0 = 0 := by simp only [num]; omega
    have f8 : num 35 w 0 = 0 := by simp only [num]; omega
    have f9 : fld 5 w 29 = 0 := fld_eq (by simp; omega)
    have f10 : fld 5 w 24 = 0 := fld_eq (by simp; omega)
    have f11 : fld 5 w 19 = 0 := fld_eq (by simp; omega)
    have f12 : fld 7 w 12 = 0 := fld_eq (by simp; omega)
    have f13 : num 12 w 0 = 0 := by simp only [num]; omega
    have f14 : num 6 w 53 = 30 := by simp only [num]; omega
    have hst : h_st = ⟨0, 0, 0⟩ := offZero hp
    subst hst
    simp [readBack, decodeC, accept, hwf, immOf, immZ, Imm.extNat, noOff, Except.toOption, f0, f1, f2, f3, f4, f5, f6, f7, f8, f9, f10, f11, f12, f13, f14]

theorem RoundTrip.cpy (h : CHead) (o : CE) : RoundTrip.Statement (.cpy h o) := by
  obtain ⟨h_slot, h_g, h_k, h_st⟩ := h
  obtain ⟨o_tr, o_toff, o_ra, o_rb, o_rc, o_qual, o_imm⟩ := o
  cases o_imm with
  | short v =>
    cases h_slot
    · obtain ⟨w, hw⟩ : ∃ w, w = encCE 0x20 ⟨false, h_g, h_k, h_st⟩ ⟨o_tr, o_toff, o_ra, o_rb, o_rc, o_qual, (Imm.short v)⟩ := ⟨_, rfl⟩
      refine .of (n := 64) (w := w) (k := 4) (e := BitVec.ofNat 32 0) (by rw [hw]; rfl) rfl rfl fun hwf hp => ?_
      obtain ⟨lt, f0, f1, f2, f3, f4, f5, f6, f7, f8, f9, f10⟩ := ceShort (by decide) hw
      refine ⟨lt, ?_⟩
      have hst : h_st = ⟨0, 0, 0⟩ := offZero hp
      subst hst
      simp [readBack, decodeC, accept, hwf, immOf, immZ, Imm.extNat, noOff, Except.toOption, f0, f1, f2, f3, f4, f5, f6, f7, f8, f9, f10]
    · obtain ⟨w, hw⟩ : ∃ w, w = encCE 0x20 ⟨true, h_g, h_k, h_st⟩ ⟨o_tr, o_toff, o_ra, o_rb, o_rc, o_qual, (Imm.short v)⟩ := ⟨_, rfl⟩
      refine .of (n := 64) (w := w) (k := 5) (e := BitVec.ofNat 32 0) (by rw [hw]; rfl) rfl rfl fun hwf hp => ?_
      obtain ⟨lt, f0, f1, f2, f3, f4, f5, f6, f7, f8, f9, f10⟩ := ceShort (by decide) hw
      refine ⟨lt, ?_⟩
      have hst : h_st = ⟨0, 0, 0⟩ := offZero hp
      subst hst
      simp [readBack, decodeC, accept, hwf, immOf, immZ, Imm.extNat, noOff, Except.toOption, f0, f1, f2, f3, f4, f5, f6, f7, f8, f9, f10]
  | ext v =>
    cases h_slot
    · obtain ⟨w, hw⟩ : ∃ w, w = encCE 0x20 ⟨false, h_g, h_k, h_st⟩ ⟨o_tr, o_toff, o_ra, o_rb, o_rc, o_qual, (Imm.ext v : Imm 12)⟩ := ⟨_, rfl⟩
      refine .of (n := 64) (w := w) (k := 4) (e := BitVec.ofNat 32 v.toNat) (by rw [hw]; rfl) rfl rfl fun hwf hp => ?_
      obtain ⟨lt, f0, f1, f2, f3, f4, f5, f6, f7, f8, f9, f10⟩ := ceExt (by decide) hw
      refine ⟨lt, ?_⟩
      have hst : h_st = ⟨0, 0, 0⟩ := offZero hp
      subst hst
      simp [readBack, decodeC, accept, hwf, immOf, immZ, Imm.extNat, noOff, Except.toOption, f0, f1, f2, f3, f4, f5, f6, f7, f8, f9, f10]
    · obtain ⟨w, hw⟩ : ∃ w, w = encCE 0x20 ⟨true, h_g, h_k, h_st⟩ ⟨o_tr, o_toff, o_ra, o_rb, o_rc, o_qual, (Imm.ext v : Imm 12)⟩ := ⟨_, rfl⟩
      refine .of (n := 64) (w := w) (k := 5) (e := BitVec.ofNat 32 v.toNat) (by rw [hw]; rfl) rfl rfl fun hwf hp => ?_
      obtain ⟨lt, f0, f1, f2, f3, f4, f5, f6, f7, f8, f9, f10⟩ := ceExt (by decide) hw
      refine ⟨lt, ?_⟩
      have hst : h_st = ⟨0, 0, 0⟩ := offZero hp
      subst hst
      simp [readBack, decodeC, accept, hwf, immOf, immZ, Imm.extNat, noOff, Except.toOption, f0, f1, f2, f3, f4, f5, f6, f7, f8, f9, f10]

theorem RoundTrip.cpy2 (h : CHead) (o : CE) : RoundTrip.Statement (.cpy2 h o) := by
  obtain ⟨h_slot, h_g, h_k, h_st⟩ := h
  obtain ⟨o_tr, o_toff, o_ra, o_rb, o_rc, o_qual, o_imm⟩ := o
  cases o_imm with
  | short v =>
    cases h_slot
    · obtain ⟨w, hw⟩ : ∃ w, w = encCE 0x21 ⟨false, h_g, h_k, h_st⟩ ⟨o_tr, o_toff, o_ra, o_rb, o_rc, o_qual, (Imm.short v)⟩ := ⟨_, rfl⟩
      refine .of (n := 64) (w := w) (k := 4) (e := BitVec.ofNat 32 0) (by rw [hw]; rfl) rfl rfl fun hwf hp => ?_
      obtain ⟨lt, f0, f1, f2, f3, f4, f5, f6, f7, f8, f9, f10⟩ := ceShort (by decide) hw
      refine ⟨lt, ?_⟩
      have hst : h_st = ⟨0, 0, 0⟩ := offZero hp
      subst hst
      simp [readBack, decodeC, accept, hwf, immOf, immZ, Imm.extNat, noOff, Except.toOption, f0, f1, f2, f3, f4, f5, f6, f7, f8, f9, f10]
    · obtain ⟨w, hw⟩ : ∃ w, w = encCE 0x21 ⟨true, h_g, h_k, h_st⟩ ⟨o_tr, o_toff, o_ra, o_rb, o_rc, o_qual, (Imm.short v)⟩ := ⟨_, rfl⟩
      refine .of (n := 64) (w := w) (k := 5) (e := BitVec.ofNat 32 0) (by rw [hw]; rfl) rfl rfl fun hwf hp => ?_
      obtain ⟨lt, f0, f1, f2, f3, f4, f5, f6, f7, f8, f9, f10⟩ := ceShort (by decide) hw
      refine ⟨lt, ?_⟩
      have hst : h_st = ⟨0, 0, 0⟩ := offZero hp
      subst hst
      simp [readBack, decodeC, accept, hwf, immOf, immZ, Imm.extNat, noOff, Except.toOption, f0, f1, f2, f3, f4, f5, f6, f7, f8, f9, f10]
  | ext v =>
    cases h_slot
    · obtain ⟨w, hw⟩ : ∃ w, w = encCE 0x21 ⟨false, h_g, h_k, h_st⟩ ⟨o_tr, o_toff, o_ra, o_rb, o_rc, o_qual, (Imm.ext v : Imm 12)⟩ := ⟨_, rfl⟩
      refine .of (n := 64) (w := w) (k := 4) (e := BitVec.ofNat 32 v.toNat) (by rw [hw]; rfl) rfl rfl fun hwf hp => ?_
      obtain ⟨lt, f0, f1, f2, f3, f4, f5, f6, f7, f8, f9, f10⟩ := ceExt (by decide) hw
      refine ⟨lt, ?_⟩
      have hst : h_st = ⟨0, 0, 0⟩ := offZero hp
      subst hst
      simp [readBack, decodeC, accept, hwf, immOf, immZ, Imm.extNat, noOff, Except.toOption, f0, f1, f2, f3, f4, f5, f6, f7, f8, f9, f10]
    · obtain ⟨w, hw⟩ : ∃ w, w = encCE 0x21 ⟨true, h_g, h_k, h_st⟩ ⟨o_tr, o_toff, o_ra, o_rb, o_rc, o_qual, (Imm.ext v : Imm 12)⟩ := ⟨_, rfl⟩
      refine .of (n := 64) (w := w) (k := 5) (e := BitVec.ofNat 32 v.toNat) (by rw [hw]; rfl) rfl rfl fun hwf hp => ?_
      obtain ⟨lt, f0, f1, f2, f3, f4, f5, f6, f7, f8, f9, f10⟩ := ceExt (by decide) hw
      refine ⟨lt, ?_⟩
      have hst : h_st = ⟨0, 0, 0⟩ := offZero hp
      subst hst
      simp [readBack, decodeC, accept, hwf, immOf, immZ, Imm.extNat, noOff, Except.toOption, f0, f1, f2, f3, f4, f5, f6, f7, f8, f9, f10]

theorem RoundTrip.cpyl (h : CHead) (o : CE) : RoundTrip.Statement (.cpyl h o) := by
  obtain ⟨h_slot, h_g, h_k, h_st⟩ := h
  obtain ⟨o_tr, o_toff, o_ra, o_rb, o_rc, o_qual, o_imm⟩ := o
  cases o_imm with
  | short v =>
    cases h_slot
    · obtain ⟨w, hw⟩ : ∃ w, w = encCE 0x22 ⟨false, h_g, h_k, h_st⟩ ⟨o_tr, o_toff, o_ra, o_rb, o_rc, o_qual, (Imm.short v)⟩ := ⟨_, rfl⟩
      refine .of (n := 64) (w := w) (k := 4) (e := BitVec.ofNat 32 0) (by rw [hw]; rfl) rfl rfl fun hwf hp => ?_
      obtain ⟨lt, f0, f1, f2, f3, f4, f5, f6, f7, f8, f9, f10⟩ := ceShort (by decide) hw
      refine ⟨lt, ?_⟩
      have hst : h_st = ⟨0, 0, 0⟩ := offZero hp
      subst hst
      simp [readBack, decodeC, accept, hwf, immOf, immZ, Imm.extNat, noOff, Except.toOption, f0, f1, f2, f3, f4, f5, f6, f7, f8, f9, f10]
    · obtain ⟨w, hw⟩ : ∃ w, w = encCE 0x22 ⟨true, h_g, h_k, h_st⟩ ⟨o_tr, o_toff, o_ra, o_rb, o_rc, o_qual, (Imm.short v)⟩ := ⟨_, rfl⟩
      refine .of (n := 64) (w := w) (k := 5) (e := BitVec.ofNat 32 0) (by rw [hw]; rfl) rfl rfl fun hwf hp => ?_
      obtain ⟨lt, f0, f1, f2, f3, f4, f5, f6, f7, f8, f9, f10⟩ := ceShort (by decide) hw
      refine ⟨lt, ?_⟩
      have hst : h_st = ⟨0, 0, 0⟩ := offZero hp
      subst hst
      simp [readBack, decodeC, accept, hwf, immOf, immZ, Imm.extNat, noOff, Except.toOption, f0, f1, f2, f3, f4, f5, f6, f7, f8, f9, f10]
  | ext v =>
    cases h_slot
    · obtain ⟨w, hw⟩ : ∃ w, w = encCE 0x22 ⟨false, h_g, h_k, h_st⟩ ⟨o_tr, o_toff, o_ra, o_rb, o_rc, o_qual, (Imm.ext v : Imm 12)⟩ := ⟨_, rfl⟩
      refine .of (n := 64) (w := w) (k := 4) (e := BitVec.ofNat 32 v.toNat) (by rw [hw]; rfl) rfl rfl fun hwf hp => ?_
      obtain ⟨lt, f0, f1, f2, f3, f4, f5, f6, f7, f8, f9, f10⟩ := ceExt (by decide) hw
      refine ⟨lt, ?_⟩
      have hst : h_st = ⟨0, 0, 0⟩ := offZero hp
      subst hst
      simp [readBack, decodeC, accept, hwf, immOf, immZ, Imm.extNat, noOff, Except.toOption, f0, f1, f2, f3, f4, f5, f6, f7, f8, f9, f10]
    · obtain ⟨w, hw⟩ : ∃ w, w = encCE 0x22 ⟨true, h_g, h_k, h_st⟩ ⟨o_tr, o_toff, o_ra, o_rb, o_rc, o_qual, (Imm.ext v : Imm 12)⟩ := ⟨_, rfl⟩
      refine .of (n := 64) (w := w) (k := 5) (e := BitVec.ofNat 32 v.toNat) (by rw [hw]; rfl) rfl rfl fun hwf hp => ?_
      obtain ⟨lt, f0, f1, f2, f3, f4, f5, f6, f7, f8, f9, f10⟩ := ceExt (by decide) hw
      refine ⟨lt, ?_⟩
      have hst : h_st = ⟨0, 0, 0⟩ := offZero hp
      subst hst
      simp [readBack, decodeC, accept, hwf, immOf, immZ, Imm.extNat, noOff, Except.toOption, f0, f1, f2, f3, f4, f5, f6, f7, f8, f9, f10]

theorem RoundTrip.put (h : CHead) (sr : BitVec 12) (dr : BitVec 12) (n1 : BitVec 4) (lr : BitVec 5) (lc : BitVec 5) : RoundTrip.Statement (.put h sr dr n1 lr lc) := by
  obtain ⟨h_slot, h_g, h_k, h_st⟩ := h
  cases h_slot
  · have b0 := h_g.isLt
    have b2 := Bool.toNat_le h_k
    have b3 := sr.isLt
    have b4 := dr.isLt
    have b5 := n1.isLt
    have b6 := lr.isLt
    have b7 := lc.isLt
    obtain ⟨w, hw⟩ : ∃ w, w = encCHead ⟨false, h_g, h_k, h_st⟩ 0x23 + sr.toNat * 2 ^ 39 + dr.toNat * 2 ^ 27 + n1.toNat * 2 ^ 23 + lr.toNat * 2 ^ 18 + lc.toNat * 2 ^ 13 := ⟨_, rfl⟩
    refine .of (n := 64) (w := w) (k := 4) (e := 0) (by rw [hw]; rfl) rfl rfl fun hwf hp => ?_
    try simp only [encSR, encSI, encSHead, encFn, encVR, encVM, encVI, encVA, encVHead, encMHead, encCHead, encCI, encCE, encKR, xShort, xExt, nShort, nExt, zero5, Bool.toNat_false] at hw
    refine ⟨by omega, ?_⟩
    have f0 : fld 5 w 59 = h_g := fld_eq (by omega)
    have f1 : flg w 52 = h_k := flg_eq (by omega)
    have f2 : flg w 51 = false := flg_eq (by simp; omega)
    have f3 : num 8 w 0 = 0 := by simp only [num]; omega
    have f4 : num 12 w 0 = 0 := by simp only [num]; omega
    have f5 : num 13 w 0 = 0 := by simp only [num]; omega
    have f6 : fld 12 w 39 = sr := fld_eq (by omega)
    have f7 : fld 12 w 27 = dr := fld_eq (by omega)
    have f8 : fld 4 w 23 = n1 := fld_eq (by omega)
    have f9 : fld 5 w 18 = lr := fld_eq (by omega)
    have f10 : fld 5 w 13 = lc := fld_eq (by omega)
    have f11 : num 6 w 53 = 35 := by simp only [num]; omega
    have hst : h_st = ⟨0, 0, 0⟩ := offZero hp
    subst hst
    simp [readBack, decodeC, accept, hwf, immOf, immZ, Imm.extNat, noOff, Except.toOption, f0, f1, f2, f3, f4, f5, f6, f7, f8, f9, f10, f11]
  · have b0 := h_g.isLt
    have b2 := Bool.toNat_le h_k
    have b3 := sr.isLt
    have b4 := dr.isLt
    have b5 := n1.isLt
    have b6 := lr.isLt
    have b7 := lc.isLt
    obtain ⟨w, hw⟩ : ∃ w, w = encCHead ⟨true, h_g, h_k, h_st⟩ 0x23 + sr.toNat * 2 ^ 39 + dr.toNat * 2 ^ 27 + n1.toNat * 2 ^ 23 + lr.toNat * 2 ^ 18 + lc.toNat * 2 ^ 13 := ⟨_, rfl⟩
    refine .of (n := 64) (w := w) (k := 5) (e := 0) (by rw [hw]; rfl) rfl rfl fun hwf hp => ?_
    try simp only [encSR, encSI, encSHead, encFn, encVR, encVM, encVI, encVA, encVHead, encMHead, encCHead, encCI, encCE, encKR, xShort, xExt, nShort, nExt, zero5, Bool.toNat_false] at hw
    refine ⟨by omega, ?_⟩
    have f0 : fld 5 w 59 = h_g := fld_eq (by omega)
    have f1 : flg w 52 = h_k := flg_eq (by omega)
    have f2 : flg w 51 = false := flg_eq (by simp; omega)
    have f3 : num 8 w 0 = 0 := by simp only [num]; omega
    have f4 : num 12 w 0 = 0 := by simp only [num]; omega
    have f5 : num 13 w 0 = 0 := by simp only [num]; omega
    have f6 : fld 12 w 39 = sr := fld_eq (by omega)
    have f7 : fld 12 w 27 = dr := fld_eq (by omega)
    have f8 : fld 4 w 23 = n1 := fld_eq (by omega)
    have f9 : fld 5 w 18 = lr := fld_eq (by omega)
    have f10 : fld 5 w 13 = lc := fld_eq (by omega)
    have f11 : num 6 w 53 = 35 := by simp only [num]; omega
    have hst : h_st = ⟨0, 0, 0⟩ := offZero hp
    subst hst
    simp [readBack, decodeC, accept, hwf, immOf, immZ, Imm.extNat, noOff, Except.toOption, f0, f1, f2, f3, f4, f5, f6, f7, f8, f9, f10, f11]

theorem RoundTrip.give (h : CHead) (wd : Bool) (q : BitVec 6) (n : BitVec 7) : RoundTrip.Statement (.give h wd q n) := by
  obtain ⟨h_slot, h_g, h_k, h_st⟩ := h
  cases h_slot
  · have b0 := h_g.isLt
    have b2 := Bool.toNat_le h_k
    have b3 := Bool.toNat_le wd
    have b4 := q.isLt
    have b5 := n.isLt
    obtain ⟨w, hw⟩ : ∃ w, w = encCHead ⟨false, h_g, h_k, h_st⟩ 0x24 + wd.toNat * 2 ^ 50 + q.toNat * 2 ^ 44 + n.toNat * 2 ^ 37 := ⟨_, rfl⟩
    refine .of (n := 64) (w := w) (k := 4) (e := 0) (by rw [hw]; rfl) rfl rfl fun hwf hp => ?_
    try simp only [encSR, encSI, encSHead, encFn, encVR, encVM, encVI, encVA, encVHead, encMHead, encCHead, encCI, encCE, encKR, xShort, xExt, nShort, nExt, zero5, Bool.toNat_false] at hw
    refine ⟨by omega, ?_⟩
    have f0 : fld 5 w 59 = h_g := fld_eq (by omega)
    have f1 : flg w 52 = h_k := flg_eq (by omega)
    have f2 : flg w 51 = false := flg_eq (by simp; omega)
    have f3 : num 8 w 0 = 0 := by simp only [num]; omega
    have f4 : num 35 w 0 = 0 := by simp only [num]; omega
    have f5 : fld 5 w 29 = 0 := fld_eq (by simp; omega)
    have f6 : fld 5 w 24 = 0 := fld_eq (by simp; omega)
    have f7 : fld 5 w 19 = 0 := fld_eq (by simp; omega)
    have f8 : fld 7 w 12 = 0 := fld_eq (by simp; omega)
    have f9 : num 12 w 0 = 0 := by simp only [num]; omega
    have f10 : num 37 w 0 = 0 := by simp only [num]; omega
    have f11 : flg w 50 = wd := flg_eq (by omega)
    have f12 : fld 6 w 44 = q := fld_eq (by omega)
    have f13 : fld 7 w 37 = n := fld_eq (by omega)
    have f14 : num 6 w 53 = 36 := by simp only [num]; omega
    have hst : h_st = ⟨0, 0, 0⟩ := offZero hp
    subst hst
    simp [readBack, decodeC, accept, hwf, immOf, immZ, Imm.extNat, noOff, Except.toOption, f0, f1, f2, f3, f4, f5, f6, f7, f8, f9, f10, f11, f12, f13, f14]
  · have b0 := h_g.isLt
    have b2 := Bool.toNat_le h_k
    have b3 := Bool.toNat_le wd
    have b4 := q.isLt
    have b5 := n.isLt
    obtain ⟨w, hw⟩ : ∃ w, w = encCHead ⟨true, h_g, h_k, h_st⟩ 0x24 + wd.toNat * 2 ^ 50 + q.toNat * 2 ^ 44 + n.toNat * 2 ^ 37 := ⟨_, rfl⟩
    refine .of (n := 64) (w := w) (k := 5) (e := 0) (by rw [hw]; rfl) rfl rfl fun hwf hp => ?_
    try simp only [encSR, encSI, encSHead, encFn, encVR, encVM, encVI, encVA, encVHead, encMHead, encCHead, encCI, encCE, encKR, xShort, xExt, nShort, nExt, zero5, Bool.toNat_false] at hw
    refine ⟨by omega, ?_⟩
    have f0 : fld 5 w 59 = h_g := fld_eq (by omega)
    have f1 : flg w 52 = h_k := flg_eq (by omega)
    have f2 : flg w 51 = false := flg_eq (by simp; omega)
    have f3 : num 8 w 0 = 0 := by simp only [num]; omega
    have f4 : num 35 w 0 = 0 := by simp only [num]; omega
    have f5 : fld 5 w 29 = 0 := fld_eq (by simp; omega)
    have f6 : fld 5 w 24 = 0 := fld_eq (by simp; omega)
    have f7 : fld 5 w 19 = 0 := fld_eq (by simp; omega)
    have f8 : fld 7 w 12 = 0 := fld_eq (by simp; omega)
    have f9 : num 12 w 0 = 0 := by simp only [num]; omega
    have f10 : num 37 w 0 = 0 := by simp only [num]; omega
    have f11 : flg w 50 = wd := flg_eq (by omega)
    have f12 : fld 6 w 44 = q := fld_eq (by omega)
    have f13 : fld 7 w 37 = n := fld_eq (by omega)
    have f14 : num 6 w 53 = 36 := by simp only [num]; omega
    have hst : h_st = ⟨0, 0, 0⟩ := offZero hp
    subst hst
    simp [readBack, decodeC, accept, hwf, immOf, immZ, Imm.extNat, noOff, Except.toOption, f0, f1, f2, f3, f4, f5, f6, f7, f8, f9, f10, f11, f12, f13, f14]

theorem RoundTrip.take (h : CHead) (q : BitVec 6) (n : BitVec 7) : RoundTrip.Statement (.take h q n) := by
  obtain ⟨h_slot, h_g, h_k, h_st⟩ := h
  cases h_slot
  · have b0 := h_g.isLt
    have b2 := Bool.toNat_le h_k
    have b3 := q.isLt
    have b4 := n.isLt
    obtain ⟨w, hw⟩ : ∃ w, w = encCHead ⟨false, h_g, h_k, h_st⟩ 0x25 + q.toNat * 2 ^ 44 + n.toNat * 2 ^ 37 := ⟨_, rfl⟩
    refine .of (n := 64) (w := w) (k := 4) (e := 0) (by rw [hw]; rfl) rfl rfl fun hwf hp => ?_
    try simp only [encSR, encSI, encSHead, encFn, encVR, encVM, encVI, encVA, encVHead, encMHead, encCHead, encCI, encCE, encKR, xShort, xExt, nShort, nExt, zero5, Bool.toNat_false] at hw
    refine ⟨by omega, ?_⟩
    have f0 : fld 5 w 59 = h_g := fld_eq (by omega)
    have f1 : flg w 52 = h_k := flg_eq (by omega)
    have f2 : flg w 51 = false := flg_eq (by simp; omega)
    have f3 : num 8 w 0 = 0 := by simp only [num]; omega
    have f4 : num 35 w 0 = 0 := by simp only [num]; omega
    have f5 : fld 5 w 29 = 0 := fld_eq (by simp; omega)
    have f6 : fld 5 w 24 = 0 := fld_eq (by simp; omega)
    have f7 : fld 5 w 19 = 0 := fld_eq (by simp; omega)
    have f8 : fld 7 w 12 = 0 := fld_eq (by simp; omega)
    have f9 : num 12 w 0 = 0 := by simp only [num]; omega
    have f10 : flg w 50 = false := flg_eq (by simp; omega)
    have f11 : num 37 w 0 = 0 := by simp only [num]; omega
    have f12 : fld 6 w 44 = q := fld_eq (by omega)
    have f13 : fld 7 w 37 = n := fld_eq (by omega)
    have f14 : num 6 w 53 = 37 := by simp only [num]; omega
    have hst : h_st = ⟨0, 0, 0⟩ := offZero hp
    subst hst
    simp [readBack, decodeC, accept, hwf, immOf, immZ, Imm.extNat, noOff, Except.toOption, f0, f1, f2, f3, f4, f5, f6, f7, f8, f9, f10, f11, f12, f13, f14]
  · have b0 := h_g.isLt
    have b2 := Bool.toNat_le h_k
    have b3 := q.isLt
    have b4 := n.isLt
    obtain ⟨w, hw⟩ : ∃ w, w = encCHead ⟨true, h_g, h_k, h_st⟩ 0x25 + q.toNat * 2 ^ 44 + n.toNat * 2 ^ 37 := ⟨_, rfl⟩
    refine .of (n := 64) (w := w) (k := 5) (e := 0) (by rw [hw]; rfl) rfl rfl fun hwf hp => ?_
    try simp only [encSR, encSI, encSHead, encFn, encVR, encVM, encVI, encVA, encVHead, encMHead, encCHead, encCI, encCE, encKR, xShort, xExt, nShort, nExt, zero5, Bool.toNat_false] at hw
    refine ⟨by omega, ?_⟩
    have f0 : fld 5 w 59 = h_g := fld_eq (by omega)
    have f1 : flg w 52 = h_k := flg_eq (by omega)
    have f2 : flg w 51 = false := flg_eq (by simp; omega)
    have f3 : num 8 w 0 = 0 := by simp only [num]; omega
    have f4 : num 35 w 0 = 0 := by simp only [num]; omega
    have f5 : fld 5 w 29 = 0 := fld_eq (by simp; omega)
    have f6 : fld 5 w 24 = 0 := fld_eq (by simp; omega)
    have f7 : fld 5 w 19 = 0 := fld_eq (by simp; omega)
    have f8 : fld 7 w 12 = 0 := fld_eq (by simp; omega)
    have f9 : num 12 w 0 = 0 := by simp only [num]; omega
    have f10 : flg w 50 = false := flg_eq (by simp; omega)
    have f11 : num 37 w 0 = 0 := by simp only [num]; omega
    have f12 : fld 6 w 44 = q := fld_eq (by omega)
    have f13 : fld 7 w 37 = n := fld_eq (by omega)
    have f14 : num 6 w 53 = 37 := by simp only [num]; omega
    have hst : h_st = ⟨0, 0, 0⟩ := offZero hp
    subst hst
    simp [readBack, decodeC, accept, hwf, immOf, immZ, Imm.extNat, noOff, Except.toOption, f0, f1, f2, f3, f4, f5, f6, f7, f8, f9, f10, f11, f12, f13, f14]

theorem RoundTrip.atom (h : CHead) (o : CE) : RoundTrip.Statement (.atom h o) := by
  obtain ⟨h_slot, h_g, h_k, h_st⟩ := h
  obtain ⟨o_tr, o_toff, o_ra, o_rb, o_rc, o_qual, o_imm⟩ := o
  cases o_imm with
  | short v =>
    cases h_slot
    · obtain ⟨w, hw⟩ : ∃ w, w = encCE 0x26 ⟨false, h_g, h_k, h_st⟩ ⟨o_tr, o_toff, o_ra, o_rb, o_rc, o_qual, (Imm.short v)⟩ := ⟨_, rfl⟩
      refine .of (n := 64) (w := w) (k := 4) (e := 0) (by rw [hw]; rfl) rfl rfl fun hwf hp => ?_
      obtain ⟨lt, f0, f1, f2, f3, f4, f5, f6, f7, f8, f9, f10⟩ := ceShort (by decide) hw
      refine ⟨lt, ?_⟩
      have hst : h_st = ⟨0, 0, 0⟩ := offZero hp
      subst hst
      simp [readBack, decodeC, accept, hwf, immOf, immZ, Imm.extNat, noOff, Except.toOption, f0, f1, f2, f3, f4, f5, f6, f7, f8, f9, f10]
    · obtain ⟨w, hw⟩ : ∃ w, w = encCE 0x26 ⟨true, h_g, h_k, h_st⟩ ⟨o_tr, o_toff, o_ra, o_rb, o_rc, o_qual, (Imm.short v)⟩ := ⟨_, rfl⟩
      refine .of (n := 64) (w := w) (k := 5) (e := 0) (by rw [hw]; rfl) rfl rfl fun hwf hp => ?_
      obtain ⟨lt, f0, f1, f2, f3, f4, f5, f6, f7, f8, f9, f10⟩ := ceShort (by decide) hw
      refine ⟨lt, ?_⟩
      have hst : h_st = ⟨0, 0, 0⟩ := offZero hp
      subst hst
      simp [readBack, decodeC, accept, hwf, immOf, immZ, Imm.extNat, noOff, Except.toOption, f0, f1, f2, f3, f4, f5, f6, f7, f8, f9, f10]
  | ext v => intro n w hwf; delta Instr.wf at hwf; simp [Imm.noExt, Imm.isZero] at hwf

theorem RoundTrip.sig (h : CHead) (o : CE) : RoundTrip.Statement (.sig h o) := by
  obtain ⟨h_slot, h_g, h_k, h_st⟩ := h
  obtain ⟨o_tr, o_toff, o_ra, o_rb, o_rc, o_qual, o_imm⟩ := o
  cases o_imm with
  | short v =>
    cases h_slot
    · obtain ⟨w, hw⟩ : ∃ w, w = encCE 0x27 ⟨false, h_g, h_k, h_st⟩ ⟨o_tr, o_toff, o_ra, o_rb, o_rc, o_qual, (Imm.short v)⟩ := ⟨_, rfl⟩
      refine .of (n := 64) (w := w) (k := 4) (e := 0) (by rw [hw]; rfl) rfl rfl fun hwf hp => ?_
      obtain ⟨lt, f0, f1, f2, f3, f4, f5, f6, f7, f8, f9, f10⟩ := ceShort (by decide) hw
      refine ⟨lt, ?_⟩
      have hst : h_st = ⟨0, 0, 0⟩ := offZero hp
      subst hst
      simp [readBack, decodeC, accept, hwf, immOf, immZ, Imm.extNat, noOff, Except.toOption, f0, f1, f2, f3, f4, f5, f6, f7, f8, f9, f10]
    · obtain ⟨w, hw⟩ : ∃ w, w = encCE 0x27 ⟨true, h_g, h_k, h_st⟩ ⟨o_tr, o_toff, o_ra, o_rb, o_rc, o_qual, (Imm.short v)⟩ := ⟨_, rfl⟩
      refine .of (n := 64) (w := w) (k := 5) (e := 0) (by rw [hw]; rfl) rfl rfl fun hwf hp => ?_
      obtain ⟨lt, f0, f1, f2, f3, f4, f5, f6, f7, f8, f9, f10⟩ := ceShort (by decide) hw
      refine ⟨lt, ?_⟩
      have hst : h_st = ⟨0, 0, 0⟩ := offZero hp
      subst hst
      simp [readBack, decodeC, accept, hwf, immOf, immZ, Imm.extNat, noOff, Except.toOption, f0, f1, f2, f3, f4, f5, f6, f7, f8, f9, f10]
  | ext v => intro n w hwf; delta Instr.wf at hwf; simp [Imm.noExt, Imm.isZero] at hwf

theorem RoundTrip.fence (h : CHead) (o : CE) : RoundTrip.Statement (.fence h o) := by
  obtain ⟨h_slot, h_g, h_k, h_st⟩ := h
  obtain ⟨o_tr, o_toff, o_ra, o_rb, o_rc, o_qual, o_imm⟩ := o
  cases o_imm with
  | short v =>
    cases h_slot
    · obtain ⟨w, hw⟩ : ∃ w, w = encCE 0x28 ⟨false, h_g, h_k, h_st⟩ ⟨o_tr, o_toff, o_ra, o_rb, o_rc, o_qual, (Imm.short v)⟩ := ⟨_, rfl⟩
      refine .of (n := 64) (w := w) (k := 4) (e := 0) (by rw [hw]; rfl) rfl rfl fun hwf hp => ?_
      obtain ⟨lt, f0, f1, f2, f3, f4, f5, f6, f7, f8, f9, f10⟩ := ceShort (by decide) hw
      refine ⟨lt, ?_⟩
      have hst : h_st = ⟨0, 0, 0⟩ := offZero hp
      subst hst
      simp [readBack, decodeC, accept, hwf, immOf, immZ, Imm.extNat, noOff, Except.toOption, f0, f1, f2, f3, f4, f5, f6, f7, f8, f9, f10]
    · obtain ⟨w, hw⟩ : ∃ w, w = encCE 0x28 ⟨true, h_g, h_k, h_st⟩ ⟨o_tr, o_toff, o_ra, o_rb, o_rc, o_qual, (Imm.short v)⟩ := ⟨_, rfl⟩
      refine .of (n := 64) (w := w) (k := 5) (e := 0) (by rw [hw]; rfl) rfl rfl fun hwf hp => ?_
      obtain ⟨lt, f0, f1, f2, f3, f4, f5, f6, f7, f8, f9, f10⟩ := ceShort (by decide) hw
      refine ⟨lt, ?_⟩
      have hst : h_st = ⟨0, 0, 0⟩ := offZero hp
      subst hst
      simp [readBack, decodeC, accept, hwf, immOf, immZ, Imm.extNat, noOff, Except.toOption, f0, f1, f2, f3, f4, f5, f6, f7, f8, f9, f10]
  | ext v => intro n w hwf; delta Instr.wf at hwf; simp [Imm.noExt, Imm.isZero] at hwf

theorem RoundTrip.coll (h : CHead) (o : CE) : RoundTrip.Statement (.coll h o) := by
  obtain ⟨h_slot, h_g, h_k, h_st⟩ := h
  obtain ⟨o_tr, o_toff, o_ra, o_rb, o_rc, o_qual, o_imm⟩ := o
  cases o_imm with
  | short v =>
    cases h_slot
    · obtain ⟨w, hw⟩ : ∃ w, w = encCE 0x29 ⟨false, h_g, h_k, h_st⟩ ⟨o_tr, o_toff, o_ra, o_rb, o_rc, o_qual, (Imm.short v)⟩ := ⟨_, rfl⟩
      refine .of (n := 64) (w := w) (k := 4) (e := 0) (by rw [hw]; rfl) rfl rfl fun hwf hp => ?_
      obtain ⟨lt, f0, f1, f2, f3, f4, f5, f6, f7, f8, f9, f10⟩ := ceShort (by decide) hw
      refine ⟨lt, ?_⟩
      have hst : h_st = ⟨0, 0, 0⟩ := offZero hp
      subst hst
      simp [readBack, decodeC, accept, hwf, immOf, immZ, Imm.extNat, noOff, Except.toOption, f0, f1, f2, f3, f4, f5, f6, f7, f8, f9, f10]
    · obtain ⟨w, hw⟩ : ∃ w, w = encCE 0x29 ⟨true, h_g, h_k, h_st⟩ ⟨o_tr, o_toff, o_ra, o_rb, o_rc, o_qual, (Imm.short v)⟩ := ⟨_, rfl⟩
      refine .of (n := 64) (w := w) (k := 5) (e := 0) (by rw [hw]; rfl) rfl rfl fun hwf hp => ?_
      obtain ⟨lt, f0, f1, f2, f3, f4, f5, f6, f7, f8, f9, f10⟩ := ceShort (by decide) hw
      refine ⟨lt, ?_⟩
      have hst : h_st = ⟨0, 0, 0⟩ := offZero hp
      subst hst
      simp [readBack, decodeC, accept, hwf, immOf, immZ, Imm.extNat, noOff, Except.toOption, f0, f1, f2, f3, f4, f5, f6, f7, f8, f9, f10]
  | ext v => intro n w hwf; delta Instr.wf at hwf; simp [Imm.noExt, Imm.isZero] at hwf

theorem RoundTrip.cstk (h : CHead) (o : CE) : RoundTrip.Statement (.cstk h o) := by
  obtain ⟨h_slot, h_g, h_k, h_st⟩ := h
  obtain ⟨o_tr, o_toff, o_ra, o_rb, o_rc, o_qual, o_imm⟩ := o
  cases o_imm with
  | short v =>
    cases h_slot
    · obtain ⟨w, hw⟩ : ∃ w, w = encCE 0x2a ⟨false, h_g, h_k, h_st⟩ ⟨o_tr, o_toff, o_ra, o_rb, o_rc, o_qual, (Imm.short v)⟩ := ⟨_, rfl⟩
      refine .of (n := 64) (w := w) (k := 4) (e := 0) (by rw [hw]; rfl) rfl rfl fun hwf hp => ?_
      obtain ⟨lt, f0, f1, f2, f3, f4, f5, f6, f7, f8, f9, f10⟩ := ceShort (by decide) hw
      refine ⟨lt, ?_⟩
      have hst : h_st = ⟨0, 0, 0⟩ := offZero hp
      subst hst
      simp [readBack, decodeC, accept, hwf, immOf, immZ, Imm.extNat, noOff, Except.toOption, f0, f1, f2, f3, f4, f5, f6, f7, f8, f9, f10]
    · obtain ⟨w, hw⟩ : ∃ w, w = encCE 0x2a ⟨true, h_g, h_k, h_st⟩ ⟨o_tr, o_toff, o_ra, o_rb, o_rc, o_qual, (Imm.short v)⟩ := ⟨_, rfl⟩
      refine .of (n := 64) (w := w) (k := 5) (e := 0) (by rw [hw]; rfl) rfl rfl fun hwf hp => ?_
      obtain ⟨lt, f0, f1, f2, f3, f4, f5, f6, f7, f8, f9, f10⟩ := ceShort (by decide) hw
      refine ⟨lt, ?_⟩
      have hst : h_st = ⟨0, 0, 0⟩ := offZero hp
      subst hst
      simp [readBack, decodeC, accept, hwf, immOf, immZ, Imm.extNat, noOff, Except.toOption, f0, f1, f2, f3, f4, f5, f6, f7, f8, f9, f10]
  | ext v => intro n w hwf; delta Instr.wf at hwf; simp [Imm.noExt, Imm.isZero] at hwf

theorem RoundTrip.pgft (h : CHead) (o : CE) : RoundTrip.Statement (.pgft h o) := by
  obtain ⟨h_slot, h_g, h_k, h_st⟩ := h
  obtain ⟨o_tr, o_toff, o_ra, o_rb, o_rc, o_qual, o_imm⟩ := o
  cases o_imm with
  | short v =>
    cases h_slot
    · obtain ⟨w, hw⟩ : ∃ w, w = encCE 0x2b ⟨false, h_g, h_k, h_st⟩ ⟨o_tr, o_toff, o_ra, o_rb, o_rc, o_qual, (Imm.short v)⟩ := ⟨_, rfl⟩
      refine .of (n := 64) (w := w) (k := 4) (e := 0) (by rw [hw]; rfl) rfl rfl fun hwf hp => ?_
      obtain ⟨lt, f0, f1, f2, f3, f4, f5, f6, f7, f8, f9, f10⟩ := ceShort (by decide) hw
      refine ⟨lt, ?_⟩
      have hst : h_st = ⟨0, 0, 0⟩ := offZero hp
      subst hst
      simp [readBack, decodeC, accept, hwf, immOf, immZ, Imm.extNat, noOff, Except.toOption, f0, f1, f2, f3, f4, f5, f6, f7, f8, f9, f10]
    · obtain ⟨w, hw⟩ : ∃ w, w = encCE 0x2b ⟨true, h_g, h_k, h_st⟩ ⟨o_tr, o_toff, o_ra, o_rb, o_rc, o_qual, (Imm.short v)⟩ := ⟨_, rfl⟩
      refine .of (n := 64) (w := w) (k := 5) (e := 0) (by rw [hw]; rfl) rfl rfl fun hwf hp => ?_
      obtain ⟨lt, f0, f1, f2, f3, f4, f5, f6, f7, f8, f9, f10⟩ := ceShort (by decide) hw
      refine ⟨lt, ?_⟩
      have hst : h_st = ⟨0, 0, 0⟩ := offZero hp
      subst hst
      simp [readBack, decodeC, accept, hwf, immOf, immZ, Imm.extNat, noOff, Except.toOption, f0, f1, f2, f3, f4, f5, f6, f7, f8, f9, f10]
  | ext v => intro n w hwf; delta Instr.wf at hwf; simp [Imm.noExt, Imm.isZero] at hwf

theorem RoundTrip.preq (h : CHead) (o : CE) : RoundTrip.Statement (.preq h o) := by
  obtain ⟨h_slot, h_g, h_k, h_st⟩ := h
  obtain ⟨o_tr, o_toff, o_ra, o_rb, o_rc, o_qual, o_imm⟩ := o
  cases o_imm with
  | short v =>
    cases h_slot
    · obtain ⟨w, hw⟩ : ∃ w, w = encCE 0x2c ⟨false, h_g, h_k, h_st⟩ ⟨o_tr, o_toff, o_ra, o_rb, o_rc, o_qual, (Imm.short v)⟩ := ⟨_, rfl⟩
      refine .of (n := 64) (w := w) (k := 4) (e := 0) (by rw [hw]; rfl) rfl rfl fun hwf hp => ?_
      obtain ⟨lt, f0, f1, f2, f3, f4, f5, f6, f7, f8, f9, f10⟩ := ceShort (by decide) hw
      refine ⟨lt, ?_⟩
      have hst : h_st = ⟨0, 0, 0⟩ := offZero hp
      subst hst
      simp [readBack, decodeC, accept, hwf, immOf, immZ, Imm.extNat, noOff, Except.toOption, f0, f1, f2, f3, f4, f5, f6, f7, f8, f9, f10]
    · obtain ⟨w, hw⟩ : ∃ w, w = encCE 0x2c ⟨true, h_g, h_k, h_st⟩ ⟨o_tr, o_toff, o_ra, o_rb, o_rc, o_qual, (Imm.short v)⟩ := ⟨_, rfl⟩
      refine .of (n := 64) (w := w) (k := 5) (e := 0) (by rw [hw]; rfl) rfl rfl fun hwf hp => ?_
      obtain ⟨lt, f0, f1, f2, f3, f4, f5, f6, f7, f8, f9, f10⟩ := ceShort (by decide) hw
      refine ⟨lt, ?_⟩
      have hst : h_st = ⟨0, 0, 0⟩ := offZero hp
      subst hst
      simp [readBack, decodeC, accept, hwf, immOf, immZ, Imm.extNat, noOff, Except.toOption, f0, f1, f2, f3, f4, f5, f6, f7, f8, f9, f10]
  | ext v => intro n w hwf; delta Instr.wf at hwf; simp [Imm.noExt, Imm.isZero] at hwf

theorem RoundTrip.wbk (h : CHead) (o : CE) : RoundTrip.Statement (.wbk h o) := by
  obtain ⟨h_slot, h_g, h_k, h_st⟩ := h
  obtain ⟨o_tr, o_toff, o_ra, o_rb, o_rc, o_qual, o_imm⟩ := o
  cases o_imm with
  | short v =>
    cases h_slot
    · obtain ⟨w, hw⟩ : ∃ w, w = encCE 0x2d ⟨false, h_g, h_k, h_st⟩ ⟨o_tr, o_toff, o_ra, o_rb, o_rc, o_qual, (Imm.short v)⟩ := ⟨_, rfl⟩
      refine .of (n := 64) (w := w) (k := 4) (e := 0) (by rw [hw]; rfl) rfl rfl fun hwf hp => ?_
      obtain ⟨lt, f0, f1, f2, f3, f4, f5, f6, f7, f8, f9, f10⟩ := ceShort (by decide) hw
      refine ⟨lt, ?_⟩
      have hst : h_st = ⟨0, 0, 0⟩ := offZero hp
      subst hst
      simp [readBack, decodeC, accept, hwf, immOf, immZ, Imm.extNat, noOff, Except.toOption, f0, f1, f2, f3, f4, f5, f6, f7, f8, f9, f10]
    · obtain ⟨w, hw⟩ : ∃ w, w = encCE 0x2d ⟨true, h_g, h_k, h_st⟩ ⟨o_tr, o_toff, o_ra, o_rb, o_rc, o_qual, (Imm.short v)⟩ := ⟨_, rfl⟩
      refine .of (n := 64) (w := w) (k := 5) (e := 0) (by rw [hw]; rfl) rfl rfl fun hwf hp => ?_
      obtain ⟨lt, f0, f1, f2, f3, f4, f5, f6, f7, f8, f9, f10⟩ := ceShort (by decide) hw
      refine ⟨lt, ?_⟩
      have hst : h_st = ⟨0, 0, 0⟩ := offZero hp
      subst hst
      simp [readBack, decodeC, accept, hwf, immOf, immZ, Imm.extNat, noOff, Except.toOption, f0, f1, f2, f3, f4, f5, f6, f7, f8, f9, f10]
  | ext v => intro n w hwf; delta Instr.wf at hwf; simp [Imm.noExt, Imm.isZero] at hwf

theorem RoundTrip.mapr (h : CHead) (sl : BitVec 3) (q : BitVec 6) (n : BitVec 7) (ra : BitVec 5) : RoundTrip.Statement (.mapr h sl q n ra) := by
  obtain ⟨h_slot, h_g, h_k, h_st⟩ := h
  cases h_slot
  · have b0 := h_g.isLt
    have b2 := Bool.toNat_le h_k
    have b3 := sl.isLt
    have b4 := q.isLt
    have b5 := n.isLt
    have b6 := ra.isLt
    obtain ⟨w, hw⟩ : ∃ w, w = encCHead ⟨false, h_g, h_k, h_st⟩ 0x2E + sl.toNat * 2 ^ 48 + q.toNat * 2 ^ 42 + n.toNat * 2 ^ 35 + ra.toNat * 2 ^ 30 := ⟨_, rfl⟩
    refine .of (n := 64) (w := w) (k := 4) (e := 0) (by rw [hw]; rfl) rfl rfl fun hwf hp => ?_
    try simp only [encSR, encSI, encSHead, encFn, encVR, encVM, encVI, encVA, encVHead, encMHead, encCHead, encCI, encCE, encKR, xShort, xExt, nShort, nExt, zero5, Bool.toNat_false] at hw
    refine ⟨by omega, ?_⟩
    have f0 : fld 5 w 59 = h_g := fld_eq (by omega)
    have f1 : flg w 52 = h_k := flg_eq (by omega)
    have f2 : flg w 51 = false := flg_eq (by simp; omega)
    have f3 : num 8 w 0 = 0 := by simp only [num]; omega
    have f4 : fld 5 w 24 = 0 := fld_eq (by simp; omega)
    have f5 : fld 5 w 19 = 0 := fld_eq (by simp; omega)
    have f6 : fld 7 w 12 = 0 := fld_eq (by simp; omega)
    have f7 : num 12 w 0 = 0 := by simp only [num]; omega
    have f8 : num 30 w 0 = 0 := by simp only [num]; omega
    have f9 : fld 3 w 48 = sl := fld_eq (by omega)
    have f10 : fld 6 w 42 = q := fld_eq (by omega)
    have f11 : fld 7 w 35 = n := fld_eq (by omega)
    have f12 : fld 5 w 30 = ra := fld_eq (by omega)
    have f13 : num 6 w 53 = 46 := by simp only [num]; omega
    have hst : h_st = ⟨0, 0, 0⟩ := offZero hp
    subst hst
    simp [readBack, decodeC, accept, hwf, immOf, immZ, Imm.extNat, noOff, Except.toOption, f0, f1, f2, f3, f4, f5, f6, f7, f8, f9, f10, f11, f12, f13]
  · have b0 := h_g.isLt
    have b2 := Bool.toNat_le h_k
    have b3 := sl.isLt
    have b4 := q.isLt
    have b5 := n.isLt
    have b6 := ra.isLt
    obtain ⟨w, hw⟩ : ∃ w, w = encCHead ⟨true, h_g, h_k, h_st⟩ 0x2E + sl.toNat * 2 ^ 48 + q.toNat * 2 ^ 42 + n.toNat * 2 ^ 35 + ra.toNat * 2 ^ 30 := ⟨_, rfl⟩
    refine .of (n := 64) (w := w) (k := 5) (e := 0) (by rw [hw]; rfl) rfl rfl fun hwf hp => ?_
    try simp only [encSR, encSI, encSHead, encFn, encVR, encVM, encVI, encVA, encVHead, encMHead, encCHead, encCI, encCE, encKR, xShort, xExt, nShort, nExt, zero5, Bool.toNat_false] at hw
    refine ⟨by omega, ?_⟩
    have f0 : fld 5 w 59 = h_g := fld_eq (by omega)
    have f1 : flg w 52 = h_k := flg_eq (by omega)
    have f2 : flg w 51 = false := flg_eq (by simp; omega)
    have f3 : num 8 w 0 = 0 := by simp only [num]; omega
    have f4 : fld 5 w 24 = 0 := fld_eq (by simp; omega)
    have f5 : fld 5 w 19 = 0 := fld_eq (by simp; omega)
    have f6 : fld 7 w 12 = 0 := fld_eq (by simp; omega)
    have f7 : num 12 w 0 = 0 := by simp only [num]; omega
    have f8 : num 30 w 0 = 0 := by simp only [num]; omega
    have f9 : fld 3 w 48 = sl := fld_eq (by omega)
    have f10 : fld 6 w 42 = q := fld_eq (by omega)
    have f11 : fld 7 w 35 = n := fld_eq (by omega)
    have f12 : fld 5 w 30 = ra := fld_eq (by omega)
    have f13 : num 6 w 53 = 46 := by simp only [num]; omega
    have hst : h_st = ⟨0, 0, 0⟩ := offZero hp
    subst hst
    simp [readBack, decodeC, accept, hwf, immOf, immZ, Imm.extNat, noOff, Except.toOption, f0, f1, f2, f3, f4, f5, f6, f7, f8, f9, f10, f11, f12, f13]

theorem RoundTrip.pmov (h : CHead) (o : CE) : RoundTrip.Statement (.pmov h o) := by
  obtain ⟨h_slot, h_g, h_k, h_st⟩ := h
  obtain ⟨o_tr, o_toff, o_ra, o_rb, o_rc, o_qual, o_imm⟩ := o
  cases o_imm with
  | short v =>
    cases h_slot
    · obtain ⟨w, hw⟩ : ∃ w, w = encCE 0x2f ⟨false, h_g, h_k, h_st⟩ ⟨o_tr, o_toff, o_ra, o_rb, o_rc, o_qual, (Imm.short v)⟩ := ⟨_, rfl⟩
      refine .of (n := 64) (w := w) (k := 4) (e := 0) (by rw [hw]; rfl) rfl rfl fun hwf hp => ?_
      obtain ⟨lt, f0, f1, f2, f3, f4, f5, f6, f7, f8, f9, f10⟩ := ceShort (by decide) hw
      refine ⟨lt, ?_⟩
      have hst : h_st = ⟨0, 0, 0⟩ := offZero hp
      subst hst
      simp [readBack, decodeC, accept, hwf, immOf, immZ, Imm.extNat, noOff, Except.toOption, f0, f1, f2, f3, f4, f5, f6, f7, f8, f9, f10]
    · obtain ⟨w, hw⟩ : ∃ w, w = encCE 0x2f ⟨true, h_g, h_k, h_st⟩ ⟨o_tr, o_toff, o_ra, o_rb, o_rc, o_qual, (Imm.short v)⟩ := ⟨_, rfl⟩
      refine .of (n := 64) (w := w) (k := 5) (e := 0) (by rw [hw]; rfl) rfl rfl fun hwf hp => ?_
      obtain ⟨lt, f0, f1, f2, f3, f4, f5, f6, f7, f8, f9, f10⟩ := ceShort (by decide) hw
      refine ⟨lt, ?_⟩
      have hst : h_st = ⟨0, 0, 0⟩ := offZero hp
      subst hst
      simp [readBack, decodeC, accept, hwf, immOf, immZ, Imm.extNat, noOff, Except.toOption, f0, f1, f2, f3, f4, f5, f6, f7, f8, f9, f10]
  | ext v => intro n w hwf; delta Instr.wf at hwf; simp [Imm.noExt, Imm.isZero] at hwf

theorem RoundTrip.sset (h : CHead) (o : CE) : RoundTrip.Statement (.sset h o) := by
  obtain ⟨h_slot, h_g, h_k, h_st⟩ := h
  obtain ⟨o_tr, o_toff, o_ra, o_rb, o_rc, o_qual, o_imm⟩ := o
  cases o_imm with
  | short v =>
    cases h_slot
    · obtain ⟨w, hw⟩ : ∃ w, w = encCE 0x30 ⟨false, h_g, h_k, h_st⟩ ⟨o_tr, o_toff, o_ra, o_rb, o_rc, o_qual, (Imm.short v)⟩ := ⟨_, rfl⟩
      refine .of (n := 64) (w := w) (k := 4) (e := 0) (by rw [hw]; rfl) rfl rfl fun hwf hp => ?_
      obtain ⟨lt, f0, f1, f2, f3, f4, f5, f6, f7, f8, f9, f10⟩ := ceShort (by decide) hw
      refine ⟨lt, ?_⟩
      have hst : h_st = ⟨0, 0, 0⟩ := offZero hp
      subst hst
      simp [readBack, decodeC, accept, hwf, immOf, immZ, Imm.extNat, noOff, Except.toOption, f0, f1, f2, f3, f4, f5, f6, f7, f8, f9, f10]
    · obtain ⟨w, hw⟩ : ∃ w, w = encCE 0x30 ⟨true, h_g, h_k, h_st⟩ ⟨o_tr, o_toff, o_ra, o_rb, o_rc, o_qual, (Imm.short v)⟩ := ⟨_, rfl⟩
      refine .of (n := 64) (w := w) (k := 5) (e := 0) (by rw [hw]; rfl) rfl rfl fun hwf hp => ?_
      obtain ⟨lt, f0, f1, f2, f3, f4, f5, f6, f7, f8, f9, f10⟩ := ceShort (by decide) hw
      refine ⟨lt, ?_⟩
      have hst : h_st = ⟨0, 0, 0⟩ := offZero hp
      subst hst
      simp [readBack, decodeC, accept, hwf, immOf, immZ, Imm.extNat, noOff, Except.toOption, f0, f1, f2, f3, f4, f5, f6, f7, f8, f9, f10]
  | ext v => intro n w hwf; delta Instr.wf at hwf; simp [Imm.noExt, Imm.isZero] at hwf

theorem RoundTrip.sins (h : CHead) (o : CE) : RoundTrip.Statement (.sins h o) := by
  obtain ⟨h_slot, h_g, h_k, h_st⟩ := h
  obtain ⟨o_tr, o_toff, o_ra, o_rb, o_rc, o_qual, o_imm⟩ := o
  cases o_imm with
  | short v =>
    cases h_slot
    · obtain ⟨w, hw⟩ : ∃ w, w = encCE 0x31 ⟨false, h_g, h_k, h_st⟩ ⟨o_tr, o_toff, o_ra, o_rb, o_rc, o_qual, (Imm.short v)⟩ := ⟨_, rfl⟩
      refine .of (n := 64) (w := w) (k := 4) (e := 0) (by rw [hw]; rfl) rfl rfl fun hwf hp => ?_
      obtain ⟨lt, f0, f1, f2, f3, f4, f5, f6, f7, f8, f9, f10⟩ := ceShort (by decide) hw
      refine ⟨lt, ?_⟩
      have hst : h_st = ⟨0, 0, 0⟩ := offZero hp
      subst hst
      simp [readBack, decodeC, accept, hwf, immOf, immZ, Imm.extNat, noOff, Except.toOption, f0, f1, f2, f3, f4, f5, f6, f7, f8, f9, f10]
    · obtain ⟨w, hw⟩ : ∃ w, w = encCE 0x31 ⟨true, h_g, h_k, h_st⟩ ⟨o_tr, o_toff, o_ra, o_rb, o_rc, o_qual, (Imm.short v)⟩ := ⟨_, rfl⟩
      refine .of (n := 64) (w := w) (k := 5) (e := 0) (by rw [hw]; rfl) rfl rfl fun hwf hp => ?_
      obtain ⟨lt, f0, f1, f2, f3, f4, f5, f6, f7, f8, f9, f10⟩ := ceShort (by decide) hw
      refine ⟨lt, ?_⟩
      have hst : h_st = ⟨0, 0, 0⟩ := offZero hp
      subst hst
      simp [readBack, decodeC, accept, hwf, immOf, immZ, Imm.extNat, noOff, Except.toOption, f0, f1, f2, f3, f4, f5, f6, f7, f8, f9, f10]
  | ext v => intro n w hwf; delta Instr.wf at hwf; simp [Imm.noExt, Imm.isZero] at hwf

theorem RoundTrip.ssel (h : CHead) (o : CE) : RoundTrip.Statement (.ssel h o) := by
  obtain ⟨h_slot, h_g, h_k, h_st⟩ := h
  obtain ⟨o_tr, o_toff, o_ra, o_rb, o_rc, o_qual, o_imm⟩ := o
  cases o_imm with
  | short v =>
    cases h_slot
    · obtain ⟨w, hw⟩ : ∃ w, w = encCE 0x32 ⟨false, h_g, h_k, h_st⟩ ⟨o_tr, o_toff, o_ra, o_rb, o_rc, o_qual, (Imm.short v)⟩ := ⟨_, rfl⟩
      refine .of (n := 64) (w := w) (k := 4) (e := 0) (by rw [hw]; rfl) rfl rfl fun hwf hp => ?_
      obtain ⟨lt, f0, f1, f2, f3, f4, f5, f6, f7, f8, f9, f10⟩ := ceShort (by decide) hw
      refine ⟨lt, ?_⟩
      have hst : h_st = ⟨0, 0, 0⟩ := offZero hp
      subst hst
      simp [readBack, decodeC, accept, hwf, immOf, immZ, Imm.extNat, noOff, Except.toOption, f0, f1, f2, f3, f4, f5, f6, f7, f8, f9, f10]
    · obtain ⟨w, hw⟩ : ∃ w, w = encCE 0x32 ⟨true, h_g, h_k, h_st⟩ ⟨o_tr, o_toff, o_ra, o_rb, o_rc, o_qual, (Imm.short v)⟩ := ⟨_, rfl⟩
      refine .of (n := 64) (w := w) (k := 5) (e := 0) (by rw [hw]; rfl) rfl rfl fun hwf hp => ?_
      obtain ⟨lt, f0, f1, f2, f3, f4, f5, f6, f7, f8, f9, f10⟩ := ceShort (by decide) hw
      refine ⟨lt, ?_⟩
      have hst : h_st = ⟨0, 0, 0⟩ := offZero hp
      subst hst
      simp [readBack, decodeC, accept, hwf, immOf, immZ, Imm.extNat, noOff, Except.toOption, f0, f1, f2, f3, f4, f5, f6, f7, f8, f9, f10]
  | ext v => intro n w hwf; delta Instr.wf at hwf; simp [Imm.noExt, Imm.isZero] at hwf

theorem RoundTrip.sage (h : CHead) (o : CE) : RoundTrip.Statement (.sage h o) := by
  obtain ⟨h_slot, h_g, h_k, h_st⟩ := h
  obtain ⟨o_tr, o_toff, o_ra, o_rb, o_rc, o_qual, o_imm⟩ := o
  cases o_imm with
  | short v =>
    cases h_slot
    · obtain ⟨w, hw⟩ : ∃ w, w = encCE 0x33 ⟨false, h_g, h_k, h_st⟩ ⟨o_tr, o_toff, o_ra, o_rb, o_rc, o_qual, (Imm.short v)⟩ := ⟨_, rfl⟩
      refine .of (n := 64) (w := w) (k := 4) (e := 0) (by rw [hw]; rfl) rfl rfl fun hwf hp => ?_
      obtain ⟨lt, f0, f1, f2, f3, f4, f5, f6, f7, f8, f9, f10⟩ := ceShort (by decide) hw
      refine ⟨lt, ?_⟩
      have hst : h_st = ⟨0, 0, 0⟩ := offZero hp
      subst hst
      simp [readBack, decodeC, accept, hwf, immOf, immZ, Imm.extNat, noOff, Except.toOption, f0, f1, f2, f3, f4, f5, f6, f7, f8, f9, f10]
    · obtain ⟨w, hw⟩ : ∃ w, w = encCE 0x33 ⟨true, h_g, h_k, h_st⟩ ⟨o_tr, o_toff, o_ra, o_rb, o_rc, o_qual, (Imm.short v)⟩ := ⟨_, rfl⟩
      refine .of (n := 64) (w := w) (k := 5) (e := 0) (by rw [hw]; rfl) rfl rfl fun hwf hp => ?_
      obtain ⟨lt, f0, f1, f2, f3, f4, f5, f6, f7, f8, f9, f10⟩ := ceShort (by decide) hw
      refine ⟨lt, ?_⟩
      have hst : h_st = ⟨0, 0, 0⟩ := offZero hp
      subst hst
      simp [readBack, decodeC, accept, hwf, immOf, immZ, Imm.extNat, noOff, Except.toOption, f0, f1, f2, f3, f4, f5, f6, f7, f8, f9, f10]
  | ext v => intro n w hwf; delta Instr.wf at hwf; simp [Imm.noExt, Imm.isZero] at hwf

theorem RoundTrip.sdel (h : CHead) (o : CE) : RoundTrip.Statement (.sdel h o) := by
  obtain ⟨h_slot, h_g, h_k, h_st⟩ := h
  obtain ⟨o_tr, o_toff, o_ra, o_rb, o_rc, o_qual, o_imm⟩ := o
  cases o_imm with
  | short v =>
    cases h_slot
    · obtain ⟨w, hw⟩ : ∃ w, w = encCE 0x34 ⟨false, h_g, h_k, h_st⟩ ⟨o_tr, o_toff, o_ra, o_rb, o_rc, o_qual, (Imm.short v)⟩ := ⟨_, rfl⟩
      refine .of (n := 64) (w := w) (k := 4) (e := 0) (by rw [hw]; rfl) rfl rfl fun hwf hp => ?_
      obtain ⟨lt, f0, f1, f2, f3, f4, f5, f6, f7, f8, f9, f10⟩ := ceShort (by decide) hw
      refine ⟨lt, ?_⟩
      have hst : h_st = ⟨0, 0, 0⟩ := offZero hp
      subst hst
      simp [readBack, decodeC, accept, hwf, immOf, immZ, Imm.extNat, noOff, Except.toOption, f0, f1, f2, f3, f4, f5, f6, f7, f8, f9, f10]
    · obtain ⟨w, hw⟩ : ∃ w, w = encCE 0x34 ⟨true, h_g, h_k, h_st⟩ ⟨o_tr, o_toff, o_ra, o_rb, o_rc, o_qual, (Imm.short v)⟩ := ⟨_, rfl⟩
      refine .of (n := 64) (w := w) (k := 5) (e := 0) (by rw [hw]; rfl) rfl rfl fun hwf hp => ?_
      obtain ⟨lt, f0, f1, f2, f3, f4, f5, f6, f7, f8, f9, f10⟩ := ceShort (by decide) hw
      refine ⟨lt, ?_⟩
      have hst : h_st = ⟨0, 0, 0⟩ := offZero hp
      subst hst
      simp [readBack, decodeC, accept, hwf, immOf, immZ, Imm.extNat, noOff, Except.toOption, f0, f1, f2, f3, f4, f5, f6, f7, f8, f9, f10]
  | ext v => intro n w hwf; delta Instr.wf at hwf; simp [Imm.noExt, Imm.isZero] at hwf

theorem RoundTrip.smig (h : CHead) (o : CE) : RoundTrip.Statement (.smig h o) := by
  obtain ⟨h_slot, h_g, h_k, h_st⟩ := h
  obtain ⟨o_tr, o_toff, o_ra, o_rb, o_rc, o_qual, o_imm⟩ := o
  cases o_imm with
  | short v =>
    cases h_slot
    · obtain ⟨w, hw⟩ : ∃ w, w = encCE 0x35 ⟨false, h_g, h_k, h_st⟩ ⟨o_tr, o_toff, o_ra, o_rb, o_rc, o_qual, (Imm.short v)⟩ := ⟨_, rfl⟩
      refine .of (n := 64) (w := w) (k := 4) (e := 0) (by rw [hw]; rfl) rfl rfl fun hwf hp => ?_
      obtain ⟨lt, f0, f1, f2, f3, f4, f5, f6, f7, f8, f9, f10⟩ := ceShort (by decide) hw
      refine ⟨lt, ?_⟩
      have hst : h_st = ⟨0, 0, 0⟩ := offZero hp
      subst hst
      simp [readBack, decodeC, accept, hwf, immOf, immZ, Imm.extNat, noOff, Except.toOption, f0, f1, f2, f3, f4, f5, f6, f7, f8, f9, f10]
    · obtain ⟨w, hw⟩ : ∃ w, w = encCE 0x35 ⟨true, h_g, h_k, h_st⟩ ⟨o_tr, o_toff, o_ra, o_rb, o_rc, o_qual, (Imm.short v)⟩ := ⟨_, rfl⟩
      refine .of (n := 64) (w := w) (k := 5) (e := 0) (by rw [hw]; rfl) rfl rfl fun hwf hp => ?_
      obtain ⟨lt, f0, f1, f2, f3, f4, f5, f6, f7, f8, f9, f10⟩ := ceShort (by decide) hw
      refine ⟨lt, ?_⟩
      have hst : h_st = ⟨0, 0, 0⟩ := offZero hp
      subst hst
      simp [readBack, decodeC, accept, hwf, immOf, immZ, Imm.extNat, noOff, Except.toOption, f0, f1, f2, f3, f4, f5, f6, f7, f8, f9, f10]
  | ext v => intro n w hwf; delta Instr.wf at hwf; simp [Imm.noExt, Imm.isZero] at hwf

theorem RoundTrip.pgap (h : CHead) (o : CE) : RoundTrip.Statement (.pgap h o) := by
  obtain ⟨h_slot, h_g, h_k, h_st⟩ := h
  obtain ⟨o_tr, o_toff, o_ra, o_rb, o_rc, o_qual, o_imm⟩ := o
  cases o_imm with
  | short v =>
    cases h_slot
    · obtain ⟨w, hw⟩ : ∃ w, w = encCE 0x36 ⟨false, h_g, h_k, h_st⟩ ⟨o_tr, o_toff, o_ra, o_rb, o_rc, o_qual, (Imm.short v)⟩ := ⟨_, rfl⟩
      refine .of (n := 64) (w := w) (k := 4) (e := 0) (by rw [hw]; rfl) rfl rfl fun hwf hp => ?_
      obtain ⟨lt, f0, f1, f2, f3, f4, f5, f6, f7, f8, f9, f10⟩ := ceShort (by decide) hw
      refine ⟨lt, ?_⟩
      have hst : h_st = ⟨0, 0, 0⟩ := offZero hp
      subst hst
      simp [readBack, decodeC, accept, hwf, immOf, immZ, Imm.extNat, noOff, Except.toOption, f0, f1, f2, f3, f4, f5, f6, f7, f8, f9, f10]
    · obtain ⟨w, hw⟩ : ∃ w, w = encCE 0x36 ⟨true, h_g, h_k, h_st⟩ ⟨o_tr, o_toff, o_ra, o_rb, o_rc, o_qual, (Imm.short v)⟩ := ⟨_, rfl⟩
      refine .of (n := 64) (w := w) (k := 5) (e := 0) (by rw [hw]; rfl) rfl rfl fun hwf hp => ?_
      obtain ⟨lt, f0, f1, f2, f3, f4, f5, f6, f7, f8, f9, f10⟩ := ceShort (by decide) hw
      refine ⟨lt, ?_⟩
      have hst : h_st = ⟨0, 0, 0⟩ := offZero hp
      subst hst
      simp [readBack, decodeC, accept, hwf, immOf, immZ, Imm.extNat, noOff, Except.toOption, f0, f1, f2, f3, f4, f5, f6, f7, f8, f9, f10]
  | ext v => intro n w hwf; delta Instr.wf at hwf; simp [Imm.noExt, Imm.isZero] at hwf

theorem RoundTrip.plan (h : CHead) (o : CE) : RoundTrip.Statement (.plan h o) := by
  obtain ⟨h_slot, h_g, h_k, h_st⟩ := h
  obtain ⟨o_tr, o_toff, o_ra, o_rb, o_rc, o_qual, o_imm⟩ := o
  cases o_imm with
  | short v =>
    cases h_slot
    · obtain ⟨w, hw⟩ : ∃ w, w = encCE 0x37 ⟨false, h_g, h_k, h_st⟩ ⟨o_tr, o_toff, o_ra, o_rb, o_rc, o_qual, (Imm.short v)⟩ := ⟨_, rfl⟩
      refine .of (n := 64) (w := w) (k := 4) (e := 0) (by rw [hw]; rfl) rfl rfl fun hwf hp => ?_
      obtain ⟨lt, f0, f1, f2, f3, f4, f5, f6, f7, f8, f9, f10⟩ := ceShort (by decide) hw
      refine ⟨lt, ?_⟩
      have hst : h_st = ⟨0, 0, 0⟩ := offZero hp
      subst hst
      simp [readBack, decodeC, accept, hwf, immOf, immZ, Imm.extNat, noOff, Except.toOption, f0, f1, f2, f3, f4, f5, f6, f7, f8, f9, f10]
    · obtain ⟨w, hw⟩ : ∃ w, w = encCE 0x37 ⟨true, h_g, h_k, h_st⟩ ⟨o_tr, o_toff, o_ra, o_rb, o_rc, o_qual, (Imm.short v)⟩ := ⟨_, rfl⟩
      refine .of (n := 64) (w := w) (k := 5) (e := 0) (by rw [hw]; rfl) rfl rfl fun hwf hp => ?_
      obtain ⟨lt, f0, f1, f2, f3, f4, f5, f6, f7, f8, f9, f10⟩ := ceShort (by decide) hw
      refine ⟨lt, ?_⟩
      have hst : h_st = ⟨0, 0, 0⟩ := offZero hp
      subst hst
      simp [readBack, decodeC, accept, hwf, immOf, immZ, Imm.extNat, noOff, Except.toOption, f0, f1, f2, f3, f4, f5, f6, f7, f8, f9, f10]
  | ext v => intro n w hwf; delta Instr.wf at hwf; simp [Imm.noExt, Imm.isZero] at hwf

theorem RoundTrip.knop (wt : BitVec 8) : RoundTrip.Statement (.knop wt) := by
  have b0 := wt.isLt
  obtain ⟨w, hw⟩ : ∃ w, w = wt.toNat * 2 ^ 50 := ⟨_, rfl⟩
  refine .of (n := 64) (w := w) (k := 6) (e := 0) (by rw [hw]; rfl) rfl rfl fun hwf hp => ?_
  try simp only [encSR, encSI, encSHead, encFn, encVR, encVM, encVI, encVA, encVHead, encMHead, encCHead, encCI, encCE, encKR, xShort, xExt, nShort, nExt, zero5, Bool.toNat_false] at hw
  refine ⟨by omega, ?_⟩
  have f0 : fld 8 w 50 = wt := fld_eq (by omega)
  have f1 : fld 2 w 48 = 0 := fld_eq (by simp; omega)
  have f2 : fld 10 w 38 = 0 := fld_eq (by simp; omega)
  have f3 : fld 24 w 14 = 0 := fld_eq (by simp; omega)
  have f4 : num 50 w 0 = 0 := by simp only [num]; omega
  have f5 : num 6 w 58 = 0 := by simp only [num]; omega
  simp [readBack, decodeK, accept, hwf, immOf, immZ, Imm.extNat, noOff, Except.toOption, f0, f1, f2, f3, f4, f5]

theorem RoundTrip.kact (wt : BitVec 8) (wr : BitVec 12) (n1 : BitVec 6) (br : BitVec 6) : RoundTrip.Statement (.kact wt wr n1 br) := by
  have b1 := wt.isLt
  have b2 := wr.isLt
  have b3 := n1.isLt
  have b4 := br.isLt
  obtain ⟨w, hw⟩ : ∃ w, w = 1 * 2 ^ 58 + wt.toNat * 2 ^ 50 + wr.toNat * 2 ^ 38 + n1.toNat * 2 ^ 32 + br.toNat * 2 ^ 26 := ⟨_, rfl⟩
  refine .of (n := 64) (w := w) (k := 6) (e := 0) (by rw [hw]; rfl) rfl rfl fun hwf hp => ?_
  try simp only [encSR, encSI, encSHead, encFn, encVR, encVM, encVI, encVA, encVHead, encMHead, encCHead, encCI, encCE, encKR, xShort, xExt, nShort, nExt, zero5, Bool.toNat_false] at hw
  refine ⟨by omega, ?_⟩
  have f0 : fld 8 w 50 = wt := fld_eq (by omega)
  have f1 : num 26 w 0 = 0 := by simp only [num]; omega
  have f2 : fld 12 w 38 = wr := fld_eq (by omega)
  have f3 : fld 6 w 32 = n1 := fld_eq (by omega)
  have f4 : fld 6 w 26 = br := fld_eq (by omega)
  have f5 : num 6 w 58 = 1 := by simp only [num]; omega
  simp [readBack, decodeK, accept, hwf, immOf, immZ, Imm.extNat, noOff, Except.toOption, f0, f1, f2, f3, f4, f5]

theorem RoundTrip.krd (wt : BitVec 8) (r : KRow) (br : BitVec 4) : RoundTrip.Statement (.krd wt r br) := by
  obtain ⟨r_base, r_n1, r_off⟩ := r
  have b1 := wt.isLt
  have b2 := r_base.isLt
  have b3 := r_n1.isLt
  have b4 := r_off.isLt
  have b5 := br.isLt
  obtain ⟨w, hw⟩ : ∃ w, w = encKR 2 wt ⟨r_base, r_n1, r_off⟩ + br.toNat := ⟨_, rfl⟩
  refine .of (n := 64) (w := w) (k := 6) (e := 0) (by rw [hw]; rfl) rfl rfl fun hwf hp => ?_
  try simp only [encSR, encSI, encSHead, encFn, encVR, encVM, encVI, encVA, encVHead, encMHead, encCHead, encCI, encCE, encKR, xShort, xExt, nShort, nExt, zero5, Bool.toNat_false] at hw
  refine ⟨by omega, ?_⟩
  have f0 : fld 8 w 50 = wt := fld_eq (by omega)
  have f1 : fld 2 w 48 = r_base := fld_eq (by omega)
  have f2 : fld 10 w 38 = r_n1 := fld_eq (by omega)
  have f3 : fld 24 w 14 = r_off := fld_eq (by omega)
  have f4 : num 10 w 4 = 0 := by simp only [num]; omega
  have f5 : fld 4 w 0 = br := fld_eq (by omega)
  have f6 : num 6 w 58 = 2 := by simp only [num]; omega
  simp [readBack, decodeK, accept, hwf, immOf, immZ, Imm.extNat, noOff, Except.toOption, f0, f1, f2, f3, f4, f5, f6]

theorem RoundTrip.kwr (wt : BitVec 8) (r : KRow) (br : BitVec 4) : RoundTrip.Statement (.kwr wt r br) := by
  obtain ⟨r_base, r_n1, r_off⟩ := r
  have b1 := wt.isLt
  have b2 := r_base.isLt
  have b3 := r_n1.isLt
  have b4 := r_off.isLt
  have b5 := br.isLt
  obtain ⟨w, hw⟩ : ∃ w, w = encKR 3 wt ⟨r_base, r_n1, r_off⟩ + br.toNat := ⟨_, rfl⟩
  refine .of (n := 64) (w := w) (k := 6) (e := 0) (by rw [hw]; rfl) rfl rfl fun hwf hp => ?_
  try simp only [encSR, encSI, encSHead, encFn, encVR, encVM, encVI, encVA, encVHead, encMHead, encCHead, encCI, encCE, encKR, xShort, xExt, nShort, nExt, zero5, Bool.toNat_false] at hw
  refine ⟨by omega, ?_⟩
  have f0 : fld 8 w 50 = wt := fld_eq (by omega)
  have f1 : fld 2 w 48 = r_base := fld_eq (by omega)
  have f2 : fld 10 w 38 = r_n1 := fld_eq (by omega)
  have f3 : fld 24 w 14 = r_off := fld_eq (by omega)
  have f4 : num 10 w 4 = 0 := by simp only [num]; omega
  have f5 : fld 4 w 0 = br := fld_eq (by omega)
  have f6 : num 6 w 58 = 3 := by simp only [num]; omega
  simp [readBack, decodeK, accept, hwf, immOf, immZ, Imm.extNat, noOff, Except.toOption, f0, f1, f2, f3, f4, f5, f6]

theorem RoundTrip.kpre (wt : BitVec 8) (ph : BitVec 12) : RoundTrip.Statement (.kpre wt ph) := by
  have b1 := wt.isLt
  have b2 := ph.isLt
  obtain ⟨w, hw⟩ : ∃ w, w = 4 * 2 ^ 58 + wt.toNat * 2 ^ 50 + ph.toNat := ⟨_, rfl⟩
  refine .of (n := 64) (w := w) (k := 6) (e := 0) (by rw [hw]; rfl) rfl rfl fun hwf hp => ?_
  try simp only [encSR, encSI, encSHead, encFn, encVR, encVM, encVI, encVA, encVHead, encMHead, encCHead, encCI, encCE, encKR, xShort, xExt, nShort, nExt, zero5, Bool.toNat_false] at hw
  refine ⟨by omega, ?_⟩
  have f0 : fld 8 w 50 = wt := fld_eq (by omega)
  have f1 : fld 2 w 48 = 0 := fld_eq (by simp; omega)
  have f2 : fld 10 w 38 = 0 := fld_eq (by simp; omega)
  have f3 : fld 24 w 14 = 0 := fld_eq (by simp; omega)
  have f4 : num 38 w 12 = 0 := by simp only [num]; omega
  have f5 : fld 12 w 0 = ph := fld_eq (by omega)
  have f6 : num 6 w 58 = 4 := by simp only [num]; omega
  simp [readBack, decodeK, accept, hwf, immOf, immZ, Imm.extNat, noOff, Except.toOption, f0, f1, f2, f3, f4, f5, f6]

theorem RoundTrip.kmac8 (wt : BitVec 8) (r : KRow) (h : Bool) (k0 : BitVec 12) : RoundTrip.Statement (.kmac8 wt r h k0) := by
  obtain ⟨r_base, r_n1, r_off⟩ := r
  have b1 := wt.isLt
  have b2 := r_base.isLt
  have b3 := r_n1.isLt
  have b4 := r_off.isLt
  have b5 := Bool.toNat_le h
  have b6 := k0.isLt
  obtain ⟨w, hw⟩ : ∃ w, w = encKR 5 wt ⟨r_base, r_n1, r_off⟩ + h.toNat * 2 ^ 13 + k0.toNat := ⟨_, rfl⟩
  refine .of (n := 64) (w := w) (k := 6) (e := 0) (by rw [hw]; rfl) rfl rfl fun hwf hp => ?_
  try simp only [encSR, encSI, encSHead, encFn, encVR, encVM, encVI, encVA, encVHead, encMHead, encCHead, encCI, encCE, encKR, xShort, xExt, nShort, nExt, zero5, Bool.toNat_false] at hw
  refine ⟨by omega, ?_⟩
  have f0 : fld 8 w 50 = wt := fld_eq (by omega)
  have f1 : fld 2 w 48 = r_base := fld_eq (by omega)
  have f2 : fld 10 w 38 = r_n1 := fld_eq (by omega)
  have f3 : fld 24 w 14 = r_off := fld_eq (by omega)
  have f4 : flg w 12 = false := flg_eq (by simp; omega)
  have f5 : flg w 13 = h := flg_eq (by omega)
  have f6 : fld 12 w 0 = k0 := fld_eq (by omega)
  have f7 : num 6 w 58 = 5 := by simp only [num]; omega
  simp [readBack, decodeK, accept, hwf, immOf, immZ, Imm.extNat, noOff, Except.toOption, f0, f1, f2, f3, f4, f5, f6, f7]

theorem RoundTrip.kmac4 (wt : BitVec 8) (r : KRow) (k0 : BitVec 12) : RoundTrip.Statement (.kmac4 wt r k0) := by
  obtain ⟨r_base, r_n1, r_off⟩ := r
  have b1 := wt.isLt
  have b2 := r_base.isLt
  have b3 := r_n1.isLt
  have b4 := r_off.isLt
  have b5 := k0.isLt
  obtain ⟨w, hw⟩ : ∃ w, w = encKR 6 wt ⟨r_base, r_n1, r_off⟩ + k0.toNat := ⟨_, rfl⟩
  refine .of (n := 64) (w := w) (k := 6) (e := 0) (by rw [hw]; rfl) rfl rfl fun hwf hp => ?_
  try simp only [encSR, encSI, encSHead, encFn, encVR, encVM, encVI, encVA, encVHead, encMHead, encCHead, encCI, encCE, encKR, xShort, xExt, nShort, nExt, zero5, Bool.toNat_false] at hw
  refine ⟨by omega, ?_⟩
  have f0 : fld 8 w 50 = wt := fld_eq (by omega)
  have f1 : fld 2 w 48 = r_base := fld_eq (by omega)
  have f2 : fld 10 w 38 = r_n1 := fld_eq (by omega)
  have f3 : fld 24 w 14 = r_off := fld_eq (by omega)
  have f4 : num 2 w 12 = 0 := by simp only [num]; omega
  have f5 : fld 12 w 0 = k0 := fld_eq (by omega)
  have f6 : num 6 w 58 = 6 := by simp only [num]; omega
  simp [readBack, decodeK, accept, hwf, immOf, immZ, Imm.extNat, noOff, Except.toOption, f0, f1, f2, f3, f4, f5, f6]

theorem RoundTrip.kdq (wt : BitVec 8) (base : BitVec 2) (off : BitVec 24) (gc : BitVec 2) : RoundTrip.Statement (.kdq wt base off gc) := by
  have b1 := wt.isLt
  have b2 := base.isLt
  have b3 := off.isLt
  have b4 := gc.isLt
  obtain ⟨w, hw⟩ : ∃ w, w = 7 * 2 ^ 58 + wt.toNat * 2 ^ 50 + base.toNat * 2 ^ 48 + off.toNat * 2 ^ 14 + gc.toNat := ⟨_, rfl⟩
  refine .of (n := 64) (w := w) (k := 6) (e := 0) (by rw [hw]; rfl) rfl rfl fun hwf hp => ?_
  try simp only [encSR, encSI, encSHead, encFn, encVR, encVM, encVI, encVA, encVHead, encMHead, encCHead, encCI, encCE, encKR, xShort, xExt, nShort, nExt, zero5, Bool.toNat_false] at hw
  refine ⟨by omega, ?_⟩
  have f0 : fld 8 w 50 = wt := fld_eq (by omega)
  have f1 : fld 2 w 48 = base := fld_eq (by omega)
  have f2 : fld 10 w 38 = 0 := fld_eq (by simp; omega)
  have f3 : fld 24 w 14 = off := fld_eq (by omega)
  have f4 : num 10 w 38 = 0 := by simp only [num]; omega
  have f5 : num 12 w 2 = 0 := by simp only [num]; omega
  have f6 : fld 2 w 0 = gc := fld_eq (by omega)
  have f7 : num 6 w 58 = 7 := by simp only [num]; omega
  simp [readBack, decodeK, accept, hwf, immOf, immZ, Imm.extNat, noOff, Except.toOption, f0, f1, f2, f3, f4, f5, f6, f7]

theorem RoundTrip.kexp (wt : BitVec 8) (r : KRow) (fmt : BitVec 2) (b16 : Bool) (db : BitVec 2) : RoundTrip.Statement (.kexp wt r fmt b16 db) := by
  obtain ⟨r_base, r_n1, r_off⟩ := r
  have b1 := wt.isLt
  have b2 := r_base.isLt
  have b3 := r_n1.isLt
  have b4 := r_off.isLt
  have b5 := fmt.isLt
  have b6 := Bool.toNat_le b16
  have b7 := db.isLt
  obtain ⟨w, hw⟩ : ∃ w, w = encKR 8 wt ⟨r_base, r_n1, r_off⟩ + fmt.toNat * 2 ^ 12 + b16.toNat * 2 ^ 11 + db.toNat * 2 ^ 9 := ⟨_, rfl⟩
  refine .of (n := 64) (w := w) (k := 6) (e := 0) (by rw [hw]; rfl) rfl rfl fun hwf hp => ?_
  try simp only [encSR, encSI, encSHead, encFn, encVR, encVM, encVI, encVA, encVHead, encMHead, encCHead, encCI, encCE, encKR, xShort, xExt, nShort, nExt, zero5, Bool.toNat_false] at hw
  refine ⟨by omega, ?_⟩
  have f0 : fld 8 w 50 = wt := fld_eq (by omega)
  have f1 : fld 2 w 48 = r_base := fld_eq (by omega)
  have f2 : fld 10 w 38 = r_n1 := fld_eq (by omega)
  have f3 : fld 24 w 14 = r_off := fld_eq (by omega)
  have f4 : num 9 w 0 = 0 := by simp only [num]; omega
  have f5 : fld 2 w 12 = fmt := fld_eq (by omega)
  have f6 : flg w 11 = b16 := flg_eq (by omega)
  have f7 : fld 2 w 9 = db := fld_eq (by omega)
  have f8 : num 6 w 58 = 8 := by simp only [num]; omega
  simp [readBack, decodeK, accept, hwf, immOf, immZ, Imm.extNat, noOff, Except.toOption, f0, f1, f2, f3, f4, f5, f6, f7, f8]

theorem RoundTrip.kacr (wt : BitVec 8) (base : BitVec 2) (win : Bool) (off : BitVec 24) : RoundTrip.Statement (.kacr wt base win off) := by
  have b1 := wt.isLt
  have b2 := base.isLt
  have b3 := Bool.toNat_le win
  have b4 := off.isLt
  obtain ⟨w, hw⟩ : ∃ w, w = 0x0A * 2 ^ 58 + wt.toNat * 2 ^ 50 + base.toNat * 2 ^ 48 + win.toNat * 2 ^ 47 + off.toNat * 2 ^ 14 := ⟨_, rfl⟩
  refine .of (n := 64) (w := w) (k := 6) (e := 0) (by rw [hw]; rfl) rfl rfl fun hwf hp => ?_
  try simp only [encSR, encSI, encSHead, encFn, encVR, encVM, encVI, encVA, encVHead, encMHead, encCHead, encCI, encCE, encKR, xShort, xExt, nShort, nExt, zero5, Bool.toNat_false] at hw
  refine ⟨by omega, ?_⟩
  have f0 : fld 8 w 50 = wt := fld_eq (by omega)
  have f1 : fld 2 w 48 = base := fld_eq (by omega)
  have f2 : fld 24 w 14 = off := fld_eq (by omega)
  have f3 : num 9 w 38 = 0 := by simp only [num]; omega
  have f4 : num 14 w 0 = 0 := by simp only [num]; omega
  have f5 : flg w 47 = win := flg_eq (by omega)
  have f6 : num 6 w 58 = 10 := by simp only [num]; omega
  simp [readBack, decodeK, accept, hwf, immOf, immZ, Imm.extNat, noOff, Except.toOption, f0, f1, f2, f3, f4, f5, f6]

theorem RoundTrip.kend (wt : BitVec 8) (d : Bool) : RoundTrip.Statement (.kend wt d) := by
  have b1 := wt.isLt
  have b2 := Bool.toNat_le d
  obtain ⟨w, hw⟩ : ∃ w, w = 0x0B * 2 ^ 58 + wt.toNat * 2 ^ 50 + d.toNat := ⟨_, rfl⟩
  refine .of (n := 64) (w := w) (k := 6) (e := 0) (by rw [hw]; rfl) rfl rfl fun hwf hp => ?_
  try simp only [encSR, encSI, encSHead, encFn, encVR, encVM, encVI, encVA, encVHead, encMHead, encCHead, encCI, encCE, encKR, xShort, xExt, nShort, nExt, zero5, Bool.toNat_false] at hw
  refine ⟨by omega, ?_⟩
  have f0 : fld 8 w 50 = wt := fld_eq (by omega)
  have f1 : fld 2 w 48 = 0 := fld_eq (by simp; omega)
  have f2 : fld 10 w 38 = 0 := fld_eq (by simp; omega)
  have f3 : fld 24 w 14 = 0 := fld_eq (by simp; omega)
  have f4 : num 49 w 1 = 0 := by simp only [num]; omega
  have f5 : flg w 0 = d := flg_eq (by omega)
  have f6 : num 6 w 58 = 11 := by simp only [num]; omega
  simp [readBack, decodeK, accept, hwf, immOf, immZ, Imm.extNat, noOff, Except.toOption, f0, f1, f2, f3, f4, f5, f6]

theorem RoundTrip.emptyBundle (drain : Bool) (rep : BitVec 5) : RoundTrip.Statement (.emptyBundle drain rep) := by
  refine .of (n := 16) (w := drain.toNat * 2 ^ 9 + rep.toNat * 2 ^ 4) (k := 6) (e := 0) rfl rfl rfl fun _ _ => ?_
  revert drain rep
  decide

theorem RoundTrip.trapEntry (core : Nat) : RoundTrip.Statement (.trapEntry core) := .none rfl

theorem RoundTrip.containmentUnwind (core : Nat) : RoundTrip.Statement (.containmentUnwind core) := .none rfl

theorem RoundTrip.killInstance (inst : Nat) : RoundTrip.Statement (.killInstance inst) := .none rfl

theorem RoundTrip.freezeEnd (core : Nat) : RoundTrip.Statement (.freezeEnd core) := .none rfl

theorem RoundTrip.leakyBucketLeak : RoundTrip.Statement .leakyBucketLeak := .none rfl

theorem RoundTrip.unitRetire (code : BitVec 32) : RoundTrip.Statement (.unitRetire code) := .none rfl

theorem RoundTrip.errinjFlip (core : Nat) : RoundTrip.Statement (.errinjFlip core) := .none rfl

theorem RoundTrip.tlbInvalidationComplete : RoundTrip.Statement .tlbInvalidationComplete := .none rfl

theorem RoundTrip.launchAdmission : RoundTrip.Statement .launchAdmission := .none rfl

theorem RoundTrip.groupDrainStop (inst : Nat) (grp : Nat) : RoundTrip.Statement (.groupDrainStop inst grp) := .none rfl

theorem RoundTrip.preemptComplete (inst : Nat) : RoundTrip.Statement (.preemptComplete inst) := .none rfl

theorem RoundTrip.preemptAbort (inst : Nat) : RoundTrip.Statement (.preemptAbort inst) := .none rfl

theorem RoundTrip.instanceResume (inst : Nat) : RoundTrip.Statement (.instanceResume inst) := .none rfl

theorem RoundTrip.instanceRetire (inst : Nat) : RoundTrip.Statement (.instanceRetire inst) := .none rfl

theorem RoundTrip.bundleStallResume (core : Nat) : RoundTrip.Statement (.bundleStallResume core) := .none rfl

theorem RoundTrip.waitValRead (core : Nat) : RoundTrip.Statement (.waitValRead core) := .none rfl

theorem RoundTrip.copyCommandStart (core : Nat) (ch : Bool) : RoundTrip.Statement (.copyCommandStart core ch) := .none rfl

theorem RoundTrip.hostPageResponse (port : Bool) (req : Nat) (ans : HostAns) : RoundTrip.Statement (.hostPageResponse port req ans) := .none rfl

theorem RoundTrip.pageRequestTimeout (port : Bool) (req : Nat) : RoundTrip.Statement (.pageRequestTimeout port req) := .none rfl

theorem RoundTrip.hostInvalidationRequest (port : Bool) (tag : Nat) (pasid : BitVec 20) (va : BitVec 56) (log2 : Nat) : RoundTrip.Statement (.hostInvalidationRequest port tag pasid va log2) := .none rfl

theorem RoundTrip.hostInvalidationCompletion (port : Bool) (tag : Nat) : RoundTrip.Statement (.hostInvalidationCompletion port tag) := .none rfl

theorem RoundTrip.rowDelivered (core : Nat) (ch : Bool) : RoundTrip.Statement (.rowDelivered core ch) := .none rfl

theorem RoundTrip.copyCommandComplete (core : Nat) (ch : Bool) : RoundTrip.Statement (.copyCommandComplete core ch) := .none rfl

theorem RoundTrip.weevilPageReturn (core : Nat) (ch : Bool) : RoundTrip.Statement (.weevilPageReturn core ch) := .none rfl

theorem RoundTrip.sselStart (die : Nat) : RoundTrip.Statement (.sselStart die) := .none rfl

theorem RoundTrip.scarabSetOperation (die : Nat) : RoundTrip.Statement (.scarabSetOperation die) := .none rfl

theorem RoundTrip.pmovComplete (core : Nat) (ch : Bool) : RoundTrip.Statement (.pmovComplete core ch) := .none rfl

theorem RoundTrip.collectiveReport (die : Nat) (eng : Nat) : RoundTrip.Statement (.collectiveReport die eng) := .none rfl

theorem RoundTrip.stackProgramStart (lane : Nat) : RoundTrip.Statement (.stackProgramStart lane) := .none rfl

theorem RoundTrip.refreshInterval (stack : Nat) : RoundTrip.Statement (.refreshInterval stack) := .none rfl

theorem RoundTrip.planReport (core : Nat) (ch : Bool) : RoundTrip.Statement (.planReport core ch) := .none rfl

theorem RoundTrip.modulePowerUp : RoundTrip.Statement .modulePowerUp := .none rfl

theorem RoundTrip.bootclaimWrite (port : Bool) (v : W64) : RoundTrip.Statement (.bootclaimWrite port v) := .none rfl

theorem RoundTrip.bootLoadStart (port : Bool) (v : W64) : RoundTrip.Statement (.bootLoadStart port v) := .none rfl

theorem RoundTrip.bootImageCheck : RoundTrip.Statement .bootImageCheck := .none rfl

theorem RoundTrip.firmwareBootComplete (fwMin : BitVec 8) (hbm : BitVec 32) (cports : BitVec 128) (units : List (BitVec 32)) : RoundTrip.Statement (.firmwareBootComplete fwMin hbm cports units) := .none rfl

theorem RoundTrip.bootClaimLapse : RoundTrip.Statement .bootClaimLapse := .none rfl

theorem RoundTrip.registerWrite (port : Bool) (off : BitVec 26) (data : List Byte) : RoundTrip.Statement (.registerWrite port off data) := .none rfl

theorem RoundTrip.streamEnable (port : Bool) (strm : BitVec 9) : RoundTrip.Statement (.streamEnable port strm) := .none rfl

theorem RoundTrip.streamDisable (port : Bool) (strm : BitVec 9) : RoundTrip.Statement (.streamDisable port strm) := .none rfl

theorem RoundTrip.streamWridxWrite (port : Bool) (strm : BitVec 9) (v : W32) : RoundTrip.Statement (.streamWridxWrite port strm v) := .none rfl

theorem RoundTrip.launchRec (port : Bool) (strm : BitVec 9) : RoundTrip.Statement (.launchRec port strm) := .none rfl

theorem RoundTrip.waitvRec (port : Bool) (strm : BitVec 9) : RoundTrip.Statement (.waitvRec port strm) := .none rfl

theorem RoundTrip.waitvPoll (port : Bool) (strm : BitVec 9) : RoundTrip.Statement (.waitvPoll port strm) := .none rfl

theorem RoundTrip.signalRec (port : Bool) (strm : BitVec 9) : RoundTrip.Statement (.signalRec port strm) := .none rfl

theorem RoundTrip.copyRec (port : Bool) (strm : BitVec 9) : RoundTrip.Statement (.copyRec port strm) := .none rfl

theorem RoundTrip.collectiveRec (port : Bool) (strm : BitVec 9) : RoundTrip.Statement (.collectiveRec port strm) := .none rfl

theorem RoundTrip.eventRec (port : Bool) (strm : BitVec 9) : RoundTrip.Statement (.eventRec port strm) := .none rfl

theorem RoundTrip.streamFence (port : Bool) (strm : BitVec 9) : RoundTrip.Statement (.streamFence port strm) := .none rfl

theorem RoundTrip.streamCommandComplete (port : Bool) (strm : BitVec 9) (seq : W32) : RoundTrip.Statement (.streamCommandComplete port strm seq) := .none rfl

theorem RoundTrip.eventRingEnable (port : Bool) : RoundTrip.Statement (.eventRingEnable port) := .none rfl

theorem RoundTrip.evconsWrite (port : Bool) (v : W32) : RoundTrip.Statement (.evconsWrite port v) := .none rfl

theorem RoundTrip.functionLevelReset (port : Bool) : RoundTrip.Statement (.functionLevelReset port) := .none rfl

theorem RoundTrip.linkDown (port : Bool) : RoundTrip.Statement (.linkDown port) := .none rfl

theorem RoundTrip.bar2WindowWrite (port : Bool) (off : BitVec 36) (data : List Byte) : RoundTrip.Statement (.bar2WindowWrite port off data) := .none rfl

theorem RoundTrip.bar2WindowRead (port : Bool) (off : BitVec 36) (len : Nat) : RoundTrip.Statement (.bar2WindowRead port off len) := .none rfl

theorem RoundTrip.cloethFlitCrcFail (p : BitVec 7) : RoundTrip.Statement (.cloethFlitCrcFail p) := .none rfl

theorem RoundTrip.cloethPortDown (p : BitVec 7) : RoundTrip.Statement (.cloethPortDown p) := .none rfl

theorem RoundTrip.thermalThrottle : RoundTrip.Statement .thermalThrottle := .none rfl

theorem RoundTrip.thermalRelease : RoundTrip.Statement .thermalRelease := .none rfl

theorem RoundTrip.thermalTrip : RoundTrip.Statement .thermalTrip := .none rfl

theorem RoundTrip.mgmtReadModid (r : Mgmt) : RoundTrip.Statement (.mgmtReadModid r) := .none rfl

theorem RoundTrip.mgmtReadTelemetry (r : Mgmt) : RoundTrip.Statement (.mgmtReadTelemetry r) := .none rfl

theorem RoundTrip.mgmtReadPowerLimit (r : Mgmt) : RoundTrip.Statement (.mgmtReadPowerLimit r) := .none rfl

theorem RoundTrip.mgmtWritePowerLimit (r : Mgmt) : RoundTrip.Statement (.mgmtWritePowerLimit r) := .none rfl

theorem RoundTrip.mgmtReadPreemptBound (r : Mgmt) : RoundTrip.Statement (.mgmtReadPreemptBound r) := .none rfl

theorem RoundTrip.mgmtWritePreemptBound (r : Mgmt) : RoundTrip.Statement (.mgmtWritePreemptBound r) := .none rfl

theorem RoundTrip.mgmtReadLeakper (r : Mgmt) : RoundTrip.Statement (.mgmtReadLeakper r) := .none rfl

theorem RoundTrip.mgmtWriteLeakper (r : Mgmt) : RoundTrip.Statement (.mgmtWriteLeakper r) := .none rfl

theorem RoundTrip.mgmtReadBktmark (r : Mgmt) : RoundTrip.Statement (.mgmtReadBktmark r) := .none rfl

theorem RoundTrip.mgmtWriteBktmark (r : Mgmt) : RoundTrip.Statement (.mgmtWriteBktmark r) := .none rfl

theorem RoundTrip.mgmtReadBucketCounters (r : Mgmt) : RoundTrip.Statement (.mgmtReadBucketCounters r) := .none rfl

theorem RoundTrip.mgmtReadRetiredUnits (r : Mgmt) : RoundTrip.Statement (.mgmtReadRetiredUnits r) := .none rfl

theorem RoundTrip.mgmtWriteRetiredUnits (r : Mgmt) : RoundTrip.Statement (.mgmtWriteRetiredUnits r) := .none rfl

theorem RoundTrip.mgmtReadReplmin (r : Mgmt) : RoundTrip.Statement (.mgmtReadReplmin r) := .none rfl

theorem RoundTrip.mgmtWriteReplmin (r : Mgmt) : RoundTrip.Statement (.mgmtWriteReplmin r) := .none rfl

theorem RoundTrip.mgmtReadWeightRange (r : Mgmt) : RoundTrip.Statement (.mgmtReadWeightRange r) := .none rfl

theorem RoundTrip.mgmtWriteWeightRange (r : Mgmt) : RoundTrip.Statement (.mgmtWriteWeightRange r) := .none rfl

theorem RoundTrip.mgmtForcedDiscard (r : Mgmt) : RoundTrip.Statement (.mgmtForcedDiscard r) := .none rfl

theorem RoundTrip.mgmtReadErrinjen (r : Mgmt) : RoundTrip.Statement (.mgmtReadErrinjen r) := .none rfl

theorem RoundTrip.mgmtWriteErrinjen (r : Mgmt) : RoundTrip.Statement (.mgmtWriteErrinjen r) := .none rfl

theorem RoundTrip.mgmtDebugForcedDrain (r : Mgmt) : RoundTrip.Statement (.mgmtDebugForcedDrain r) := .none rfl

theorem RoundTrip.mgmtDebugResume (r : Mgmt) : RoundTrip.Statement (.mgmtDebugResume r) := .none rfl

theorem RoundTrip.mgmtDebugAbort (r : Mgmt) : RoundTrip.Statement (.mgmtDebugAbort r) := .none rfl

theorem RoundTrip.mgmtDebugRegisterRead (r : Mgmt) : RoundTrip.Statement (.mgmtDebugRegisterRead r) := .none rfl

theorem RoundTrip.mgmtDebugRegisterWrite (r : Mgmt) : RoundTrip.Statement (.mgmtDebugRegisterWrite r) := .none rfl

theorem RoundTrip.mgmtDebugScratchRead (r : Mgmt) : RoundTrip.Statement (.mgmtDebugScratchRead r) := .none rfl

theorem RoundTrip.mgmtDebugScratchWrite (r : Mgmt) : RoundTrip.Statement (.mgmtDebugScratchWrite r) := .none rfl

theorem RoundTrip.mgmtReadMymod (r : Mgmt) : RoundTrip.Statement (.mgmtReadMymod r) := .none rfl

theorem RoundTrip.mgmtWriteMymod (r : Mgmt) : RoundTrip.Statement (.mgmtWriteMymod r) := .none rfl

theorem RoundTrip.mgmtReadAperture (r : Mgmt) : RoundTrip.Statement (.mgmtReadAperture r) := .none rfl

theorem RoundTrip.mgmtWriteAperture (r : Mgmt) : RoundTrip.Statement (.mgmtWriteAperture r) := .none rfl

theorem RoundTrip.taskClockEdge : RoundTrip.Statement .taskClockEdge := .none rfl

theorem RoundTrip.globalCycle : RoundTrip.Statement .globalCycle := .none rfl

theorem RoundTrip.powerDownRequest (stack : BitVec 5) : RoundTrip.Statement (.powerDownRequest stack) := .none rfl

theorem RoundTrip.addressTranslationEnable (port : Bool) (en : Bool) : RoundTrip.Statement (.addressTranslationEnable port en) := .none rfl

theorem RoundTrip.linkUp (port : Bool) : RoundTrip.Statement (.linkUp port) := .none rfl

theorem RoundTrip.modulePowerOff : RoundTrip.Statement .modulePowerOff := .none rfl

theorem RoundTrip.cloethFlitArrival (p : BitVec 7) (f : Flit) : RoundTrip.Statement (.cloethFlitArrival p f) := .none rfl

theorem RoundTrip.diemaskClear (die : BitVec 2) : RoundTrip.Statement (.diemaskClear die) := .none rfl

theorem RoundTrip.stackDisable (stack : BitVec 5) : RoundTrip.Statement (.stackDisable stack) := .none rfl

theorem RoundTrip.mgmtUnassignedRequest (cmd : BitVec 8) (write : Bool) (r : Mgmt) : RoundTrip.Statement (.mgmtUnassignedRequest cmd write r) := .none rfl

end Sys2Proof.Laws
end

