-- ==== Sys2Proof/Safety.lean ====
section
/-! DEFINITION. What counts as a safe run and a sound state, in the terms that claims use. -/

namespace Sys2Proof.Machine

/-- A state from which the module takes a step: nothing stops it. -/
def stepsOn (s : State) : Prop := ∃ t, step s = .next t

/-- A run of `n` steps that nothing stops. -/
def safeFor : Nat → State → Prop
  | 0, _ => True
  | n + 1, s => ∃ t, step s = .next t ∧ safeFor n t

/-- Memory stands in its one canonical form: addresses strictly rising, no byte listed that reads as an unlisted one. -/
def State.sound (s : State) : Prop := memWf s.mem = true

/-- The STATE field of the boot window is one of the four that R273 gives, and firmware runs only in the last. -/
def State.bootLegal (s : State) : Prop := s.boot.st ≤ 3 ∧ (s.fwUp = true → s.boot.st = 3)

end Sys2Proof.Machine
end

