-- ==== Sys2Proof/Certificates/Slice0/Obligations.lean ====
section
/-! DEFINITION. The statements for the provers. Those about one instruction give the whole next state, so that they are its
frame too: whatever an equation does not name is as it was, every byte of memory included. -/

/-! ### The terms of the statements -/

namespace Sys2Proof.Claim

open Sys2Proof Sys2Proof.Machine

/-- A result under way: the slot it comes from (0 S, 1 V0, 2 V1, 3 M, 4 C0, 5 C1), its latency in task cycles (R61), and
what takes effect then. -/
structure Res where
  slot : Nat
  lat : Nat
  eff : Eff

/-- The state with the issuing core replaced and everything else as it was. -/
def with' (s : State) (c : Core) : State := { s with cores := Sparse.put s.cores s.cur c }

/-- A core with results added to those under way: each is due its latency after the present task cycle. -/
def plus (c : Core) (l : List Res) : Core :=
  { c with pend := c.pend ++ l.map (fun r => ⟨c.cyc + r.lat, c.cyc, r.slot, false, c.half.toNat * 2 ^ 14 + c.pc, r.eff⟩) }

/-- The state after the issuing core has issued operations with these results and no other effect. -/
def gives (s : State) (l : List Res) : State := with' s (plus s.me l)

/-- A result for the `s` register that logical `d` names now (R62, R70). -/
def sres (s : State) (lat : Nat) (d : BitVec 5) (v : W64) : Res := ⟨0, lat, .reg .s (s.me.phS d.toNat) v⟩

/-- A result for a predicate. -/
def pres (s : State) (lat : Nat) (d : BitVec 4) (v : Bool) : Res := ⟨0, lat, .pred (s.me.phP d.toNat) v⟩

/-- A 64-bit value as an integer: unsigned with `.U`, else signed. -/
def read (u : Bool) (x : W64) : Int := if u then x.toNat else x.toInt

/-- Narrowing of R361: clamped with `.S`, and modulo 2^64. -/
def narrowed (u st : Bool) (v : Int) : W64 :=
  BitVec.ofInt 64 (if st then (if u then max 0 (min v (2 ^ 64 - 1)) else max (-2 ^ 63) (min v (2 ^ 63 - 1))) else v)

/-- An immediate, sign-extended (R313). -/
def sext {n : Nat} : Imm n → W64
  | .short v => v.signExtend 64
  | .ext v => v.signExtend 64

/-- The number of ones among the bits below `n`. -/
def ones (n : Nat) (x : Nat) : Nat := ((List.range n).filter (fun k => x.testBit k)).length

end Sys2Proof.Claim

open Sys2Proof Sys2Proof.Machine

/-! ### The scalar integer family -/

/-- R316, R361: `ADD`, `SUB`, `MUL` and `MULH` form the exact sum, difference or product of the operands read as signed, or
as unsigned with `.U`, and narrow it once; `ADD` and `SUB` land on c + 1, the products on c + 3. -/
def Obligations.ScalarArithmeticIsExactAndNarrowedOnce : Prop :=
  ∀ (s : State) (g d a b : BitVec 5) (u st : Bool) (i : Imm 9), s.me.guard g = true →
    let x := Claim.read u (s.me.sreg a)
    let y := Claim.read u (s.me.sreg b)
    let x' := (s.me.sreg a).toInt
    let y' := (Claim.sext i).toInt
    exec (.addReg g d a b u st) s = .next (Claim.gives s [Claim.sres s 1 d (Claim.narrowed u st (x + y))]) ∧
    exec (.addImm g d a i) s = .next (Claim.gives s [Claim.sres s 1 d (Claim.narrowed false false (x' + y'))]) ∧
    exec (.subReg g d a b u st) s = .next (Claim.gives s [Claim.sres s 1 d (Claim.narrowed u st (x - y))]) ∧
    exec (.subImm g d a i) s = .next (Claim.gives s [Claim.sres s 1 d (Claim.narrowed false false (x' - y'))]) ∧
    exec (.mulReg g d a b u st) s = .next (Claim.gives s [Claim.sres s 3 d (Claim.narrowed u st (x * y))]) ∧
    exec (.mulImm g d a i) s = .next (Claim.gives s [Claim.sres s 3 d (Claim.narrowed false false (x' * y'))]) ∧
    exec (.mulhReg g d a b u) s = .next (Claim.gives s [Claim.sres s 3 d (BitVec.ofInt 64 (x * y / 2 ^ 64))]) ∧
    exec (.mulhImm g d a i) s = .next (Claim.gives s [Claim.sres s 3 d (BitVec.ofInt 64 (x' * y' / 2 ^ 64))])

/-- R344, R361: `DIV`, in the formats SR and SI, and `REM` on every pair of operands, the zero divisor and the overflow among
them; the result lands on c + 18, and no fault is raised. -/
def Obligations.DivisionHasAResultForEveryPair : Prop :=
  ∀ (s : State) (g d a b : BitVec 5) (u : Bool) (i : Imm 9) (v : BitVec 9) (e : BitVec 32), s.me.guard g = true →
    let head := g.toNat * 2 ^ 27 + 0x05 * 2 ^ 21 + d.toNat * 2 ^ 16 + a.toNat * 2 ^ 11
    let q (u : Bool) (x y : W64) : W64 :=
      if y = 0 then -1
      else if u then x / y
      else if x.toInt = -2 ^ 63 ∧ y.toInt = -1 then BitVec.ofInt 64 (-2 ^ 63)
      else BitVec.ofInt 64 (x.toInt.tdiv y.toInt)
    let r (u : Bool) (x y : W64) : W64 := x - q u x y * y
    let x := s.me.sreg a
    let y := s.me.sreg b
    let rem (u : Bool) (x y : W64) : W64 := if y = 0 then x else r u x y
    decodeS (head + b.toNat * 2 ^ 5 + u.toNat * 2) e = .ok (.divReg g d a b u) ∧
    decodeS (head + 2 ^ 10 + v.toNat) e = .ok (.divImm g d a (.short v)) ∧
    decodeS (head + 2 ^ 10 + 2 ^ 9) e = .ok (.divImm g d a (.ext e)) ∧
    exec (.divReg g d a b u) s = .next (Claim.gives s [Claim.sres s 18 d (q u x y)]) ∧
    exec (.divImm g d a i) s = .next (Claim.gives s [Claim.sres s 18 d (q false x (Claim.sext i))]) ∧
    exec (.remReg g d a b u) s = .next (Claim.gives s [Claim.sres s 18 d (rem u x y)]) ∧
    exec (.remImm g d a i) s = .next (Claim.gives s [Claim.sres s 18 d (rem false x (Claim.sext i))])

/-- R317, R361, R433: the bitwise operations, the shifts by the low six bits of the second operand, and the rotation. -/
def Sys2Proof.Claim.LogicAndShiftsTakeTheirBits : Prop :=
  ∀ (s : State) (g d a b : BitVec 5) (i : Imm 9), s.me.guard g = true →
    let x := s.me.sreg a
    let lands (v : W64) : Host.Outcome State Fault Refusal := .next (Claim.gives s [Claim.sres s 1 d v])
    let shl (x y : W64) : W64 := BitVec.ofNat 64 (x.toNat * 2 ^ (y.toNat % 64))
    let shr (x y : W64) : W64 := BitVec.ofNat 64 (x.toNat / 2 ^ (y.toNat % 64))
    let sra (x y : W64) : W64 := BitVec.ofInt 64 (x.toInt / 2 ^ (y.toNat % 64))
    let rotl (x y : W64) : W64 := 
      BitVec.ofNat 64 (x.toNat * 2 ^ (y.toNat % 64) + x.toNat / 2 ^ (64 - y.toNat % 64))
    ∀ y, (y = s.me.sreg b →
      exec (.andReg g d a b) s = lands (x &&& y) ∧ exec (.orReg g d a b) s = lands (x ||| y) ∧
      exec (.xorReg g d a b) s = lands (x ^^^ y) ∧ exec (.shlReg g d a b) s = lands (shl x y) ∧
      exec (.shrReg g d a b) s = lands (shr x y) ∧ exec (.sraReg g d a b) s = lands (sra x y) ∧
      exec (.rotlReg g d a b) s = lands (rotl x y)) ∧
    (y = Claim.sext i →
      exec (.andImm g d a i) s = lands (x &&& y) ∧ exec (.orImm g d a i) s = lands (x ||| y) ∧
      exec (.xorImm g d a i) s = lands (x ^^^ y) ∧ exec (.shlImm g d a i) s = lands (shl x y) ∧
      exec (.shrImm g d a i) s = lands (shr x y) ∧ exec (.sraImm g d a i) s = lands (sra x y) ∧
      exec (.rotlImm g d a i) s = lands (rotl x y))

/-- R325, R361: `CLZ` counts the zeros above the highest set bit, 64 for an operand of 0; `POPC` counts ones; `MIN` and
`MAX` give the smaller and the larger of the operands, signed or with `.U` unsigned. -/
def Sys2Proof.Claim.CountsAndExtremes : Prop :=
  ∀ (s : State) (g d a b : BitVec 5) (u : Bool) (i : Imm 9), s.me.guard g = true →
    let lands (v : W64) : Host.Outcome State Fault Refusal := .next (Claim.gives s [Claim.sres s 1 d v])
    let x := s.me.sreg a
    let y := s.me.sreg b
    let z := Claim.sext i
    let clz (x v : W64) : Prop := v.toNat ≤ 64 ∧ (x = 0 → v.toNat = 64) ∧
      (x ≠ 0 → v.toNat < 64 ∧ x.getLsbD (63 - v.toNat) = true) ∧ ∀ k, 63 - v.toNat < k → x.getLsbD k = false
    let low (u : Bool) (x y v : W64) : Prop := (v = x ∨ v = y) ∧ Claim.read u v = min (Claim.read u x) (Claim.read u y)
    let high (u : Bool) (x y v : W64) : Prop := (v = x ∨ v = y) ∧ Claim.read u v = max (Claim.read u x) (Claim.read u y)
    (∃ v, exec (.clzReg g d a) s = lands v ∧ clz x v) ∧ (∃ v, exec (.clzImm g d i) s = lands v ∧ clz z v) ∧
    exec (.popcReg g d a) s = lands (BitVec.ofNat 64 (Claim.ones 64 x.toNat)) ∧
    exec (.popcImm g d i) s = lands (BitVec.ofNat 64 (Claim.ones 64 z.toNat)) ∧
    (∃ v, exec (.minReg g d a b u) s = lands v ∧ low u x y v) ∧ (∃ v, exec (.minImm g d a i) s = lands v ∧ low false x z v) ∧
    (∃ v, exec (.maxReg g d a b u) s = lands v ∧ high u x y v) ∧ (∃ v, exec (.maxImm g d a i) s = lands v ∧ high false x z v)

/-- R384: `SEL`, in the format SS with bits 10 and 4 zero, takes the first register under a true predicate and else the second;
the result lands on c + 1. -/
def Obligations.SelectChoosesByItsPredicate : Prop :=
  ∀ (s : State) (g d a b : BitVec 5) (p : BitVec 4) (x y : Bool) (e : BitVec 32),
    decodeS (g.toNat * 2 ^ 27 + 0x12 * 2 ^ 21 + d.toNat * 2 ^ 16 + a.toNat * 2 ^ 11 + x.toNat * 2 ^ 10 + b.toNat * 2 ^ 5 +
      y.toNat * 2 ^ 4 + p.toNat) e = (if x || y then .error (.reserved 0) else .ok (.sel g d a b p)) ∧
    (s.me.guard g = true → exec (.sel g d a b p) s =
      .next (Claim.gives s [Claim.sres s 1 d (bif s.me.preg p then s.me.sreg a else s.me.sreg b)]))

/-- R358, R342: `LI` gives its immediate, `LIH` replaces the upper half of its own destination, and `CYC` gives the task cycle or
the global cycle; all land on c + 1. -/
def Sys2Proof.Claim.ImmediatesAndCycles : Prop :=
  ∀ (s : State) (g d : BitVec 5) (i : Imm 15) (t : Bool), s.me.guard g = true →
    let lands (v : W64) : Host.Outcome State Fault Refusal := .next (Claim.gives s [Claim.sres s 1 d v])
    exec (.li g d i) s = lands (Claim.sext i) ∧
    (∃ v, exec (.lih g d i) s = lands v ∧ v.extractLsb' 0 32 = (s.me.sreg d).extractLsb' 0 32 ∧
      v.extractLsb' 32 32 = (Claim.sext i).extractLsb' 0 32) ∧
    exec (.cyc g d t) s = lands (BitVec.ofNat 64 (bif t then s.glob else s.me.cyc))

/-- R377: `PLOG`, in the format SP with bits [4:0] zero, gives the bit of its truth table that the two predicates select, on
c + 1; a result for `p0` is discarded. -/
def Obligations.PredicateLogicTakesItsTable : Prop :=
  ∀ (s : State) (g z : BitVec 5) (pd pa pb tt : BitVec 4) (e : BitVec 32) (c : Core) (v : Bool),
    decodeS (g.toNat * 2 ^ 27 + 0x17 * 2 ^ 21 + pd.toNat * 2 ^ 17 + pa.toNat * 2 ^ 13 + pb.toNat * 2 ^ 9 + tt.toNat * 2 ^ 5 +
      z.toNat) e = (if z = 0 then .ok (.plog g pd pa pb tt) else .error (.reserved 0)) ∧
    (s.me.guard g = true → exec (.plog g pd pa pb tt) s =
      .next (Claim.gives s [Claim.pres s 1 pd (tt.getLsbD (2 * (s.me.preg pa).toNat + (s.me.preg pb).toNat))])) ∧
    (pd = 0 → c.setP (s.me.phP pd.toNat) v = c)

/-- R326: a compare gives its condition to one predicate and the complement to the other, on c + 1. -/
def Sys2Proof.Claim.ComparesWriteComplementaryPredicates : Prop :=
  ∀ (s : State) (g : BitVec 5) (pd pe : BitVec 4) (a b : BitVec 5) (cc : BitVec 3) (i : Imm 4), s.me.guard g = true →
    let holds (x y : W64) : Bool :=
      if cc = 0 then x == y else if cc = 1 then x != y else if cc = 2 then y.ule x else if cc = 3 then x.ult y
      else if cc = 4 then y.sle x else x.slt y
    let both (t : Bool) : Host.Outcome State Fault Refusal :=
      .next (Claim.gives s [Claim.pres s 1 pd t, Claim.pres s 1 pe (!t)])
    exec (.cmp g pd pe a b cc) s = both (holds (s.me.sreg a) (s.me.sreg b)) ∧
    exec (.cmpi g pd pe a cc i) s = both (holds (s.me.sreg a) (Claim.sext i))

/-- R316, R358, R361: the integer subset of the C slots works on the slot's own file, wraps, and lands on c + 1. -/
def Sys2Proof.Claim.ChannelSlotArithmeticWraps : Prop :=
  ∀ (s : State) (h : CHead) (d a : BitVec 5) (o : COp) (i : BitVec 32), s.me.guard h.g = true →
    let lands (v : W64) : Host.Outcome State Fault Refusal :=
      .next (Claim.gives s [⟨bif h.slot then 5 else 4, 1, .reg (bif h.slot then .h else .g) d.toNat v⟩])
    let x := s.me.greg h.slot a
    let y := match o with | .reg b => s.me.greg h.slot b | .imm v => v.signExtend 64
    exec (.addC h d a o) s = lands (x + y) ∧ exec (.subC h d a o) s = lands (x - y) ∧
    exec (.shlC h d a o) s = lands (BitVec.ofNat 64 (x.toNat * 2 ^ (y.toNat % 64))) ∧
    exec (.liC h d i) s = lands (i.signExtend 64) ∧
    (∃ v, exec (.lihC h d i) s = lands v ∧ v.extractLsb' 0 32 = (s.me.greg h.slot d).extractLsb' 0 32 ∧
      v.extractLsb' 32 32 = i)

/-! ### Crossing, comparing, loads and stores of the S slot -/

namespace Sys2Proof.Claim

open Sys2Proof Sys2Proof.Machine

/-- The state after the issuing core has issued an `XCP` in a slot: its value lands on c + 2 (R59, R63). -/
def moves (s : State) (slot : Nat) (e : Eff) : State :=
  with' s { s.me with
    pend := s.me.pend ++ [⟨s.me.cyc + 2, s.me.cyc, slot, true, s.me.half.toNat * 2 ^ 14 + s.me.pc, e⟩] }

/-- No error mark stands on the words of some vector registers of the issuing core that a V word reads (R264). -/
def clean (s : State) (h : VHead) (rs : List (BitVec 6)) : Prop :=
  ∀ e ∈ s.errs, e.kind = (bif h.slot then 3 else 2) → e.unit = s.cur → ∀ r ∈ rs, e.idx / 8 ≠ s.me.phV h.slot r.toNat

/-- No error mark stands on some tree-scratch entries of the issuing core. -/
def cleanZ (s : State) (zs : List Nat) : Prop := ∀ e ∈ s.errs, e.kind = 4 → e.unit = s.cur → e.idx ∉ zs

/-- The number of a vector slot and of a channel slot. -/
def vslot (h : VHead) : Nat := bif h.slot then 2 else 1
def cslot (h : CHead) : Nat := bif h.slot then 5 else 4

/-- Where a 64-bit value goes in each file that `XCP` may name (R59): 0 `s`, 1 `x`, 2 `y`, 3 `z`, 4 `g`, 5 `h`. -/
def crossed (s : State) (f r : Nat) (v : W64) (e : Eff) : Prop :=
  (f = 0 → e = .reg .s (s.me.phS r) v) ∧
  (f = 1 → ∃ x : Vec, e = .vec false (s.me.phV false r) x (BitVec.allOnes 512) ∧ ∀ i < 8, x.extractLsb' (64 * i) 64 = v) ∧
  (f = 2 → ∃ x : Vec, e = .vec true (s.me.phV true r) x (BitVec.allOnes 512) ∧ ∀ i < 8, x.extractLsb' (64 * i) 64 = v) ∧
  (f = 3 → e = .zs [(r, v.extractLsb' 0 32)]) ∧ (f = 4 → e = .reg .g r v) ∧ (f = 5 → e = .reg .h r v)

end Sys2Proof.Claim

/-- R59, R432: `XCP` of the S slot and of the channel slots moves a 64-bit register into a register of another file, into
all eight 64-bit lanes of a vector register, or its low half into a tree-scratch entry, on c + 2. -/
def Sys2Proof.Claim.CrossMovesOfScalars : Prop :=
  ∀ (s : State) (h : CHead) (g a : BitVec 5) (f : BitVec 3) (r : BitVec 9), f.toNat ≤ 5 →
    (s.me.guard g = true → ∃ e, exec (.xcpS g f r a) s = .next (Claim.moves s 0 e) ∧
      Claim.crossed s f.toNat r.toNat (s.me.sreg a) e) ∧
    (s.me.guard h.g = true → ∃ e, exec (.xcpC h a f r) s = .next (Claim.moves s (Claim.cslot h) e) ∧
      Claim.crossed s f.toNat r.toNat (s.me.greg h.slot a) e)

/-- R59, R432: `XCP` of a vector slot moves the whole register into the other vector file, or the named 64-bit lane into
`s`, `g` or `h`; `XCP` of the M slot moves a tree-scratch entry, zero-extended, into `s`, `g` or `h`. -/
def Sys2Proof.Claim.CrossMovesOfVectorsAndTrees : Prop :=
  ∀ (s : State) (h : VHead) (m : MHead) (a : BitVec 6) (f : BitVec 3) (r : BitVec 9) (l : BitVec 3) (zs : BitVec 9)
    (r5 : BitVec 5),
    (s.me.guard h.g = true → Claim.clean s h [a] →
      let x := BitVec.ofNat 512 (s.me.vreg h.slot a)
      let w := x.extractLsb' (64 * l.toNat) 64
      let lands (e : Eff) : Prop := exec (.xcpV h a f r l) s = .next (Claim.moves s (Claim.vslot h) e)
      (f.toNat = 0 → lands (.reg .s (s.me.phS r.toNat) w)) ∧
      (f.toNat = 1 → lands (.vec false (s.me.phV false r.toNat) x (BitVec.allOnes 512))) ∧
      (f.toNat = 2 → lands (.vec true (s.me.phV true r.toNat) x (BitVec.allOnes 512))) ∧
      (f.toNat = 4 → lands (.reg .g r.toNat w)) ∧ (f.toNat = 5 → lands (.reg .h r.toNat w))) ∧
    (s.me.guard m.g = true → Claim.cleanZ s [zs.toNat] →
      let v := BitVec.ofNat 64 (s.me.zreg zs.toNat)
      let lands (e : Eff) : Prop := exec (.xcpM m zs f r5) s = .next (Claim.moves s 3 e)
      (f.toNat = 0 → lands (.reg .s (s.me.phS r5.toNat) v)) ∧ (f.toNat = 4 → lands (.reg .g r5.toNat v)) ∧
      (f.toNat = 5 → lands (.reg .h r5.toNat v)))

/-- R327, R262: `CMPT` compares on c + 1: in all 64 bits in the S slot and the channel slots, in all 512 bits in a vector
slot; the exclusive-or of bits [63:0] goes along as the fault's data. -/
def Sys2Proof.Claim.ComparedTwinsDifferInAnyBit : Prop :=
  ∀ (s : State) (g a b : BitVec 5) (h : CHead) (v : VHead) (o : VR),
    let cmp (sl : Nat) (ne : Bool) (d : W64) : Host.Outcome State Fault Refusal := .next (Claim.gives s [⟨sl, 1, .cmpt ne d⟩])
    (s.me.guard g = true → ∃ ne, exec (.cmptS g a b) s = cmp 0 ne (s.me.sreg a ^^^ s.me.sreg b) ∧
      (ne = false ↔ s.me.sreg a = s.me.sreg b)) ∧
    (s.me.guard h.g = true → ∃ ne,
      exec (.cmptC h a b) s = cmp (Claim.cslot h) ne (s.me.greg h.slot a ^^^ s.me.greg h.slot b) ∧
      (ne = false ↔ s.me.greg h.slot a = s.me.greg h.slot b)) ∧
    (s.me.guard v.g = true → Claim.clean s v [o.a, o.b] → ∃ ne,
      exec (.cmptV v o) s = cmp (Claim.vslot v) ne
        ((BitVec.ofNat 512 (s.me.vreg v.slot o.a)).extractLsb' 0 64 ^^^ (BitVec.ofNat 512 (s.me.vreg v.slot o.b)).extractLsb' 0 64) ∧
      (ne = false ↔ s.me.vreg v.slot o.a = s.me.vreg v.slot o.b))

/-- R357, R392, R112: the element address of `LDS` and `STS` is s[A] + OFF × e modulo 2^64. In the core's own scratch the
load reads the element aligned down to its size on c + 1, and the store writes exactly its bytes on c + 2; any other address
is `ADDRESS` (0x12), with detection cycle c + 1 for the load and c + 2 for the store. -/
def Obligations.ScalarAccessesFormTheirElement : Prop :=
  ∀ (s : State) (g d a : BitVec 5) (e : BitVec 2) (u : Bool) (o : BitVec 8), s.me.guard g = true →
    let n : Nat := 2 ^ e.toNat
    let at' : W64 := s.me.sreg a + BitVec.ofInt 64 (o.toInt * n)
    let off := at'.toNat % 2 ^ 18 / n * n
    let own := at'.toNat < 2 ^ 30 ∧ at'.toNat / 2 ^ 18 = s.me.id
    (own → exec (.lds g d a e u o) s = .next (Claim.gives s [⟨0, 1, .lds off n u (s.me.phS d.toNat)⟩]) ∧
      ∃ v m, exec (.sts g d a e o) s = .next (Claim.gives s [⟨0, 2, .write (off / 64) v m⟩]) ∧
        (∀ b < 64, m.getLsbD b = decide (off % 64 ≤ b ∧ b < off % 64 + n)) ∧
        ∀ j < n, v.extractLsb' (8 * (off % 64 + j)) 8 = (s.me.sreg d).extractLsb' (8 * j) 8) ∧
    (¬ own → exec (.lds g d a e u o) s = .next (Claim.gives s [⟨0, 1, .raise 0x12 at'⟩]) ∧
      exec (.sts g d a e o) s = .next (Claim.gives s [⟨0, 2, .raise 0x12 at'⟩]))

/-! ### The sequencer -/

namespace Sys2Proof.Claim

open Sys2Proof Sys2Proof.Machine

/-- A core that has no fault on record records one on its present task cycle: in slot order number `slot`, at issue or not
(R247 to R250). The stub takes the causes of R247 and the faults after an `EXIT`; every other fault belongs to the region that
is innermost once its bundle has issued, which the model writes as depth 4 (log 42). -/
def records (c : Core) (slot cause : Nat) (data : W64) (issue : Bool) : Core :=
  { c with flt := some ⟨c.cyc, c.cyc, cause, 0, slot, false, data, c.half.toNat * 2 ^ 14 + c.pc, false,
      (if cause ≤ 0x03 ∨ cause = 0x15 ∨ cause = 0x16 ∨ c.exited then 0 else 4), issue, none⟩ }

end Sys2Proof.Claim

/-- R337, R58, R272: `CRD` gives the register's value as it stands on c, on c + 2, and `CWR` takes effect from c + 1; a
privileged register outside stub mode is `PRIV` (0x03) instead. -/
def Sys2Proof.Claim.ControlRegistersAreReadAndWritten : Prop :=
  ∀ (s : State) (g r : BitVec 5) (n : BitVec 12), s.me.guard g = true →
    let priv := 0x080 ≤ n.toNat ∧ n.toNat ≤ 0x087
    let reads (v : Nat) : Prop := exec (.crd g r n) s = .next (Claim.gives s [Claim.sres s 2 r (BitVec.ofNat 64 v)])
    (¬ (priv ∧ s.me.stub = false) →
      reads (s.readCr s.cur n.toNat) ∧
      (n = 0x000 → reads s.me.cyc) ∧ (n = 0x001 → reads s.glob) ∧
      (n = 0x008 → reads (Sparse.get 0 s.me.cr 0x008).toNat) ∧ (n = 0x034 → reads s.me.mres.toNat) ∧
      (n = 0x038 → reads s.me.c0.wp) ∧ (n = 0x040 → reads 0x03050506) ∧ (n = 0x04D → reads s.me.crgn.length) ∧
      (n = 0x082 → reads s.leakper.toNat) ∧
      exec (.cwr g r n) s = .next (Claim.gives s [⟨0, 1, .cwr n.toNat (s.me.sreg r)⟩])) ∧
    (priv → s.me.stub = false → s.me.flt = none →
      exec (.crd g r n) s = .next (Claim.with' s (Claim.records s.me 0 0x03 0 true)) ∧
      exec (.cwr g r n) s = .next (Claim.with' s (Claim.records s.me 0 0x03 0 true)))

/-- R6, R18, R57, R58: what a `CWR` changes, field by field: `STAGE` takes bits [5:0] unless they are the stage count or
more; a `TSH` takes ROWS, COLS and EW unless R57 ignores the value; rotation bases take their field; a read-only register
keeps its value. No write of a control register changes a byte of memory, but for the event records that new marks may bring
into an enabled ring. -/
def Sys2Proof.Claim.ControlRegisterWritesKeepTheirFields : Prop :=
  ∀ (s : State) (k v t : Nat), t < 8 →
    let put (n w : Nat) : State := { s with cores := Sparse.put s.cores k { s.core k with
      cr := Sparse.set 0 (s.core k).cr n (BitVec.ofNat 64 w) } }
    let rows := v / 2 ^ 3 % 32
    let cols := v / 2 ^ 8 % 256
    let ew := v % 4
    s.writeCr k 0x002 v = (if v % 64 < s.stagesOf k then put 0x002 (v % 64) else s) ∧
    s.writeCr k (0x010 + t) v =
      (if rows = 0 ∨ 16 < rows ∨ ew = 3 ∨ cols = 0 ∨ 512 < cols * (8 * 2 ^ ew) then s
       else put (0x010 + t) (cols * 2 ^ 8 + rows * 2 ^ 3 + ew)) ∧
    s.writeCr k 0x00A v = put 0x00A (v % 16) ∧ s.writeCr k 0x00B v = put 0x00B (v % 32) ∧
    s.writeCr k 0x00C v = put 0x00C (v % 32) ∧ s.writeCr k 0x00D v = put 0x00D (v % 8) ∧
    (∀ n ∈ [0x000, 0x001, 0x003, 0x004, 0x005, 0x030, 0x034, 0x038, 0x040, 0x048, 0x049, 0x04D], s.writeCr k n v = s) ∧
    ∀ n, n ≠ 0x083 ∨ (∀ p, (s.port p).even = false) → (s.writeCr k n v).mem = s.mem

/-- R80 to R82, R323, R324, R349, R350: a taken `BR` or `JMP` sets the bundle that issues next, `BSW` sets it in the other
half, and `IFENCE` clears WRITTEN of every half that no held copy targets. -/
def Sys2Proof.Claim.BranchesSetTheNextBundle : Prop :=
  ∀ (s : State) (g a : BitVec 5) (o : BitVec 14), s.me.guard g = true →
    (∃ t, exec (.br g o) s = .next (Claim.with' s { s.me with npc := t }) ∧ t < 2 ^ 14 ∧
      (t : Int) % 2 ^ 14 = (s.me.pc + 2 * o.toInt) % 2 ^ 14) ∧
    exec (.jmp g a) s = .next (Claim.with' s { s.me with npc := 2 * ((s.me.sreg a).extractLsb' 1 13).toNat }) ∧
    exec (.bsw g o) s = .next (Claim.with' s { s.me with nhalf := !s.me.half, npc := 2 * o.toNat }) ∧
    exec (.ifence g) s = .next (Claim.with' s { s.me with
      wrA := s.me.wrA && s.me.target false, wrB := s.me.wrB && s.me.target true })

/-- R71, R72, R322, R364: `LOOP` with a count of 0 branches to its label and else starts the loop on c + 1; `BLOOP` branches
while `LC` or `EC` is not 0, and then counts and rotates on c + 1; with both 0 it falls through with no effect. -/
def Sys2Proof.Claim.LoopsCountAndBranch : Prop :=
  ∀ (s : State) (g a : BitVec 5) (k : BitVec 3) (o : BitVec 13) (b : BitVec 14), s.me.guard g = true →
    let lc := Sparse.get 0 s.me.cr 0x008
    let ec := Sparse.get 0 s.me.cr 0x009
    let n := s.me.sreg a
    (n = 0 → exec (.loop g a k o) s = .next (Claim.with' s { s.me with npc := (s.me.pc + 2 * o.toNat) % 2 ^ 14 })) ∧
    (n ≠ 0 → exec (.loop g a k o) s = .next (Claim.gives s [⟨0, 1, .loop n.toNat (k.toNat + 1)⟩])) ∧
    (lc = 0 → ec = 0 → exec (.bloop g b) s = .next (Claim.with' s s.me)) ∧
    (lc ≠ 0 ∨ ec ≠ 0 → ∃ t, exec (.bloop g b) s = .next (Claim.with' s { Claim.plus s.me [⟨0, 1, .bloop⟩] with npc := t }) ∧
      t < 2 ^ 14 ∧ (t : Int) % 2 ^ 14 = (s.me.pc + 2 * b.toInt) % 2 ^ 14)

/-- R71, R72, R70: what the loop control does on its cycle. `LOOP` sets `LC` to its count less 1 and `EC` to its stages less
1, p8 to 1 and p9 to p15 to 0. A taken `BLOOP` lowers `LC`, or `EC` once `LC` is 0, turns every rotation base back by one and
sets the new p8 to whether an iteration began. -/
def Sys2Proof.Claim.LoopControlRotates : Prop :=
  ∀ (c : Core) (n k : Nat), 0 < n → n < 2 ^ 64 → 0 < k → k ≤ 8 →
    let l := c.loopGo n k
    let b := c.bloopGo
    let lc := Sparse.get 0 c.cr 0x008
    let ec := Sparse.get 0 c.cr 0x009
    (Sparse.get 0 l.cr 0x008).toNat = n - 1 ∧ (Sparse.get 0 l.cr 0x009).toNat = k - 1 ∧
    l.preg 8 = true ∧ (∀ i : BitVec 4, 8 < i.toNat → l.preg i = false) ∧ (∀ i : BitVec 4, i.toNat < 8 → l.preg i = c.preg i) ∧
    (lc ≠ 0 → Sparse.get 0 b.cr 0x008 = lc - 1 ∧ Sparse.get 0 b.cr 0x009 = ec ∧ b.preg 8 = true) ∧
    (lc = 0 → ec ≠ 0 → Sparse.get 0 b.cr 0x008 = 0 ∧ Sparse.get 0 b.cr 0x009 = ec - 1 ∧ b.preg 8 = false) ∧
    (Sparse.get 0 b.cr 0x00A).toNat = ((Sparse.get 0 c.cr 0x00A).toNat + 15) % 16 ∧
    (Sparse.get 0 b.cr 0x00B).toNat = ((Sparse.get 0 c.cr 0x00B).toNat + 31) % 32 ∧
    (Sparse.get 0 b.cr 0x00C).toNat = ((Sparse.get 0 c.cr 0x00C).toNat + 31) % 32 ∧
    (Sparse.get 0 b.cr 0x00D).toNat = ((Sparse.get 0 c.cr 0x00D).toNat + 7) % 8 ∧
    (∀ i : BitVec 4, 8 < i.toNat → b.preg i = c.preg (i - 1))

/-- R428, R429, R430, R314: a wait whose condition holds lets its bundle go on that cycle, and one whose condition does not
hold stalls it, with no other effect; `WAIT.VAL` stands until the wait unit has read. A `WAIT.BAR` of a barrier that the kernel
does not declare, and a `WAIT.VAL` of a misaligned address, of no legal operand or of instruction scratch, is `ADDRESS` (0x12)
on the presentation cycle, and its bundle stands unissued. A wait under a false guard has no effect. The region of the fault is
log 42 (the model's reading). -/
def Sys2Proof.Claim.WaitsHoldTheirBundle : Prop :=
  ∀ (s : State) (g a b : BitVec 5) (q : BitVec 6) (n : BitVec 4) (ch acq z : Bool) (cc sc : BitVec 3),
    s.me.guard g = true → s.me.stall = none →
    let go : Host.Outcome State Fault Refusal := .next (Claim.with' s { s.me with stall := none })
    let holds (st : Stall) : Host.Outcome State Fault Refusal := .next (Claim.with' s { s.me with stall := some st })
    exec (.waitOwn g q) s = (if Sparse.get .core s.me.own q.toNat = .core then go else holds (.own q.toNat)) ∧
    exec (.waitWp g ch a) s =
      (if (s.me.sreg a).toNat ≤ (bif ch then s.me.c1 else s.me.c0).wp then go else holds (.wp ch (s.me.sreg a).toNat)) ∧
    exec (.waitCyc g a) s = (if (s.me.sreg a).toNat ≤ s.me.cyc then go else holds (.cyc (s.me.sreg a).toNat)) ∧
    (∀ x, s.barr? s.cur n.toNat = some x →
      exec (.waitBar g n) s = (if x.phase = bitOf s.me.arrph.toNat n.toNat then holds (.bar n.toNat) else go)) ∧
    (∀ p, opndOf s.me.id (s.me.sreg a) = some p → p.aligned (bif z then 8 else 4) = true → p.isIsc = false →
      exec (.waitVal g acq cc a b sc z) s = holds (.val (s.me.sreg a) (s.me.sreg b) z cc.toNat false s.me.cyc)) ∧
    (s.me.flt = none → s.barr? s.cur n.toNat = none → exec (.waitBar g n) s =
      .next (Claim.with' s { Claim.records s.me 0 0x12 0 false with stall := some (.bar n.toNat) })) ∧
    (s.me.flt = none → (∀ p, opndOf s.me.id (s.me.sreg a) = some p →
        p.aligned (bif z then 8 else 4) = false ∨ p.isIsc = true) →
      exec (.waitVal g acq cc a b sc z) s = .next (Claim.with' s { Claim.records s.me 0 0x12 (s.me.sreg a) false with
        stall := some (.val (s.me.sreg a) (s.me.sreg b) z cc.toNat false s.me.cyc) })) ∧
    ∀ (g' : BitVec 5) (t : State), t.me.stall = none → t.me.guard g' = false →
      ∀ i ∈ [Instr.waitOwn g' q, .waitWp g' ch a, .waitBar g' n, .waitVal g' acq cc a b sc z, .waitCyc g' a], exec i t = .next t

/-- R428, R430: a wait already in force goes by the condition that it was presented with, whatever its guard and registers
hold now; the wait unit's answer lets a `WAIT.VAL` go. -/
def Sys2Proof.Claim.WaitsInForceStand : Prop :=
  ∀ (s : State) (st : Stall) (g a b : BitVec 5) (q : BitVec 6) (n : BitVec 4) (ch acq z : Bool) (cc sc : BitVec 3),
    s.me.stall = some st → ∀ i ∈ [Instr.waitOwn g q, .waitWp g ch a, .waitBar g n, .waitVal g acq cc a b sc z, .waitCyc g a],
    let go : Host.Outcome State Fault Refusal := .next (Claim.with' s { s.me with stall := none })
    let stay : Host.Outcome State Fault Refusal := .next (Claim.with' s s.me)
    (∀ m, st = .own m → exec i s = if Sparse.get .core s.me.own m = .core then go else stay) ∧
    (∀ c m, st = .wp c m → exec i s = if m ≤ (bif c then s.me.c1 else s.me.c0).wp then go else stay) ∧
    (∀ m, st = .cyc m → exec i s = if m ≤ s.me.cyc then go else stay) ∧
    (∀ u v e k met l, st = .val u v e k met l → exec i s = if met then go else stay)

/-- R321, R40: `BAR` waits for the core's engine work and then arrives: the core notes the barrier's phase, ARRIVED adds 1,
and the arrival that completes the count clears it and turns the phase. A barrier that the kernel does not declare is
`ADDRESS` (0x12). -/
def Sys2Proof.Claim.BarrierArrivalTurnsThePhase : Prop :=
  ∀ (s : State) (g : BitVec 5) (b : BitVec 4) (x : Barr), s.me.guard g = true → s.me.stall = none →
    (s.barr? s.cur b.toNat = some x → s.engineWork s.cur = [] → ∃ t, exec (.bar g b) s = .next t ∧
      t.barr? s.cur b.toNat = some { x with
        arrived := if x.arrived + 1 < x.count then x.arrived + 1 else 0
        phase := if x.arrived + 1 < x.count then x.phase else !x.phase } ∧
      (∀ n : BitVec 4, t.me.arrph.getLsbD n.toNat = if n = b then x.phase else s.me.arrph.getLsbD n.toNat) ∧
      t.mem = s.mem ∧ t.me.pend = s.me.pend ∧ t.me.stall = none) ∧
    (s.barr? s.cur b.toNat = some x → s.engineWork s.cur ≠ [] →
      exec (.bar g b) s = .next (Claim.with' s { s.me with stall := some (.arrive b.toNat) })) ∧
    (s.barr? s.cur b.toNat = none → s.me.flt = none →
      exec (.bar g b) s = .next (Claim.with' s (Claim.records s.me 0 0x12 0 false)))

/-- R37, R38, R184: `TNEXT` and `ENQ` go to the physical queue that `TQBIND` names for the logical one, on c + 1; a logical
queue that is not bound is `ADDRESS` (0x12). A `TNEXT` that the weight gate holds does not issue. -/
def Sys2Proof.Claim.QueueOperationsNameTheBoundQueue : Prop :=
  ∀ (s : State) (g a : BitVec 5) (pd : BitVec 4) (q : BitVec 3) (pri : BitVec 2), s.me.guard g = true → s.me.stall = none →
    let e := (Sparse.get 0 s.me.cr 0x005).extractLsb' (8 * q.toNat) 8
    let gate := Sparse.get 0 s.me.cr 0x03E
    let open' := gate.getLsbD 63 = true → (gate.extractLsb' 0 62).toNat ≤ (bif gate.getLsbD 62 then s.me.c1 else s.me.c0).wp
    (e.getLsbD 7 = true →
      (open' → exec (.tnext g pd q a) s = .next (Claim.with' s (Claim.plus { s.me with stall := none }
        [⟨0, 1, .tnext (e.extractLsb' 0 6).toNat (s.me.phP pd.toNat) (s.me.sreg a)⟩]))) ∧
      exec (.enq g pd q pri a) s = .next (Claim.gives s
        [⟨0, 1, .enq (e.extractLsb' 0 6).toNat pri.toNat (s.me.phP pd.toNat) (s.me.sreg a)⟩])) ∧
    (e.getLsbD 7 = false →
      (open' → exec (.tnext g pd q a) s = .next (Claim.with' s (Claim.plus { s.me with stall := none }
        [⟨0, 1, .raise 0x12 0⟩]))) ∧
      exec (.enq g pd q pri a) s = .next (Claim.gives s [⟨0, 1, .raise 0x12 0⟩])) ∧
    (¬ open' → exec (.tnext g pd q a) s = .next (Claim.with' s { s.me with stall := some .gate }))

namespace Sys2Proof.Claim

open Sys2Proof Sys2Proof.Machine

/-- A core after an edge of the task clock on which nothing of it takes effect. -/
def ticked (s : State) (k : Nat) : Core :=
  let c := s.core k
  if s.ticks c then { c with cyc := c.cyc + 1, atDrain := false }
  else { c with freeze := if 1 < c.freeze then c.freeze - 1 else c.freeze, frozen := c.freeze != 0 }

/-- The effects `l` are in flight in core `k`, whose clock goes; nothing else of the module's cores is, no write-back is held, and
no word holds an error. -/
def onlyPend (s : State) (k : Nat) (l : List Pend) : Prop :=
  s.errs = [] ∧ s.cores.Pairwise (fun a b => a.1 ≠ b.1) ∧ s.ticks (s.core k) = true ∧ (s.core k).pend = l ∧
  (s.core k).owed = [] ∧ (s.core k).flt = none ∧ (∀ p ∈ l, p.slot ≠ 6) ∧
  (∀ e ∈ s.cores, ∀ m ∈ e.2.held, ∀ q n, m.kind ≠ .wbk q n) ∧
  ∀ e ∈ s.cores, e.1 ≠ k → e.2.pend = [] ∧ e.2.owed = [] ∧ e.2.flt = none

/-- One effect is in flight. -/
def onlyEffect (s : State) (k : Nat) (p : Pend) : Prop := onlyPend s k [p]

/-- What a pop of a queue finds, and what it leaves (R37): of the records of the highest priority the oldest, or nothing. -/
def popped (l : List TRec) (r : Option TRec) (rest : List TRec) : Prop :=
  (l = [] ∧ r = none ∧ rest = []) ∨ ∃ a x b, l = a ++ x :: b ∧ r = some x ∧ rest = a ++ b ∧
    (∀ y ∈ a, y.pri < x.pri) ∧ ∀ y ∈ b, y.pri ≤ x.pri

/-- The results of a pop, due 3 cycles after it: the flag, and the record for its row (R37). -/
def popEffs (r : Option TRec) (row pd : Nat) : List Eff :=
  match r with
  | some x => [.popRow row x.data, .pred pd true]
  | none => [.pred pd false]

/-- A core with results due 3 cycles after the present one, of the operation of `p`. -/
def in3 (c : Core) (p : Pend) (l : List Eff) : Core := { c with pend := c.pend ++ l.map (fun e => { p with due := c.cyc + 3, eff := e }) }

/-- A queue of a die. -/
def queue (s : State) (die q : Nat) : List TRec := Sparse.get [] (s.die die).queues q

/-- The state with a queue of a die replaced. -/
def queueSet (s : State) (die q : Nat) (l : List TRec) : State :=
  { s with dies := Sparse.put s.dies die { s.die die with queues := Sparse.set [] (s.die die).queues q l } }

end Sys2Proof.Claim

/-- R37, R38, R39: a pop, on c + 1, takes the oldest record of the highest priority; its row is written and its flag lands on
c + 4. Nothing is written when the queue is empty, and the flag is false. A push reads its row on c + 1 and appends it, unless
the queue holds 4,096 records; its flag lands on c + 4. An address that is no row of the core is `ADDRESS` (0x12), and a row of a
push outside a CORE-owned quarter is `OWNERSHIP` (0x10): neither changes the queue. The popped record is written only into a
CORE-owned quarter, else it is lost with `OWNERSHIP`. In one step of a die the pops are served before the pushes, so that a
record is never popped in the step that pushes it. -/
def Sys2Proof.Claim.QueuesPopAndPush : Prop :=
  ∀ (s : State) (k : Nat) (p : Pend) (q pri pd row : Nat) (a : W64), s.errs = [] →
    let c := s.core k
    let die := dieOf k
    let mine := a.toNat = k * 2 ^ 18 + 64 * row ∧ row < 4096 ∧ a.toNat < 2 ^ 30 ∧ s.diemask.getLsbD die = true
    let faults (t : State) (cause : Nat) (data : W64) : Prop := t = s.setCore k { c with flt := (t.core k).flt } ∧
      ∃ f, (t.core k).flt = some f ∧ f.cause = cause ∧ f.data = data ∧ f.slot = p.slot ∧ f.f = c.cyc
    let record : TRec := ⟨pri, BitVec.ofNat 512 (leNat (rdBytes s.mem (scrKey k (64 * row)) 64))⟩
    (∀ r rest, mine → Claim.popped (Claim.queue s die q) r rest → s.popGo k p q pd a =
      (if r.isSome then Claim.queueSet s die q rest else s).setCore k (Claim.in3 c p (Claim.popEffs r row pd))) ∧
    (mine → c.owner (row / 64) = .core → c.mapped (row / 64) = false → s.enqGo k p q pri pd a =
      if (Claim.queue s die q).length < 4096
      then (Claim.queueSet s die q (Claim.queue s die q ++ [record])).setCore k (Claim.in3 c p [.pred pd true])
      else s.setCore k (Claim.in3 c p [.pred pd false])) ∧
    (c.flt = none → a.toNat / 2 ^ 18 ≠ k ∨ 2 ^ 30 ≤ a.toNat ∨ s.diemask.getLsbD die = false →
      faults (s.popGo k p q pd a) 0x12 a ∧ faults (s.enqGo k p q pri pd a) 0x12 a) ∧
    (c.flt = none → mine → c.owner (row / 64) ≠ .core → faults (s.enqGo k p q pri pd a) 0x10 (BitVec.ofNat 64 (k * 2 ^ 18 + 64 * row))) ∧
    (∀ v : Vec, Claim.onlyEffect s k p → p.eff = .popRow row v → p.due ≤ (Claim.ticked s k).cyc → row < 4096 →
      ∃ t, exec .taskClockEdge s = .next t ∧
        (c.owner (row / 64) = .core → c.mapped (row / 64) = false → t.core k = { Claim.ticked s k with pend := [] } ∧
          ∀ x, rdByte t.mem x = if scrKey k (64 * row) ≤ x ∧ x < scrKey k (64 * row) + 64
            then v.extractLsb' (8 * (x - scrKey k (64 * row))) 8 else rdByte s.mem x) ∧
        (c.owner (row / 64) ≠ .core → t.mem = s.mem ∧ t.dies = s.dies ∧ ∃ f, (t.core k).flt = some f ∧ f.cause = 0x10 ∧
          f.slot = p.slot)) ∧
    (∀ (j : Nat) (p' : Pend) (row' pd' : Nat) (a' : W64) (r : Option TRec) (rest : List TRec), j ≠ k → dieOf j = die → mine →
      a'.toNat = j * 2 ^ 18 + 64 * row' → row' < 4096 → a'.toNat < 2 ^ 30 →
      s.cores.Pairwise (fun x y => x.1 ≠ y.1) → (∀ e ∈ s.cores, ∀ m ∈ e.2.held, ∀ x n, m.kind ≠ .wbk x n) →
      (∀ e ∈ s.cores, e.2.owed = [] ∧ e.2.flt = none ∧ (e.1 ≠ j → e.1 ≠ k → e.2.pend = [])) →
      s.ticks c = true → s.ticks (s.core j) = true → c.pend = [p] → p.eff = .tnext q pd a → p.due ≤ c.cyc + 1 →
      (s.core j).pend = [p'] → p'.eff = .enq q pri pd' a' → p'.due ≤ (s.core j).cyc + 1 →
      (s.core j).owner (row' / 64) = .core → (s.core j).mapped (row' / 64) = false →
      Claim.popped (Claim.queue s die q) r rest → rest.length < 4096 →
      ∃ t, exec .taskClockEdge s = .next t ∧ t.mem = s.mem ∧
        Claim.queue t die q = rest ++ [⟨pri, BitVec.ofNat 512 (leNat (rdBytes s.mem (scrKey j (64 * row')) 64))⟩] ∧
        t.core k = Claim.in3 { Claim.ticked s k with pend := [] } p (Claim.popEffs r row pd) ∧
        t.core j = Claim.in3 { Claim.ticked s j with pend := [] } p' [.pred pd' true])

/-- R346, R270, R254, R256, R340: `EXIT` ends the core's issue and abandons its regions; `DBRK` asks for a drain and `TRAP`
raises its cause 0x16 with its immediate, both on c + 1; `TRET` in stub mode leaves it and goes on at `TRAPADDR` with no
slot armed, and outside it is `PRIV`; `CRGN.OPEN` opens a region as its bundle issues, or is `ADDRESS` under four open ones;
`CRGN.CLOSE` with no command of the region outstanding pops it. The region of a fault is log 42 (the model's reading). -/
def Obligations.EndsTrapsAndRegions : Prop :=
  ∀ (s : State) (g : BitVec 5) (i : BitVec 16) (id : BitVec 8) (o : BitVec 12), s.me.guard g = true →
    exec (.exit g) s = .next (Claim.with' s { s.me with exited := true, crgn := [] }) ∧
    exec (.dbrk g) s = .next (Claim.gives s [⟨0, 1, .dbrk⟩]) ∧
    exec (.trap g i) s = .next (Claim.gives s [⟨0, 1, .raise 0x16 (i.setWidth 64)⟩]) ∧
    (s.me.stub = true →
      let a := Sparse.get 0 s.me.cr 0x049
      ∃ t, exec (.tret g) s = .next (Claim.with' s t) ∧ t.stub = false ∧ t.armed = [] ∧ t.nhalf = a.getLsbD 14 ∧
        t.npc = (a.extractLsb' 0 14).toNat ∧ t.s = s.me.s ∧ t.p = s.me.p ∧ t.pend = s.me.pend ∧
        ∀ n, n ≠ 0x048 → Sparse.get 0 t.cr n = Sparse.get 0 s.me.cr n) ∧
    (s.me.stub = false → s.me.flt = none → exec (.tret g) s = .next (Claim.with' s (Claim.records s.me 0 0x03 0 true))) ∧
    (s.me.crgn.length < 4 → ∃ t, exec (.crgnOpen g id o) s = .next (Claim.gives s [⟨0, 0, .crgnOpen id.toNat t s.me.half⟩]) ∧
      t < 2 ^ 14 ∧ (t : Int) % 2 ^ 14 = (s.me.pc + 2 * o.toInt) % 2 ^ 14) ∧
    (4 ≤ s.me.crgn.length → s.me.flt = none →
      exec (.crgnOpen g id o) s = .next (Claim.with' s (Claim.records s.me 0 0x12 0 false))) ∧
    (∀ r l, s.me.crgn = r :: l → s.me.stall = none → l.length + 1 ∉ s.engineWork s.cur →
      ∃ t, exec (.crgnClose g) s = .next (Claim.with' s { s.me with stall := none, crgn := t }) ∧
        t.map (·.id) = l.map (·.id) ∧ t.map (·.handler) = l.map (·.handler)) ∧
    (∀ r l, s.me.crgn = r :: l → s.me.stall = none → l.length + 1 ∈ s.engineWork s.cur →
      exec (.crgnClose g) s = .next (Claim.with' s { s.me with stall := some .close })) ∧
    (s.me.crgn = [] → s.me.flt = none → exec (.crgnClose g) s = .next (Claim.with' s (Claim.records s.me 0 0x12 0 false)))

/-- R372, R77, R291: a `NOP` of the S slot has no effect; a `NOP` of an engine slot disarms its slot whatever its guard, and
does nothing else. -/
def Sys2Proof.Claim.NopsOnlyDisarm : Prop :=
  ∀ (s : State) (g : BitVec 5) (e : ESlot) (k : Nat),
    let n := match e with | .v0 => 1 | .v1 => 2 | .m => 3 | .c0 => 4 | .c1 => 5
    exec (.nopS g) s = .next s ∧
    ∃ a, exec (.nopEngineSlot e g) s = .next (Claim.with' s { s.me with armed := a }) ∧
      Sparse.get none a k = if k = n then none else Sparse.get none s.me.armed k

/-! ### The vector slots -/

namespace Sys2Proof.Claim

open Sys2Proof Sys2Proof.Machine

/-- Element `i` of width `w` of a value (R4). -/
def el (w v i : Nat) : Nat := v / 2 ^ (w * i) % 2 ^ w

/-- Whether lane `i` is active under the lane mask of a V word: mask bit i, or i − 64 from 64 on (R398). -/
def active (s : State) (h : VHead) (i : Nat) : Bool := (s.me.wreg h.m.toNat).testBit (i % 64)

/-- The next state is that of one vector result: register `d` of the slot's own file, on c + `lat`, new bits `v` where `m`
is 1. -/
def lands (s : State) (h : VHead) (lat : Nat) (d : BitVec 6) (v m : Vec) (i : Instr) : Prop :=
  exec i s = .next (gives s [⟨vslot h, lat, .vec h.slot (s.me.phV h.slot d.toNat) v m⟩])

/-- A lane-wise result (R398): lane `i` of `n` of width `w` becomes `f i` in the active lanes and keeps its contents in the
others. -/
def lanes (s : State) (h : VHead) (lat w n : Nat) (d : BitVec 6) (f : Nat → Nat) (i : Instr) : Prop :=
  ∃ v m : Vec, lands s h lat d v m i ∧
    ∀ k < n, el w v.toNat k = f k % 2 ^ w ∧ ∀ b < w, m.getLsbD (w * k + b) = active s h k

/-- A result that is written into bytes `p` to `p + n − 1` of a register and leaves its others alone. -/
def part (s : State) (h : VHead) (lat : Nat) (d : BitVec 6) (p n x : Nat) (i : Instr) : Prop :=
  ∃ v m : Vec, lands s h lat d v m i ∧ el (8 * n) (v.toNat / 2 ^ (8 * p)) 0 = x % 2 ^ (8 * n) ∧
    ∀ b < 512, m.getLsbD b = decide (8 * p ≤ b ∧ b < 8 * (p + n))

/-- A result that fills a whole register: 32-bit lane `i` becomes `f i`. -/
def whole (s : State) (h : VHead) (lat : Nat) (d : BitVec 6) (f : Nat → Nat) (i : Instr) : Prop :=
  ∃ v : Vec, lands s h lat d v (BitVec.allOnes 512) i ∧ ∀ k < 16, el 32 v.toNat k = f k % 2 ^ 32

/-- A mask result of `n` lanes (R399): bit `i` becomes `t i` in the active lanes and keeps its value in the others; the bits
from `n` on become 0. -/
def maskRes (s : State) (h : VHead) (w n : Nat) (t : Nat → Bool) (r : Res) : Prop :=
  ∃ v m : W64, r = ⟨vslot h, 2, .msk w v m⟩ ∧
    (∀ k < n, m.getLsbD k = active s h k ∧ v.getLsbD k = t k) ∧ ∀ k, n ≤ k → k < 64 → m.getLsbD k = true ∧ v.getLsbD k = false

/-- Lane bits of a TYPE (R397). -/
def width (ty : BitVec 4) : Nat :=
  if ty = 0 ∨ ty = 8 then 32 else if ty = 1 ∨ ty = 2 ∨ ty = 7 then 16 else if ty = 6 then 4 else 8

/-- An integer element: unsigned with `.U`, else in two's complement. -/
def eint (u : Bool) (w x : Nat) : Int := if u then x else (BitVec.ofNat w x).toInt

/-- The integer of a `w`-bit result: clamped with `.S`, and modulo 2^w (R89). -/
def ival (st u : Bool) (w : Nat) (v : Int) : Nat :=
  ((if st then (if u then max 0 (min v (2 ^ w - 1)) else max (-2 ^ (w - 1)) (min v (2 ^ (w - 1) - 1))) else v) % 2 ^ w).toNat

end Sys2Proof.Claim

/-- R398, R400, R92: the floating-point lane operations take each element exactly and narrow each exact result once to TYPE,
FP32, FP16 or BF16, in the active lanes; `VABS` clears the sign bit and `VNEG` inverts it, NaN giving the canonical NaN. The
results land on c + 2, of `VFMA` on c + 4. -/
def Obligations.FloatLanesRoundOnce : Prop :=
  ∀ (s : State) (h : VHead) (o : VR), s.me.guard h.g = true → o.ty = 0 ∨ o.ty = 1 ∨ o.ty = 2 →
    let w := Claim.width o.ty
    let f := Fmt.ofTy o.ty.toNat
    let rz := o.mod.getLsbD 0
    let e (r : BitVec 6) (k : Nat) : Nat := Claim.el w (s.me.vreg h.slot r) k
    let x (r : BitVec 6) (k : Nat) : Fp := f.decode (e r k)
    let lanes (lat : Nat) := Claim.lanes s h lat w (512 / w) o.d
    (Claim.clean s h [o.a, o.b] →
      lanes 2 (fun k => f.narrow rz false ((x o.a k).add (x o.b k))) (.vadd h o) ∧
      lanes 2 (fun k => f.narrow rz false ((x o.a k).sub (x o.b k))) (.vsub h o) ∧
      lanes 2 (fun k => f.narrow rz false ((x o.a k).mul (x o.b k))) (.vmul h o) ∧
      lanes 2 (fun k => f.narrow false false ((x o.a k).min (x o.b k))) (.vmin h o) ∧
      lanes 2 (fun k => f.narrow false false ((x o.a k).max (x o.b k))) (.vmax h o)) ∧
    (Claim.clean s h [o.a, o.b, o.c] →
      lanes 4 (fun k => f.narrow rz false (((x o.a k).mul (x o.b k)).add (x o.c k))) (.vfma h o)) ∧
    (Claim.clean s h [o.a] →
      lanes 2 (fun k => if (x o.a k).isNan then f.nanBits else e o.a k % 2 ^ (w - 1)) (.vabs h o) ∧
      lanes 2 (fun k => if (x o.a k).isNan then f.nanBits else (e o.a k + 2 ^ (w - 1)) % 2 ^ w) (.vneg h o))

/-- R401, R105 to R108: the four FP32 functions are lane-wise and land on c + 8. -/
def Sys2Proof.Claim.FunctionLanesTakeTheirTables : Prop :=
  ∀ (s : State) (h : VHead) (o : VR), s.me.guard h.g = true → Claim.clean s h [o.a] → o.ty = 0 →
    let x (k : Nat) : Nat := Claim.el 32 (s.me.vreg h.slot o.a) k
    Claim.lanes s h 8 32 16 o.d (fun k => Machine.vrcp (x k)) (.vrcp h o) ∧
    Claim.lanes s h 8 32 16 o.d (fun k => Machine.vrsq (x k)) (.vrsq h o) ∧
    Claim.lanes s h 8 32 16 o.d (fun k => Machine.vexp2 (x k)) (.vexp2 h o) ∧
    Claim.lanes s h 8 32 16 o.d (fun k => Machine.vlog2 (x k)) (.vlog2 h o)

/-- FP32 2^n, for n from −149 to 127: a subnormal below −126. -/
def Sys2Proof.Claim.two (n : Int) : Nat := if -126 ≤ n then (n + 127).toNat * 2 ^ 23 else 2 ^ (n + 149).toNat

/-- R105 to R108: the tabled functions at the arguments for which the rules give their values: NaN, the infinities, the zeros and
negative arguments, integers of `VEXP2` and its limits 128 and −150, powers of two of `VLOG2` and `VRCP`, and powers of four of
`VRSQ`. -/
def Sys2Proof.Claim.FunctionsAtTheirSpecialArguments : Prop :=
  ∀ (b : Nat) (n : Int), b < 2 ^ 32 →
    let nan := 0x7FC00000
    let inf := 0x7F800000
    let minus := 0x80000000
    (0x7F800000 < b % 2 ^ 31 → vexp2 b = nan ∧ vlog2 b = nan ∧ vrcp b = nan ∧ vrsq b = nan) ∧
    (0x43000000 ≤ b → b ≤ 0x7F800000 → vexp2 b = inf) ∧ (0xC3160000 < b → b ≤ 0xFF800000 → vexp2 b = 0) ∧
    (-149 ≤ n → n ≤ 127 → vexp2 (r32 (Fp.int n)) = Claim.two n) ∧ vexp2 minus = 0x3F800000 ∧
    (0x80000000 < b → b ≤ 0xFF800000 → vlog2 b = nan ∧ vrsq b = nan) ∧
    vlog2 0 = inf + minus ∧ vlog2 minus = inf + minus ∧ vlog2 inf = inf ∧
    (-149 ≤ n → n ≤ 127 → vlog2 (Claim.two n) = r32 (Fp.int n)) ∧
    vrcp 0 = inf ∧ vrcp minus = inf + minus ∧ vrcp inf = 0 ∧ vrcp (inf + minus) = minus ∧
    (-127 ≤ n → n ≤ 127 → vrcp (Claim.two n) = Claim.two (-n) ∧ vrcp (Claim.two n + minus) = Claim.two (-n) + minus) ∧
    (-149 ≤ n → n < -127 → vrcp (Claim.two n) = inf ∧ vrcp (Claim.two n + minus) = inf + minus) ∧
    vrsq minus = inf + minus ∧ vrsq 0 = inf ∧ vrsq inf = 0 ∧
    (-74 ≤ n → n ≤ 63 → vrsq (Claim.two (2 * n)) = Claim.two (-n))

/-- R402, R89, R91: `VCVT` converts 512 / max(ws, wd) elements; the wider register is whole, and of the narrower one the
part that MOD[3:2] names takes part. Integer conversions take the exact integer, clamped with `.S`; they and the other pairs
land on c + 3, under the mask bit of the element. -/
def Sys2Proof.Claim.ConversionFillsItsPart : Prop :=
  ∀ (s : State) (h : VHead) (o : VR), s.me.guard h.g = true → Claim.clean s h [o.a] →
    (Instr.vcvt h o).wf = true →
    let ws := Claim.width o.ty
    let wd := Claim.width (o.c.setWidth 4)
    let n := 512 / max ws wd
    let p := n * (o.mod.toNat / 4)
    let x (k : Nat) : Nat := Claim.el ws (s.me.vreg h.slot o.a) (if wd ≤ ws then k else p + k)
    let fl (ty : BitVec 4) : Prop := ty.toNat < 5
    ∃ v m : Vec, Claim.lands s h 3 o.d v m (.vcvt h o) ∧
      (∀ k < 512 / wd, ∀ b < wd, m.getLsbD (wd * k + b) =
        (if wd ≤ ws then decide (p ≤ k ∧ k < p + n) && Claim.active s h (k - p) else decide (k < n) && Claim.active s h k)) ∧
      ∀ k < n,
        let y := Claim.el wd v.toNat (if wd ≤ ws then p + k else k)
        (¬ fl o.ty → ¬ fl (o.c.setWidth 4) →
          y = Claim.ival (o.mod.getLsbD 0) (o.mod.getLsbD 1) wd (Claim.eint (o.mod.getLsbD 1) ws (x k))) ∧
        (fl o.ty → fl (o.c.setWidth 4) → y = (Fmt.ofTy (o.c.toNat % 16)).narrow (o.mod.getLsbD 0) (o.mod.getLsbD 1)
          ((Fmt.ofTy o.ty.toNat).decode (x k)) % 2 ^ wd) ∧
        (¬ fl o.ty → fl (o.c.setWidth 4) → y = (Fmt.ofTy (o.c.toNat % 16)).narrow (o.mod.getLsbD 0) false
          (Fp.int (Claim.eint (o.mod.getLsbD 1) ws (x k))) % 2 ^ wd) ∧
        (fl o.ty → ¬ fl (o.c.setWidth 4) →
          y = ((Fmt.ofTy o.ty.toNat).decode (x k)).toInt wd (o.mod.getLsbD 0) (o.mod.getLsbD 1) % 2 ^ wd)

/-- R403, R404, R89: the integer and bitwise lane operations, which land on c + 2: exact results clamped with `.S` and else
modulo 2^w, truth tables bit by bit, shifts by the low bits of the second lane, counts of ones, the ramp and the constant:
`VMOVI` wraps the immediate to an integer TYPE, rounds the integer to a floating TYPE, and with `.RAW` gives its low bits. -/
def Sys2Proof.Claim.IntegerLanes : Prop :=
  ∀ (s : State) (h : VHead) (o : VR) (q : VI), s.me.guard h.g = true → o.ty = 5 ∨ o.ty = 7 ∨ o.ty = 8 → q.ty = o.ty →
    let w := Claim.width o.ty
    let u := o.mod.getLsbD 1
    let e (r : BitVec 6) (k : Nat) : Nat := Claim.el w (s.me.vreg h.slot r) k
    let x (k : Nat) : Int := Claim.eint u w (e o.a k)
    let y (k : Nat) : Int := Claim.eint u w (e o.b k)
    let lanes := Claim.lanes s h 2 w (512 / w) o.d
    let imm : Int := match q.imm with
      | .short v => (BitVec.ofInt 12 (v.toInt + h.st.a)).toInt
      | .ext v => (BitVec.ofInt 32 (v.toInt + h.st.a)).toInt
    (Claim.clean s h [o.a, o.b] →
      lanes (fun k => Claim.ival (o.mod.getLsbD 0) u w (x k + y k)) (.viadd h o) ∧
      lanes (fun k => Claim.ival (o.mod.getLsbD 0) u w (x k - y k)) (.visub h o) ∧
      lanes (fun k => Claim.ival (o.mod.getLsbD 0) u w (x k * y k)) (.vimul h o) ∧
      (∃ f : Nat → Nat, lanes f (.vlogic h o) ∧ ∀ k < 512 / w, ∀ b < w, (f k).testBit b =
        o.mod.getLsbD (2 * ((e o.a k).testBit b).toNat + ((e o.b k).testBit b).toNat)) ∧
      lanes (fun k => e o.a k * 2 ^ (e o.b k % w)) (.vshl h o) ∧
      lanes (fun k => (x k / 2 ^ (e o.b k % w) % 2 ^ w).toNat) (.vshr h o)) ∧
    (Claim.clean s h [o.a] → lanes (fun k => Claim.ones w (e o.a k)) (.vpopc h o)) ∧
    Claim.lanes s h 2 w (512 / w) q.d (fun k => ((imm + k) % 2 ^ w).toNat) (.viota h q) ∧
    Claim.lanes s h 2 w (512 / w) q.d (fun _ => (imm % 2 ^ w).toNat) (.vmovi h q) ∧
    ∀ ty : BitVec 4, ty = 0 ∨ ty = 1 ∨ ty = 2 →
      let v := Claim.width ty
      (q.mod.getLsbD 0 = false → Claim.lanes s h 2 v (512 / v) q.d
        (fun _ => (Fmt.ofTy ty.toNat).narrow false false (Fp.int imm)) (.vmovi h { q with ty := ty })) ∧
      (q.mod.getLsbD 0 = true → Claim.lanes s h 2 v (512 / v) q.d (fun _ => (imm % 2 ^ v).toNat) (.vmovi h { q with ty := ty }))

/-- R405 to R408, R399: the compares write a mask and its complement, `VBITS` takes bits of a 64-bit lane, `WLOG` combines
masks by its truth table, `WCNT` counts or finds the lowest set bit, and `VSELM` selects lanes by a mask; all land on
c + 2. -/
def Sys2Proof.Claim.MasksAndSelects : Prop :=
  ∀ (s : State) (h : VHead) (o : VR), s.me.guard h.g = true →
    let w := Claim.width o.ty
    let n := 512 / w
    let e (r : BitVec 6) (k : Nat) : Nat := Claim.el w (s.me.vreg h.slot r) k
    let f := Fmt.ofTy o.ty.toNat
    let cc := o.mod.toNat % 8
    let wa := s.me.wreg (o.a.toNat % 8)
    let wb := s.me.wreg (o.b.toNat % 8)
    let pair (t : Nat → Bool) (i : Instr) : Prop := ∃ r r', exec i s = .next (Claim.gives s [r, r']) ∧
      Claim.maskRes s h (o.d.toNat % 8) n t r ∧ Claim.maskRes s h (o.d.toNat / 8) n (fun k => !t k) r'
    (Claim.clean s h [o.a, o.b] → o.ty = 5 ∨ o.ty = 7 ∨ o.ty = 8 → cc ≤ 5 →
      pair (fun k =>
        let x := Claim.eint (o.mod.getLsbD 3) w (e o.a k)
        let y := Claim.eint (o.mod.getLsbD 3) w (e o.b k)
        decide ((cc = 0 ∧ x = y) ∨ (cc = 1 ∧ x ≠ y) ∨ (cc = 2 ∧ x < y) ∨ (cc = 3 ∧ x ≤ y) ∨ (cc = 4 ∧ x > y) ∨ (cc = 5 ∧ x ≥ y)))
        (.vicmp h o)) ∧
    (Claim.clean s h [o.a, o.b] → o.ty = 0 ∨ o.ty = 1 ∨ o.ty = 2 → cc ≤ 6 →
      pair (fun k =>
        let x := f.decode (e o.a k)
        let y := f.decode (e o.b k)
        let nan := x.isNan || y.isNan
        if cc = 0 then x.eq y else if cc = 1 then !x.eq y else if cc = 2 then x.lt y else if cc = 3 then x.lt y || x.eq y
        else if cc = 4 then y.lt x else if cc = 5 then y.lt x || x.eq y else nan) (.vcmp h o)) ∧
    (Claim.clean s h [o.a] → o.ty ≠ 6 → o.ty.toNat ≤ 8 →
      ∃ r, exec (.vbits h o) s = .next (Claim.gives s [r]) ∧
        Claim.maskRes s h (o.d.toNat % 8) n
          (fun k => (Claim.el 64 (s.me.vreg h.slot o.a) (o.c.toNat % 8)).testBit ((o.b.toNat + k) % 64)) r) ∧
    (∃ v : W64, exec (.wlog h o) s = .next (Claim.gives s [⟨Claim.vslot h, 2, .msk (o.d.toNat % 8) v (BitVec.allOnes 64)⟩]) ∧
      ∀ k < 64, v.getLsbD k = o.mod.getLsbD (2 * (wa.testBit k).toNat + (wb.testBit k).toNat)) ∧
    (o.mod.getLsbD 0 = false → Claim.whole s h 2 o.d
      (fun k => if k = 0 then ((List.range 64).filter (fun j => wa.testBit j && Claim.active s h j)).length else 0) (.wcnt h o)) ∧
    (o.mod.getLsbD 0 = true → ∃ j, Claim.whole s h 2 o.d (fun k => if k = 0 then j else 0) (.wcnt h o) ∧ j ≤ 64 ∧
      (∀ k < j, (wa.testBit k && Claim.active s h k) = false) ∧ (j < 64 → (wa.testBit j && Claim.active s h j) = true)) ∧
    (Claim.clean s h [o.a, o.b] → o.ty ≠ 6 → o.ty.toNat ≤ 8 →
      Claim.lanes s h 2 w n o.d
        (fun k => if (s.me.wreg (o.c.toNat % 8)).testBit k then e o.a k else e o.b k) (.vselm h o))

namespace Sys2Proof.Claim

open Sys2Proof Sys2Proof.Machine

/-- The pairwise sum of 2^k FP32 values in ascending order (R100). -/
def pairwise : Nat → (Nat → Nat) → Nat
  | 0, f => f 0
  | k + 1, f => pairwise k (fun i => add32 (f (2 * i)) (f (2 * i + 1)))

/-- The order of R88: numbers by value, and −0 below +0. -/
def below (a b : Fp) : Bool :=
  a.lt b || (match a, b with
    | .fin true 0 _, .fin false 0 _ => true
    | _, _ => false)

end Sys2Proof.Claim

/-- R100, R409, R88: `VRSUM` adds the active lanes pairwise as FP32, a masked-off lane entering as −0, or gives the exact sum
of the integers, narrowed; `VRMAX` gives the maximum of the lanes, floating ones with −0 below +0, and the lowest active lane
that holds it, the canonical NaN and the lowest NaN lane when one is active, or the smallest value and −1 when no lane is
active. The rest of the register becomes 0, on c + 5. -/
def Sys2Proof.Claim.ReductionsOverActiveLanes : Prop :=
  ∀ (s : State) (h : VHead) (o : VR), s.me.guard h.g = true → Claim.clean s h [o.a] →
    let w := Claim.width o.ty
    let n := 512 / w
    let u := o.mod.getLsbD 1
    let x (k : Nat) : Int := Claim.eint u w (Claim.el w (s.me.vreg h.slot o.a) k)
    let z (k : Nat) : Fp := (Fmt.ofTy o.ty.toNat).decode (Claim.el w (s.me.vreg h.slot o.a) k)
    let act := (List.range n).filter (Claim.active s h)
    let res (a b : Nat) (i : Instr) : Prop :=
      Claim.whole s h 5 o.d (fun k => if k = 0 then a else if k = 1 then b else 0) i
    (o.ty = 0 ∨ o.ty = 1 ∨ o.ty = 2 →
      res (Claim.pairwise (if o.ty = 0 then 4 else 5) (fun k =>
        if Claim.active s h k then r32 (z k) else 0x80000000)) 0
        (.vrsum h o) ∧
      (act = [] → res 0xFF800000 0xFFFFFFFF (.vrmax h o)) ∧
      (∀ j ∈ act, (z j).isNan = true → (∀ k ∈ act, k < j → (z k).isNan = false) → res 0x7FC00000 j (.vrmax h o)) ∧
      (act ≠ [] → (∀ k ∈ act, (z k).isNan = false) → ∃ j ∈ act, res (r32 (z j)) j (.vrmax h o) ∧
        (∀ k ∈ act, Claim.below (z j) (z k) = false) ∧ ∀ k ∈ act, k < j → Claim.below (z k) (z j) = true)) ∧
    (o.ty = 5 ∨ o.ty = 7 ∨ o.ty = 8 →
      res (Claim.ival (o.mod.getLsbD 0) u 32 ((act.map x).sum)) 0 (.vrsum h o) ∧
      (act = [] → res (if u then 0 else ((-2 ^ (w - 1) : Int) % 2 ^ 32).toNat) 0xFFFFFFFF (.vrmax h o)) ∧
      (act ≠ [] → ∃ j ∈ act, res ((x j % 2 ^ 32).toNat) j (.vrmax h o) ∧
        (∀ k ∈ act, x k ≤ x j) ∧ ∀ k ∈ act, k < j → x k < x j))

/-- R410, R411: `VPERM` takes each lane from the 2n lanes of two registers by the index in a third, `VBCST` takes one lane
everywhere, and `VRMG` takes 64 bytes that start r bytes into two registers joined; all land on c + 2. -/
def Sys2Proof.Claim.LaneMoves : Prop :=
  ∀ (s : State) (h : VHead) (o : VR), s.me.guard h.g = true → o.ty ≠ 6 → o.ty.toNat ≤ 8 →
    let w := Claim.width o.ty
    let n := 512 / w
    let reg (r : BitVec 6) : Nat := s.me.vreg h.slot r
    (Claim.clean s h [o.a, o.b, o.c] →
      Claim.lanes s h 2 w n o.d (fun k =>
        let i := Claim.el w (reg o.b) k % (2 * n)
        if i < n then Claim.el w (reg o.a) i else Claim.el w (reg o.c) (i - n)) (.vperm h o)) ∧
    (Claim.clean s h [o.a] → Claim.lanes s h 2 w n o.d (fun _ => Claim.el w (reg o.a) o.c.toNat) (.vbcst h o)) ∧
    (Claim.clean s h [o.a, o.b] → (o.mod.getLsbD 0 = true → Claim.clean s h [o.c]) →
      let r := if o.mod.getLsbD 0 then reg o.c % 64 else o.c.toNat
      Claim.lanes s h 2 8 64 o.d (fun k =>
        if r + k < 64 then Claim.el 8 (reg o.a) (r + k) else Claim.el 8 (reg o.b) (r + k - 64)) (.vrmg h o))

/-- R412 to R415, R76: the address of a vector access is (ROW × 64 + ADD) modulo 2^18, plus its step on a sticky re-issue, and each performs on its cycle: `VLD` reads
its row on c + 1, and with `.NR` the residency bits of its active lanes too, `VST` writes the bytes of its active lanes on c + 2, `VGTH` reads the aligned element of each active lane
on c + 1, and `VSCT` writes that of active lane j on c + 3 + j. -/
def Sys2Proof.Claim.VectorAccessesFormTheirAddresses : Prop :=
  ∀ (s : State) (h : VHead) (o : VM), s.me.guard h.g = true →
    let reg (r : BitVec 6) : Nat := s.me.vreg h.slot r
    let at' : Nat := ((64 * o.row.toNat + (if o.ab then reg o.a else 0) + h.st.a : Int) % 2 ^ 18).toNat
    let w := 8 * 2 ^ (o.mod.toNat / 4)
    let e := 2 ^ (o.aux.toNat % 4)
    let dst := s.me.phV h.slot o.d.toNat
    let elem (k : Nat) : Nat := ((64 * o.row.toNat + e * Claim.el (8 * e) (reg o.a) k + h.st.a : Int) % 2 ^ 18).toNat / e * e
    let act := (List.range (64 / e)).filter (Claim.active s h)
    ((o.ab = true → Claim.clean s h [o.a]) → ∃ (m : Vec) (nr : Option (Nat × W64 × W64)),
      exec (.vld h o) s = .next (Claim.gives s [⟨Claim.vslot h, 1, .vld at' h.slot dst m nr⟩]) ∧
      (∀ k < 512 / w, ∀ b < w, m.getLsbD (w * k + b) = Claim.active s h k) ∧
      (o.mod.getLsbD 0 = false → nr = none) ∧
      (o.mod.getLsbD 0 = true → ∃ ones act : W64, nr = some (o.aux.toNat, ones, act) ∧
        (∀ k < 64, ones.getLsbD k = decide (k < 512 / w)) ∧
        ∀ k < 64, act.getLsbD k = (decide (512 / w ≤ k) || Claim.active s h k))) ∧
    (Claim.clean s h [o.d] → (o.ab = true → Claim.clean s h [o.a]) → ∃ m : BitVec 64,
      exec (.vst h o) s =
        .next (Claim.gives s [⟨Claim.vslot h, 2, .write (at' / 64) (BitVec.ofNat 512 (reg o.d)) m⟩]) ∧
      ∀ b < 64, m.getLsbD b = Claim.active s h (8 * b / w)) ∧
    (Claim.clean s h [o.a] →
      exec (.vgth h o) s = .next (Claim.gives s [⟨Claim.vslot h, 1, .vgth (act.map (fun k => (k, elem k))) e h.slot dst⟩])) ∧
    (Claim.clean s h [o.d, o.a] →
      exec (.vsct h o) s = .next (Claim.gives s (act.map (fun k => ⟨Claim.vslot h, 3 + k,
        .scatter (elem k) e (BitVec.ofNat 64 (Claim.el (8 * e) (reg o.d) k))
          (if o.mod.getLsbD 0 then 1 + o.mod.toNat / 2 % 4 else 0)⟩))))

/-- R416 to R418, R76, R102: `ARD` reads its bank on c + 1, and each active lane takes bits [31:0] of its element, or with `.S`
its saturated value, or with `.SC` that value times the scale of its column, 1.0 without scales; lanes beyond the bank read 0;
`AWR` writes elements (row, col + i), or (row + i, col) with `.COL`, on c + 2
from its active lanes, those beyond row 16 or column 128 writing nothing; `ZLD` takes 16 tree-scratch entries modulo 512 into
the lanes, on c + 3, and `ZST` writes them from the lanes, on c + 2. -/
def Sys2Proof.Claim.BankAndTreeMoves : Prop :=
  ∀ (s : State) (h : VHead) (o : VA) (d : BitVec 6) (z : BitVec 9) (r0 c0 : Nat), s.me.guard h.g = true →
    (o.arow.toNat : Int) + h.st.a = r0 → (o.acol.toNat : Int) + h.st.b = c0 →
    let z0 := ((z.toNat + h.st.a : Int) % 512).toNat
    let lane (r : BitVec 6) (k : Nat) : Nat := Claim.el 32 (s.me.vreg h.slot r) k
    let col := o.mod.getLsbD 2
    let row (k : Nat) : Nat := r0 + (if col then k else 0)
    let cl (k : Nat) : Nat := c0 + (if col then 0 else k)
    (∃ m, exec (.ard h o) s = .next (Claim.gives s [⟨Claim.vslot h, 1,
        .ard h.slot (s.me.phV h.slot o.d.toNat) o.bank.toNat r0 c0 col (o.mod.toNat % 4 + (if o.ty = 8 then 4 else 0)) m
          (Sparse.get 0 s.me.tt ((Sparse.get 0 s.me.cr 0x028).toNat % 64))⟩]) ∧
      (∀ k < 16, m.getLsbD k = Claim.active s h k)) ∧
    (∀ (t : State) (k : Nat) (p : Pend) (y : Bool) (d' bank md : Nat) (m ent : W64),
      p.eff = .ard y d' bank r0 c0 col md m ent → md < 8 → r0 ≤ 16 → c0 ≤ 128 →
      (∀ e ∈ t.errs, ¬ ((e.kind = 0 ∨ e.kind = 1) ∧ e.unit = k)) →
      let srow := ent.toNat / 2 ^ 51 % 2 ^ 12
      let scaled (j : Nat) : Prop := ttScv ent.toNat = true ∧ cl j ≠ 128
      let act (j : Nat) : Prop := m.getLsbD j = true ∧ row j ≤ 16 ∧ cl j ≤ 128
      let x (j : Nat) : BitVec 48 := (t.core k).accAt bank (row j) (cl j)
      let int (j : Nat) : Int :=
        if md.testBit 0 then max (-2 ^ 31) (min (x j).toInt (2 ^ 31 - 1)) else (BitVec.ofNat 32 (x j).toNat).toInt
      let times (j sc : Nat) : Nat :=
        if md.testBit 2 = false then (x j).toNat % 2 ^ 32
        else if md.testBit 1 then mul32 (r32 (Fp.int (int j))) sc else ((int j) % 2 ^ 32).toNat
      (md.testBit 1 = true → ttValid ent.toNat = true ∧ ∀ j < 16, act j → scaled j →
        srow + cl j / 16 < 4096 ∧ Sparse.get .core (t.core k).own ((srow + cl j / 16) / 64) = .core ∧
          (t.core k).mapped ((srow + cl j / 16) / 64) = false) →
      ∃ v w : Vec, t.readGo k p = t.onCore k (fun c => { c with
          pend := c.pend ++ [{ p with due := c.cyc + 2, eff := .vec y d' v w }] }) ∧
        (∀ j < 16, ∀ b < 32, w.getLsbD (32 * j + b) = m.getLsbD j) ∧
        ∀ j < 16, (act j → ∃ sc, Claim.el 32 v.toNat j = times j sc ∧ (¬ scaled j → sc = 0x3F800000) ∧
            (scaled j → sc = Claim.el 32 (rdRow t.mem k (srow + cl j / 16)).toNat (cl j % 16))) ∧
          (m.getLsbD j = true → ¬ (row j ≤ 16 ∧ cl j ≤ 128) → Claim.el 32 v.toNat j = 0)) ∧
    (Claim.clean s h [o.d] → ∃ l, exec (.awr h o) s = .next (Claim.gives s [⟨Claim.vslot h, 2, .accs o.bank.toNat l⟩]) ∧
      l = ((List.range 16).filter (fun k => row k ≤ 16 && cl k ≤ 128 && Claim.active s h k)).map (fun k =>
        (129 * row k + cl k, if o.ty = 8 then (BitVec.ofNat 32 (lane o.d k)).signExtend 48 else BitVec.ofNat 48 (lane o.d k)))) ∧
    (Claim.cleanZ s ((List.range 16).map (fun k => (z0 + k) % 512)) →
      Claim.whole s h 3 d (fun k => (Sparse.get 0 s.me.z ((z0 + k) % 512)).toNat) (.zld h d z)) ∧
    (Claim.clean s h [d] → exec (.zst h d z) s = .next (Claim.gives s [⟨Claim.vslot h, 2,
      .zs ((List.range 16).map (fun k => ((z0 + k) % 512, BitVec.ofNat 32 (lane d k))))⟩]))

/-- R419 to R423, R95: `VBMAX` writes the shared exponent of the active lanes into its slot's own bypass, on c + 3; `VQSX`
quantises under the other slot's bypass into bytes p × b to p × b + b − 1, on c + 4; `VDQSX` decodes that block into FP32
lanes; `VSIGP` sets bit i where active lane i is above 0, and `VMAJ` bit b where at least 8 active lanes have it, each into
the 16-bit lane q. -/
def Obligations.BlocksAndSignatures : Prop :=
  ∀ (s : State) (h : VHead) (o : VR), s.me.guard h.g = true → Claim.clean s h [o.a] →
    let a := s.me.vreg h.slot o.a
    let xs := (List.range 16).map (fun k => if Claim.active s h k then d32 (Claim.el 32 a k) else Fp.fin false 0 0)
    let mode := o.mod.toNat % 4
    let nb := if mode = 0 then 18 else if mode = 1 then 12 else 8
    let ex := (Sparse.get 0 s.me.cr (bif h.slot then 0x024 else 0x025)).toNat % 256
    let q := o.c.toNat % 32
    let votes (b : Nat) : Nat := ((List.range 16).filter (fun k => Claim.active s h k && (Claim.el 16 a k).testBit b)).length
    exec (.vbmax h o) s = .next (Claim.gives s [⟨Claim.vslot h, 3,
      .cr (bif h.slot then 0x025 else 0x024) (BitVec.ofNat 64 (sxExp xs))⟩]) ∧
    (mode ≤ 2 → o.c.toNat * nb + nb ≤ 64 →
      Claim.part s h 4 o.d (o.c.toNat * nb) nb (sxBlock (sxBits mode) ex xs) (.vqsx h o) ∧
      Claim.lanes s h 4 32 16 o.d (sxDecode (sxBits mode) (Claim.el (8 * nb) a o.c.toNat)) (.vdqsx h o)) ∧
    (∃ x, Claim.part s h 2 o.d (2 * q) 2 x (.vsigp h o) ∧ ∀ k < 16, x.testBit k =
      (Claim.active s h k && (Fp.fin false 0 0).lt (d32 (Claim.el 32 a k)))) ∧
    (∃ x, Claim.part s h 4 o.d (2 * q) 2 x (.vmaj h o) ∧ ∀ b < 16, x.testBit b = decide (8 ≤ votes b))

namespace Sys2Proof.Claim

open Sys2Proof Sys2Proof.Machine

/-- pow(d) of R210 as FP32 bits: 2^d from −149 up, else +0. -/
def pow (d : Int) : Nat := if -149 ≤ d then r32 (.fin false 1 d) else 0

/-- The integer of a 32-bit lane. -/
def int32 (x : Nat) : Int := (BitVec.ofNat 32 x).toInt

/-- The state that `VOSM` writes (R209, R210), lane by lane of the register: 0 to 7 the weights in pairs, 8 RHO, 9 L, 10 FAC,
11 FLAGS. `act` says which tokens are active, `x` holds the scores, `d` the lanes of the old state. -/
def softened (act : Nat → Bool) (x d f : Nat → Nat) : Prop :=
  let fresh := (d 11).testBit 0
  let m : Fp := ((List.range 16).filter act).foldr (fun j v => (d32 (x j)).max v) (.inf true)
  let bad := (d 11).testBit 1 = true ∨ m.isNan = true ∨ m.lt (.fin false 1 31) = false ∨
    (fresh = true ∧ m ≠ .inf true ∧ m.lt (.fin true 1 31) = true)
  let old := int32 (d 8)
  let up := (Fp.int (old + 8)).lt m
  let rho : Int := if fresh || up then m.ceil else old
  let fac := if fresh then 0x3F800000 else if up then pow (old - rho) else 0x3F800000
  let weight (j : Nat) : Nat :=
    if act j then bf16.narrow false false (d32 (Machine.vexp2 (r32 ((d32 (x j)).sub (Fp.int rho))))) else 0
  (∀ k, 12 ≤ k → k < 16 → f k = 0) ∧
  (bad → f 8 = d 8 ∧ f 9 = 0x7FC00000 ∧ f 10 = 0x7FC00000 ∧ f 11 = fresh.toNat + 2 ∧ ∀ k < 8, f k = 0x7FC07FC0) ∧
  (¬ bad → m = .inf true → f 8 = d 8 ∧ f 9 = d 9 ∧ f 10 = 0x3F800000 ∧ f 11 = fresh.toNat ∧ ∀ k < 8, f k = 0) ∧
  (¬ bad → m ≠ .inf true → f 8 = (rho % 2 ^ 32).toNat ∧ f 10 = fac ∧ f 11 = 0 ∧
    f 9 = add32 (mul32 (if fresh then 0 else d 9) fac) (pairwise 4 (fun j => r32 (bf16.decode (weight j)))) ∧
    ∀ j < 16, el 16 (f (j / 2)) (j % 2) = weight j)

/-- The state that `VOSF.ST` writes (R211, R425): merge(A, B), with fa in FAC and fb in P[31:0]. -/
def merged (a b f : Nat → Nat) : Prop :=
  let flag (x : Nat → Nat) (i : Nat) : Bool := (x 11).testBit i
  let keeps (x : Nat → Nat) : Prop := f 8 = x 8 ∧ f 9 = x 9 ∧ f 11 = (flag x 0).toNat
  let rho := max (int32 (a 8)) (int32 (b 8))
  let fa := pow (int32 (a 8) - rho)
  let fb := pow (int32 (b 8) - rho)
  let bad := flag a 1 = true ∨ flag b 1 = true
  (∀ k, 12 ≤ k → k < 16 → f k = 0) ∧ (bad → f 8 = 0 ∧ f 9 = 0x7FC00000 ∧ f 10 = 0x7FC00000 ∧ f 11 = 2 ∧ f 0 = 0x7FC00000) ∧
  (¬ bad → flag b 0 = true → keeps a ∧ f 10 = 0x3F800000 ∧ f 0 = 0) ∧
  (¬ bad → flag b 0 = false → flag a 0 = true → keeps b ∧ f 10 = 0 ∧ f 0 = 0x3F800000) ∧
  (¬ bad → flag b 0 = false → flag a 0 = false → f 8 = (rho % 2 ^ 32).toNat ∧ f 11 = 0 ∧ f 10 = fa ∧ f 0 = fb ∧
    f 9 = add32 (mul32 (a 9) fa) (mul32 (b 9) fb)) ∧
  ∀ k, 1 ≤ k → k < 8 → f k = 0

end Sys2Proof.Claim

/-- R209 to R211, R424, R425: `VOSM` writes the whole new soft-maximum state on c + 10 (`Claim.softened`); `VOSF.ST` merges two
states (`Claim.merged`), `.O` joins two outputs lane by lane with the factors of the merged state, and `.FIN` divides by L;
they land on c + 8. -/
def Sys2Proof.Claim.SoftMaximumSteps : Prop :=
  ∀ (s : State) (h : VHead) (o : VR), s.me.guard h.g = true →
    let reg (r : BitVec 6) : Nat := s.me.vreg h.slot r
    let x (r : BitVec 6) (k : Nat) : Nat := Claim.el 32 (reg r) k
    let nan := 0x7FC00000
    let poison (r : BitVec 6) : Bool := (x r 11).testBit 1
    (Claim.clean s h [o.d, o.a] → ∃ f, Claim.whole s h 10 o.d f (.vosm h o) ∧
      Claim.softened (Claim.active s h) (x o.a) (x o.d) f) ∧
    (o.mod = 0 → Claim.clean s h [o.a, o.b] → ∃ f, Claim.whole s h 8 o.d f (.vosf h o) ∧ Claim.merged (x o.a) (x o.b) f) ∧
    (o.mod = 1 → Claim.clean s h [o.a, o.b, o.c] → Claim.lanes s h 8 32 16 o.d (fun k =>
      if poison o.c then nan else add32 (mul32 (x o.a k) (x o.c 10)) (mul32 (x o.b k) (x o.c 0))) (.vosf h o)) ∧
    (o.mod = 2 → Claim.clean s h [o.a, o.c] → Claim.lanes s h 8 32 16 o.d (fun k =>
      if poison o.c then nan else if x o.c 9 = 0 then 0 else r32 ((d32 (x o.a k)).div (d32 (x o.c 9)))) (.vosf h o))

/-- R213, R426, R110, R427: `VROPE` rotates each pair of lanes by the angle of position times frequency, both values from the
unrotated lanes; `VRNG` gives lane i the generator's output for element index + i under its key; both land on c + 6. -/
def Sys2Proof.Claim.RotationsAndRandomNumbers : Prop :=
  ∀ (s : State) (h : VHead) (o : VR), s.me.guard h.g = true →
    let reg (r : BitVec 6) : Nat := s.me.vreg h.slot r
    let x (r : BitVec 6) (k : Nat) : Nat := Claim.el 32 (reg r) k
    (Claim.clean s h [o.a, o.b, o.c] → Claim.lanes s h 6 32 16 o.d (fun k =>
      let p := k / 2
      let ph := x o.b 0 * x o.c (if o.mod.getLsbD 0 then 8 + p else p) % 2 ^ 32
      let a := d32 (x o.a (2 * p))
      let b := d32 (x o.a (2 * p + 1))
      if k % 2 = 0 then r32 ((a.mul (d32 (cosPhase ph))).sub (b.mul (d32 (sinPhase ph))))
      else r32 ((a.mul (d32 (sinPhase ph))).add (b.mul (d32 (cosPhase ph))))) (.vrope h o)) ∧
    (Claim.clean s h [o.a, o.b] → o.ty = 8 → Claim.lanes s h 6 32 16 o.d (fun k =>
      kmix (x o.b 0) (x o.b 1) ((Claim.el 64 (reg o.a) 0 + k) % 2 ^ 64)) (.vrng h o)) ∧
    (Claim.clean s h [o.a, o.b] → o.ty = 0 → Claim.lanes s h 6 32 16 o.d (fun k =>
      r32 (.fin false (kmix (x o.b 0) (x o.b 1) ((Claim.el 64 (reg o.a) 0 + k) % 2 ^ 64) / 2 ^ 8) (-24))) (.vrng h o))

/-! ### The guard -/

namespace Sys2Proof.Claim

open Sys2Proof Sys2Proof.Machine

/-- The guard that a slot word carries (R66); the two forms of `NOP` apart, which have no effect for it to hold back. -/
def guardOf (i : Instr) : Option (BitVec 5) :=
  match i with
  | .addReg g _ _ _ _ _ => some g
  | .addImm g _ _ _ => some g
  | .subReg g _ _ _ _ _ => some g
  | .subImm g _ _ _ => some g
  | .mulReg g _ _ _ _ _ => some g
  | .mulImm g _ _ _ => some g
  | .mulhReg g _ _ _ _ => some g
  | .mulhImm g _ _ _ => some g
  | .divReg g _ _ _ _ => some g
  | .divImm g _ _ _ => some g
  | .remReg g _ _ _ _ => some g
  | .remImm g _ _ _ => some g
  | .andReg g _ _ _ => some g
  | .andImm g _ _ _ => some g
  | .orReg g _ _ _ => some g
  | .orImm g _ _ _ => some g
  | .xorReg g _ _ _ => some g
  | .xorImm g _ _ _ => some g
  | .shlReg g _ _ _ => some g
  | .shlImm g _ _ _ => some g
  | .shrReg g _ _ _ => some g
  | .shrImm g _ _ _ => some g
  | .sraReg g _ _ _ => some g
  | .sraImm g _ _ _ => some g
  | .rotlReg g _ _ _ => some g
  | .rotlImm g _ _ _ => some g
  | .clzReg g _ _ => some g
  | .clzImm g _ _ => some g
  | .popcReg g _ _ => some g
  | .popcImm g _ _ => some g
  | .minReg g _ _ _ _ => some g
  | .minImm g _ _ _ => some g
  | .maxReg g _ _ _ _ => some g
  | .maxImm g _ _ _ => some g
  | .sel g _ _ _ _ => some g
  | .li g _ _ => some g
  | .lih g _ _ => some g
  | .cmp g _ _ _ _ _ => some g
  | .cmpi g _ _ _ _ _ => some g
  | .plog g _ _ _ _ => some g
  | .lds g _ _ _ _ _ => some g
  | .sts g _ _ _ _ => some g
  | .xcpS g _ _ _ => some g
  | .crd g _ _ => some g
  | .cwr g _ _ => some g
  | .cyc g _ _ => some g
  | .cmptS g _ _ => some g
  | .br g _ => some g
  | .jmp g _ => some g
  | .loop g _ _ _ => some g
  | .bloop g _ => some g
  | .bsw g _ => some g
  | .ifence g => some g
  | .waitOwn g _ => some g
  | .waitWp g _ _ => some g
  | .waitBar g _ => some g
  | .waitVal g _ _ _ _ _ _ => some g
  | .waitCyc g _ => some g
  | .bar g _ => some g
  | .tnext g _ _ _ => some g
  | .enq g _ _ _ _ => some g
  | .exit g => some g
  | .dbrk g => some g
  | .trap g _ => some g
  | .tret g => some g
  | .crgnOpen g _ _ => some g
  | .crgnClose g => some g
  | .xcpV h _ _ _ _ => some h.g
  | .cmptV h _ => some h.g
  | .vld h _ => some h.g
  | .vst h _ => some h.g
  | .vgth h _ => some h.g
  | .vsct h _ => some h.g
  | .vrmg h _ => some h.g
  | .vadd h _ => some h.g
  | .vsub h _ => some h.g
  | .vmul h _ => some h.g
  | .vfma h _ => some h.g
  | .vmin h _ => some h.g
  | .vmax h _ => some h.g
  | .vabs h _ => some h.g
  | .vneg h _ => some h.g
  | .vrcp h _ => some h.g
  | .vrsq h _ => some h.g
  | .vexp2 h _ => some h.g
  | .vlog2 h _ => some h.g
  | .vcvt h _ => some h.g
  | .viadd h _ => some h.g
  | .visub h _ => some h.g
  | .vimul h _ => some h.g
  | .vlogic h _ => some h.g
  | .vshl h _ => some h.g
  | .vshr h _ => some h.g
  | .vpopc h _ => some h.g
  | .viota h _ => some h.g
  | .vmovi h _ => some h.g
  | .vcmp h _ => some h.g
  | .vicmp h _ => some h.g
  | .vselm h _ => some h.g
  | .wlog h _ => some h.g
  | .wcnt h _ => some h.g
  | .vbits h _ => some h.g
  | .vrsum h _ => some h.g
  | .vrmax h _ => some h.g
  | .vperm h _ => some h.g
  | .vbcst h _ => some h.g
  | .ard h _ => some h.g
  | .awr h _ => some h.g
  | .zld h _ _ => some h.g
  | .zst h _ _ => some h.g
  | .vbmax h _ => some h.g
  | .vqsx h _ => some h.g
  | .vdqsx h _ => some h.g
  | .vsigp h _ => some h.g
  | .vmaj h _ => some h.g
  | .vosm h _ => some h.g
  | .vosf h _ => some h.g
  | .vrope h _ => some h.g
  | .vrng h _ => some h.g
  | .mstat h _ => some h.g
  | .mrel h _ _ => some h.g
  | .mtld h _ _ => some h.g
  | .mtst h _ _ => some h.g
  | .mmul h _ _ _ _ _ _ _ _ => some h.g
  | .mclr h _ => some h.g
  | .tup h _ _ _ _ _ => some h.g
  | .tdn h _ _ _ _ _ _ => some h.g
  | .tmxp h _ _ _ _ _ => some h.g
  | .tscl h _ _ => some h.g
  | .tshl h _ _ _ => some h.g
  | .tcvt h _ _ _ => some h.g
  | .xcpM h _ _ _ => some h.g
  | .addC h _ _ _ => some h.g
  | .subC h _ _ _ => some h.g
  | .shlC h _ _ _ => some h.g
  | .liC h _ _ => some h.g
  | .lihC h _ _ => some h.g
  | .xcpC h _ _ _ => some h.g
  | .cmptC h _ _ => some h.g
  | .cpy h _ => some h.g
  | .cpy2 h _ => some h.g
  | .cpyl h _ => some h.g
  | .put h _ _ _ _ _ => some h.g
  | .give h _ _ _ => some h.g
  | .take h _ _ => some h.g
  | .atom h _ => some h.g
  | .sig h _ => some h.g
  | .fence h _ => some h.g
  | .coll h _ => some h.g
  | .cstk h _ => some h.g
  | .pgft h _ => some h.g
  | .preq h _ => some h.g
  | .wbk h _ => some h.g
  | .mapr h _ _ _ _ => some h.g
  | .pmov h _ => some h.g
  | .sset h _ => some h.g
  | .sins h _ => some h.g
  | .ssel h _ => some h.g
  | .sage h _ => some h.g
  | .sdel h _ => some h.g
  | .smig h _ => some h.g
  | .pgap h _ => some h.g
  | .plan h _ => some h.g
  | _ => none

/-- The operations that can hold their bundle: their guard is read on presentation (R428). -/
def stalls (i : Instr) : Bool :=
  match i with
  | .waitOwn _ _ => true
  | .waitWp _ _ _ => true
  | .waitBar _ _ => true
  | .waitVal _ _ _ _ _ _ _ => true
  | .waitCyc _ _ => true
  | .bar _ _ => true
  | .tnext _ _ _ _ => true
  | .crgnClose _ => true
  | _ => false

end Sys2Proof.Claim

/-- R66, R428: the guard is true when the predicate, read through the present `RB.P`, differs from the negate bit, and an
operation whose guard is false has no effect at all: the state is what it was. A bundle held by a wait has had its guard
read on its presentation. -/
def Obligations.FalseGuardHasNoEffect : Prop :=
  ∀ (s : State) (i : Instr) (g : BitVec 5), Claim.guardOf i = some g →
    s.me.rdP (s.me.phP (g.toNat % 16)) = g.getLsbD 4 → (Claim.stalls i = true → s.me.stall = none) → exec i s = .next s

/-! ### The matrix slot -/

/-- R122, R125 to R128, R366 to R371: what the tensor operations issue. `MTLD` reads tile row k on c + 1 + k and `MTST`
writes it on c + 2 + k, or both raise `ADDRESS` (0x12) on c + 1 when the rows leave scratch; `MMUL` takes the tile and its
shape as they stand on c; `MCLR` clears its bank on c + 1; `MSTAT` is checked and flips on c + 1 and `MREL` on c + 1 to
c + 4. -/
def Obligations.TensorOperationsIssue : Prop :=
  ∀ (s : State) (h : MHead) (t : BitVec 4) (row : BitVec 12) (tid : BitVec 6) (layout : BitVec 2) (acc ck : Bool)
    (fmt bank : BitVec 3) (k0 n0 : BitVec 16), s.me.guard h.g = true →
    let shape := Sparse.get 0 s.me.cr (0x010 + t.toNat)
    let rows := (shape.extractLsb' 3 5).toNat
    let cols := (shape.extractLsb' 8 8).toNat
    let tile (k : Nat) : Vec := Sparse.get 0 s.me.t (16 * t.toNat + k)
    let gives (l : List Claim.Res) : Host.Outcome State Fault Refusal := .next (Claim.gives s l)
    (∀ r : Nat, (row.toNat : Int) + h.st.a = r → r + rows ≤ 4096 →
      exec (.mtld h t row) s = gives ((List.range rows).map (fun k => ⟨3, 1 + k, .mtldRow t.toNat k (r + k)⟩)) ∧
      exec (.mtst h t row) s =
        gives ((List.range rows).map (fun k => ⟨3, 2 + k, .write (r + k) (tile k) (BitVec.allOnes 64)⟩))) ∧
    ((row.toNat : Int) + h.st.a < 0 ∨ (4096 : Int) < row.toNat + h.st.a + rows →
      exec (.mtld h t row) s = gives [⟨3, 1, .raise 0x12 0⟩] ∧ exec (.mtst h t row) s = gives [⟨3, 1, .raise 0x12 0⟩]) ∧
    exec (.mmul h acc ck fmt bank t tid k0 n0) s = gives [⟨3, 1, .mmulGo acc ck fmt.toNat bank.toNat
      ((List.range rows).map tile) rows cols tid.toNat ((k0.toNat + h.st.a : Int) % 2 ^ 16).toNat
      ((n0.toNat + h.st.b : Int) % 2 ^ 16).toNat⟩] ∧
    exec (.mclr h bank) s = gives [⟨3, 1, .accClear bank.toNat⟩] ∧
    exec (.mstat h tid) s = gives [⟨3, 1, .mstat tid.toNat⟩] ∧
    exec (.mrel h tid layout) s = gives [⟨3, 1, .mrel tid.toNat layout.toNat 3⟩]

namespace Sys2Proof.Claim

open Sys2Proof Sys2Proof.Machine

/-- Fields of a tensor table entry (R98). -/
def tFmt (e : Nat) : Nat := e % 16
def tLayout (e : Nat) : Nat := e / 2 ^ 4 % 4
def tFirst (e : Nat) : Nat := e / 2 ^ 6 % 64
def tCount (e : Nat) : Nat := e / 2 ^ 12 % 128
def tRows (e : Nat) : Nat := e / 2 ^ 19 % 2 ^ 16
def tCols (e : Nat) : Nat := e / 2 ^ 35 % 2 ^ 16

/-- Sixteen times the element bits of a format: the bits of an SX block (R98). -/
def bits16 (f : Nat) : Nat := [512, 256, 256, 128, 128, 128, 64, 256, 512, 144, 96, 64].getD f 0

/-- A valid entry (R98). -/
def tValid (e : Nat) : Prop :=
  tCount e ≠ 0 ∧ tFirst e + tCount e ≤ 64 ∧ tRows e ≠ 0 ∧ tCols e ≠ 0 ∧ tFmt e ≤ 11 ∧ tLayout e ≠ 3 ∧
  tRows e * tCols e * bits16 (tFmt e) ≤ tCount e * 32768 * 16 ∧ (9 ≤ tFmt e → tCols e % 16 = 0)

/-- A quarter of an entry. -/
def tQuarter (e q : Nat) : Prop := tFirst e ≤ q ∧ q < tFirst e + tCount e

/-- Slab elements and MACs per quarter per task cycle of a stationary format, 0 of any other (R123). -/
def slabOf (f : Nat) : Nat := [0, 0, 2048, 4096, 4096, 4096, 8192, 0, 0, 3584, 5120, 8192].getD f 0
def rateOf (f : Nat) : Nat := [0, 0, 64, 128, 128, 256, 1024, 0, 0, 256, 512, 1024].getD f 0

/-- K_s, N_s, A and Bn of an entry (R123). -/
def ks (e : Nat) : Nat := if tRows e ≤ 16 then 16 else if tRows e ≤ 32 then 32 else if tRows e ≤ 64 then 64 else 128
def ns (e : Nat) : Nat := slabOf (tFmt e) / ks e
def slabsIn (e : Nat) : Nat := (tRows e + ks e - 1) / ks e
def slabsOut (e : Nat) : Nat := (tCols e + ns e - 1) / ns e

/-- Element i of an SX block of element width b (R93). -/
def sx (b blk i : Nat) : Fp :=
  if blk % 256 = 255 then .nan
  else .ofInt false (BitVec.ofNat b (blk / 2 ^ (16 + b * i))).toInt
    ((blk % 256 : Nat) - 127 - ((blk / 2 ^ (8 + 2 * (i / 4)) % 4 : Nat) : Int) - (b - 2 : Int))

/-- Element i of a packed column or row in a format (R86, R89, R93, R124). -/
def elem (f v i : Nat) : Fp :=
  if f ≤ 4 then (Fmt.ofTy f).decode (el (bits16 f / 16) v i)
  else if f < 9 then Fp.int (BitVec.ofNat (bits16 f / 16) (el (bits16 f / 16) v i)).toInt
  else sx (if f = 9 then 8 else if f = 10 then 5 else 3) (el (bits16 f) v (i / 16)) (i % 16)

/-- Input k, output n of a stationary tensor in the scratch of a core (R123, R124). -/
def weight (s : State) (core e k n : Nat) : Fp :=
  let bytes := ks e * bits16 (tFmt e) / 128
  let at' := 4096 * (tFirst e + n / ns e * slabsIn e + k / ks e) + n % ns e * bytes
  elem (tFmt e) (leNat (rdBytes s.mem (scrKey core at') bytes)) (k % ks e)

/-- The activation format of an `MMUL` suffix, and whether a stationary format goes with it (R126). -/
def actFmt (fmt : Nat) : Nat := [2, 3, 4, 5].getD fmt 0
def pairs (fmt st : Nat) : Prop := st ∈ [[2, 9, 10, 11], [3, 4], [3, 4], [5, 6]].getD fmt []

/-- The outputs that an `MMUL` computes, and its limits (R127). -/
def outs (e n0 : Nat) : Nat :=
  if ns e ≤ 128 then min 128 (tCols e - n0) else min (min 128 (tCols e - n0)) (ns e - n0 % ns e)
def inLimits (e l k0 n0 : Nat) : Prop :=
  k0 < tRows e ∧ k0 % ks e + l ≤ ks e ∧ (if ns e ≤ 128 then n0 % ns e = 0 else n0 % ns e % 128 = 0) ∧ n0 < tCols e

/-- A quarter through which an `MMUL` streams (R129). -/
def streams (e k0 n0 q : Nat) : Prop :=
  ∃ b, n0 / ns e ≤ b ∧ b ≤ (n0 + outs e n0 - 1) / ns e ∧ q = tFirst e + b * slabsIn e + k0 / ks e

/-- p / 2^q, truncated toward zero. -/
def towardZero (q : Int) (p : Fp) : Int :=
  match p with
  | .fin neg m e => (if neg then -1 else 1) * ((if q ≤ e then m * 2 ^ (e - q).toNat else m / 2 ^ (q - e).toNat : Nat) : Int)
  | _ => 0

/-- The exponents of the products that are not zero: floor(log2 |p|). -/
def exps (g : List Fp) : List Int :=
  g.filterMap (fun p => match p with
    | .fin _ m e => if m = 0 then none else some (Nat.log2 m + e)
    | _ => none)

/-- The sum of one group of at most 8 products, as FP32 (R101). -/
def groupOf (g : List Fp) : Nat :=
  if g.any Fp.isNan ∨ (Fp.inf true ∈ g ∧ Fp.inf false ∈ g) then 0x7FC00000
  else if Fp.inf false ∈ g then 0x7F800000
  else if Fp.inf true ∈ g then 0xFF800000
  else match exps g with
    | [] => 0
    | x :: l =>
      let u := l.foldl max x - 40
      r32 (.ofInt false (g.map (towardZero u)).sum u)

/-- An accumulator element after an `MMUL`: its group sums are added one by one (R101), or the exact sum wraps (R102). -/
def landed (acc flt : Bool) (old : BitVec 48) (t : MTerm) : BitVec 48 :=
  if flt then BitVec.ofNat 48 (if acc then t.ts.foldl add32 (old.toNat % 2 ^ 32) else t.ts.tail.foldl add32 (t.ts.headD 0))
  else BitVec.ofInt 48 ((if acc then old.toInt else 0) + t.iv)

/-- A checksum entry after an `MMUL.CK`: the exact sum of its products, narrowed once (R130). -/
def checked (acc flt : Bool) (old : BitVec 48) (l : List MTerm) : BitVec 48 :=
  let v := (l.map (·.ex)).foldr Fp.add (.fin false 0 0)
  if flt then BitVec.ofNat 48 (r32 (if acc then (d32 (old.toNat % 2 ^ 32)).add v else v))
  else BitVec.ofInt 48 ((if acc then old.toInt else 0) + (l.map (·.iv)).sum)

/-- An element of a bank; row 16 and column 128 are its checksums (R130). -/
def bankAt (c : Core) (bank i j : Nat) : BitVec 48 := Sparse.get 0 c.acc (bank * 4096 + i * 129 + j)

/-- A core on which an effect in flight has recorded a fault and done nothing else (R250). -/
def detected (c : Core) (p : Pend) (cause : Nat) : Core := { c with
  flt := some ⟨c.cyc, c.cyc, cause, 0, p.slot, false, 0, p.baddr, false, (if c.exited then 0 else 4), false, none⟩ }

end Sys2Proof.Claim

/-- R98, R101, R102, R122 to R131, R366 to R370: what the tensor operations do when they perform. `MSTAT` makes the quarters of a
valid entry of a stationary format STAT, with layout 0b10 and the 16 cycles of R122, after its checks of the entry (`ADDRESS`)
and of the owners (`OWNERSHIP`); `MREL` gives them back to CORE with its layout on c + 4, unless the entry is not stationary
(`ADDRESS`) or an `MMUL` streams on one of its four cycles (`TIMING`). `MMUL` is `ADDRESS` outside the limits of R126 and R127 and
`TIMING` too early or on a busy quarter; else its quarters are busy for M × c_in cycles and on c + 6 + M × c_in every element of
its M × nout rectangle takes the sum of the exact products of its activations and weights, by R101 in groups of 8 or as an
integer modulo 2^48, and with `.CK` the checksum column, row and corner theirs; every other element stays. `MCLR` clears its bank
with its checksums. On one cycle the clearing comes first, then `AWR`, then the `MMUL`s in the order of issue. The region of a
fault is log 42, the rounding of `.CK` with `.ACC` log 46 (the model's readings). -/
def Obligations.TensorOperationsPerform : Prop :=
  ∀ (s : State) (k : Nat) (p : Pend) (tid : Nat), (s.core k).flt = none → s.errs = [] →
    let c := s.core k
    let e := (Sparse.get 0 c.tt tid).toNat
    let stationary := Claim.tValid e ∧ Claim.slabOf (Claim.tFmt e) ≠ 0 ∧ Claim.slabsIn e * Claim.slabsOut e ≤ Claim.tCount e
    let released := Claim.tValid e ∧ Claim.tLayout e = 2
    let stream (q : Nat) : Prop := ∃ b ∈ c.busy, b.q = q ∧ c.cyc ≤ b.till
    (tid < 64 →
      (¬ stationary → c.mstatGo p tid = Claim.detected c p 0x12) ∧
      (stationary → (∃ q, Claim.tQuarter e q ∧ (c.owner q ≠ .core ∨ c.mapped q = true)) → c.mstatGo p tid = Claim.detected c p 0x10) ∧
      (stationary → (∀ q, Claim.tQuarter e q → c.owner q = .core ∧ c.mapped q = false) →
        let d := c.mstatGo p tid
        d = { c with own := d.own, tt := d.tt, statAt := d.statAt } ∧ Sparse.get 0 d.statAt tid = p.iss + 16 ∧
        (∀ q, (Claim.tQuarter e q → d.owner q = .stat) ∧ (¬ Claim.tQuarter e q → d.owner q = c.owner q)) ∧
        (Sparse.get 0 d.tt tid).toNat = e - Claim.tLayout e * 16 + 32 ∧ ∀ j, j ≠ tid → Sparse.get 0 d.tt j = Sparse.get 0 c.tt j)) ∧
    (∀ (layout left : Nat), layout < 2 →
      (¬ released → c.mrelGo p tid layout left = Claim.detected c p 0x12) ∧
      (released → (∃ q, Claim.tQuarter e q ∧ stream q) → c.mrelGo p tid layout left = Claim.detected c p 0x11) ∧
      (released → (∀ q, Claim.tQuarter e q → ¬ stream q) →
        (0 < left → c.mrelGo p tid layout left =
          { c with pend := c.pend ++ [{ p with due := c.cyc + 1, eff := .mrel tid layout (left - 1) }] }) ∧
        (left = 0 → (∀ q, Claim.tQuarter e q → c.owner q = .stat) →
          let d := c.mrelGo p tid layout left
          d.acc = c.acc ∧ d.pend = c.pend ∧ d.busy = c.busy ∧ d.flt = none ∧
          (∀ q, (Claim.tQuarter e q → d.owner q = .core) ∧ (¬ Claim.tQuarter e q → d.owner q = c.owner q)) ∧
          (Sparse.get 0 d.tt tid).toNat = e - 32 + layout * 16 ∧ ∀ j, j ≠ tid → Sparse.get 0 d.tt j = Sparse.get 0 c.tt j))) ∧
    (∀ (acc ck : Bool) (fmt bank l k0 n0 : Nat) (rows : List Vec), fmt < 4 → l ≤ 128 →
      let m := rows.length
      let run := s.mmulGo k p acc ck fmt bank rows m l tid k0 n0
      let uses := Claim.streams e k0 n0
      let ok := released ∧ Claim.pairs fmt (Claim.tFmt e) ∧ Claim.inLimits e l k0 n0 ∧ ∀ q, uses q → c.owner q = .stat
      let early := p.iss < Sparse.get 0 c.statAt tid ∨ ∃ q, uses q ∧ stream q
      let work := m * ((l * min (Claim.ns e) 128 + Claim.rateOf (Claim.tFmt e) - 1) / Claim.rateOf (Claim.tFmt e))
      (¬ ok → run = s.setCore k (Claim.detected c p 0x12)) ∧ (ok → early → run = s.setCore k (Claim.detected c p 0x11)) ∧
      (ok → ¬ early → ∃ terms busy, run = s.setCore k { c with
          busy := busy, pend := c.pend ++ [{ p with due := p.iss + 6 + work, eff := .mmul bank acc ck (fmt != 3) terms }] } ∧
        (∀ b : Busy, b ∈ busy ↔ (uses b.q ∧ b.till = p.iss + work) ∨ (b ∈ c.busy ∧ c.cyc ≤ b.till)) ∧ terms.length = m ∧
        ∀ (i : Nat) (row : Vec), rows[i]? = some row → ∃ ts, terms[i]? = some ts ∧ ts.length = Claim.outs e n0 ∧
          ∀ j (t : MTerm), ts[j]? = some t →
            let ps := (List.range (min l (Claim.tRows e - k0))).map (fun x =>
              (Claim.elem (Claim.actFmt fmt) row.toNat x).mul (Claim.weight s k e (k0 + x) (n0 + j)))
            (fmt = 3 → t.iv = (ps.map (Claim.towardZero 0)).sum) ∧
            (fmt ≠ 3 → t.ex = ps.foldr Fp.add (.fin false 0 0) ∧
              t.ts = (List.range ((ps.length + 7) / 8)).map (fun g => Claim.groupOf ((ps.drop (8 * g)).take 8))))) ∧
    (∀ (bank nout : Nat) (acc ck flt : Bool) (terms : List (List MTerm)), p.eff = .mmul bank acc ck flt terms →
      terms.length ≤ 16 → nout ≤ 128 → (∀ r ∈ terms, r.length = nout) → ∃ a, s.bankGo k p = s.setCore k { c with acc := a } ∧
        (∀ x, x / 4096 ≠ bank → Sparse.get 0 a x = Sparse.get 0 c.acc x) ∧
        ∀ i j, i < 17 → j < 129 →
          let old := Claim.bankAt c bank i j
          Sparse.get 0 a (bank * 4096 + i * 129 + j) =
            match terms[i]?.bind (fun r => r[j]?) with
            | some t => Claim.landed acc flt old t
            | none =>
              if ck ∧ terms ≠ [] ∧ i < terms.length ∧ j = 128 then Claim.checked acc flt old (terms[i]?.getD [])
              else if ck ∧ i = 16 ∧ j < (terms.headD []).length then Claim.checked acc flt old (terms.filterMap (fun r => r[j]?))
              else if ck ∧ i = 16 ∧ j = 128 then Claim.checked acc flt old terms.flatten
              else old) ∧
    (∀ bank : Nat, p.eff = .accClear bank → ∃ a, s.bankGo k p = s.setCore k { c with acc := a } ∧
      ∀ x, Sparse.get 0 a x = if x / 4096 = bank then 0 else Sparse.get 0 c.acc x) ∧
    (∀ (bank b1 b2 : Nat) (l : List (Nat × BitVec 48)) (a1 k1 f1 a2 k2 f2 : Bool) (t1 t2 : List (List MTerm)) (pa p1 p2 : Pend)
        (order : List Pend), p.eff = .accClear bank → pa.eff = .accs bank l → p1.eff = .mmul b1 a1 k1 f1 t1 →
      p2.eff = .mmul b2 a2 k2 f2 t2 → p1.iss < p2.iss → order.Perm [p, pa, p1, p2] → Claim.onlyPend s k order →
      (∀ x ∈ order, x.due ≤ (Claim.ticked s k).cyc) →
      ∃ t, exec .taskClockEdge s = .next t ∧ t.mem = s.mem ∧ t.core k = ([p, pa, p1, p2].foldl (fun s x => s.bankGo k x)
        (s.setCore k { Claim.ticked s k with pend := [] })).core k)

/-- R117 to R119, R176, R348, R365, R393: `GIVE`, `TAKE` and `MAPR` are checked and flip on c + 1; under `.K` re-issue j
names quarters j steps on. `PUT` is matched against the schedule on c + 1, or raises `ADDRESS` (0x12) when its rows leave
scratch. -/
def Sys2Proof.Claim.ChannelOperationsWithoutAQueue : Prop :=
  ∀ (s : State) (h : CHead) (w : Bool) (q : BitVec 6) (n : BitVec 7) (slot : BitVec 3) (ra : BitVec 5)
    (srow drow : BitVec 12) (n1 : BitVec 4) (lrow lcol : BitVec 5), s.me.guard h.g = true →
    let gives (e : Eff) : Host.Outcome State Fault Refusal := .next (Claim.gives s [⟨Claim.cslot h, 1, e⟩])
    let a : Int := srow.toNat + h.st.a
    let b : Int := drow.toNat + h.st.b
    let fits (r : Int) : Prop := 0 ≤ r ∧ r + (n1.toNat + 1) ≤ 4096
    exec (.give h w q n) s = gives (.give (q.toNat + h.st.a) n.toNat w) ∧
    exec (.take h q n) s = gives (.take (q.toNat + h.st.a) n.toNat) ∧
    exec (.mapr h slot q n ra) s = gives (.mapr slot.toNat q.toNat n.toNat (s.me.greg h.slot ra)) ∧
    (fits a ∧ fits b → exec (.put h srow drow n1 lrow lcol) s =
      gives (.put a.toNat b.toNat (n1.toNat + 1) lrow.toNat lcol.toNat)) ∧
    (¬ (fits a ∧ fits b) → exec (.put h srow drow n1 lrow lcol) s = gives (.raise 0x12 0))

/-- R115 to R119, R122: what the flips do to owner states. `GIVE` of CORE quarters makes them ENGINE and `TAKE` of quarters
that are not STAT, not mapped and not named by a held command makes them CORE; a quarter outside the span keeps its owner;
any other `GIVE` or `TAKE` flips nothing and records `OWNERSHIP` (0x10), or `ADDRESS` (0x12) for a span that leaves the
scratch. The region of the fault is log 42 (the model's reading). -/
def Sys2Proof.Claim.OwnershipFlips : Prop :=
  ∀ (c : Core) (p : Pend) (q n : Nat) (w : Bool), c.flt = none →
    let in' (k : Nat) : Prop := q ≤ k ∧ k < q + n
    let fault (d : Core) (cause : Nat) : Prop := d = Claim.detected c p cause
    (q + n ≤ 64 → (∀ k, in' k → c.owner k = .core ∧ c.mapped k = false) →
      ∀ k, ((c.giveGo p q n w).owner k = .engine ∧ in' k) ∨ ((c.giveGo p q n w).owner k = c.owner k ∧ ¬ in' k)) ∧
    (q + n ≤ 64 → (∃ k, in' k ∧ (c.owner k ≠ .core ∨ c.mapped k = true)) → fault (c.giveGo p q n w) 0x10) ∧
    (q + n ≤ 64 → (∀ k, in' k → c.owner k ≠ .stat ∧ c.mapped k = false ∧ c.namesQ k = false) →
      ∀ k, ((c.takeGo p q n).owner k = .core ∧ in' k) ∨ ((c.takeGo p q n).owner k = c.owner k ∧ ¬ in' k)) ∧
    (q + n ≤ 64 → (∃ k, in' k ∧ (c.owner k = .stat ∨ c.mapped k = true ∨ c.namesQ k = true)) → fault (c.takeGo p q n) 0x10) ∧
    (64 < q + n → fault (c.giveGo p q n w) 0x12 ∧ fault (c.takeGo p q n) 0x12)

/-- R176, R138, R115, R381: what `MAPR` and `PUT` do when they perform. `MAPR` binds a free slot to unmapped CORE quarters at a base
aligned to 4 KiB, and unbinds one whose quarters are clean and still: no owner changes. What breaks its limits is `ADDRESS`, and quarters that
are not CORE, or are mapped, dirty, being filled or written back, `OWNERSHIP`. A `PUT` to no other core of its group is `ADDRESS`, one
without a reservation `TIMING`; else row j is read on c + 1 + j from a quarter that is not ENGINE or STAT and comes to the other core
3h + 1 cycles later, where it is written into a SCHED quarter, and else is discarded with `OWNERSHIP` on the sending core. The region
of the fault is log 42 (the model's reading). -/
def Sys2Proof.Claim.MappingsAndPutsPerform : Prop :=
  ∀ (s : State) (k : Nat) (p : Pend), (s.core k).flt = none → s.errs = [] →
    let c := s.core k
    (∀ (slot q n : Nat) (va : W64),
      let d := c.maprGo p slot q n va
      let old := Sparse.get none c.maps slot
      let in' (m : MapSlot) (i : Nat) : Prop := m.q ≤ i ∧ i < m.q + m.n
      let used (i : Nat) : Prop := c.mdirty.getLsbD i = true ∨ c.filling i = true ∨ c.backing i = true
      let slotIs (x : Option MapSlot) : Prop := ∀ j, Sparse.get none d.maps j = if j = slot then x else Sparse.get none c.maps j
      let legal : Prop := q + n ≤ 64 ∧ old = none ∧ va.toNat < 2 ^ 57 ∧ va.toNat % 4096 = 0
      (n = 0 → old = none → d = c) ∧
      (∀ m, n = 0 → old = some m → m.q + m.n ≤ 64 →
        ((∃ i, in' m i ∧ used i) → d = Claim.detected c p 0x10) ∧
        ((∀ i, in' m i → ¬ used i) → d = { c with maps := d.maps, mres := d.mres, mdirty := d.mdirty } ∧ slotIs none ∧
          ∀ i, i < 64 → (d.mres.getLsbD i = (c.mres.getLsbD i && !decide (in' m i))) ∧
            (d.mdirty.getLsbD i = (c.mdirty.getLsbD i && !decide (in' m i))))) ∧
      (1 ≤ n → ¬ legal → d = Claim.detected c p 0x12) ∧
      (1 ≤ n → legal →
        ((∃ i, in' ⟨q, n, va⟩ i ∧ (c.owner i ≠ .core ∨ c.mapped i = true)) → d = Claim.detected c p 0x10) ∧
        ((∀ i, in' ⟨q, n, va⟩ i → c.owner i = .core ∧ c.mapped i = false) →
          d = { c with maps := d.maps } ∧ slotIs (some ⟨q, n, va⟩)))) ∧
    (∀ srow drow rows lrow lcol, p.eff = .put srow drow rows lrow lcol →
      let t := s.earlyGo k p
      let there := s.coreAt c.inst c.ldie lrow lcol
      let hit : Prop := ∃ x r, s.inst? c.inst = some x ∧ r ∈ x.sched ∧ r = ⟨c.grp, c.ldie, c.lrow, c.lcol, lrow, lcol, rows, drow, p.iss⟩
      (there = none ∨ (∃ d, there = some d ∧ (sameGroup c (s.core d) = false ∨ d = k)) → t = s.setCore k (Claim.detected c p 0x12)) ∧
      (∀ d, there = some d → sameGroup c (s.core d) = true → d ≠ k →
        (¬ hit → t = s.setCore k (Claim.detected c p 0x11)) ∧
        (hit → t = s.setCore k { c with pend := c.pend ++ (List.range rows).map (fun j =>
          { p with due := p.iss + 1 + j, eff := .putRead (srow + j) d (drow + j) (1 + 3 * hops k d) }) }))) ∧
    (∀ srow dst drow land, p.eff = .putRead srow dst drow land →
      let o := c.owner (srow / 64)
      (o = .engine ∨ o = .stat → ∃ f, s.readGo k p = s.setCore k { c with flt := some f } ∧ f.f = c.cyc ∧ f.cause = 0x10 ∧
        f.slot = p.slot ∧ f.eng = false ∧ f.data = BitVec.ofNat 64 (k * 2 ^ 18 + 64 * srow)) ∧
      (o = .core ∨ o = .sched → c.mapped (srow / 64) = false → s.readGo k p = s.setCore dst { s.core dst with
        pend := (s.core dst).pend ++ [⟨c.cyc + land, p.iss, 6, false, p.baddr,
          .putRow k drow (BitVec.ofNat 512 (rdLE s.mem (scrKey k (64 * srow)) 64)) p.slot p.baddr⟩] })) ∧
    (∀ m0 src row v slot at', p.eff = .putRow src row v slot at' →
      let t := s.writeGo m0 k p
      (c.owner (row / 64) = .sched → c.mapped (row / 64) = false → memWf s.mem = true → t = { s with mem := t.mem } ∧ ∀ a, rdByte t.mem a =
        if scrKey k (64 * row) ≤ a ∧ a < scrKey k (64 * row) + 64 then (leBytes 64 v.toNat).getD (a - scrKey k (64 * row)) 0
        else rdByte s.mem a) ∧
      (c.owner (row / 64) ≠ .sched → (s.core src).flt = none → ∃ f, t = s.setCore src { s.core src with flt := some f } ∧
        f.f = (s.core src).cyc ∧ f.cause = 0x10 ∧ f.slot = slot ∧ f.eng = false ∧ f.baddr = at' ∧
        f.data = BitVec.ofNat 64 (k * 2 ^ 18 + 64 * row)))

/-! ### The sum-product engine -/

namespace Sys2Proof.Claim

open Sys2Proof Sys2Proof.Machine

/-- The values of a tree in heap order (R103, R214, R224): leaf j is node 16 + j, and node n joins nodes 2n and 2n + 1. The
first argument is the height of the node. -/
def heap (join : Nat → Tv → Tv → Tv) (leaf : Nat → Tv) : Nat → Nat → Tv
  | 0, n => leaf (n - 16)
  | k + 1, n => join n (heap join leaf k (2 * n)) (heap join leaf k (2 * n + 1))

/-- The height of node n of the 31. -/
def height (n : Nat) : Nat := 4 - Nat.log2 n

/-- The flow into node n from the root's flow f (R226): `split` gives the two flows of a node's children. The first
argument is the depth of the node. -/
def flow (split : Nat → Tv → Tv × Tv) (f : Tv) : Nat → Nat → Tv
  | 0, _ => f
  | k + 1, n =>
    let r := split (n / 2) (flow split f k (n / 2))
    if n % 2 = 0 then r.1 else r.2

/-- Results of the tree scratch with the sticky flags they set on the same cycle (R222). -/
def zres (lat : Nat) (zd : Nat) (ws : List Nat) (spo spu : Bool) : List Res :=
  ⟨3, lat, .zs ((ws.zipIdx).map (fun e => ((zd + e.2) % 512, BitVec.ofNat 32 e.1)))⟩ ::
    ((if spo then [⟨3, lat, .crOr 0x022 1⟩] else []) ++ (if spu then [⟨3, lat, .crOr 0x023 1⟩] else []))

end Sys2Proof.Claim

/-- R214, R215, R221 to R226: `TUP` evaluates the tree bottom up and writes the root, or the nodes that the tap names, on
c + 12; `TMXP` takes every SUM as MAX and writes the root's value and the word of its decisions, whose low four bits are the
leaf that they lead to; `TDN` sends the flow of the root down to the leaves and writes 16 words, 0 for a leaf that is not
enabled, on c + 16. -/
def Sys2Proof.Claim.TreePasses : Prop :=
  ∀ (s : State) (h : MHead) (md : BitVec 2) (zd zg : BitVec 9) (sh lm : BitVec 6) (base : BitVec 9), s.me.guard h.g = true →
    let shape := (Sparse.get 0 s.me.shape sh.toNat).toNat
    let map := (Sparse.get 0 s.me.leaf lm.toNat).toNat
    let b := ((base.toNat + h.st.b : Int) % 512).toNat
    let d := ((zd.toNat + h.st.a : Int) % 512).toNat
    let z := ((zg.toNat + h.st.c : Int) % 512).toNat
    let m := md.toNat
    let sb := s.me.sbase
    let entry (j : Nat) : Nat := (Claim.el 16 map j % 512 + b) % 512
    let on (j : Nat) : Bool := shape.testBit (30 + j)
    let op (mx : Bool) (n : Nat) : Nat :=
      let o := shape / 2 ^ (2 * (n - 1)) % 4
      if mx && o == 0 then 2 else o
    let leaf (mx : Bool) (j : Nat) : Tv :=
      ⟨if on j then twDecode m sb (Sparse.get 0 s.me.z (entry j)).toNat else twIdent m (op mx (8 + j / 2)), false, false⟩
    let val (mx : Bool) (n : Nat) : Tv :=
      Claim.heap (fun n a b => twNode m sb (op mx n) a b) (leaf mx) (Claim.height n) n
    let word (v : Tv) : Nat := (twNarrow m sb v.v).1
    let nodes := (List.range 31).map (· + 1)
    let reads := ((List.range 16).filter on).map entry
    let right (mx : Bool) (n : Nat) : Bool := (val mx (2 * n)).v.ltTotal (val mx (2 * n + 1)).v
    let dec (n : Nat) : Bool := op true n == 2 && right true n
    let step (n : Nat) : Nat := if dec n then 2 * n + 1 else 2 * n
    let split (n : Nat) (f : Tv) : Tv × Tv :=
      let zero : Tv := ⟨.fin false 0 0, false, false⟩
      if op false n = 0 then (f, f)
      else if op false n = 1 then ((twNarrow m sb (f.v.mul (val false (2 * n + 1)).v)).2,
        (twNarrow m sb (f.v.mul (val false (2 * n)).v)).2)
      else if op false n = 2 then (if right false n then (zero, f) else (f, zero)) else (f, zero)
    let root : Tv := ⟨twDecode (if m = 1 then 0 else m) sb (Sparse.get 0 s.me.z z).toNat, false, false⟩
    let flow (n : Nat) : Tv := Claim.flow split root (Nat.log2 n) n
    (Claim.cleanZ s reads →
      exec (.tup h md zd sh lm base) s = .next (Claim.gives s (Claim.zres 12 d
        ((if shape / 2 ^ 46 % 4 = 0 then [1] else if shape / 2 ^ 46 % 4 = 1 then [1, 2, 3] else [4, 5, 6, 7]).map
          (fun n => word (val false n)))
        (nodes.any (fun n => (val false n).spo)) (nodes.any (fun n => (val false n).spu)))) ∧
      ∃ w, exec (.tmxp h md zd sh lm base) s = .next (Claim.gives s (Claim.zres 12 d [word (val true 1), w]
          (nodes.any (fun n => (val true n).spo)) (nodes.any (fun n => (val true n).spu)))) ∧
        w % 2 ^ 16 = step (step (step (step 1))) - 16 ∧ w < 2 ^ 31 ∧
        ∀ n, 1 ≤ n → n ≤ 15 → w.testBit (15 + n) = dec n) ∧
    (Claim.cleanZ s (z :: reads) →
      exec (.tdn h md zd zg sh lm base) s = .next (Claim.gives s (Claim.zres 16 d
        ((List.range 16).map (fun j => if on j then word (flow (16 + j)) else 0))
        (nodes.any (fun n => (val false n).spo) || (nodes.drop 1).any (fun n => (flow n).spo))
        (nodes.any (fun n => (val false n).spu) || (nodes.drop 1).any (fun n => (flow n).spu)))))

/-- R96, R97, R227, R228, R217: `TSCL` lowers the exponent field of 16 SP32 words by d, to 0 below 1 and to all ones above
1,023, with `.M` taking d from the largest exponent and adding it to `SB`, on c + 6; `TCVT` converts 16 entries between FP32
and SP32, on c + 3; `TSHL` reads its table row on c + 1. -/
def Sys2Proof.Claim.TreeScalingAndConversion : Prop :=
  ∀ (s : State) (h : MHead) (md : BitVec 2) (zd zs : BitVec 9) (l : Bool) (e : BitVec 6) (row : BitVec 12),
    s.me.guard h.g = true →
    let z := ((zd.toNat + h.st.a : Int) % 512).toNat
    let run (z : Nat) : List Nat := (List.range 16).map (fun i => (z + i) % 512)
    let words (z : Nat) : List Nat := (run z).map (fun i => (Sparse.get 0 s.me.z i).toNat)
    let x (w : Nat) : Nat := w / 2 ^ 22
    let top := (words z).foldl (fun m w => max m (x w)) 0
    let scl := (Sparse.get 0 s.me.cr 0x021).extractLsb' 0 10
    let low (d : Int) (w : Nat) : Nat :=
      if x w = 0 ∨ x w - d < 1 then 0 else if 1023 < x w - d then 2 ^ 32 - 1 else (x w - d).toNat * 2 ^ 22 + w % 2 ^ 22
    let above (d : Int) (w : Nat) : Bool := decide (x w ≠ 0 ∧ 1023 < x w - d)
    let beneath (d : Int) (w : Nat) : Bool := decide (x w ≠ 0 ∧ x w - d < 1)
    let res (d : Int) : List Claim.Res :=
      Claim.zres 6 z ((words z).map (low d)) ((words z).any (above d)) ((words z).any (beneath d))
    let dm : Int := if top = 0 then 0 else top - 512
    (Claim.cleanZ s (run z) →
      exec (.tscl h true zd) s = .next (Claim.gives s (res scl.toInt)) ∧
      exec (.tscl h false zd) s = .next (Claim.gives s (res dm ++
        [⟨3, 6, .tscl dm⟩, ⟨3, 6, .cr 0x021 ((BitVec.ofInt 10 dm).setWidth 64)⟩]))) ∧
    (∀ src, src = ((zs.toNat + h.st.b : Int) % 512).toNat → Claim.cleanZ s (run src) →
      (md = 0 → exec (.tcvt h md zd zs) s = .next (Claim.gives s (Claim.zres 3 z
        ((words src).map (fun w => (toSp s.me.sbase w).bits)) ((words src).any (fun w => (toSp s.me.sbase w).spo))
        ((words src).any (fun w => (toSp s.me.sbase w).spu))))) ∧
      (md ≠ 0 → exec (.tcvt h md zd zs) s = .next (Claim.gives s (Claim.zres 3 z
        ((words src).map (fun w => r32 (twDecode 2 s.me.sbase w))) false false)))) ∧
    exec (.tshl h l e row) s = .next (Claim.gives s
      [⟨3, 1, .tshl l ((e.toNat + h.st.a : Int) % 64).toNat ((row.toNat + h.st.b : Int) % 4096).toNat⟩])

/-! ### Engine commands -/

namespace Sys2Proof.Claim

open Sys2Proof Sys2Proof.Machine

/-- An immediate taken as a count (R302). -/
def count {n : Nat} : Imm n → Nat
  | .short v => v.toNat
  | .ext v => v.toNat

/-- A command word offers its command to its own slot's channel on c + 1 (R132, R315): registers read on c, the start cycle
T of g[TR] + TOFF and the sticky steps; a start that its steps take below 0 stands as 0, which no channel accepts (log 46: R315
does not say what stands there). -/
def offers (s : State) (h : CHead) (o : CE) (i : Instr) (ret rel acq : Bool) (n : Nat) (kind : CmdKind) : Prop :=
  exec i s = .next (gives s [⟨cslot h, 1, .accept h.slot
    { uid := 0, kind := kind, ret := ret, rel := rel, acq := acq, scope := (o.qual.extractLsb' 0 3).toNat
      start := (((s.me.greg h.slot o.tr + o.toff.setWidth 64).toNat : Int) + h.st.a).toNat, iss := s.me.cyc
      baddr := s.me.half.toNat * 2 ^ 14 + s.me.pc, depth := s.me.crgn.length, phase := .held, done := 0, n := n
      crc := 0xFFFFFFFF, qset := [], blk := [], ent := none }⟩])

end Sys2Proof.Claim

/-- R132, R136, R315, R330 to R336, R318, R328, R341, R347, R385: every copy, `ATOM`, `SIG`, `FENCE`, `COLL` and `CSTK` word
offers its command, with its operands as they stand on c, to its slot's channel on c + 1. A copy with qualifiers that R136
excludes, among them `.W` for a destination outside scratch, offers a command of no rows, whose operands no channel accepts
(`ADDRESS`). A start that its steps take below 0 stands as 0 (log 46, R315). -/
def Sys2Proof.Claim.CopyAndSyncWordsOfferCommands : Prop :=
  ∀ (s : State) (h : CHead) (o : CE), s.me.guard h.g = true →
    let a := s.me.greg h.slot o.ra + BitVec.ofInt 64 h.st.b
    let b := s.me.greg h.slot o.rb + BitVec.ofInt 64 h.st.c
    let c := s.me.greg h.slot o.rc
    let ret := o.qual.getLsbD 6
    let tx := (o.qual.extractLsb' 4 2).toNat
    let u := Claim.count o.imm
    let scr (v : W64) : Prop := ∃ p f, opndOf s.me.id v = some (.scr p f)
    let streams : Prop := o.qual.getLsbD 3 = false ∨ scr a
    (streams → tx = 0 → Claim.offers s h o (.cpy h o) ret false false u (.cpy a b u none)) ∧
    (streams → tx = 3 → Claim.offers s h o (.cpy h o) ret false false u (.cpy a b u (some c))) ∧
    (streams → tx < 3 →
      Claim.offers s h o (.cpy2 h o) ret false false (u * (c.extractLsb' 0 16).toNat) (.cpy2 a b c u tx)) ∧
    (streams → tx = 0 → Claim.offers s h o (.cpyl h o) ret false false (u * c.toNat) (.cpyl a b c u)) ∧
    (¬ streams ∨ tx = 1 ∨ tx = 2 → Claim.offers s h o (.cpy h o) ret false false 0 (.cpy a b 0 (if tx = 3 then some c else none))) ∧
    (¬ streams ∨ tx = 3 → Claim.offers s h o (.cpy2 h o) ret false false 0 (.cpy2 a b c 0 tx)) ∧
    (¬ streams ∨ tx ≠ 0 → Claim.offers s h o (.cpyl h o) ret false false 0 (.cpyl a b c 0)) ∧
    (∀ (d : Core) (x : Option W64), d.operandsOk (.cpy a b 0 x) = false ∧ d.operandsOk (.cpy2 a b c 0 tx) = false ∧
      d.operandsOk (.cpyl a b c 0) = false) ∧
    Claim.offers s h o (.fence h o) false false false 0 .fence ∧
    Claim.offers s h o (.coll h o) false false false 1 (.coll a) ∧
    ∀ i : BitVec 12, o.imm = .short i →
      Claim.offers s h o (.atom h o) false (o.qual.getLsbD 5) (o.qual.getLsbD 4) 1
        (.atom a b c (i.extractLsb' 5 5).toNat (i.extractLsb' 0 3).toNat (i.getLsbD 4) (i.getLsbD 3)) ∧
      Claim.offers s h o (.sig h o) false (o.qual.getLsbD 5) false 1 (.sig a b (i.getLsbD 0) (i.getLsbD 3)) ∧
      Claim.offers s h o (.cstk h o) false false false 2 (.cstk a (i.extractLsb' 4 5).toNat (i.extractLsb' 0 4).toNat)

/-- R132, R315, R373 to R391, R431: every paging word and every word of the selection and planning engines offers its
command, with its operands as they stand on c, to its slot's channel on c + 1. A start that its steps take below 0 stands as 0
(log 46, R315). -/
def Sys2Proof.Claim.PagingAndSelectionWordsOfferCommands : Prop :=
  ∀ (s : State) (h : CHead) (o : CE) (i : BitVec 12), s.me.guard h.g = true → o.imm = .short i →
    let a := s.me.greg h.slot o.ra + BitVec.ofInt 64 h.st.b
    let b := s.me.greg h.slot o.rb + BitVec.ofInt 64 h.st.c
    let c := s.me.greg h.slot o.rc
    let q := (i.extractLsb' 0 6).toNat
    let n := (i.extractLsb' 6 6).toNat + 1
    let offers (w : Instr) := Claim.offers s h o w false false false
    offers (.pgft h o) 1 (.pgft a b c q (i.getLsbD 6)) ∧ offers (.preq h o) (64 * n) (.preq q n) ∧
    offers (.wbk h o) 0 (.wbk q n) ∧ offers (.pmov h o) 0 (.pmov a b c) ∧ offers (.sset h o) 1 (.sset a b) ∧
    offers (.sins h o) 1 (.sins a) ∧ offers (.sage h o) 1 (.sage a i.toNat) ∧
    offers (.sdel h o) 1 (.sdel a b (i.getLsbD 0)) ∧
    offers (.smig h o) 1 (.smig a (i.extractLsb' 0 8).toNat (i.getLsbD 8)) ∧ offers (.pgap h o) 1 (.pgap a b) ∧
    Claim.offers s h o (.ssel h o) (o.qual.getLsbD 6) false false 1 (.ssel a b i.toNat) ∧
    Claim.offers s h o (.plan h o) (o.qual.getLsbD 6) false false 1 (.plan a)

/-- R132, R81, R136, R258: a channel refuses a command with `TIMING` (0x11) when it holds eight, when T is not later than c + 1, or
when T is not later than the start of the command before it; it refuses one with a destination in the current half as
`OWNERSHIP` (0x10), and one whose operands break its entry's limits as `ADDRESS` (0x12); a command that it accepts stands last
in its queue, and neither outcome changes memory. Accepted or refused, the command has named its quarters for an unwind of the
region in which it was issued (R258). That a refusal is recorded as a fault of the engine, not of the slot, is
log 20 (DEDUCED). -/
def Obligations.ChannelsAcceptInOrder : Prop :=
  ∀ (s : State) (k : Nat) (p : Pend) (ch : Bool) (m : Cmd), (s.core k).flt = none →
    let c := s.core k
    let q := bif ch then c.c1 else c.c0
    let late : Prop := 8 ≤ q.cmds.length ∨ m.start ≤ c.cyc ∨ ∃ l, q.cmds.getLast? = some l ∧ m.start ≤ l.start
    let t := s.accept k p ch m
    let named := (c.noteNames m.depth (m.names k)).crgn
    t.mem = s.mem ∧
    (∀ (i : Nat) (r : Crgn), c.crgn[i]? = some r → ∃ x, (t.core k).crgn[i]? = some x ∧ { x with named := r.named } = r ∧
      ∀ n, n ∈ x.named ↔ n ∈ r.named ∨ (i + m.depth = c.crgn.length ∧ n ∈ m.names k)) ∧
    (late → ∃ f, t = s.setCore k { c with flt := some f, crgn := named } ∧ f.f = c.cyc ∧ f.cause = 0x11 ∧ f.eng = true ∧ f.baddr = p.baddr) ∧
    (¬ late → m.kind.halves c.id = some c.half →
      ∃ f, t = s.setCore k { c with flt := some f, crgn := named } ∧ f.f = c.cyc ∧ f.cause = 0x10 ∧ f.eng = true ∧ f.baddr = p.baddr) ∧
    (¬ late → c.ownRefusal m.kind = false → c.operandsOk m.kind = false ∨ s.xFar k m.kind = true →
      ∃ f, t = s.setCore k { c with flt := some f, crgn := named } ∧ f.f = c.cyc ∧ f.cause = 0x12 ∧ f.eng = true ∧ f.baddr = p.baddr) ∧
    (¬ late → c.ownRefusal m.kind = false → c.operandsOk m.kind = true → s.xFar k m.kind = false →
      (bif ch then (t.core k).c1 else (t.core k).c0).cmds = q.cmds ++ [{ m with uid := s.nuid + 1 }] ∧ (t.core k).flt = none ∧
      (bif ch then (t.core k).c0 else (t.core k).c1) = (bif ch then c.c0 else c.c1))

/-! ### Stack words -/

namespace Sys2Proof.Claim

open Sys2Proof Sys2Proof.Machine

/-- The lane that issues. -/
def klane (s : State) : Lane := s.laneAt s.klane

/-- The refresh phase of a base-die cycle, with the PHASE of the module's present power-up (R244). -/
def phase (s : State) (t : Nat) : Nat := (t + 3900 - Config.refreshPhase s.epoch % 3900) % 3900

/-- No cycle of an occupancy lies in a refresh window of 240 cycles (R244). -/
def free' (s : State) (n : Nat) : Prop := ∀ i, i < n → 240 ≤ phase s (s.glob + i)

/-- A lane whose word has issued on the present cycle, with its reads and landings (R237). -/
def worded (s : State) (l : Lane) (w : BitVec 8) (occ : Nat) (es : List (Nat × KEff)) : Lane :=
  { l with
    word := l.idx, idx := l.idx + 1, next := s.glob + occ + w.toNat
    pend := l.pend ++ es.map (fun e => ⟨s.glob + e.1, s.glob, e.2⟩) }

/-- The state with the issuing lane replaced and everything else as it was. -/
def laned (s : State) (l : Lane) : Host.Outcome State Fault Refusal := .next { s with lanes := Sparse.put s.lanes s.klane l }

/-- A lock-step word also notes its occupancy (R244). -/
def locked (s : State) (occ : Nat) (l : Lane) : Lane := { l with lock := s.glob + occ, lockIss := s.glob, undo := [] }

/-- A program that aborts on the present cycle (R243): `word` is the index that its status word will name. -/
def aborts (s : State) (word cause : Nat) : Host.Outcome State Fault Refusal :=
  laned s { klane s with
    word := word, phase := .ending cause, discard := true, cycles := s.glob + 1 - (klane s).t0
    pend := (klane s).pend.filter (fun p => p.iss != s.glob) }

/-- `n` bytes at an offset from a base lie within its range (R352), from this physical address on. -/
def inBase (s : State) (b : BitVec 2) (off n pa : Nat) : Prop :=
  off + n ≤ (klane s).len.getD b.toNat 0 ∧ pa = (klane s).base.getD b.toNat 0 + off

/-- No error stands in the granules of HBM that `n` bytes from `pa` on meet. -/
def sound (s : State) (pa n : Nat) : Prop :=
  ∀ a, pa ≤ a → a < pa + n → ∀ e ∈ s.errs, ¬ (e.kind = 6 ∧ e.unit = a / 2 ^ 36 ∧ e.idx = a % 2 ^ 36 / 32)

/-- The first uncorrectable granule among those that `n` bytes from `pa` on meet. -/
def firstBad (s : State) (pa n g : Nat) : Prop :=
  g % 32 = 0 ∧ pa < g + 32 ∧ g < pa + n ∧ s.hbmBad g = true ∧ ∀ h, h % 32 = 0 → pa < h + 32 → h < g → s.hbmBad h = false

/-- They do not. -/
def outBase (s : State) (b : BitVec 2) (off n : Nat) : Prop := (klane s).len.getD b.toNat 0 < off + n

end Sys2Proof.Claim

/-- R237 to R243, R351 to R356: what each stack word does on its issue cycle t. `KRD`, `KWR` and the `KMAC` words read row k on
t + k; `KDQ` writes every accumulator on t + 32; `KEXP` writes output row k on t + k + 16; `KACR` clears the accumulators on t
+ 1 and writes them to a base or, with WIN = 1 and any BASE, to the scratch window; `KACT` lands its rows in ascending order, each on its own
arrival, a free choice, and lasts until the last (log 8: the model's choice); `KPRE` waits for the next cycle of its phase; `KEND` ends
the program. The cycle between which `KACR` acts, and what a word waits for, are log 27 (DEDUCED). -/
def Sys2Proof.Claim.StackWordsIssue : Prop :=
  ∀ (s : State) (w : BitVec 8) (r : KRow) (brow : BitVec 4) (half : Bool) (k0 : BitVec 12) (base : BitVec 2)
    (off : BitVec 24) (gc fmt db : BitVec 2) (b16 discard : Bool) (ph wrow : BitVec 12) (m1 arow : BitVec 6),
    let l := Claim.klane s
    let n := r.n1.toNat + 1
    let o := 256 * r.off.toNat
    let acc (j : Nat) : W32 := Sparse.get 0 l.acc j
    let arrival (e : Nat) : Nat := ((List.range (e + 1)).map (fun j => Config.choice (s.free + j))).foldl max 0
    let all := (List.range 512).flatMap (fun j => leBytes 4 (acc j).toNat)
    exec (.knop w) s = Claim.laned s (Claim.worded s l w 1 []) ∧
    exec (.kend w discard) s = Claim.laned s { Claim.worded s l w 1 [] with
      phase := .ending 0, discard := discard, cycles := s.glob + 1 - l.t0 } ∧
    (ph.toNat < 3900 → ∃ d, 1 ≤ d ∧ d ≤ 3900 ∧ Claim.phase s (s.glob + d) = ph.toNat ∧
      (∀ e, 1 ≤ e → e < d → Claim.phase s (s.glob + e) ≠ ph.toNat) ∧
      exec (.kpre w ph) s = Claim.laned s (Claim.worded s l w d [])) ∧
    (∀ rows, 64 * (wrow.toNat + (m1.toNat + 1)) ≤ l.slen → s.windowRows l wrow.toNat (m1.toNat + 1) = (.ok rows, s) →
      exec (.kact w wrow m1 arow) s = Claim.laned { s with free := s.free + (m1.toNat + 1) } (Claim.worded s l w
        (arrival m1.toNat + 1)
        ((rows.zipIdx).map (fun e => (arrival e.2, .buf (64 * ((arow.toNat + e.2) % 64)) e.1))))) ∧
    (∀ pa, n ≤ 16 → Claim.inBase s r.base o (256 * n) pa → Claim.free' s n →
      (Claim.sound s pa (256 * n) → exec (.krd w r brow) s = Claim.laned s (Claim.locked s n (Claim.worded s l w n
        ((List.range n).map (fun k => (k, .rdBuf (pa + 256 * k) (256 * ((brow.toNat + k) % 16)))))))) ∧
      exec (.kwr w r brow) s = Claim.laned s (Claim.locked s n (Claim.worded s l w n
        ((List.range n).map (fun k => (k, .rdOut (256 * ((brow.toNat + k) % 16)) (pa + 256 * k))))))) ∧
    (∀ pa, Claim.inBase s r.base o (256 * n) pa → Claim.free' s n → Claim.sound s pa (256 * n) →
      (exec (.kmac8 w r half k0) s = Claim.laned s (Claim.locked s n (Claim.worded s { l with acclive := true } w n
        ((List.range n).map (fun k => (k, .rdMac (pa + 256 * k) (256 * half.toNat) false (k0.toNat + k))))))) ∧
      exec (.kmac4 w r k0) s = Claim.laned s (Claim.locked s n (Claim.worded s { l with acclive := true } w n
        ((List.range n).map (fun k => (k, .rdMac (pa + 256 * k) 0 true (k0.toNat + k))))))) ∧
    (∀ pa g, gc.toNat < 3 → g = 32 * 2 ^ gc.toNat → Claim.inBase s base (256 * off.toNat) (4 * (512 / g)) pa →
      Claim.sound s pa (4 * (512 / g)) →
      exec (.kdq w base off gc) s = Claim.laned s (Claim.worded s l w 32 [(32, .accs ((List.range 512).map (fun j =>
        BitVec.ofNat 32 (r32 ((d32 (r32 (Fp.int (acc j).toInt))).mul (d32
          (leNat ((List.range 4).map (fun i => s.oldByte (hbmKey pa + (4 * (j / g) + i)))))))))))])) ∧
    (∀ pa dst bs, fmt.toNat < 3 → pa = l.base.getD r.base.toNat 0 + o →
      Claim.inBase s db 0 (256 * n) dst → (fmt.toNat = 2 → pa % 4096 = 0) → Claim.free' s n →
      expandBlocks (kexpSrc l r.base o) fmt.toNat b16 0 (if b16 then 2 * n else 4 * n) s =
        (.ok bs, s) →
      exec (.kexp w r fmt b16 db) s = Claim.laned s (Claim.locked s n (Claim.worded s l w n
        ((List.range n).map (fun k => (k + 16, .hbm (dst + 256 * k) ((bs.drop (256 * k)).take 256))))))) ∧
    (∀ pa, Claim.inBase s base (256 * off.toNat) 2048 pa →
      exec (.kacr w base false off) s = Claim.laned s (Claim.worded s l w 8 [(1, .clear), (1, .hbm pa all)])) ∧
    (off.toNat ≤ 4064 → 64 * off.toNat + 2048 ≤ l.slen → s.windowOpen l (64 * off.toNat) 2048 = true →
      exec (.kacr w base true off) s = Claim.laned s (Claim.worded s l w 8 [(1, .clear), (1, .win (64 * off.toNat) all)]))

namespace Sys2Proof.Claim

open Sys2Proof Sys2Proof.Machine

/-- A module on whose present base-die cycle one lane alone has something in flight, `p`, and its program runs on. -/
def onlyLane (s : State) (n : Nat) (l : Lane) (p : KPend) : Prop :=
  s.lanes = [(n, l)] ∧ l.pend = [p] ∧ l.phase = .running ∧ p.due = s.glob ∧ s.insts = [] ∧ s.met = [] ∧ s.was = [] ∧
  ∀ q, (s.port q).held = []

end Sys2Proof.Claim

/-- R237, R238, R240, R353: the lanes' part of a global cycle. A row of `KMAC8` or `KMAC4` is read with its activation, buffer[(k0 +
r) mod 4,096], and 16 cycles later weight j, an INT8 value or the nibble that R89 packs, times the activation is added to
accumulator 256h + j, or j: clamped with SAT, and else modulo 2^32; the other accumulators stay. A row of `KRD` is read and
written into the buffer, one of `KWR` read from the buffer and written to HBM, and `KACR` clears the accumulators. -/
def Sys2Proof.Claim.RowsMultiplyIntoAccumulators : Prop :=
  ∀ (s : State) (n : Nat) (l : Lane) (p : KPend) (pa pos first k : Nat) (four : Bool) (ws : List Byte) (a : Int),
    Claim.onlyLane s n l p →
    let row := rdBytes s.mem (hbmKey pa) 256
    let buf (i : Nat) : Byte := Sparse.get 0 l.buf (i % 4096)
    let weight (j : Nat) : Int :=
      if four then (BitVec.ofNat 4 ((ws.getD (j / 2) 0).toNat / 16 ^ (j % 2))).toInt else (ws.getD j 0).toInt
    let size := if four then 512 else 256
    ∃ t, exec .globalCycle s = .next t ∧ t.lanes.map (·.1) = [n] ∧
      let next (e : KEff) : Prop := t.mem = s.mem ∧ t.laneAt n = { l with pend := [⟨s.glob + 16, p.iss, e⟩] }
      (p.eff = .rdMac pa first four k → next (.mac first four row (buf k).toInt)) ∧
      (p.eff = .rdBuf pa pos → next (.buf pos row)) ∧
      (p.eff = .rdOut pos pa → next (.hbm pa ((List.range 256).map (fun i => buf (pos + i))))) ∧
      (p.eff = .mac first four ws a → ws.length = 256 → first + size ≤ 512 →
        t.mem = s.mem ∧ { t.laneAt n with acc := l.acc } = { l with pend := [] } ∧ ∀ j,
          let old := (Sparse.get 0 l.acc j).toInt
          let sum := old + weight (j - first) * a
          Sparse.get 0 (t.laneAt n).acc j = if first ≤ j ∧ j < first + size then
            BitVec.ofInt 32 (if l.sat then max (-2 ^ 31) (min sum (2 ^ 31 - 1)) else sum) else Sparse.get 0 l.acc j) ∧
      (p.eff = .buf pos ws → ws.length ≤ 4096 → t.mem = s.mem ∧ { t.laneAt n with buf := l.buf } = { l with pend := [] } ∧
        (∀ i, i < ws.length → Sparse.get 0 (t.laneAt n).buf ((pos + i) % 4096) = ws.getD i 0) ∧
        ∀ i, i < 4096 → (∀ j, j < ws.length → (pos + j) % 4096 ≠ i) → Sparse.get 0 (t.laneAt n).buf i = buf i) ∧
      (p.eff = .hbm pa ws → s.glob ≥ l.lock → t.laneAt n = { l with pend := [] } ∧ ∀ x, rdByte t.mem x =
        if hbmKey pa ≤ x ∧ x < hbmKey pa + ws.length then ws.getD (x - hbmKey pa) 0 else rdByte s.mem x) ∧
      (p.eff = .clear → t.mem = s.mem ∧ t.laneAt n = { l with pend := [], acclive := false, acc := [] })

/-- R244, R351, R352, R243, R260, R121: where a program aborts at a word. A lock-step word whose occupancy meets a refresh
window is not issued (`KREF`, 0x23); a range that leaves its base or its window is `ADDRESS` (0x12); a value out of range is
`ILLEGAL` (0x01); an uncorrectable row poisons its page and is `UNCORR` (0x18), or `WEIGHT_POISON` (0x25) in a weight range; a
window row that its core may not write is `OWNERSHIP` (0x10). Which cause a base outside the local stack has, and on which
cycle an uncorrectable row is found, are log 27 (DEDUCED). -/
def Sys2Proof.Claim.StackWordsAbort : Prop :=
  ∀ (s : State) (w : BitVec 8) (r : KRow) (brow : BitVec 4) (half : Bool) (k0 ph : BitVec 12) (base gc db : BitVec 2)
    (off : BitVec 24) (b16 : Bool) (fmt : BitVec 2) (wrow : BitVec 12) (m1 arow : BitVec 6),
    let n := r.n1.toNat + 1
    let o := 256 * r.off.toNat
    let next := (Claim.klane s).idx
    let last := (Claim.klane s).word
    (¬ Claim.free' s n →
      (n ≤ 16 → exec (.krd w r brow) s = Claim.aborts s last 0x23 ∧ exec (.kwr w r brow) s = Claim.aborts s last 0x23) ∧
      exec (.kmac8 w r half k0) s = Claim.aborts s last 0x23 ∧ exec (.kmac4 w r k0) s = Claim.aborts s last 0x23) ∧
    (Claim.free' s n → Claim.outBase s r.base o (256 * n) →
      (n ≤ 16 → exec (.krd w r brow) s = Claim.aborts s next 0x12 ∧ exec (.kwr w r brow) s = Claim.aborts s next 0x12) ∧
      exec (.kmac8 w r half k0) s = Claim.aborts s next 0x12 ∧ exec (.kmac4 w r k0) s = Claim.aborts s next 0x12) ∧
    (∀ pa g, Claim.free' s n → Claim.inBase s r.base o (256 * n) pa → Claim.firstBad s pa (256 * n) g →
      let l := Claim.klane s
      let va := (l.bva.getD r.base.toNat (0, 0)).1 + o + (g - pa)
      let poisoned := s.poison (dieOf l.core) l.asid va g
      let cause := if s.inWeights l.asid va then 0x25 else 0x18
      (n ≤ 16 → exec (.krd w r brow) s = Claim.aborts poisoned next cause) ∧
      exec (.kmac8 w r half k0) s = Claim.aborts poisoned next cause ∧
      exec (.kmac4 w r k0) s = Claim.aborts poisoned next cause) ∧
    (∀ s1 c x, Claim.free' s n → fmt.toNat < 3 → 256 * n ≤ (Claim.klane s).len.getD db.toNat 0 →
      (fmt.toNat = 2 → ((Claim.klane s).base.getD r.base.toNat 0 + o) % 4096 = 0) →
      expandBlocks (kexpSrc (Claim.klane s) r.base o) fmt.toNat b16 0 (if b16 then 2 * n else 4 * n) s = (.err c x, s1) →
      s1.glob = s.glob → s1.epoch = s.epoch → s1.klane = s.klane →
      exec (.kexp w r fmt b16 db) s = Claim.aborts s1 (Claim.klane s1).idx c) ∧
    (Claim.free' s n → fmt.toNat < 3 → Claim.outBase s db 0 (256 * n) ∨
        (fmt = 2 ∧ ((Claim.klane s).base.getD r.base.toNat 0 + o) % 4096 ≠ 0) →
      exec (.kexp w r fmt b16 db) s = Claim.aborts s next 0x12) ∧
    (¬ Claim.free' s n → fmt.toNat = 3 ∨ Claim.outBase s db 0 (256 * n) →
      exec (.kexp w r fmt b16 db) s = Claim.aborts s last 0x23) ∧
    ((Claim.klane s).slen < 64 * (wrow.toNat + (m1.toNat + 1)) → exec (.kact w wrow m1 arow) s = Claim.aborts s next 0x12) ∧
    (off.toNat ≤ 4064 → (Claim.klane s).slen < 64 * off.toNat + 2048 →
      exec (.kacr w base true off) s = Claim.aborts s next 0x12) ∧
    (off.toNat ≤ 4064 → 64 * off.toNat + 2048 ≤ (Claim.klane s).slen →
      s.windowOpen (Claim.klane s) (64 * off.toNat) 2048 = false → exec (.kacr w base true off) s = Claim.aborts s next 0x10) ∧
    (16 < n → exec (.krd w r brow) s = Claim.aborts s next 0x01 ∧ exec (.kwr w r brow) s = Claim.aborts s next 0x01) ∧
    (3900 ≤ ph.toNat → exec (.kpre w ph) s = Claim.aborts s next 0x01) ∧
    (exec (.kdq w base off 3) s = Claim.aborts s next 0x01) ∧
    (gc ≠ 3 → Claim.outBase s base (256 * off.toNat) (4 * (512 / (32 * 2 ^ gc.toNat))) →
      exec (.kdq w base off gc) s = Claim.aborts s next 0x12) ∧
    (Claim.free' s n → exec (.kexp w r 3 b16 db) s = Claim.aborts s next 0x01) ∧
    (Claim.outBase s base (256 * off.toNat) 2048 → exec (.kacr w base false off) s = Claim.aborts s next 0x12) ∧
    (4064 < off.toNat → exec (.kacr w base true off) s = Claim.aborts s next 0x01)

/-! ### Steps, bundles and stalls -/

namespace Sys2Proof.Claim

open Sys2Proof Sys2Proof.Machine

/-- No error stands in the registers and tables of the core that issues: the `s`, `g` and `h` files, predicates, masks, tiles,
tensor, shape and leaf tables, control registers (R264). -/
def intact (s : State) : Prop := ∀ e ∈ s.errs, ¬ (9 ≤ e.kind ∧ e.kind ≤ 18 ∧ e.unit = s.cur)

/-- The instructions of a list act one after another, each on registers that hold no error. -/
def runs : List Instr → State → State → Prop
  | [], s, t => t = s
  | i :: l, s, t => intact s ∧ ∃ u, exec i s = .next u ∧ runs l u t

/-- The bytes at a core's program counter decode to a bundle, and no word of its instruction scratch holds an error. -/
def fetches (s : State) (k : Nat) (b : Bundle) : Prop :=
  (∀ e ∈ s.errs, ¬ (e.kind = 5 ∧ e.unit = k)) ∧
  decodeBundle (rdBytes s.mem (iscKey k (s.core k).half (s.core k).pc) (min 42 (16384 - (s.core k).pc))) = .ok b

/-- The engine words of a bundle by slot. -/
def engine (b : Bundle) : List (Nat × Option Instr) := [(1, b.v0), (2, b.v1), (3, b.m), (4, b.c0), (5, b.c1)]

/-- A core whose bundle issues: the next bundle stands behind this one, and every engine word with its K bit set arms its
slot (R74). -/
def begins (s : State) (k : Nat) (b : Bundle) : State :=
  s.setCore k { s.core k with
    npc := (s.core k).pc + b.len, nhalf := (s.core k).half
    armed := (engine b).filterMap (fun e => match e.2 with
      | some i => if kBit i then some (e.1, some ⟨i, 0⟩) else none
      | none => none) }

/-- A fault that a bundle has just recorded takes the global cycle (R251). -/
def timed (s : State) (k : Nat) : State :=
  match (s.core k).flt with
  | some f => if f.glob.isSome then s else s.setCore k { s.core k with flt := some { f with glob := some s.glob } }
  | none => s

/-- The region that an effect opens (R256). -/
def opens (e : Eff) : Option Crgn :=
  match e with
  | .crgnOpen id handler half => some ⟨id, handler, half, []⟩
  | _ => none

/-- A core whose bundle has issued: the regions that it opens are open from this cycle on (R340). -/
def opened (c : Core) : Core :=
  { c with
    crgn := (c.pend.filterMap (fun p => opens p.eff)).reverse ++ c.crgn
    pend := c.pend.filter (fun p => (opens p.eff).isNone) }

/-- A core after the first issue of its bundle: it goes on, or it has further issues of this bundle to make (R78). -/
def moved (s : State) (k : Nat) (b : Bundle) : State :=
  timed (s.setCore k (
    let c := { opened (s.core k) with stall := none, stopAt := none }
    if b.rep = 0 then { c with pc := c.npc, half := c.nhalf, rep := 0, rlen := 0, atDrain := b.drain && c.calm }
    else { c with rep := b.rep.toNat, rlen := b.len })) k

/-- No check of levels 3 to 6 of R305 stops a bundle. -/
def passes (c : Core) (b : Bundle) : Prop :=
  (∀ e ∈ (c.gather b).ops, steppedBad e.2 = false) ∧ c.checks b (c.gather b) = none

/-- A core that makes a first issue with no slot armed and no stall. -/
def fresh (c : Core) : Prop := c.armed = [] ∧ c.rlen = 0 ∧ c.stall = none

/-- The words of the engine slots that are present. -/
def engineWords (b : Bundle) : List Instr := (engine b).filterMap (·.2)

/-- The S word of some bytes that begin a bundle whose header shows one, whatever its CLASS and bits [1:0] are (log 19), and the length
of that bundle. -/
def heads (bs : List Byte) (i : Instr) : Prop :=
  let h := leNat (bs.take 2)
  h / 2 ^ 15 % 2 = 1 ∧ 6 ≤ bs.length ∧
  sHasX (leNat ((bs.drop 2).take 4)) = false ∧ decodeS (leNat ((bs.drop 2).take 4)) 0 = .ok i

def headLen (bs : List Byte) : Nat := 2 + slotLen (leNat (bs.take 2)) + if leNat (bs.take 2) / 4 % 4 = 1 then 4 else 0

/-- Only the core's turn to issue stands before a step. -/
def turnOf (s : State) (k : Nat) (rest : List Nat) : Prop :=
  s.inbox = [] ∧ s.power = true ∧ s.urgent = none ∧ s.turn = k :: rest ∧ (s.core k).issues = true

end Sys2Proof.Claim

/-- R67, R74, R78, R248, R291, R305: a step runs what is decoded. An event that has arrived is executed. Else, on a core's turn, the
words of the bundle at its program counter are executed in slot order, S first, and the core goes on behind the bundle; a
bundle that its S word holds stays where it is, whatever its header and its other words are (log 19); else one that fails a check of R305, or bytes that
decode to no bundle, raise a fault of issue. Else a lane executes its next word. That an event of the inbox comes first, then the turns of cores, then accesses that wait, engines and lanes, and the
order of the cores, are log 1 and log 17, and that a module without power stays as it is is log 40 (the model's choices). -/
def Obligations.StepRunsTheDecodedInstruction : Prop :=
  ∀ (s : State),
    (∀ i rest, s.inbox = i :: rest → isEvent i = true → step s = exec i { s with inbox := rest }) ∧
    (s.inbox = [] → s.power = false → step s = .next s) ∧
    (∀ k rest b, Claim.turnOf s k rest → s.resumable k = false → Claim.fresh (s.core k) → Claim.fetches s k b →
      let s1 : State := { s with turn := rest, cur := k }
      ((bundleWords b).all (·.isNone) = true → step s = exec (.emptyBundle b.drain b.rep) s1) ∧
      ((bundleWords b).all (·.isNone) = false → Claim.passes (s.core k) b →
        ∀ u t, Claim.runs b.s.toList (Claim.begins s1 k b) u → (u.core k).stall = none →
          Claim.runs (Claim.engineWords b) u t → (t.core k).rlen = 0 → step s = .next (Claim.moved t k b)) ∧
      ((bundleWords b).all (·.isNone) = false → ¬ Claim.passes (s.core k) b → (s.core k).flt = none →
        ∀ u, Claim.runs b.s.toList (Claim.begins s1 k b) u → (u.core k).stall = none →
          ∃ t f, step s = .next t ∧ (t.core k).flt = some f ∧ (f.cause = 0x01 ∨ f.cause = 0x02 ∨ f.cause = 0x03) ∧
            f.issue = true ∧ f.f = (s.core k).cyc ∧ (t.core k).pc = (s.core k).pc ∧ (t.core k).pend = (s.core k).pend ∧
            (t.core k).stall = none ∧ t.mem = s.mem ∧ t.turn = rest) ∧
      (∀ i u st, b.s = some i → Claim.intact s1 → exec i (Claim.begins s1 k b) = .next u → (u.core k).stall = some st →
        ∃ t, step s = .next t ∧ (t.core k).pc = (u.core k).pc ∧ (t.core k).half = (u.core k).half ∧
          (t.core k).stall = some st ∧ (t.core k).armed = [] ∧ t.mem = u.mem ∧ t.turn = u.turn)) ∧
    (∀ k rest e, Claim.turnOf s k rest → s.resumable k = false → (s.core k).flt = none →
      (∀ e ∈ s.errs, ¬ (e.kind = 5 ∧ e.unit = k)) →
      let bs := rdBytes s.mem (iscKey k (s.core k).half (s.core k).pc) (min 42 (16384 - (s.core k).pc))
      decodeBundle bs = .error e →
      ((∀ i, Claim.heads bs i → Claim.stalls i = false) →
        ∃ t f, step s = .next t ∧ (t.core k).flt = some f ∧ f.cause = 0x01 ∧ f.issue = true ∧ f.f = (s.core k).cyc ∧
          (t.core k).pc = (s.core k).pc ∧ (t.core k).pend = (s.core k).pend ∧ t.mem = s.mem) ∧
      ∀ i u st, Claim.heads bs i → Claim.stalls i = true → (s.core k).stall = none →
        let s1 : State := { s with turn := rest, cur := k }
        Claim.intact s1 →
        exec i (s1.setCore k { s.core k with npc := (s.core k).pc + Claim.headLen bs, nhalf := (s.core k).half }) = .next u →
        (u.core k).stall = some st →
        ∃ t, step s = .next t ∧ (t.core k).pc = (u.core k).pc ∧ (t.core k).half = (u.core k).half ∧
          (t.core k).stall = some st ∧ ((u.core k).flt = none → (t.core k).flt = none) ∧ t.mem = u.mem ∧ t.turn = u.turn) ∧
    (∀ l i, s.inbox = [] → s.power = true → s.urgent = none → s.turn = [] → s.waiting = [] → s.flits = [] → s.background = none →
      s.laneTurn = some l →
      s.laneWord l = some i → step s = exec i { s with klane := l })

/-- R291, R75, R76, R78: an empty bundle moves the core on by its two bytes, or repeats; each armed slot issues its word
again, in slot order, stepped once more by its step register, and stays armed. -/
def Sys2Proof.Claim.EmptyBundlesReissueArmedSlots : Prop :=
  ∀ (s : State) (drain : Bool) (rep : BitVec 5),
    let c := s.me
    let b : Bundle := ⟨drain, rep, none, none, none, none, none, none, 2⟩
    (Claim.fresh c → Claim.passes c b → exec (.emptyBundle drain rep) s = .next (Claim.moved (Claim.begins s s.cur b) s.cur b)) ∧
    (∀ sl a, c.armed = [(sl, some a)] → 1 ≤ sl → sl ≤ 5 → c.rlen = 0 → c.stall = none → kBit a.ins = true → Claim.passes c b →
      Claim.intact s →
      let step := Sparse.get 0 c.cr (0x017 + sl)
      let d (lo : Nat) : Int := (step.extractLsb' lo 21).toInt * (a.j + 1)
      let s1 := s.setCore s.cur { c with npc := c.pc + 2, nhalf := c.half, armed := [(sl, some { a with j := a.j + 1 })] }
      ∀ t, exec (withOff a.ins ⟨d 0, d 21, d 42⟩) s1 = .next t → (t.core s.cur).rlen = 0 →
        exec (.emptyBundle drain rep) s = .next (Claim.moved t s.cur b)) ∧
    (∀ l : List (Nat × Armed), c.armed = l.map (fun e => (e.1, some e.2)) → l.Pairwise (fun a b => a.1 < b.1) →
      (∀ e ∈ l, 1 ≤ e.1 ∧ e.1 ≤ 5 ∧ kBit e.2.ins = true) → c.rlen = 0 → c.stall = none → Claim.passes c b →
      let d (e : Nat × Armed) (lo : Nat) : Int := ((Sparse.get 0 c.cr (0x017 + e.1)).extractLsb' lo 21).toInt * (e.2.j + 1)
      let s1 := s.setCore s.cur { c with
        npc := c.pc + 2, nhalf := c.half, armed := l.map (fun e => (e.1, some { e.2 with j := e.2.j + 1 })) }
      ∀ t, Claim.runs (l.map (fun e => withOff e.2.ins ⟨d e 0, d e 21, d e 42⟩)) s1 t → (t.core s.cur).rlen = 0 →
        exec (.emptyBundle drain rep) s = .next (Claim.moved t s.cur b))

/-- R428, R43, R67: when the condition of a stalled bundle holds, the bundle issues: its wait lets it go, its engine words act in
slot order on the registers as they stand then, and the core goes on behind it. That it issues on the very cycle on which the
condition holds is log 7 (the model's reading). -/
def Sys2Proof.Claim.StalledBundlesGoOn : Prop :=
  ∀ (s : State) (k : Nat) (rest : List Nat) (st : Stall) (b : Bundle) (g a : BitVec 5) (q : BitVec 6) (n : BitVec 4)
    (ch acq z : Bool) (cc sc : BitVec 3) (a' : BitVec 5) (i : Instr),
    s.turn = k :: rest → (s.core k).issues = true → (s.core k).stall = some st → s.stallMet k st = true →
    Claim.fetches s k b → (s.core k).armed = [] → (s.core k).rlen = 0 → Claim.passes (s.core k) b → b.s = some i →
    i ∈ [Instr.waitOwn g q, .waitWp g ch a, .waitBar g n, .waitVal g acq cc a a' sc z, .waitCyc g a] →
    let s1 := Claim.begins { s with turn := rest, cur := k } k b
    let s2 := s1.setCore k { s1.core k with stall := none }
    ∀ t, Claim.runs (Claim.engineWords b) s2 t → (t.core k).rlen = 0 →
      exec (.bundleStallResume k) s = .next (Claim.moved t k b)

/-! ### Faults -/

namespace Sys2Proof.Claim

open Sys2Proof Sys2Proof.Machine

/-- No result of a core slot is still to land (R250). -/
def settled (c : Core) : Prop := ∀ p ∈ c.pend, p.slot ≠ 6 → p.eff.isResult = false

/-- A fault whose entry cycle has come: after its detection and after the last landing (R250). -/
def entered (c : Core) (f : Flt) : Prop := f.f < c.cyc ∧ f.last < c.cyc ∧ settled c

/-- The first bundle that a fault leaves unissued, and how many of its issues are not made (R252). -/
def left' (c : Core) : Nat × Nat :=
  match c.stopAt with
  | some n => (c.pc, n)
  | none => if c.rep = 0 then (c.pc, 0) else (c.pc + c.rlen, c.rep)

/-- The trap registers of R252 after a trap entry (`st` true) or an unwind; every other control register is as it was. -/
def trapped (c : Core) (f : Flt) (st : Bool) (n : Nat) : W64 :=
  if n = 0x048 then BitVec.ofNat 64 (st.toNat * 2 ^ 31 + f.multi.toNat * 2 ^ 24 + (left' c).2 % 32 * 2 ^ 16 +
    f.sub % 2 ^ 8 * 2 ^ 8 + f.cause % 2 ^ 8)
  else if n = 0x049 then BitVec.ofNat 64 (c.half.toNat * 2 ^ 14 + (left' c).1 % 2 ^ 14)
  else if n = 0x04A then BitVec.ofNat 64 f.baddr
  else if n = 0x04B then BitVec.ofNat 64 (f.eng.toNat * 2 ^ 3 + f.slot)
  else if n = 0x04C then f.data
  else Sparse.get 0 c.cr n

/-- What one trap or unwind adds to its instance (R251): FAULTS, and the first of them fixes the cause and the core. -/
def faulted (c : Core) (k cause glob : Nat) (i : Inst) : Inst :=
  let first : Bool := match i.ffirst with
    | none => true
    | some o => decide (glob < o.1 ∨ glob = o.1 ∧ k < o.2)
  if i.id = c.inst then
    { i with
      faults := min (i.faults + 1) 0xFFFFFFFF
      cause := if first then cause else i.cause
      fpcore := if first then k else i.fpcore
      flcore := if first then c.ldie * 576 + c.lrow * 24 + c.lcol else i.flcore
      ffirst := if first then some (glob, k) else i.ffirst }
  else i

end Sys2Proof.Claim

/-- R250 to R252: a core outside stub mode whose fault no containment region takes enters its stub on the entry cycle. The trap
registers are written, every slot is disarmed, the core is in stub mode and its next bundle is at 14,336 plus OFF in the same
half; nothing else of the core changes, and no byte of memory. TRAPADDR and REPLEFT of a repeated bundle, the bundle behind it
and the issues still to make, are log 20 (DEDUCED). -/
def Obligations.TrapEntrySavesAndEntersTheStub : Prop :=
  ∀ (s : State) (k : Nat) (f : Flt), (s.core k).run = true → (s.core k).flt = some f → (s.core k).stub = false →
    f.depth = 0 ∨ (s.core k).crgn = [] → Claim.entered (s.core k) f →
    let c := s.core k
    ∃ t, exec (.trapEntry k) s = .next t ∧ (t.core k).pc = 14336 + (Sparse.get 0 c.cr 0x080).toNat % 2048 ∧
      (t.core k).stub = true ∧ (t.core k).armed = [] ∧ (t.core k).flt = none ∧
      (∀ n, Sparse.get 0 (t.core k).cr n = Claim.trapped c f true n) ∧
      { t.core k with pc := c.pc, stub := c.stub, armed := c.armed, flt := c.flt, cr := c.cr, stall := c.stall
                      stopAt := c.stopAt, rep := c.rep, rlen := c.rlen } = c ∧
      (∀ j, j ≠ k → t.core j = s.core j) ∧ t.mem = s.mem ∧ k ∈ t.turn ∧
      t.insts = s.insts.map (Claim.faulted c k f.cause (f.glob.getD s.glob))

/-- R256 to R258, R252: a fault inside containment regions first, once the bundle of f has issued, cancels the commands of the
region and of those within it that have not started. Once the others and the results have ended, the regions are left, the
quarters that their commands named return to CORE and their W clears, s1, s2 and s3 hold the cause, the identifier and the data, and the next bundle is the handler, or where
its half may not be entered the stub. Which region a fault on f unwinds is log 42, the trap registers of a repeated bundle are
log 20, and the quarters of completed commands of the region that return too are log 22 (the model's readings). -/
def Obligations.ContainmentUnwindsToTheHandler : Prop :=
  ∀ (s : State) (k g : Nat) (f : Flt) (r : Crgn), (s.core k).run = true → (s.core k).flt = some f →
    g = min f.depth (s.core k).crgn.length → 0 < g → (s.core k).crgn[(s.core k).crgn.length - g]? = some r →
    s.engUnstarted k g = false → k ∉ s.turn →
    let c := s.core k
    let gone (m : Cmd) : Bool := decide (g ≤ m.depth) &&
      (if m.kind.rows || m.kind == .fence then m.phase == .held && decide (f.f < m.start) else m.phase != .handed)
    let inside := c.crgn.take (c.crgn.length + 1 - g)
    let back (q : Nat) : Prop := q < 64 ∧ c.owner q = .engine ∧ ∃ x ∈ inside, k * 64 + q ∈ x.named
    ((∃ m ∈ c.held, gone m = true) → ∃ t, exec (.containmentUnwind k) s = .next t ∧
      (t.core k) = { c with c0 := { c.c0 with cmds := c.c0.cmds.filter (fun m => !gone m) }
                            c1 := { c.c1 with cmds := c.c1.cmds.filter (fun m => !gone m) }
                            flt := some { f with last := max f.last c.cyc } } ∧ t.mem = s.mem) ∧
    ((∀ m ∈ c.held, gone m = false) → Claim.entered c f → (∀ d ∈ s.engineWork k, d < g) →
      (c.target r.half = false → c.written r.half = false → ∃ t, exec (.containmentUnwind k) s = .next t ∧
        (t.core k).pc = r.handler ∧ (t.core k).half = r.half ∧ (t.core k).armed = [] ∧ (t.core k).stub = c.stub ∧
        (t.core k).crgn = c.crgn.drop (c.crgn.length + 1 - g) ∧ (t.core k).flt = none ∧
        (t.core k).rdS 1 = BitVec.ofNat 64 f.cause ∧ (t.core k).rdS 2 = BitVec.ofNat 64 r.id ∧ (t.core k).rdS 3 = f.data ∧
        (∀ n, 3 < n → (t.core k).rdS n = c.rdS n) ∧ (∀ n, Sparse.get 0 (t.core k).cr n = Claim.trapped c f false n) ∧
        (∀ q, (back q → (t.core k).owner q = .core ∧ Sparse.get false (t.core k).wq q = false ∧
            Sparse.get 0 (t.core k).strm q = 0) ∧
          (¬ back q → (t.core k).owner q = c.owner q ∧ Sparse.get false (t.core k).wq q = Sparse.get false c.wq q ∧
            Sparse.get 0 (t.core k).strm q = Sparse.get 0 c.strm q)) ∧
        (t.core k).x = c.x ∧ (t.core k).y = c.y ∧ (t.core k).p = c.p ∧ t.mem = s.mem ∧ k ∈ t.turn ∧
        t.insts = s.insts.map (Claim.faulted c k f.cause (f.glob.getD s.glob))) ∧
      (c.target r.half = true ∨ c.written r.half = true → ∃ t, exec (.containmentUnwind k) s = .next t ∧
        (t.core k).pc = 14336 + (Sparse.get 0 c.cr 0x080).toNat % 2048 ∧ (t.core k).stub = true ∧ (t.core k).armed = [] ∧
        (t.core k).crgn = c.crgn ∧ (∀ n, Sparse.get 0 (t.core k).cr n = Claim.trapped c f true n) ∧ t.mem = s.mem))

namespace Sys2Proof.Claim

open Sys2Proof Sys2Proof.Machine

/-- A core in the midst of a repeated bundle: it is yet to make further issues of it (R78). -/
abbrev midst (c : Core) : Prop := c.run = true ∧ c.exited = false ∧ c.rep ≠ 0 ∧ c.flt = none

/-- A core that issues no more from `s` on (R255): of its commands only those stand that have started. -/
def halts (s t : State) (j : Nat) : Prop :=
  (t.core j).exited = true ∧ (t.core j).flt = none ∧ (t.core j).stall = none ∧ j ∉ t.turn ∧
  (t.core j).pend = (s.core j).pend.filter (fun p => !p.eff.isAccept) ∧ (t.core j).issues = false ∧
  ∀ m ∈ (t.core j).held, m ∈ (s.core j).held ∧ m.unstarted 0 (s.core j).cyc = false

end Sys2Proof.Claim

/-- R254, R255, R78, R140, R263, R430: an instance with a core in the stub is killed: none of its cores issues again past its
bundle boundary, which a repeated bundle reaches with its last issue; commands that have not started or not been accepted are
cancelled and what is in flight lands; a freeze ends for its whole group; an armed
error injection flips one stored bit or marks one word, and disarms; a `WAIT.VAL` reads its address and notes whether its
condition holds. That the stub is a kill at once is log 11, and what an error mark carries is log 37 (the model's choices). -/
def Obligations.KillsFreezesInjectionsAndWaitReads : Prop :=
  ∀ (s : State) (k : Nat),
    let c := s.core k
    let midst (j : Nat) : Prop := Claim.midst (s.core j)
    let halts (t : State) (j : Nat) : Prop := Claim.halts s t j
    (∀ i x, s.inst? i = some x → x.alive = true → (∃ j ∈ s.instCores i, (s.core j).stub = true) →
      ∃ t, exec (.killInstance i) s = .next t ∧ t.inst? i = some { x with phase := .ending 1 } ∧ t.mem = s.mem ∧
        ∀ j ∈ s.instCores i, (midst j → t.core j = s.core j ∧ (j ∈ t.turn ↔ j ∈ s.turn)) ∧ (¬ midst j → halts t j)) ∧
    (∀ i x, s.inst? i = some x → (∃ n, x.phase = .ending n) ∨ x.phase = .vanish →
      (∃ j ∈ s.instCores i, (s.core j).exited = false ∧ ¬ midst j) →
      ∃ t, exec (.killInstance i) s = .next t ∧ t.insts = s.insts ∧ t.mem = s.mem ∧
        ∀ j ∈ s.instCores i, ((s.core j).exited = false ∧ ¬ midst j → halts t j) ∧
          ((s.core j).exited = true ∨ midst j → t.core j = s.core j)) ∧
    (c.freeze = 1 → ∃ t, exec (.freezeEnd k) s = .next t ∧ { t with cores := s.cores } = s ∧
      ∀ j, t.core j = if j = k ∨ j ∈ s.groupOf k then { s.core j with freeze := 0, frozen := false } else s.core j) ∧
    (let v := (Sparse.get 0 c.cr 0x04E).toNat
     let w := injWord v
     c.run = true → v.testBit 63 = true → c.cyc % 2 ^ 24 = v % 2 ^ 24 →
      ∃ t, exec (.errinjFlip k) s = .next t ∧ Sparse.get 0 (t.core k).cr 0x04E = BitVec.ofNat 64 (v - 2 ^ 63) ∧
        (v / 2 ^ 61 % 4 = 0 → t.errs = s.errs.filter (fun e => !(e.kind == w.1 && e.unit == k && e.idx == w.2.1))) ∧
        (v / 2 ^ 61 % 4 = 0 → w.1 = 0 →
          ∀ a, rdByte t.mem a = if a = scrKey k (8 * w.2.1 + w.2.2 / 8) then
            rdByte s.mem a ^^^ BitVec.ofNat 8 (2 ^ (w.2.2 % 8)) else rdByte s.mem a) ∧
        (v / 2 ^ 61 % 4 = 0 → w.1 = 4 → t.mem = s.mem ∧
          ∀ n, Sparse.get 0 (t.core k).z n = if n = w.2.1 then
            Sparse.get 0 c.z n ^^^ BitVec.ofNat 32 (2 ^ w.2.2) else Sparse.get 0 c.z n) ∧
        (v / 2 ^ 61 % 4 ≠ 0 → t.mem = s.mem ∧ (t.core k).x = c.x ∧
          t.errs = s.errs.filter (fun e => !(e.kind == w.1 && e.unit == k && e.idx == w.2.1)) ++
            [⟨w.1, k, w.2.1, decide (v / 2 ^ 61 % 4 = 2 ∨ (s.errOf w.1 k [w.2.1]).isSome)⟩])) ∧
    (∀ (a v : W64) (z : Bool) (cc : BitVec 3) (last : Nat) (o : Opnd) (bs : List Byte) (s1 : State), c.run = true →
      c.stall = some (.val a v z cc.toNat false last) → c.flt = none → c.frozen = false → c.stopped = false → last ≤ c.cyc →
      opndOf k a = some o → s.engRead (s.who k) false o (bif z then 8 else 4) = (.ok bs, s1) →
      let n := bif z then 64 else 32
      exec (.waitValRead k) s = .next ((s1.quit (s.who k)).setCore k { s1.core k with
        stall := some (.val a v z cc.toNat (condHolds n cc.toNat (leNat bs) (v.toNat % 2 ^ n)) (c.cyc + 1)) }))

/-! ### Launches, pre-emption and retirement -/

namespace Sys2Proof.Claim

open Sys2Proof Sys2Proof.Machine

/-- No event ring is enabled, so that no event writes memory (R280). -/
def noRing (s : State) : Prop := ∀ p, (s.port p).even = false

/-- The 64 bytes of a completion record, field by field (R52). -/
def isRecord (r : List Byte) (x : Inst) (status glob : Nat) : Prop :=
  let holds (off n v : Nat) : Prop := fieldAt r off n = v % 2 ^ (8 * n)
  let first (v : Nat) : Nat := if x.faults = 0 then 0 else v
  r.length = 64 ∧ holds 0x00 2 status ∧ holds 0x02 1 (first x.cause) ∧ holds 0x03 1 0 ∧ holds 0x04 4 x.faults ∧
  holds 0x08 4 x.l.seq.toNat ∧ holds 0x0C 2 (x.l.port.toNat * 2 ^ 9 + x.l.strm) ∧ holds 0x0E 2 0 ∧ holds 0x10 8 x.start ∧
  holds 0x18 8 glob ∧ holds 0x20 2 (first x.fpcore) ∧ holds 0x22 2 (first x.flcore) ∧ holds 0x24 4 x.freezes ∧
  holds 0x28 4 x.delay ∧ holds 0x2C 2 x.preempts ∧ holds 0x2E 2 0 ∧ holds 0x30 4 x.stWgt ∧ holds 0x34 4 x.stHbm ∧
  holds 0x38 4 x.stHost ∧ holds 0x3C 4 x.stPeer

end Sys2Proof.Claim

/-- R12, R25, R26, R30, R33, R36, R44, R52, R53, R253: at a launch boundary whose candidate is one launch, a placement and free
queues start it on a task-clock edge, and not off one: an instance runs on the cores that its footprints cover, and a core begins at its entry bundle in half A with
its code and its preload rows in its memories, its argument range in s1 and s2, and its stage; the stub, whose bytes are free
values (log 3), stands in both halves. An image whose read waits is tried again. Under a power limit below 4,600 W the launch is first delayed once (log 31: the model's
choice). An image that is not sound ends the launch with a completion record of status 4; where the record's write waits, the record is due as it stands. `LCORE` of a group of one core reads 0xFF in
LGRP. With no candidate the boundary ends.
When an image is read and which place is taken is log 35 (DEDUCED). -/
def Obligations.LaunchesAreAdmitted : Prop :=
  ∀ (s s1 : State) (l : Launch) (img : Image) (p : Placed) (bind : List (Nat × Nat × Nat)), s.boundary = true →
    s.reports = [] →
    (s.cands = [] → (∀ i ∈ s.insts, i.phase ≠ .saved) → exec .launchAdmission s = .next { s with boundary := false }) ∧
    (s.candOrder = [.fresh l] → s.readImage l = (.wait, s1) → exec .launchAdmission s = .next ((s.waited s1).getD s)) ∧
    (s.candOrder = [.fresh l] → s.readImage l = (.bad, s1) → s1.reports = [] → ∀ s2 r x,
      x.l = l → x.faults = 0 → x.start = s1.glob → x.delay = min (s1.glob - l.tm) 0xFFFFFFFF → x.preempts = 0 → x.freezes = 0 →
      x.stWgt = 0 → x.stHbm = 0 → x.stHost = 0 → x.stPeer = 0 → Claim.isRecord r x 4 s1.glob →
      s1.wrOp l.who false (.va l.cmpl.toNat) r = (.ok (), s2) →
      ∃ t, exec .launchAdmission s = .next t ∧ t.cands = s2.cands.erase l ∧ t.mem = s2.mem ∧ t.insts = s2.insts ∧
        (t.strm l.port l.strm).fly = (s2.strm l.port l.strm).fly.map (SCmd.launched · l.seq true)) ∧
    (s.candOrder = [.fresh l] → s.readImage l = (.bad, s1) → s1.reports = [] → ∀ s2,
      s1.wrOp l.who false (.va l.cmpl.toNat) (recordBytes (Inst.unstarted l s1.glob) 4 s1.glob) = (.wait, s2) →
      exec .launchAdmission s = .next { s1 with
        reports := [⟨l.who, l.cmpl, recordBytes (Inst.unstarted l s1.glob) 4 s1.glob, none⟩] }) ∧
    (s.candOrder = [.fresh l] → s.readImage l = (.ok img, s1) →
      (placeAll s1.placeable img.rows img.cols img.ldies).isSome = true →
      s1.fit img.rows img.cols img.ldies img.queues = some (p, bind) →
      (s1.powerLimit < 4600 → l.hold = none → ∃ t h, exec .launchAdmission s = .next t ∧ t.insts = s1.insts ∧
        t.turn = s1.turn ∧ t.mem = s1.mem ∧ t.cands = s1.cands.map (fun x => if x = l then { l with hold := some h } else x)) ∧
      (4600 ≤ s1.powerLimit ∨ l.hold ≠ none → s1.debt < 10 → exec .launchAdmission s = .next s) ∧
      (4600 ≤ s1.powerLimit ∨ l.hold ≠ none → 10 ≤ s1.debt → ∃ t i, exec .launchAdmission s = .next t ∧ t.insts = s1.insts ++ [i] ∧ i.id = s1.nuid + 1 ∧ i.l = l ∧
        i.delay = min (s1.glob - l.tm) 0xFFFFFFFF ∧
        i.phase = .running ∧ i.held = p.cover img.rows img.cols ∧ i.bind = bind ∧ i.start = s1.glob ∧ i.faults = 0 ∧
        i.place = p.place ∧ t.cands = s1.cands.erase l ∧ t.glob = s1.glob ∧
        t.turn = s1.turn ++ img.cores.map (fun c => p.phys img.rows img.cols c.ldie c.lrow c.lcol) ∧
        (∀ c k, img.cores = [c] → k = p.phys img.rows img.cols c.ldie c.lrow c.lcol →
          let d := t.core k
          d.run = true ∧ d.exited = false ∧ d.inst = i.id ∧ d.pc = c.entry ∧ d.half = false ∧ d.cyc = 0 ∧ d.stub = false ∧
          d.rdS 1 = (if l.argva = 0 then l.image + BitVec.ofNat 64 img.args else l.argva) ∧
          d.rdS 2 = (if l.argva = 0 then BitVec.ofNat 64 img.argsize else l.arglen) ∧
          Sparse.get 0 d.cr 0x002 = BitVec.ofNat 64 c.stage ∧
          Sparse.get 0 d.cr 0x003 = BitVec.ofNat 64 (0xFF * 2 ^ 24 + c.ldie * 2 ^ 22 + c.lrow * 2 ^ 8 + c.lcol) ∧
          (c.code.length ≤ 14336 → rdBytes t.mem (iscKey k false 0) c.code.length = c.code) ∧
          (∀ half, rdBytes t.mem (iscKey k half 14336) 2048 = (List.range 2048).map Config.stubByte) ∧
          (k < 4096 → c.data.length ≤ 2 ^ 18 → rdBytes t.mem (scrKey k 0) c.data.length = c.data))))

/-- R46 to R49, R180, R269, R270: a group whose cores all stand at a drain point stops. With every group stopped and its engine
work performed, an instance that drains for pre-emption is saved and its cores are free, or is abandoned where the context pool
is short, and one that drains for the debugger halts. An instance whose bound is over is abandoned: none of its
cores issues again past its bundle boundary. That a saved context stands in the instance and takes no byte of memory is log 39, that a free core holds the
values of reset is log 2, and the task cycle of a core that has exited when its group stops is log 43 (the model's choices). -/
def Obligations.DrainsStopSaveAndAbandon : Prop :=
  ∀ (s : State) (i grp till : Nat) (x : Inst), s.inst? i = some x →
    let ks := s.instCores i
    let leaves (t : State) (k : Nat) : Prop := if Claim.midst (s.core k) then t.core k = s.core k
      else (t.core k).exited = true ∧ (t.core k).issues = false ∧ k ∉ t.turn
    let group := ks.filter (fun k => (s.core k).gname == grp)
    ((∃ n, x.phase = .draining n) ∨ x.phase = .forced → group ≠ [] →
      (∀ k ∈ group, (s.core k).stopped = false ∧ (s.core k).atDrain = true ∧ (s.core k).exited = false ∧ (s.core k).flt = none ∧
        (s.core k).stub = false ∧ (s.core k).pend = [] ∧ (s.core k).owed = [] ∧ (s.core k).c0.cmds = [] ∧
        (s.core k).c1.cmds = [] ∧ k ∉ s.turn ∧ (s.core k).freeze = 0) →
      ∃ t, exec (.groupDrainStop i grp) s = .next t ∧ t.mem = s.mem ∧ t.insts = s.insts ∧
        ∀ k, t.core k = if k ∈ group then { s.core k with stopped := true, stall := none, stopAt := none } else s.core k) ∧
    (x.phase = .forced → (∀ k ∈ ks, (s.core k).stopped = true ∧ s.engineWork k = []) →
      ∃ t, exec (.groupDrainStop i grp) s = .next t ∧ t.inst? i = some { x with phase := .halted } ∧
        (∀ k, t.core k = if k ∈ ks then { s.core k with cyc := s.stopCyc k } else s.core k) ∧ t.mem = s.mem) ∧
    (x.phase = .draining till → (∀ k ∈ ks, (s.core k).stopped = true ∧ s.engineWork k = []) →
      s.poolFits ks.length x.bind.length = true →
      ∀ s1, State.writeBackAll ks (s.alignCyc ks) = ((.ok (), none), s1) → s1.inst? i = some x → s1.instCores i = ks →
      ∃ t y, exec (.preemptComplete i) s = .next t ∧ t.inst? i = some y ∧ y.phase = .saved ∧ y.held = [] ∧ y.bind = [] ∧
        y.l = x.l ∧ y.preempts = min 0xFFFF (x.preempts + 1) ∧ y.cores = ks.map s1.saveCore ∧ t.boundary = true ∧
        (s1.fwUp = false ∨ Claim.noRing s1 → t.mem = s1.mem) ∧ (∀ k ∈ ks, t.core k = Core.idle k ∧ k ∉ t.turn) ∧
        (∀ k, k ∉ ks → t.core k = s1.core k)) ∧
    (x.phase = .draining till → (∀ k ∈ ks, (s.core k).stopped = true ∧ s.engineWork k = []) →
      s.poolFits ks.length x.bind.length = false → ∃ t, exec (.preemptComplete i) s = .next t ∧
        t.inst? i = some { x with phase := .ending 3 } ∧ t.mem = s.mem ∧
        ∀ k ∈ ks, leaves t k) ∧
    (x.phase = .draining till → till < s.glob → ∃ t, exec (.preemptAbort i) s = .next t ∧
      t.inst? i = some { x with phase := .ending 3 } ∧ t.mem = s.mem ∧
      ∀ k ∈ ks, leaves t k)

/-- R50, R51 to R54, R282: a saved instance resumes at a launch boundary in its turn, under its new placement, which `PCORE` and `TQBIND` of its cores name, while `STAGE` and
`LCORE` return; an instance
whose cores have exited and whose work has performed writes its completion record and releases its cores, which begins a
launch boundary; a record whose write waits is due as it stood at its first attempt, END with it, and is what is written later; one that a reset took away leaves without a record. That a released core holds the values of reset is log 2
(DESIGN CHOICE). -/
def Obligations.InstancesResumeAndRetire : Prop :=
  ∀ (s s1 : State) (i : Nat) (x : Inst),
    (∀ p bind, s.boundary = true → State.nextCand false s.candOrder s = (.resume x p bind, s1) → x.id = i →
      s1.inst? i = some x → ∃ t y, exec (.instanceResume i) s = .next t ∧ t.inst? i = some y ∧ y.phase = .running ∧
        y.place = p.place ∧ y.held = p.cover x.rows x.cols ∧ y.bind = bind ∧ y.cores = [] ∧ y.preempts = x.preempts ∧
        t.turn = s1.turn ∧
        (∀ c ∈ x.cores, ∀ k, k = p.phys x.rows x.cols c.core.ldie c.core.lrow c.core.lcol →
          (∀ d ∈ x.cores, p.phys x.rows x.cols d.core.ldie d.core.lrow d.core.lcol = k → d = c) →
          (t.core k).pc = c.core.pc ∧ (t.core k).cyc = c.core.cyc ∧ (t.core k).s = c.core.s ∧ (t.core k).x = c.core.x ∧
          (t.core k).y = c.core.y ∧ (t.core k).p = c.core.p ∧ (t.core k).acc = c.core.acc ∧ (t.core k).z = c.core.z ∧
          (t.core k).half = c.core.half ∧ (t.core k).stopped = false ∧ (t.core k).mres = 0 ∧ (t.core k).mdirty = 0 ∧
          (t.core k).id = k ∧ Sparse.get 0 (t.core k).cr 0x002 = Sparse.get 0 c.core.cr 0x002 ∧
          Sparse.get 0 (t.core k).cr 0x003 = Sparse.get 0 c.core.cr 0x003 ∧
          Sparse.get 0 (t.core k).cr 0x004 = BitVec.ofNat 64 (p.dmap * 2 ^ 20 +
            (p.place.getD c.core.ldie (0, 0, 0, 0)).2.2.2 * 2 ^ 16 + k) ∧
          Sparse.get 0 (t.core k).cr 0x005 = BitVec.ofNat 64
            (((bind.filter (fun b => b.1 == c.core.ldie)).map (fun b => (0x80 + b.2.2) * 2 ^ (8 * b.2.1))).sum))) ∧
    (s.inst? i = some x → (x.phase = .running ∨ x.phase = .forced ∨ ∃ n, x.phase = .ending n) →
      (∀ k ∈ s.instCores i, (s.core k).exited = true ∧ (s.core k).pend = [] ∧ (s.core k).flt = none ∧ s.engineWork k = []) →
      let status := match x.phase with | .ending n => n | _ => 0
      (∀ d, s.dueOf x.l.who = none → d.word = recordBytes x status s.glob → d.who = x.l.who → d.addr = x.l.cmpl → d.fault = none →
        Claim.isRecord d.word x status s.glob ∧ (s.wrOp x.l.who false (.va x.l.cmpl.toNat) d.word = (.wait, s1) →
          exec (.instanceRetire i) s = .next { s with reports := s.reports ++ [d] })) ∧
      ∀ r, (s.dueOf x.l.who = none ∧ Claim.isRecord r x status s.glob) ∨ (∃ d, s.dueOf x.l.who = some d ∧ d.word = r) →
      s.wrOp x.l.who false (.va x.l.cmpl.toNat) r = (.ok (), s1) →
      s1.instCores i = s.instCores i → ∃ t, exec (.instanceRetire i) s = .next t ∧ t.inst? i = none ∧ t.boundary = true ∧
        (s1.fwUp = false ∨ Claim.noRing s1 → t.mem = s1.mem) ∧
        (∀ k ∈ s.instCores i, t.core k = Core.idle k ∧ k ∉ t.turn) ∧
        (t.strm x.l.port x.l.strm).fly = (s1.strm x.l.port x.l.strm).fly.map (SCmd.launched · x.l.seq true)) ∧
    (s.inst? i = some x → x.phase = .vanish →
      (∀ k ∈ s.instCores i, (s.core k).exited = true ∧ (s.core k).pend = [] ∧ (s.core k).flt = none ∧ s.engineWork k = []) →
      ∃ t, exec (.instanceRetire i) s = .next t ∧ t.inst? i = none ∧ t.boundary = true ∧
        (s.fwUp = false ∨ Claim.noRing s → t.mem = s.mem) ∧ ∀ k ∈ s.instCores i, t.core k = Core.idle k)

/-! ### Copy channels at work -/

namespace Sys2Proof.Claim

open Sys2Proof Sys2Proof.Machine

/-- A channel of a core. -/
def chan (c : Core) (ch : Bool) : Chan := bif ch then c.c1 else c.c0

/-- The state with a channel of a core replaced. -/
def chanSet (s : State) (k : Nat) (ch : Bool) (q : Chan) : State :=
  s.setCore k (bif ch then { s.core k with c1 := q } else { s.core k with c0 := q })

/-- A core whose engine work goes on: it runs, and its group is neither frozen nor stopped. -/
def goes (c : Core) : Prop := c.run = true ∧ c.frozen = false ∧ c.stopped = false

/-- A fault of a command, detected on its core's next task cycle (R249). -/
def charged (s : State) (k : Nat) (ch : Bool) (m : Cmd) (cause : Nat) : State :=
  s.setCore k { s.core k with pend := (s.core k).pend ++
    [⟨(s.core k).cyc + 1, (s.core k).cyc, bif ch then 5 else 4, false, m.baddr, .engFault cause 0 0 m.depth⟩] }

/-- A copy, an atomic or a signal: what the channel itself delivers from operands of its own. -/
def copies (k : CmdKind) : Prop :=
  (∃ d s n x, k = .cpy d s n x) ∨ (∃ d s i l t, k = .cpy2 d s i l t) ∨ (∃ d l p n, k = .cpyl d l p n) ∨
  (∃ a v x g o u e, k = .atom a v x g o u e) ∨ (∃ a v b e, k = .sig a v b e) ∨ k = .fence

end Sys2Proof.Claim

/-- R133, R121, R198, R363: on the start cycle of the next held command, the command starts when the channel's last one has
issued its requests and every own quarter that it names is ENGINE, which is not asked of a copy into instruction scratch
(R331); else it raises `TIMING` (0x11) or `OWNERSHIP` (0x10), and is
gone: one of another engine that R363 names completes at its fault, with 0 in the CRC register. A started `SAGE`, `SDEL` or `SMIG` is handed to
the complex of its set's home die. That a start which fails has no further effect on the command is log 22 (DEDUCED). -/
def Sys2Proof.Claim.CommandsStartOnTheirCycle : Prop :=
  ∀ (s : State) (k : Nat) (ch : Bool) (m : Cmd) (before after : List Cmd), Claim.goes (s.core k) →
    let q := Claim.chan (s.core k) ch
    let f (x : Cmd) : Cmd := if x.uid = m.uid then { x with phase := .running, n := s.startRows k m } else x
    let late : Prop := ∃ l, q.last = some l ∧ m.start < l.1 + l.2
    let owned : Prop := (m.kind.half? (s.core k).id).isSome = true ∨ ∀ n ∈ m.names (s.core k).id, n / 64 = (s.core k).id → (s.core k).owner (n % 64) = .engine
    let left := q.cmds.filter (fun x => x.uid != m.uid)
    let fails (cause : Nat) : Prop :=
      (Claim.copies m.kind → exec (.copyCommandStart k ch) s =
        .next (Claim.charged (Claim.chanSet s k ch { q with cmds := left }) k ch m cause)) ∧
      (m.kind.other = true → ∃ t, exec (.copyCommandStart k ch) s = .next t ∧ t.mem = s.mem ∧
        Claim.chan (t.core k) ch = { q with cmds := left, crc := if m.kind.reports then 0 else q.crc } ∧ (t.core k).pend = ((Claim.charged s k ch m cause).core k).pend)
    (q.cmds = before ++ m :: after → (∀ x ∈ before, x.phase ≠ .held ∧ (x.phase = .running → Claim.copies x.kind)) →
      (∀ x ∈ after, x.phase = .held) → m.phase = .held → Claim.copies m.kind ∨ m.kind.other = true →
      m.start ≤ (s.core k).cyc →
      ((∀ v w z, m.kind ≠ .pmov v w z) → s.startRows k m = m.n) ∧
      (¬ late → owned → exec (.copyCommandStart k ch) s =
        .next (Claim.chanSet s k ch { q with cmds := q.cmds.map f, last := some (m.start, s.startRows k m) })) ∧
      (late → fails 0x11) ∧ (¬ late → ¬ owned → fails 0x10)) ∧
    (∀ (set : W64) (e : SetEnt), q.cmds = m :: after → m.phase = .running → s.mustWait k ch m = false →
      s.dies.find? (fun d => d.2.setq.any (fun x => x.set == set.toNat)) = none →
      s.setEnt (dieOf k) set.toNat = (.ok e, s) → s.reports = [] → s.diemask.getLsbD e.home = true →
      (∃ n, m.kind = .sage set n) ∨ (∃ r a, m.kind = .sdel set r a) ∨ (∃ n i, m.kind = .smig set n i) →
      ∃ t, exec (.copyCommandStart k ch) s = .next t ∧ t.mem = s.mem ∧
        (t.die e.home).setq = (s.die e.home).setq ++ [⟨k, ch, m.uid, set.toNat, (s.who k).asid, m.kind, []⟩] ∧
        (Claim.chan (t.core k) ch).cmds = q.cmds.map (fun x => if x.uid = m.uid then { x with phase := .handed } else x))

/-- R134, R137, R178, R318, R336: a channel delivers the next row of its first command with rows: the row is read and written,
the command counts it, its CRC takes the bytes and the write pointer goes up by 64. A row whose source cannot be read stops the
command there with its fault. The last row of a filled quarter makes the quarter resident. An `ATOM` gives the old value to its
register, and the entry of a `CPYL` list is read once, before its rows. When a row and a list entry are read is log 21 and log
22, and that a step delivers one row log 38 (the model's choices). -/
def Sys2Proof.Claim.RowsAreDeliveredInOrder : Prop :=
  ∀ (s s1 s2 : State) (k : Nat) (ch : Bool) (m : Cmd) (rest : List Cmd) (bs : List Byte) (cause : Nat) (d : W64),
    Claim.goes (s.core k) → (Claim.chan (s.core k) ch).cmds = m :: rest → m.phase = .running → m.done < m.n →
    m.start + m.done ≤ (s.core k).cyc → s.mustWait k ch m = false →
    let w := s.whoOf k ch m
    let done (s : State) (bs : List Byte) : State :=
      let q := Claim.chan (s.core k) ch
      Claim.chanSet s k ch { q with
        cmds := q.cmds.map (fun x => if x.uid = m.uid then { x with done := m.done + 1, crc := crcRun m.crc bs } else x)
        wp := (q.wp + 64) % 2 ^ 64 }
    (∀ dst src n (o : Opnd), m.kind = .cpy dst src n none → opndAt k dst (64 * m.done) = some o →
      (s.rdMaybe w true (opndAt k src (64 * m.done)) 64 = (.ok bs, s1) →
        s1.wrOp w true o bs = (.ok (), s2) → exec (.rowDelivered k ch) s = .next (done (s2.quit w) bs)) ∧
      (s.rdMaybe w true (opndAt k src (64 * m.done)) 64 = (.err cause d, s) → cause ≠ 0x20 → cause ≠ 0x21 →
        ∃ t, exec (.rowDelivered k ch) s = .next t ∧ t.mem = s.mem ∧
          (Claim.chan (t.core k) ch).cmds = (m :: rest).map (fun x => if x.uid = m.uid then { x with n := m.done } else x) ∧
          (t.core k).pend = (s.core k).pend ++ [⟨(s.core k).cyc + 1, (s.core k).cyc, bif ch then 5 else 4, false, m.baddr,
            .engFault cause 0 d m.depth⟩])) ∧
    (∀ q n, m.kind = .preq q n →
      s.rdOp w true (.va ((s.core k).vaOf (q + m.done / 64) + 64 * (m.done % 64))) 64 = (.ok bs, s1) →
      s1.wrOp w true (.scr k (4096 * q + 64 * m.done)) bs = (.ok (), s2) →
      ∃ t, exec (.rowDelivered k ch) s = .next t ∧ t.mem = s2.mem ∧ Claim.chan (t.core k) ch = Claim.chan ((done s2 bs).core k) ch ∧
        (t.core k).mres = if m.done % 64 = 63 then (s2.core k).mres ||| BitVec.ofNat 64 (2 ^ (q + m.done / 64))
          else (s2.core k).mres) ∧
    (∀ dst l p n, m.kind = .cpyl dst l p n →
      let i := m.done / p.toNat
      m.ent.map (·.1) ≠ some i → s.rdMaybe w true (opndAt k l (8 * i)) 8 = (.ok bs, s1) →
      let q := Claim.chan (s1.core k) ch
      let f (x : Cmd) : Cmd := if x.uid = m.uid then { x with ent := some (i, BitVec.ofNat 64 (leNat bs)) } else x
      exec (.rowDelivered k ch) s = .next (Claim.chanSet (s1.quit w) k ch { q with cmds := q.cmds.map f })) ∧
    (∀ a v x gd op u e (old : Nat), m.kind = .atom a v x gd op u e → s.atomGo w a v x op u e = (.ok old, s1) →
      exec (.rowDelivered k ch) s = .next (done ((s1.regGo k (if ch then .h else .g) gd
        (BitVec.ofInt 64 (rdInt (if e then 64 else 32) (u || e) old))).quit w) [])) ∧
    (∀ a v z (old : Nat), m.kind = .sig a v false z → s.sigGo w a v false z = (.ok old, s1) →
      exec (.rowDelivered k ch) s = .next (done (s1.quit w) []))

/-- R135, R120, R156: a command whose rows are all delivered leaves its channel; the channel's CRC register holds the CRC-32C of
its bytes, and under `.RET` the quarters that it names, of whatever core, are to return to CORE at their return point. A fence
completes once everything before it has performed, and leaves the CRC of no bytes. -/
def Sys2Proof.Claim.CommandsComplete : Prop :=
  ∀ (s : State) (k : Nat) (ch : Bool) (m : Cmd) (rest : List Cmd), (s.core k).run = true →
    (Claim.chan (s.core k) ch).cmds = m :: rest → m.phase = .running →
    let q := Claim.chan (s.core k) ch
    let z := s.quit (s.whoOf k ch m)
    (∀ dst src n x, m.kind = .cpy dst src n x → m.n ≤ m.done →
      let t := Claim.chanSet z k ch { q with cmds := (m :: rest).filter (fun x => x.uid != m.uid), crc := Nat.xor m.crc 0xFFFFFFFF }
      (m.ret = false → exec (.copyCommandComplete k ch) s = .next t) ∧
      (m.ret = true → ∃ u, exec (.copyCommandComplete k ch) s = .next u ∧ u.mem = s.mem ∧
        Claim.chan (u.core k) ch = Claim.chan (t.core k) ch ∧
        ∀ j n, n < 64 → (n ∈ (u.core j).owed ↔
          n ∈ (s.core j).owed ∨ (j * 64 + n ∈ m.names k ∧ (Sparse.find t.cores j).isSome = true)))) ∧
    (m.kind = .fence → m.ret = false → s.allBefore k m = true → exec (.copyCommandComplete k ch) s =
      .next (Claim.chanSet z k ch { q with cmds := (m :: rest).filter (fun x => x.uid != m.uid), crc := 0 }))

/-! ### The other engines -/

namespace Sys2Proof.Claim

open Sys2Proof Sys2Proof.Machine

/-- A command that completes in an engine (R363): its accesses end and it leaves its channel, whose CRC register holds the CRC of
no bytes. -/
def ended (s : State) (k : Nat) (ch : Bool) (m : Cmd) : State :=
  chanSet (s.quit (s.whoOf k ch m)) k ch
    { chan (s.core k) ch with cmds := (chan (s.core k) ch).cmds.filter (fun x => x.uid != m.uid), crc := 0 }

/-- An 8-byte status word (R204). -/
def status (cause lpage n : Nat) : List Byte := leBytes 8 (cause * 2 ^ 56 + lpage % 2 ^ 24 * 2 ^ 32 + n % 2 ^ 32)

/-- The header of an output list without entries' faults (R194): entries, status 0, pages, missing pages. -/
def listHead (count n miss : Nat) : List Byte := leBytes 4 count ++ leBytes 4 0 ++ leBytes 4 n ++ leBytes 4 miss

/-- An entry of an output list (R194): frame, page, score, flags, tokens of the page among `ntok`. -/
def listEntry (ntok : Nat) (p : Pick) : List Byte :=
  leBytes 4 p.frame ++ leBytes 4 p.lpage ++ leBytes 2 p.score ++ leBytes 1 p.flags ++ leBytes 1 (min 16 (ntok - 16 * p.lpage)) ++
  leBytes 4 0

end Sys2Proof.Claim

/-- R189 to R200, R382: the complex of a die runs the first operation of a set. `SAGE` lowers the age of every row of the set,
down to 0. An `SSEL` writes its list at its operand, the entries from byte 16 on; then the age of every row that it chose becomes
255, and the header, its report, comes last (R151); an operation whose report is under way to a peer stays until it is
acknowledged. Where a page of the list takes no write, or the header faults, no entry is written and no age changes (R390); that
entries and ages stand while a header is on its way to a peer is log 46. The operation leaves the complex and its command completes. Which complex an operation goes to, and
which operations wait for which, are log 23 (DEDUCED). -/
def Sys2Proof.Claim.SetOperationsRun : Prop :=
  ∀ (s s1 s2 s3 s4 s5 : State) (die : Nat) (x : SetOp) (l : List SetOp) (m : Cmd), (s.die die).setq = x :: l →
    (∀ y ∈ l, y.set = x.set) → s.reaches (dieOf x.core) die = true → m.ret = false → m.kind = x.kind → s.reports = [] →
    let holds (s : State) : Prop := (Claim.chan (s.core x.core) x.chan).cmds.find? (fun y => y.uid == x.uid) = some m
    let ends (s : State) : State :=
      let z := s.quit x.who
      Claim.ended { z with dies := Sparse.put z.dies die { s.die die with
        setq := (s.die die).setq.filter (fun y => y.uid != x.uid) } } x.core x.chan m
    (∀ set n e, x.kind = .sage set n → holds s → s.setEnt (dieOf x.core) x.set = (.ok e, s) → e.valid = true →
      s.slotsOf e.home x.set = [] → (∀ b ∈ s.errs, b.kind ≠ 7) → e.home = die →
      (s.die die).rows.Pairwise (fun a b => a.set = b.set → a.lpage ≠ b.lpage) →
      ∃ t, exec (.scarabSetOperation die) s = .next t ∧ t.mem = s.mem ∧
        (t.die die).setq = l.filter (fun y => y.uid != x.uid) ∧
        (Claim.chan (t.core x.core) x.chan).cmds = (Claim.chan (s.core x.core) x.chan).cmds.filter (fun y => y.uid != m.uid) ∧
        (t.die die).rows = (s.die die).rows.map (fun r => if r.set = x.set then { r with age := r.age - n } else r)) ∧
    (∀ out qb k, x.kind = .ssel out qb k →
      (s.sselGo x.who x.set x.blk out k = (.ok (), s1) → holds s1 → exec (.sselStart die) s =
        .next (if s1.reports.any (fun r => r.who = x.who) then s1 else ends s1)) ∧
      ∀ (o : Opnd) (d : List Byte) (e : SetEnt), opndOf x.core out = some o →
        s.rdOp x.who false (.va (fieldAt x.blk 0x20 8)) 128 = (.ok d, s1) → descOk d = true →
        s1.setEnt (dieOf x.core) x.set = (.ok e, s1) → e.valid = true → e.poison = false → 1 ≤ k → k ≤ e.kmax →
        s1.slotsOf e.home x.set = [] → (∀ b ∈ s1.errs, b.kind ≠ 7) →
        let n := fieldAt d 8 4
        let live : List HRow := (((s1.die e.home).rows.filter (fun r => r.set == x.set)).map (fun r => ⟨none, r⟩)).filter
          (fun h => decide (h.row.lpage < n))
        let chosen := chooseRows e n (fieldAt x.blk 0 32) k live
        let list := selectPages e d chosen live
        (∀ c w, State.pagesOpen x.who (o.pages (16 + 16 * list.1.length)) s1 = (.err c w, s5) →
          ∃ t, exec (.sselStart die) s = .next t ∧ t.mem = s1.mem ∧ (∀ h, (t.die h).rows = (s1.die h).rows)) ∧
        (∀ c w, State.pagesOpen x.who (o.pages (16 + 16 * list.1.length)) s1 = (.ok (), s5) →
          s5.wrOp x.who true (o.plus 16) (list.1.flatMap (Claim.listEntry (fieldAt d 12 4))) = (.err c w, s2) →
          ∃ t, exec (.sselStart die) s = .next t ∧ t.mem = s1.mem ∧ (∀ h, (t.die h).rows = (s1.die h).rows)) ∧
        (State.pagesOpen x.who (o.pages (16 + 16 * list.1.length)) s1 = (.ok (), s5) →
        s5.wrOp x.who true (o.plus 16) (list.1.flatMap (Claim.listEntry (fieldAt d 12 4))) = (.ok (), s2) →
        State.setAges x.who e (fun _ => 255) (chosen.map (·.2)) s2 = (.ok (), s3) →
        s3.mem = s2.mem ∧ (s3.die e.home).rows = (s2.die e.home).rows.map (fun r =>
          if chosen.any (fun c => c.2.row.set == r.set && c.2.row.lpage == r.lpage) then { r with age := 255 } else r) ∧
        (s3.wrOp x.who true o (Claim.listHead list.1.length n list.2) = (.ok (), s4) → holds s4 →
          ∃ t, exec (.sselStart die) s = .next t ∧ t.mem = s4.mem ∧ (t.die e.home).rows = (s4.die e.home).rows ∧
            (Claim.chan (t.core x.core) x.chan).cmds = (Claim.chan (s4.core x.core) x.chan).cmds.filter (fun y => y.uid != m.uid)) ∧
        (∀ c w, s3.wrOp x.who true o (Claim.listHead list.1.length n list.2) = (.err c w, s4) →
          ∃ t, exec (.sselStart die) s = .next t ∧ t.mem = s1.mem ∧ (∀ h, (t.die h).rows = (s1.die h).rows)) ∧
        (s3.wrOp x.who true o (Claim.listHead list.1.length n list.2) = (.wait, s4) → s3.fab.length < s4.fab.length →
          exec (.sselStart die) s = .next { s4 with
            reports := s4.reports ++ [⟨x.who, out, Claim.listHead list.1.length n list.2, none⟩] })))

/-- R192 to R194: the selection orders the candidate rows by score and then by page, both falling, and takes the first of
them: at most the number asked for, and no row left out comes before one that is taken. The list holds the chosen pages and
the known sink and recent pages, in ascending order of pages. -/
def Sys2Proof.Claim.SelectionTakesTheBestRows : Prop :=
  ∀ (e : SetEnt) (n q k : Nat) (rows : List HRow),
    let cand (h : HRow) : Prop := h ∈ rows ∧ e.sink ≤ h.row.lpage ∧ h.row.lpage + e.recent < n
    let score (h : HRow) : Nat := Claim.ones 256 e.mask - Claim.ones 256 (Nat.land (Nat.xor q h.row.sig.toNat) e.mask)
    let chosen := chooseRows e n q k rows
    chosen.length ≤ k ∧ (∀ c ∈ chosen, cand c.2 ∧ c.1 = score c.2) ∧
    ((∀ h, ¬ cand h) → chosen = []) ∧ (chosen.length < k → ∀ h, cand h → (score h, h) ∈ chosen) ∧
    (∀ h, cand h → (score h, h) ∉ chosen → ∀ c ∈ chosen, score h < c.1 ∨ (score h = c.1 ∧ h.row.lpage ≤ c.2.row.lpage)) ∧
    ∀ (d : List Byte) (ch : List (Nat × HRow)) (p : Pick),
      let n := fieldAt d 8 4
      let list := (selectPages e d ch rows).1
      list.Pairwise (fun a b => a.lpage ≤ b.lpage) ∧
      (p ∈ list ↔
        (p.lpage < n ∧ (p.lpage < e.sink ∨ n ≤ p.lpage + e.recent) ∧ knownFrame d rows p.lpage = some p.frame ∧ p.score = 0 ∧
          p.flags = (if p.lpage < e.sink then 1 else 0) + (if n ≤ p.lpage + e.recent then 2 else 0)) ∨
        ∃ c ∈ ch, p = ⟨(knownFrame d rows c.2.row.lpage).getD c.2.row.frame, c.2.row.lpage, c.1, 4⟩)

/-- R201 to R204: a page of the list goes into its slot: K to one quarter, V transposed to the next, and with its CRC right the
page is counted and the slot's return is under way. At the end of the list the fetcher writes its status word and its command
completes. That a page is written before its CRC is compared is log 24 (DEDUCED). -/
def Sys2Proof.Claim.PagesReturnInOrder : Prop :=
  ∀ (s s1 s2 s3 s4 : State) (k : Nat) (ch : Bool) (x : Weevil) (m : Cmd) (f lp : Nat) (p : PageIn) (o : Opnd),
    Claim.goes (s.core k) → s.reports = [] → (s.core k).weevil = [x] → x.chan = ch → (∃ a b c q h, m.kind = .pgft a b c q h) →
    (Claim.chan (s.core k) ch).cmds.find? (fun y => y.uid == x.uid) = some m →
    let q := x.q0 + 2 * (x.next % 4)
    let w := s.whoPage k x
    (x.next < x.count → (x.chain = true → x.frame ≠ 0xFFFFFFFF) → q ∈ x.given → q + 1 ∈ x.given →
      s.pageFrame w x = (.ok (f, lp), s1) → s1.pageHeld k x m f = false → s1.readPage w x f = (.ok p, s2) →
      s2.wrOp w true (.scr k (4096 * q)) (maskK (fieldAt p.hdr 8 1) p.k) = (.ok (), s3) →
      s3.wrOp w true (.scr k (4096 * (q + 1))) (turnV (fieldAt p.hdr 8 1) p.v) = (.ok (), s4) →
      crc32c (p.k ++ p.v) = fieldAt p.hdr 0x10 4 → (s4.core k).weevil = [x] →
      ∃ t y, exec (.weevilPageReturn k ch) s = .next t ∧ t.mem = s4.mem ∧ (t.core k).weevil = [y] ∧ y.next = x.next + 1 ∧
        y.uid = x.uid ∧ y.count = x.count ∧ y.frame = fieldAt p.hdr 0 4 ∧
        (∀ g, g ∈ y.given ↔ g ∈ x.given ∧ g ≠ q ∧ g ≠ q + 1) ∧
        (t.core k).pend = (s4.core k).pend ++
          [⟨(s4.core k).cyc + 1, (s4.core k).cyc, bif ch then 5 else 4, false, m.baddr, .slotBack [q, q + 1]⟩]) ∧
    (x.count ≤ x.next ∨ (x.chain = true ∧ x.frame = 0xFFFFFFFF) → x.back ≤ (s.core k).cyc → m.ret = false →
      opndOf k x.status = some o → s.wrOp w true o (Claim.status 0 0 x.next) = (.ok (), s1) → (s1.core k).weevil = [x] →
      let t := Claim.ended (s1.quit w) k ch m
      exec (.weevilPageReturn k ch) s = .next (t.setCore k { t.core k with weevil := [] }))

/-- R41, R206, R207: rank j of c ranks holds the blocks from ⌊jB/c⌋ to ⌊(j + 1)B/c⌋ - 1 of a batch of B, so that every block
has one rank; its work list begins with its number of segments, its blocks and its first block. A plan whose lists are written
completes its command. The order of writing and checking is log 24 (DEDUCED). -/
def Sys2Proof.Claim.PlansDealBlocksToRanks : Prop :=
  (∀ (counts : List Nat) (c j : Nat), 0 < c → j < c →
    let b := counts.sum
    let w := workList counts c j
    w.1.length = 16 + 8 * w.2 ∧ w.1.take 16 = leBytes 4 w.2 ++ leBytes 4 ((j + 1) * b / c - j * b / c) ++ leBytes 4 (j * b / c) ++
      leBytes 4 0 ∧ w.2 ≤ counts.length) ∧
  (∀ b c x : Nat, 0 < c → x < b → ∃ j, j < c ∧ rankOf b c x = j ∧ j * b / c ≤ x ∧ x < (j + 1) * b / c) ∧
  (∀ (s s1 : State) (k : Nat) (ch : Bool) (m : Cmd) (v : W64), Claim.goes (s.core k) → m.phase = .handed → m.kind = .plan v →
    m.ret = false → (Claim.chan (s.core k) ch).cmds.head? = some m → s.planGo (s.whoOf k ch m) m.blk = (.ok (), s1) →
    exec (.planReport k ch) s = .next (Claim.ended s1 k ch m))

/-- R182, R163, R379: a move ends with the bytes of the page at the new home, which the old page's bytes were; both leaves then name
the other's home, the spare one invalid, both pages leave every TLB and the status word is 0. An access of a peer that waited for
the page performs at its new home (R163). A move whose command was
cancelled ends with both leaves free for use. That the copy and the exchange of the leaves are one step is log 25, and that the
start waits for stack lanes log 28 (DEDUCED); that a move whose leaves lie on a die that its core no longer reaches stops with
`ADDRESS`, and stores nothing there, is log 14. -/
def Sys2Proof.Claim.MovesEndAtTheNewHome : Prop :=
  (∀ (m : List Host.Cell) (src dst len a : Nat), memWf m = true → src + len ≤ dst ∨ dst + len ≤ src →
    rdByte (memCopy m src dst len) a = if dst ≤ a ∧ a < dst + len then rdByte m (src + (a - dst)) else rdByte m a) ∧
  (∀ (s : State) (p : BitVec 7) (a : BitVec 41) (d : List Byte) (peer : BitVec 10) (tag old new len : Nat),
    s.flits = [(p, .write a d peer tag)] → old ≤ hbmKey a.toNat → hbmKey a.toNat < old + len →
    let there := new + (hbmKey a.toNat - old)
    s.rehome old new 0 len = { s with flits := [(p, .write (BitVec.ofNat 41 there) d peer tag)] } ∧
    s.rehome old new 2 len = { { s with flits := [] }.store there d with out := s.out ++ [.flitReply peer.toNat tag []] }) ∧
  ∀ (s s1 s2 : State) (k : Nat) (ch : Bool) (x : Move), s.moves = [x] → x.core = k → x.chan = ch →
    ((Claim.chan (s.core k) ch).cmds.find? (fun m => m.uid == x.uid) = none → exec (.pmovComplete k ch) s =
      .next { (s.setMig (dieOf k) x.leafAt false).setMig (dieOf k) x.spareAt false with moves := [] }) ∧
    (∀ entry on, s.setMig (dieOf k) entry on = if s.reaches (dieOf k) (hbmDie entry) then
      s.store (hbmKey entry) (leBytes 8 (rdLE s.mem (hbmKey entry) 8 / 2 ^ 59 * 2 ^ 59 + (bif on then 1 else 0) * 2 ^ 58 +
        rdLE s.mem (hbmKey entry) 8 % 2 ^ 58)) else s) ∧
    (∀ m src dst t u, (Claim.chan (s.core k) ch).cmds.find? (fun m => m.uid == x.uid) = some m → m.ret = false →
      (∃ v w z, m.kind = .pmov v w z) →
      let a := rdLE s.mem (hbmKey x.leafAt) 8
      let b := rdLE s.mem (hbmKey x.spareAt) 8
      let home (w : Nat) : Nat := w % 2 ^ 58 / 2 ^ 16 * 2 ^ 16
      let w := s.whoOf k ch m
      let len := 2 ^ x.log2
      s.pageHome (dieOf k) a x.log2 = .ok src t → s.pageHome (dieOf k) b x.log2 = .ok dst u → s.errsIn t src len true = [] →
      s.reports = [] → s.flits = [] → s.reaches (dieOf k) (hbmDie x.leafAt) = true → s.reaches (dieOf k) (hbmDie x.spareAt) = true →
      (t ≠ 1 → u ≠ 1 → s.pageCopy w src t dst u len = (.ok true, { s with mem := memCopy s.mem src dst len })) ∧
      (s.pageCopy w src t dst u len = (.ok true, s1) → s1.moves = [x] →
        let z := ((s1.hbmCount (s1.errsIn t src len false)).store (hbmKey x.leafAt) (leBytes 8 (a / 2 ^ 59 * 2 ^ 59 + home b + a % 2 ^ 16))).store (hbmKey x.spareAt)
          (leBytes 8 (b / 2 ^ 59 * 2 ^ 59 % 2 ^ 63 + home a + b % 2 ^ 16))
        ∀ o, opndOf k x.status = some o →
          ({ z with moves := [] }.tlbDrop (fun t => t.entry == x.leafAt || t.entry == x.spareAt)).wrOp w true o (leBytes 8 0) =
            (.ok (), s2) →
          exec (.pmovComplete k ch) s = .next (Claim.ended s2 k ch m))) ∧
    (∀ m, (Claim.chan (s.core k) ch).cmds.find? (fun m => m.uid == x.uid) = some m → m.ret = false →
      (∃ v w z, m.kind = .pmov v w z) → s.reports = [] →
      s.reaches (dieOf k) (hbmDie x.leafAt) = false ∨ s.reaches (dieOf k) (hbmDie x.spareAt) = false →
      let z : State := { (s.setMig (dieOf k) x.leafAt false).setMig (dieOf k) x.spareAt false with moves := [] }
      ∀ o, opndOf k x.status = some o →
        z.wrOp (s.whoOf k ch m) true o (leBytes 8 (0x12 * 2 ^ 56)) = (.ok (), s2) →
        ∃ t, exec (.pmovComplete k ch) s = .next t ∧ t.mem = s2.mem ∧ t.moves = s2.moves ∧
          (Claim.chan (t.core k) ch).cmds.find? (fun m => m.uid == x.uid) = none)

/-- R285, R328: a collective of a team of one rank that is here writes its result, which is what it sent, then its status word
with the count, and leaves its engine. It is over at its rank: the rank's next collective of the team is the next one by number, and a contribution for an earlier one
is dropped. How the entries of a team find each other is log 26 (DESIGN CHOICE); the addresses of
its operands are judged as log 29 says. -/
def Sys2Proof.Claim.CollectivesReport : Prop :=
  ∀ (s s1 s2 s3 : State) (die eng : Nat) (x : Coll) (b : List Byte) (o r st : Opnd), s.collQ die eng = [x] → s.reports = [] →
    x.nrank = 1 → x.ranks = [(s.mymod, die, eng)] → x.myrank = 0 → x.root = 0 → x.fmt = 0 → x.outfmt = 0 → 0 < x.count →
    x.op ≤ 3 → opndOf x.who.core x.send = some o → opndOf x.who.core x.recv = some r → opndOf x.who.core x.status = some st →
    s.rdOp x.who true o (4 * x.count) = (.ok b, s1) → b.length = 4 * x.count →
    s1.wrOp x.who true r (x.result [b]) = (.ok (), s2) →
    s2.wrOp x.who true st (Claim.status 0 0 x.count) = (.ok (), s3) → s3.collQ die eng = [x] → s3.mymod = s.mymod →
    (2 ≤ x.op → x.result [b] = b) ∧
    ∃ t, exec (.collectiveReport die eng) s = .next t ∧ t.mem = s3.mem ∧ t.collQ die eng = [] ∧
      t.teamDone x.ranks 0 = s3.teamDone x.ranks 0 + 1 ∧
      t.collrx = s3.collrx.filter (fun c => decide (t.teamDone c.ranks c.dst ≤ c.nth)) ∧
      (∀ k, x.core = some k → (t.core k).pend = (s3.core k).pend) ∧
      (∀ p n q, x.core = none → x.strm = some (p, n, q) →
        (t.strm p n).fly = (s3.strm p n).fly.map (fun c => match c.kind with
          | .coll _ => if c.seq = q then { c with kind := .coll true } else c
          | _ => c))

/-- R236, R244, R245: a loaded lane starts on the cycle of its phase; the mid-interval refresh of a hot stack is postponed once
by a lock-step word and then, hot or not, aborts the lowest such lane with `KREF`, whose rows written so far are taken back; a power-down
request is refused while a lane of the stack runs or its accumulators are live. That a KREF abort ends CYCLES on its own cycle
and takes the rows back, and that a power-down request only answers, are log 27, and the waits of moves and invalidations for
lanes log 28 (DEDUCED). -/
def Obligations.LanesStartAndStacksRefresh : Prop :=
  ∀ (s : State) (n k : Nat) (st : BitVec 5),
    let l := s.laneAt n
    let locked (i : Nat) : Prop := i < 16 ∧ (s.laneAt (k * 16 + i)).phase = .running ∧ s.glob < (s.laneAt (k * 16 + i)).lock
    (l.phase = .loaded → Claim.phase s s.glob = l.startph → exec (.stackProgramStart n) s =
      .next { s with
        lanes := Sparse.put s.lanes n { l with phase := .running, t0 := s.glob, next := s.glob }
        unloaded := s.unloaded.filter (fun e => e.1 != n) }) ∧
    (s.hot.getLsbD k = true ∨ k ∈ s.postponed → Claim.phase s s.glob = 1950 → Sparse.get 0 s.refAt k ≠ s.glob + 1 →
      let r := Sparse.set 0 s.refAt k (s.glob + 1)
      let off := s.postponed.filter (fun j => j != k)
      ((∀ i, ¬ locked i) → exec (.refreshInterval k) s = .next { s with refAt := r, postponed := off }) ∧
      ((∃ i, locked i) → k ∉ s.postponed → exec (.refreshInterval k) s =
        .next { s with refAt := r, postponed := k :: s.postponed }) ∧
      (∀ i, locked i → (∀ j, j < i → ¬ locked j) → k ∈ s.postponed →
        let x := s.laneAt (k * 16 + i)
        let z := x.undo.foldl (fun s e => s.store e.1 [e.2]) { s with refAt := r, postponed := off }
        exec (.refreshInterval k) s = .next { z with
          lanes := Sparse.put z.lanes (k * 16 + i) { x with
            phase := .ending 0x23, discard := true, cycles := s.glob + 1 - x.t0
            pend := x.pend.filter (fun p => p.iss != x.lockIss), undo := [] } })) ∧
    exec (.powerDownRequest st) s = .next { s with out := s.out ++ [.power st.toNat
      (if (List.range 16).any (fun i => (s.laneAt (st.toNat * 16 + i)).phase != .idle || (s.laneAt (st.toNat * 16 + i)).acclive)
        then 0x30 else 0)] }

/-! ### Translation with the host -/

namespace Sys2Proof.Claim

open Sys2Proof Sys2Proof.Machine

/-- The state with a port replaced. -/
def portSet (s : State) (p : Bool) (q : Port) : State := { s with ports := Sparse.put s.ports p.toNat q }

end Sys2Proof.Claim

/-- R169, R170, R173: the host's answers and invalidations. A grant that covers the page and permits the access stands in the
TLB of the die that asked, at the largest size of R170 to which it is aligned; a page that is not present or not permitted is
asked for by a page request, of which 512 are outstanding at most; a refusal, and a page request that has waited 100 ms, fail.
An invalidation drops every grant that meets its range and is answered once; without the enables no translation stands. A TLB
invalidation drops what its KIND names, once no access that used it is left. When a failed request is consumed and what stands
with KIND 0b11 in the register are log 46 (the model's choices). -/
def Obligations.HostAnswersAndInvalidations : Prop :=
  ∀ (s : State) (p : Bool) (r : PReq) (a : HostPage) (tag : Nat) (pasid : BitVec 20) (va : BitVec 56) (l : Nat),
    let q := s.port p
    let without := q.preqs.filter (fun x => x.id != r.id)
    let failed := Claim.portSet s p { q with preqs := without, refused := q.refused ++ [(r.die, r.asid, r.va)] }
    let covers : Prop := a.va.toNat ≤ r.va ∧ r.va < a.va.toNat + 2 ^ a.log2
    let fits (j : Nat) : Prop := j ≤ a.log2 ∧ a.va.toNat % 2 ^ j = 0 ∧ a.bus.toNat % 2 ^ j = 0
    (q.preqs.find? (fun x => x.id == r.id) = some r → s.atsOn p = true → (∀ x ∈ without, x.stage ≠ .queued) →
      exec (.hostPageResponse p r.id .refused) s = .next failed ∧
      (¬ covers → exec (.hostPageResponse p r.id (.grant a)) s = .next failed) ∧
      (covers → (r.w = true → a.w = true) → l ∈ [12, 16, 21, 26, 30] → fits l →
        (∀ j ∈ [12, 16, 21, 26, 30], l < j → ¬ fits j) →
        ∃ g e t, exec (.hostPageResponse p r.id (.grant a)) s = .next t ∧ e = ⟨r.asid, g.va.toNat, l, 0, 0, some (p, g), false⟩ ∧
          t = { Claim.portSet s p { q with preqs := without } with dies := Sparse.put s.dies r.die { s.die r.die with
            tlb := (e :: (s.die r.die).tlb.filter (fun x => x != e)).take 4096 } } ∧
          g.log2 = l ∧ g.va = BitVec.ofNat 56 (r.va / 2 ^ l * 2 ^ l) ∧ g.w = a.w ∧
          g.bus = a.bus + BitVec.ofNat 64 (r.va / 2 ^ l * 2 ^ l - a.va.toNat)) ∧
      (∀ ans, ans = .absent ∨ (ans = .grant a ∧ covers ∧ (∃ j ∈ [12, 16, 21, 26, 30], fits j) ∧ r.w = true ∧ a.w = false) →
        (r.stage ≠ .asked → exec (.hostPageResponse p r.id ans) s = .next s) ∧
        (r.stage = .asked → (q.preqs.filter (fun x => x.stage == .paging)).length < 512 →
          exec (.hostPageResponse p r.id ans) s = .next { Claim.portSet s p { q with
              preqs := q.preqs.map (fun x => if x.id = r.id then { x with stage := .paging, tm := s.glob } else x) } with
            out := s.out ++ [.pageReq p r.id (s.pasidOf r.asid) r.va r.w] }) ∧
        (r.stage = .asked → 512 ≤ (q.preqs.filter (fun x => x.stage == .paging)).length →
          exec (.hostPageResponse p r.id ans) s = .next (Claim.portSet s p { q with
            preqs := q.preqs.map (fun x => if x.id = r.id then { x with stage := .queued } else x) }))) ∧
      (r.stage = .paging → exec (.hostPageResponse p r.id .paged) s = .next (Claim.portSet s p { q with preqs := without })) ∧
      (r.stage = .paging → r.tm + 10 ^ 8 ≤ s.glob → exec (.pageRequestTimeout p r.id) s = .next failed)) ∧
    (s.atsOn p = true → ∃ t, exec (.hostInvalidationRequest p tag pasid va l) s = .next t ∧
      t = { Claim.portSet s p { q with inval := q.inval ++ [tag] } with dies := t.dies } ∧
      ∀ d, { t.die d with tlb := (s.die d).tlb } = s.die d ∧
        ∀ e, e ∈ (t.die d).tlb ↔ e ∈ (s.die d).tlb ∧ ¬ ((∃ g, e.host = some (p, g)) ∧ s.pasidOf e.asid = pasid.toNat ∧
          ∃ x, va.toNat / 2 ^ l = x / 2 ^ l ∧ e.va ≤ x ∧ x < e.va + 2 ^ e.log2)) ∧
    (tag ∈ q.inval → exec (.hostInvalidationCompletion p tag) s =
      .next { Claim.portSet s p { q with inval := q.inval.erase tag } with out := s.out ++ [.invDone p tag] }) ∧
    (s.reachable p = true → exec (.addressTranslationEnable p true) s = .next (Claim.portSet s p { q with ats := true }) ∧
      ∃ t, exec (.addressTranslationEnable p false) s = .next t ∧
        t = { Claim.portSet s p { q with ats := false, refused := [], preqs := [] } with dies := t.dies, ports := t.ports } ∧
        t.port p = { q with ats := false, refused := [], preqs := [] } ∧ t.port (!p) = s.port (!p) ∧
        ∀ d, { t.die d with tlb := (s.die d).tlb } = s.die d ∧
          ∀ e, e ∈ (t.die d).tlb ↔ e ∈ (s.die d).tlb ∧ ¬ ∃ g, e.host = some (p, g)) ∧
    (s.tlbinv.getLsbD 63 = true →
      let asid := (s.tlbinv.extractLsb' 0 14).toNat
      let kind := (s.tlbinv.extractLsb' 61 2).toNat
      (s.invBusy = true → exec .tlbInvalidationComplete s = .next s) ∧
      (s.invBusy = false → ∃ t, exec .tlbInvalidationComplete s = .next t ∧
        t.tlbinv = s.tlbinv &&& 0x7FFFFFFFFFFFFFFF#64 ∧ { t with dies := s.dies, tlbinv := s.tlbinv } = s ∧
        ∀ d, { t.die d with tlb := (s.die d).tlb, walks := (s.die d).walks } = s.die d ∧
          (∀ e, e ∈ (t.die d).walks ↔ e ∈ (s.die d).walks ∧ ¬ (kind = 0 ∨ e.asid = asid)) ∧
          ∀ e, e ∈ (t.die d).tlb ↔ e ∈ (s.die d).tlb ∧ ¬ (e.host = none ∧
            (kind = 0 ∨ (e.asid = asid ∧ (kind = 1 ∨ (kind = 2 ∧ e.va = s.tlbiva.toNat / 2 ^ e.log2 * 2 ^ e.log2))))))) ∧
    ((∀ e ∈ s.lanes, e.2.phase = .idle) → s.fab = [] → s.invBusy = false)

/-! ### Boot and power -/

/-- R273 to R276, R274: the boot window. A claim of the open window takes it for its port, and of two claims on one global cycle port 0 wins: what port 1 has written since
its own is ignored; the claimant's `BOOTADDR` and
GO are taken, others' ignored; GO starts the load of
an image, and starts none while an image loads and after RESULT 2, and its check puts the image into HBM and RESULT into the window; a failed check, a read that the host does not
answer and 10 s without GO end the claim; after a successful check firmware starts, and its two tables lie in local HBM, apart.
Where the image and the two tables lie is log 3, both links up at power-up log 5, which check an image passes and the read that
is not answered log 13, and GO while an image loads or after RESULT 2 log 30 (the model's choices). -/
def Obligations.BootWindowAndFirmware : Prop :=
  ∀ (s : State) (p : Bool) (v : W64) (minor : BitVec 8) (hbm : BitVec 32) (ports : BitVec 128) (units : List (BitVec 32)),
    let b := s.boot
    let n : Nat := if p then 2 else 1
    let with' (c : Boot) : Host.Outcome State Fault Refusal := .next { s with boot := c }
    (s.power = false → exec .modulePowerUp s = .next { s with power := true, ports := [] }) ∧
    (s.reachable p = true → v.getLsbD 0 = true → b.st = 0 → exec (.bootclaimWrite p v) s = with' { b with
      st := n, tm := s.glob, before := (b.addr, b.len, b.result, b.attempts) }) ∧
    (s.reachable p = true → v.getLsbD 0 = true → b.st = 1 ∨ b.st = 3 ∨ (b.st = 2 ∧ (p = true ∨ b.tm ≠ s.glob)) →
      exec (.bootclaimWrite p v) s = .next s) ∧
    (s.reachable false = true → v.getLsbD 0 = true → b.st = 2 → b.tm = s.glob → exec (.bootclaimWrite false v) s = with' { b with
      st := 1, load := none, addr := b.before.1, len := b.before.2.1, result := b.before.2.2.1, attempts := b.before.2.2.2 }) ∧
    (s.reachable p = true → v.getLsbD 0 = false → exec (.bootclaimWrite p v) s = .next s) ∧
    (s.reachable p = true → b.st = n → v.getLsbD 63 = true → b.load = none → b.result ≠ 2 →
      exec (.bootLoadStart p v) s = with' { b with
        len := v.toNat % 2 ^ 25, load := some (b.addr.toNat, v.toNat % 2 ^ 25), result := 1, attempts := min 0xFF (b.attempts + 1) }) ∧
    (s.reachable p = true → b.st = n → v.getLsbD 63 = false →
      exec (.bootLoadStart p v) s = with' { b with len := v.toNat % 2 ^ 25 }) ∧
    (s.reachable p = true → b.st = n → v.getLsbD 63 = true → (∃ l, b.load = some l) ∨ b.result = 2 →
      exec (.bootLoadStart p v) s = with' { b with len := v.toNat % 2 ^ 25 }) ∧
    (s.reachable p = true → b.st ≠ n → exec (.bootLoadStart p v) s = .next s) ∧
    (s.reachable p = true → s.parked p = [] → exec (.registerWrite p 0x10 (leBytes 8 v.toNat)) s =
      if b.st = n then with' { b with addr := BitVec.ofNat 64 (v.toNat / 2 ^ 12 * 2 ^ 12) } else .next s) ∧
    (∀ bus len, b.load = some (bus, len) → b.st = n → b.tm ≠ s.glob →
      let img := rdBytes s.mem (hostKey p bus) len
      let mem := wrBytes s.mem (hbmKey bootImageAt) img
      (bootLenOk len = false → exec .bootImageCheck s = with' { b with st := 0, load := none, result := 0x10 }) ∧
      (bootLenOk len = true → exec .bootImageCheck s =
        if Config.hostRefuses p bus len then with' { b with st := 0, load := none, result := 0x13 }
        else .next { s with
          mem := mem, boot := if bootCheck img = 2 then { b with result := 2, load := none }
            else { b with st := 0, load := none, result := bootCheck img } })) ∧
    (s.power = true → b.st = 1 ∨ b.st = 2 → b.load = none → b.result ≠ 2 → b.tm + 10 ^ 10 ≤ s.glob →
      exec .bootClaimLapse s = with' { b with st := 0 }) ∧
    (s.power = true → b.result = 2 → s.fwUp = false → ∃ t, exec (.firmwareBootComplete minor hbm ports units) s = .next t ∧
      t.fwUp = true ∧ t.boot = { b with st := 3 } ∧ t.cores = s.cores ∧
      t.fwMaj = 2 ∧ t.fwMin = minor.toNat ∧ t.diemask = s.diemask ∧
      (∀ k, k ∈ t.stackOff ↔ k < 32 ∧ hbm.getLsbD k = false) ∧ (∀ k, k ∈ t.portDown ↔ k < 128 ∧ ports.getLsbD k = false) ∧
      (∀ u, u ∈ t.retired ↔ u ∈ s.retired ∨ (u ∈ units ∧ unitOk u.toNat = true)) ∧
      (let c := t.ctxbase.toNat
       let u := t.setbase.toNat
       c % 2 ^ 18 = 0 ∧ c + 2 ^ 18 ≤ 2 ^ 41 ∧ u % 2 ^ 30 = 0 ∧ u + 2 ^ 30 ≤ 2 ^ 41 ∧ (c + 2 ^ 18 ≤ u ∨ u + 2 ^ 30 ≤ c)))

/-- R13, R14, R267: without power the module keeps nothing of its own, while host memory stands; above the throttle mark no
launch is admitted until the release: a boundary ends with every candidate where it was; a die or a stack that firmware takes out leaves the counts of `MODID`, and raises REPL where a count falls.
`MODID` reads the version, DIEMASK, and, once firmware is up, the counts of placeable cores, stacks and ports. That the
throttle, its release and the trip are inputs, and that the release begins a launch boundary, are log 31 (DESIGN CHOICE). -/
def Obligations.PowerHeatAndLostUnits : Prop :=
  ∀ (s : State) (d : BitVec 2) (k : BitVec 5), s.power = true →
    (∀ e ∈ [Instr.modulePowerOff, .thermalTrip], ∃ t, exec e s = .next t ∧ t.power = false ∧ t.cores = [] ∧ t.insts = [] ∧
      t.dies = [] ∧ t.lanes = [] ∧ t.fwUp = false ∧ (t.port false).up = false ∧ (t.port true).up = false ∧ t.boot = ⟨0, 0, none, 0, 0, 0, 0, (0, 0, 0, 0)⟩ ∧ t.inbox = s.inbox ∧
      (memWf s.mem = true → ∀ a, rdByte t.mem a = if a < 2 ^ 64 then memDefault else rdByte s.mem a)) ∧
    (∃ t, exec .thermalThrottle s = .next t ∧ t.thermal = true ∧ t.cores = s.cores ∧ t.insts = s.insts ∧ t.cands = s.cands ∧
      (s.fwUp = false ∨ s.thermal = true → t = { s with thermal := true })) ∧
    (s.thermal = true → s.boundary = true → s.reports = [] → (∀ i ∈ s.insts, i.phase ≠ .saved) →
      ∃ t, exec .launchAdmission s = .next t ∧ t = { s with boundary := false, fab := t.fab }) ∧
    (s.thermal = true → s.boundary = false → s.reports = [] → ∃ t, exec .launchAdmission s = .next t ∧ t.insts = s.insts ∧
      t.cores = s.cores ∧ t.turn = s.turn) ∧
    (s.thermal = true → exec .thermalRelease s = .next { s with thermal := false, boundary := true }) ∧
    (s.fwUp = true → s.diemask.getLsbD d.toNat = true → ∃ t, exec (.diemaskClear d) s = .next t ∧ t.repl = true ∧
      t.cores = s.cores ∧ ∀ i : Nat, t.diemask.getLsbD i = (s.diemask.getLsbD i && decide (i ≠ d.toNat))) ∧
    (s.fwUp = true → k.toNat ∉ s.stackOff → ∃ t, exec (.stackDisable k) s = .next t ∧ t.cores = s.cores ∧
      t.stackOff = s.stackOff ++ [k.toNat] ∧ t.diemask = s.diemask ∧
      (s.diemask.getLsbD (k.toNat / 8) = true → t.repl = true) ∧
      (s.diemask.getLsbD (k.toNat / 8) = false → t = { s with stackOff := s.stackOff ++ [k.toNat] })) ∧
    (let cores := (List.range 4096).filter (fun k => decide (k % 1024 / 16 < 36) &&
        !(k % 1024 == 35 * 16 + 14 || k % 1024 == 35 * 16 + 15) && s.diemask.getLsbD (k / 1024) &&
        !(s.retired.any (fun u => unitCovers u.toNat k) && !s.insts.any (fun i => i.held.contains k)))
     let hbms := (List.range 32).filter (fun k => s.diemask.getLsbD (k / 8) && !s.stackOff.contains k)
     let ports := (List.range 128).filter (fun k => s.diemask.getLsbD (k / 32) && !s.portDown.contains k)
     s.modid = 2 * 2 ^ 56 + s.fwMaj % 256 * 2 ^ 48 + s.fwMin % 256 * 2 ^ 40 + s.diemask.toNat * 2 ^ 32 +
       (if s.fwUp then cores.length * 2 ^ 20 + hbms.length * 2 ^ 12 + ports.length * 2 ^ 4 else 0) + s.repl.toNat)

/-! ### Ports and streams -/

namespace Sys2Proof.Claim

open Sys2Proof Sys2Proof.Machine

/-- The state with a stream context replaced. -/
def strmSet (s : State) (p : Bool) (n : Nat) (t : Strm) : State :=
  portSet s p { s.port p with strms := Sparse.put (s.port p).strms n (some t) }

/-- The record that a stream takes next (R278): the stream is enabled, free of error and not held back, `WRIDX` is within a
ring's length of `CONSUMED`, the ring read succeeds, and the record passes its checks. -/
def record (s : State) (p : Bool) (n : Nat) (op : Nat) (b : List Byte) (s1 : State) : Prop :=
  let t := s.strm p n
  let seq := t.consumed + 1
  s.serves p = true ∧ t.en = true ∧ t.err = false ∧ (∀ c ∈ t.fly, c.holds = false) ∧ 1 ≤ (t.wridx - t.consumed).toNat ∧
  (t.wridx - t.consumed).toNat ≤ 2 ^ t.log2n ∧
  s.vaRead (s.strmWho p n seq) (t.ring.toNat + 64 * (seq.toNat % 2 ^ t.log2n)) 64 = (.ok b, s1) ∧
  fieldAt b 4 4 = seq.toNat ∧ fieldAt b 0 1 = op ∧ 1 ≤ op ∧ op ≤ 7 ∧ recOk t b = true

/-- The state after a stream has consumed its next record as a command in flight; the accesses that read it are over. -/
def consumes (s : State) (p : Bool) (n : Nat) (k : SKind) : State :=
  let seq := (s.strm p n).consumed + 1
  strmSet (s.quit (s.strmWho p n seq)) p n { s.strm p n with consumed := seq, fly := (s.strm p n).fly ++ [⟨seq, k⟩] }

/-- The state after a command of a stream has completed: it is in flight no more, `COMPLETED` counts it, and its MSI-X vector
is sent where it asks for one. -/
def completes (s : State) (p : Bool) (n : Nat) (seq : W32) (msix : Bool) : State :=
  let t := s.strm p n
  let u := strmSet s p n (Strm.advance (t.ahead.length + 1)
    { t with fly := t.fly.filter (fun c => c.seq != seq), ahead := t.ahead ++ [seq] })
  if msix then { u with out := u.out ++ [.msix p (1 + n)] } else u

end Sys2Proof.Claim

/-- R277, R278, R280, R6: writes of a port's registers. RING, LOG2N, PRIO, ASID, DEBUG, CONSUMED and COMPLETED of a stream take a value
while its EN is 0 and keep theirs while it is 1; so do EVRING and LOG2N of the event ring; a LOG2N out of range is ignored; `EVCONS`
and `WRIDX` take theirs always. A new COMPLETED forgets what had completed ahead of the old one. Enabling a stream whose LOG2N is in range starts it, and disabling it
clears ERR; `WRIDX` takes its value; the event ring is enabled only with its LOG2N in range, and a held event whose turn has
come is written into its slot of 32 bytes; offsets that hold no register ignore writes. A write behind an access of its port
that waits waits too (R160). That a window write waits behind an earlier access of its port that waits is R160; the boot
registers shared by both ports are log 30 (DEDUCED). -/
def Sys2Proof.Claim.PortRegistersAreWritten : Prop :=
  ∀ (s : State) (p : Bool) (n : BitVec 9) (v : W32) (off : BitVec 26) (data : List Byte), s.serves p = true →
    let q := s.port p
    let t := s.strm p n.toNat
    (s.parked p ≠ [] → ∀ i ∈ [Instr.streamEnable p n, .streamDisable p n, .streamWridxWrite p n v, .registerWrite p off data,
      .eventRingEnable p, .evconsWrite p v], exec i s = .next { s with waiting := s.waiting ++ [i] }) ∧
    (s.parked p = [] →
    (4 ≤ t.log2n ∧ t.log2n ≤ 16 ∨ t.en = true →
      exec (.streamEnable p n) s = .next (Claim.strmSet s p n.toNat { t with en := true })) ∧
    (t.en = false → ¬ (4 ≤ t.log2n ∧ t.log2n ≤ 16) → ∃ u, exec (.streamEnable p n) s = .next u ∧
      u.strm p n.toNat = { t with en := true, err := true, errcode := 4, errseq := t.consumed + 1 } ∧
      (u.port p).evseq = q.evseq + 1) ∧
    exec (.streamDisable p n) s = .next (Claim.strmSet s p n.toNat { t with en := false, err := false }) ∧
    exec (.streamWridxWrite p n v) s = .next (Claim.strmSet s p n.toNat { t with wridx := v }) ∧
    (t.en = true → exec (.registerWrite p (0x0100010 + 64 * n.setWidth 26) (leBytes 4 v.toNat)) s =
      .next (Claim.strmSet s p n.toNat { t with wridx := v })) ∧
    (data.length ≤ 64 - off.toNat % 64 → 64 ≤ off.toNat → off.toNat / 64 * 64 ≠ 0xF0000 →
      ¬ (0x100000 ≤ off.toNat ∧ off.toNat < 0x108000) → exec (.registerWrite p off data) s = .next s) ∧
    (t.prio < 4 → t.asid < 2 ^ 14 → t.log2n < 256 →
      let put (u : Strm) : Host.Outcome State Fault Refusal := .next (Claim.strmSet s p n.toNat u)
      let wr (o : Nat) (d : List Byte) := exec (.registerWrite p (BitVec.ofNat 26 (0x100000 + 64 * n.toNat + o)) d) s
      ∀ (a : W64) (x : Nat), x < 2 ^ 32 → let y : W32 := BitVec.ofNat 32 x
      (t.en = true → wr 0 (leBytes 8 a.toNat) = put t ∧ wr 8 (leBytes 1 x) = put t ∧ wr 9 (leBytes 1 x) = put t ∧
        wr 0xA (leBytes 2 x) = put t ∧ wr 0x14 (leBytes 4 x) = put t ∧ wr 0x18 (leBytes 4 x) = put t ∧
        wr 0xC (leBytes 4 x) = put (if x.testBit 0 then t else { t with en := false, err := false })) ∧
      (t.en = false → wr 0 (leBytes 8 a.toNat) = put { t with ring := a } ∧
        (x < 256 → wr 8 (leBytes 1 x) = put (if 4 ≤ x ∧ x ≤ 16 then { t with log2n := x } else t) ∧
          wr 9 (leBytes 1 x) = put { t with prio := x % 4 }) ∧
        (x < 2 ^ 16 → wr 0xA (leBytes 2 x) = put { t with asid := x % 2 ^ 14 }) ∧
        wr 0x14 (leBytes 4 x) = put { t with consumed := y } ∧
        wr 0x18 (leBytes 4 x) = put { t with completed := y, ahead := if y = t.completed then t.ahead else [] } ∧
        wr 0x10 (leBytes 4 x) = put { t with wridx := y } ∧
        (x.testBit 0 = false → wr 0xC (leBytes 4 x) = put { t with err := false, debug := x.testBit 2 }) ∧
        (x.testBit 0 = true → 4 ≤ t.log2n → t.log2n ≤ 16 →
          wr 0xC (leBytes 4 x) = put { t with en := true, debug := x.testBit 2 }))) ∧
    (q.held = [] → q.evlog < 256 →
      let put (u : Port) : Host.Outcome State Fault Refusal := .next (Claim.portSet s p u)
      let wr (o : Nat) (d : List Byte) := exec (.registerWrite p (BitVec.ofNat 26 (0xF0000 + o)) d) s
      ∀ (a : W64) (x : Nat), x < 256 →
      wr 0x14 (leBytes 4 v.toNat) = put { q with evcons := v } ∧
      wr 9 (leBytes 1 x) = put { q with even := x.testBit 0 && (q.even || decide (4 ≤ q.evlog ∧ q.evlog ≤ 16)) } ∧
      (q.even = true → wr 0 (leBytes 8 a.toNat) = put q ∧ wr 8 (leBytes 1 x) = put q) ∧
      (q.even = false → wr 0 (leBytes 8 a.toNat) = put { q with evring := a } ∧
        wr 8 (leBytes 1 x) = put (if 4 ≤ x ∧ x ≤ 16 then { q with evlog := x } else q))) ∧
    (q.held = [] → 4 ≤ q.evlog → q.evlog ≤ 16 →
      exec (.eventRingEnable p) s = .next (Claim.portSet s p { q with even := true })) ∧
    (q.held = [] → q.even = false → ¬ (4 ≤ q.evlog ∧ q.evlog ≤ 16) →
      exec (.eventRingEnable p) s = .next (Claim.portSet s p { q with even := false })) ∧
    (q.held = [] → exec (.evconsWrite p v) s = .next (Claim.portSet s p { q with evcons := v })) ∧
    (∀ e key tier s1, q.held = [e] → q.even = true → (e.seq - v).toNat ≤ 2 ^ q.evlog →
      (Claim.portSet s p { q with evcons := v }).xlate (if p then 3 else 0) 0
        (q.evring.toNat + 32 * (e.seq.toNat % 2 ^ q.evlog)) true = (.ok key tier, s1) → tier ≠ 1 →
      ∃ u, exec (.evconsWrite p v) s = .next u ∧ (u.port p).held = [] ∧ (u.port p).evprod = e.seq ∧
        u.out = s1.out ++ [.msix p 0] ∧
        u.mem = wrBytes s1.mem key (leBytes 1 e.ty ++ leBytes 1 e.cause ++ leBytes 2 e.strm ++ leBytes 4 e.seq.toNat ++
          leBytes 8 e.glob ++ leBytes 4 e.cmd.toNat ++ leBytes 4 0 ++ leBytes 8 e.data.toNat)))

/-- R282, R274: a function-level reset and the loss of a link disable the port's streams, empty its event ring, end its
instances without a record, stop translation through it and drop what waits there; a link that comes up changes nothing else.
Which commands in flight a reset keeps, and what it does to EVCONS, are log 30 (DEDUCED). -/
def Sys2Proof.Claim.ResetsAndLinks : Prop :=
  ∀ (s : State) (p : Bool), s.reachable p = true → s.insts.Pairwise (fun a b => a.id ≠ b.id) →
    let q := s.port p
    let cleared (t : State) : Prop :=
      (t.port p).strms = q.strms.map (fun e => (e.1, e.2.map (fun t => { t with
        en := false, err := false, fly := t.fly.filter (fun c => !c.isLaunch) }))) ∧
      (t.port p).even = false ∧ (t.port p).held = [] ∧ (t.port p).preqs = [] ∧ (t.port p).refused = [] ∧
      (∀ d e, e ∈ (t.die d).tlb ↔ e ∈ (s.die d).tlb ∧ ¬ ∃ g, e.host = some (p, g)) ∧
      t.waiting = s.waiting.filter (fun i => hostPort i != some p) ∧
      t.cands = s.cands.filter (fun l => l.port != p) ∧ t.mem = s.mem ∧ t.port (!p) = s.port (!p) ∧
      (∀ x ∈ t.insts, x.l.port = p → x.phase = .vanish) ∧ (∀ x ∈ s.insts, x.l.port ≠ p → x ∈ t.insts)
    (∃ t, exec (.functionLevelReset p) s = .next t ∧ cleared t ∧ (t.port p).ats = false ∧ (t.port p).up = q.up ∧ t.boot = s.boot) ∧
    (∃ t, exec (.linkDown p) s = .next t ∧ cleared t ∧ (t.port p).up = false ∧ (t.port p).ats = q.ats ∧
      t.boot = if s.boot.st = (if p then 2 else 1) then { s.boot with
        st := 0, load := none, result := if s.boot.load.isSome then 0x13 else s.boot.result } else s.boot) ∧
    (∀ r : Bool, s.power = true → exec (.linkUp r) s = .next (Claim.portSet s r { s.port r with up := true }))

/-- R278, R279, R44: the next record of a stream becomes a command in flight: a `LAUNCH` stands for admission and begins a
launch boundary, a `COLLECTIVE` is handed to its engine, the others wait for their completion. A record whose SEQ is wrong
stops the stream with code 0x01. That SEQ is judged before OP and the reserved fields is log 33 (DEDUCED). -/
def Obligations.StreamsConsumeRecords : Prop :=
  ∀ (s s1 : State) (p : Bool) (n : BitVec 9) (b : List Byte),
    let w (o : Nat) : W64 := BitVec.ofNat 64 (fieldAt b o 8)
    let fl := fieldAt b 1 1
    let takes (op : Nat) := Claim.record s p n.toNat op b s1
    let gives (k : SKind) : Host.Outcome State Fault Refusal := .next (Claim.consumes s1 p n.toNat k)
    let t := s1.strm p n.toNat
    (takes 1 → exec (.launchRec p n) s = .next { Claim.consumes s1 p n.toNat (.launch (w 0x18) (w 0x20) (fl.testBit 1) false) with
      boundary := true
      cands := s1.cands ++ [{
        port := p, strm := n.toNat, seq := t.consumed + 1, asid := t.asid, prio := t.prio, debug := fl.testBit 0
        msix := fl.testBit 1, image := w 8, cmpl := w 0x10, sig := w 0x18, sigval := w 0x20, argva := w 0x28
        arglen := BitVec.ofNat 64 (fieldAt b 0x30 4), tm := s1.glob, hold := none }] }) ∧
    (takes 2 → exec (.waitvRec p n) s = gives (.waitv (w 8) (w 0x10) (w 0x18) (fl % 8))) ∧
    (takes 3 → exec (.signalRec p n) s = gives (.signal (w 8) (w 0x10) (fl.testBit 0) (fl.testBit 1))) ∧
    (takes 4 → exec (.copyRec p n) s = gives (.copy (w 8) (w 0x10) (fieldAt b 0x18 8))) ∧
    (takes 6 → exec (.eventRec p n) s = gives (.event (w 8) none)) ∧
    (takes 7 → (s.strm p n.toNat).fly = [] → exec (.streamFence p n) s = gives .fence) ∧
    (∀ x s2 s3, takes 5 → let blk := (b.drop 8).take 48
      (∀ o ∈ [0, 8, 0x10, 0x20], fieldAt blk o 8 < 2 ^ 57) → s1.collRead (s1.strmWho p n.toNat (t.consumed + 1)) false blk = (.ok x, s2) →
      s2.collTake (if p then 3 else 0) { x with strm := some (p, n.toNat, t.consumed + 1), asid := (s2.strm p n.toNat).asid } = (.ok (), s3) →
      exec (.collectiveRec p n) s = .next (Claim.consumes s3 p n.toNat (.coll false))) ∧
    (let u := s.strm p n.toNat
     s.serves p = true → u.en = true → u.err = false → (∀ c ∈ u.fly, c.holds = false) → 1 ≤ (u.wridx - u.consumed).toNat →
      (u.wridx - u.consumed).toNat ≤ 2 ^ u.log2n →
      s.vaRead (s.strmWho p n.toNat (u.consumed + 1)) (u.ring.toNat + 64 * ((u.consumed + 1).toNat % 2 ^ u.log2n)) 64 = (.ok b, s1) →
      fieldAt b 4 4 ≠ (u.consumed + 1).toNat → ∃ r, exec (.launchRec p n) s = .next r ∧
        r.strm p n.toNat = { s1.strm p n.toNat with err := true, errcode := 1, errseq := (s1.strm p n.toNat).consumed + 1 })

/-- R277, R279, R161: when the commands of a stream complete. A `WAITV` completes when its condition holds; a `SIGNAL` and the
signal of a `LAUNCH` write after every earlier command, and behind an unfinished one do nothing; a `COPY` moves one row after another; an `EVENT` raises its USER event
and completes once it no longer waits for the ring; a fence completes once it is first in flight. `COMPLETED` is the largest
SEQ below which every command has completed, several of which may have completed ahead of it. That the signal of a `LAUNCH` waits for every earlier command is log 33 (DEDUCED),
and that a dropped event completes its command is log 46 (the model's choice). -/
def Obligations.StreamCommandsComplete : Prop :=
  ∀ (s s1 s2 : State) (p : Bool) (n : BitVec 9) (c : SCmd) (rest : List SCmd) (bs : List Byte),
    (s.strm p n.toNat).fly = c :: rest →
    let who := s.strmWho p n.toNat c.seq
    let done (s : State) (m : Bool) : Host.Outcome State Fault Refusal := .next (Claim.completes s p n.toNat c.seq m)
    let now (s : State) (k : SKind) : State := Claim.strmSet s p n.toNat { s.strm p n.toNat with
      fly := (s.strm p n.toNat).fly.map (fun x => if x.seq = c.seq then { x with kind := k } else x) }
    let last' := exec (.streamCommandComplete p n c.seq) s
    (∀ a v m k, c.kind = .waitv a v m k → s.vaRead who a.toNat 8 = (.ok bs, s1) →
      condHolds 64 k ((BitVec.ofNat 64 (leNat bs)) &&& m).toNat v.toNat = true → exec (.waitvPoll p n) s = done (s1.quit who) false) ∧
    (∀ a v m, c.kind = .signal a v false m → s.wrOp who false (.va a.toNat) (leBytes 8 v.toNat) = (.ok (), s1) →
      last' = done (s1.quit who) m) ∧
    (∀ a v m old, c.kind = .signal a v true m → s.sigWrite p n.toNat c.seq a v true = (.ok old, s1) → last' = done (s1.quit who) m) ∧
    (∀ d ∈ rest, c.seq ≠ d.seq → (c :: rest).find? (fun x => x.seq == d.seq) = some d →
      let behind := exec (.streamCommandComplete p n d.seq) s
      (∀ a v x m, d.kind = .signal a v x m → behind = .next s) ∧
      (∀ a v m x, a ≠ 0 ∨ x = false → d.kind = .launch a v m x → behind = .next s) ∧
      (∀ v m, d.kind = .launch 0 v m true → behind = .next (Claim.completes s p n.toNat d.seq m)) ∧
      ((∃ src dst, d.kind = .copy src dst 0) ∨ d.kind = .coll true → behind = .next (Claim.completes s p n.toNat d.seq false)) ∧
      (d.kind = .fence → c.kind ≠ .fence → exec (.streamFence p n) s = .next s)) ∧
    (∀ v m, c.kind = .launch 0 v m true → last' = done s m) ∧
    (∀ a v m, a ≠ 0 → c.kind = .launch a v m true → s.wrOp who false (.va a.toNat) (leBytes 8 v.toNat) = (.ok (), s1) →
      last' = done (s1.quit who) m) ∧
    (∀ src dst len, len ≠ 0 → c.kind = .copy src dst len → s.rdOp who false (.va src.toNat) 64 = (.ok bs, s1) →
      s1.wrOp who false (.va dst.toNat) bs = (.ok (), s2) →
      last' = .next (now (s2.quit who) (.copy (src + 64) (dst + 64) (len - 64)))) ∧
    (∀ src dst, c.kind = .copy src dst 0 → last' = done s false) ∧ (c.kind = .coll true → last' = done s false) ∧
    (∀ tag, c.kind = .event tag none → (s.port p).even = false → (s.port p).held.length < 1024 →
      let q := s.port p
      last' = .next (now (Claim.portSet s p { q with
        evseq := q.evseq + 1, held := q.held ++ [⟨1, 0, n.toNat, q.evseq + 1, s.glob, c.seq, tag, 0, 0⟩] })
        (.event tag (some (q.evseq + 1))))) ∧
    (∀ tag e, c.kind = .event tag (some e) → ((∀ x ∈ (s.port p).held, x.seq ≠ e) → last' = done s false) ∧
      ((∃ x ∈ (s.port p).held, x.seq = e) → last' = .next s)) ∧
    (c.kind = .fence → exec (.streamFence p n) s = done s false) ∧
    (∀ (t : Strm) (l : List W32) (k : Nat), l.Nodup → k ≤ l.length → k < 2 ^ 32 →
      (∀ i, 1 ≤ i → i ≤ k → t.completed + BitVec.ofNat 32 i ∈ l) → t.completed + BitVec.ofNat 32 (k + 1) ∉ l →
      ∃ u, Strm.advance l.length { t with ahead := l } = { t with completed := t.completed + BitVec.ofNat 32 k, ahead := u } ∧
        ∀ x, x ∈ u ↔ x ∈ l ∧ ∀ i, 1 ≤ i → i ≤ k → x ≠ t.completed + BitVec.ofNat 32 i) ∧
    (∀ t : Strm, t.ahead = [] → (∀ k, 0 < k → k < 2 ^ 31 →
      Strm.advance 2 { t with ahead := [t.completed + BitVec.ofNat 32 k] } =
        if k = 1 then { t with completed := t.completed + 1, ahead := [] } else { t with ahead := [t.completed + BitVec.ofNat 32 k] }))

/-! ### The window, the fabric, leaks and retired units -/

/-- R281, R445, R160, R163: accesses through the window onto the device half, at VA 2^56 + APBASE + offset under APASID. A
write performs or is dropped and logged; a read is answered with its bytes or with Completer Abort; an access that must wait,
for a page in transit or for a peer, is kept with what it has asked, and later accesses of its port wait behind it. A fault of
translation leaves memory as it was; the parity errors that it met are counted and gone (R172). How a request travels to a peer and what its answer does here are log 15
(DESIGN CHOICE). -/
def Sys2Proof.Claim.WindowAccessesPerformOrAbort : Prop :=
  ∀ (s s1 : State) (p : Bool) (off : BitVec 36) (data bs : List Byte) (n cause : Nat) (d : W64), s.serves p = true →
    let q := s.port p
    let who : Who := ⟨0xFFFF, if p then 3 else 0, q.apasid, 1, 8191⟩
    let at' : Opnd := .va (2 ^ 56 + q.apbase.toNat + off.toNat)
    let write := s.wrOp who false at' data
    let read := s.rdOp who false at' n
    let wr := exec (.bar2WindowWrite p off data) s
    let rd := exec (.bar2WindowRead p off n) s
    let tells (s : State) (l : List Out) : Host.Outcome State Fault Refusal := .next { s.quit who with out := s.out ++ l }
    let kept (s : State) (i : Instr) : Host.Outcome State Fault Refusal := .next { s with waiting := s.waiting ++ [i] }
    (s.parked p ≠ [] → wr = kept s (.bar2WindowWrite p off data) ∧ rd = kept s (.bar2WindowRead p off n)) ∧
    (s.parked p = [] →
      (write = (.ok (), s1) → wr = tells s1 []) ∧ (write = (.err cause d, s1) → wr = tells (s.undone s1) [.aer p]) ∧
      (write = (.wait, s1) → wr = kept ((s.waited s1).getD s) (.bar2WindowWrite p off data)) ∧
      (read = (.ok bs, s1) → rd = tells s1 [.bar2 p (some bs)]) ∧
      (read = (.err cause d, s1) → cause ≠ 0x18 → cause ≠ 0x25 → rd = tells (s.undone s1) [.bar2 p none, .aer p]) ∧
      (read = (.err cause d, s1) → cause = 0x18 ∨ cause = 0x25 → rd = tells s1 [.bar2 p none, .aer p]) ∧
      (read = (.wait, s1) → rd = kept ((s.waited s1).getD s) (.bar2WindowRead p off n))) ∧
    ((s.undone s1).mem = s.mem ∧ (s.undone s1).cores = s.cores ∧ (s.undone s1).insts = s.insts ∧ (s.undone s1).parity = s1.parity ∧
      ∀ k, ((s.undone s1).die k).rows = (s.die k).rows ∧ ((s.undone s1).die k).queues = (s.die k).queues) ∧
    (s.serves (!p) = false → exec (.bar2WindowWrite (!p) off data) s = .next s ∧ exec (.bar2WindowRead (!p) off n) s = .next s)

/-- R283, R14, R54, R162, R163, R139: flits at a Cloeth port that is up. A peer's write, read and atomic access perform at this module's HBM
and are answered, one that meets an uncorrectable granule without data, and what comes for a collective is acknowledged, and kept unless
the collective is over at its rank (log 26); none
reaches another die that is clear in DIEMASK (R14; log 14), and one waits while its page is in transit or an earlier one of its
port waits (R163); the answer of a peer reaches the access that waits for
it, or goes back to the peer whose access this module passed on; a flit that fails its CRC is asked for again and counts as a retry; after more than 1,000 retries within a second the port
goes down, and REPL is set. A port that is down carries nothing. How a flit performs in one step, what an acknowledgement ends,
and where a second of the retry counts begins are log 15 (DESIGN CHOICE). -/
def Sys2Proof.Claim.FlitsAreServed : Prop :=
  ∀ (s : State) (p : BitVec 7) (a : BitVec 41) (data : List Byte) (n tag : Nat) (peer : BitVec 10) (u eight : Bool)
      (op : BitVec 3) (v c : W64) (x : Contrib) (f : Flit),
    (s.portUp p.toNat = true →
      let there (die : Nat) : Prop := s.diemask.getLsbD die = true ∨ p.toNat / 32 = die
      let answer (t : State) (bs : List Byte) : Host.Outcome State Fault Refusal :=
        .next { t with out := t.out ++ [.flitReply peer.toNat tag bs] }
      let bad (len : Nat) : Prop := ∃ g ∈ granules a.toNat len, s.hbmBad g = true
      let sound : Prop := ∀ e ∈ s.errs, e.kind ≠ 6
      let size := if eight then 8 else 4
      let old := rdLE s.mem (hbmKey a.toNat) size
      let atomic (op : BitVec 3) (new : Nat) : Prop :=
        exec (.cloethFlitArrival p (.atomic a op u eight v c peer tag)) s =
          answer (s.store (hbmKey a.toNat) (leBytes size (new % 2 ^ (8 * size)))) (leBytes size old)
      let val := v.toNat % 2 ^ (8 * size)
      let less (x y : Nat) : Prop := if u then x < y else (BitVec.ofNat (8 * size) x).toInt < (BitVec.ofNat (8 * size) y).toInt
      (s.moves = [] → s.flits = [] → ¬ there (a.toNat / 2 ^ 39) →
        (∀ g ∈ [Flit.write a data peer tag, .read a n peer tag], exec (.cloethFlitArrival p g) s = .next s) ∧
        (s.was = [] → exec (.cloethFlitArrival p (.atomic a op u eight v c peer tag)) s = .next s)) ∧
      (s.moves = [] → s.flits = [] → there (a.toNat / 2 ^ 39) →
      exec (.cloethFlitArrival p (.write a data peer tag)) s = answer (s.store (hbmKey a.toNat) data) [] ∧
      (bad n → exec (.cloethFlitArrival p (.read a n peer tag)) s = answer s []) ∧
      (¬ bad n → exec (.cloethFlitArrival p (.read a n peer tag)) s =
        answer (s.hbmCount (granules a.toNat n)) (s.hbmBytes a.toNat n)) ∧
      (s.was = [] → s.hbmBytes a.toNat n = rdBytes s.mem (hbmKey a.toNat) n) ∧
      (s.was = [] → bad size → exec (.cloethFlitArrival p (.atomic a op u eight v c peer tag)) s = answer s []) ∧
      (s.was = [] → sound → s.hbmCount (granules a.toNat n) = s ∧ ¬ bad n ∧
        atomic 0 (old + val) ∧ (less val old → atomic 1 val ∧ atomic 2 old) ∧ (¬ less val old → atomic 1 old) ∧
        (less old val → atomic 2 val) ∧ atomic 3 (Nat.land old val) ∧ atomic 4 (Nat.lor old val) ∧ atomic 5 val ∧
        atomic 6 (if old = c.toNat % 2 ^ (8 * size) then val else old))) ∧
      (∀ g ∈ [Flit.write a data peer tag, .read a n peer tag, .atomic a op u eight v c peer tag],
        (∃ y, (p, y) ∈ s.flits) ∨ s.inTransit a.toNat = true →
        exec (.cloethFlitArrival p g) s = .next { s with flits := s.flits ++ [(p, g)] }) ∧
      ((∀ y ∈ s.fab, y.tag = tag → y.who.rank ≠ 8196) → exec (.cloethFlitArrival p (.ack tag data)) s =
        .next { s with fab := s.fab.map (fun x => if x.tag = tag && x.reply.isNone then { x with reply := some data } else x) }) ∧
      (∀ y, s.fab = [y] → y.tag = tag → y.reply = none → y.who.rank = 8196 → exec (.cloethFlitArrival p (.ack tag data)) s =
        .next { s with fab := [], out := s.out ++ [.flitReply y.who.asid y.who.op data] }) ∧
      exec (.cloethFlitArrival p (.coll x peer tag)) s = .next (if there (x.ranks.getD x.dst (0, 0, 0)).2.1
        then { s with
          collrx := if x.nth < s.teamDone x.ranks x.dst then s.collrx else s.collrx ++ [x]
          out := s.out ++ [.flitReply peer.toNat tag []] }
        else s) ∧
      (∃ t, exec (.cloethFlitCrcFail p) s = .next { s with retries := t, out := s.out ++ [.flitResend p.toNat] } ∧
        ∀ k, Sparse.get 0 t k = Sparse.get 0 s.retries k + (if k = p.toNat then 1 else 0)) ∧
      (1000 < Sparse.get 0 s.retries p.toNat → ∃ t, exec (.cloethPortDown p) s = .next t ∧ t.repl = true ∧
        t.portDown = s.portDown ++ [p.toNat] ∧ t.cores = s.cores ∧ t.portUp p.toNat = false) ∧
      (Sparse.get 0 s.retries p.toNat ≤ 1000 → exec (.cloethPortDown p) s = .next s)) ∧
    (s.portUp p.toNat = false →
      ∀ i ∈ [Instr.cloethFlitArrival p f, .cloethFlitCrcFail p, .cloethPortDown p], exec i s = .next s)

/-- R265, R266, R267: every LEAKPER global cycles each counter subtracts 1, down to 0, and a unit whose counter has fallen to
half its mark may raise its event again; firmware retires a unit that the host or a predictive event has named, and one whose
every core instances hold once they let go: the code enters the list of retired units, and a core that it covers is retired unless an instance holds it. That the leak falls on the
multiples of LEAKPER is log 46, and when a unit is due log 32 (the model's choices). -/
def Obligations.CountersLeakAndUnitsRetire : Prop :=
  ∀ (s : State) (code : BitVec 32), let due : Prop := code.toNat ∈ s.owes ∨ code.toNat ∈ s.failing
    (Sparse.wf 0 s.buckets = true → s.leakper ≠ 0 → s.glob % s.leakper.toNat = 0 → s.glob ≠ s.leakAt →
      ∃ b r, exec .leakyBucketLeak s = .next { s with leakAt := s.glob, buckets := b, bktrose := r } ∧
        Sparse.wf 0 b = true ∧ (∀ k, Sparse.get 0 b k = Sparse.get 0 s.buckets k - 1) ∧
        ∀ k, k ∈ r ↔ k ∈ s.bktrose ∧ s.bktmark.toNat / 2 ^ (16 * (k / 2 ^ 32)) % 2 ^ 16 < 2 * Sparse.get 0 b k) ∧
    (s.glob % s.leakper.toNat ≠ 0 ∨ s.leakper = 0 ∨ s.glob = s.leakAt → exec .leakyBucketLeak s = .next s) ∧
    (unitOk code.toNat = true → due →
      (∃ k, k < 4096 ∧ unitCovers code.toNat k = true ∧ ∀ i ∈ s.insts, k ∉ i.held) →
      ∃ t, exec (.unitRetire code) s = .next t ∧ (∀ u, u ∈ t.retired ↔ u ∈ s.retired ∨ u = code) ∧ code.toNat ∉ t.owes ∧ code.toNat ∉ t.failing ∧
        t.cores = s.cores ∧ t.insts = s.insts ∧
        (∀ k, unitCovers code.toNat k = true → (t.isRetired k = true ↔ ∀ i ∈ s.insts, k ∉ i.held)) ∧
        (s.fwUp = true → t.pcores < t.replmin → t.repl = true)) ∧
    ((∀ k, k < 4096 → unitCovers code.toNat k = true → ∃ i ∈ s.insts, k ∈ i.held) → exec (.unitRetire code) s =
      .next (if unitOk code.toNat = true ∧ due ∧ code.toNat ∉ s.owes then { s with owes := s.owes ++ [code.toNat] } else s))

/-! ### Management -/

namespace Sys2Proof.Claim

open Sys2Proof Sys2Proof.Machine

/-- A frame that obeys R287: reserved bits zero, LEN the number of its DATA bytes, at most 1,024. -/
def frame (r : Mgmt) : Prop := r.opf = 0 ∧ r.len = r.data.length ∧ r.len ≤ 1024

/-- The state after the response to a request: command, status and DATA (R287). -/
def answers (s : State) (r : Mgmt) (cmd status : Nat) (data : List Byte) : State :=
  { s with out := s.out ++ [.mgmt r.port cmd status r.sel.toNat r.tag.toNat data] }

/-- What a write request gives: the setting and its new value, or the refusal with the old value (R287). -/
def sets (s : State) (r : Mgmt) (cmd : Nat) (ok : Prop) [Decidable ok] (t : State) (now : State → List Byte) :
    Host.Outcome State Fault Refusal :=
  .next (if ok then answers t r cmd 0 (now t) else answers s r cmd 1 (now s))

/-- The commands and selectors that have a subject (R288), and `MODID` (log 34). -/
def subject (cmd sel : Nat) : Prop :=
  cmd = 0 ∨ cmd = 1 ∧ sel < 4 ∨ cmd = 2 ∧ sel = 0 ∨ cmd = 3 ∧ sel < 4 ∨ cmd = 4 ∧ sel < 3 ∨ cmd = 5 ∧ sel < 2 ∨ cmd = 6 ∧ sel < 256 ∨
  cmd = 7 ∧ sel < 32 ∨ cmd = 8 ∧ sel = 0 ∨ cmd = 9 ∧ sel < 5 ∨ cmd = 10 ∧ sel = 0 ∨ cmd = 11 ∧ sel = 0

/-- The 24 bytes of a weight range (R288). -/
def range (s : State) (n : Nat) : List Byte :=
  match Sparse.get none s.wranges n with
  | some x => leBytes 2 x.asid ++ [1, 0, 0, 0, 0, 0] ++ leBytes 8 x.va ++ leBytes 8 x.len
  | none => List.replicate 24 0

/-- A read of the debugger of some words of a core, by kind (R140, R264): sound words are answered; a correctable error is mended
and freezes the group; of an uncorrectable one no value comes, with status 0x01 (log 37). -/
def debugRead (s : State) (r : Mgmt) (i : Instr) (k kind : Nat) (ws : List Nat) (d : List Byte) : Prop :=
  let at' (e : ErrMark) : Prop := e.kind = kind ∧ e.unit = k ∧ e.idx ∈ ws
  ((∀ e ∈ s.errs, ¬ at' e) → exec i s = .next (answers s r 9 0 d)) ∧
  ((∃ e ∈ s.errs, at' e ∧ e.bad = true) → ∃ t, exec i s = .next (answers t r 9 1 []) ∧ t.cores = s.cores ∧ t.insts = s.insts ∧
    t.errs = s.errs) ∧
  ((∃ e ∈ s.errs, at' e) → (∀ e ∈ s.errs, at' e → e.bad = false) → s.fwUp = false ∨ Claim.noRing s →
    ∃ t, exec i s = .next (answers t r 9 0 d) ∧ t.mem = s.mem ∧ (∀ e, e ∈ t.errs ↔ e ∈ s.errs ∧ ¬ at' e) ∧
      ∀ j, { t.core j with freeze := (s.core j).freeze } = s.core j ∧
        (j ∈ s.groupOf k ↔ (s.core j).freeze < (t.core j).freeze))

end Sys2Proof.Claim

/-- R287, R288: the response to a read request carries the value that is in force: power limit, pre-emption bound of a die,
`LEAKPER`, `BKTMARK`, counters, retired units, REPLMIN, weight ranges, `ERRINJEN`, `MYMOD` and the aperture of the requesting
port; a key out of range, data of another length and a malformed frame (log 46) are refused, and a selector without a subject is
unassigned. Requests with more data than their selector needs, and the CMD 0x00 of `MODID` with any selector, are log 34
(DEDUCED). -/
def Sys2Proof.Claim.ManagementReadsAnswer : Prop :=
  ∀ (s : State) (r : Mgmt) (cls n first : Nat), s.serves r.port = true →
    let sel := r.sel.toNat
    let ans (cmd status : Nat) (d : List Byte) : Host.Outcome State Fault Refusal := .next (Claim.answers s r cmd status d)
    let q := s.port r.port
    (Claim.frame r → r.data = [] →
      (sel = 0 → exec (.mgmtReadPowerLimit r) s = ans 2 0 (leBytes 4 s.powerLimit) ∧
        exec (.mgmtReadLeakper r) s = ans 4 0 (leBytes 8 s.leakper.toNat) ∧
        exec (.mgmtReadErrinjen r) s = ans 8 0 (leBytes 1 s.errinjen.toNat) ∧
        exec (.mgmtReadMymod r) s = ans 10 0 (leBytes 2 s.mymod ++ leBytes 1 s.cloeth.toNat) ∧
        exec (.mgmtReadAperture r) s = ans 11 0 (leBytes 8 q.apbase.toNat ++ leBytes 2 q.apasid)) ∧
      (sel = 1 → exec (.mgmtReadBktmark r) s = ans 4 0 (leBytes 8 s.bktmark.toNat) ∧
        exec (.mgmtReadReplmin r) s = ans 5 0 (leBytes 2 s.replmin)) ∧
      (sel < 4 → exec (.mgmtReadPreemptBound r) s = ans 3 0 (leBytes 4 (s.bounds.getD sel 200))) ∧
      (sel < 256 → (∀ w, Sparse.get none s.wranges sel = some w →
          exec (.mgmtReadWeightRange r) s =
            ans 6 0 (leBytes 2 w.asid ++ [1, 0, 0, 0, 0, 0] ++ leBytes 8 w.va ++ leBytes 8 w.len)) ∧
        (Sparse.get none s.wranges sel = none → exec (.mgmtReadWeightRange r) s = ans 6 0 (List.replicate 24 0))) ∧
      (sel < 4 → ∃ d, exec (.mgmtReadTelemetry r) s =
          .next (Claim.answers { s with free := s.free + 5 } r 1 0 d) ∧
        d.length = (if sel = 0 then 12 else if sel = 2 then 16 else 8) ∧
        (sel = 3 → leNat d = s.parity % 2 ^ 64) ∧
        (sel = 2 → ∀ p : Nat, p < 128 → ((leNat d).testBit p = true ↔ s.diemask.getLsbD (p / 32) = true ∧ p ∉ s.portDown)))) ∧
    (r.data ≠ [] ∨ ¬ Claim.frame r → exec (.mgmtReadModid r) s = ans 0 1 [] ∧
      (sel = 0 → exec (.mgmtReadPowerLimit r) s = ans 2 1 [] ∧ exec (.mgmtReadLeakper r) s = ans 4 1 [] ∧
        exec (.mgmtReadErrinjen r) s = ans 8 1 [] ∧ exec (.mgmtReadMymod r) s = ans 10 1 [] ∧
        exec (.mgmtReadAperture r) s = ans 11 1 []) ∧
      (sel = 1 → exec (.mgmtReadBktmark r) s = ans 4 1 [] ∧ exec (.mgmtReadReplmin r) s = ans 5 1 []) ∧
      (sel < 4 → exec (.mgmtReadPreemptBound r) s = ans 3 1 [] ∧
        exec (.mgmtReadTelemetry r) s = .next (Claim.answers { s with free := s.free + 5 } r 1 1 [])) ∧
      (sel < 256 → exec (.mgmtReadWeightRange r) s = ans 6 1 [])) ∧
    (¬ Claim.frame r ∨ r.data.length ≠ 4 → sel = 0 → exec (.mgmtReadRetiredUnits r) s = ans 5 1 []) ∧
    (¬ Claim.frame r ∨ r.data.length ≠ 8 → sel = 2 → exec (.mgmtReadBucketCounters r) s = ans 4 1 []) ∧
    (sel ≠ 0 → exec (.mgmtReadPowerLimit r) s = ans 2 2 [] ∧ exec (.mgmtReadErrinjen r) s = ans 8 2 [] ∧
      exec (.mgmtReadLeakper r) s = ans 4 2 [] ∧ exec (.mgmtReadMymod r) s = ans 10 2 [] ∧ exec (.mgmtReadAperture r) s = ans 11 2 [] ∧
      exec (.mgmtReadRetiredUnits r) s = ans 5 2 []) ∧
    (sel ≠ 1 → exec (.mgmtReadBktmark r) s = ans 4 2 [] ∧ exec (.mgmtReadReplmin r) s = ans 5 2 []) ∧
    (sel ≠ 2 → exec (.mgmtReadBucketCounters r) s = ans 4 2 []) ∧
    (4 ≤ sel → exec (.mgmtReadPreemptBound r) s = ans 3 2 [] ∧
      exec (.mgmtReadTelemetry r) s = .next (Claim.answers { s with free := s.free + 5 } r 1 2 [])) ∧
    (256 ≤ sel → exec (.mgmtReadWeightRange r) s = ans 6 2 []) ∧
    (Claim.frame r → r.data = [] → exec (.mgmtReadModid r) s = ans 0 0 (leBytes 8 s.modid)) ∧
    (Claim.frame r → sel = 0 → r.data = leBytes 4 first → first < 2 ^ 32 → exec (.mgmtReadRetiredUnits r) s =
      ans 5 0 (leBytes 4 s.retired.length ++ ((s.retired.drop first).take 255).flatMap (fun u => leBytes 4 u.toNat))) ∧
    (Claim.frame r → sel = 2 → r.data = leBytes 2 cls ++ leBytes 2 n ++ leBytes 4 first → cls < 256 → n < 2 ^ 16 → first < 2 ^ 32 →
      let count := [65536, 65536, 144, 32768].getD cls 0
      exec (.mgmtReadBucketCounters r) s = if 1 ≤ n ∧ n ≤ 512 ∧ first + n ≤ count then
        ans 4 0 ((List.range n).flatMap (fun i => leBytes 2 (Sparse.get 0 s.buckets (cls * 2 ^ 32 + first + i)))) else
        ans 4 1 [])

/-- R287, R288, R12, R49, R265, R267, R260, R263, R283, R281: a write request within its range puts the setting into force, and
any other is refused with the old setting kept; the response carries the setting in force. Nothing else of the module
changes, except that new bucket marks, retired units and REPLMIN may raise the events of R265 and R267. The bounds of a
weight range and of APBASE are the model's choice (log 18), and so is the refusal of a malformed frame or of data of another length
(log 46). -/
def Sys2Proof.Claim.ManagementWritesSettings : Prop :=
  ∀ (s : State) (r : Mgmt) (v w len : Nat) (b : Bool) (units : List (BitVec 32)), s.serves r.port = true →
    let sel := r.sel.toNat
    let wrong (n : Nat) : Prop := ¬ Claim.frame r ∨ r.data.length ≠ n
    let kept (cmd : Nat) (d : List Byte) : Host.Outcome State Fault Refusal := .next (Claim.answers s r cmd 1 d)
    (sel = 0 →
      (wrong 4 → exec (.mgmtWritePowerLimit r) s = kept 2 (leBytes 4 s.powerLimit)) ∧
      (wrong 8 → exec (.mgmtWriteLeakper r) s = kept 4 (leBytes 8 s.leakper.toNat) ∧ exec (.mgmtDebugForcedDrain r) s = kept 9 []) ∧
      (wrong 1 → exec (.mgmtWriteErrinjen r) s = kept 8 (leBytes 1 s.errinjen.toNat)) ∧
      (wrong 3 ∨ 2 ≤ fieldAt r.data 2 1 → exec (.mgmtWriteMymod r) s = kept 10 (leBytes 2 s.mymod ++ leBytes 1 s.cloeth.toNat)) ∧
      (wrong 10 → exec (.mgmtWriteAperture r) s = kept 11
        (leBytes 8 (s.port r.port).apbase.toNat ++ leBytes 2 (s.port r.port).apasid)) ∧
      (wrong (4 + 4 * fieldAt r.data 0 4) ∨ 255 < fieldAt r.data 0 4 → exec (.mgmtWriteRetiredUnits r) s =
        kept 5 (s.retiredBytes 0))) ∧
    (sel = 1 →
      (wrong 8 → exec (.mgmtWriteBktmark r) s = kept 4 (leBytes 8 s.bktmark.toNat) ∧ exec (.mgmtDebugResume r) s = kept 9 []) ∧
      (wrong 2 → exec (.mgmtWriteReplmin r) s = kept 5 (leBytes 2 s.replmin))) ∧
    (sel = 2 → wrong 8 → exec (.mgmtDebugAbort r) s = kept 9 []) ∧
    (sel = 3 → (wrong 8 → exec (.mgmtDebugRegisterRead r) s = kept 9 []) ∧
      (¬ Claim.frame r ∨ r.data.length < 8 → exec (.mgmtDebugRegisterWrite r) s = kept 9 [])) ∧
    (sel = 4 → (wrong 8 → exec (.mgmtDebugScratchRead r) s = kept 9 []) ∧ (wrong 72 → exec (.mgmtDebugScratchWrite r) s = kept 9 [])) ∧
    (sel < 4 → wrong 4 → exec (.mgmtWritePreemptBound r) s = kept 3 (leBytes 4 (s.bounds.getD sel 200))) ∧
    (sel < 32 → wrong 2 → exec (.mgmtForcedDiscard r) s = kept 7 []) ∧
    (sel < 256 → wrong 24 ∨ 2 ≤ fieldAt r.data 2 1 ∨ fieldAt r.data 3 5 ≠ 0 →
      exec (.mgmtWriteWeightRange r) s = kept 6 (Claim.range s sel)) ∧
    (Claim.frame r →
    (sel = 0 → r.data = leBytes 4 v → v < 2 ^ 32 → exec (.mgmtWritePowerLimit r) s = Claim.sets s r 2
      (2000 ≤ v ∧ v ≤ 4600 ∧ v % 25 = 0) { s with powerLimit := v } (fun t => leBytes 4 t.powerLimit)) ∧
    (sel < 4 → r.data = leBytes 4 v → v < 2 ^ 32 → exec (.mgmtWritePreemptBound r) s = Claim.sets s r 3
      (10 ≤ v ∧ v ≤ 10000) { s with bounds := s.bounds.set sel v } (fun t => leBytes 4 (t.bounds.getD sel 200))) ∧
    (sel = 0 → r.data = leBytes 8 v → v < 2 ^ 64 → exec (.mgmtWriteLeakper r) s = Claim.sets s r 4
      (2 ^ 20 ≤ v ∧ v < 2 ^ 48) { s with leakper := BitVec.ofNat 64 v } (fun t => leBytes 8 t.leakper.toNat)) ∧
    (sel = 0 → r.data = leBytes 1 v → v < 2 ^ 8 → exec (.mgmtWriteErrinjen r) s = Claim.sets s r 8
      (v < 2) { s with errinjen := v == 1 } (fun t => leBytes 1 t.errinjen.toNat)) ∧
    (sel = 0 → r.data = leBytes 2 v ++ leBytes 1 b.toNat → v < 2 ^ 16 → exec (.mgmtWriteMymod r) s = Claim.sets s r 10
      (v < 1024) { s with mymod := v, cloeth := b } (fun t => leBytes 2 t.mymod ++ leBytes 1 t.cloeth.toNat)) ∧
    (sel = 0 → r.data = leBytes 8 v ++ leBytes 2 w → v < 2 ^ 64 → w < 2 ^ 16 → exec (.mgmtWriteAperture r) s =
      Claim.sets s r 11 (v + 2 ^ 36 ≤ 2 ^ 56 ∧ w < 2 ^ 14)
        (Claim.portSet s r.port { s.port r.port with apbase := BitVec.ofNat 64 v, apasid := w })
        (fun t => leBytes 8 (t.port r.port).apbase.toNat ++ leBytes 2 (t.port r.port).apasid)) ∧
    (sel < 256 → r.data = leBytes 2 w ++ leBytes 1 b.toNat ++ leBytes 5 0 ++ leBytes 8 v ++ leBytes 8 len → w < 2 ^ 16 →
      v < 2 ^ 64 → len < 2 ^ 64 → exec (.mgmtWriteWeightRange r) s = Claim.sets s r 6 (w < 2 ^ 14 ∧ v + len ≤ 2 ^ 57)
        { s with wranges := Sparse.set none s.wranges sel (if b then some ⟨w, v, len⟩ else none) }
        (fun t => Claim.range t sel)) ∧
    (sel = 1 → r.data = leBytes 8 v → v < 2 ^ 64 → ∃ t, exec (.mgmtWriteBktmark r) s = .next (Claim.answers t r 4 0 (leBytes 8 v)) ∧
      t.bktmark = BitVec.ofNat 64 v ∧ t.buckets = s.buckets ∧ t.cores = s.cores ∧ t.retired = s.retired ∧
      ∀ k, 1 ≤ v / 2 ^ (16 * (k / 2 ^ 32)) % 2 ^ 16 → v / 2 ^ (16 * (k / 2 ^ 32)) % 2 ^ 16 ≤ Sparse.get 0 s.buckets k →
        k ∈ t.bktrose) ∧
    (sel = 1 → r.data = leBytes 2 v → v ≤ 2296 → ∃ t, exec (.mgmtWriteReplmin r) s = .next (Claim.answers t r 5 0 (leBytes 2 v)) ∧
      t.replmin = v ∧ t.cores = s.cores ∧ (s.fwUp = false ∨ v ≤ s.pcores → t = { s with replmin := v }) ∧
      (s.fwUp = true → s.pcores < v → t.repl = true)) ∧
    (sel = 1 → r.data = leBytes 2 v → 2296 < v → v < 2 ^ 16 →
      exec (.mgmtWriteReplmin r) s = .next (Claim.answers s r 5 1 (leBytes 2 s.replmin))) ∧
    (let held (u : BitVec 32) : Bool := s.unitHeld u.toNat
     sel = 0 → units.length ≤ 255 → r.data = leBytes 4 units.length ++ units.flatMap (fun u => leBytes 4 u.toNat) →
      ((∀ u ∈ units, unitOk u.toNat = true) → ∃ t, exec (.mgmtWriteRetiredUnits r) s =
          .next (Claim.answers t r 5 0 (t.retiredBytes 0)) ∧ t.cores = s.cores ∧ t.insts = s.insts ∧
        (∀ u, u ∈ t.retired ↔ u ∈ s.retired ∨ (u ∈ units ∧ held u = false)) ∧ (∀ u ∈ units, held u = true → u.toNat ∈ t.owes)) ∧
      ((∃ u ∈ units, unitOk u.toNat = false) →
        exec (.mgmtWriteRetiredUnits r) s = .next (Claim.answers s r 5 1 (s.retiredBytes 0)))))

/-- R245, R270, R271, R287, R288: forced discards and the debugger. A discard empties the idle lanes among the named ones; a forced
drain, a resume and an abort act on the instance that the record launched, in the phases that allow them; an instance that runs again may be pre-empted at once for a waiting launch of higher priority (R45); while the
instance is halted, the debugger reads registers and rows, meeting the errors that stand in them (R140, R264; log 37), and writes
those that R271 lets it write. A request about another instance is refused, and so is one that names a register that its file does not have; a CMD or selector without a subject is unassigned, as is a read of a subject that can only be written (log 34), and a write to a read-only subject has a
status of its own and carries what a read gives. Registers are named by their physical numbers, and an ignored write of a
control register answers with the register as it stands (log 16). -/
def Obligations.DiscardsAndDebugger : Prop :=
  ∀ (s : State) (r : Mgmt) (x : Inst) (k n : Nat) (v : W64) (bs : List Byte) (cmd : BitVec 8) (write : Bool),
    s.serves r.port = true → Claim.frame r →
    let sel := r.sel.toNat
    let names := r.data = leBytes 2 x.l.port.toNat ++ leBytes 2 x.l.strm ++ leBytes 4 x.l.seq.toNat ∧ x.l.strm < 2 ^ 16 ∧
      s.insts.find? (fun i => i.l.port.toNat == x.l.port.toNat && i.l.strm == x.l.strm && i.l.seq.toNat == x.l.seq.toNat) = some x
    let done' (t : State) : Host.Outcome State Fault Refusal := .next (Claim.answers t r 9 0 [])
    let phase' (p : IPhase) : State := { s with insts := s.insts.map (fun i => if i.id = x.id then { i with phase := p } else i) }
    let refused' : Host.Outcome State Fault Refusal := .next (Claim.answers s r 9 1 [])
    let halted := s.haltedCore k = true ∧ k < 2 ^ 16
    let key (f : Nat) : List Byte := leBytes 2 k ++ leBytes 2 f ++ leBytes 4 n
    let core' (kind : Nat) (c : Core) : State := { s with
      errs := s.errs.filter (fun e => !(e.kind == kind && e.unit == k && e.idx == n)), cores := Sparse.put s.cores k c }
    let c := s.core k
    (sel < 32 → r.data = leBytes 2 n → n < 2 ^ 16 → ∃ t, exec (.mgmtForcedDiscard r) s = .next t ∧ t.mem = s.mem ∧ t.cores = s.cores ∧
      ∀ j, t.laneAt j = if j / 16 = sel ∧ n.testBit (j % 16) = true ∧ (s.laneAt j).phase = .idle then
        { s.laneAt j with acc := [], acclive := false, disc := true, stands := false } else s.laneAt j) ∧
    (sel = 0 → names → x.phase = .running → (∀ i ∈ s.insts, i.id = x.id → i = x) →
      exec (.mgmtDebugForcedDrain r) s = done' (phase' .forced)) ∧
    (sel = 0 → names → x.phase = .forced ∨ x.phase = .halted → (∀ i ∈ s.insts, i.id = x.id → i = x) →
      exec (.mgmtDebugForcedDrain r) s = done' s) ∧
    (sel = 0 → names → x.phase ≠ .running → x.phase ≠ .forced → x.phase ≠ .halted →
      exec (.mgmtDebugForcedDrain r) s = refused') ∧
    (r.data.length = 8 → fieldAt r.data 1 1 ≠ 0 ∨ s.launched? r.data = none →
      (sel = 0 → exec (.mgmtDebugForcedDrain r) s = refused') ∧ (sel = 1 → exec (.mgmtDebugResume r) s = refused') ∧
      (sel = 2 → exec (.mgmtDebugAbort r) s = refused')) ∧
    (sel = 1 → names → x.phase = .halted → ∃ t, exec (.mgmtDebugResume r) s = done' t ∧
      (s.boundary = true ∨ s.waitingNow = [] → t.insts = (phase' .running).insts) ∧
      (s.boundary = false → (∃ l ∈ s.waitingNow, x.l.prio < l.prio) → (∀ i ∈ s.insts, i.id = x.id → i = x) →
        (∀ i ∈ s.insts, i = x ∨ (i.phase ≠ .running ∧ ∀ n, i.phase ≠ .draining n)) →
        t.insts = (phase' (.draining (s.glob + s.boundOf x))).insts) ∧
      t.mem = s.mem ∧ ∀ j, t.core j = if j ∈ s.instCores x.id then { s.core j with stopped := false, atDrain := false } else s.core j) ∧
    (sel = 1 → names → x.phase ≠ .halted → exec (.mgmtDebugResume r) s = refused') ∧
    (sel = 2 → names → x.phase = .forced ∨ x.phase = .halted → ∃ t, exec (.mgmtDebugAbort r) s = done' t ∧
      t.insts = (phase' (.ending 1)).insts ∧ t.mem = s.mem ∧ ∀ j, j ∉ s.instCores x.id → t.core j = s.core j) ∧
    (sel = 2 → names → x.phase = .running → exec (.mgmtDebugAbort r) s = refused') ∧
    (sel = 3 → halted →
      let get := Claim.debugRead s r (.mgmtDebugRegisterRead r) k
      let eight (row : Nat) : List Nat := (List.range 8).map (fun i => row * 8 + i)
      (n < 32 → r.data = key 0 → get 9 (if n = 0 then [] else [n]) (leBytes 8 (if n = 0 then 0 else (Sparse.get 0 c.s n).toNat))) ∧
      (n < 64 → r.data = key 1 → get 2 (eight n) (leBytes 64 (Sparse.get 0 c.x n).toNat)) ∧
      (n < 128 → r.data = key 7 → get 14 (eight (n % 8 * 16 + n / 8)) (leBytes 64 (Sparse.get 0 c.t (n % 8 * 16 + n / 8)).toNat)) ∧
      (n < 512 → r.data = key 9 → get 4 [n] (leBytes 4 (Sparse.get 0 c.z n).toNat)) ∧
      (n < 4096 → r.data = key 10 → (∀ e ∈ s.errs, e.unit = k → e.kind ≠ 15 ∧ (e.kind = 18 → e.idx ≠ n)) →
        exec (.mgmtDebugRegisterRead r) s = .next (Claim.answers s r 9 0 (leBytes 8 (s.readCr k n)))) ∧
      (1 ≤ n → n < 32 → r.data = key 0 ++ leBytes 8 v.toNat → exec (.mgmtDebugRegisterWrite r) s =
        .next (Claim.answers (core' 9 { c with s := Sparse.set 0 c.s n v }) r 9 0 (leBytes 8 v.toNat))) ∧
      (n < 16 → r.data = key 4 ++ leBytes 8 v.toNat → exec (.mgmtDebugRegisterWrite r) s =
        .next (Claim.answers (core' 11 { c with h := Sparse.set 0 c.h n v }) r 9 0 (leBytes 8 v.toNat))) ∧
      (16 ≤ n → n < 2 ^ 32 → r.data = key 4 ++ leBytes 8 v.toNat → exec (.mgmtDebugRegisterWrite r) s = refused') ∧
      (16 ≤ n → n < 2 ^ 32 → r.data = key 4 → exec (.mgmtDebugRegisterRead r) s = refused') ∧
      (n < 4096 → debugCr n = false → (∀ e ∈ s.errs, e.unit = k → e.kind ≠ 15 ∧ (e.kind = 18 → e.idx ≠ n)) →
        r.data = key 10 ++ leBytes 8 v.toNat → exec (.mgmtDebugRegisterWrite r) s =
        .next (Claim.answers s r 9 0 (leBytes 8 (s.readCr k n))))) ∧
    (sel = 4 → halted → n < 4096 → let row := leBytes 2 k ++ leBytes 2 n ++ leBytes 4 0
      let words := (List.range 8).map (fun i => n * 8 + i)
      (r.data = row → Claim.debugRead s r (.mgmtDebugScratchRead r) k 0 words (rdBytes s.mem (scrKey k (64 * n)) 64)) ∧
      (bs.length = 64 → r.data = row ++ bs → (c.owner (n / 64) = .core ∨ c.owner (n / 64) = .sched) ∨
        (∀ e ∈ s.errs, e.kind = 0 → e.unit = k → e.idx ∉ words) → ∃ t, exec (.mgmtDebugScratchWrite r) s = .next t ∧ t.cores = s.cores ∧
        t.mem = if c.owner (n / 64) = .core ∨ c.owner (n / 64) = .sched then wrBytes s.mem (scrKey k (64 * n)) bs else s.mem)) ∧
    (sel = 3 → s.haltedCore k = false → r.data = key 0 → k < 2 ^ 16 → exec (.mgmtDebugRegisterRead r) s = refused') ∧
    (write = true → cmd = 1 → sel < 4 → ∃ d,
      exec (.mgmtUnassignedRequest cmd write r) s = .next (Claim.answers { s with free := s.free + 5 } r 1 3 d) ∧
      exec (.mgmtReadTelemetry { r with len := 0, data := [] }) s = .next (Claim.answers { s with free := s.free + 5 } r 1 0 d)) ∧
    (∀ d, write = true → cmd = 4 → sel = 2 → exec (.mgmtReadBucketCounters r) s = .next (Claim.answers s r 4 0 d) →
      exec (.mgmtUnassignedRequest cmd write r) s = .next (Claim.answers s r 4 3 d)) ∧
    (¬ Claim.subject cmd.toNat sel ∨ (write = false ∧ (cmd = 7 ∧ sel < 32 ∨ cmd = 9 ∧ sel < 3)) →
      exec (.mgmtUnassignedRequest cmd write r) s = .next (Claim.answers s r cmd.toNat 2 []))

/-- R34, R35, R140: the two clocks. The global cycle adds 1 to `GLOBCYC` and ends a second of the retry counts every 10^9
cycles. A task-clock edge adds 1 to `TASKCYC` of every core whose clock goes, and those of them that can issue then take
their turns; where nothing is in flight and no write-back is about to start, that is all it does, apart from counting a freeze
down. The fixed interleaving of the clocks, ten against seven, is the model's choice (log 6), and so are where a second of the
retry counts begins (log 15) and what HOT shows (log 31). -/
def Obligations.ClocksAdvance : Prop :=
  ∀ (s : State), let goes (k : Nat) : Prop := ∃ e ∈ s.cores, e.1 = k ∧ s.ticks e.2 = true
    (∃ t, exec .globalCycle s = .next t ∧ t.glob = s.glob + 1 ∧ t.debt = s.debt - 7 ∧
      t.retries = (if (s.glob + 1) % 10 ^ 9 = 0 then [] else s.retries) ∧
      (s.insts = [] → s.lanes = [] → s.met = [] → (∀ p, (s.port p).held = []) → t = { s with
        glob := s.glob + 1, debt := s.debt - 7, was := [], met := [], hot := if s.fwUp then Config.hotStacks (s.glob + 1) else s.hot
        retries := t.retries })) ∧
    (∃ t, exec .taskClockEdge s = .next t ∧ t.glob = s.glob ∧ t.debt = s.debt + 10 ∧
      (∀ k, k ∈ t.turn ↔ goes k ∧ (t.core k).issues = true) ∧ (∀ k, goes k → (t.core k).cyc = (s.core k).cyc + 1) ∧
      ((∀ e ∈ s.cores, e.2.pend = [] ∧ e.2.owed = [] ∧ e.2.flt = none ∧
          ∀ m ∈ e.2.held, ∀ q n, m.kind ≠ .wbk q n) → t.mem = s.mem ∧ t.insts = s.insts ∧ ∀ k,
        (goes k → t.core k = { s.core k with cyc := (s.core k).cyc + 1, atDrain := false }) ∧
        (¬ goes k → t.core k = { s.core k with
          freeze := if 1 < (s.core k).freeze then (s.core k).freeze - 1 else (s.core k).freeze, frozen := (s.core k).freeze != 0 })))

/-! ### Encoding, landings, reset and invariants -/

namespace Sys2Proof.Claim

open Sys2Proof Sys2Proof.Machine

/-- Whether the word of a slot takes an extension word (R293). -/
def takesX (slot w : Nat) : Bool :=
  if slot = 0 then sHasX w else if slot = 1 ∨ slot = 2 then vHasX w else if slot = 3 then false else cHasX w

/-- The bytes of a bundle whose one word is `w` of `n` bits in a slot, with its extension word where it takes one
(R289, R290). -/
def aloneBytes (slot n w : Nat) (ext : BitVec 32) : List Byte :=
  leBytes 2 (2 ^ (15 - slot) + if takesX slot w then 4 else 0) ++ leBytes (n / 8) w ++
    if takesX slot w then leBytes 4 ext.toNat else []

/-- The effects that one register, one scratch row, one load or one comparison of twins is all of. -/
def plainEffect (e : Eff) : Bool :=
  match e with
  | .reg _ _ _ => true
  | .vec _ _ _ _ => true
  | .pred _ _ => true
  | .msk _ _ _ => true
  | .zs _ => true
  | .cr _ _ => true
  | .tile _ _ _ => true
  | .write _ _ _ => true
  | .lds _ _ _ _ => true
  | .cmpt _ _ => true
  | _ => false

end Sys2Proof.Claim

/-- R289 to R304: encoding and decoding agree. The word of every instruction with legal fields fits its width; alone in a bundle
(a word of a lane: as that word) it decodes to the instruction with every operand, and the bundle is as long as its words. -/
def Obligations.EncodingDecodesToTheInstruction : Prop :=
  ∀ (i : Instr) (n w : Nat), i.wf = true → i.plain = true → encode i = some (n, w) → w < 2 ^ n ∧
    (i.slot < 6 → ∃ b, decodeBundle (Claim.aloneBytes i.slot n w (extWord i)) = .ok b ∧ b.lone = some i ∧ b.drain = false ∧
      b.rep = 0 ∧ b.len = (Claim.aloneBytes i.slot n w (extWord i)).length) ∧
    (i.slot = 6 → n = 64 → decodeK w = .ok i) ∧
    (n = 16 → (decodeBundle (leBytes 2 w)).toOption.bind Bundle.lone = some i)

/-- R294 to R305: no bit of an accepted word is dropped: the word of a slot or a lane that decodes is the word that its
instruction encodes to, so that two words of a slot with one extension word never decode to one instruction, and every
accepted instruction has legal fields. -/
def Obligations.AcceptedWordsEncodeBack : Prop :=
  ∀ (w : Nat) (slot : Bool) (ext : BitVec 32) (i : Instr),
    (w < 2 ^ 32 → decodeS w ext = .ok i → encode i = some (32, w) ∧ i.wf = true ∧ i.slot = 0) ∧
    (w < 2 ^ 48 → decodeV slot w ext = .ok i → encode i = some (48, w) ∧ i.wf = true ∧ i.slot = if slot then 2 else 1) ∧
    (w < 2 ^ 64 → decodeM w = .ok i → encode i = some (64, w) ∧ i.wf = true ∧ i.slot = 3) ∧
    (w < 2 ^ 64 → decodeC slot w ext = .ok i → encode i = some (64, w) ∧ i.wf = true ∧ i.slot = if slot then 5 else 4) ∧
    (w < 2 ^ 64 → decodeK w = .ok i → encode i = some (64, w) ∧ i.wf = true ∧ i.slot = 6)

/-- R306, R289 to R304: words of the spec's own examples and words written out from its tables decode to their
instructions. -/
def Obligations.SpecWordsDecode : Prop :=
  decodeS 0x002420A0 0 = .ok (.addReg 0 4 4 5 false false) ∧ decodeS 0x94003FFA 0 = .ok (.br 18 0x3FFA) ∧
  decodeS 0x00E63600 0xFFF = .ok (.andImm 0 6 6 (.ext 0xFFF)) ∧ decodeS 0x04C74000 0 = .ok (.waitWp 0 true 20) ∧
  (∃ h o, decodeV false 0x00800420C000 0 = .ok (.vadd h o) ∧ h.g = 0 ∧ h.m = 0 ∧ o.d = 1 ∧ o.a = 2 ∧ o.b = 3 ∧ o.ty = 0) ∧
  (∃ h o, decodeC false 0x0400406043040001 0 = .ok (.cpy h o) ∧ h.g = 0 ∧ h.k = false) ∧
  decodeK 0x2C00000000000001 = .ok (.kend 0 true) ∧ decodeS 0x03E00000 0 = .error (.unassigned 0) ∧
  decodeM 0x0000000000000001 = .error (.reserved 3)

/-- R55, R56, R61 to R63, R68, R113, R114, R262, R357, R392: an effect in flight takes place on its cycle and not before: a
result lands in its register and in no other, a masked one in the bits of its mask, and one for `s0`, `p0` or `w0` is discarded;
twins that differ raise `CMPT` (0x14) with their exclusive-or; a store of a core slot writes the bytes that its mask selects of its row, in a quarter that the core owns, and
every other byte of memory reads as before; in a quarter that an engine owns it is suppressed with `OWNERSHIP`; a scalar load
takes its element from scratch and lands 3 cycles later. The S slot names its die in a scratch address, so that its accesses
are suppressed with `ADDRESS` while the die is clear in DIEMASK (R15). -/
def Obligations.ResultsLandAndStoresWriteTheirBytes : Prop :=
  ∀ (s : State) (k : Nat) (p : Pend), Claim.onlyEffect s k p → Claim.plainEffect p.eff = true →
    let c := Claim.ticked s k
    let c1 := { c with pend := [] }
    let die := s.diemask.getLsbD (dieOf k)
    ∃ t, exec .taskClockEdge s = .next t ∧ (∀ j, j ≠ k → t.core j = Claim.ticked s j) ∧ t.insts = s.insts ∧
      (c.cyc < p.due → t.core k = c ∧ t.mem = s.mem) ∧
      (p.due ≤ c.cyc →
        ((∀ r v m, p.eff ≠ .write r v m) → t.mem = s.mem) ∧
        (∀ n v, p.eff = .reg .s n v → { t.core k with s := c1.s } = c1 ∧
          ∀ j, (t.core k).rdS j = if j = 0 then 0 else if j = n then v else Sparse.get 0 c1.s j) ∧
        (∀ n v, p.eff = .reg .g n v → { t.core k with g := c1.g } = c1 ∧
          ∀ j : BitVec 5, (t.core k).greg false j = if j.toNat = n then v else c1.greg false j) ∧
        (∀ n v, p.eff = .reg .h n v → { t.core k with h := c1.h } = c1 ∧
          ∀ j : BitVec 5, (t.core k).greg true j = if j.toNat = n then v else c1.greg true j) ∧
        (∀ y n v m, p.eff = .vec y n v m →
          (bif y then { t.core k with y := c1.y } else { t.core k with x := c1.x }) = c1 ∧ ∀ j b, b < 512 →
            (Sparse.get 0 (bif y then (t.core k).y else (t.core k).x) j).getLsbD b =
              if j = n ∧ m.getLsbD b = true then v.getLsbD b else (Sparse.get 0 (bif y then c1.y else c1.x) j).getLsbD b) ∧
        (∀ n v, p.eff = .pred n v → { t.core k with p := c1.p } = c1 ∧
          ∀ j, (t.core k).rdP j = if j = 0 then true else if j = n then v else Sparse.get false c1.p j) ∧
        (∀ n v m, p.eff = .msk n v m → { t.core k with w := c1.w } = c1 ∧ ∀ j b, b < 64 →
          ((t.core k).wreg j).testBit b = if j = 0 then true else if j = n ∧ m.getLsbD b = true then v.getLsbD b
            else (Sparse.get 0 c1.w j).getLsbD b) ∧
        (∀ l, p.eff = .zs l → { t.core k with z := c1.z } = c1 ∧ ∀ j, Sparse.get 0 (t.core k).z j =
          (((l.filter (fun e => e.1 % 512 = j)).getLast?.map (·.2)).getD (Sparse.get 0 c1.z j))) ∧
        (∀ n v, p.eff = .cr n v → { t.core k with cr := c1.cr } = c1 ∧
          ∀ j, Sparse.get 0 (t.core k).cr j = if j = n then v else Sparse.get 0 c1.cr j) ∧
        (∀ n r v, p.eff = .tile n r v → r < 16 → { t.core k with t := c1.t } = c1 ∧
          ∀ i j, j < 16 → (t.core k).tileRow i j = if i = n ∧ j = r then v else c1.tileRow i j) ∧
        (∀ ne d, p.eff = .cmpt ne d → (ne = false → t.core k = c1) ∧
          (ne = true → { t.core k with flt := none } = c1 ∧ ∃ f, (t.core k).flt = some f ∧ f.cause = 0x14 ∧ f.slot = p.slot ∧
            f.eng = false ∧ f.f = c.cyc ∧ f.data = d ∧ f.baddr = p.baddr)) ∧
        (∀ r v m, p.eff = .write r v m → r < 4096 → (p.slot = 0 → die = true) →
          (c.owner (r / 64) = .core → c.mapped (r / 64) = false → t.core k = c1 ∧
            ∀ a, rdByte t.mem a = if scrKey k (64 * r) ≤ a ∧ a < scrKey k (64 * r) + 64 ∧ m.getLsbD (a - scrKey k (64 * r)) = true
              then v.extractLsb' (8 * (a - scrKey k (64 * r))) 8 else rdByte s.mem a) ∧
          (c.owner (r / 64) = .engine → m ≠ 0 → t.mem = s.mem ∧ ∃ f, (t.core k).flt = some f ∧ f.cause = 0x10 ∧ f.slot = p.slot ∧
            f.f = c.cyc ∧ f.data = BitVec.ofNat 64 (k * 2 ^ 18 + 64 * r))) ∧
        (∀ r v m, p.eff = .write r v m → p.slot = 0 → die = false → t.mem = s.mem ∧ ∃ f, (t.core k).flt = some f ∧ f.cause = 0x12 ∧
          f.slot = p.slot ∧ f.f = c.cyc) ∧
        (∀ off e u d, p.eff = .lds off e u d → e ∈ [1, 2, 4, 8] → off % e = 0 → off < 2 ^ 18 → die = true →
          c.owner (off / 4096) = .core →
          c.mapped (off / 4096) = false → ∃ v : W64, t.core k = { c1 with pend := [{ p with due := c.cyc + 3, eff := .reg .s d v }] } ∧
            let x := leNat (rdBytes s.mem (scrKey k off) e)
            v = if u then BitVec.ofNat 64 x else (BitVec.ofNat (8 * e) x).signExtend 64) ∧
        (∀ off e u d, p.eff = .lds off e u d → die = false → t.mem = s.mem ∧ ∃ f, (t.core k).flt = some f ∧ f.cause = 0x12 ∧
          f.slot = p.slot ∧ f.f = c.cyc ∧ f.data = BitVec.ofNat 64 (k * 2 ^ 18 + off)))

/-- R12, R14, R35, R49, R260, R263, R265, R267, R273, R277, R280, R166, R443: the module right after power-up, as the spec
states it: the boot window is open and firmware does not run, no instance runs, `GLOBCYC` is 0, and the settings have their
reset values. That cores and lanes which nothing has launched stand idle and empty is the model's choice (log 2). -/
def Obligations.ResetHasTheSpecsValues : Prop :=
  let s := State.reset
  s.power = true ∧ s.glob = 0 ∧ s.fwUp = false ∧ s.boot = ⟨0, 0, none, 0, 0, 0, 0, (0, 0, 0, 0)⟩ ∧ s.modid = 0x0200000F00000000 ∧
  s.powerLimit = 4600 ∧ (∀ d < 4, s.bounds.getD d 0 = 200) ∧ s.leakper = 0x100000000 ∧ s.bktmark = 0x0400004000400040 ∧
  s.replmin = 2240 ∧ s.errinjen = false ∧ s.retired = [] ∧ s.repl = false ∧ s.ctxbase = 0 ∧ s.setbase = 0 ∧ s.tlbinv = 0 ∧
  s.hot = 0 ∧ (∀ k, Sparse.get 0 s.buckets k = 0) ∧ s.insts = [] ∧ (∀ k, (s.core k).run = false ∧ (s.core k).pend = []) ∧
  (∀ p n, (s.strm p n).en = false ∧ (s.strm p n).consumed = 0 ∧ (s.strm p n).completed = 0 ∧ (s.port p).even = false ∧
    (s.port p).ats = false) ∧
  (∀ d, (s.die d).tlb = [] ∧ (s.die d).rows = [] ∧ (s.die d).queues = []) ∧ ∀ l, (s.laneAt l).phase = .idle

namespace Sys2Proof.Claim

open Sys2Proof Sys2Proof.Machine

/-- Each core record stands under its own physical index (R16, R30). -/
def placed (s : State) : Prop := ∀ e ∈ s.cores, e.2.id = e.1

/-- The boot window is in a state that R273 to R276 know: STATE is one of four; an image loads only under a claim and before its result;
firmware runs only in state 3. -/
def bootSound (s : State) : Prop :=
  s.boot.st ≤ 3 ∧ (s.boot.load.isSome = true → (s.boot.st = 1 ∨ s.boot.st = 2) ∧ s.boot.result = 1) ∧
  (s.fwUp = true → s.boot.st = 3)

end Sys2Proof.Claim

/-- R15, R80, R165: every step keeps memory in its one canonical form, so that equal memories are equal data, whatever the
step is: an event, a bundle, an engine's row, a lane or a clock. -/
def Obligations.EveryStepKeepsMemoryCanonical : Prop := ∀ (s t : State), memWf s.mem = true → step s = .next t → memWf t.mem = true

/-- R16, R30: every step keeps each core's record under its own physical index, also across placement, pre-emption and resume. -/
def Sys2Proof.Claim.EveryStepKeepsCoresInPlace : Prop := ∀ (s t : State), Claim.placed s → step s = .next t → Claim.placed t

/-- R273, R274, R275, R276: every step keeps the boot window legal: no image loads without a claim, and firmware never runs while the window
is open or claimed. -/
def Sys2Proof.Claim.EveryStepKeepsTheBootWindowLegal : Prop :=
  ∀ (s t : State), Claim.bootSound s → step s = .next t → Claim.bootSound t

/-- The state after power-up meets all three invariants. -/
def Obligations.ResetMeetsTheInvariants : Prop :=
  memWf State.reset.mem = true ∧ Claim.placed State.reset ∧ Claim.bootSound State.reset

/-! ### Statements of several parts -/

/-- The bitwise operations, shifts, counts and extremes of the S slot. -/
def Obligations.BitwiseShiftsAndCounts : Prop := Claim.LogicAndShiftsTakeTheirBits ∧ Claim.CountsAndExtremes

/-- Immediates and cycle counts, compares, and the integer subset of the C slots. -/
def Obligations.ImmediatesComparesAndChannelArithmetic : Prop := Claim.ImmediatesAndCycles ∧ Claim.ComparesWriteComplementaryPredicates ∧ Claim.ChannelSlotArithmeticWraps

/-- Moves across slots, of scalars, lanes and tree entries, and the comparison of twins. -/
def Obligations.CrossMovesAndComparedTwins : Prop := Claim.CrossMovesOfScalars ∧ Claim.CrossMovesOfVectorsAndTrees ∧ Claim.ComparedTwinsDifferInAnyBit

/-- Control registers: what reads and writes answer, and what a write keeps. -/
def Obligations.ControlRegistersReadAndWritten : Prop := Claim.ControlRegistersAreReadAndWritten ∧ Claim.ControlRegisterWritesKeepTheirFields

/-- Branches, loops and the rotation of loop control. -/
def Obligations.BranchesLoopsAndRotation : Prop := Claim.BranchesSetTheNextBundle ∧ Claim.LoopsCountAndBranch ∧ Claim.LoopControlRotates

/-- Waits: they let a bundle go or hold it, stand while they are in force, and the held bundle goes on. The choices of the
model in its parts: log 7 and log 42. -/
def Obligations.WaitsHoldAndRelease : Prop := Claim.WaitsHoldTheirBundle ∧ Claim.WaitsInForceStand ∧ Claim.StalledBundlesGoOn

/-- Barriers and task queues: arrivals, the requests to queues, and what pops and pushes leave. -/
def Obligations.BarriersAndQueues : Prop := Claim.BarrierArrivalTurnsThePhase ∧ Claim.QueueOperationsNameTheBoundQueue ∧ Claim.QueuesPopAndPush

/-- The operations without an effect of their own: `NOP`, and the empty bundle with the armed slots. -/
def Obligations.NopsAndEmptyBundles : Prop := Claim.NopsOnlyDisarm ∧ Claim.EmptyBundlesReissueArmedSlots

/-- The tabled functions of lanes, their values at special arguments, and the conversions of lanes. -/
def Obligations.FunctionsAndConversions : Prop := Claim.FunctionLanesTakeTheirTables ∧ Claim.FunctionsAtTheirSpecialArguments ∧ Claim.ConversionFillsItsPart

/-- Integer lanes, masks and selects. -/
def Obligations.IntegerLanesAndMasks : Prop := Claim.IntegerLanes ∧ Claim.MasksAndSelects

/-- Reductions over active lanes and moves between lanes. -/
def Obligations.ReductionsAndLaneMoves : Prop := Claim.ReductionsOverActiveLanes ∧ Claim.LaneMoves

/-- Accesses of the V slots to scratch, banks and tree scratch. -/
def Obligations.VectorBankAndTreeAccesses : Prop := Claim.VectorAccessesFormTheirAddresses ∧ Claim.BankAndTreeMoves

/-- Soft-maximum states, rotary pairs and random words. -/
def Obligations.SoftMaximumRotationsAndRandomNumbers : Prop := Claim.SoftMaximumSteps ∧ Claim.RotationsAndRandomNumbers

/-- The channel operations without a queue: what they issue, the flips of ownership that they and others bring about, the
mappings of `MAPR` and the rows of `PUT`. The choices of the model in its parts: log 42. -/
def Obligations.ChannelFlipsAndOwnership : Prop := Claim.ChannelOperationsWithoutAQueue ∧ Claim.OwnershipFlips ∧ Claim.MappingsAndPutsPerform

/-- The passes of the tree, its scales and conversions. -/
def Obligations.TreeOperations : Prop := Claim.TreePasses ∧ Claim.TreeScalingAndConversion

/-- Engine words: each offers its command to its channel. The choices of the model in its parts: log 46. -/
def Obligations.EngineWordsOfferCommands : Prop := Claim.CopyAndSyncWordsOfferCommands ∧ Claim.PagingAndSelectionWordsOfferCommands

/-- Words of a lane: what each issues, what its rows do, and when its program aborts. The choices of the model in its parts:
log 8 and log 27. -/
def Obligations.StackWordsIssueOrAbort : Prop := Claim.StackWordsIssue ∧ Claim.RowsMultiplyIntoAccumulators ∧ Claim.StackWordsAbort

/-- Commands of a channel: their start, their rows, their completion. The choices of the model in its parts: log 21, log 22
and log 38. -/
def Obligations.CommandsStartDeliverAndComplete : Prop := Claim.CommandsStartOnTheirCycle ∧ Claim.RowsAreDeliveredInOrder ∧ Claim.CommandsComplete

/-- Set operations and selection. The choices of the model in its parts: log 23 and log 46. -/
def Obligations.SelectionRuns : Prop := Claim.SetOperationsRun ∧ Claim.SelectionTakesTheBestRows

/-- Returned pages and plans. The choices of the model in its parts: log 24. -/
def Obligations.PagesAndPlans : Prop := Claim.PagesReturnInOrder ∧ Claim.PlansDealBlocksToRanks

/-- Moved pages and collectives. The choices of the model in its parts: log 14, log 25, log 26, log 28 and log 29. -/
def Obligations.MovesAndCollectivesReport : Prop := Claim.MovesEndAtTheNewHome ∧ Claim.CollectivesReport

/-- Port registers, resets and links. The choices of the model in its parts: log 30. -/
def Obligations.PortsAreWrittenAndReset : Prop := Claim.PortRegistersAreWritten ∧ Claim.ResetsAndLinks

/-- Accesses from outside: through the window and over the fabric. The choices of the model in its parts: log 14, log 15 and
log 26. -/
def Obligations.WindowAndFabricAccesses : Prop := Claim.WindowAccessesPerformOrAbort ∧ Claim.FlitsAreServed

/-- Management: settings read and written. The choices of the model in its parts: log 18, log 34 and log 46. -/
def Obligations.ManagementSettings : Prop := Claim.ManagementReadsAnswer ∧ Claim.ManagementWritesSettings

/-- Every step keeps cores in their places and the boot window legal. -/
def Obligations.EveryStepKeepsCoresAndBootWindow : Prop := Claim.EveryStepKeepsCoresInPlace ∧ Claim.EveryStepKeepsTheBootWindowLegal
end

