-- ==== Sys2Proof/Laws/Alu.lean ====
section
/-! SUPPORT. The integer functions of 64-bit values in the terms of bit vectors: what each gives, once (spec/14 R316, R325,
R344, R358; spec/15 R361). -/

namespace Sys2Proof.Machine

/-- The signed value of a 64-bit number. -/
theorem sgn_toInt (x : W64) : sgn 64 x.toNat = x.toInt := by
  unfold sgn; rw [BitVec.toInt_eq_toNat_cond]; have := x.isLt
  rw [Nat.mod_eq_of_lt this]; split <;> split <;> simp <;> omega

theorem rdInt_signed (x : W64) : rdInt 64 false x.toNat = x.toInt := by simp [rdInt, sgn_toInt]

theorem rdInt_unsigned (x : W64) : rdInt 64 true x.toNat = (x.toNat : Int) := by
  have := x.isLt; simp only [rdInt, if_true]; omega

/-- A short immediate is sign-extended. -/
theorem imm64_short {n : Nat} (v : BitVec n) : imm64 (Imm.short v) = v.signExtend 64 := rfl

/-- An extension word is sign-extended. -/
theorem imm64_ext {n : Nat} (v : BitVec 32) : imm64 (Imm.ext v : Imm n) = v.signExtend 64 := rfl

/-- Narrowing in a 64-bit result. -/
theorem narrow64 (s u : Bool) (v : Int) : BitVec.ofNat 64 (narrow 64 s u v) =
    BitVec.ofInt 64 (if s then (if u then max 0 (min v (2 ^ 64 - 1)) else max (-2 ^ 63) (min v (2 ^ 63 - 1))) else v) := by
  cases u <;> cases s <;> simp [narrow, wrapN, satS, satU] <;> apply BitVec.eq_of_toNat_eq <;> simp <;> omega

/-- The quotient on the overflowing pair of the signed division. -/
theorem aluDiv_overflow (x y : W64) (hx : x.toInt = -2 ^ 63) (hy : y.toInt = -1) :
    aluDiv false x y = BitVec.ofInt 64 (-2 ^ 63) := by
  have h0 : ¬ y = 0 := by rintro rfl; simp at hy
  simp only [aluDiv, h0, if_false, hx, hy, Bool.false_eq_true]; decide

/-- A remainder is the dividend less the quotient times the divisor. -/
theorem aluRem_eq (u : Bool) (x y : W64) (h : y ≠ 0) : aluRem u x y = x - aluDiv u x y * y := by
  cases u with
  | true =>
    simp only [aluRem, aluDiv, h, if_false, if_true]
    apply BitVec.eq_of_toNat_eq
    have hx := x.isLt; have hy := y.isLt
    have hd := Nat.div_add_mod x.toNat y.toNat
    have hq : x.toNat / y.toNat ≤ x.toNat := Nat.div_le_self ..
    have hm : x.toNat % y.toNat ≤ x.toNat := Nat.mod_le ..
    have hc : y.toNat * (x.toNat / y.toNat) = x.toNat / y.toNat * y.toNat := Nat.mul_comm ..
    have hl : x.toNat / y.toNat * y.toNat ≤ x.toNat := Nat.div_mul_le_self ..
    rw [BitVec.toNat_sub, BitVec.toNat_mul, BitVec.toNat_ofNat, BitVec.toNat_ofNat]
    rw [Nat.mod_eq_of_lt (a := x.toNat / y.toNat) (by omega)]
    rw [Nat.mod_eq_of_lt (a := x.toNat / y.toNat * y.toNat) (by omega)]
    omega
  | false =>
    simp only [aluRem, aluDiv, h, if_false, Bool.false_eq_true]
    have e : x.toInt.tmod y.toInt = x.toInt - x.toInt.tdiv y.toInt * y.toInt := by
      have := Int.mul_tdiv_add_tmod x.toInt y.toInt
      rw [Int.mul_comm] at this; omega
    rw [e]
    have hx : BitVec.ofInt 64 x.toInt = x := BitVec.ofInt_toInt
    have hy : BitVec.ofInt 64 y.toInt = y := BitVec.ofInt_toInt
    rw [Int.sub_eq_add_neg, BitVec.ofInt_add, BitVec.ofInt_neg, BitVec.ofInt_mul, hx, hy, BitVec.sub_eq_add_neg]

/-- The unsigned quotient. -/
theorem aluDiv_unsigned (x y : W64) (h : y ≠ 0) : aluDiv true x y = x / y := by
  simp only [aluDiv, h, if_false, if_true]
  apply BitVec.eq_of_toNat_eq
  have hx := x.isLt
  have hq : x.toNat / y.toNat ≤ x.toNat := Nat.div_le_self ..
  rw [BitVec.toNat_ofNat, BitVec.toNat_udiv, Nat.mod_eq_of_lt (by omega)]

theorem aluShl_eq (x y : W64) : aluShl x y = BitVec.ofNat 64 (x.toNat * 2 ^ (y.toNat % 64)) := by
  apply BitVec.eq_of_toNat_eq; simp [aluShl, Nat.shiftLeft_eq]

theorem aluShr_eq (x y : W64) : aluShr x y = BitVec.ofNat 64 (x.toNat / 2 ^ (y.toNat % 64)) := by
  apply BitVec.eq_of_toNat_eq
  have hx := x.isLt
  have hq : x.toNat / 2 ^ (y.toNat % 64) ≤ x.toNat := Nat.div_le_self ..
  rw [aluShr, BitVec.toNat_ushiftRight, Nat.shiftRight_eq_div_pow, BitVec.toNat_ofNat]
  exact (Nat.mod_eq_of_lt (by omega)).symm

theorem aluSra_eq (x y : W64) : aluSra x y = BitVec.ofInt 64 (x.toInt / 2 ^ (y.toNat % 64)) := by
  apply BitVec.eq_of_toInt_eq
  rw [aluSra, BitVec.toInt_sshiftRight, Int.shiftRight_eq_div_pow, BitVec.toInt_ofInt]
  have h1 : -(2 ^ 63 : Int) ≤ x.toInt := BitVec.le_toInt x
  have h2 : x.toInt < 2 ^ 63 := BitVec.toInt_lt (x := x)
  push_cast
  generalize x.toInt = v at h1 h2
  have hp : (0 : Int) < 2 ^ (y.toNat % 64) := by positivity
  replace hp : (1 : Int) ≤ 2 ^ (y.toNat % 64) := hp
  generalize (2 : Int) ^ (y.toNat % 64) = p at hp
  have l : -(2 ^ 63 : Int) ≤ v / p := (Int.le_ediv_iff_mul_le (by omega)).2 (by nlinarith)
  have r : v / p < 2 ^ 63 := (Int.ediv_lt_iff_lt_mul (by omega)).2 (by nlinarith)
  exact (Int.bmod_eq_of_le (by simpa using l) (by simpa using r)).symm

/-- A rotation of 64 bits. -/
theorem aluRotl_eq (x y : W64) :
    aluRotl x y = BitVec.ofNat 64 (x.toNat * 2 ^ (y.toNat % 64) + x.toNat / 2 ^ (64 - y.toNat % 64)) := by
  have hk : y.toNat % 64 < 64 := Nat.mod_lt _ (by omega)
  rw [aluRotl]
  generalize y.toNat % 64 = k at hk
  apply BitVec.eq_of_getLsbD_eq
  intro j hj
  have hx : x.toNat < 2 ^ 64 := x.isLt
  have d : x.toNat * 2 ^ k % 2 ^ 64 = x.toNat % 2 ^ (64 - k) * 2 ^ k := by
    rw [show (2 : Nat) ^ 64 = 2 ^ (64 - k) * 2 ^ k by rw [← Nat.pow_add]; congr 1; omega, Nat.mul_mod_mul_right]
  have e : (x.toNat * 2 ^ k + x.toNat / 2 ^ (64 - k)) % 2 ^ 64 = 2 ^ k * (x.toNat % 2 ^ (64 - k)) + x.toNat / 2 ^ (64 - k) := by
    have q : x.toNat / 2 ^ (64 - k) < 2 ^ k := by
      rw [Nat.div_lt_iff_lt_mul (Nat.two_pow_pos _), ← Nat.pow_add]
      rwa [show k + (64 - k) = 64 by omega]
    have m : x.toNat % 2 ^ (64 - k) + 1 ≤ 2 ^ (64 - k) := Nat.mod_lt _ (Nat.two_pow_pos _)
    have mm : 2 ^ k * (x.toNat % 2 ^ (64 - k) + 1) ≤ 2 ^ k * 2 ^ (64 - k) := Nat.mul_le_mul_left _ m
    rw [← Nat.pow_add, show k + (64 - k) = 64 by omega] at mm
    rw [Nat.mul_add] at mm
    rw [Nat.add_mod, d, Nat.mul_comm]
    rw [Nat.mod_eq_of_lt (a := x.toNat / 2 ^ (64 - k)) (by omega)]
    generalize 2 ^ k * (x.toNat % 2 ^ (64 - k)) = u at mm ⊢
    generalize x.toNat / 2 ^ (64 - k) = z at q ⊢
    exact Nat.mod_eq_of_lt (by omega)
  have q : x.toNat / 2 ^ (64 - k) < 2 ^ k := by
    rw [Nat.div_lt_iff_lt_mul (Nat.two_pow_pos _), ← Nat.pow_add]
    rwa [show k + (64 - k) = 64 by omega]
  rw [BitVec.getLsbD_rotateLeft, BitVec.getLsbD, BitVec.getLsbD, BitVec.getLsbD, BitVec.toNat_ofNat, e,
    Nat.testBit_two_pow_mul_add _ q]
  simp only [Nat.mod_eq_of_lt hk]
  by_cases hj' : j < k
  · rw [Nat.testBit_div_two_pow]
    simp [hj', Nat.add_comm]
  · simp only [hj, decide_true, Bool.true_and, Nat.testBit_mod_two_pow]
    have : j - k < 64 - k := by omega
    simp [this, hj']

/-- `CLZ`: no bit stands above the highest set one, and the count is that bit's distance from the top. -/
theorem aluClz_zero : aluClz 0 = 64 := by decide

theorem aluClz_spec (x : W64) (h : x ≠ 0) : (aluClz x).toNat = 63 - Nat.log2 x.toNat ∧ Nat.log2 x.toNat < 64 ∧
    x.getLsbD (Nat.log2 x.toNat) = true ∧ ∀ k, Nat.log2 x.toNat < k → x.getLsbD k = false := by
  have h0 : x.toNat ≠ 0 := by simpa [BitVec.toNat_eq] using h
  have hl : Nat.log2 x.toNat < 64 := (Nat.log2_lt h0).2 x.isLt
  refine ⟨by simp [aluClz, clz64, h0]; omega, hl, ?_, fun k hk => ?_⟩
  · exact Nat.testBit_log2 h0
  · exact Nat.testBit_lt_two_pow (lt_of_lt_of_le (Nat.lt_log2_self) (Nat.pow_le_pow_right (by omega) hk))

/-- `POPC` counts the ones among the 64 bits. -/
theorem popN_eq (n v : Nat) : popN n v = ((List.range n).filter (fun k => v.testBit k)).length := by
  induction n generalizing v with
  | zero => rfl
  | succ n ih =>
    have hs : ∀ k, v.testBit (k + 1) = (v / 2).testBit k := fun k => by rw [Nat.testBit_succ]
    rw [popN, ih, List.range_succ_eq_map, List.filter_cons, List.filter_map, Nat.testBit_zero]
    have hf : ((fun k => v.testBit k) ∘ Nat.succ) = fun k => (v / 2).testBit k := funext hs
    rw [hf]
    rcases Nat.mod_two_eq_zero_or_one v with h | h <;> simp [h, Nat.add_comm]

/-- `LIH` joins the low half of its second operand above the low half of the first. -/
theorem aluLih_eq (x y : W64) : aluLih x y = y.extractLsb' 0 32 ++ x.extractLsb' 0 32 := by
  apply BitVec.eq_of_toNat_eq
  have hx := Nat.mod_lt x.toNat (Nat.two_pow_pos 32)
  have hy := Nat.mod_lt y.toNat (Nat.two_pow_pos 32)
  rw [aluLih, BitVec.toNat_ofNat, BitVec.toNat_append, BitVec.extractLsb'_toNat, BitVec.extractLsb'_toNat,
    Nat.shiftRight_zero, Nat.shiftRight_zero, ← Nat.shiftLeft_add_eq_or_of_lt hx, Nat.shiftLeft_eq]
  generalize x.toNat % 2 ^ 32 = a at hx ⊢
  generalize y.toNat % 2 ^ 32 = b at hy ⊢
  rw [Nat.add_comm]
  exact Nat.mod_eq_of_lt (by omega)

/-- The scalar conditions in the terms of bit vectors. -/
theorem condHolds_eq (cc : BitVec 3) (x y : W64) : condHolds 64 cc.toNat x.toNat y.toNat =
    if cc = 0 then x == y else if cc = 1 then x != y else if cc = 2 then y.ule x else if cc = 3 then x.ult y
    else if cc = 4 then y.sle x else x.slt y := by
  have h : cc = 0 ∨ cc = 1 ∨ cc = 2 ∨ cc = 3 ∨ cc = 4 ∨ cc = 5 ∨ cc = 6 ∨ cc = 7 := by revert cc; decide
  have e : (x.toNat == y.toNat) = (x == y) := by
    rw [Bool.eq_iff_iff]; simp [BitVec.toNat_inj]
  rcases h with rfl | rfl | rfl | rfl | rfl | rfl | rfl | rfl <;>
    simp [condHolds, sgn_toInt, BitVec.ule, BitVec.ult, BitVec.sle, BitVec.slt, e, bne]

end Sys2Proof.Machine
end

