-- ==== Sys2Proof/Laws/Engines.lean ====
section
/-! SUPPORT. What the shared operations of the engines can do, once each: a report, the end of an operation of an agent, the stop
of cores, and an access of a peer. -/

namespace Sys2Proof.Machine

/-! ### Reports (R151) -/

variable {s s1 : State} {r : Report} {close : State → Option (Nat × W64) → State}

/-- A report that performs ends its command with the fault that the command has met. -/
theorem reportEnd_ok {u : Unit} (h : s.statusAt r.who r.addr r.word = (.ok u, s1)) : s.reportEnd r close = (.ok (), close s1 r.fault) := by
  simp [State.reportEnd, State.lastWrite, h]

/-- A report that faults ends its command, with its own fault where the command has met none. -/
theorem reportEnd_err {c : Nat} {d : W64} (h : s.statusAt r.who r.addr r.word = (.err c d, s1)) :
    s.reportEnd r close = (.ok (), close s1 (some (r.fault.getD (c, d)))) := by
  simp [State.reportEnd, State.lastWrite, h]

/-- A report that must wait is noted as due the first time, and from then on the command waits. -/
theorem reportEnd_wait (h : s.statusAt r.who r.addr r.word = (.wait, s1)) : s.reportEnd r close =
    if r ∈ s.reports then (.wait, s1) else (.ok (), { s with reports := s.reports ++ [r] }) := by
  by_cases hr : r ∈ s.reports <;> simp [State.reportEnd, State.lastWrite, h, hr]

/-- The end of an agent's operation forgets its requests to peers and its report, and nothing else. -/
theorem quit_eq (s : State) (w : Who) : s.quit w =
    { s with fab := s.fab.filter (fun f => f.who != w), reports := s.reports.filter (fun r => r.who != w) } := rfl

/-! ### Stops (R255) -/

/-- Cores that stop have no turn. -/
theorem not_mem_turn_haltCores {k : Nat} {ks : List Nat} (h : k ∈ ks) : k ∉ (s.haltCores ks).turn := by
  simp [State.haltCores, h]

/-! ### Accesses of peers (R162, R163) -/

variable {p : BitVec 7} {f : Flit}

/-- An access that cannot perform waits behind all others. -/
theorem flitIn_held (h : s.flitHeld f = true) : s.flitIn p f = { s with flits := s.flits ++ [(p, f)] } := by
  simp [State.flitIn, h]

/-- One that can perform does so where none of its port waits. -/
theorem flitIn_free (h : s.flitHeld f = false) (hp : ∀ e ∈ s.flits, e.1 ≠ p) : s.flitIn p f = s.flitGo p f := by
  have : s.flits.any (fun e => e.1 == p) = false := by simpa using hp
  simp [State.flitIn, h, this]

/-- A move at whose page nothing waits changes no access. -/
theorem rehome_nil (h : s.flits = []) (old new tier len : Nat) : s.rehome old new tier len = s := by
  cases s
  subst h
  rfl

/-! ### What a failed attempt leaves (R172), and stores for a die (R14) -/

/-- The parity errors of an attempt: the count, and the entries that had them, are all that changes. -/
theorem parityOf_eq (s s1 : State) : s.parityOf s1 = { s with
    parity := s1.parity
    dies := if s1.parity = s.parity then s.dies else s.dies.map (fun d => (d.1, d.2.dropBad (s1.die d.1))) } := by
  unfold State.parityOf
  split <;> simp_all

/-- An attempt that a fault ends leaves memory, cores and instances as they were. -/
theorem undone_kept (s s1 : State) : (s.undone s1).mem = s.mem ∧ (s.undone s1).cores = s.cores ∧ (s.undone s1).insts = s.insts ∧
    (s.undone s1).errs = s.errs := by
  simp [State.undone, parityOf_eq]

theorem storeFor_reached {die pa : Nat} (h : s.reaches die (hbmDie pa) = true) (bs : List Byte) :
    s.storeFor die pa bs = s.store (hbmKey pa) bs := by simp [State.storeFor, h]

theorem storeFor_lost {die pa : Nat} (h : s.reaches die (hbmDie pa) = false) (bs : List Byte) : s.storeFor die pa bs = s := by
  simp [State.storeFor, h]

end Sys2Proof.Machine
end

