-- ==== Sys2Proof/Laws/Lanes.lean ====
section
/-! SUPPORT. Lanes, masks and flags as bits: what each packing helper holds at one place (spec/00_scope.md R4; spec/16 R398,
R399). -/

namespace Sys2Proof.Machine

theorem bitOf_testBit (v k : Nat) : bitOf v k = v.testBit k := by
  rw [bitOf, Nat.testBit_eq_decide_div_mod_eq]; rfl

/-! ### Lanes -/

/-- A packed value is below the width of its lanes. -/
theorem packN_lt (w : Nat) (l : List Nat) : packN w l < 2 ^ (w * l.length) := by
  induction l with
  | nil => simp [packN]
  | cons x l ih =>
    rw [packN, List.length_cons, Nat.mul_succ, Nat.add_comm (w * l.length), Nat.pow_add]
    have h1 : x % 2 ^ w < 2 ^ w := Nat.mod_lt _ (Nat.two_pow_pos w)
    calc x % 2 ^ w + 2 ^ w * packN w l < 2 ^ w + 2 ^ w * packN w l := by omega
      _ = 2 ^ w * (packN w l + 1) := by ring
      _ ≤ 2 ^ w * 2 ^ (w * l.length) := Nat.mul_le_mul_left _ ih

/-- A lane of a packed value. -/
theorem lane_packN (w : Nat) (l : List Nat) (i : Nat) (h : i < l.length) : lane w (packN w l) i = l[i] % 2 ^ w := by
  induction l generalizing i with
  | nil => simp at h
  | cons x l ih =>
    have hp := Nat.two_pow_pos w
    cases i with
    | zero =>
      simp only [lane, packN, Nat.mul_zero, Nat.pow_zero, Nat.div_one, List.getElem_cons_zero, Nat.add_mul_mod_self_left,
        Nat.mod_mod]
    | succ i =>
      have := ih i (by simpa using h)
      simp only [lane, packN, List.getElem_cons_succ] at this ⊢
      rw [Nat.mul_succ, Nat.add_comm (w * i), Nat.pow_add, ← Nat.div_div_eq_div_mul,
        Nat.add_mul_div_left _ _ hp, Nat.div_eq_of_lt (Nat.mod_lt _ hp), Nat.zero_add, this]

/-- The list of lanes. -/
theorem lanesN_eq (w n v : Nat) : lanesN w n v = (List.range n).map (lane w v) := by
  induction n generalizing v with
  | zero => rfl
  | succ n ih =>
    rw [lanesN, ih, List.range_succ_eq_map, List.map_cons, List.map_map]
    congr 1
    · simp [lane]
    · apply List.map_congr_left
      intro k _
      simp only [Function.comp, lane, Nat.succ_eq_add_one, Nat.mul_succ]
      rw [Nat.div_div_eq_div_mul, ← Nat.pow_add, Nat.add_comm]

theorem lane_map1 (w n : Nat) (f : Nat → Nat) (a i : Nat) (h : i < n) : lane w (map1 w n f a) i = f (lane w a i) % 2 ^ w := by
  rw [map1, lane_packN _ _ _ (by simpa [lanesN_eq] using h)]; simp [lanesN_eq]

theorem lane_map2 (w n : Nat) (f : Nat → Nat → Nat) (a b i : Nat) (h : i < n) :
    lane w (map2 w n f a b) i = f (lane w a i) (lane w b i) % 2 ^ w := by
  rw [map2, lane_packN _ _ _ (by simpa [lanesN_eq] using h)]; simp [lanesN_eq]

theorem lane_map3 (w n : Nat) (f : Nat → Nat → Nat → Nat) (a b c i : Nat) (h : i < n) :
    lane w (map3 w n f a b c) i = f (lane w a i) (lane w b i) (lane w c i) % 2 ^ w := by
  rw [map3, lane_packN _ _ _ (by simpa [lanesN_eq] using h)]; simp [lanesN_eq]

theorem map1_lt (w n : Nat) (f : Nat → Nat) (a : Nat) : map1 w n f a < 2 ^ (w * n) := by
  simpa [map1, lanesN_eq] using packN_lt w ((lanesN w n a).map f)

theorem map2_lt (w n : Nat) (f : Nat → Nat → Nat) (a b : Nat) : map2 w n f a b < 2 ^ (w * n) := by
  simpa [map2, lanesN_eq] using packN_lt w (List.zipWith f (lanesN w n a) (lanesN w n b))

theorem map3_lt (w n : Nat) (f : Nat → Nat → Nat → Nat) (a b c : Nat) : map3 w n f a b c < 2 ^ (w * n) := by
  have := packN_lt w (List.zipWith (fun x yz => f x yz.1 yz.2) (lanesN w n a) (List.zip (lanesN w n b) (lanesN w n c)))
  simpa [map3, lanesN_eq] using this

/-- Bit `b` of lane `i`. -/
theorem testBit_lane (w v i b : Nat) (h : b < w) : (lane w v i).testBit b = v.testBit (w * i + b) := by
  rw [lane, Nat.testBit_mod_two_pow, Nat.testBit_div_two_pow]; simp [h, Nat.add_comm]

/-! ### Masks -/

theorem laneMaskFrom_testBit (w m n i k b : Nat) (hk : k < n) (hb : b < w) :
    (laneMaskFrom w m n i).testBit (w * k + b) = m.testBit ((i + k) % 64) := by
  induction n generalizing i k with
  | zero => omega
  | succ n ih =>
    rw [laneMaskFrom]
    have hlt : (if bitOf m (i % 64) then 2 ^ w - 1 else 0) < 2 ^ w := by
      have := Nat.two_pow_pos w; split <;> omega
    rw [Nat.add_comm, Nat.testBit_two_pow_mul_add _ hlt]
    cases k with
    | zero =>
      simp only [Nat.mul_zero, Nat.zero_add, hb, if_true, Nat.add_zero, bitOf_testBit]
      split <;> simp_all [Nat.testBit_two_pow_sub_one]
    | succ k =>
      have e : w * (k + 1) + b = w + (w * k + b) := by ring
      rw [if_neg (by rw [e]; omega), show w * (k + 1) + b - w = w * k + b by omega, ih (i + 1) k (by omega)]
      congr 2; omega

/-- The write mask of lanes has in lane `k` the mask bit of the lane. -/
theorem laneMask_testBit (w n m k b : Nat) (hk : k < n) (hb : b < w) :
    (laneMask w n m).testBit (w * k + b) = m.testBit (k % 64) := by
  rw [laneMask, laneMaskFrom_testBit w m n 0 k b hk hb, Nat.zero_add]

theorem laneMaskFrom_lt (w m n i : Nat) : laneMaskFrom w m n i < 2 ^ (w * n) := by
  induction n generalizing i with
  | zero => simp [laneMaskFrom]
  | succ n ih =>
    rw [laneMaskFrom, Nat.mul_succ, Nat.add_comm (w * n), Nat.pow_add]
    have hlt : (if bitOf m (i % 64) then 2 ^ w - 1 else 0) < 2 ^ w := by
      have := Nat.two_pow_pos w; split <;> omega
    calc (if bitOf m (i % 64) then 2 ^ w - 1 else 0) + 2 ^ w * laneMaskFrom w m n (i + 1)
        < 2 ^ w + 2 ^ w * laneMaskFrom w m n (i + 1) := by omega
      _ = 2 ^ w * (laneMaskFrom w m n (i + 1) + 1) := by ring
      _ ≤ 2 ^ w * 2 ^ (w * n) := Nat.mul_le_mul_left _ (ih (i + 1))

theorem laneMask_lt (w n m : Nat) : laneMask w n m < 2 ^ (w * n) := laneMaskFrom_lt w m n 0

/-! ### Flags -/

theorem flagBits_lt (l : List Bool) : flagBits l < 2 ^ l.length := by
  induction l with
  | nil => simp [flagBits]
  | cons b l ih => rw [flagBits, List.length_cons, Nat.pow_succ]; cases b <;> simp <;> omega

/-- A bit of a list of flags. -/
theorem flagBits_testBit (l : List Bool) (k : Nat) : (flagBits l).testBit k = l.getD k false := by
  induction l generalizing k with
  | nil => simp [flagBits]
  | cons b l ih =>
    cases k with
    | zero => rw [flagBits, Nat.testBit_zero]; cases b <;> simp
    | succ k =>
      rw [flagBits, Nat.testBit_succ, show (b.toNat + 2 * flagBits l) / 2 = flagBits l by cases b <;> simp <;> omega, ih]
      simp

theorem flagBits_range (n : Nat) (f : Nat → Bool) (k : Nat) (h : k < n) :
    (flagBits ((List.range n).map f)).testBit k = f k := by
  rw [flagBits_testBit]; simp [List.getD, h]

theorem ttBits_lt (n tt a b : Nat) : ttBits n tt a b < 2 ^ n := by
  induction n generalizing a b with
  | zero => simp [ttBits]
  | succ n ih => rw [ttBits, Nat.pow_succ]; have := ih (a / 2) (b / 2); omega

/-- A truth table applied at one bit. -/
theorem ttBits_testBit (n tt a b k : Nat) (h : k < n) :
    (ttBits n tt a b).testBit k = tt.testBit (2 * (a.testBit k).toNat + (b.testBit k).toNat) := by
  induction n generalizing a b k with
  | zero => omega
  | succ n ih =>
    rw [ttBits]
    have hm : tt / 2 ^ (2 * (a % 2) + b % 2) % 2 < 2 := Nat.mod_lt _ (by omega)
    cases k with
    | zero =>
      rw [Nat.testBit_zero, Nat.testBit_zero, Nat.testBit_zero, Nat.testBit_eq_decide_div_mod_eq]
      have e : ∀ x : Nat, (decide (x % 2 = 1)).toNat = x % 2 := by intro x; rcases Nat.mod_two_eq_zero_or_one x with h | h <;> simp [h]
      rw [e, e]; congr 1; simp only [eq_iff_iff]; omega
    | succ k =>
      rw [Nat.testBit_succ, Nat.testBit_succ, Nat.testBit_succ, ← ih (a / 2) (b / 2) k (by omega)]
      congr 1; omega

/-- The lowest set bit among `n`: none below it is set, and it is set if it is below `n`. -/
theorem lowBit_spec (n i v : Nat) : i ≤ lowBit n i v ∧ lowBit n i v ≤ i + n ∧
    (∀ k, k < lowBit n i v - i → v.testBit k = false) ∧ (lowBit n i v < i + n → v.testBit (lowBit n i v - i) = true) := by
  induction n generalizing i v with
  | zero => simp [lowBit]
  | succ n ih =>
    rw [lowBit]; split
    · next h => exact ⟨le_refl _, by omega, by omega, fun _ => by simp [Nat.testBit_zero, h]⟩
    · next h =>
      obtain ⟨h1, h2, h3, h4⟩ := ih (i + 1) (v / 2)
      refine ⟨by omega, by omega, fun k hk => ?_, fun hk => ?_⟩
      · cases k with
        | zero => simp [Nat.testBit_zero, h]
        | succ k => rw [Nat.testBit_succ]; exact h3 k (by omega)
      · have := h4 (by omega)
        rw [show lowBit n (i + 1) (v / 2) - i = (lowBit n (i + 1) (v / 2) - (i + 1)) + 1 by omega, Nat.testBit_succ]
        exact this

end Sys2Proof.Machine
end

