-- ==== Sys2Proof/Laws/Float.lean ====
section
/-! SUPPORT. The floating-point formats: a narrowed value fits its format, and a decoded value that is no NaN narrows to the
bits it was decoded from (spec/04_numbers.md R86, R90). -/

namespace Sys2Proof.Machine

/-- The five formats. -/
theorem Fmt.ofTy_cases (P : Fmt → Prop) (h0 : P ⟨8, 23, 127, false⟩) (h1 : P ⟨5, 10, 15, false⟩) (h2 : P ⟨8, 7, 127, false⟩)
    (h3 : P ⟨4, 3, 7, true⟩) (h4 : P ⟨5, 2, 15, false⟩) (t : Nat) : P (Fmt.ofTy t) := by
  unfold Fmt.ofTy; split <;> assumption

@[simp] theorem Fp.isNan_nan : Fp.nan.isNan = true := by decide

@[simp] theorem Fp.isNan_inf (s : Bool) : (Fp.inf s).isNan = false := by cases s <;> decide

@[simp] theorem Fp.isNan_fin (s : Bool) (m : Nat) (e : Int) : (Fp.fin s m e).isNan = false := by
  simp [Fp.isNan]

/-- Bits of a format. -/
def Fmt.width (f : Fmt) : Nat := 1 + f.eb + f.fb

theorem Fmt.round_lt (t : Nat) (rz sat neg : Bool) (m : Nat) (e : Int) :
    (Fmt.ofTy t).round rz sat neg m e < 2 ^ (Fmt.ofTy t).width := by
  have key : ∀ (f : Fmt) (b : Nat), f.maxBits < 2 ^ (f.eb + f.fb) → f.infBits < 2 ^ (f.eb + f.fb) →
      f.nanBits < 2 ^ (f.eb + f.fb) →
      (if f.maxBits < b then
        (if sat || rz then f.signBit neg + f.maxBits else if f.e4 then f.nanBits else f.signBit neg + f.infBits)
       else f.signBit neg + b) < 2 ^ f.width ∧ f.signBit neg < 2 ^ f.width := by
    intro f b h1 h2 h3
    have hw : 2 ^ f.width = 2 * 2 ^ (f.eb + f.fb) := by rw [Fmt.width, Nat.add_assoc, Nat.pow_add, Nat.pow_one]
    have hs : f.signBit neg ≤ 2 ^ (f.eb + f.fb) := by unfold Fmt.signBit; split <;> simp
    rw [hw]; constructor
    · split
      · split
        · omega
        · split <;> omega
      · omega
    · have := Nat.two_pow_pos (f.eb + f.fb); omega
  have hf : (Fmt.ofTy t).maxBits < 2 ^ ((Fmt.ofTy t).eb + (Fmt.ofTy t).fb) ∧
      (Fmt.ofTy t).infBits < 2 ^ ((Fmt.ofTy t).eb + (Fmt.ofTy t).fb) ∧
      (Fmt.ofTy t).nanBits < 2 ^ ((Fmt.ofTy t).eb + (Fmt.ofTy t).fb) := by
    apply Fmt.ofTy_cases (P := fun f => f.maxBits < 2 ^ (f.eb + f.fb) ∧ f.infBits < 2 ^ (f.eb + f.fb) ∧
      f.nanBits < 2 ^ (f.eb + f.fb)) <;> decide
  rw [Fmt.round]
  split
  · exact (key _ 0 hf.1 hf.2.1 hf.2.2).2
  · exact (key _ _ hf.1 hf.2.1 hf.2.2).1

/-- A narrowed value fits its format. -/
theorem Fmt.narrow_lt (t : Nat) (rz sat : Bool) (v : Fp) : (Fmt.ofTy t).narrow rz sat v < 2 ^ (Fmt.ofTy t).width := by
  cases v with
  | nan => simp only [Fmt.narrow]; apply Fmt.ofTy_cases (P := fun f => f.nanBits < 2 ^ f.width) <;> decide
  | inf neg =>
    simp only [Fmt.narrow]
    apply Fmt.ofTy_cases (P := fun f => (if sat = true then f.signBit neg + f.maxBits
      else if f.e4 = true then f.nanBits else f.signBit neg + f.infBits) < 2 ^ f.width) <;> revert sat neg <;> decide
  | fin neg m e => exact Fmt.round_lt t rz sat neg m e

/-- An FP32 result is a 32-bit value. -/
theorem r32_lt (v : Fp) : r32 v < 2 ^ 32 := Fmt.narrow_lt 0 false false v

theorem add32_lt (a b : Nat) : add32 a b < 2 ^ 32 := r32_lt _

theorem mul32_lt (a b : Nat) : mul32 a b < 2 ^ 32 := r32_lt _

theorem pow2b_lt (d : Int) : pow2b d < 2 ^ 32 := by
  unfold pow2b; split
  · decide
  · exact Fmt.round_lt 0 false false false 1 d

/-- A significand at the unit of its format rounds to itself. -/
theorem Fmt.round_exact (f : Fmt) (rz sat neg : Bool) (fr ex : Nat) (hfr : fr < 2 ^ f.fb)
    (hmax : ex * 2 ^ f.fb + fr ≤ f.maxBits) :
    f.round rz sat neg (if ex = 0 then fr else 2 ^ f.fb + fr)
      (if ex = 0 then 1 - f.bias - f.fb else ex - f.bias - f.fb) = f.signBit neg + (ex * 2 ^ f.fb + fr) := by
  have hp := Nat.two_pow_pos f.fb
  by_cases h0 : ex = 0
  · subst h0
    simp only [if_true, Nat.zero_mul, Nat.zero_add, Fmt.round]
    by_cases hm : fr = 0
    · simp [hm]
    · simp only [hm, if_false]
      have hl : Nat.log2 fr < f.fb := (Nat.log2_lt hm).2 hfr
      have hq : max (expOf fr (1 - f.bias - f.fb) - f.fb) (1 - f.bias - f.fb) = 1 - f.bias - f.fb := by
        simp only [expOf]; omega
      simp only [hq, shiftRound, le_refl, if_true, sub_self, Int.toNat_zero, Nat.pow_zero, Nat.mul_one, Int.zero_add, Int.one_mul]
      rw [show ((2 : Int) ^ f.fb + (fr : Int) - 2 ^ f.fb).toNat = fr by omega]
      rw [if_neg (by omega)]
  · simp only [h0, if_false, Fmt.round]
    have hm : 2 ^ f.fb + fr ≠ 0 := by omega
    simp only [hm, if_false]
    have hl : Nat.log2 (2 ^ f.fb + fr) = f.fb := by
      rw [Nat.log2_eq_iff hm]; constructor
      · omega
      · rw [Nat.pow_succ]; omega
    have hq : max (expOf (2 ^ f.fb + fr) (ex - f.bias - f.fb) - f.fb) (1 - f.bias - f.fb) = ex - f.bias - f.fb := by
      simp only [expOf, hl]; omega
    simp only [hq, shiftRound, le_refl, if_true, sub_self, Int.toNat_zero, Nat.pow_zero, Nat.mul_one]
    have hb : (((ex : Int) - f.bias - f.fb - (1 - f.bias - f.fb) + 1) * (2 ^ f.fb : Int) + ((2 ^ f.fb + fr : Nat) : Int) - 2 ^ f.fb).toNat
        = ex * 2 ^ f.fb + fr := by
      rw [show (ex : Int) - f.bias - f.fb - (1 - f.bias - f.fb) + 1 = ex by ring]
      push_cast
      rw [show (ex : Int) * 2 ^ f.fb + (2 ^ f.fb + fr) - 2 ^ f.fb = ((ex * 2 ^ f.fb + fr : Nat) : Int) by push_cast; ring]
      exact Int.toNat_natCast _
    rw [hb, if_neg (by omega)]

/-- A decoded value that is no NaN narrows to the bits it came from, and a NaN to the canonical NaN. -/
theorem Fmt.narrow_decode (t : Nat) (rz sat : Bool) (b : Nat) (hb : b < 2 ^ (Fmt.ofTy t).width) (hs : rz = false ∧ sat = false) :
    (Fmt.ofTy t).narrow rz sat ((Fmt.ofTy t).decode b) =
      if ((Fmt.ofTy t).decode b).isNan then (Fmt.ofTy t).nanBits else b := by
  obtain ⟨rfl, rfl⟩ := hs
  have main : ∀ f : Fmt, 1 ≤ f.fb → 1 ≤ f.eb → f.infBits = (2 ^ f.eb - 1) * 2 ^ f.fb →
      f.maxBits = (if f.e4 then (2 ^ f.eb - 1) * 2 ^ f.fb + (2 ^ f.fb - 2) else (2 ^ f.eb - 1) * 2 ^ f.fb - 1) →
      ∀ b, b < 2 ^ f.width → f.narrow false false (f.decode b) = if (f.decode b).isNan then f.nanBits else b := by
    intro f hfb heb hinf hmax b hb
    have hp := Nat.two_pow_pos f.fb
    have he := Nat.two_pow_pos f.eb
    have hw : 2 ^ f.width = 2 * (2 ^ f.eb * 2 ^ f.fb) := by
      rw [Fmt.width, Nat.add_assoc, Nat.pow_add, Nat.pow_one, Nat.pow_add]
    have hsplit : b = (b / 2 ^ (f.eb + f.fb)) * (2 ^ f.eb * 2 ^ f.fb) + (b / 2 ^ f.fb % 2 ^ f.eb) * 2 ^ f.fb + b % 2 ^ f.fb := by
      have h1 := Nat.div_add_mod b (2 ^ f.fb)
      have h2 := Nat.div_add_mod (b / 2 ^ f.fb) (2 ^ f.eb)
      rw [Nat.div_div_eq_div_mul, ← Nat.pow_add, Nat.add_comm f.fb] at h2
      rw [Nat.pow_add] at *
      nlinarith
    have hsg : b / 2 ^ (f.eb + f.fb) < 2 := by
      rw [Nat.div_lt_iff_lt_mul (Nat.two_pow_pos _), Nat.pow_add]; omega
    have hsign : f.signBit (bitOf b (f.eb + f.fb)) = (b / 2 ^ (f.eb + f.fb)) * (2 ^ f.eb * 2 ^ f.fb) := by
      rw [Fmt.signBit, bitOf, ← Nat.pow_add]
      have : ∀ d, d < 2 → d = 0 ∨ d = 1 := by omega
      rcases this _ hsg with h | h <;> simp [h]
    have hfr : b % 2 ^ f.fb < 2 ^ f.fb := Nat.mod_lt _ hp
    have hex : b / 2 ^ f.fb % 2 ^ f.eb < 2 ^ f.eb := Nat.mod_lt _ he
    generalize hfrd : b % 2 ^ f.fb = fr at *
    generalize hexd : b / 2 ^ f.fb % 2 ^ f.eb = ex at *
    simp only [Fmt.decode, hfrd, hexd]
    have hge : 2 ≤ 2 ^ f.fb := by
      calc 2 = 2 ^ 1 := rfl
        _ ≤ 2 ^ f.fb := Nat.pow_le_pow_right (by omega) hfb
    have hle : ex * 2 ^ f.fb + 2 ^ f.fb ≤ 2 ^ f.eb * 2 ^ f.fb := by
      have : (ex + 1) * 2 ^ f.fb ≤ 2 ^ f.eb * 2 ^ f.fb := Nat.mul_le_mul_right _ hex
      nlinarith
    simp only [Bool.and_eq_true, decide_eq_true_eq]
    by_cases hc : ex = 2 ^ f.eb - 1 ∧ (!f.e4 || fr == 2 ^ f.fb - 1) = true
    · rw [if_pos hc]
      by_cases hn : (f.e4 || fr != 0) = true
      · rw [if_pos hn]; simp [Fmt.narrow]
      · rw [if_neg hn]
        simp only [Bool.or_eq_true, bne_iff_ne, ne_eq, not_or, Decidable.not_not, Bool.not_eq_true] at hn
        simp only [Fmt.narrow, hn.1, Bool.false_eq_true, if_false, Fp.isNan_inf]
        rw [hsign, hinf, ← hc.1]
        omega
    · rw [if_neg hc]
      have hmx : ex * 2 ^ f.fb + fr ≤ f.maxBits := by
        rw [hmax]
        by_cases hx : ex = 2 ^ f.eb - 1
        · have h4 : ¬ (!f.e4 || fr == 2 ^ f.fb - 1) = true := fun h => hc ⟨hx, h⟩
          simp only [Bool.or_eq_true, Bool.not_eq_true', beq_iff_eq, not_or, Bool.not_eq_false] at h4
          rw [if_pos h4.1, hx]; omega
        · have : (ex + 1) * 2 ^ f.fb ≤ (2 ^ f.eb - 1) * 2 ^ f.fb := Nat.mul_le_mul_right _ (by omega)
          rw [Nat.add_mul, Nat.one_mul] at this
          split <;> omega
      have := Fmt.round_exact f false false (bitOf b (f.eb + f.fb)) fr ex hfr hmx
      by_cases h0 : ex = 0
      · subst h0
        simp only [if_true, Nat.zero_mul, Nat.zero_add, Nat.add_zero] at this hsplit ⊢
        simp only [Fmt.narrow, this, Fp.isNan_fin, Bool.false_eq_true, if_false]
        rw [hsign]; omega
      · simp only [h0, if_false] at this ⊢
        simp only [Fmt.narrow, this, Fp.isNan_fin, Bool.false_eq_true, if_false]
        rw [hsign]; omega
  revert b
  apply Fmt.ofTy_cases (P := fun f => ∀ b, b < 2 ^ f.width →
    f.narrow false false (f.decode b) = if (f.decode b).isNan = true then f.nanBits else b) <;>
    exact main _ (by decide) (by decide) (by decide) (by decide)

end Sys2Proof.Machine
end

