-- ==== Sys2Proof/Laws/Sparse.lean ====
section
/-! SUPPORT. Sparse maps: reading what was written, leaving every other key alone, and keeping the canonical form. -/

namespace Sys2Proof

variable {α : Type}

/-! ### Tables without a default -/

theorem Sparse.find_del (m : Sparse α) (k j : Nat) : Sparse.find (Sparse.del k m) j = if j = k then none else Sparse.find m j := by
  induction m with
  | nil => simp [Sparse.del, Sparse.find]
  | cons e m ih => simp only [Sparse.del]; split <;> simp only [Sparse.find, ih] <;> grind

theorem Sparse.find_ins (m : Sparse α) (k j : Nat) (v : α) (h : Sparse.find m k = none) :
    Sparse.find (Sparse.ins k v m) j = if j = k then some v else Sparse.find m j := by
  induction m with
  | nil => simp only [Sparse.ins, Sparse.find]; grind
  | cons e m ih =>
    simp only [Sparse.find] at h
    simp only [Sparse.ins]; split <;> simp only [Sparse.find] <;> grind

/-- A table reads what was put. -/
@[simp] theorem Sparse.find_put_self (m : Sparse α) (k : Nat) (v : α) : Sparse.find (Sparse.put m k v) k = some v := by
  rw [Sparse.put, Sparse.find_ins _ _ _ _ (by simp [Sparse.find_del])]; simp

/-- Putting one key leaves every other one alone. -/
@[simp] theorem Sparse.find_put_ne (m : Sparse α) (k j : Nat) (v : α) (h : j ≠ k) :
    Sparse.find (Sparse.put m k v) j = Sparse.find m j := by
  rw [Sparse.put, Sparse.find_ins _ _ _ _ (by simp [Sparse.find_del]), Sparse.find_del]; simp [h]

theorem Sparse.del_del (m : Sparse α) (k : Nat) : Sparse.del k (Sparse.del k m) = Sparse.del k m := by
  induction m with
  | nil => rfl
  | cons e m ih =>
    simp only [Sparse.del]; split
    · exact ih
    · next h => simp only [Sparse.del, h, if_false, ih]

theorem Sparse.del_ins (m : Sparse α) (k : Nat) (v : α) : Sparse.del k (Sparse.ins k v m) = Sparse.del k m := by
  induction m with
  | nil => simp [Sparse.ins, Sparse.del]
  | cons e m ih =>
    simp only [Sparse.ins]; split
    · simp [Sparse.del]
    · simp only [Sparse.del, ih]

/-- The later of two puts of one key stands. -/
@[simp] theorem Sparse.put_put (m : Sparse α) (k : Nat) (v w : α) :
    Sparse.put (Sparse.put m k v) k w = Sparse.put m k w := by
  simp only [Sparse.put, Sparse.del_ins, Sparse.del_del]

/-! ### Maps with a default -/

theorem Sparse.get_eq (d : α) (m : Sparse α) (k : Nat) : Sparse.get d m k = (Sparse.find m k).getD d := by
  induction m with
  | nil => rfl
  | cons e m ih => simp only [Sparse.get, Sparse.find]; split <;> simp [*]

variable [DecidableEq α]

/-- A map reads what was set. -/
@[simp] theorem Sparse.get_set_self (d : α) (m : Sparse α) (k : Nat) (v : α) : Sparse.get d (Sparse.set d m k v) k = v := by
  rw [Sparse.get_eq, Sparse.set]; split
  · simp [Sparse.find_del, *]
  · rw [Sparse.find_ins _ _ _ _ (by simp [Sparse.find_del])]; simp

/-- Setting one key leaves every other one alone. -/
@[simp] theorem Sparse.get_set_ne (d : α) (m : Sparse α) (k j : Nat) (v : α) (h : j ≠ k) :
    Sparse.get d (Sparse.set d m k v) j = Sparse.get d m j := by
  rw [Sparse.get_eq, Sparse.get_eq, Sparse.set]; split
  · simp [Sparse.find_del, h]
  · rw [Sparse.find_ins _ _ _ _ (by simp [Sparse.find_del]), Sparse.find_del]; simp [h]

/-- Reading after setting, in one equation. -/
theorem Sparse.get_set (d : α) (m : Sparse α) (k j : Nat) (v : α) :
    Sparse.get d (Sparse.set d m k v) j = if j = k then v else Sparse.get d m j := by
  split
  · next h => rw [h, Sparse.get_set_self]
  · next h => exact Sparse.get_set_ne d m k j v h

/-! ### The canonical form -/

theorem Sparse.wfFrom_mono (d : α) (m : Sparse α) (a b : Nat) (h : a ≤ b) (w : Sparse.wfFrom d b m = true) :
    Sparse.wfFrom d a m = true := by
  cases m with
  | nil => rfl
  | cons e m =>
    simp only [Sparse.wfFrom, Bool.and_eq_true, decide_eq_true_eq] at w ⊢
    exact ⟨⟨by omega, w.1.2⟩, w.2⟩

theorem Sparse.wfFrom_del (d : α) (m : Sparse α) (lo k : Nat) (w : Sparse.wfFrom d lo m = true) :
    Sparse.wfFrom d lo (Sparse.del k m) = true := by
  induction m generalizing lo with
  | nil => rfl
  | cons e m ih =>
    simp only [Sparse.wfFrom, Bool.and_eq_true, decide_eq_true_eq] at w
    simp only [Sparse.del]; split
    · exact ih _ (Sparse.wfFrom_mono d m lo _ (by omega) w.2)
    · simp only [Sparse.wfFrom, Bool.and_eq_true, decide_eq_true_eq]; exact ⟨w.1, ih _ w.2⟩

theorem Sparse.wfFrom_ins (d : α) (m : Sparse α) (lo k : Nat) (v : α) (hk : lo ≤ k) (hv : v ≠ d)
    (hn : Sparse.find m k = none) (w : Sparse.wfFrom d lo m = true) : Sparse.wfFrom d lo (Sparse.ins k v m) = true := by
  induction m generalizing lo with
  | nil => simp [Sparse.ins, Sparse.wfFrom, hk, hv]
  | cons e m ih =>
    simp only [Sparse.find] at hn
    split at hn
    · cases hn
    · next he =>
      simp only [Sparse.wfFrom, Bool.and_eq_true, decide_eq_true_eq] at w
      simp only [Sparse.ins]; split
      · simp only [Sparse.wfFrom, Bool.and_eq_true, decide_eq_true_eq]
        exact ⟨⟨hk, hv⟩, ⟨⟨by omega, w.1.2⟩, w.2⟩⟩
      · simp only [Sparse.wfFrom, Bool.and_eq_true, decide_eq_true_eq]
        exact ⟨w.1, ih _ (by omega) hn w.2⟩

/-- Setting a key keeps the canonical form. -/
theorem Sparse.wf_set (d : α) (m : Sparse α) (k : Nat) (v : α) (w : Sparse.wf d m = true) : Sparse.wf d (Sparse.set d m k v) = true := by
  simp only [Sparse.set, Sparse.wf] at *
  split
  · exact Sparse.wfFrom_del d m 0 k w
  · exact Sparse.wfFrom_ins d _ 0 k v (Nat.zero_le _) ‹_› (by simp [Sparse.find_del]) (Sparse.wfFrom_del d m 0 k w)

theorem Sparse.wfFrom_filter (d : α) (m : Sparse α) (lo : Nat) (f : Nat × α → Bool) (w : Sparse.wfFrom d lo m = true) :
    Sparse.wfFrom d lo (m.filter f) = true := by
  induction m generalizing lo with
  | nil => rfl
  | cons e m ih =>
    simp only [Sparse.wfFrom, Bool.and_eq_true, decide_eq_true_eq] at w
    rw [List.filter_cons]; split
    · simp only [Sparse.wfFrom, Bool.and_eq_true, decide_eq_true_eq]; exact ⟨w.1, ih _ w.2⟩
    · exact ih _ (Sparse.wfFrom_mono d m lo _ (by omega) w.2)

/-- Leaving entries out keeps the canonical form. -/
theorem Sparse.wf_filter (d : α) (m : Sparse α) (f : Nat × α → Bool) (w : Sparse.wf d m = true) : Sparse.wf d (m.filter f) = true :=
  Sparse.wfFrom_filter d m 0 f w

/-- A key below the bound is unlisted. -/
theorem Sparse.get_below (d : α) (m : Sparse α) (lo k : Nat) (w : Sparse.wfFrom d lo m = true) (h : k < lo) :
    Sparse.get d m k = d := by
  induction m generalizing lo with
  | nil => rfl
  | cons e m ih =>
    simp only [Sparse.wfFrom, Bool.and_eq_true, decide_eq_true_eq] at w
    simp only [Sparse.get]
    rw [if_neg (by omega)]; exact ih _ w.2 (by omega)

end Sys2Proof
end

