-- ==== Sys2Proof/Laws/Ops.lean ====
section
/-! SUPPORT. What the shared operations of the slots can do, once each: replacing a core, acting under a guard, holding a
bundle, and reading words that no error mark stands on. -/

namespace Sys2Proof.Machine

/-! ### Cores -/

@[simp] theorem core_setCore_self (s : State) (k : Nat) (c : Core) : (s.setCore k c).core k = c := by
  simp [State.core, State.setCore]

@[simp] theorem core_setCore_ne (s : State) (k j : Nat) (c : Core) (h : j ≠ k) : (s.setCore k c).core j = s.core j := by
  simp [State.core, State.setCore, h]

@[simp] theorem setCore_setCore (s : State) (k : Nat) (c d : Core) : (s.setCore k c).setCore k d = s.setCore k d := by
  simp [State.setCore]

@[simp] theorem core_onCore_self (s : State) (k : Nat) (f : Core → Core) : (s.onCore k f).core k = f (s.core k) := by
  simp [State.onCore]

@[simp] theorem core_onCore_ne (s : State) (k j : Nat) (f : Core → Core) (h : j ≠ k) : (s.onCore k f).core j = s.core j := by
  simp [State.onCore, h]

/-- Two changes of one core are one. -/
theorem onCore_onCore (s : State) (k : Nat) (f g : Core → Core) : (s.onCore k f).onCore k g = s.onCore k (fun c => g (f c)) := by
  simp [State.onCore]

/-! ### Registers of a core -/

@[simp] theorem get_setCr_self (c : Core) (n : Nat) (v : W64) : Sparse.get 0 (c.setCr n v).cr n = v :=
  Sparse.get_set_self ..

@[simp] theorem get_setCr_ne (c : Core) (n m : Nat) (v : W64) (h : m ≠ n) :
    Sparse.get 0 (c.setCr n v).cr m = Sparse.get 0 c.cr m := Sparse.get_set_ne _ _ _ _ _ h

@[simp] theorem cr_setP (c : Core) (n : Nat) (v : Bool) : (c.setP n v).cr = c.cr := by unfold Core.setP; split <;> rfl

/-- A predicate reads what was written; a write to `p0` is discarded (R56). -/
theorem rdP_setP (c : Core) (n m : Nat) (v : Bool) : (c.setP n v).rdP m = if m = n ∧ n ≠ 0 then v else c.rdP m := by
  unfold Core.rdP Core.setP
  by_cases hn : n = 0
  · simp [hn]
  · simp only [hn, if_false, not_false_eq_true, and_true, ne_eq]
    rw [Sparse.get_set]; split <;> split <;> simp_all

/-- An `s` register reads what was written; a write to `s0` is discarded (R56). -/
theorem rdS_setReg (c : Core) (n m : Nat) (v : W64) : (c.setReg .s n v).rdS m = if m = n ∧ n ≠ 0 then v else c.rdS m := by
  unfold Core.rdS Core.setReg
  by_cases hn : n = 0
  · simp [hn]
  · simp only [hn, if_false, not_false_eq_true, and_true, ne_eq]
    rw [Sparse.get_set]; split <;> split <;> simp_all

/-- A lane mask reads the written bits where the write selects them; a write to `w0` is discarded (R56). -/
theorem get_setW (c : Core) (n m : Nat) (v k : W64) : Sparse.get 0 (c.setW n v k).w m =
    if m = n ∧ n ≠ 0 then (Sparse.get 0 c.w n &&& ~~~k) ||| (v &&& k) else Sparse.get 0 c.w m := by
  unfold Core.setW
  by_cases hn : n = 0
  · simp [hn]
  · simp only [hn, if_false, not_false_eq_true, and_true, ne_eq]; rw [Sparse.get_set]

/-! ### Acting and holding -/

variable {s : State} {g : BitVec 5} {h : VHead} {f : Core → Core} {st : Stall} {q : State → State} {rs : List (BitVec 6)}
  {zs : List Nat} {n : Nat}

/-- An operation under a true guard replaces the issuing core alone. -/
theorem act_true (hg : s.me.guard g = true) : s.act g f = .next (s.setCore s.cur (f s.me)) := by simp [State.act, hg]

theorem act_false (hg : s.me.guard g = false) : s.act g f = .next s := by simp [State.act, hg]

theorem hold_false (hg : s.me.guard g = false) (hs : s.me.stall = none) : s.hold g st q = .next s := by
  simp [State.hold, hg, hs]

/-- A bundle presented to a wait goes on or stands still. -/
theorem hold_true (hg : s.me.guard g = true) (hs : s.me.stall = none) : s.hold g st q =
    if s.stallMet s.cur st then .next (q (s.onCore s.cur (fun c => { c with stall := none })))
    else .next (s.onCore s.cur (fun c => { c with stall := some st })) := by
  simp [State.hold, hg, hs]

/-- A wait in force goes by the condition that it was presented with. -/
theorem hold_inForce (x : Stall) (hs : s.me.stall = some x) : s.hold g st q =
    if s.stallMet s.cur x then .next (q (s.onCore s.cur (fun c => { c with stall := none })))
    else .next (s.onCore s.cur (fun c => { c with stall := some x })) := by
  simp [State.hold, hs]

/-! ### Words without an error mark -/

/-- Words that no mark stands on read without effect. -/
theorem readWords_clean {k u : Nat} {l : List Nat} (hc : ∀ e ∈ s.errs, e.kind = k → e.unit = u → e.idx ∉ l) :
    s.readWords k u l = (false, s) := by
  have : (s.errs.filter (fun e => e.kind == k && e.unit == u && l.contains e.idx)).isEmpty = true := by
    rw [List.isEmpty_iff, List.filter_eq_nil_iff]; intro e he; simp; exact fun a b => hc e he a b
  unfold State.readWords State.errOf
  simp only [this, if_true]

theorem vop_false (hg : s.me.guard h.g = false) : s.vop h rs f = .next s := by simp [State.vop, hg]

theorem zop_false (hg : s.me.guard g = false) : s.zop g n zs f = .next s := by simp [State.zop, hg]

/-- A vector operation on sound sources replaces the issuing core alone. -/
theorem vop_clean (hg : s.me.guard h.g = true) (hc : ∀ e ∈ s.errs, e.kind = (if h.slot then 3 else 2) → e.unit = s.cur →
    ∀ r ∈ rs, e.idx / 8 ≠ s.me.phV h.slot r.toNat) : s.vop h rs f = .next (s.setCore s.cur (f s.me)) := by
  have key : ∀ l : List Nat, (∀ x ∈ l, ∃ r ∈ rs, x / 8 = s.me.phV h.slot r.toNat) →
      s.readWords (if h.slot then 3 else 2) s.cur l = (false, s) := by
    intro l hl
    apply readWords_clean
    intro e he hk hu hm
    obtain ⟨r, hr, hx⟩ := hl _ hm
    exact hc e he hk hu r hr hx
  simp only [State.vop, hg, Bool.not_true, Bool.false_eq_true, if_false]
  rw [key]
  · rfl
  · intro x hx
    simp only [List.mem_flatMap, List.mem_map, List.mem_range] at hx
    obtain ⟨r, hr, i, hi, rfl⟩ := hx
    exact ⟨r, hr, by omega⟩

/-- A tree-scratch operation on sound entries replaces the issuing core alone. -/
theorem zop_clean (hg : s.me.guard g = true) (hc : ∀ e ∈ s.errs, e.kind = 4 → e.unit = s.cur → e.idx ∉ zs) :
    s.zop g n zs f = .next (s.setCore s.cur (f s.me)) := by
  simp only [State.zop, hg, Bool.not_true, Bool.false_eq_true, if_false, readWords_clean hc]
  rfl

end Sys2Proof.Machine
end

