-- ==== Sys2Proof/Laws/Guard.lean ====
section
/-! SUPPORT. A false guard, operation by operation: the state stands as it was (spec/03_core.md R66). -/

namespace Sys2Proof.Machine

theorem addReg_guard (s : State) (g d a b : BitVec 5) (u sat : Bool) (hg : s.me.guard g = false) : exec (.addReg g d a b u sat) s = .next s := by
  show execAddReg g d a b u sat s = _
  exact act_false hg

theorem addImm_guard (s : State) (g d a : BitVec 5) (im : Imm 9) (hg : s.me.guard g = false) : exec (.addImm g d a im) s = .next s := by
  show execAddImm g d a im s = _
  exact act_false hg

theorem subReg_guard (s : State) (g d a b : BitVec 5) (u sat : Bool) (hg : s.me.guard g = false) : exec (.subReg g d a b u sat) s = .next s := by
  show execSubReg g d a b u sat s = _
  exact act_false hg

theorem subImm_guard (s : State) (g d a : BitVec 5) (im : Imm 9) (hg : s.me.guard g = false) : exec (.subImm g d a im) s = .next s := by
  show execSubImm g d a im s = _
  exact act_false hg

theorem mulReg_guard (s : State) (g d a b : BitVec 5) (u sat : Bool) (hg : s.me.guard g = false) : exec (.mulReg g d a b u sat) s = .next s := by
  show execMulReg g d a b u sat s = _
  exact act_false hg

theorem mulImm_guard (s : State) (g d a : BitVec 5) (im : Imm 9) (hg : s.me.guard g = false) : exec (.mulImm g d a im) s = .next s := by
  show execMulImm g d a im s = _
  exact act_false hg

theorem mulhReg_guard (s : State) (g d a b : BitVec 5) (u : Bool) (hg : s.me.guard g = false) : exec (.mulhReg g d a b u) s = .next s := by
  show execMulhReg g d a b u s = _
  exact act_false hg

theorem mulhImm_guard (s : State) (g d a : BitVec 5) (im : Imm 9) (hg : s.me.guard g = false) : exec (.mulhImm g d a im) s = .next s := by
  show execMulhImm g d a im s = _
  exact act_false hg

theorem divReg_guard (s : State) (g d a b : BitVec 5) (u : Bool) (hg : s.me.guard g = false) : exec (.divReg g d a b u) s = .next s := by
  show execDivReg g d a b u s = _
  exact act_false hg

theorem divImm_guard (s : State) (g d a : BitVec 5) (im : Imm 9) (hg : s.me.guard g = false) : exec (.divImm g d a im) s = .next s := by
  show execDivImm g d a im s = _
  exact act_false hg

theorem remReg_guard (s : State) (g d a b : BitVec 5) (u : Bool) (hg : s.me.guard g = false) : exec (.remReg g d a b u) s = .next s := by
  show execRemReg g d a b u s = _
  exact act_false hg

theorem remImm_guard (s : State) (g d a : BitVec 5) (im : Imm 9) (hg : s.me.guard g = false) : exec (.remImm g d a im) s = .next s := by
  show execRemImm g d a im s = _
  exact act_false hg

theorem andReg_guard (s : State) (g d a b : BitVec 5) (hg : s.me.guard g = false) : exec (.andReg g d a b) s = .next s := by
  show execAndReg g d a b s = _
  exact act_false hg

theorem andImm_guard (s : State) (g d a : BitVec 5) (im : Imm 9) (hg : s.me.guard g = false) : exec (.andImm g d a im) s = .next s := by
  show execAndImm g d a im s = _
  exact act_false hg

theorem orReg_guard (s : State) (g d a b : BitVec 5) (hg : s.me.guard g = false) : exec (.orReg g d a b) s = .next s := by
  show execOrReg g d a b s = _
  exact act_false hg

theorem orImm_guard (s : State) (g d a : BitVec 5) (im : Imm 9) (hg : s.me.guard g = false) : exec (.orImm g d a im) s = .next s := by
  show execOrImm g d a im s = _
  exact act_false hg

theorem xorReg_guard (s : State) (g d a b : BitVec 5) (hg : s.me.guard g = false) : exec (.xorReg g d a b) s = .next s := by
  show execXorReg g d a b s = _
  exact act_false hg

theorem xorImm_guard (s : State) (g d a : BitVec 5) (im : Imm 9) (hg : s.me.guard g = false) : exec (.xorImm g d a im) s = .next s := by
  show execXorImm g d a im s = _
  exact act_false hg

theorem shlReg_guard (s : State) (g d a b : BitVec 5) (hg : s.me.guard g = false) : exec (.shlReg g d a b) s = .next s := by
  show execShlReg g d a b s = _
  exact act_false hg

theorem shlImm_guard (s : State) (g d a : BitVec 5) (im : Imm 9) (hg : s.me.guard g = false) : exec (.shlImm g d a im) s = .next s := by
  show execShlImm g d a im s = _
  exact act_false hg

theorem shrReg_guard (s : State) (g d a b : BitVec 5) (hg : s.me.guard g = false) : exec (.shrReg g d a b) s = .next s := by
  show execShrReg g d a b s = _
  exact act_false hg

theorem shrImm_guard (s : State) (g d a : BitVec 5) (im : Imm 9) (hg : s.me.guard g = false) : exec (.shrImm g d a im) s = .next s := by
  show execShrImm g d a im s = _
  exact act_false hg

theorem sraReg_guard (s : State) (g d a b : BitVec 5) (hg : s.me.guard g = false) : exec (.sraReg g d a b) s = .next s := by
  show execSraReg g d a b s = _
  exact act_false hg

theorem sraImm_guard (s : State) (g d a : BitVec 5) (im : Imm 9) (hg : s.me.guard g = false) : exec (.sraImm g d a im) s = .next s := by
  show execSraImm g d a im s = _
  exact act_false hg

theorem rotlReg_guard (s : State) (g d a b : BitVec 5) (hg : s.me.guard g = false) : exec (.rotlReg g d a b) s = .next s := by
  show execRotlReg g d a b s = _
  exact act_false hg

theorem rotlImm_guard (s : State) (g d a : BitVec 5) (im : Imm 9) (hg : s.me.guard g = false) : exec (.rotlImm g d a im) s = .next s := by
  show execRotlImm g d a im s = _
  exact act_false hg

theorem clzReg_guard (s : State) (g d a : BitVec 5) (hg : s.me.guard g = false) : exec (.clzReg g d a) s = .next s := by
  show execClzReg g d a s = _
  exact act_false hg

theorem clzImm_guard (s : State) (g d : BitVec 5) (im : Imm 9) (hg : s.me.guard g = false) : exec (.clzImm g d im) s = .next s := by
  show execClzImm g d im s = _
  exact act_false hg

theorem popcReg_guard (s : State) (g d a : BitVec 5) (hg : s.me.guard g = false) : exec (.popcReg g d a) s = .next s := by
  show execPopcReg g d a s = _
  exact act_false hg

theorem popcImm_guard (s : State) (g d : BitVec 5) (im : Imm 9) (hg : s.me.guard g = false) : exec (.popcImm g d im) s = .next s := by
  show execPopcImm g d im s = _
  exact act_false hg

theorem minReg_guard (s : State) (g d a b : BitVec 5) (u : Bool) (hg : s.me.guard g = false) : exec (.minReg g d a b u) s = .next s := by
  show execMinReg g d a b u s = _
  exact act_false hg

theorem minImm_guard (s : State) (g d a : BitVec 5) (im : Imm 9) (hg : s.me.guard g = false) : exec (.minImm g d a im) s = .next s := by
  show execMinImm g d a im s = _
  exact act_false hg

theorem maxReg_guard (s : State) (g d a b : BitVec 5) (u : Bool) (hg : s.me.guard g = false) : exec (.maxReg g d a b u) s = .next s := by
  show execMaxReg g d a b u s = _
  exact act_false hg

theorem maxImm_guard (s : State) (g d a : BitVec 5) (im : Imm 9) (hg : s.me.guard g = false) : exec (.maxImm g d a im) s = .next s := by
  show execMaxImm g d a im s = _
  exact act_false hg

theorem sel_guard (s : State) (g d a b : BitVec 5) (p : BitVec 4) (hg : s.me.guard g = false) : exec (.sel g d a b p) s = .next s := by
  show execSel g d a b p s = _
  exact act_false hg

theorem li_guard (s : State) (g d : BitVec 5) (im : Imm 15) (hg : s.me.guard g = false) : exec (.li g d im) s = .next s := by
  show execLi g d im s = _
  exact act_false hg

theorem lih_guard (s : State) (g d : BitVec 5) (im : Imm 15) (hg : s.me.guard g = false) : exec (.lih g d im) s = .next s := by
  show execLih g d im s = _
  exact act_false hg

theorem cmp_guard (s : State) (g : BitVec 5) (pd pe : BitVec 4) (a b : BitVec 5) (cc : BitVec 3) (hg : s.me.guard g = false) : exec (.cmp g pd pe a b cc) s = .next s := by
  show execCmp g pd pe a b cc s = _
  exact act_false hg

theorem cmpi_guard (s : State) (g : BitVec 5) (pd pe : BitVec 4) (a : BitVec 5) (cc : BitVec 3) (im : Imm 4) (hg : s.me.guard g = false) : exec (.cmpi g pd pe a cc im) s = .next s := by
  show execCmpi g pd pe a cc im s = _
  exact act_false hg

theorem plog_guard (s : State) (g : BitVec 5) (pd pa pb tt : BitVec 4) (hg : s.me.guard g = false) : exec (.plog g pd pa pb tt) s = .next s := by
  show execPlog g pd pa pb tt s = _
  exact act_false hg

theorem lds_guard (s : State) (g d a : BitVec 5) (e : BitVec 2) (u : Bool) (o : BitVec 8) (hg : s.me.guard g = false) : exec (.lds g d a e u o) s = .next s := by
  show execLds g d a e u o s = _
  exact act_false hg

theorem sts_guard (s : State) (g d a : BitVec 5) (e : BitVec 2) (o : BitVec 8) (hg : s.me.guard g = false) : exec (.sts g d a e o) s = .next s := by
  show execSts g d a e o s = _
  exact act_false hg

theorem xcpS_guard (s : State) (g : BitVec 5) (f : BitVec 3) (r : BitVec 9) (a : BitVec 5) (hg : s.me.guard g = false) : exec (.xcpS g f r a) s = .next s := by
  show execXcpS g f r a s = _
  exact act_false hg

theorem crd_guard (s : State) (g r : BitVec 5) (n : BitVec 12) (hg : s.me.guard g = false) : exec (.crd g r n) s = .next s := by
  show execCrd g r n s = _
  exact act_false hg

theorem cwr_guard (s : State) (g r : BitVec 5) (n : BitVec 12) (hg : s.me.guard g = false) : exec (.cwr g r n) s = .next s := by
  show execCwr g r n s = _
  exact act_false hg

theorem cyc_guard (s : State) (g d : BitVec 5) (t : Bool) (hg : s.me.guard g = false) : exec (.cyc g d t) s = .next s := by
  show execCyc g d t s = _
  exact act_false hg

theorem cmptS_guard (s : State) (g a b : BitVec 5) (hg : s.me.guard g = false) : exec (.cmptS g a b) s = .next s := by
  show execCmptS g a b s = _
  exact act_false hg

theorem br_guard (s : State) (g : BitVec 5) (o : BitVec 14) (hg : s.me.guard g = false) : exec (.br g o) s = .next s := by
  show execBr g o s = _
  exact act_false hg

theorem jmp_guard (s : State) (g a : BitVec 5) (hg : s.me.guard g = false) : exec (.jmp g a) s = .next s := by
  show execJmp g a s = _
  exact act_false hg

theorem loop_guard (s : State) (g a : BitVec 5) (k : BitVec 3) (o : BitVec 13) (hg : s.me.guard g = false) : exec (.loop g a k o) s = .next s := by
  show execLoop g a k o s = _
  exact act_false hg

theorem bloop_guard (s : State) (g : BitVec 5) (o : BitVec 14) (hg : s.me.guard g = false) : exec (.bloop g o) s = .next s := by
  show execBloop g o s = _
  exact act_false hg

theorem bsw_guard (s : State) (g : BitVec 5) (o : BitVec 14) (hg : s.me.guard g = false) : exec (.bsw g o) s = .next s := by
  show execBsw g o s = _
  exact act_false hg

theorem ifence_guard (s : State) (g : BitVec 5) (hg : s.me.guard g = false) : exec (.ifence g) s = .next s := by
  show execIfence g s = _
  exact act_false hg

theorem waitOwn_guard (s : State) (g : BitVec 5) (q : BitVec 6) (hg : s.me.guard g = false) (hs : s.me.stall = none) : exec (.waitOwn g q) s = .next s := by
  show execWaitOwn g q s = _
  exact hold_false hg hs

theorem waitWp_guard (s : State) (g : BitVec 5) (ch : Bool) (a : BitVec 5) (hg : s.me.guard g = false) (hs : s.me.stall = none) : exec (.waitWp g ch a) s = .next s := by
  show execWaitWp g ch a s = _
  exact hold_false hg hs

theorem waitBar_guard (s : State) (g : BitVec 5) (b : BitVec 4) (hg : s.me.guard g = false) (hs : s.me.stall = none) : exec (.waitBar g b) s = .next s := by
  show execWaitBar g b s = _
  rw [execWaitBar]; simp only [hg, Bool.false_and, Bool.false_eq_true, if_false]; exact hold_false hg hs

theorem waitVal_guard (s : State) (g : BitVec 5) (acq : Bool) (cc : BitVec 3) (a b : BitVec 5) (sc : BitVec 3) (z : Bool) (hg : s.me.guard g = false) (hs : s.me.stall = none) : exec (.waitVal g acq cc a b sc z) s = .next s := by
  show execWaitVal g acq cc a b sc z s = _
  simp only [execWaitVal, hg, Bool.false_and, Bool.false_eq_true, if_false]; exact hold_false hg hs

theorem waitCyc_guard (s : State) (g a : BitVec 5) (hg : s.me.guard g = false) (hs : s.me.stall = none) : exec (.waitCyc g a) s = .next s := by
  show execWaitCyc g a s = _
  exact hold_false hg hs

theorem bar_guard (s : State) (g : BitVec 5) (b : BitVec 4) (hg : s.me.guard g = false) (hs : s.me.stall = none) : exec (.bar g b) s = .next s := by
  show execBar g b s = _
  rw [execBar]; split
  · exact act_false hg
  · exact hold_false hg hs

theorem tnext_guard (s : State) (g : BitVec 5) (pd : BitVec 4) (q : BitVec 3) (a : BitVec 5) (hg : s.me.guard g = false) (hs : s.me.stall = none) : exec (.tnext g pd q a) s = .next s := by
  show execTnext g pd q a s = _
  exact hold_false hg hs

theorem enq_guard (s : State) (g : BitVec 5) (pd : BitVec 4) (q : BitVec 3) (pri : BitVec 2) (a : BitVec 5) (hg : s.me.guard g = false) : exec (.enq g pd q pri a) s = .next s := by
  show execEnq g pd q pri a s = _
  exact act_false hg

theorem exit_guard (s : State) (g : BitVec 5) (hg : s.me.guard g = false) : exec (.exit g) s = .next s := by
  show execExit g s = _
  exact act_false hg

theorem dbrk_guard (s : State) (g : BitVec 5) (hg : s.me.guard g = false) : exec (.dbrk g) s = .next s := by
  show execDbrk g s = _
  exact act_false hg

theorem trap_guard (s : State) (g : BitVec 5) (im : BitVec 16) (hg : s.me.guard g = false) : exec (.trap g im) s = .next s := by
  show execTrap g im s = _
  exact act_false hg

theorem tret_guard (s : State) (g : BitVec 5) (hg : s.me.guard g = false) : exec (.tret g) s = .next s := by
  show execTret g s = _
  exact act_false hg

theorem crgnOpen_guard (s : State) (g : BitVec 5) (id : BitVec 8) (o : BitVec 12) (hg : s.me.guard g = false) : exec (.crgnOpen g id o) s = .next s := by
  show execCrgnOpen g id o s = _
  exact act_false hg

theorem crgnClose_guard (s : State) (g : BitVec 5) (hg : s.me.guard g = false) (hs : s.me.stall = none) : exec (.crgnClose g) s = .next s := by
  show execCrgnClose g s = _
  rw [execCrgnClose]; split
  · exact act_false hg
  · exact hold_false hg hs

theorem xcpV_guard (s : State) (h : VHead) (a : BitVec 6) (f : BitVec 3) (r : BitVec 9) (lane : BitVec 3) (hg : s.me.guard h.g = false) : exec (.xcpV h a f r lane) s = .next s := by
  show execXcpV h a f r lane s = _
  exact vop_false hg

theorem cmptV_guard (s : State) (h : VHead) (o : VR) (hg : s.me.guard h.g = false) : exec (.cmptV h o) s = .next s := by
  show execCmptV h o s = _
  exact vop_false hg

theorem vld_guard (s : State) (h : VHead) (o : VM) (hg : s.me.guard h.g = false) : exec (.vld h o) s = .next s := by
  show execVld h o s = _
  exact vop_false hg

theorem vst_guard (s : State) (h : VHead) (o : VM) (hg : s.me.guard h.g = false) : exec (.vst h o) s = .next s := by
  show execVst h o s = _
  exact vop_false hg

theorem vgth_guard (s : State) (h : VHead) (o : VM) (hg : s.me.guard h.g = false) : exec (.vgth h o) s = .next s := by
  show execVgth h o s = _
  exact vop_false hg

theorem vsct_guard (s : State) (h : VHead) (o : VM) (hg : s.me.guard h.g = false) : exec (.vsct h o) s = .next s := by
  show execVsct h o s = _
  exact vop_false hg

theorem vrmg_guard (s : State) (h : VHead) (o : VR) (hg : s.me.guard h.g = false) : exec (.vrmg h o) s = .next s := by
  show execVrmg h o s = _
  exact vop_false hg

theorem vadd_guard (s : State) (h : VHead) (o : VR) (hg : s.me.guard h.g = false) : exec (.vadd h o) s = .next s := by
  show execVadd h o s = _
  exact vop_false hg

theorem vsub_guard (s : State) (h : VHead) (o : VR) (hg : s.me.guard h.g = false) : exec (.vsub h o) s = .next s := by
  show execVsub h o s = _
  exact vop_false hg

theorem vmul_guard (s : State) (h : VHead) (o : VR) (hg : s.me.guard h.g = false) : exec (.vmul h o) s = .next s := by
  show execVmul h o s = _
  exact vop_false hg

theorem vfma_guard (s : State) (h : VHead) (o : VR) (hg : s.me.guard h.g = false) : exec (.vfma h o) s = .next s := by
  show execVfma h o s = _
  exact vop_false hg

theorem vmin_guard (s : State) (h : VHead) (o : VR) (hg : s.me.guard h.g = false) : exec (.vmin h o) s = .next s := by
  show execVmin h o s = _
  exact vop_false hg

theorem vmax_guard (s : State) (h : VHead) (o : VR) (hg : s.me.guard h.g = false) : exec (.vmax h o) s = .next s := by
  show execVmax h o s = _
  exact vop_false hg

theorem vabs_guard (s : State) (h : VHead) (o : VR) (hg : s.me.guard h.g = false) : exec (.vabs h o) s = .next s := by
  show execVabs h o s = _
  exact vop_false hg

theorem vneg_guard (s : State) (h : VHead) (o : VR) (hg : s.me.guard h.g = false) : exec (.vneg h o) s = .next s := by
  show execVneg h o s = _
  exact vop_false hg

theorem vrcp_guard (s : State) (h : VHead) (o : VR) (hg : s.me.guard h.g = false) : exec (.vrcp h o) s = .next s := by
  show execVrcp h o s = _
  exact vop_false hg

theorem vrsq_guard (s : State) (h : VHead) (o : VR) (hg : s.me.guard h.g = false) : exec (.vrsq h o) s = .next s := by
  show execVrsq h o s = _
  exact vop_false hg

theorem vexp2_guard (s : State) (h : VHead) (o : VR) (hg : s.me.guard h.g = false) : exec (.vexp2 h o) s = .next s := by
  show execVexp2 h o s = _
  exact vop_false hg

theorem vlog2_guard (s : State) (h : VHead) (o : VR) (hg : s.me.guard h.g = false) : exec (.vlog2 h o) s = .next s := by
  show execVlog2 h o s = _
  exact vop_false hg

theorem vcvt_guard (s : State) (h : VHead) (o : VR) (hg : s.me.guard h.g = false) : exec (.vcvt h o) s = .next s := by
  show execVcvt h o s = _
  exact vop_false hg

theorem viadd_guard (s : State) (h : VHead) (o : VR) (hg : s.me.guard h.g = false) : exec (.viadd h o) s = .next s := by
  show execViadd h o s = _
  exact vop_false hg

theorem visub_guard (s : State) (h : VHead) (o : VR) (hg : s.me.guard h.g = false) : exec (.visub h o) s = .next s := by
  show execVisub h o s = _
  exact vop_false hg

theorem vimul_guard (s : State) (h : VHead) (o : VR) (hg : s.me.guard h.g = false) : exec (.vimul h o) s = .next s := by
  show execVimul h o s = _
  exact vop_false hg

theorem vlogic_guard (s : State) (h : VHead) (o : VR) (hg : s.me.guard h.g = false) : exec (.vlogic h o) s = .next s := by
  show execVlogic h o s = _
  exact vop_false hg

theorem vshl_guard (s : State) (h : VHead) (o : VR) (hg : s.me.guard h.g = false) : exec (.vshl h o) s = .next s := by
  show execVshl h o s = _
  exact vop_false hg

theorem vshr_guard (s : State) (h : VHead) (o : VR) (hg : s.me.guard h.g = false) : exec (.vshr h o) s = .next s := by
  show execVshr h o s = _
  exact vop_false hg

theorem vpopc_guard (s : State) (h : VHead) (o : VR) (hg : s.me.guard h.g = false) : exec (.vpopc h o) s = .next s := by
  show execVpopc h o s = _
  exact vop_false hg

theorem viota_guard (s : State) (h : VHead) (o : VI) (hg : s.me.guard h.g = false) : exec (.viota h o) s = .next s := by
  show execViota h o s = _
  exact vop_false hg

theorem vmovi_guard (s : State) (h : VHead) (o : VI) (hg : s.me.guard h.g = false) : exec (.vmovi h o) s = .next s := by
  show execVmovi h o s = _
  exact vop_false hg

theorem vcmp_guard (s : State) (h : VHead) (o : VR) (hg : s.me.guard h.g = false) : exec (.vcmp h o) s = .next s := by
  show execVcmp h o s = _
  exact vop_false hg

theorem vicmp_guard (s : State) (h : VHead) (o : VR) (hg : s.me.guard h.g = false) : exec (.vicmp h o) s = .next s := by
  show execVicmp h o s = _
  exact vop_false hg

theorem vselm_guard (s : State) (h : VHead) (o : VR) (hg : s.me.guard h.g = false) : exec (.vselm h o) s = .next s := by
  show execVselm h o s = _
  exact vop_false hg

theorem wlog_guard (s : State) (h : VHead) (o : VR) (hg : s.me.guard h.g = false) : exec (.wlog h o) s = .next s := by
  show execWlog h o s = _
  exact vop_false hg

theorem wcnt_guard (s : State) (h : VHead) (o : VR) (hg : s.me.guard h.g = false) : exec (.wcnt h o) s = .next s := by
  show execWcnt h o s = _
  exact vop_false hg

theorem vbits_guard (s : State) (h : VHead) (o : VR) (hg : s.me.guard h.g = false) : exec (.vbits h o) s = .next s := by
  show execVbits h o s = _
  exact vop_false hg

theorem vrsum_guard (s : State) (h : VHead) (o : VR) (hg : s.me.guard h.g = false) : exec (.vrsum h o) s = .next s := by
  show execVrsum h o s = _
  exact vop_false hg

theorem vrmax_guard (s : State) (h : VHead) (o : VR) (hg : s.me.guard h.g = false) : exec (.vrmax h o) s = .next s := by
  show execVrmax h o s = _
  exact vop_false hg

theorem vperm_guard (s : State) (h : VHead) (o : VR) (hg : s.me.guard h.g = false) : exec (.vperm h o) s = .next s := by
  show execVperm h o s = _
  exact vop_false hg

theorem vbcst_guard (s : State) (h : VHead) (o : VR) (hg : s.me.guard h.g = false) : exec (.vbcst h o) s = .next s := by
  show execVbcst h o s = _
  exact vop_false hg

theorem ard_guard (s : State) (h : VHead) (o : VA) (hg : s.me.guard h.g = false) : exec (.ard h o) s = .next s := by
  show execArd h o s = _
  exact vop_false hg

theorem awr_guard (s : State) (h : VHead) (o : VA) (hg : s.me.guard h.g = false) : exec (.awr h o) s = .next s := by
  show execAwr h o s = _
  exact vop_false hg

theorem zld_guard (s : State) (h : VHead) (d : BitVec 6) (z : BitVec 9) (hg : s.me.guard h.g = false) : exec (.zld h d z) s = .next s := by
  show execZld h d z s = _
  exact zop_false hg

theorem zst_guard (s : State) (h : VHead) (d : BitVec 6) (z : BitVec 9) (hg : s.me.guard h.g = false) : exec (.zst h d z) s = .next s := by
  show execZst h d z s = _
  exact vop_false hg

theorem vbmax_guard (s : State) (h : VHead) (o : VR) (hg : s.me.guard h.g = false) : exec (.vbmax h o) s = .next s := by
  show execVbmax h o s = _
  exact vop_false hg

theorem vqsx_guard (s : State) (h : VHead) (o : VR) (hg : s.me.guard h.g = false) : exec (.vqsx h o) s = .next s := by
  show execVqsx h o s = _
  exact vop_false hg

theorem vdqsx_guard (s : State) (h : VHead) (o : VR) (hg : s.me.guard h.g = false) : exec (.vdqsx h o) s = .next s := by
  show execVdqsx h o s = _
  exact vop_false hg

theorem vsigp_guard (s : State) (h : VHead) (o : VR) (hg : s.me.guard h.g = false) : exec (.vsigp h o) s = .next s := by
  show execVsigp h o s = _
  exact vop_false hg

theorem vmaj_guard (s : State) (h : VHead) (o : VR) (hg : s.me.guard h.g = false) : exec (.vmaj h o) s = .next s := by
  show execVmaj h o s = _
  exact vop_false hg

theorem vosm_guard (s : State) (h : VHead) (o : VR) (hg : s.me.guard h.g = false) : exec (.vosm h o) s = .next s := by
  show execVosm h o s = _
  exact vop_false hg

theorem vosf_guard (s : State) (h : VHead) (o : VR) (hg : s.me.guard h.g = false) : exec (.vosf h o) s = .next s := by
  show execVosf h o s = _
  rw [execVosf]; split <;> exact vop_false hg

theorem vrope_guard (s : State) (h : VHead) (o : VR) (hg : s.me.guard h.g = false) : exec (.vrope h o) s = .next s := by
  show execVrope h o s = _
  exact vop_false hg

theorem vrng_guard (s : State) (h : VHead) (o : VR) (hg : s.me.guard h.g = false) : exec (.vrng h o) s = .next s := by
  show execVrng h o s = _
  exact vop_false hg

theorem mstat_guard (s : State) (h : MHead) (tid : BitVec 6) (hg : s.me.guard h.g = false) : exec (.mstat h tid) s = .next s := by
  show execMstat h tid s = _
  exact act_false hg

theorem mrel_guard (s : State) (h : MHead) (tid : BitVec 6) (layout : BitVec 2) (hg : s.me.guard h.g = false) : exec (.mrel h tid layout) s = .next s := by
  show execMrel h tid layout s = _
  exact act_false hg

theorem mtld_guard (s : State) (h : MHead) (t : BitVec 4) (row : BitVec 12) (hg : s.me.guard h.g = false) : exec (.mtld h t row) s = .next s := by
  show execMtld h t row s = _
  exact act_false hg

theorem mtst_guard (s : State) (h : MHead) (t : BitVec 4) (row : BitVec 12) (hg : s.me.guard h.g = false) : exec (.mtst h t row) s = .next s := by
  show execMtst h t row s = _
  exact act_false hg

theorem mmul_guard (s : State) (h : MHead) (acc ck : Bool) (fmt bank : BitVec 3) (t : BitVec 4) (tid : BitVec 6) (k0 n0 : BitVec 16) (hg : s.me.guard h.g = false) : exec (.mmul h acc ck fmt bank t tid k0 n0) s = .next s := by
  show execMmul h acc ck fmt bank t tid k0 n0 s = _
  exact act_false hg

theorem mclr_guard (s : State) (h : MHead) (bank : BitVec 3) (hg : s.me.guard h.g = false) : exec (.mclr h bank) s = .next s := by
  show execMclr h bank s = _
  exact act_false hg

theorem tup_guard (s : State) (h : MHead) (md : BitVec 2) (zd : BitVec 9) (sh lm : BitVec 6) (base : BitVec 9) (hg : s.me.guard h.g = false) : exec (.tup h md zd sh lm base) s = .next s := by
  show execTup h md zd sh lm base s = _
  exact zop_false hg

theorem tdn_guard (s : State) (h : MHead) (md : BitVec 2) (zd zg : BitVec 9) (sh lm : BitVec 6) (base : BitVec 9) (hg : s.me.guard h.g = false) : exec (.tdn h md zd zg sh lm base) s = .next s := by
  show execTdn h md zd zg sh lm base s = _
  exact zop_false hg

theorem tmxp_guard (s : State) (h : MHead) (md : BitVec 2) (zd : BitVec 9) (sh lm : BitVec 6) (base : BitVec 9) (hg : s.me.guard h.g = false) : exec (.tmxp h md zd sh lm base) s = .next s := by
  show execTmxp h md zd sh lm base s = _
  exact zop_false hg

theorem tscl_guard (s : State) (h : MHead) (all : Bool) (zd : BitVec 9) (hg : s.me.guard h.g = false) : exec (.tscl h all zd) s = .next s := by
  show execTscl h all zd s = _
  exact zop_false hg

theorem tshl_guard (s : State) (h : MHead) (l : Bool) (e : BitVec 6) (row : BitVec 12) (hg : s.me.guard h.g = false) : exec (.tshl h l e row) s = .next s := by
  show execTshl h l e row s = _
  exact act_false hg

theorem tcvt_guard (s : State) (h : MHead) (md : BitVec 2) (zd zs : BitVec 9) (hg : s.me.guard h.g = false) : exec (.tcvt h md zd zs) s = .next s := by
  show execTcvt h md zd zs s = _
  exact zop_false hg

theorem xcpM_guard (s : State) (h : MHead) (zs : BitVec 9) (f : BitVec 3) (r : BitVec 5) (hg : s.me.guard h.g = false) : exec (.xcpM h zs f r) s = .next s := by
  show execXcpM h zs f r s = _
  exact zop_false hg

theorem addC_guard (s : State) (h : CHead) (d a : BitVec 5) (o : COp) (hg : s.me.guard h.g = false) : exec (.addC h d a o) s = .next s := by
  show execAddC h d a o s = _
  exact act_false hg

theorem subC_guard (s : State) (h : CHead) (d a : BitVec 5) (o : COp) (hg : s.me.guard h.g = false) : exec (.subC h d a o) s = .next s := by
  show execSubC h d a o s = _
  exact act_false hg

theorem shlC_guard (s : State) (h : CHead) (d a : BitVec 5) (o : COp) (hg : s.me.guard h.g = false) : exec (.shlC h d a o) s = .next s := by
  show execShlC h d a o s = _
  exact act_false hg

theorem liC_guard (s : State) (h : CHead) (d : BitVec 5) (im : BitVec 32) (hg : s.me.guard h.g = false) : exec (.liC h d im) s = .next s := by
  show execLiC h d im s = _
  exact act_false hg

theorem lihC_guard (s : State) (h : CHead) (d : BitVec 5) (im : BitVec 32) (hg : s.me.guard h.g = false) : exec (.lihC h d im) s = .next s := by
  show execLihC h d im s = _
  exact act_false hg

theorem xcpC_guard (s : State) (h : CHead) (a : BitVec 5) (f : BitVec 3) (r : BitVec 9) (hg : s.me.guard h.g = false) : exec (.xcpC h a f r) s = .next s := by
  show execXcpC h a f r s = _
  exact act_false hg

theorem cmptC_guard (s : State) (h : CHead) (a b : BitVec 5) (hg : s.me.guard h.g = false) : exec (.cmptC h a b) s = .next s := by
  show execCmptC h a b s = _
  exact act_false hg

theorem cpy_guard (s : State) (h : CHead) (o : CE) (hg : s.me.guard h.g = false) : exec (.cpy h o) s = .next s := by
  show execCpy h o s = _
  exact act_false hg

theorem cpy2_guard (s : State) (h : CHead) (o : CE) (hg : s.me.guard h.g = false) : exec (.cpy2 h o) s = .next s := by
  show execCpy2 h o s = _
  exact act_false hg

theorem cpyl_guard (s : State) (h : CHead) (o : CE) (hg : s.me.guard h.g = false) : exec (.cpyl h o) s = .next s := by
  show execCpyl h o s = _
  exact act_false hg

theorem put_guard (s : State) (h : CHead) (srow drow : BitVec 12) (n1 : BitVec 4) (lrow lcol : BitVec 5) (hg : s.me.guard h.g = false) : exec (.put h srow drow n1 lrow lcol) s = .next s := by
  show execPut h srow drow n1 lrow lcol s = _
  exact act_false hg

theorem give_guard (s : State) (h : CHead) (w : Bool) (q : BitVec 6) (n : BitVec 7) (hg : s.me.guard h.g = false) : exec (.give h w q n) s = .next s := by
  show execGive h w q n s = _
  exact act_false hg

theorem take_guard (s : State) (h : CHead) (q : BitVec 6) (n : BitVec 7) (hg : s.me.guard h.g = false) : exec (.take h q n) s = .next s := by
  show execTake h q n s = _
  exact act_false hg

theorem atom_guard (s : State) (h : CHead) (o : CE) (hg : s.me.guard h.g = false) : exec (.atom h o) s = .next s := by
  show execAtom h o s = _
  exact act_false hg

theorem sig_guard (s : State) (h : CHead) (o : CE) (hg : s.me.guard h.g = false) : exec (.sig h o) s = .next s := by
  show execSig h o s = _
  exact act_false hg

theorem fence_guard (s : State) (h : CHead) (o : CE) (hg : s.me.guard h.g = false) : exec (.fence h o) s = .next s := by
  show execFence h o s = _
  exact act_false hg

theorem coll_guard (s : State) (h : CHead) (o : CE) (hg : s.me.guard h.g = false) : exec (.coll h o) s = .next s := by
  show execColl h o s = _
  exact act_false hg

theorem cstk_guard (s : State) (h : CHead) (o : CE) (hg : s.me.guard h.g = false) : exec (.cstk h o) s = .next s := by
  show execCstk h o s = _
  exact act_false hg

theorem pgft_guard (s : State) (h : CHead) (o : CE) (hg : s.me.guard h.g = false) : exec (.pgft h o) s = .next s := by
  show execPgft h o s = _
  exact act_false hg

theorem preq_guard (s : State) (h : CHead) (o : CE) (hg : s.me.guard h.g = false) : exec (.preq h o) s = .next s := by
  show execPreq h o s = _
  exact act_false hg

theorem wbk_guard (s : State) (h : CHead) (o : CE) (hg : s.me.guard h.g = false) : exec (.wbk h o) s = .next s := by
  show execWbk h o s = _
  exact act_false hg

theorem mapr_guard (s : State) (h : CHead) (slot : BitVec 3) (q : BitVec 6) (n : BitVec 7) (ra : BitVec 5) (hg : s.me.guard h.g = false) : exec (.mapr h slot q n ra) s = .next s := by
  show execMapr h slot q n ra s = _
  exact act_false hg

theorem pmov_guard (s : State) (h : CHead) (o : CE) (hg : s.me.guard h.g = false) : exec (.pmov h o) s = .next s := by
  show execPmov h o s = _
  exact act_false hg

theorem sset_guard (s : State) (h : CHead) (o : CE) (hg : s.me.guard h.g = false) : exec (.sset h o) s = .next s := by
  show execSset h o s = _
  exact act_false hg

theorem sins_guard (s : State) (h : CHead) (o : CE) (hg : s.me.guard h.g = false) : exec (.sins h o) s = .next s := by
  show execSins h o s = _
  exact act_false hg

theorem ssel_guard (s : State) (h : CHead) (o : CE) (hg : s.me.guard h.g = false) : exec (.ssel h o) s = .next s := by
  show execSsel h o s = _
  exact act_false hg

theorem sage_guard (s : State) (h : CHead) (o : CE) (hg : s.me.guard h.g = false) : exec (.sage h o) s = .next s := by
  show execSage h o s = _
  exact act_false hg

theorem sdel_guard (s : State) (h : CHead) (o : CE) (hg : s.me.guard h.g = false) : exec (.sdel h o) s = .next s := by
  show execSdel h o s = _
  exact act_false hg

theorem smig_guard (s : State) (h : CHead) (o : CE) (hg : s.me.guard h.g = false) : exec (.smig h o) s = .next s := by
  show execSmig h o s = _
  exact act_false hg

theorem pgap_guard (s : State) (h : CHead) (o : CE) (hg : s.me.guard h.g = false) : exec (.pgap h o) s = .next s := by
  show execPgap h o s = _
  exact act_false hg

theorem plan_guard (s : State) (h : CHead) (o : CE) (hg : s.me.guard h.g = false) : exec (.plan h o) s = .next s := by
  show execPlan h o s = _
  exact act_false hg

end Sys2Proof.Machine
end

