-- ==== Sys2Proof/Laws/Memory.lean ====
section
/-! SUPPORT. Memory: a byte reads back as it was written, a write leaves every other byte alone, and every operation on
memory keeps its canonical form. -/

namespace Sys2Proof.Machine

variable (m : List Host.Cell)

@[simp] theorem rdByte_wrByte (a b : Nat) (v : Byte) : rdByte (wrByte m a v) b = if b = a then v else rdByte m b :=
  Sparse.get_set ..

theorem wf_wrByte (a : Nat) (v : Byte) (h : memWf m = true) : memWf (wrByte m a v) = true := Sparse.wf_set _ _ _ _ h

@[simp] theorem memWf_nil : memWf [] = true := rfl

/-- A range that is written reads as the bytes written, and every other address as before. -/
theorem rdByte_wrBytes (bs : List Byte) (a x : Nat) :
    rdByte (wrBytes m a bs) x = if h : a ≤ x ∧ x < a + bs.length then bs[x - a]'(by omega) else rdByte m x := by
  induction bs generalizing m a with
  | nil => simp [wrBytes]
  | cons b bs ih =>
    rw [wrBytes, ih]
    simp only [List.length_cons, rdByte_wrByte]
    by_cases h : a + 1 ≤ x ∧ x < a + 1 + bs.length
    · rw [dif_pos h, dif_pos (by omega)]
      have : x - a = x - (a + 1) + 1 := by omega
      simp [this]
    · rw [dif_neg h]
      by_cases hx : x = a
      · subst hx
        rw [if_pos rfl, dif_pos (by omega)]
        simp
      · rw [if_neg hx, dif_neg (by omega)]

theorem wf_wrBytes (bs : List Byte) (a : Nat) (h : memWf m = true) : memWf (wrBytes m a bs) = true := by
  induction bs generalizing m a with
  | nil => exact h
  | cons b bs ih => exact ih _ _ (wf_wrByte m a b h)

@[simp] theorem length_rdBytes (a n : Nat) : (rdBytes m a n).length = n := by
  induction n generalizing a with
  | zero => rfl
  | succ n ih => simp [rdBytes, ih]

theorem getElem_rdBytes (a n i : Nat) (h : i < (rdBytes m a n).length) : (rdBytes m a n)[i] = rdByte m (a + i) := by
  induction n generalizing a i with
  | zero => simp [rdBytes] at h
  | succ n ih =>
    cases i with
    | zero => rfl
    | succ i =>
      simp only [rdBytes, List.getElem_cons_succ]
      rw [ih]
      congr 1
      omega

/-- Bytes read back from where they were written. -/
theorem rdBytes_wrBytes (bs : List Byte) (a : Nat) : rdBytes (wrBytes m a bs) a bs.length = bs := by
  refine List.ext_getElem (by simp) fun i h1 h2 => ?_
  rw [getElem_rdBytes, rdByte_wrBytes, dif_pos (by omega)]
  simp

/-- A read apart from the range written. -/
theorem rdBytes_wrBytes_apart (bs : List Byte) (a b n : Nat) (h : b + n ≤ a ∨ a + bs.length ≤ b) :
    rdBytes (wrBytes m a bs) b n = rdBytes m b n := by
  refine List.ext_getElem (by simp) fun i h1 h2 => ?_
  simp only [length_rdBytes] at h1
  rw [getElem_rdBytes, getElem_rdBytes, rdByte_wrBytes, dif_neg (by omega)]

theorem wf_wrMasked (bs : List Byte) (a k : Nat) (h : memWf m = true) : memWf (wrMasked m a k bs) = true := by
  induction bs generalizing m a k with
  | nil => exact h
  | cons b bs ih =>
    unfold wrMasked
    exact ih _ _ _ (by split <;> first | exact wf_wrByte _ _ _ h | exact h)

end Sys2Proof.Machine
end

