-- ==== Sys2Proof/Laws/State.lean ====
section
/-! SUPPORT. The fields of the state after each named update, one lemma for each, so that no proof unfolds a record update. -/

namespace Sys2Proof.Machine

variable (s : State) (c : Core)

/-! ### A core replaced -/

@[simp] theorem State.setCore_power (k : Nat) (d : Core) : (s.setCore k d).power = s.power := rfl
@[simp] theorem State.setCore_glob (k : Nat) (d : Core) : (s.setCore k d).glob = s.glob := rfl
@[simp] theorem State.setCore_mem (k : Nat) (d : Core) : (s.setCore k d).mem = s.mem := rfl
@[simp] theorem State.setCore_errs (k : Nat) (d : Core) : (s.setCore k d).errs = s.errs := rfl
@[simp] theorem State.setCore_insts (k : Nat) (d : Core) : (s.setCore k d).insts = s.insts := rfl
@[simp] theorem State.setCore_cands (k : Nat) (d : Core) : (s.setCore k d).cands = s.cands := rfl
@[simp] theorem State.setCore_boundary (k : Nat) (d : Core) : (s.setCore k d).boundary = s.boundary := rfl
@[simp] theorem State.setCore_dies (k : Nat) (d : Core) : (s.setCore k d).dies = s.dies := rfl
@[simp] theorem State.setCore_lanes (k : Nat) (d : Core) : (s.setCore k d).lanes = s.lanes := rfl
@[simp] theorem State.setCore_unloaded (k : Nat) (d : Core) : (s.setCore k d).unloaded = s.unloaded := rfl
@[simp] theorem State.setCore_ports (k : Nat) (d : Core) : (s.setCore k d).ports = s.ports := rfl
@[simp] theorem State.setCore_boot (k : Nat) (d : Core) : (s.setCore k d).boot = s.boot := rfl
@[simp] theorem State.setCore_diemask (k : Nat) (d : Core) : (s.setCore k d).diemask = s.diemask := rfl
@[simp] theorem State.setCore_fwMaj (k : Nat) (d : Core) : (s.setCore k d).fwMaj = s.fwMaj := rfl
@[simp] theorem State.setCore_fwMin (k : Nat) (d : Core) : (s.setCore k d).fwMin = s.fwMin := rfl
@[simp] theorem State.setCore_stackOff (k : Nat) (d : Core) : (s.setCore k d).stackOff = s.stackOff := rfl
@[simp] theorem State.setCore_portDown (k : Nat) (d : Core) : (s.setCore k d).portDown = s.portDown := rfl
@[simp] theorem State.setCore_fwUp (k : Nat) (d : Core) : (s.setCore k d).fwUp = s.fwUp := rfl
@[simp] theorem State.setCore_repl (k : Nat) (d : Core) : (s.setCore k d).repl = s.repl := rfl
@[simp] theorem State.setCore_retired (k : Nat) (d : Core) : (s.setCore k d).retired = s.retired := rfl
@[simp] theorem State.setCore_replmin (k : Nat) (d : Core) : (s.setCore k d).replmin = s.replmin := rfl
@[simp] theorem State.setCore_powerLimit (k : Nat) (d : Core) : (s.setCore k d).powerLimit = s.powerLimit := rfl
@[simp] theorem State.setCore_thermal (k : Nat) (d : Core) : (s.setCore k d).thermal = s.thermal := rfl
@[simp] theorem State.setCore_bounds (k : Nat) (d : Core) : (s.setCore k d).bounds = s.bounds := rfl
@[simp] theorem State.setCore_leakper (k : Nat) (d : Core) : (s.setCore k d).leakper = s.leakper := rfl
@[simp] theorem State.setCore_bktmark (k : Nat) (d : Core) : (s.setCore k d).bktmark = s.bktmark := rfl
@[simp] theorem State.setCore_buckets (k : Nat) (d : Core) : (s.setCore k d).buckets = s.buckets := rfl
@[simp] theorem State.setCore_bktrose (k : Nat) (d : Core) : (s.setCore k d).bktrose = s.bktrose := rfl
@[simp] theorem State.setCore_failing (k : Nat) (d : Core) : (s.setCore k d).failing = s.failing := rfl
@[simp] theorem State.setCore_errinjen (k : Nat) (d : Core) : (s.setCore k d).errinjen = s.errinjen := rfl
@[simp] theorem State.setCore_ctxbase (k : Nat) (d : Core) : (s.setCore k d).ctxbase = s.ctxbase := rfl
@[simp] theorem State.setCore_setbase (k : Nat) (d : Core) : (s.setCore k d).setbase = s.setbase := rfl
@[simp] theorem State.setCore_tlbinv (k : Nat) (d : Core) : (s.setCore k d).tlbinv = s.tlbinv := rfl
@[simp] theorem State.setCore_tlbiva (k : Nat) (d : Core) : (s.setCore k d).tlbiva = s.tlbiva := rfl
@[simp] theorem State.setCore_hot (k : Nat) (d : Core) : (s.setCore k d).hot = s.hot := rfl
@[simp] theorem State.setCore_postponed (k : Nat) (d : Core) : (s.setCore k d).postponed = s.postponed := rfl
@[simp] theorem State.setCore_refAt (k : Nat) (d : Core) : (s.setCore k d).refAt = s.refAt := rfl
@[simp] theorem State.setCore_owes (k : Nat) (d : Core) : (s.setCore k d).owes = s.owes := rfl
@[simp] theorem State.setCore_wranges (k : Nat) (d : Core) : (s.setCore k d).wranges = s.wranges := rfl
@[simp] theorem State.setCore_mymod (k : Nat) (d : Core) : (s.setCore k d).mymod = s.mymod := rfl
@[simp] theorem State.setCore_cloeth (k : Nat) (d : Core) : (s.setCore k d).cloeth = s.cloeth := rfl
@[simp] theorem State.setCore_retries (k : Nat) (d : Core) : (s.setCore k d).retries = s.retries := rfl
@[simp] theorem State.setCore_collrx (k : Nat) (d : Core) : (s.setCore k d).collrx = s.collrx := rfl
@[simp] theorem State.setCore_teams (k : Nat) (d : Core) : (s.setCore k d).teams = s.teams := rfl
@[simp] theorem State.setCore_fab (k : Nat) (d : Core) : (s.setCore k d).fab = s.fab := rfl
@[simp] theorem State.setCore_ftag (k : Nat) (d : Core) : (s.setCore k d).ftag = s.ftag := rfl
@[simp] theorem State.setCore_reports (k : Nat) (d : Core) : (s.setCore k d).reports = s.reports := rfl
@[simp] theorem State.setCore_rowsNow (k : Nat) (d : Core) : (s.setCore k d).rowsNow = s.rowsNow := rfl
@[simp] theorem State.setCore_was (k : Nat) (d : Core) : (s.setCore k d).was = s.was := rfl
@[simp] theorem State.setCore_met (k : Nat) (d : Core) : (s.setCore k d).met = s.met := rfl
@[simp] theorem State.setCore_lost (k : Nat) (d : Core) : (s.setCore k d).lost = s.lost := rfl
@[simp] theorem State.setCore_moves (k : Nat) (d : Core) : (s.setCore k d).moves = s.moves := rfl
@[simp] theorem State.setCore_parity (k : Nat) (d : Core) : (s.setCore k d).parity = s.parity := rfl
@[simp] theorem State.setCore_rr (k : Nat) (d : Core) : (s.setCore k d).rr = s.rr := rfl
@[simp] theorem State.setCore_norder (k : Nat) (d : Core) : (s.setCore k d).norder = s.norder := rfl
@[simp] theorem State.setCore_nuid (k : Nat) (d : Core) : (s.setCore k d).nuid = s.nuid := rfl
@[simp] theorem State.setCore_inbox (k : Nat) (d : Core) : (s.setCore k d).inbox = s.inbox := rfl
@[simp] theorem State.setCore_waiting (k : Nat) (d : Core) : (s.setCore k d).waiting = s.waiting := rfl
@[simp] theorem State.setCore_flits (k : Nat) (d : Core) : (s.setCore k d).flits = s.flits := rfl
@[simp] theorem State.setCore_out (k : Nat) (d : Core) : (s.setCore k d).out = s.out := rfl
@[simp] theorem State.setCore_turn (k : Nat) (d : Core) : (s.setCore k d).turn = s.turn := rfl
@[simp] theorem State.setCore_cur (k : Nat) (d : Core) : (s.setCore k d).cur = s.cur := rfl
@[simp] theorem State.setCore_klane (k : Nat) (d : Core) : (s.setCore k d).klane = s.klane := rfl
@[simp] theorem State.setCore_debt (k : Nat) (d : Core) : (s.setCore k d).debt = s.debt := rfl
@[simp] theorem State.setCore_free (k : Nat) (d : Core) : (s.setCore k d).free = s.free := rfl
@[simp] theorem State.setCore_leakAt (k : Nat) (d : Core) : (s.setCore k d).leakAt = s.leakAt := rfl
@[simp] theorem State.setCore_epoch (k : Nat) (d : Core) : (s.setCore k d).epoch = s.epoch := rfl
@[simp] theorem State.setCore_cores (k : Nat) (d : Core) : (s.setCore k d).cores = Sparse.put s.cores k d := rfl

/-! ### A core changed -/

@[simp] theorem State.onCore_power (k : Nat) (f : Core → Core) : (s.onCore k f).power = s.power := rfl
@[simp] theorem State.onCore_glob (k : Nat) (f : Core → Core) : (s.onCore k f).glob = s.glob := rfl
@[simp] theorem State.onCore_mem (k : Nat) (f : Core → Core) : (s.onCore k f).mem = s.mem := rfl
@[simp] theorem State.onCore_errs (k : Nat) (f : Core → Core) : (s.onCore k f).errs = s.errs := rfl
@[simp] theorem State.onCore_insts (k : Nat) (f : Core → Core) : (s.onCore k f).insts = s.insts := rfl
@[simp] theorem State.onCore_cands (k : Nat) (f : Core → Core) : (s.onCore k f).cands = s.cands := rfl
@[simp] theorem State.onCore_boundary (k : Nat) (f : Core → Core) : (s.onCore k f).boundary = s.boundary := rfl
@[simp] theorem State.onCore_dies (k : Nat) (f : Core → Core) : (s.onCore k f).dies = s.dies := rfl
@[simp] theorem State.onCore_lanes (k : Nat) (f : Core → Core) : (s.onCore k f).lanes = s.lanes := rfl
@[simp] theorem State.onCore_unloaded (k : Nat) (f : Core → Core) : (s.onCore k f).unloaded = s.unloaded := rfl
@[simp] theorem State.onCore_ports (k : Nat) (f : Core → Core) : (s.onCore k f).ports = s.ports := rfl
@[simp] theorem State.onCore_boot (k : Nat) (f : Core → Core) : (s.onCore k f).boot = s.boot := rfl
@[simp] theorem State.onCore_diemask (k : Nat) (f : Core → Core) : (s.onCore k f).diemask = s.diemask := rfl
@[simp] theorem State.onCore_fwMaj (k : Nat) (f : Core → Core) : (s.onCore k f).fwMaj = s.fwMaj := rfl
@[simp] theorem State.onCore_fwMin (k : Nat) (f : Core → Core) : (s.onCore k f).fwMin = s.fwMin := rfl
@[simp] theorem State.onCore_stackOff (k : Nat) (f : Core → Core) : (s.onCore k f).stackOff = s.stackOff := rfl
@[simp] theorem State.onCore_portDown (k : Nat) (f : Core → Core) : (s.onCore k f).portDown = s.portDown := rfl
@[simp] theorem State.onCore_fwUp (k : Nat) (f : Core → Core) : (s.onCore k f).fwUp = s.fwUp := rfl
@[simp] theorem State.onCore_repl (k : Nat) (f : Core → Core) : (s.onCore k f).repl = s.repl := rfl
@[simp] theorem State.onCore_retired (k : Nat) (f : Core → Core) : (s.onCore k f).retired = s.retired := rfl
@[simp] theorem State.onCore_replmin (k : Nat) (f : Core → Core) : (s.onCore k f).replmin = s.replmin := rfl
@[simp] theorem State.onCore_powerLimit (k : Nat) (f : Core → Core) : (s.onCore k f).powerLimit = s.powerLimit := rfl
@[simp] theorem State.onCore_thermal (k : Nat) (f : Core → Core) : (s.onCore k f).thermal = s.thermal := rfl
@[simp] theorem State.onCore_bounds (k : Nat) (f : Core → Core) : (s.onCore k f).bounds = s.bounds := rfl
@[simp] theorem State.onCore_leakper (k : Nat) (f : Core → Core) : (s.onCore k f).leakper = s.leakper := rfl
@[simp] theorem State.onCore_bktmark (k : Nat) (f : Core → Core) : (s.onCore k f).bktmark = s.bktmark := rfl
@[simp] theorem State.onCore_buckets (k : Nat) (f : Core → Core) : (s.onCore k f).buckets = s.buckets := rfl
@[simp] theorem State.onCore_bktrose (k : Nat) (f : Core → Core) : (s.onCore k f).bktrose = s.bktrose := rfl
@[simp] theorem State.onCore_failing (k : Nat) (f : Core → Core) : (s.onCore k f).failing = s.failing := rfl
@[simp] theorem State.onCore_errinjen (k : Nat) (f : Core → Core) : (s.onCore k f).errinjen = s.errinjen := rfl
@[simp] theorem State.onCore_ctxbase (k : Nat) (f : Core → Core) : (s.onCore k f).ctxbase = s.ctxbase := rfl
@[simp] theorem State.onCore_setbase (k : Nat) (f : Core → Core) : (s.onCore k f).setbase = s.setbase := rfl
@[simp] theorem State.onCore_tlbinv (k : Nat) (f : Core → Core) : (s.onCore k f).tlbinv = s.tlbinv := rfl
@[simp] theorem State.onCore_tlbiva (k : Nat) (f : Core → Core) : (s.onCore k f).tlbiva = s.tlbiva := rfl
@[simp] theorem State.onCore_hot (k : Nat) (f : Core → Core) : (s.onCore k f).hot = s.hot := rfl
@[simp] theorem State.onCore_postponed (k : Nat) (f : Core → Core) : (s.onCore k f).postponed = s.postponed := rfl
@[simp] theorem State.onCore_refAt (k : Nat) (f : Core → Core) : (s.onCore k f).refAt = s.refAt := rfl
@[simp] theorem State.onCore_owes (k : Nat) (f : Core → Core) : (s.onCore k f).owes = s.owes := rfl
@[simp] theorem State.onCore_wranges (k : Nat) (f : Core → Core) : (s.onCore k f).wranges = s.wranges := rfl
@[simp] theorem State.onCore_mymod (k : Nat) (f : Core → Core) : (s.onCore k f).mymod = s.mymod := rfl
@[simp] theorem State.onCore_cloeth (k : Nat) (f : Core → Core) : (s.onCore k f).cloeth = s.cloeth := rfl
@[simp] theorem State.onCore_retries (k : Nat) (f : Core → Core) : (s.onCore k f).retries = s.retries := rfl
@[simp] theorem State.onCore_collrx (k : Nat) (f : Core → Core) : (s.onCore k f).collrx = s.collrx := rfl
@[simp] theorem State.onCore_teams (k : Nat) (f : Core → Core) : (s.onCore k f).teams = s.teams := rfl
@[simp] theorem State.onCore_fab (k : Nat) (f : Core → Core) : (s.onCore k f).fab = s.fab := rfl
@[simp] theorem State.onCore_ftag (k : Nat) (f : Core → Core) : (s.onCore k f).ftag = s.ftag := rfl
@[simp] theorem State.onCore_reports (k : Nat) (f : Core → Core) : (s.onCore k f).reports = s.reports := rfl
@[simp] theorem State.onCore_rowsNow (k : Nat) (f : Core → Core) : (s.onCore k f).rowsNow = s.rowsNow := rfl
@[simp] theorem State.onCore_was (k : Nat) (f : Core → Core) : (s.onCore k f).was = s.was := rfl
@[simp] theorem State.onCore_met (k : Nat) (f : Core → Core) : (s.onCore k f).met = s.met := rfl
@[simp] theorem State.onCore_lost (k : Nat) (f : Core → Core) : (s.onCore k f).lost = s.lost := rfl
@[simp] theorem State.onCore_moves (k : Nat) (f : Core → Core) : (s.onCore k f).moves = s.moves := rfl
@[simp] theorem State.onCore_parity (k : Nat) (f : Core → Core) : (s.onCore k f).parity = s.parity := rfl
@[simp] theorem State.onCore_rr (k : Nat) (f : Core → Core) : (s.onCore k f).rr = s.rr := rfl
@[simp] theorem State.onCore_norder (k : Nat) (f : Core → Core) : (s.onCore k f).norder = s.norder := rfl
@[simp] theorem State.onCore_nuid (k : Nat) (f : Core → Core) : (s.onCore k f).nuid = s.nuid := rfl
@[simp] theorem State.onCore_inbox (k : Nat) (f : Core → Core) : (s.onCore k f).inbox = s.inbox := rfl
@[simp] theorem State.onCore_waiting (k : Nat) (f : Core → Core) : (s.onCore k f).waiting = s.waiting := rfl
@[simp] theorem State.onCore_flits (k : Nat) (f : Core → Core) : (s.onCore k f).flits = s.flits := rfl
@[simp] theorem State.onCore_out (k : Nat) (f : Core → Core) : (s.onCore k f).out = s.out := rfl
@[simp] theorem State.onCore_turn (k : Nat) (f : Core → Core) : (s.onCore k f).turn = s.turn := rfl
@[simp] theorem State.onCore_cur (k : Nat) (f : Core → Core) : (s.onCore k f).cur = s.cur := rfl
@[simp] theorem State.onCore_klane (k : Nat) (f : Core → Core) : (s.onCore k f).klane = s.klane := rfl
@[simp] theorem State.onCore_debt (k : Nat) (f : Core → Core) : (s.onCore k f).debt = s.debt := rfl
@[simp] theorem State.onCore_free (k : Nat) (f : Core → Core) : (s.onCore k f).free = s.free := rfl
@[simp] theorem State.onCore_leakAt (k : Nat) (f : Core → Core) : (s.onCore k f).leakAt = s.leakAt := rfl
@[simp] theorem State.onCore_epoch (k : Nat) (f : Core → Core) : (s.onCore k f).epoch = s.epoch := rfl
@[simp] theorem State.onCore_cores (k : Nat) (f : Core → Core) : (s.onCore k f).cores = Sparse.put s.cores k (f (s.core k)) := rfl

/-! ### An instance changed -/

@[simp] theorem State.onInst_power (i : Nat) (f : Inst → Inst) : (s.onInst i f).power = s.power := rfl
@[simp] theorem State.onInst_glob (i : Nat) (f : Inst → Inst) : (s.onInst i f).glob = s.glob := rfl
@[simp] theorem State.onInst_mem (i : Nat) (f : Inst → Inst) : (s.onInst i f).mem = s.mem := rfl
@[simp] theorem State.onInst_errs (i : Nat) (f : Inst → Inst) : (s.onInst i f).errs = s.errs := rfl
@[simp] theorem State.onInst_cores (i : Nat) (f : Inst → Inst) : (s.onInst i f).cores = s.cores := rfl
@[simp] theorem State.onInst_cands (i : Nat) (f : Inst → Inst) : (s.onInst i f).cands = s.cands := rfl
@[simp] theorem State.onInst_boundary (i : Nat) (f : Inst → Inst) : (s.onInst i f).boundary = s.boundary := rfl
@[simp] theorem State.onInst_dies (i : Nat) (f : Inst → Inst) : (s.onInst i f).dies = s.dies := rfl
@[simp] theorem State.onInst_lanes (i : Nat) (f : Inst → Inst) : (s.onInst i f).lanes = s.lanes := rfl
@[simp] theorem State.onInst_unloaded (i : Nat) (f : Inst → Inst) : (s.onInst i f).unloaded = s.unloaded := rfl
@[simp] theorem State.onInst_ports (i : Nat) (f : Inst → Inst) : (s.onInst i f).ports = s.ports := rfl
@[simp] theorem State.onInst_boot (i : Nat) (f : Inst → Inst) : (s.onInst i f).boot = s.boot := rfl
@[simp] theorem State.onInst_diemask (i : Nat) (f : Inst → Inst) : (s.onInst i f).diemask = s.diemask := rfl
@[simp] theorem State.onInst_fwMaj (i : Nat) (f : Inst → Inst) : (s.onInst i f).fwMaj = s.fwMaj := rfl
@[simp] theorem State.onInst_fwMin (i : Nat) (f : Inst → Inst) : (s.onInst i f).fwMin = s.fwMin := rfl
@[simp] theorem State.onInst_stackOff (i : Nat) (f : Inst → Inst) : (s.onInst i f).stackOff = s.stackOff := rfl
@[simp] theorem State.onInst_portDown (i : Nat) (f : Inst → Inst) : (s.onInst i f).portDown = s.portDown := rfl
@[simp] theorem State.onInst_fwUp (i : Nat) (f : Inst → Inst) : (s.onInst i f).fwUp = s.fwUp := rfl
@[simp] theorem State.onInst_repl (i : Nat) (f : Inst → Inst) : (s.onInst i f).repl = s.repl := rfl
@[simp] theorem State.onInst_retired (i : Nat) (f : Inst → Inst) : (s.onInst i f).retired = s.retired := rfl
@[simp] theorem State.onInst_replmin (i : Nat) (f : Inst → Inst) : (s.onInst i f).replmin = s.replmin := rfl
@[simp] theorem State.onInst_powerLimit (i : Nat) (f : Inst → Inst) : (s.onInst i f).powerLimit = s.powerLimit := rfl
@[simp] theorem State.onInst_thermal (i : Nat) (f : Inst → Inst) : (s.onInst i f).thermal = s.thermal := rfl
@[simp] theorem State.onInst_bounds (i : Nat) (f : Inst → Inst) : (s.onInst i f).bounds = s.bounds := rfl
@[simp] theorem State.onInst_leakper (i : Nat) (f : Inst → Inst) : (s.onInst i f).leakper = s.leakper := rfl
@[simp] theorem State.onInst_bktmark (i : Nat) (f : Inst → Inst) : (s.onInst i f).bktmark = s.bktmark := rfl
@[simp] theorem State.onInst_buckets (i : Nat) (f : Inst → Inst) : (s.onInst i f).buckets = s.buckets := rfl
@[simp] theorem State.onInst_bktrose (i : Nat) (f : Inst → Inst) : (s.onInst i f).bktrose = s.bktrose := rfl
@[simp] theorem State.onInst_failing (i : Nat) (f : Inst → Inst) : (s.onInst i f).failing = s.failing := rfl
@[simp] theorem State.onInst_errinjen (i : Nat) (f : Inst → Inst) : (s.onInst i f).errinjen = s.errinjen := rfl
@[simp] theorem State.onInst_ctxbase (i : Nat) (f : Inst → Inst) : (s.onInst i f).ctxbase = s.ctxbase := rfl
@[simp] theorem State.onInst_setbase (i : Nat) (f : Inst → Inst) : (s.onInst i f).setbase = s.setbase := rfl
@[simp] theorem State.onInst_tlbinv (i : Nat) (f : Inst → Inst) : (s.onInst i f).tlbinv = s.tlbinv := rfl
@[simp] theorem State.onInst_tlbiva (i : Nat) (f : Inst → Inst) : (s.onInst i f).tlbiva = s.tlbiva := rfl
@[simp] theorem State.onInst_hot (i : Nat) (f : Inst → Inst) : (s.onInst i f).hot = s.hot := rfl
@[simp] theorem State.onInst_postponed (i : Nat) (f : Inst → Inst) : (s.onInst i f).postponed = s.postponed := rfl
@[simp] theorem State.onInst_refAt (i : Nat) (f : Inst → Inst) : (s.onInst i f).refAt = s.refAt := rfl
@[simp] theorem State.onInst_owes (i : Nat) (f : Inst → Inst) : (s.onInst i f).owes = s.owes := rfl
@[simp] theorem State.onInst_wranges (i : Nat) (f : Inst → Inst) : (s.onInst i f).wranges = s.wranges := rfl
@[simp] theorem State.onInst_mymod (i : Nat) (f : Inst → Inst) : (s.onInst i f).mymod = s.mymod := rfl
@[simp] theorem State.onInst_cloeth (i : Nat) (f : Inst → Inst) : (s.onInst i f).cloeth = s.cloeth := rfl
@[simp] theorem State.onInst_retries (i : Nat) (f : Inst → Inst) : (s.onInst i f).retries = s.retries := rfl
@[simp] theorem State.onInst_collrx (i : Nat) (f : Inst → Inst) : (s.onInst i f).collrx = s.collrx := rfl
@[simp] theorem State.onInst_teams (i : Nat) (f : Inst → Inst) : (s.onInst i f).teams = s.teams := rfl
@[simp] theorem State.onInst_fab (i : Nat) (f : Inst → Inst) : (s.onInst i f).fab = s.fab := rfl
@[simp] theorem State.onInst_ftag (i : Nat) (f : Inst → Inst) : (s.onInst i f).ftag = s.ftag := rfl
@[simp] theorem State.onInst_reports (i : Nat) (f : Inst → Inst) : (s.onInst i f).reports = s.reports := rfl
@[simp] theorem State.onInst_rowsNow (i : Nat) (f : Inst → Inst) : (s.onInst i f).rowsNow = s.rowsNow := rfl
@[simp] theorem State.onInst_was (i : Nat) (f : Inst → Inst) : (s.onInst i f).was = s.was := rfl
@[simp] theorem State.onInst_met (i : Nat) (f : Inst → Inst) : (s.onInst i f).met = s.met := rfl
@[simp] theorem State.onInst_lost (i : Nat) (f : Inst → Inst) : (s.onInst i f).lost = s.lost := rfl
@[simp] theorem State.onInst_moves (i : Nat) (f : Inst → Inst) : (s.onInst i f).moves = s.moves := rfl
@[simp] theorem State.onInst_parity (i : Nat) (f : Inst → Inst) : (s.onInst i f).parity = s.parity := rfl
@[simp] theorem State.onInst_rr (i : Nat) (f : Inst → Inst) : (s.onInst i f).rr = s.rr := rfl
@[simp] theorem State.onInst_norder (i : Nat) (f : Inst → Inst) : (s.onInst i f).norder = s.norder := rfl
@[simp] theorem State.onInst_nuid (i : Nat) (f : Inst → Inst) : (s.onInst i f).nuid = s.nuid := rfl
@[simp] theorem State.onInst_inbox (i : Nat) (f : Inst → Inst) : (s.onInst i f).inbox = s.inbox := rfl
@[simp] theorem State.onInst_waiting (i : Nat) (f : Inst → Inst) : (s.onInst i f).waiting = s.waiting := rfl
@[simp] theorem State.onInst_flits (i : Nat) (f : Inst → Inst) : (s.onInst i f).flits = s.flits := rfl
@[simp] theorem State.onInst_out (i : Nat) (f : Inst → Inst) : (s.onInst i f).out = s.out := rfl
@[simp] theorem State.onInst_turn (i : Nat) (f : Inst → Inst) : (s.onInst i f).turn = s.turn := rfl
@[simp] theorem State.onInst_cur (i : Nat) (f : Inst → Inst) : (s.onInst i f).cur = s.cur := rfl
@[simp] theorem State.onInst_klane (i : Nat) (f : Inst → Inst) : (s.onInst i f).klane = s.klane := rfl
@[simp] theorem State.onInst_debt (i : Nat) (f : Inst → Inst) : (s.onInst i f).debt = s.debt := rfl
@[simp] theorem State.onInst_free (i : Nat) (f : Inst → Inst) : (s.onInst i f).free = s.free := rfl
@[simp] theorem State.onInst_leakAt (i : Nat) (f : Inst → Inst) : (s.onInst i f).leakAt = s.leakAt := rfl
@[simp] theorem State.onInst_epoch (i : Nat) (f : Inst → Inst) : (s.onInst i f).epoch = s.epoch := rfl
@[simp] theorem State.onInst_insts (i : Nat) (f : Inst → Inst) : (s.onInst i f).insts = s.insts.map (fun x => if x.id == i then f x else x) := rfl

/-! ### A port changed -/

@[simp] theorem State.onPort_power (p : Bool) (f : Port → Port) : (s.onPort p f).power = s.power := rfl
@[simp] theorem State.onPort_glob (p : Bool) (f : Port → Port) : (s.onPort p f).glob = s.glob := rfl
@[simp] theorem State.onPort_mem (p : Bool) (f : Port → Port) : (s.onPort p f).mem = s.mem := rfl
@[simp] theorem State.onPort_errs (p : Bool) (f : Port → Port) : (s.onPort p f).errs = s.errs := rfl
@[simp] theorem State.onPort_cores (p : Bool) (f : Port → Port) : (s.onPort p f).cores = s.cores := rfl
@[simp] theorem State.onPort_insts (p : Bool) (f : Port → Port) : (s.onPort p f).insts = s.insts := rfl
@[simp] theorem State.onPort_cands (p : Bool) (f : Port → Port) : (s.onPort p f).cands = s.cands := rfl
@[simp] theorem State.onPort_boundary (p : Bool) (f : Port → Port) : (s.onPort p f).boundary = s.boundary := rfl
@[simp] theorem State.onPort_dies (p : Bool) (f : Port → Port) : (s.onPort p f).dies = s.dies := rfl
@[simp] theorem State.onPort_lanes (p : Bool) (f : Port → Port) : (s.onPort p f).lanes = s.lanes := rfl
@[simp] theorem State.onPort_unloaded (p : Bool) (f : Port → Port) : (s.onPort p f).unloaded = s.unloaded := rfl
@[simp] theorem State.onPort_boot (p : Bool) (f : Port → Port) : (s.onPort p f).boot = s.boot := rfl
@[simp] theorem State.onPort_diemask (p : Bool) (f : Port → Port) : (s.onPort p f).diemask = s.diemask := rfl
@[simp] theorem State.onPort_fwMaj (p : Bool) (f : Port → Port) : (s.onPort p f).fwMaj = s.fwMaj := rfl
@[simp] theorem State.onPort_fwMin (p : Bool) (f : Port → Port) : (s.onPort p f).fwMin = s.fwMin := rfl
@[simp] theorem State.onPort_stackOff (p : Bool) (f : Port → Port) : (s.onPort p f).stackOff = s.stackOff := rfl
@[simp] theorem State.onPort_portDown (p : Bool) (f : Port → Port) : (s.onPort p f).portDown = s.portDown := rfl
@[simp] theorem State.onPort_fwUp (p : Bool) (f : Port → Port) : (s.onPort p f).fwUp = s.fwUp := rfl
@[simp] theorem State.onPort_repl (p : Bool) (f : Port → Port) : (s.onPort p f).repl = s.repl := rfl
@[simp] theorem State.onPort_retired (p : Bool) (f : Port → Port) : (s.onPort p f).retired = s.retired := rfl
@[simp] theorem State.onPort_replmin (p : Bool) (f : Port → Port) : (s.onPort p f).replmin = s.replmin := rfl
@[simp] theorem State.onPort_powerLimit (p : Bool) (f : Port → Port) : (s.onPort p f).powerLimit = s.powerLimit := rfl
@[simp] theorem State.onPort_thermal (p : Bool) (f : Port → Port) : (s.onPort p f).thermal = s.thermal := rfl
@[simp] theorem State.onPort_bounds (p : Bool) (f : Port → Port) : (s.onPort p f).bounds = s.bounds := rfl
@[simp] theorem State.onPort_leakper (p : Bool) (f : Port → Port) : (s.onPort p f).leakper = s.leakper := rfl
@[simp] theorem State.onPort_bktmark (p : Bool) (f : Port → Port) : (s.onPort p f).bktmark = s.bktmark := rfl
@[simp] theorem State.onPort_buckets (p : Bool) (f : Port → Port) : (s.onPort p f).buckets = s.buckets := rfl
@[simp] theorem State.onPort_bktrose (p : Bool) (f : Port → Port) : (s.onPort p f).bktrose = s.bktrose := rfl
@[simp] theorem State.onPort_failing (p : Bool) (f : Port → Port) : (s.onPort p f).failing = s.failing := rfl
@[simp] theorem State.onPort_errinjen (p : Bool) (f : Port → Port) : (s.onPort p f).errinjen = s.errinjen := rfl
@[simp] theorem State.onPort_ctxbase (p : Bool) (f : Port → Port) : (s.onPort p f).ctxbase = s.ctxbase := rfl
@[simp] theorem State.onPort_setbase (p : Bool) (f : Port → Port) : (s.onPort p f).setbase = s.setbase := rfl
@[simp] theorem State.onPort_tlbinv (p : Bool) (f : Port → Port) : (s.onPort p f).tlbinv = s.tlbinv := rfl
@[simp] theorem State.onPort_tlbiva (p : Bool) (f : Port → Port) : (s.onPort p f).tlbiva = s.tlbiva := rfl
@[simp] theorem State.onPort_hot (p : Bool) (f : Port → Port) : (s.onPort p f).hot = s.hot := rfl
@[simp] theorem State.onPort_postponed (p : Bool) (f : Port → Port) : (s.onPort p f).postponed = s.postponed := rfl
@[simp] theorem State.onPort_refAt (p : Bool) (f : Port → Port) : (s.onPort p f).refAt = s.refAt := rfl
@[simp] theorem State.onPort_owes (p : Bool) (f : Port → Port) : (s.onPort p f).owes = s.owes := rfl
@[simp] theorem State.onPort_wranges (p : Bool) (f : Port → Port) : (s.onPort p f).wranges = s.wranges := rfl
@[simp] theorem State.onPort_mymod (p : Bool) (f : Port → Port) : (s.onPort p f).mymod = s.mymod := rfl
@[simp] theorem State.onPort_cloeth (p : Bool) (f : Port → Port) : (s.onPort p f).cloeth = s.cloeth := rfl
@[simp] theorem State.onPort_retries (p : Bool) (f : Port → Port) : (s.onPort p f).retries = s.retries := rfl
@[simp] theorem State.onPort_collrx (p : Bool) (f : Port → Port) : (s.onPort p f).collrx = s.collrx := rfl
@[simp] theorem State.onPort_teams (p : Bool) (f : Port → Port) : (s.onPort p f).teams = s.teams := rfl
@[simp] theorem State.onPort_fab (p : Bool) (f : Port → Port) : (s.onPort p f).fab = s.fab := rfl
@[simp] theorem State.onPort_ftag (p : Bool) (f : Port → Port) : (s.onPort p f).ftag = s.ftag := rfl
@[simp] theorem State.onPort_reports (p : Bool) (f : Port → Port) : (s.onPort p f).reports = s.reports := rfl
@[simp] theorem State.onPort_rowsNow (p : Bool) (f : Port → Port) : (s.onPort p f).rowsNow = s.rowsNow := rfl
@[simp] theorem State.onPort_was (p : Bool) (f : Port → Port) : (s.onPort p f).was = s.was := rfl
@[simp] theorem State.onPort_met (p : Bool) (f : Port → Port) : (s.onPort p f).met = s.met := rfl
@[simp] theorem State.onPort_lost (p : Bool) (f : Port → Port) : (s.onPort p f).lost = s.lost := rfl
@[simp] theorem State.onPort_moves (p : Bool) (f : Port → Port) : (s.onPort p f).moves = s.moves := rfl
@[simp] theorem State.onPort_parity (p : Bool) (f : Port → Port) : (s.onPort p f).parity = s.parity := rfl
@[simp] theorem State.onPort_rr (p : Bool) (f : Port → Port) : (s.onPort p f).rr = s.rr := rfl
@[simp] theorem State.onPort_norder (p : Bool) (f : Port → Port) : (s.onPort p f).norder = s.norder := rfl
@[simp] theorem State.onPort_nuid (p : Bool) (f : Port → Port) : (s.onPort p f).nuid = s.nuid := rfl
@[simp] theorem State.onPort_inbox (p : Bool) (f : Port → Port) : (s.onPort p f).inbox = s.inbox := rfl
@[simp] theorem State.onPort_waiting (p : Bool) (f : Port → Port) : (s.onPort p f).waiting = s.waiting := rfl
@[simp] theorem State.onPort_flits (p : Bool) (f : Port → Port) : (s.onPort p f).flits = s.flits := rfl
@[simp] theorem State.onPort_out (p : Bool) (f : Port → Port) : (s.onPort p f).out = s.out := rfl
@[simp] theorem State.onPort_turn (p : Bool) (f : Port → Port) : (s.onPort p f).turn = s.turn := rfl
@[simp] theorem State.onPort_cur (p : Bool) (f : Port → Port) : (s.onPort p f).cur = s.cur := rfl
@[simp] theorem State.onPort_klane (p : Bool) (f : Port → Port) : (s.onPort p f).klane = s.klane := rfl
@[simp] theorem State.onPort_debt (p : Bool) (f : Port → Port) : (s.onPort p f).debt = s.debt := rfl
@[simp] theorem State.onPort_free (p : Bool) (f : Port → Port) : (s.onPort p f).free = s.free := rfl
@[simp] theorem State.onPort_leakAt (p : Bool) (f : Port → Port) : (s.onPort p f).leakAt = s.leakAt := rfl
@[simp] theorem State.onPort_epoch (p : Bool) (f : Port → Port) : (s.onPort p f).epoch = s.epoch := rfl
@[simp] theorem State.onPort_ports (p : Bool) (f : Port → Port) : (s.onPort p f).ports = Sparse.put s.ports p.toNat (f (s.port p)) := rfl

/-! ### A die changed -/

@[simp] theorem State.onDie_power (d : Nat) (f : Die → Die) : (s.onDie d f).power = s.power := rfl
@[simp] theorem State.onDie_glob (d : Nat) (f : Die → Die) : (s.onDie d f).glob = s.glob := rfl
@[simp] theorem State.onDie_mem (d : Nat) (f : Die → Die) : (s.onDie d f).mem = s.mem := rfl
@[simp] theorem State.onDie_errs (d : Nat) (f : Die → Die) : (s.onDie d f).errs = s.errs := rfl
@[simp] theorem State.onDie_cores (d : Nat) (f : Die → Die) : (s.onDie d f).cores = s.cores := rfl
@[simp] theorem State.onDie_insts (d : Nat) (f : Die → Die) : (s.onDie d f).insts = s.insts := rfl
@[simp] theorem State.onDie_cands (d : Nat) (f : Die → Die) : (s.onDie d f).cands = s.cands := rfl
@[simp] theorem State.onDie_boundary (d : Nat) (f : Die → Die) : (s.onDie d f).boundary = s.boundary := rfl
@[simp] theorem State.onDie_lanes (d : Nat) (f : Die → Die) : (s.onDie d f).lanes = s.lanes := rfl
@[simp] theorem State.onDie_unloaded (d : Nat) (f : Die → Die) : (s.onDie d f).unloaded = s.unloaded := rfl
@[simp] theorem State.onDie_ports (d : Nat) (f : Die → Die) : (s.onDie d f).ports = s.ports := rfl
@[simp] theorem State.onDie_boot (d : Nat) (f : Die → Die) : (s.onDie d f).boot = s.boot := rfl
@[simp] theorem State.onDie_diemask (d : Nat) (f : Die → Die) : (s.onDie d f).diemask = s.diemask := rfl
@[simp] theorem State.onDie_fwMaj (d : Nat) (f : Die → Die) : (s.onDie d f).fwMaj = s.fwMaj := rfl
@[simp] theorem State.onDie_fwMin (d : Nat) (f : Die → Die) : (s.onDie d f).fwMin = s.fwMin := rfl
@[simp] theorem State.onDie_stackOff (d : Nat) (f : Die → Die) : (s.onDie d f).stackOff = s.stackOff := rfl
@[simp] theorem State.onDie_portDown (d : Nat) (f : Die → Die) : (s.onDie d f).portDown = s.portDown := rfl
@[simp] theorem State.onDie_fwUp (d : Nat) (f : Die → Die) : (s.onDie d f).fwUp = s.fwUp := rfl
@[simp] theorem State.onDie_repl (d : Nat) (f : Die → Die) : (s.onDie d f).repl = s.repl := rfl
@[simp] theorem State.onDie_retired (d : Nat) (f : Die → Die) : (s.onDie d f).retired = s.retired := rfl
@[simp] theorem State.onDie_replmin (d : Nat) (f : Die → Die) : (s.onDie d f).replmin = s.replmin := rfl
@[simp] theorem State.onDie_powerLimit (d : Nat) (f : Die → Die) : (s.onDie d f).powerLimit = s.powerLimit := rfl
@[simp] theorem State.onDie_thermal (d : Nat) (f : Die → Die) : (s.onDie d f).thermal = s.thermal := rfl
@[simp] theorem State.onDie_bounds (d : Nat) (f : Die → Die) : (s.onDie d f).bounds = s.bounds := rfl
@[simp] theorem State.onDie_leakper (d : Nat) (f : Die → Die) : (s.onDie d f).leakper = s.leakper := rfl
@[simp] theorem State.onDie_bktmark (d : Nat) (f : Die → Die) : (s.onDie d f).bktmark = s.bktmark := rfl
@[simp] theorem State.onDie_buckets (d : Nat) (f : Die → Die) : (s.onDie d f).buckets = s.buckets := rfl
@[simp] theorem State.onDie_bktrose (d : Nat) (f : Die → Die) : (s.onDie d f).bktrose = s.bktrose := rfl
@[simp] theorem State.onDie_failing (d : Nat) (f : Die → Die) : (s.onDie d f).failing = s.failing := rfl
@[simp] theorem State.onDie_errinjen (d : Nat) (f : Die → Die) : (s.onDie d f).errinjen = s.errinjen := rfl
@[simp] theorem State.onDie_ctxbase (d : Nat) (f : Die → Die) : (s.onDie d f).ctxbase = s.ctxbase := rfl
@[simp] theorem State.onDie_setbase (d : Nat) (f : Die → Die) : (s.onDie d f).setbase = s.setbase := rfl
@[simp] theorem State.onDie_tlbinv (d : Nat) (f : Die → Die) : (s.onDie d f).tlbinv = s.tlbinv := rfl
@[simp] theorem State.onDie_tlbiva (d : Nat) (f : Die → Die) : (s.onDie d f).tlbiva = s.tlbiva := rfl
@[simp] theorem State.onDie_hot (d : Nat) (f : Die → Die) : (s.onDie d f).hot = s.hot := rfl
@[simp] theorem State.onDie_postponed (d : Nat) (f : Die → Die) : (s.onDie d f).postponed = s.postponed := rfl
@[simp] theorem State.onDie_refAt (d : Nat) (f : Die → Die) : (s.onDie d f).refAt = s.refAt := rfl
@[simp] theorem State.onDie_owes (d : Nat) (f : Die → Die) : (s.onDie d f).owes = s.owes := rfl
@[simp] theorem State.onDie_wranges (d : Nat) (f : Die → Die) : (s.onDie d f).wranges = s.wranges := rfl
@[simp] theorem State.onDie_mymod (d : Nat) (f : Die → Die) : (s.onDie d f).mymod = s.mymod := rfl
@[simp] theorem State.onDie_cloeth (d : Nat) (f : Die → Die) : (s.onDie d f).cloeth = s.cloeth := rfl
@[simp] theorem State.onDie_retries (d : Nat) (f : Die → Die) : (s.onDie d f).retries = s.retries := rfl
@[simp] theorem State.onDie_collrx (d : Nat) (f : Die → Die) : (s.onDie d f).collrx = s.collrx := rfl
@[simp] theorem State.onDie_teams (d : Nat) (f : Die → Die) : (s.onDie d f).teams = s.teams := rfl
@[simp] theorem State.onDie_fab (d : Nat) (f : Die → Die) : (s.onDie d f).fab = s.fab := rfl
@[simp] theorem State.onDie_ftag (d : Nat) (f : Die → Die) : (s.onDie d f).ftag = s.ftag := rfl
@[simp] theorem State.onDie_reports (d : Nat) (f : Die → Die) : (s.onDie d f).reports = s.reports := rfl
@[simp] theorem State.onDie_rowsNow (d : Nat) (f : Die → Die) : (s.onDie d f).rowsNow = s.rowsNow := rfl
@[simp] theorem State.onDie_was (d : Nat) (f : Die → Die) : (s.onDie d f).was = s.was := rfl
@[simp] theorem State.onDie_met (d : Nat) (f : Die → Die) : (s.onDie d f).met = s.met := rfl
@[simp] theorem State.onDie_lost (d : Nat) (f : Die → Die) : (s.onDie d f).lost = s.lost := rfl
@[simp] theorem State.onDie_moves (d : Nat) (f : Die → Die) : (s.onDie d f).moves = s.moves := rfl
@[simp] theorem State.onDie_parity (d : Nat) (f : Die → Die) : (s.onDie d f).parity = s.parity := rfl
@[simp] theorem State.onDie_rr (d : Nat) (f : Die → Die) : (s.onDie d f).rr = s.rr := rfl
@[simp] theorem State.onDie_norder (d : Nat) (f : Die → Die) : (s.onDie d f).norder = s.norder := rfl
@[simp] theorem State.onDie_nuid (d : Nat) (f : Die → Die) : (s.onDie d f).nuid = s.nuid := rfl
@[simp] theorem State.onDie_inbox (d : Nat) (f : Die → Die) : (s.onDie d f).inbox = s.inbox := rfl
@[simp] theorem State.onDie_waiting (d : Nat) (f : Die → Die) : (s.onDie d f).waiting = s.waiting := rfl
@[simp] theorem State.onDie_flits (d : Nat) (f : Die → Die) : (s.onDie d f).flits = s.flits := rfl
@[simp] theorem State.onDie_out (d : Nat) (f : Die → Die) : (s.onDie d f).out = s.out := rfl
@[simp] theorem State.onDie_turn (d : Nat) (f : Die → Die) : (s.onDie d f).turn = s.turn := rfl
@[simp] theorem State.onDie_cur (d : Nat) (f : Die → Die) : (s.onDie d f).cur = s.cur := rfl
@[simp] theorem State.onDie_klane (d : Nat) (f : Die → Die) : (s.onDie d f).klane = s.klane := rfl
@[simp] theorem State.onDie_debt (d : Nat) (f : Die → Die) : (s.onDie d f).debt = s.debt := rfl
@[simp] theorem State.onDie_free (d : Nat) (f : Die → Die) : (s.onDie d f).free = s.free := rfl
@[simp] theorem State.onDie_leakAt (d : Nat) (f : Die → Die) : (s.onDie d f).leakAt = s.leakAt := rfl
@[simp] theorem State.onDie_epoch (d : Nat) (f : Die → Die) : (s.onDie d f).epoch = s.epoch := rfl
@[simp] theorem State.onDie_dies (d : Nat) (f : Die → Die) : (s.onDie d f).dies = Sparse.put s.dies d (f (s.die d)) := rfl

/-! ### A lane changed -/

@[simp] theorem State.onLane_power (l : Nat) (f : Lane → Lane) : (s.onLane l f).power = s.power := rfl
@[simp] theorem State.onLane_glob (l : Nat) (f : Lane → Lane) : (s.onLane l f).glob = s.glob := rfl
@[simp] theorem State.onLane_mem (l : Nat) (f : Lane → Lane) : (s.onLane l f).mem = s.mem := rfl
@[simp] theorem State.onLane_errs (l : Nat) (f : Lane → Lane) : (s.onLane l f).errs = s.errs := rfl
@[simp] theorem State.onLane_cores (l : Nat) (f : Lane → Lane) : (s.onLane l f).cores = s.cores := rfl
@[simp] theorem State.onLane_insts (l : Nat) (f : Lane → Lane) : (s.onLane l f).insts = s.insts := rfl
@[simp] theorem State.onLane_cands (l : Nat) (f : Lane → Lane) : (s.onLane l f).cands = s.cands := rfl
@[simp] theorem State.onLane_boundary (l : Nat) (f : Lane → Lane) : (s.onLane l f).boundary = s.boundary := rfl
@[simp] theorem State.onLane_dies (l : Nat) (f : Lane → Lane) : (s.onLane l f).dies = s.dies := rfl
@[simp] theorem State.onLane_unloaded (l : Nat) (f : Lane → Lane) : (s.onLane l f).unloaded = s.unloaded := rfl
@[simp] theorem State.onLane_ports (l : Nat) (f : Lane → Lane) : (s.onLane l f).ports = s.ports := rfl
@[simp] theorem State.onLane_boot (l : Nat) (f : Lane → Lane) : (s.onLane l f).boot = s.boot := rfl
@[simp] theorem State.onLane_diemask (l : Nat) (f : Lane → Lane) : (s.onLane l f).diemask = s.diemask := rfl
@[simp] theorem State.onLane_fwMaj (l : Nat) (f : Lane → Lane) : (s.onLane l f).fwMaj = s.fwMaj := rfl
@[simp] theorem State.onLane_fwMin (l : Nat) (f : Lane → Lane) : (s.onLane l f).fwMin = s.fwMin := rfl
@[simp] theorem State.onLane_stackOff (l : Nat) (f : Lane → Lane) : (s.onLane l f).stackOff = s.stackOff := rfl
@[simp] theorem State.onLane_portDown (l : Nat) (f : Lane → Lane) : (s.onLane l f).portDown = s.portDown := rfl
@[simp] theorem State.onLane_fwUp (l : Nat) (f : Lane → Lane) : (s.onLane l f).fwUp = s.fwUp := rfl
@[simp] theorem State.onLane_repl (l : Nat) (f : Lane → Lane) : (s.onLane l f).repl = s.repl := rfl
@[simp] theorem State.onLane_retired (l : Nat) (f : Lane → Lane) : (s.onLane l f).retired = s.retired := rfl
@[simp] theorem State.onLane_replmin (l : Nat) (f : Lane → Lane) : (s.onLane l f).replmin = s.replmin := rfl
@[simp] theorem State.onLane_powerLimit (l : Nat) (f : Lane → Lane) : (s.onLane l f).powerLimit = s.powerLimit := rfl
@[simp] theorem State.onLane_thermal (l : Nat) (f : Lane → Lane) : (s.onLane l f).thermal = s.thermal := rfl
@[simp] theorem State.onLane_bounds (l : Nat) (f : Lane → Lane) : (s.onLane l f).bounds = s.bounds := rfl
@[simp] theorem State.onLane_leakper (l : Nat) (f : Lane → Lane) : (s.onLane l f).leakper = s.leakper := rfl
@[simp] theorem State.onLane_bktmark (l : Nat) (f : Lane → Lane) : (s.onLane l f).bktmark = s.bktmark := rfl
@[simp] theorem State.onLane_buckets (l : Nat) (f : Lane → Lane) : (s.onLane l f).buckets = s.buckets := rfl
@[simp] theorem State.onLane_bktrose (l : Nat) (f : Lane → Lane) : (s.onLane l f).bktrose = s.bktrose := rfl
@[simp] theorem State.onLane_failing (l : Nat) (f : Lane → Lane) : (s.onLane l f).failing = s.failing := rfl
@[simp] theorem State.onLane_errinjen (l : Nat) (f : Lane → Lane) : (s.onLane l f).errinjen = s.errinjen := rfl
@[simp] theorem State.onLane_ctxbase (l : Nat) (f : Lane → Lane) : (s.onLane l f).ctxbase = s.ctxbase := rfl
@[simp] theorem State.onLane_setbase (l : Nat) (f : Lane → Lane) : (s.onLane l f).setbase = s.setbase := rfl
@[simp] theorem State.onLane_tlbinv (l : Nat) (f : Lane → Lane) : (s.onLane l f).tlbinv = s.tlbinv := rfl
@[simp] theorem State.onLane_tlbiva (l : Nat) (f : Lane → Lane) : (s.onLane l f).tlbiva = s.tlbiva := rfl
@[simp] theorem State.onLane_hot (l : Nat) (f : Lane → Lane) : (s.onLane l f).hot = s.hot := rfl
@[simp] theorem State.onLane_postponed (l : Nat) (f : Lane → Lane) : (s.onLane l f).postponed = s.postponed := rfl
@[simp] theorem State.onLane_refAt (l : Nat) (f : Lane → Lane) : (s.onLane l f).refAt = s.refAt := rfl
@[simp] theorem State.onLane_owes (l : Nat) (f : Lane → Lane) : (s.onLane l f).owes = s.owes := rfl
@[simp] theorem State.onLane_wranges (l : Nat) (f : Lane → Lane) : (s.onLane l f).wranges = s.wranges := rfl
@[simp] theorem State.onLane_mymod (l : Nat) (f : Lane → Lane) : (s.onLane l f).mymod = s.mymod := rfl
@[simp] theorem State.onLane_cloeth (l : Nat) (f : Lane → Lane) : (s.onLane l f).cloeth = s.cloeth := rfl
@[simp] theorem State.onLane_retries (l : Nat) (f : Lane → Lane) : (s.onLane l f).retries = s.retries := rfl
@[simp] theorem State.onLane_collrx (l : Nat) (f : Lane → Lane) : (s.onLane l f).collrx = s.collrx := rfl
@[simp] theorem State.onLane_teams (l : Nat) (f : Lane → Lane) : (s.onLane l f).teams = s.teams := rfl
@[simp] theorem State.onLane_fab (l : Nat) (f : Lane → Lane) : (s.onLane l f).fab = s.fab := rfl
@[simp] theorem State.onLane_ftag (l : Nat) (f : Lane → Lane) : (s.onLane l f).ftag = s.ftag := rfl
@[simp] theorem State.onLane_reports (l : Nat) (f : Lane → Lane) : (s.onLane l f).reports = s.reports := rfl
@[simp] theorem State.onLane_rowsNow (l : Nat) (f : Lane → Lane) : (s.onLane l f).rowsNow = s.rowsNow := rfl
@[simp] theorem State.onLane_was (l : Nat) (f : Lane → Lane) : (s.onLane l f).was = s.was := rfl
@[simp] theorem State.onLane_met (l : Nat) (f : Lane → Lane) : (s.onLane l f).met = s.met := rfl
@[simp] theorem State.onLane_lost (l : Nat) (f : Lane → Lane) : (s.onLane l f).lost = s.lost := rfl
@[simp] theorem State.onLane_moves (l : Nat) (f : Lane → Lane) : (s.onLane l f).moves = s.moves := rfl
@[simp] theorem State.onLane_parity (l : Nat) (f : Lane → Lane) : (s.onLane l f).parity = s.parity := rfl
@[simp] theorem State.onLane_rr (l : Nat) (f : Lane → Lane) : (s.onLane l f).rr = s.rr := rfl
@[simp] theorem State.onLane_norder (l : Nat) (f : Lane → Lane) : (s.onLane l f).norder = s.norder := rfl
@[simp] theorem State.onLane_nuid (l : Nat) (f : Lane → Lane) : (s.onLane l f).nuid = s.nuid := rfl
@[simp] theorem State.onLane_inbox (l : Nat) (f : Lane → Lane) : (s.onLane l f).inbox = s.inbox := rfl
@[simp] theorem State.onLane_waiting (l : Nat) (f : Lane → Lane) : (s.onLane l f).waiting = s.waiting := rfl
@[simp] theorem State.onLane_flits (l : Nat) (f : Lane → Lane) : (s.onLane l f).flits = s.flits := rfl
@[simp] theorem State.onLane_out (l : Nat) (f : Lane → Lane) : (s.onLane l f).out = s.out := rfl
@[simp] theorem State.onLane_turn (l : Nat) (f : Lane → Lane) : (s.onLane l f).turn = s.turn := rfl
@[simp] theorem State.onLane_cur (l : Nat) (f : Lane → Lane) : (s.onLane l f).cur = s.cur := rfl
@[simp] theorem State.onLane_klane (l : Nat) (f : Lane → Lane) : (s.onLane l f).klane = s.klane := rfl
@[simp] theorem State.onLane_debt (l : Nat) (f : Lane → Lane) : (s.onLane l f).debt = s.debt := rfl
@[simp] theorem State.onLane_free (l : Nat) (f : Lane → Lane) : (s.onLane l f).free = s.free := rfl
@[simp] theorem State.onLane_leakAt (l : Nat) (f : Lane → Lane) : (s.onLane l f).leakAt = s.leakAt := rfl
@[simp] theorem State.onLane_epoch (l : Nat) (f : Lane → Lane) : (s.onLane l f).epoch = s.epoch := rfl
@[simp] theorem State.onLane_lanes (l : Nat) (f : Lane → Lane) : (s.onLane l f).lanes = Sparse.put s.lanes l (f (s.laneAt l)) := rfl

/-! ### Something sent -/

@[simp] theorem State.send_power (x : Out) : (s.send x).power = s.power := rfl
@[simp] theorem State.send_glob (x : Out) : (s.send x).glob = s.glob := rfl
@[simp] theorem State.send_mem (x : Out) : (s.send x).mem = s.mem := rfl
@[simp] theorem State.send_errs (x : Out) : (s.send x).errs = s.errs := rfl
@[simp] theorem State.send_cores (x : Out) : (s.send x).cores = s.cores := rfl
@[simp] theorem State.send_insts (x : Out) : (s.send x).insts = s.insts := rfl
@[simp] theorem State.send_cands (x : Out) : (s.send x).cands = s.cands := rfl
@[simp] theorem State.send_boundary (x : Out) : (s.send x).boundary = s.boundary := rfl
@[simp] theorem State.send_dies (x : Out) : (s.send x).dies = s.dies := rfl
@[simp] theorem State.send_lanes (x : Out) : (s.send x).lanes = s.lanes := rfl
@[simp] theorem State.send_unloaded (x : Out) : (s.send x).unloaded = s.unloaded := rfl
@[simp] theorem State.send_ports (x : Out) : (s.send x).ports = s.ports := rfl
@[simp] theorem State.send_boot (x : Out) : (s.send x).boot = s.boot := rfl
@[simp] theorem State.send_diemask (x : Out) : (s.send x).diemask = s.diemask := rfl
@[simp] theorem State.send_fwMaj (x : Out) : (s.send x).fwMaj = s.fwMaj := rfl
@[simp] theorem State.send_fwMin (x : Out) : (s.send x).fwMin = s.fwMin := rfl
@[simp] theorem State.send_stackOff (x : Out) : (s.send x).stackOff = s.stackOff := rfl
@[simp] theorem State.send_portDown (x : Out) : (s.send x).portDown = s.portDown := rfl
@[simp] theorem State.send_fwUp (x : Out) : (s.send x).fwUp = s.fwUp := rfl
@[simp] theorem State.send_repl (x : Out) : (s.send x).repl = s.repl := rfl
@[simp] theorem State.send_retired (x : Out) : (s.send x).retired = s.retired := rfl
@[simp] theorem State.send_replmin (x : Out) : (s.send x).replmin = s.replmin := rfl
@[simp] theorem State.send_powerLimit (x : Out) : (s.send x).powerLimit = s.powerLimit := rfl
@[simp] theorem State.send_thermal (x : Out) : (s.send x).thermal = s.thermal := rfl
@[simp] theorem State.send_bounds (x : Out) : (s.send x).bounds = s.bounds := rfl
@[simp] theorem State.send_leakper (x : Out) : (s.send x).leakper = s.leakper := rfl
@[simp] theorem State.send_bktmark (x : Out) : (s.send x).bktmark = s.bktmark := rfl
@[simp] theorem State.send_buckets (x : Out) : (s.send x).buckets = s.buckets := rfl
@[simp] theorem State.send_bktrose (x : Out) : (s.send x).bktrose = s.bktrose := rfl
@[simp] theorem State.send_failing (x : Out) : (s.send x).failing = s.failing := rfl
@[simp] theorem State.send_errinjen (x : Out) : (s.send x).errinjen = s.errinjen := rfl
@[simp] theorem State.send_ctxbase (x : Out) : (s.send x).ctxbase = s.ctxbase := rfl
@[simp] theorem State.send_setbase (x : Out) : (s.send x).setbase = s.setbase := rfl
@[simp] theorem State.send_tlbinv (x : Out) : (s.send x).tlbinv = s.tlbinv := rfl
@[simp] theorem State.send_tlbiva (x : Out) : (s.send x).tlbiva = s.tlbiva := rfl
@[simp] theorem State.send_hot (x : Out) : (s.send x).hot = s.hot := rfl
@[simp] theorem State.send_postponed (x : Out) : (s.send x).postponed = s.postponed := rfl
@[simp] theorem State.send_refAt (x : Out) : (s.send x).refAt = s.refAt := rfl
@[simp] theorem State.send_owes (x : Out) : (s.send x).owes = s.owes := rfl
@[simp] theorem State.send_wranges (x : Out) : (s.send x).wranges = s.wranges := rfl
@[simp] theorem State.send_mymod (x : Out) : (s.send x).mymod = s.mymod := rfl
@[simp] theorem State.send_cloeth (x : Out) : (s.send x).cloeth = s.cloeth := rfl
@[simp] theorem State.send_retries (x : Out) : (s.send x).retries = s.retries := rfl
@[simp] theorem State.send_collrx (x : Out) : (s.send x).collrx = s.collrx := rfl
@[simp] theorem State.send_teams (x : Out) : (s.send x).teams = s.teams := rfl
@[simp] theorem State.send_fab (x : Out) : (s.send x).fab = s.fab := rfl
@[simp] theorem State.send_ftag (x : Out) : (s.send x).ftag = s.ftag := rfl
@[simp] theorem State.send_reports (x : Out) : (s.send x).reports = s.reports := rfl
@[simp] theorem State.send_rowsNow (x : Out) : (s.send x).rowsNow = s.rowsNow := rfl
@[simp] theorem State.send_was (x : Out) : (s.send x).was = s.was := rfl
@[simp] theorem State.send_met (x : Out) : (s.send x).met = s.met := rfl
@[simp] theorem State.send_lost (x : Out) : (s.send x).lost = s.lost := rfl
@[simp] theorem State.send_moves (x : Out) : (s.send x).moves = s.moves := rfl
@[simp] theorem State.send_parity (x : Out) : (s.send x).parity = s.parity := rfl
@[simp] theorem State.send_rr (x : Out) : (s.send x).rr = s.rr := rfl
@[simp] theorem State.send_norder (x : Out) : (s.send x).norder = s.norder := rfl
@[simp] theorem State.send_nuid (x : Out) : (s.send x).nuid = s.nuid := rfl
@[simp] theorem State.send_inbox (x : Out) : (s.send x).inbox = s.inbox := rfl
@[simp] theorem State.send_waiting (x : Out) : (s.send x).waiting = s.waiting := rfl
@[simp] theorem State.send_flits (x : Out) : (s.send x).flits = s.flits := rfl
@[simp] theorem State.send_turn (x : Out) : (s.send x).turn = s.turn := rfl
@[simp] theorem State.send_cur (x : Out) : (s.send x).cur = s.cur := rfl
@[simp] theorem State.send_klane (x : Out) : (s.send x).klane = s.klane := rfl
@[simp] theorem State.send_debt (x : Out) : (s.send x).debt = s.debt := rfl
@[simp] theorem State.send_free (x : Out) : (s.send x).free = s.free := rfl
@[simp] theorem State.send_leakAt (x : Out) : (s.send x).leakAt = s.leakAt := rfl
@[simp] theorem State.send_epoch (x : Out) : (s.send x).epoch = s.epoch := rfl
@[simp] theorem State.send_out (x : Out) : (s.send x).out = s.out ++ [x] := rfl

/-! ### A free choice -/

@[simp] theorem State.choose_power : s.choose.2.power = s.power := rfl
@[simp] theorem State.choose_glob : s.choose.2.glob = s.glob := rfl
@[simp] theorem State.choose_mem : s.choose.2.mem = s.mem := rfl
@[simp] theorem State.choose_errs : s.choose.2.errs = s.errs := rfl
@[simp] theorem State.choose_cores : s.choose.2.cores = s.cores := rfl
@[simp] theorem State.choose_insts : s.choose.2.insts = s.insts := rfl
@[simp] theorem State.choose_cands : s.choose.2.cands = s.cands := rfl
@[simp] theorem State.choose_boundary : s.choose.2.boundary = s.boundary := rfl
@[simp] theorem State.choose_dies : s.choose.2.dies = s.dies := rfl
@[simp] theorem State.choose_lanes : s.choose.2.lanes = s.lanes := rfl
@[simp] theorem State.choose_unloaded : s.choose.2.unloaded = s.unloaded := rfl
@[simp] theorem State.choose_ports : s.choose.2.ports = s.ports := rfl
@[simp] theorem State.choose_boot : s.choose.2.boot = s.boot := rfl
@[simp] theorem State.choose_diemask : s.choose.2.diemask = s.diemask := rfl
@[simp] theorem State.choose_fwMaj : s.choose.2.fwMaj = s.fwMaj := rfl
@[simp] theorem State.choose_fwMin : s.choose.2.fwMin = s.fwMin := rfl
@[simp] theorem State.choose_stackOff : s.choose.2.stackOff = s.stackOff := rfl
@[simp] theorem State.choose_portDown : s.choose.2.portDown = s.portDown := rfl
@[simp] theorem State.choose_fwUp : s.choose.2.fwUp = s.fwUp := rfl
@[simp] theorem State.choose_repl : s.choose.2.repl = s.repl := rfl
@[simp] theorem State.choose_retired : s.choose.2.retired = s.retired := rfl
@[simp] theorem State.choose_replmin : s.choose.2.replmin = s.replmin := rfl
@[simp] theorem State.choose_powerLimit : s.choose.2.powerLimit = s.powerLimit := rfl
@[simp] theorem State.choose_thermal : s.choose.2.thermal = s.thermal := rfl
@[simp] theorem State.choose_bounds : s.choose.2.bounds = s.bounds := rfl
@[simp] theorem State.choose_leakper : s.choose.2.leakper = s.leakper := rfl
@[simp] theorem State.choose_bktmark : s.choose.2.bktmark = s.bktmark := rfl
@[simp] theorem State.choose_buckets : s.choose.2.buckets = s.buckets := rfl
@[simp] theorem State.choose_bktrose : s.choose.2.bktrose = s.bktrose := rfl
@[simp] theorem State.choose_failing : s.choose.2.failing = s.failing := rfl
@[simp] theorem State.choose_errinjen : s.choose.2.errinjen = s.errinjen := rfl
@[simp] theorem State.choose_ctxbase : s.choose.2.ctxbase = s.ctxbase := rfl
@[simp] theorem State.choose_setbase : s.choose.2.setbase = s.setbase := rfl
@[simp] theorem State.choose_tlbinv : s.choose.2.tlbinv = s.tlbinv := rfl
@[simp] theorem State.choose_tlbiva : s.choose.2.tlbiva = s.tlbiva := rfl
@[simp] theorem State.choose_hot : s.choose.2.hot = s.hot := rfl
@[simp] theorem State.choose_postponed : s.choose.2.postponed = s.postponed := rfl
@[simp] theorem State.choose_refAt : s.choose.2.refAt = s.refAt := rfl
@[simp] theorem State.choose_owes : s.choose.2.owes = s.owes := rfl
@[simp] theorem State.choose_wranges : s.choose.2.wranges = s.wranges := rfl
@[simp] theorem State.choose_mymod : s.choose.2.mymod = s.mymod := rfl
@[simp] theorem State.choose_cloeth : s.choose.2.cloeth = s.cloeth := rfl
@[simp] theorem State.choose_retries : s.choose.2.retries = s.retries := rfl
@[simp] theorem State.choose_collrx : s.choose.2.collrx = s.collrx := rfl
@[simp] theorem State.choose_teams : s.choose.2.teams = s.teams := rfl
@[simp] theorem State.choose_fab : s.choose.2.fab = s.fab := rfl
@[simp] theorem State.choose_ftag : s.choose.2.ftag = s.ftag := rfl
@[simp] theorem State.choose_reports : s.choose.2.reports = s.reports := rfl
@[simp] theorem State.choose_rowsNow : s.choose.2.rowsNow = s.rowsNow := rfl
@[simp] theorem State.choose_was : s.choose.2.was = s.was := rfl
@[simp] theorem State.choose_met : s.choose.2.met = s.met := rfl
@[simp] theorem State.choose_lost : s.choose.2.lost = s.lost := rfl
@[simp] theorem State.choose_moves : s.choose.2.moves = s.moves := rfl
@[simp] theorem State.choose_parity : s.choose.2.parity = s.parity := rfl
@[simp] theorem State.choose_rr : s.choose.2.rr = s.rr := rfl
@[simp] theorem State.choose_norder : s.choose.2.norder = s.norder := rfl
@[simp] theorem State.choose_nuid : s.choose.2.nuid = s.nuid := rfl
@[simp] theorem State.choose_inbox : s.choose.2.inbox = s.inbox := rfl
@[simp] theorem State.choose_waiting : s.choose.2.waiting = s.waiting := rfl
@[simp] theorem State.choose_flits : s.choose.2.flits = s.flits := rfl
@[simp] theorem State.choose_out : s.choose.2.out = s.out := rfl
@[simp] theorem State.choose_turn : s.choose.2.turn = s.turn := rfl
@[simp] theorem State.choose_cur : s.choose.2.cur = s.cur := rfl
@[simp] theorem State.choose_klane : s.choose.2.klane = s.klane := rfl
@[simp] theorem State.choose_debt : s.choose.2.debt = s.debt := rfl
@[simp] theorem State.choose_leakAt : s.choose.2.leakAt = s.leakAt := rfl
@[simp] theorem State.choose_epoch : s.choose.2.epoch = s.epoch := rfl
@[simp] theorem State.choose_free : s.choose.2.free = s.free + 1 := rfl

/-! ### A control register -/

@[simp] theorem Core.setCr_id (n : Nat) (v : W64) : (c.setCr n v).id = c.id := rfl
@[simp] theorem Core.setCr_run (n : Nat) (v : W64) : (c.setCr n v).run = c.run := rfl
@[simp] theorem Core.setCr_exited (n : Nat) (v : W64) : (c.setCr n v).exited = c.exited := rfl
@[simp] theorem Core.setCr_inst (n : Nat) (v : W64) : (c.setCr n v).inst = c.inst := rfl
@[simp] theorem Core.setCr_grp (n : Nat) (v : W64) : (c.setCr n v).grp = c.grp := rfl
@[simp] theorem Core.setCr_lrow (n : Nat) (v : W64) : (c.setCr n v).lrow = c.lrow := rfl
@[simp] theorem Core.setCr_lcol (n : Nat) (v : W64) : (c.setCr n v).lcol = c.lcol := rfl
@[simp] theorem Core.setCr_ldie (n : Nat) (v : W64) : (c.setCr n v).ldie = c.ldie := rfl
@[simp] theorem Core.setCr_cyc (n : Nat) (v : W64) : (c.setCr n v).cyc = c.cyc := rfl
@[simp] theorem Core.setCr_freeze (n : Nat) (v : W64) : (c.setCr n v).freeze = c.freeze := rfl
@[simp] theorem Core.setCr_frozen (n : Nat) (v : W64) : (c.setCr n v).frozen = c.frozen := rfl
@[simp] theorem Core.setCr_s (n : Nat) (v : W64) : (c.setCr n v).s = c.s := rfl
@[simp] theorem Core.setCr_g (n : Nat) (v : W64) : (c.setCr n v).g = c.g := rfl
@[simp] theorem Core.setCr_h (n : Nat) (v : W64) : (c.setCr n v).h = c.h := rfl
@[simp] theorem Core.setCr_x (n : Nat) (v : W64) : (c.setCr n v).x = c.x := rfl
@[simp] theorem Core.setCr_y (n : Nat) (v : W64) : (c.setCr n v).y = c.y := rfl
@[simp] theorem Core.setCr_p (n : Nat) (v : W64) : (c.setCr n v).p = c.p := rfl
@[simp] theorem Core.setCr_w (n : Nat) (v : W64) : (c.setCr n v).w = c.w := rfl
@[simp] theorem Core.setCr_t (n : Nat) (v : W64) : (c.setCr n v).t = c.t := rfl
@[simp] theorem Core.setCr_acc (n : Nat) (v : W64) : (c.setCr n v).acc = c.acc := rfl
@[simp] theorem Core.setCr_z (n : Nat) (v : W64) : (c.setCr n v).z = c.z := rfl
@[simp] theorem Core.setCr_own (n : Nat) (v : W64) : (c.setCr n v).own = c.own := rfl
@[simp] theorem Core.setCr_strm (n : Nat) (v : W64) : (c.setCr n v).strm = c.strm := rfl
@[simp] theorem Core.setCr_wq (n : Nat) (v : W64) : (c.setCr n v).wq = c.wq := rfl
@[simp] theorem Core.setCr_tt (n : Nat) (v : W64) : (c.setCr n v).tt = c.tt := rfl
@[simp] theorem Core.setCr_statAt (n : Nat) (v : W64) : (c.setCr n v).statAt = c.statAt := rfl
@[simp] theorem Core.setCr_shape (n : Nat) (v : W64) : (c.setCr n v).shape = c.shape := rfl
@[simp] theorem Core.setCr_leaf (n : Nat) (v : W64) : (c.setCr n v).leaf = c.leaf := rfl
@[simp] theorem Core.setCr_maps (n : Nat) (v : W64) : (c.setCr n v).maps = c.maps := rfl
@[simp] theorem Core.setCr_mres (n : Nat) (v : W64) : (c.setCr n v).mres = c.mres := rfl
@[simp] theorem Core.setCr_mdirty (n : Nat) (v : W64) : (c.setCr n v).mdirty = c.mdirty := rfl
@[simp] theorem Core.setCr_half (n : Nat) (v : W64) : (c.setCr n v).half = c.half := rfl
@[simp] theorem Core.setCr_pc (n : Nat) (v : W64) : (c.setCr n v).pc = c.pc := rfl
@[simp] theorem Core.setCr_nhalf (n : Nat) (v : W64) : (c.setCr n v).nhalf = c.nhalf := rfl
@[simp] theorem Core.setCr_npc (n : Nat) (v : W64) : (c.setCr n v).npc = c.npc := rfl
@[simp] theorem Core.setCr_rep (n : Nat) (v : W64) : (c.setCr n v).rep = c.rep := rfl
@[simp] theorem Core.setCr_rlen (n : Nat) (v : W64) : (c.setCr n v).rlen = c.rlen := rfl
@[simp] theorem Core.setCr_armed (n : Nat) (v : W64) : (c.setCr n v).armed = c.armed := rfl
@[simp] theorem Core.setCr_wrA (n : Nat) (v : W64) : (c.setCr n v).wrA = c.wrA := rfl
@[simp] theorem Core.setCr_wrB (n : Nat) (v : W64) : (c.setCr n v).wrB = c.wrB := rfl
@[simp] theorem Core.setCr_pend (n : Nat) (v : W64) : (c.setCr n v).pend = c.pend := rfl
@[simp] theorem Core.setCr_busy (n : Nat) (v : W64) : (c.setCr n v).busy = c.busy := rfl
@[simp] theorem Core.setCr_c0 (n : Nat) (v : W64) : (c.setCr n v).c0 = c.c0 := rfl
@[simp] theorem Core.setCr_c1 (n : Nat) (v : W64) : (c.setCr n v).c1 = c.c1 := rfl
@[simp] theorem Core.setCr_crgn (n : Nat) (v : W64) : (c.setCr n v).crgn = c.crgn := rfl
@[simp] theorem Core.setCr_flt (n : Nat) (v : W64) : (c.setCr n v).flt = c.flt := rfl
@[simp] theorem Core.setCr_owed (n : Nat) (v : W64) : (c.setCr n v).owed = c.owed := rfl
@[simp] theorem Core.setCr_stub (n : Nat) (v : W64) : (c.setCr n v).stub = c.stub := rfl
@[simp] theorem Core.setCr_stall (n : Nat) (v : W64) : (c.setCr n v).stall = c.stall := rfl
@[simp] theorem Core.setCr_stopAt (n : Nat) (v : W64) : (c.setCr n v).stopAt = c.stopAt := rfl
@[simp] theorem Core.setCr_arrph (n : Nat) (v : W64) : (c.setCr n v).arrph = c.arrph := rfl
@[simp] theorem Core.setCr_atDrain (n : Nat) (v : W64) : (c.setCr n v).atDrain = c.atDrain := rfl
@[simp] theorem Core.setCr_stopped (n : Nat) (v : W64) : (c.setCr n v).stopped = c.stopped := rfl
@[simp] theorem Core.setCr_weevil (n : Nat) (v : W64) : (c.setCr n v).weevil = c.weevil := rfl
@[simp] theorem Core.setCr_cr (n : Nat) (v : W64) : (c.setCr n v).cr = Sparse.set 0 c.cr n v := rfl

/-! ### An effect in flight -/

@[simp] theorem Core.push_id (slot lat : Nat) (e : Eff) : (c.push slot lat e).id = c.id := rfl
@[simp] theorem Core.push_run (slot lat : Nat) (e : Eff) : (c.push slot lat e).run = c.run := rfl
@[simp] theorem Core.push_exited (slot lat : Nat) (e : Eff) : (c.push slot lat e).exited = c.exited := rfl
@[simp] theorem Core.push_inst (slot lat : Nat) (e : Eff) : (c.push slot lat e).inst = c.inst := rfl
@[simp] theorem Core.push_grp (slot lat : Nat) (e : Eff) : (c.push slot lat e).grp = c.grp := rfl
@[simp] theorem Core.push_lrow (slot lat : Nat) (e : Eff) : (c.push slot lat e).lrow = c.lrow := rfl
@[simp] theorem Core.push_lcol (slot lat : Nat) (e : Eff) : (c.push slot lat e).lcol = c.lcol := rfl
@[simp] theorem Core.push_ldie (slot lat : Nat) (e : Eff) : (c.push slot lat e).ldie = c.ldie := rfl
@[simp] theorem Core.push_cyc (slot lat : Nat) (e : Eff) : (c.push slot lat e).cyc = c.cyc := rfl
@[simp] theorem Core.push_freeze (slot lat : Nat) (e : Eff) : (c.push slot lat e).freeze = c.freeze := rfl
@[simp] theorem Core.push_frozen (slot lat : Nat) (e : Eff) : (c.push slot lat e).frozen = c.frozen := rfl
@[simp] theorem Core.push_s (slot lat : Nat) (e : Eff) : (c.push slot lat e).s = c.s := rfl
@[simp] theorem Core.push_g (slot lat : Nat) (e : Eff) : (c.push slot lat e).g = c.g := rfl
@[simp] theorem Core.push_h (slot lat : Nat) (e : Eff) : (c.push slot lat e).h = c.h := rfl
@[simp] theorem Core.push_x (slot lat : Nat) (e : Eff) : (c.push slot lat e).x = c.x := rfl
@[simp] theorem Core.push_y (slot lat : Nat) (e : Eff) : (c.push slot lat e).y = c.y := rfl
@[simp] theorem Core.push_p (slot lat : Nat) (e : Eff) : (c.push slot lat e).p = c.p := rfl
@[simp] theorem Core.push_w (slot lat : Nat) (e : Eff) : (c.push slot lat e).w = c.w := rfl
@[simp] theorem Core.push_t (slot lat : Nat) (e : Eff) : (c.push slot lat e).t = c.t := rfl
@[simp] theorem Core.push_acc (slot lat : Nat) (e : Eff) : (c.push slot lat e).acc = c.acc := rfl
@[simp] theorem Core.push_z (slot lat : Nat) (e : Eff) : (c.push slot lat e).z = c.z := rfl
@[simp] theorem Core.push_cr (slot lat : Nat) (e : Eff) : (c.push slot lat e).cr = c.cr := rfl
@[simp] theorem Core.push_own (slot lat : Nat) (e : Eff) : (c.push slot lat e).own = c.own := rfl
@[simp] theorem Core.push_strm (slot lat : Nat) (e : Eff) : (c.push slot lat e).strm = c.strm := rfl
@[simp] theorem Core.push_wq (slot lat : Nat) (e : Eff) : (c.push slot lat e).wq = c.wq := rfl
@[simp] theorem Core.push_tt (slot lat : Nat) (e : Eff) : (c.push slot lat e).tt = c.tt := rfl
@[simp] theorem Core.push_statAt (slot lat : Nat) (e : Eff) : (c.push slot lat e).statAt = c.statAt := rfl
@[simp] theorem Core.push_shape (slot lat : Nat) (e : Eff) : (c.push slot lat e).shape = c.shape := rfl
@[simp] theorem Core.push_leaf (slot lat : Nat) (e : Eff) : (c.push slot lat e).leaf = c.leaf := rfl
@[simp] theorem Core.push_maps (slot lat : Nat) (e : Eff) : (c.push slot lat e).maps = c.maps := rfl
@[simp] theorem Core.push_mres (slot lat : Nat) (e : Eff) : (c.push slot lat e).mres = c.mres := rfl
@[simp] theorem Core.push_mdirty (slot lat : Nat) (e : Eff) : (c.push slot lat e).mdirty = c.mdirty := rfl
@[simp] theorem Core.push_half (slot lat : Nat) (e : Eff) : (c.push slot lat e).half = c.half := rfl
@[simp] theorem Core.push_pc (slot lat : Nat) (e : Eff) : (c.push slot lat e).pc = c.pc := rfl
@[simp] theorem Core.push_nhalf (slot lat : Nat) (e : Eff) : (c.push slot lat e).nhalf = c.nhalf := rfl
@[simp] theorem Core.push_npc (slot lat : Nat) (e : Eff) : (c.push slot lat e).npc = c.npc := rfl
@[simp] theorem Core.push_rep (slot lat : Nat) (e : Eff) : (c.push slot lat e).rep = c.rep := rfl
@[simp] theorem Core.push_rlen (slot lat : Nat) (e : Eff) : (c.push slot lat e).rlen = c.rlen := rfl
@[simp] theorem Core.push_armed (slot lat : Nat) (e : Eff) : (c.push slot lat e).armed = c.armed := rfl
@[simp] theorem Core.push_wrA (slot lat : Nat) (e : Eff) : (c.push slot lat e).wrA = c.wrA := rfl
@[simp] theorem Core.push_wrB (slot lat : Nat) (e : Eff) : (c.push slot lat e).wrB = c.wrB := rfl
@[simp] theorem Core.push_busy (slot lat : Nat) (e : Eff) : (c.push slot lat e).busy = c.busy := rfl
@[simp] theorem Core.push_c0 (slot lat : Nat) (e : Eff) : (c.push slot lat e).c0 = c.c0 := rfl
@[simp] theorem Core.push_c1 (slot lat : Nat) (e : Eff) : (c.push slot lat e).c1 = c.c1 := rfl
@[simp] theorem Core.push_crgn (slot lat : Nat) (e : Eff) : (c.push slot lat e).crgn = c.crgn := rfl
@[simp] theorem Core.push_flt (slot lat : Nat) (e : Eff) : (c.push slot lat e).flt = c.flt := rfl
@[simp] theorem Core.push_owed (slot lat : Nat) (e : Eff) : (c.push slot lat e).owed = c.owed := rfl
@[simp] theorem Core.push_stub (slot lat : Nat) (e : Eff) : (c.push slot lat e).stub = c.stub := rfl
@[simp] theorem Core.push_stall (slot lat : Nat) (e : Eff) : (c.push slot lat e).stall = c.stall := rfl
@[simp] theorem Core.push_stopAt (slot lat : Nat) (e : Eff) : (c.push slot lat e).stopAt = c.stopAt := rfl
@[simp] theorem Core.push_arrph (slot lat : Nat) (e : Eff) : (c.push slot lat e).arrph = c.arrph := rfl
@[simp] theorem Core.push_atDrain (slot lat : Nat) (e : Eff) : (c.push slot lat e).atDrain = c.atDrain := rfl
@[simp] theorem Core.push_stopped (slot lat : Nat) (e : Eff) : (c.push slot lat e).stopped = c.stopped := rfl
@[simp] theorem Core.push_weevil (slot lat : Nat) (e : Eff) : (c.push slot lat e).weevil = c.weevil := rfl
@[simp] theorem Core.push_pend (slot lat : Nat) (e : Eff) : (c.push slot lat e).pend = c.pend ++ [⟨c.cyc + lat, c.cyc, slot, false, c.baddr, e⟩] := rfl

/-! ### An effect of an `XCP` -/

@[simp] theorem Core.pushX_id (slot : Nat) (e : Eff) : (c.pushX slot e).id = c.id := rfl
@[simp] theorem Core.pushX_run (slot : Nat) (e : Eff) : (c.pushX slot e).run = c.run := rfl
@[simp] theorem Core.pushX_exited (slot : Nat) (e : Eff) : (c.pushX slot e).exited = c.exited := rfl
@[simp] theorem Core.pushX_inst (slot : Nat) (e : Eff) : (c.pushX slot e).inst = c.inst := rfl
@[simp] theorem Core.pushX_grp (slot : Nat) (e : Eff) : (c.pushX slot e).grp = c.grp := rfl
@[simp] theorem Core.pushX_lrow (slot : Nat) (e : Eff) : (c.pushX slot e).lrow = c.lrow := rfl
@[simp] theorem Core.pushX_lcol (slot : Nat) (e : Eff) : (c.pushX slot e).lcol = c.lcol := rfl
@[simp] theorem Core.pushX_ldie (slot : Nat) (e : Eff) : (c.pushX slot e).ldie = c.ldie := rfl
@[simp] theorem Core.pushX_cyc (slot : Nat) (e : Eff) : (c.pushX slot e).cyc = c.cyc := rfl
@[simp] theorem Core.pushX_freeze (slot : Nat) (e : Eff) : (c.pushX slot e).freeze = c.freeze := rfl
@[simp] theorem Core.pushX_frozen (slot : Nat) (e : Eff) : (c.pushX slot e).frozen = c.frozen := rfl
@[simp] theorem Core.pushX_s (slot : Nat) (e : Eff) : (c.pushX slot e).s = c.s := rfl
@[simp] theorem Core.pushX_g (slot : Nat) (e : Eff) : (c.pushX slot e).g = c.g := rfl
@[simp] theorem Core.pushX_h (slot : Nat) (e : Eff) : (c.pushX slot e).h = c.h := rfl
@[simp] theorem Core.pushX_x (slot : Nat) (e : Eff) : (c.pushX slot e).x = c.x := rfl
@[simp] theorem Core.pushX_y (slot : Nat) (e : Eff) : (c.pushX slot e).y = c.y := rfl
@[simp] theorem Core.pushX_p (slot : Nat) (e : Eff) : (c.pushX slot e).p = c.p := rfl
@[simp] theorem Core.pushX_w (slot : Nat) (e : Eff) : (c.pushX slot e).w = c.w := rfl
@[simp] theorem Core.pushX_t (slot : Nat) (e : Eff) : (c.pushX slot e).t = c.t := rfl
@[simp] theorem Core.pushX_acc (slot : Nat) (e : Eff) : (c.pushX slot e).acc = c.acc := rfl
@[simp] theorem Core.pushX_z (slot : Nat) (e : Eff) : (c.pushX slot e).z = c.z := rfl
@[simp] theorem Core.pushX_cr (slot : Nat) (e : Eff) : (c.pushX slot e).cr = c.cr := rfl
@[simp] theorem Core.pushX_own (slot : Nat) (e : Eff) : (c.pushX slot e).own = c.own := rfl
@[simp] theorem Core.pushX_strm (slot : Nat) (e : Eff) : (c.pushX slot e).strm = c.strm := rfl
@[simp] theorem Core.pushX_wq (slot : Nat) (e : Eff) : (c.pushX slot e).wq = c.wq := rfl
@[simp] theorem Core.pushX_tt (slot : Nat) (e : Eff) : (c.pushX slot e).tt = c.tt := rfl
@[simp] theorem Core.pushX_statAt (slot : Nat) (e : Eff) : (c.pushX slot e).statAt = c.statAt := rfl
@[simp] theorem Core.pushX_shape (slot : Nat) (e : Eff) : (c.pushX slot e).shape = c.shape := rfl
@[simp] theorem Core.pushX_leaf (slot : Nat) (e : Eff) : (c.pushX slot e).leaf = c.leaf := rfl
@[simp] theorem Core.pushX_maps (slot : Nat) (e : Eff) : (c.pushX slot e).maps = c.maps := rfl
@[simp] theorem Core.pushX_mres (slot : Nat) (e : Eff) : (c.pushX slot e).mres = c.mres := rfl
@[simp] theorem Core.pushX_mdirty (slot : Nat) (e : Eff) : (c.pushX slot e).mdirty = c.mdirty := rfl
@[simp] theorem Core.pushX_half (slot : Nat) (e : Eff) : (c.pushX slot e).half = c.half := rfl
@[simp] theorem Core.pushX_pc (slot : Nat) (e : Eff) : (c.pushX slot e).pc = c.pc := rfl
@[simp] theorem Core.pushX_nhalf (slot : Nat) (e : Eff) : (c.pushX slot e).nhalf = c.nhalf := rfl
@[simp] theorem Core.pushX_npc (slot : Nat) (e : Eff) : (c.pushX slot e).npc = c.npc := rfl
@[simp] theorem Core.pushX_rep (slot : Nat) (e : Eff) : (c.pushX slot e).rep = c.rep := rfl
@[simp] theorem Core.pushX_rlen (slot : Nat) (e : Eff) : (c.pushX slot e).rlen = c.rlen := rfl
@[simp] theorem Core.pushX_armed (slot : Nat) (e : Eff) : (c.pushX slot e).armed = c.armed := rfl
@[simp] theorem Core.pushX_wrA (slot : Nat) (e : Eff) : (c.pushX slot e).wrA = c.wrA := rfl
@[simp] theorem Core.pushX_wrB (slot : Nat) (e : Eff) : (c.pushX slot e).wrB = c.wrB := rfl
@[simp] theorem Core.pushX_busy (slot : Nat) (e : Eff) : (c.pushX slot e).busy = c.busy := rfl
@[simp] theorem Core.pushX_c0 (slot : Nat) (e : Eff) : (c.pushX slot e).c0 = c.c0 := rfl
@[simp] theorem Core.pushX_c1 (slot : Nat) (e : Eff) : (c.pushX slot e).c1 = c.c1 := rfl
@[simp] theorem Core.pushX_crgn (slot : Nat) (e : Eff) : (c.pushX slot e).crgn = c.crgn := rfl
@[simp] theorem Core.pushX_flt (slot : Nat) (e : Eff) : (c.pushX slot e).flt = c.flt := rfl
@[simp] theorem Core.pushX_owed (slot : Nat) (e : Eff) : (c.pushX slot e).owed = c.owed := rfl
@[simp] theorem Core.pushX_stub (slot : Nat) (e : Eff) : (c.pushX slot e).stub = c.stub := rfl
@[simp] theorem Core.pushX_stall (slot : Nat) (e : Eff) : (c.pushX slot e).stall = c.stall := rfl
@[simp] theorem Core.pushX_stopAt (slot : Nat) (e : Eff) : (c.pushX slot e).stopAt = c.stopAt := rfl
@[simp] theorem Core.pushX_arrph (slot : Nat) (e : Eff) : (c.pushX slot e).arrph = c.arrph := rfl
@[simp] theorem Core.pushX_atDrain (slot : Nat) (e : Eff) : (c.pushX slot e).atDrain = c.atDrain := rfl
@[simp] theorem Core.pushX_stopped (slot : Nat) (e : Eff) : (c.pushX slot e).stopped = c.stopped := rfl
@[simp] theorem Core.pushX_weevil (slot : Nat) (e : Eff) : (c.pushX slot e).weevil = c.weevil := rfl
@[simp] theorem Core.pushX_pend (slot : Nat) (e : Eff) : (c.pushX slot e).pend = c.pend ++ [⟨c.cyc + 2, c.cyc, slot, true, c.baddr, e⟩] := rfl

/-! ### An engine fault -/

@[simp] theorem Core.engFault_id (slot cause sub : Nat) (d : W64) (a dep : Nat) : (c.engFault slot cause sub d a dep).id = c.id := rfl
@[simp] theorem Core.engFault_run (slot cause sub : Nat) (d : W64) (a dep : Nat) : (c.engFault slot cause sub d a dep).run = c.run := rfl
@[simp] theorem Core.engFault_exited (slot cause sub : Nat) (d : W64) (a dep : Nat) : (c.engFault slot cause sub d a dep).exited = c.exited := rfl
@[simp] theorem Core.engFault_inst (slot cause sub : Nat) (d : W64) (a dep : Nat) : (c.engFault slot cause sub d a dep).inst = c.inst := rfl
@[simp] theorem Core.engFault_grp (slot cause sub : Nat) (d : W64) (a dep : Nat) : (c.engFault slot cause sub d a dep).grp = c.grp := rfl
@[simp] theorem Core.engFault_lrow (slot cause sub : Nat) (d : W64) (a dep : Nat) : (c.engFault slot cause sub d a dep).lrow = c.lrow := rfl
@[simp] theorem Core.engFault_lcol (slot cause sub : Nat) (d : W64) (a dep : Nat) : (c.engFault slot cause sub d a dep).lcol = c.lcol := rfl
@[simp] theorem Core.engFault_ldie (slot cause sub : Nat) (d : W64) (a dep : Nat) : (c.engFault slot cause sub d a dep).ldie = c.ldie := rfl
@[simp] theorem Core.engFault_cyc (slot cause sub : Nat) (d : W64) (a dep : Nat) : (c.engFault slot cause sub d a dep).cyc = c.cyc := rfl
@[simp] theorem Core.engFault_freeze (slot cause sub : Nat) (d : W64) (a dep : Nat) : (c.engFault slot cause sub d a dep).freeze = c.freeze := rfl
@[simp] theorem Core.engFault_frozen (slot cause sub : Nat) (d : W64) (a dep : Nat) : (c.engFault slot cause sub d a dep).frozen = c.frozen := rfl
@[simp] theorem Core.engFault_s (slot cause sub : Nat) (d : W64) (a dep : Nat) : (c.engFault slot cause sub d a dep).s = c.s := rfl
@[simp] theorem Core.engFault_g (slot cause sub : Nat) (d : W64) (a dep : Nat) : (c.engFault slot cause sub d a dep).g = c.g := rfl
@[simp] theorem Core.engFault_h (slot cause sub : Nat) (d : W64) (a dep : Nat) : (c.engFault slot cause sub d a dep).h = c.h := rfl
@[simp] theorem Core.engFault_x (slot cause sub : Nat) (d : W64) (a dep : Nat) : (c.engFault slot cause sub d a dep).x = c.x := rfl
@[simp] theorem Core.engFault_y (slot cause sub : Nat) (d : W64) (a dep : Nat) : (c.engFault slot cause sub d a dep).y = c.y := rfl
@[simp] theorem Core.engFault_p (slot cause sub : Nat) (d : W64) (a dep : Nat) : (c.engFault slot cause sub d a dep).p = c.p := rfl
@[simp] theorem Core.engFault_w (slot cause sub : Nat) (d : W64) (a dep : Nat) : (c.engFault slot cause sub d a dep).w = c.w := rfl
@[simp] theorem Core.engFault_t (slot cause sub : Nat) (d : W64) (a dep : Nat) : (c.engFault slot cause sub d a dep).t = c.t := rfl
@[simp] theorem Core.engFault_acc (slot cause sub : Nat) (d : W64) (a dep : Nat) : (c.engFault slot cause sub d a dep).acc = c.acc := rfl
@[simp] theorem Core.engFault_z (slot cause sub : Nat) (d : W64) (a dep : Nat) : (c.engFault slot cause sub d a dep).z = c.z := rfl
@[simp] theorem Core.engFault_cr (slot cause sub : Nat) (d : W64) (a dep : Nat) : (c.engFault slot cause sub d a dep).cr = c.cr := rfl
@[simp] theorem Core.engFault_own (slot cause sub : Nat) (d : W64) (a dep : Nat) : (c.engFault slot cause sub d a dep).own = c.own := rfl
@[simp] theorem Core.engFault_strm (slot cause sub : Nat) (d : W64) (a dep : Nat) : (c.engFault slot cause sub d a dep).strm = c.strm := rfl
@[simp] theorem Core.engFault_wq (slot cause sub : Nat) (d : W64) (a dep : Nat) : (c.engFault slot cause sub d a dep).wq = c.wq := rfl
@[simp] theorem Core.engFault_tt (slot cause sub : Nat) (d : W64) (a dep : Nat) : (c.engFault slot cause sub d a dep).tt = c.tt := rfl
@[simp] theorem Core.engFault_statAt (slot cause sub : Nat) (d : W64) (a dep : Nat) : (c.engFault slot cause sub d a dep).statAt = c.statAt := rfl
@[simp] theorem Core.engFault_shape (slot cause sub : Nat) (d : W64) (a dep : Nat) : (c.engFault slot cause sub d a dep).shape = c.shape := rfl
@[simp] theorem Core.engFault_leaf (slot cause sub : Nat) (d : W64) (a dep : Nat) : (c.engFault slot cause sub d a dep).leaf = c.leaf := rfl
@[simp] theorem Core.engFault_maps (slot cause sub : Nat) (d : W64) (a dep : Nat) : (c.engFault slot cause sub d a dep).maps = c.maps := rfl
@[simp] theorem Core.engFault_mres (slot cause sub : Nat) (d : W64) (a dep : Nat) : (c.engFault slot cause sub d a dep).mres = c.mres := rfl
@[simp] theorem Core.engFault_mdirty (slot cause sub : Nat) (d : W64) (a dep : Nat) : (c.engFault slot cause sub d a dep).mdirty = c.mdirty := rfl
@[simp] theorem Core.engFault_half (slot cause sub : Nat) (d : W64) (a dep : Nat) : (c.engFault slot cause sub d a dep).half = c.half := rfl
@[simp] theorem Core.engFault_pc (slot cause sub : Nat) (d : W64) (a dep : Nat) : (c.engFault slot cause sub d a dep).pc = c.pc := rfl
@[simp] theorem Core.engFault_nhalf (slot cause sub : Nat) (d : W64) (a dep : Nat) : (c.engFault slot cause sub d a dep).nhalf = c.nhalf := rfl
@[simp] theorem Core.engFault_npc (slot cause sub : Nat) (d : W64) (a dep : Nat) : (c.engFault slot cause sub d a dep).npc = c.npc := rfl
@[simp] theorem Core.engFault_rep (slot cause sub : Nat) (d : W64) (a dep : Nat) : (c.engFault slot cause sub d a dep).rep = c.rep := rfl
@[simp] theorem Core.engFault_rlen (slot cause sub : Nat) (d : W64) (a dep : Nat) : (c.engFault slot cause sub d a dep).rlen = c.rlen := rfl
@[simp] theorem Core.engFault_armed (slot cause sub : Nat) (d : W64) (a dep : Nat) : (c.engFault slot cause sub d a dep).armed = c.armed := rfl
@[simp] theorem Core.engFault_wrA (slot cause sub : Nat) (d : W64) (a dep : Nat) : (c.engFault slot cause sub d a dep).wrA = c.wrA := rfl
@[simp] theorem Core.engFault_wrB (slot cause sub : Nat) (d : W64) (a dep : Nat) : (c.engFault slot cause sub d a dep).wrB = c.wrB := rfl
@[simp] theorem Core.engFault_busy (slot cause sub : Nat) (d : W64) (a dep : Nat) : (c.engFault slot cause sub d a dep).busy = c.busy := rfl
@[simp] theorem Core.engFault_c0 (slot cause sub : Nat) (d : W64) (a dep : Nat) : (c.engFault slot cause sub d a dep).c0 = c.c0 := rfl
@[simp] theorem Core.engFault_c1 (slot cause sub : Nat) (d : W64) (a dep : Nat) : (c.engFault slot cause sub d a dep).c1 = c.c1 := rfl
@[simp] theorem Core.engFault_crgn (slot cause sub : Nat) (d : W64) (a dep : Nat) : (c.engFault slot cause sub d a dep).crgn = c.crgn := rfl
@[simp] theorem Core.engFault_flt (slot cause sub : Nat) (d : W64) (a dep : Nat) : (c.engFault slot cause sub d a dep).flt = c.flt := rfl
@[simp] theorem Core.engFault_owed (slot cause sub : Nat) (d : W64) (a dep : Nat) : (c.engFault slot cause sub d a dep).owed = c.owed := rfl
@[simp] theorem Core.engFault_stub (slot cause sub : Nat) (d : W64) (a dep : Nat) : (c.engFault slot cause sub d a dep).stub = c.stub := rfl
@[simp] theorem Core.engFault_stall (slot cause sub : Nat) (d : W64) (a dep : Nat) : (c.engFault slot cause sub d a dep).stall = c.stall := rfl
@[simp] theorem Core.engFault_stopAt (slot cause sub : Nat) (d : W64) (a dep : Nat) : (c.engFault slot cause sub d a dep).stopAt = c.stopAt := rfl
@[simp] theorem Core.engFault_arrph (slot cause sub : Nat) (d : W64) (a dep : Nat) : (c.engFault slot cause sub d a dep).arrph = c.arrph := rfl
@[simp] theorem Core.engFault_atDrain (slot cause sub : Nat) (d : W64) (a dep : Nat) : (c.engFault slot cause sub d a dep).atDrain = c.atDrain := rfl
@[simp] theorem Core.engFault_stopped (slot cause sub : Nat) (d : W64) (a dep : Nat) : (c.engFault slot cause sub d a dep).stopped = c.stopped := rfl
@[simp] theorem Core.engFault_weevil (slot cause sub : Nat) (d : W64) (a dep : Nat) : (c.engFault slot cause sub d a dep).weevil = c.weevil := rfl
@[simp] theorem Core.engFault_pend (slot cause sub : Nat) (d : W64) (a dep : Nat) : (c.engFault slot cause sub d a dep).pend = c.pend ++ [⟨c.cyc + 1, c.cyc, slot, false, a, .engFault cause sub d dep⟩] := rfl

/-! ### Trap registers and trap entry -/

@[simp] theorem Core.trapRegs_id (f : Flt) (st : Bool) : (c.trapRegs f st).id = c.id :=
  (Core.setCr_id _ _ _).trans ((Core.setCr_id _ _ _).trans ((Core.setCr_id _ _ _).trans ((Core.setCr_id _ _ _).trans (Core.setCr_id _ _ _))))
@[simp] theorem Core.trapRegs_run (f : Flt) (st : Bool) : (c.trapRegs f st).run = c.run :=
  (Core.setCr_run _ _ _).trans ((Core.setCr_run _ _ _).trans ((Core.setCr_run _ _ _).trans ((Core.setCr_run _ _ _).trans (Core.setCr_run _ _ _))))
@[simp] theorem Core.trapRegs_exited (f : Flt) (st : Bool) : (c.trapRegs f st).exited = c.exited :=
  (Core.setCr_exited _ _ _).trans ((Core.setCr_exited _ _ _).trans ((Core.setCr_exited _ _ _).trans ((Core.setCr_exited _ _ _).trans (Core.setCr_exited _ _ _))))
@[simp] theorem Core.trapRegs_inst (f : Flt) (st : Bool) : (c.trapRegs f st).inst = c.inst :=
  (Core.setCr_inst _ _ _).trans ((Core.setCr_inst _ _ _).trans ((Core.setCr_inst _ _ _).trans ((Core.setCr_inst _ _ _).trans (Core.setCr_inst _ _ _))))
@[simp] theorem Core.trapRegs_grp (f : Flt) (st : Bool) : (c.trapRegs f st).grp = c.grp :=
  (Core.setCr_grp _ _ _).trans ((Core.setCr_grp _ _ _).trans ((Core.setCr_grp _ _ _).trans ((Core.setCr_grp _ _ _).trans (Core.setCr_grp _ _ _))))
@[simp] theorem Core.trapRegs_lrow (f : Flt) (st : Bool) : (c.trapRegs f st).lrow = c.lrow :=
  (Core.setCr_lrow _ _ _).trans ((Core.setCr_lrow _ _ _).trans ((Core.setCr_lrow _ _ _).trans ((Core.setCr_lrow _ _ _).trans (Core.setCr_lrow _ _ _))))
@[simp] theorem Core.trapRegs_lcol (f : Flt) (st : Bool) : (c.trapRegs f st).lcol = c.lcol :=
  (Core.setCr_lcol _ _ _).trans ((Core.setCr_lcol _ _ _).trans ((Core.setCr_lcol _ _ _).trans ((Core.setCr_lcol _ _ _).trans (Core.setCr_lcol _ _ _))))
@[simp] theorem Core.trapRegs_ldie (f : Flt) (st : Bool) : (c.trapRegs f st).ldie = c.ldie :=
  (Core.setCr_ldie _ _ _).trans ((Core.setCr_ldie _ _ _).trans ((Core.setCr_ldie _ _ _).trans ((Core.setCr_ldie _ _ _).trans (Core.setCr_ldie _ _ _))))
@[simp] theorem Core.trapRegs_cyc (f : Flt) (st : Bool) : (c.trapRegs f st).cyc = c.cyc :=
  (Core.setCr_cyc _ _ _).trans ((Core.setCr_cyc _ _ _).trans ((Core.setCr_cyc _ _ _).trans ((Core.setCr_cyc _ _ _).trans (Core.setCr_cyc _ _ _))))
@[simp] theorem Core.trapRegs_freeze (f : Flt) (st : Bool) : (c.trapRegs f st).freeze = c.freeze :=
  (Core.setCr_freeze _ _ _).trans ((Core.setCr_freeze _ _ _).trans ((Core.setCr_freeze _ _ _).trans ((Core.setCr_freeze _ _ _).trans (Core.setCr_freeze _ _ _))))
@[simp] theorem Core.trapRegs_frozen (f : Flt) (st : Bool) : (c.trapRegs f st).frozen = c.frozen :=
  (Core.setCr_frozen _ _ _).trans ((Core.setCr_frozen _ _ _).trans ((Core.setCr_frozen _ _ _).trans ((Core.setCr_frozen _ _ _).trans (Core.setCr_frozen _ _ _))))
@[simp] theorem Core.trapRegs_s (f : Flt) (st : Bool) : (c.trapRegs f st).s = c.s :=
  (Core.setCr_s _ _ _).trans ((Core.setCr_s _ _ _).trans ((Core.setCr_s _ _ _).trans ((Core.setCr_s _ _ _).trans (Core.setCr_s _ _ _))))
@[simp] theorem Core.trapRegs_g (f : Flt) (st : Bool) : (c.trapRegs f st).g = c.g :=
  (Core.setCr_g _ _ _).trans ((Core.setCr_g _ _ _).trans ((Core.setCr_g _ _ _).trans ((Core.setCr_g _ _ _).trans (Core.setCr_g _ _ _))))
@[simp] theorem Core.trapRegs_h (f : Flt) (st : Bool) : (c.trapRegs f st).h = c.h :=
  (Core.setCr_h _ _ _).trans ((Core.setCr_h _ _ _).trans ((Core.setCr_h _ _ _).trans ((Core.setCr_h _ _ _).trans (Core.setCr_h _ _ _))))
@[simp] theorem Core.trapRegs_x (f : Flt) (st : Bool) : (c.trapRegs f st).x = c.x :=
  (Core.setCr_x _ _ _).trans ((Core.setCr_x _ _ _).trans ((Core.setCr_x _ _ _).trans ((Core.setCr_x _ _ _).trans (Core.setCr_x _ _ _))))
@[simp] theorem Core.trapRegs_y (f : Flt) (st : Bool) : (c.trapRegs f st).y = c.y :=
  (Core.setCr_y _ _ _).trans ((Core.setCr_y _ _ _).trans ((Core.setCr_y _ _ _).trans ((Core.setCr_y _ _ _).trans (Core.setCr_y _ _ _))))
@[simp] theorem Core.trapRegs_p (f : Flt) (st : Bool) : (c.trapRegs f st).p = c.p :=
  (Core.setCr_p _ _ _).trans ((Core.setCr_p _ _ _).trans ((Core.setCr_p _ _ _).trans ((Core.setCr_p _ _ _).trans (Core.setCr_p _ _ _))))
@[simp] theorem Core.trapRegs_w (f : Flt) (st : Bool) : (c.trapRegs f st).w = c.w :=
  (Core.setCr_w _ _ _).trans ((Core.setCr_w _ _ _).trans ((Core.setCr_w _ _ _).trans ((Core.setCr_w _ _ _).trans (Core.setCr_w _ _ _))))
@[simp] theorem Core.trapRegs_t (f : Flt) (st : Bool) : (c.trapRegs f st).t = c.t :=
  (Core.setCr_t _ _ _).trans ((Core.setCr_t _ _ _).trans ((Core.setCr_t _ _ _).trans ((Core.setCr_t _ _ _).trans (Core.setCr_t _ _ _))))
@[simp] theorem Core.trapRegs_acc (f : Flt) (st : Bool) : (c.trapRegs f st).acc = c.acc :=
  (Core.setCr_acc _ _ _).trans ((Core.setCr_acc _ _ _).trans ((Core.setCr_acc _ _ _).trans ((Core.setCr_acc _ _ _).trans (Core.setCr_acc _ _ _))))
@[simp] theorem Core.trapRegs_z (f : Flt) (st : Bool) : (c.trapRegs f st).z = c.z :=
  (Core.setCr_z _ _ _).trans ((Core.setCr_z _ _ _).trans ((Core.setCr_z _ _ _).trans ((Core.setCr_z _ _ _).trans (Core.setCr_z _ _ _))))
@[simp] theorem Core.trapRegs_own (f : Flt) (st : Bool) : (c.trapRegs f st).own = c.own :=
  (Core.setCr_own _ _ _).trans ((Core.setCr_own _ _ _).trans ((Core.setCr_own _ _ _).trans ((Core.setCr_own _ _ _).trans (Core.setCr_own _ _ _))))
@[simp] theorem Core.trapRegs_strm (f : Flt) (st : Bool) : (c.trapRegs f st).strm = c.strm :=
  (Core.setCr_strm _ _ _).trans ((Core.setCr_strm _ _ _).trans ((Core.setCr_strm _ _ _).trans ((Core.setCr_strm _ _ _).trans (Core.setCr_strm _ _ _))))
@[simp] theorem Core.trapRegs_wq (f : Flt) (st : Bool) : (c.trapRegs f st).wq = c.wq :=
  (Core.setCr_wq _ _ _).trans ((Core.setCr_wq _ _ _).trans ((Core.setCr_wq _ _ _).trans ((Core.setCr_wq _ _ _).trans (Core.setCr_wq _ _ _))))
@[simp] theorem Core.trapRegs_tt (f : Flt) (st : Bool) : (c.trapRegs f st).tt = c.tt :=
  (Core.setCr_tt _ _ _).trans ((Core.setCr_tt _ _ _).trans ((Core.setCr_tt _ _ _).trans ((Core.setCr_tt _ _ _).trans (Core.setCr_tt _ _ _))))
@[simp] theorem Core.trapRegs_statAt (f : Flt) (st : Bool) : (c.trapRegs f st).statAt = c.statAt :=
  (Core.setCr_statAt _ _ _).trans ((Core.setCr_statAt _ _ _).trans ((Core.setCr_statAt _ _ _).trans ((Core.setCr_statAt _ _ _).trans (Core.setCr_statAt _ _ _))))
@[simp] theorem Core.trapRegs_shape (f : Flt) (st : Bool) : (c.trapRegs f st).shape = c.shape :=
  (Core.setCr_shape _ _ _).trans ((Core.setCr_shape _ _ _).trans ((Core.setCr_shape _ _ _).trans ((Core.setCr_shape _ _ _).trans (Core.setCr_shape _ _ _))))
@[simp] theorem Core.trapRegs_leaf (f : Flt) (st : Bool) : (c.trapRegs f st).leaf = c.leaf :=
  (Core.setCr_leaf _ _ _).trans ((Core.setCr_leaf _ _ _).trans ((Core.setCr_leaf _ _ _).trans ((Core.setCr_leaf _ _ _).trans (Core.setCr_leaf _ _ _))))
@[simp] theorem Core.trapRegs_maps (f : Flt) (st : Bool) : (c.trapRegs f st).maps = c.maps :=
  (Core.setCr_maps _ _ _).trans ((Core.setCr_maps _ _ _).trans ((Core.setCr_maps _ _ _).trans ((Core.setCr_maps _ _ _).trans (Core.setCr_maps _ _ _))))
@[simp] theorem Core.trapRegs_mres (f : Flt) (st : Bool) : (c.trapRegs f st).mres = c.mres :=
  (Core.setCr_mres _ _ _).trans ((Core.setCr_mres _ _ _).trans ((Core.setCr_mres _ _ _).trans ((Core.setCr_mres _ _ _).trans (Core.setCr_mres _ _ _))))
@[simp] theorem Core.trapRegs_mdirty (f : Flt) (st : Bool) : (c.trapRegs f st).mdirty = c.mdirty :=
  (Core.setCr_mdirty _ _ _).trans ((Core.setCr_mdirty _ _ _).trans ((Core.setCr_mdirty _ _ _).trans ((Core.setCr_mdirty _ _ _).trans (Core.setCr_mdirty _ _ _))))
@[simp] theorem Core.trapRegs_half (f : Flt) (st : Bool) : (c.trapRegs f st).half = c.half :=
  (Core.setCr_half _ _ _).trans ((Core.setCr_half _ _ _).trans ((Core.setCr_half _ _ _).trans ((Core.setCr_half _ _ _).trans (Core.setCr_half _ _ _))))
@[simp] theorem Core.trapRegs_pc (f : Flt) (st : Bool) : (c.trapRegs f st).pc = c.pc :=
  (Core.setCr_pc _ _ _).trans ((Core.setCr_pc _ _ _).trans ((Core.setCr_pc _ _ _).trans ((Core.setCr_pc _ _ _).trans (Core.setCr_pc _ _ _))))
@[simp] theorem Core.trapRegs_nhalf (f : Flt) (st : Bool) : (c.trapRegs f st).nhalf = c.nhalf :=
  (Core.setCr_nhalf _ _ _).trans ((Core.setCr_nhalf _ _ _).trans ((Core.setCr_nhalf _ _ _).trans ((Core.setCr_nhalf _ _ _).trans (Core.setCr_nhalf _ _ _))))
@[simp] theorem Core.trapRegs_npc (f : Flt) (st : Bool) : (c.trapRegs f st).npc = c.npc :=
  (Core.setCr_npc _ _ _).trans ((Core.setCr_npc _ _ _).trans ((Core.setCr_npc _ _ _).trans ((Core.setCr_npc _ _ _).trans (Core.setCr_npc _ _ _))))
@[simp] theorem Core.trapRegs_rep (f : Flt) (st : Bool) : (c.trapRegs f st).rep = c.rep :=
  (Core.setCr_rep _ _ _).trans ((Core.setCr_rep _ _ _).trans ((Core.setCr_rep _ _ _).trans ((Core.setCr_rep _ _ _).trans (Core.setCr_rep _ _ _))))
@[simp] theorem Core.trapRegs_rlen (f : Flt) (st : Bool) : (c.trapRegs f st).rlen = c.rlen :=
  (Core.setCr_rlen _ _ _).trans ((Core.setCr_rlen _ _ _).trans ((Core.setCr_rlen _ _ _).trans ((Core.setCr_rlen _ _ _).trans (Core.setCr_rlen _ _ _))))
@[simp] theorem Core.trapRegs_armed (f : Flt) (st : Bool) : (c.trapRegs f st).armed = c.armed :=
  (Core.setCr_armed _ _ _).trans ((Core.setCr_armed _ _ _).trans ((Core.setCr_armed _ _ _).trans ((Core.setCr_armed _ _ _).trans (Core.setCr_armed _ _ _))))
@[simp] theorem Core.trapRegs_wrA (f : Flt) (st : Bool) : (c.trapRegs f st).wrA = c.wrA :=
  (Core.setCr_wrA _ _ _).trans ((Core.setCr_wrA _ _ _).trans ((Core.setCr_wrA _ _ _).trans ((Core.setCr_wrA _ _ _).trans (Core.setCr_wrA _ _ _))))
@[simp] theorem Core.trapRegs_wrB (f : Flt) (st : Bool) : (c.trapRegs f st).wrB = c.wrB :=
  (Core.setCr_wrB _ _ _).trans ((Core.setCr_wrB _ _ _).trans ((Core.setCr_wrB _ _ _).trans ((Core.setCr_wrB _ _ _).trans (Core.setCr_wrB _ _ _))))
@[simp] theorem Core.trapRegs_pend (f : Flt) (st : Bool) : (c.trapRegs f st).pend = c.pend :=
  (Core.setCr_pend _ _ _).trans ((Core.setCr_pend _ _ _).trans ((Core.setCr_pend _ _ _).trans ((Core.setCr_pend _ _ _).trans (Core.setCr_pend _ _ _))))
@[simp] theorem Core.trapRegs_busy (f : Flt) (st : Bool) : (c.trapRegs f st).busy = c.busy :=
  (Core.setCr_busy _ _ _).trans ((Core.setCr_busy _ _ _).trans ((Core.setCr_busy _ _ _).trans ((Core.setCr_busy _ _ _).trans (Core.setCr_busy _ _ _))))
@[simp] theorem Core.trapRegs_c0 (f : Flt) (st : Bool) : (c.trapRegs f st).c0 = c.c0 :=
  (Core.setCr_c0 _ _ _).trans ((Core.setCr_c0 _ _ _).trans ((Core.setCr_c0 _ _ _).trans ((Core.setCr_c0 _ _ _).trans (Core.setCr_c0 _ _ _))))
@[simp] theorem Core.trapRegs_c1 (f : Flt) (st : Bool) : (c.trapRegs f st).c1 = c.c1 :=
  (Core.setCr_c1 _ _ _).trans ((Core.setCr_c1 _ _ _).trans ((Core.setCr_c1 _ _ _).trans ((Core.setCr_c1 _ _ _).trans (Core.setCr_c1 _ _ _))))
@[simp] theorem Core.trapRegs_crgn (f : Flt) (st : Bool) : (c.trapRegs f st).crgn = c.crgn :=
  (Core.setCr_crgn _ _ _).trans ((Core.setCr_crgn _ _ _).trans ((Core.setCr_crgn _ _ _).trans ((Core.setCr_crgn _ _ _).trans (Core.setCr_crgn _ _ _))))
@[simp] theorem Core.trapRegs_flt (f : Flt) (st : Bool) : (c.trapRegs f st).flt = c.flt :=
  (Core.setCr_flt _ _ _).trans ((Core.setCr_flt _ _ _).trans ((Core.setCr_flt _ _ _).trans ((Core.setCr_flt _ _ _).trans (Core.setCr_flt _ _ _))))
@[simp] theorem Core.trapRegs_owed (f : Flt) (st : Bool) : (c.trapRegs f st).owed = c.owed :=
  (Core.setCr_owed _ _ _).trans ((Core.setCr_owed _ _ _).trans ((Core.setCr_owed _ _ _).trans ((Core.setCr_owed _ _ _).trans (Core.setCr_owed _ _ _))))
@[simp] theorem Core.trapRegs_stub (f : Flt) (st : Bool) : (c.trapRegs f st).stub = c.stub :=
  (Core.setCr_stub _ _ _).trans ((Core.setCr_stub _ _ _).trans ((Core.setCr_stub _ _ _).trans ((Core.setCr_stub _ _ _).trans (Core.setCr_stub _ _ _))))
@[simp] theorem Core.trapRegs_stall (f : Flt) (st : Bool) : (c.trapRegs f st).stall = c.stall :=
  (Core.setCr_stall _ _ _).trans ((Core.setCr_stall _ _ _).trans ((Core.setCr_stall _ _ _).trans ((Core.setCr_stall _ _ _).trans (Core.setCr_stall _ _ _))))
@[simp] theorem Core.trapRegs_stopAt (f : Flt) (st : Bool) : (c.trapRegs f st).stopAt = c.stopAt :=
  (Core.setCr_stopAt _ _ _).trans ((Core.setCr_stopAt _ _ _).trans ((Core.setCr_stopAt _ _ _).trans ((Core.setCr_stopAt _ _ _).trans (Core.setCr_stopAt _ _ _))))
@[simp] theorem Core.trapRegs_arrph (f : Flt) (st : Bool) : (c.trapRegs f st).arrph = c.arrph :=
  (Core.setCr_arrph _ _ _).trans ((Core.setCr_arrph _ _ _).trans ((Core.setCr_arrph _ _ _).trans ((Core.setCr_arrph _ _ _).trans (Core.setCr_arrph _ _ _))))
@[simp] theorem Core.trapRegs_atDrain (f : Flt) (st : Bool) : (c.trapRegs f st).atDrain = c.atDrain :=
  (Core.setCr_atDrain _ _ _).trans ((Core.setCr_atDrain _ _ _).trans ((Core.setCr_atDrain _ _ _).trans ((Core.setCr_atDrain _ _ _).trans (Core.setCr_atDrain _ _ _))))
@[simp] theorem Core.trapRegs_stopped (f : Flt) (st : Bool) : (c.trapRegs f st).stopped = c.stopped :=
  (Core.setCr_stopped _ _ _).trans ((Core.setCr_stopped _ _ _).trans ((Core.setCr_stopped _ _ _).trans ((Core.setCr_stopped _ _ _).trans (Core.setCr_stopped _ _ _))))
@[simp] theorem Core.trapRegs_weevil (f : Flt) (st : Bool) : (c.trapRegs f st).weevil = c.weevil :=
  (Core.setCr_weevil _ _ _).trans ((Core.setCr_weevil _ _ _).trans ((Core.setCr_weevil _ _ _).trans ((Core.setCr_weevil _ _ _).trans (Core.setCr_weevil _ _ _))))
theorem Core.enter_id (d : Core) (p : Nat) : ({ d with armed := [], stub := true, flt := none, stall := none, stopAt := none, rep := 0, rlen := 0, pc := p } : Core).id = d.id := rfl
@[simp] theorem Core.trapEntry_id (f : Flt) : (c.trapEntry f).id = c.id :=
  (Core.enter_id (c.trapRegs f true) _).trans (Core.trapRegs_id c f true)
theorem Core.enter_run (d : Core) (p : Nat) : ({ d with armed := [], stub := true, flt := none, stall := none, stopAt := none, rep := 0, rlen := 0, pc := p } : Core).run = d.run := rfl
@[simp] theorem Core.trapEntry_run (f : Flt) : (c.trapEntry f).run = c.run :=
  (Core.enter_run (c.trapRegs f true) _).trans (Core.trapRegs_run c f true)
theorem Core.enter_exited (d : Core) (p : Nat) : ({ d with armed := [], stub := true, flt := none, stall := none, stopAt := none, rep := 0, rlen := 0, pc := p } : Core).exited = d.exited := rfl
@[simp] theorem Core.trapEntry_exited (f : Flt) : (c.trapEntry f).exited = c.exited :=
  (Core.enter_exited (c.trapRegs f true) _).trans (Core.trapRegs_exited c f true)
theorem Core.enter_inst (d : Core) (p : Nat) : ({ d with armed := [], stub := true, flt := none, stall := none, stopAt := none, rep := 0, rlen := 0, pc := p } : Core).inst = d.inst := rfl
@[simp] theorem Core.trapEntry_inst (f : Flt) : (c.trapEntry f).inst = c.inst :=
  (Core.enter_inst (c.trapRegs f true) _).trans (Core.trapRegs_inst c f true)
theorem Core.enter_grp (d : Core) (p : Nat) : ({ d with armed := [], stub := true, flt := none, stall := none, stopAt := none, rep := 0, rlen := 0, pc := p } : Core).grp = d.grp := rfl
@[simp] theorem Core.trapEntry_grp (f : Flt) : (c.trapEntry f).grp = c.grp :=
  (Core.enter_grp (c.trapRegs f true) _).trans (Core.trapRegs_grp c f true)
theorem Core.enter_lrow (d : Core) (p : Nat) : ({ d with armed := [], stub := true, flt := none, stall := none, stopAt := none, rep := 0, rlen := 0, pc := p } : Core).lrow = d.lrow := rfl
@[simp] theorem Core.trapEntry_lrow (f : Flt) : (c.trapEntry f).lrow = c.lrow :=
  (Core.enter_lrow (c.trapRegs f true) _).trans (Core.trapRegs_lrow c f true)
theorem Core.enter_lcol (d : Core) (p : Nat) : ({ d with armed := [], stub := true, flt := none, stall := none, stopAt := none, rep := 0, rlen := 0, pc := p } : Core).lcol = d.lcol := rfl
@[simp] theorem Core.trapEntry_lcol (f : Flt) : (c.trapEntry f).lcol = c.lcol :=
  (Core.enter_lcol (c.trapRegs f true) _).trans (Core.trapRegs_lcol c f true)
theorem Core.enter_ldie (d : Core) (p : Nat) : ({ d with armed := [], stub := true, flt := none, stall := none, stopAt := none, rep := 0, rlen := 0, pc := p } : Core).ldie = d.ldie := rfl
@[simp] theorem Core.trapEntry_ldie (f : Flt) : (c.trapEntry f).ldie = c.ldie :=
  (Core.enter_ldie (c.trapRegs f true) _).trans (Core.trapRegs_ldie c f true)
theorem Core.enter_cyc (d : Core) (p : Nat) : ({ d with armed := [], stub := true, flt := none, stall := none, stopAt := none, rep := 0, rlen := 0, pc := p } : Core).cyc = d.cyc := rfl
@[simp] theorem Core.trapEntry_cyc (f : Flt) : (c.trapEntry f).cyc = c.cyc :=
  (Core.enter_cyc (c.trapRegs f true) _).trans (Core.trapRegs_cyc c f true)
theorem Core.enter_freeze (d : Core) (p : Nat) : ({ d with armed := [], stub := true, flt := none, stall := none, stopAt := none, rep := 0, rlen := 0, pc := p } : Core).freeze = d.freeze := rfl
@[simp] theorem Core.trapEntry_freeze (f : Flt) : (c.trapEntry f).freeze = c.freeze :=
  (Core.enter_freeze (c.trapRegs f true) _).trans (Core.trapRegs_freeze c f true)
theorem Core.enter_frozen (d : Core) (p : Nat) : ({ d with armed := [], stub := true, flt := none, stall := none, stopAt := none, rep := 0, rlen := 0, pc := p } : Core).frozen = d.frozen := rfl
@[simp] theorem Core.trapEntry_frozen (f : Flt) : (c.trapEntry f).frozen = c.frozen :=
  (Core.enter_frozen (c.trapRegs f true) _).trans (Core.trapRegs_frozen c f true)
theorem Core.enter_s (d : Core) (p : Nat) : ({ d with armed := [], stub := true, flt := none, stall := none, stopAt := none, rep := 0, rlen := 0, pc := p } : Core).s = d.s := rfl
@[simp] theorem Core.trapEntry_s (f : Flt) : (c.trapEntry f).s = c.s :=
  (Core.enter_s (c.trapRegs f true) _).trans (Core.trapRegs_s c f true)
theorem Core.enter_g (d : Core) (p : Nat) : ({ d with armed := [], stub := true, flt := none, stall := none, stopAt := none, rep := 0, rlen := 0, pc := p } : Core).g = d.g := rfl
@[simp] theorem Core.trapEntry_g (f : Flt) : (c.trapEntry f).g = c.g :=
  (Core.enter_g (c.trapRegs f true) _).trans (Core.trapRegs_g c f true)
theorem Core.enter_h (d : Core) (p : Nat) : ({ d with armed := [], stub := true, flt := none, stall := none, stopAt := none, rep := 0, rlen := 0, pc := p } : Core).h = d.h := rfl
@[simp] theorem Core.trapEntry_h (f : Flt) : (c.trapEntry f).h = c.h :=
  (Core.enter_h (c.trapRegs f true) _).trans (Core.trapRegs_h c f true)
theorem Core.enter_x (d : Core) (p : Nat) : ({ d with armed := [], stub := true, flt := none, stall := none, stopAt := none, rep := 0, rlen := 0, pc := p } : Core).x = d.x := rfl
@[simp] theorem Core.trapEntry_x (f : Flt) : (c.trapEntry f).x = c.x :=
  (Core.enter_x (c.trapRegs f true) _).trans (Core.trapRegs_x c f true)
theorem Core.enter_y (d : Core) (p : Nat) : ({ d with armed := [], stub := true, flt := none, stall := none, stopAt := none, rep := 0, rlen := 0, pc := p } : Core).y = d.y := rfl
@[simp] theorem Core.trapEntry_y (f : Flt) : (c.trapEntry f).y = c.y :=
  (Core.enter_y (c.trapRegs f true) _).trans (Core.trapRegs_y c f true)
theorem Core.enter_p (d : Core) (p : Nat) : ({ d with armed := [], stub := true, flt := none, stall := none, stopAt := none, rep := 0, rlen := 0, pc := p } : Core).p = d.p := rfl
@[simp] theorem Core.trapEntry_p (f : Flt) : (c.trapEntry f).p = c.p :=
  (Core.enter_p (c.trapRegs f true) _).trans (Core.trapRegs_p c f true)
theorem Core.enter_w (d : Core) (p : Nat) : ({ d with armed := [], stub := true, flt := none, stall := none, stopAt := none, rep := 0, rlen := 0, pc := p } : Core).w = d.w := rfl
@[simp] theorem Core.trapEntry_w (f : Flt) : (c.trapEntry f).w = c.w :=
  (Core.enter_w (c.trapRegs f true) _).trans (Core.trapRegs_w c f true)
theorem Core.enter_t (d : Core) (p : Nat) : ({ d with armed := [], stub := true, flt := none, stall := none, stopAt := none, rep := 0, rlen := 0, pc := p } : Core).t = d.t := rfl
@[simp] theorem Core.trapEntry_t (f : Flt) : (c.trapEntry f).t = c.t :=
  (Core.enter_t (c.trapRegs f true) _).trans (Core.trapRegs_t c f true)
theorem Core.enter_acc (d : Core) (p : Nat) : ({ d with armed := [], stub := true, flt := none, stall := none, stopAt := none, rep := 0, rlen := 0, pc := p } : Core).acc = d.acc := rfl
@[simp] theorem Core.trapEntry_acc (f : Flt) : (c.trapEntry f).acc = c.acc :=
  (Core.enter_acc (c.trapRegs f true) _).trans (Core.trapRegs_acc c f true)
theorem Core.enter_z (d : Core) (p : Nat) : ({ d with armed := [], stub := true, flt := none, stall := none, stopAt := none, rep := 0, rlen := 0, pc := p } : Core).z = d.z := rfl
@[simp] theorem Core.trapEntry_z (f : Flt) : (c.trapEntry f).z = c.z :=
  (Core.enter_z (c.trapRegs f true) _).trans (Core.trapRegs_z c f true)
theorem Core.enter_own (d : Core) (p : Nat) : ({ d with armed := [], stub := true, flt := none, stall := none, stopAt := none, rep := 0, rlen := 0, pc := p } : Core).own = d.own := rfl
@[simp] theorem Core.trapEntry_own (f : Flt) : (c.trapEntry f).own = c.own :=
  (Core.enter_own (c.trapRegs f true) _).trans (Core.trapRegs_own c f true)
theorem Core.enter_strm (d : Core) (p : Nat) : ({ d with armed := [], stub := true, flt := none, stall := none, stopAt := none, rep := 0, rlen := 0, pc := p } : Core).strm = d.strm := rfl
@[simp] theorem Core.trapEntry_strm (f : Flt) : (c.trapEntry f).strm = c.strm :=
  (Core.enter_strm (c.trapRegs f true) _).trans (Core.trapRegs_strm c f true)
theorem Core.enter_wq (d : Core) (p : Nat) : ({ d with armed := [], stub := true, flt := none, stall := none, stopAt := none, rep := 0, rlen := 0, pc := p } : Core).wq = d.wq := rfl
@[simp] theorem Core.trapEntry_wq (f : Flt) : (c.trapEntry f).wq = c.wq :=
  (Core.enter_wq (c.trapRegs f true) _).trans (Core.trapRegs_wq c f true)
theorem Core.enter_tt (d : Core) (p : Nat) : ({ d with armed := [], stub := true, flt := none, stall := none, stopAt := none, rep := 0, rlen := 0, pc := p } : Core).tt = d.tt := rfl
@[simp] theorem Core.trapEntry_tt (f : Flt) : (c.trapEntry f).tt = c.tt :=
  (Core.enter_tt (c.trapRegs f true) _).trans (Core.trapRegs_tt c f true)
theorem Core.enter_statAt (d : Core) (p : Nat) : ({ d with armed := [], stub := true, flt := none, stall := none, stopAt := none, rep := 0, rlen := 0, pc := p } : Core).statAt = d.statAt := rfl
@[simp] theorem Core.trapEntry_statAt (f : Flt) : (c.trapEntry f).statAt = c.statAt :=
  (Core.enter_statAt (c.trapRegs f true) _).trans (Core.trapRegs_statAt c f true)
theorem Core.enter_shape (d : Core) (p : Nat) : ({ d with armed := [], stub := true, flt := none, stall := none, stopAt := none, rep := 0, rlen := 0, pc := p } : Core).shape = d.shape := rfl
@[simp] theorem Core.trapEntry_shape (f : Flt) : (c.trapEntry f).shape = c.shape :=
  (Core.enter_shape (c.trapRegs f true) _).trans (Core.trapRegs_shape c f true)
theorem Core.enter_leaf (d : Core) (p : Nat) : ({ d with armed := [], stub := true, flt := none, stall := none, stopAt := none, rep := 0, rlen := 0, pc := p } : Core).leaf = d.leaf := rfl
@[simp] theorem Core.trapEntry_leaf (f : Flt) : (c.trapEntry f).leaf = c.leaf :=
  (Core.enter_leaf (c.trapRegs f true) _).trans (Core.trapRegs_leaf c f true)
theorem Core.enter_maps (d : Core) (p : Nat) : ({ d with armed := [], stub := true, flt := none, stall := none, stopAt := none, rep := 0, rlen := 0, pc := p } : Core).maps = d.maps := rfl
@[simp] theorem Core.trapEntry_maps (f : Flt) : (c.trapEntry f).maps = c.maps :=
  (Core.enter_maps (c.trapRegs f true) _).trans (Core.trapRegs_maps c f true)
theorem Core.enter_mres (d : Core) (p : Nat) : ({ d with armed := [], stub := true, flt := none, stall := none, stopAt := none, rep := 0, rlen := 0, pc := p } : Core).mres = d.mres := rfl
@[simp] theorem Core.trapEntry_mres (f : Flt) : (c.trapEntry f).mres = c.mres :=
  (Core.enter_mres (c.trapRegs f true) _).trans (Core.trapRegs_mres c f true)
theorem Core.enter_mdirty (d : Core) (p : Nat) : ({ d with armed := [], stub := true, flt := none, stall := none, stopAt := none, rep := 0, rlen := 0, pc := p } : Core).mdirty = d.mdirty := rfl
@[simp] theorem Core.trapEntry_mdirty (f : Flt) : (c.trapEntry f).mdirty = c.mdirty :=
  (Core.enter_mdirty (c.trapRegs f true) _).trans (Core.trapRegs_mdirty c f true)
theorem Core.enter_half (d : Core) (p : Nat) : ({ d with armed := [], stub := true, flt := none, stall := none, stopAt := none, rep := 0, rlen := 0, pc := p } : Core).half = d.half := rfl
@[simp] theorem Core.trapEntry_half (f : Flt) : (c.trapEntry f).half = c.half :=
  (Core.enter_half (c.trapRegs f true) _).trans (Core.trapRegs_half c f true)
theorem Core.enter_nhalf (d : Core) (p : Nat) : ({ d with armed := [], stub := true, flt := none, stall := none, stopAt := none, rep := 0, rlen := 0, pc := p } : Core).nhalf = d.nhalf := rfl
@[simp] theorem Core.trapEntry_nhalf (f : Flt) : (c.trapEntry f).nhalf = c.nhalf :=
  (Core.enter_nhalf (c.trapRegs f true) _).trans (Core.trapRegs_nhalf c f true)
theorem Core.enter_npc (d : Core) (p : Nat) : ({ d with armed := [], stub := true, flt := none, stall := none, stopAt := none, rep := 0, rlen := 0, pc := p } : Core).npc = d.npc := rfl
@[simp] theorem Core.trapEntry_npc (f : Flt) : (c.trapEntry f).npc = c.npc :=
  (Core.enter_npc (c.trapRegs f true) _).trans (Core.trapRegs_npc c f true)
theorem Core.enter_wrA (d : Core) (p : Nat) : ({ d with armed := [], stub := true, flt := none, stall := none, stopAt := none, rep := 0, rlen := 0, pc := p } : Core).wrA = d.wrA := rfl
@[simp] theorem Core.trapEntry_wrA (f : Flt) : (c.trapEntry f).wrA = c.wrA :=
  (Core.enter_wrA (c.trapRegs f true) _).trans (Core.trapRegs_wrA c f true)
theorem Core.enter_wrB (d : Core) (p : Nat) : ({ d with armed := [], stub := true, flt := none, stall := none, stopAt := none, rep := 0, rlen := 0, pc := p } : Core).wrB = d.wrB := rfl
@[simp] theorem Core.trapEntry_wrB (f : Flt) : (c.trapEntry f).wrB = c.wrB :=
  (Core.enter_wrB (c.trapRegs f true) _).trans (Core.trapRegs_wrB c f true)
theorem Core.enter_pend (d : Core) (p : Nat) : ({ d with armed := [], stub := true, flt := none, stall := none, stopAt := none, rep := 0, rlen := 0, pc := p } : Core).pend = d.pend := rfl
@[simp] theorem Core.trapEntry_pend (f : Flt) : (c.trapEntry f).pend = c.pend :=
  (Core.enter_pend (c.trapRegs f true) _).trans (Core.trapRegs_pend c f true)
theorem Core.enter_busy (d : Core) (p : Nat) : ({ d with armed := [], stub := true, flt := none, stall := none, stopAt := none, rep := 0, rlen := 0, pc := p } : Core).busy = d.busy := rfl
@[simp] theorem Core.trapEntry_busy (f : Flt) : (c.trapEntry f).busy = c.busy :=
  (Core.enter_busy (c.trapRegs f true) _).trans (Core.trapRegs_busy c f true)
theorem Core.enter_c0 (d : Core) (p : Nat) : ({ d with armed := [], stub := true, flt := none, stall := none, stopAt := none, rep := 0, rlen := 0, pc := p } : Core).c0 = d.c0 := rfl
@[simp] theorem Core.trapEntry_c0 (f : Flt) : (c.trapEntry f).c0 = c.c0 :=
  (Core.enter_c0 (c.trapRegs f true) _).trans (Core.trapRegs_c0 c f true)
theorem Core.enter_c1 (d : Core) (p : Nat) : ({ d with armed := [], stub := true, flt := none, stall := none, stopAt := none, rep := 0, rlen := 0, pc := p } : Core).c1 = d.c1 := rfl
@[simp] theorem Core.trapEntry_c1 (f : Flt) : (c.trapEntry f).c1 = c.c1 :=
  (Core.enter_c1 (c.trapRegs f true) _).trans (Core.trapRegs_c1 c f true)
theorem Core.enter_crgn (d : Core) (p : Nat) : ({ d with armed := [], stub := true, flt := none, stall := none, stopAt := none, rep := 0, rlen := 0, pc := p } : Core).crgn = d.crgn := rfl
@[simp] theorem Core.trapEntry_crgn (f : Flt) : (c.trapEntry f).crgn = c.crgn :=
  (Core.enter_crgn (c.trapRegs f true) _).trans (Core.trapRegs_crgn c f true)
theorem Core.enter_owed (d : Core) (p : Nat) : ({ d with armed := [], stub := true, flt := none, stall := none, stopAt := none, rep := 0, rlen := 0, pc := p } : Core).owed = d.owed := rfl
@[simp] theorem Core.trapEntry_owed (f : Flt) : (c.trapEntry f).owed = c.owed :=
  (Core.enter_owed (c.trapRegs f true) _).trans (Core.trapRegs_owed c f true)
theorem Core.enter_arrph (d : Core) (p : Nat) : ({ d with armed := [], stub := true, flt := none, stall := none, stopAt := none, rep := 0, rlen := 0, pc := p } : Core).arrph = d.arrph := rfl
@[simp] theorem Core.trapEntry_arrph (f : Flt) : (c.trapEntry f).arrph = c.arrph :=
  (Core.enter_arrph (c.trapRegs f true) _).trans (Core.trapRegs_arrph c f true)
theorem Core.enter_atDrain (d : Core) (p : Nat) : ({ d with armed := [], stub := true, flt := none, stall := none, stopAt := none, rep := 0, rlen := 0, pc := p } : Core).atDrain = d.atDrain := rfl
@[simp] theorem Core.trapEntry_atDrain (f : Flt) : (c.trapEntry f).atDrain = c.atDrain :=
  (Core.enter_atDrain (c.trapRegs f true) _).trans (Core.trapRegs_atDrain c f true)
theorem Core.enter_stopped (d : Core) (p : Nat) : ({ d with armed := [], stub := true, flt := none, stall := none, stopAt := none, rep := 0, rlen := 0, pc := p } : Core).stopped = d.stopped := rfl
@[simp] theorem Core.trapEntry_stopped (f : Flt) : (c.trapEntry f).stopped = c.stopped :=
  (Core.enter_stopped (c.trapRegs f true) _).trans (Core.trapRegs_stopped c f true)
theorem Core.enter_weevil (d : Core) (p : Nat) : ({ d with armed := [], stub := true, flt := none, stall := none, stopAt := none, rep := 0, rlen := 0, pc := p } : Core).weevil = d.weevil := rfl
@[simp] theorem Core.trapEntry_weevil (f : Flt) : (c.trapEntry f).weevil = c.weevil :=
  (Core.enter_weevil (c.trapRegs f true) _).trans (Core.trapRegs_weevil c f true)
@[simp] theorem Core.trapEntry_stub (f : Flt) : (c.trapEntry f).stub = true := by unfold Core.trapEntry; rfl
@[simp] theorem Core.trapEntry_armed (f : Flt) : (c.trapEntry f).armed = [] := by unfold Core.trapEntry; rfl
@[simp] theorem Core.trapEntry_flt (f : Flt) : (c.trapEntry f).flt = none := by unfold Core.trapEntry; rfl
@[simp] theorem Core.trapEntry_stall (f : Flt) : (c.trapEntry f).stall = none := by unfold Core.trapEntry; rfl
@[simp] theorem Core.trapEntry_stopAt (f : Flt) : (c.trapEntry f).stopAt = none := by unfold Core.trapEntry; rfl
@[simp] theorem Core.trapEntry_rep (f : Flt) : (c.trapEntry f).rep = 0 := by unfold Core.trapEntry; rfl
@[simp] theorem Core.trapEntry_rlen (f : Flt) : (c.trapEntry f).rlen = 0 := by unfold Core.trapEntry; rfl
@[simp] theorem Core.trapEntry_cr (f : Flt) : (c.trapEntry f).cr = (c.trapRegs f true).cr := by unfold Core.trapEntry; rfl
@[simp] theorem Core.trapEntry_pc (f : Flt) : (c.trapEntry f).pc = 14336 + c.crv 0x080 % 2048 := by unfold Core.trapEntry; rfl

end Sys2Proof.Machine
end

