-- ==== Sys2Proof/Tests/Slice0.lean ====
section
/-! SUPPORT. Tests: ill-formed terms that each check refuses, words written out from the tables of spec/13_encoding.md that
decode to their instructions, single steps with results taken from the spec, and states that meet the hypotheses of the
statements. -/

namespace Sys2Proof.Tests

open Sys2Proof Sys2Proof.Machine

set_option Elab.async false

/-! ### Words written out from the spec's formats (R292, R296, R298, R300, R302, R304) -/

/-- Fields at their low bits. -/
def fields (l : List (Nat × Nat)) : Nat := (l.map (fun f => f.1 * 2 ^ f.2)).sum

/-- An S word: guard [31:27], opcode [26:21], the other fields (R296). -/
def wordS (g op : Nat) (l : List (Nat × Nat)) : Nat := fields ((g, 27) :: (op, 21) :: l)

/-- A V word: guard [47:43], opcode [42:36], K [35], lane mask [34:32], the other fields (R298). -/
def wordV (g op k m : Nat) (l : List (Nat × Nat)) : Nat := fields ((g, 43) :: (op, 36) :: (k, 35) :: (m, 32) :: l)

/-- The operands of VR: D, A, B, C, TYPE, MOD (R298). -/
def opsVR (d a b c ty mod : Nat) : List (Nat × Nat) := [(d, 26), (a, 20), (b, 14), (c, 8), (ty, 4), (mod, 0)]

/-- An M or C word: guard [63:59], opcode [58:53], K [52], the other fields (R300, R302). -/
def wordM (g op k : Nat) (l : List (Nat × Nat)) : Nat := fields ((g, 59) :: (op, 53) :: (k, 52) :: l)

/-- The operands of CE: TR, TOFF, RA, RB, RC, QUAL, IMM12 (R302). -/
def opsCE (tr toff ra rb rc qual imm : Nat) : List (Nat × Nat) :=
  [(tr, 46), (toff, 34), (ra, 29), (rb, 24), (rc, 19), (qual, 12), (imm, 0)]

/-- A stack word: op [63:58], WAIT [57:50], the other fields (R304). -/
def wordK (op wait : Nat) (l : List (Nat × Nat)) : Nat := fields ((op, 58) :: (wait, 50) :: l)

/-- What a V word decodes to, its operands apart. -/
def headV (slot : Bool) (g : BitVec 5) (k : Bool) (m : BitVec 3) : VHead := ⟨slot, g, k, m, ⟨0, 0, 0⟩⟩
def headM (g : BitVec 5) (k : Bool) : MHead := ⟨g, k, ⟨0, 0, 0⟩⟩
def headC (slot : Bool) (g : BitVec 5) (k : Bool) : CHead := ⟨slot, g, k, ⟨0, 0, 0⟩⟩

theorem test_decode_scalar_registers :
    decodeS (wordS 0 0x00 []) 0 = .ok (.nopS 0) ∧
    decodeS (wordS 17 0x01 [(3, 16), (4, 11), (5, 5), (1, 1)]) 0 = .ok (.addReg 17 3 4 5 true false) ∧
    decodeS (wordS 2 0x02 [(31, 16), (30, 11), (29, 5), (1, 0)]) 0 = .ok (.subReg 2 31 30 29 false true) ∧
    decodeS (wordS 0 0x03 [(1, 16), (2, 11), (3, 5), (3, 0)]) 0 = .ok (.mulReg 0 1 2 3 true true) ∧
    decodeS (wordS 0 0x04 [(1, 16), (2, 11), (3, 5), (2, 0)]) 0 = .ok (.mulhReg 0 1 2 3 true) ∧
    decodeS (wordS 0 0x05 [(1, 16), (2, 11), (3, 5)]) 0 = .ok (.divReg 0 1 2 3 false) ∧
    decodeS (wordS 0 0x06 [(1, 16), (2, 11), (3, 5), (1, 1)]) 0 = .ok (.remReg 0 1 2 3 true) ∧
    decodeS (wordS 0 0x07 [(1, 16), (2, 11), (3, 5)]) 0 = .ok (.andReg 0 1 2 3) ∧
    decodeS (wordS 0 0x08 [(1, 16), (2, 11), (3, 5)]) 0 = .ok (.orReg 0 1 2 3) ∧
    decodeS (wordS 0 0x09 [(1, 16), (2, 11), (3, 5)]) 0 = .ok (.xorReg 0 1 2 3) ∧
    decodeS (wordS 0 0x0A [(1, 16), (2, 11), (3, 5)]) 0 = .ok (.shlReg 0 1 2 3) ∧
    decodeS (wordS 0 0x0B [(1, 16), (2, 11), (3, 5)]) 0 = .ok (.shrReg 0 1 2 3) ∧
    decodeS (wordS 0 0x0C [(1, 16), (2, 11), (3, 5)]) 0 = .ok (.sraReg 0 1 2 3) ∧
    decodeS (wordS 0 0x0D [(1, 16), (2, 11), (3, 5)]) 0 = .ok (.rotlReg 0 1 2 3) ∧
    decodeS (wordS 0 0x0E [(1, 16), (2, 11)]) 0 = .ok (.clzReg 0 1 2) ∧
    decodeS (wordS 0 0x0F [(1, 16), (2, 11)]) 0 = .ok (.popcReg 0 1 2) ∧
    decodeS (wordS 0 0x10 [(1, 16), (2, 11), (3, 5), (2, 0)]) 0 = .ok (.minReg 0 1 2 3 true) ∧
    decodeS (wordS 0 0x11 [(1, 16), (2, 11), (3, 5)]) 0 = .ok (.maxReg 0 1 2 3 false) := by decide

theorem test_decode_scalar_immediates :
    decodeS (wordS 1 0x01 [(3, 16), (4, 11), (1, 10), (0x1FF, 0)]) 0 = .ok (.addImm 1 3 4 (.short 0x1FF)) ∧
    decodeS (wordS 1 0x02 [(3, 16), (4, 11), (1, 10), (1, 9)]) 0xABCD1234 = .ok (.subImm 1 3 4 (.ext 0xABCD1234)) ∧
    decodeS (wordS 0 0x03 [(3, 16), (4, 11), (1, 10), (5, 0)]) 0 = .ok (.mulImm 0 3 4 (.short 5)) ∧
    decodeS (wordS 0 0x04 [(3, 16), (4, 11), (1, 10), (5, 0)]) 0 = .ok (.mulhImm 0 3 4 (.short 5)) ∧
    decodeS (wordS 0 0x05 [(3, 16), (4, 11), (1, 10), (5, 0)]) 0 = .ok (.divImm 0 3 4 (.short 5)) ∧
    decodeS (wordS 0 0x06 [(3, 16), (4, 11), (1, 10), (5, 0)]) 0 = .ok (.remImm 0 3 4 (.short 5)) ∧
    decodeS (wordS 0 0x07 [(3, 16), (4, 11), (1, 10), (5, 0)]) 0 = .ok (.andImm 0 3 4 (.short 5)) ∧
    decodeS (wordS 0 0x08 [(3, 16), (4, 11), (1, 10), (5, 0)]) 0 = .ok (.orImm 0 3 4 (.short 5)) ∧
    decodeS (wordS 0 0x09 [(3, 16), (4, 11), (1, 10), (5, 0)]) 0 = .ok (.xorImm 0 3 4 (.short 5)) ∧
    decodeS (wordS 0 0x0A [(3, 16), (4, 11), (1, 10), (5, 0)]) 0 = .ok (.shlImm 0 3 4 (.short 5)) ∧
    decodeS (wordS 0 0x0B [(3, 16), (4, 11), (1, 10), (5, 0)]) 0 = .ok (.shrImm 0 3 4 (.short 5)) ∧
    decodeS (wordS 0 0x0C [(3, 16), (4, 11), (1, 10), (5, 0)]) 0 = .ok (.sraImm 0 3 4 (.short 5)) ∧
    decodeS (wordS 0 0x0D [(3, 16), (4, 11), (1, 10), (5, 0)]) 0 = .ok (.rotlImm 0 3 4 (.short 5)) ∧
    decodeS (wordS 0 0x0E [(3, 16), (1, 10), (5, 0)]) 0 = .ok (.clzImm 0 3 (.short 5)) ∧
    decodeS (wordS 0 0x0F [(3, 16), (1, 10), (5, 0)]) 0 = .ok (.popcImm 0 3 (.short 5)) ∧
    decodeS (wordS 0 0x10 [(3, 16), (4, 11), (1, 10), (5, 0)]) 0 = .ok (.minImm 0 3 4 (.short 5)) ∧
    decodeS (wordS 0 0x11 [(3, 16), (4, 11), (1, 10), (5, 0)]) 0 = .ok (.maxImm 0 3 4 (.short 5)) ∧
    decodeS (wordS 0 0x13 [(3, 16), (0x7FFF, 0)]) 0 = .ok (.li 0 3 (.short 0x7FFF)) ∧
    decodeS (wordS 0 0x14 [(3, 16), (1, 15)]) 0xFFFFFFFF = .ok (.lih 0 3 (.ext 0xFFFFFFFF)) := by decide

theorem test_decode_scalar_others :
    decodeS (wordS 0 0x12 [(1, 16), (2, 11), (3, 5), (9, 0)]) 0 = .ok (.sel 0 1 2 3 9) ∧
    decodeS (wordS 0 0x15 [(1, 17), (2, 13), (3, 8), (4, 5), (5, 0)]) 0 = .ok (.cmp 0 1 2 3 5 4) ∧
    decodeS (wordS 0 0x16 [(1, 17), (2, 13), (3, 8), (5, 5), (15, 0)]) 0 = .ok (.cmpi 0 1 2 3 5 (.short 15)) ∧
    decodeS (wordS 0 0x17 [(1, 17), (2, 13), (3, 9), (8, 5)]) 0 = .ok (.plog 0 1 2 3 8) ∧
    decodeS (wordS 0 0x18 [(1, 16), (2, 11), (3, 9), (1, 8), (0x80, 0)]) 0 = .ok (.lds 0 1 2 3 true 0x80) ∧
    decodeS (wordS 0 0x19 [(1, 16), (2, 11), (2, 9), (0x7F, 0)]) 0 = .ok (.sts 0 1 2 2 0x7F) ∧
    decodeS (wordS 0 0x1A [(3, 18), (511, 9), (7, 4)]) 0 = .ok (.xcpS 0 3 511 7) ∧
    decodeS (wordS 0 0x1B [(4, 16), (0x00A, 0)]) 0 = .ok (.crd 0 4 0x00A) ∧
    decodeS (wordS 0 0x1C [(4, 16), (0x018, 0)]) 0 = .ok (.cwr 0 4 0x018) ∧
    decodeS (wordS 0 0x1D [(4, 16), (1, 0)]) 0 = .ok (.cyc 0 4 true) ∧
    decodeS (wordS 0 0x1E [(4, 11), (6, 5)]) 0 = .ok (.cmptS 0 4 6) ∧
    decodeS (wordS 18 0x20 [(0x3FFA, 0)]) 0 = .ok (.br 18 0x3FFA) ∧
    decodeS (wordS 0 0x21 [(9, 11)]) 0 = .ok (.jmp 0 9) ∧
    decodeS (wordS 0 0x22 [(9, 16), (7, 13), (0x1FFF, 0)]) 0 = .ok (.loop 0 9 7 0x1FFF) ∧
    decodeS (wordS 0 0x23 [(0x2000, 0)]) 0 = .ok (.bloop 0 0x2000) ∧
    decodeS (wordS 0 0x24 [(0x1000, 0)]) 0 = .ok (.bsw 0 0x1000) ∧
    decodeS (wordS 0 0x25 []) 0 = .ok (.ifence 0) ∧
    decodeS (wordS 0 0x26 [(0, 18), (63, 12)]) 0 = .ok (.waitOwn 0 63) ∧
    decodeS (wordS 0 0x26 [(1, 18), (1, 17), (20, 12)]) 0 = .ok (.waitWp 0 true 20) ∧
    decodeS (wordS 0 0x26 [(2, 18), (15, 14)]) 0 = .ok (.waitBar 0 15) ∧
    decodeS (wordS 0 0x26 [(3, 18), (1, 17), (5, 14), (6, 9), (7, 4), (4, 1), (1, 0)]) 0 = .ok (.waitVal 0 true 5 6 7 4 true) ∧
    decodeS (wordS 0 0x26 [(4, 18), (8, 12)]) 0 = .ok (.waitCyc 0 8) ∧
    decodeS (wordS 0 0x27 [(15, 17)]) 0 = .ok (.bar 0 15) ∧
    decodeS (wordS 0 0x28 [(8, 17), (7, 14), (9, 7)]) 0 = .ok (.tnext 0 8 7 9) ∧
    decodeS (wordS 0 0x29 [(8, 17), (7, 14), (3, 12), (9, 7)]) 0 = .ok (.enq 0 8 7 3 9) ∧
    decodeS (wordS 0 0x2A []) 0 = .ok (.exit 0) ∧ decodeS (wordS 0 0x2B []) 0 = .ok (.dbrk 0) ∧
    decodeS (wordS 0 0x2C [(0xBEEF, 0)]) 0 = .ok (.trap 0 0xBEEF) ∧ decodeS (wordS 0 0x2D []) 0 = .ok (.tret 0) ∧
    decodeS (wordS 0 0x2E [(0xAB, 12), (0xFFE, 0)]) 0 = .ok (.crgnOpen 0 0xAB 0xFFE) ∧
    decodeS (wordS 0 0x2E [(1, 20)]) 0 = .ok (.crgnClose 0) := by decide

theorem test_decode_lanes_1 :
    decodeV true (wordV 1 0x00 0 0 []) 0 = .ok (.nopEngineSlot .v1 1) ∧
    decodeV false (wordV 0 0x01 0 0 [(5, 26), (4, 23), (9, 14), (7, 11)]) 0 = .ok (.xcpV (headV false 0 false 0) 5 4 9 7) ∧
    decodeV false (wordV 0 0x02 0 0 (opsVR 0 2 3 0 0 0)) 0 = .ok (.cmptV (headV false 0 false 0) ⟨0, 2, 3, 0, 0, 0⟩) ∧
    decodeV true (wordV 3 0x03 1 2 [(1, 26), (2, 20), (1, 19), (0xABC, 7), (6, 4), (13, 0)]) 0 =
      .ok (.vld (headV true 3 true 2) ⟨1, 2, true, 0xABC, 6, 13⟩) ∧
    decodeV false (wordV 0 0x04 0 0 [(1, 26), (8, 7)]) 0 = .ok (.vst (headV false 0 false 0) ⟨1, 0, false, 8, 0, 0⟩) ∧
    decodeV false (wordV 0 0x05 0 1 [(1, 26), (2, 20), (8, 7), (3, 4)]) 0 = .ok (.vgth (headV false 0 false 1) ⟨1, 2, false, 8, 3, 0⟩) ∧
    decodeV false (wordV 0 0x06 0 1 [(1, 26), (2, 20), (8, 7), (2, 4), (3, 0)]) 0 =
      .ok (.vsct (headV false 0 false 1) ⟨1, 2, false, 8, 2, 3⟩) ∧
    decodeV false (wordV 0 0x07 0 0 (opsVR 1 2 3 4 5 1)) 0 = .ok (.vrmg (headV false 0 false 0) ⟨1, 2, 3, 4, 5, 1⟩) ∧
    decodeV false (wordV 0 0x08 0 0 (opsVR 1 2 3 0 0 1)) 0 = .ok (.vadd (headV false 0 false 0) ⟨1, 2, 3, 0, 0, 1⟩) ∧
    decodeV false (wordV 0 0x09 0 0 (opsVR 1 2 3 0 1 0)) 0 = .ok (.vsub (headV false 0 false 0) ⟨1, 2, 3, 0, 1, 0⟩) ∧
    decodeV false (wordV 0 0x0A 0 0 (opsVR 1 2 3 0 2 0)) 0 = .ok (.vmul (headV false 0 false 0) ⟨1, 2, 3, 0, 2, 0⟩) ∧
    decodeV false (wordV 0 0x0B 0 0 (opsVR 1 2 3 4 2 0)) 0 = .ok (.vfma (headV false 0 false 0) ⟨1, 2, 3, 4, 2, 0⟩) ∧
    decodeV false (wordV 0 0x0C 0 0 (opsVR 1 2 3 0 0 0)) 0 = .ok (.vmin (headV false 0 false 0) ⟨1, 2, 3, 0, 0, 0⟩) ∧
    decodeV false (wordV 0 0x0D 0 0 (opsVR 1 2 3 0 0 0)) 0 = .ok (.vmax (headV false 0 false 0) ⟨1, 2, 3, 0, 0, 0⟩) ∧
    decodeV false (wordV 0 0x0E 0 0 (opsVR 1 2 0 0 0 0)) 0 = .ok (.vabs (headV false 0 false 0) ⟨1, 2, 0, 0, 0, 0⟩) ∧
    decodeV false (wordV 0 0x0F 0 0 (opsVR 1 2 0 0 0 0)) 0 = .ok (.vneg (headV false 0 false 0) ⟨1, 2, 0, 0, 0, 0⟩) ∧
    decodeV false (wordV 0 0x10 0 0 (opsVR 1 2 0 0 0 0)) 0 = .ok (.vrcp (headV false 0 false 0) ⟨1, 2, 0, 0, 0, 0⟩) ∧
    decodeV false (wordV 0 0x11 0 0 (opsVR 1 2 0 0 0 0)) 0 = .ok (.vrsq (headV false 0 false 0) ⟨1, 2, 0, 0, 0, 0⟩) ∧
    decodeV false (wordV 0 0x12 0 0 (opsVR 1 2 0 0 0 0)) 0 = .ok (.vexp2 (headV false 0 false 0) ⟨1, 2, 0, 0, 0, 0⟩) ∧
    decodeV false (wordV 0 0x13 0 0 (opsVR 1 2 0 0 0 0)) 0 = .ok (.vlog2 (headV false 0 false 0) ⟨1, 2, 0, 0, 0, 0⟩) ∧
    decodeV false (wordV 0 0x14 0 0 (opsVR 1 2 3 4 0 1)) 0 = .ok (.vrope (headV false 0 false 0) ⟨1, 2, 3, 4, 0, 1⟩) ∧
    decodeV false (wordV 0 0x15 0 0 (opsVR 1 2 0 2 0 4)) 0 = .ok (.vcvt (headV false 0 false 0) ⟨1, 2, 0, 2, 0, 4⟩) ∧
    decodeV false (wordV 0 0x16 0 0 (opsVR 1 2 3 0 8 0)) 0 = .ok (.vrng (headV false 0 false 0) ⟨1, 2, 3, 0, 8, 0⟩) := by decide

theorem test_decode_lanes_2 :
    decodeV false (wordV 0 0x18 0 0 (opsVR 1 2 3 0 5 3)) 0 = .ok (.viadd (headV false 0 false 0) ⟨1, 2, 3, 0, 5, 3⟩) ∧
    decodeV false (wordV 0 0x19 0 0 (opsVR 1 2 3 0 7 0)) 0 = .ok (.visub (headV false 0 false 0) ⟨1, 2, 3, 0, 7, 0⟩) ∧
    decodeV false (wordV 0 0x1A 0 0 (opsVR 1 2 3 0 8 2)) 0 = .ok (.vimul (headV false 0 false 0) ⟨1, 2, 3, 0, 8, 2⟩) ∧
    decodeV false (wordV 0 0x1B 0 0 (opsVR 1 2 3 0 8 15)) 0 = .ok (.vlogic (headV false 0 false 0) ⟨1, 2, 3, 0, 8, 15⟩) ∧
    decodeV false (wordV 0 0x1C 0 0 (opsVR 1 2 3 0 8 0)) 0 = .ok (.vshl (headV false 0 false 0) ⟨1, 2, 3, 0, 8, 0⟩) ∧
    decodeV false (wordV 0 0x1D 0 0 (opsVR 1 2 3 0 8 2)) 0 = .ok (.vshr (headV false 0 false 0) ⟨1, 2, 3, 0, 8, 2⟩) ∧
    decodeV false (wordV 0 0x1E 0 0 (opsVR 1 2 0 0 8 0)) 0 = .ok (.vpopc (headV false 0 false 0) ⟨1, 2, 0, 0, 8, 0⟩) ∧
    decodeV false (wordV 0 0x1F 0 0 (opsVR 1 2 3 7 8 0)) 0 = .ok (.vbits (headV false 0 false 0) ⟨1, 2, 3, 7, 8, 0⟩) ∧
    decodeV false (wordV 0 0x20 0 0 (opsVR 1 2 3 0 0 6)) 0 = .ok (.vcmp (headV false 0 false 0) ⟨1, 2, 3, 0, 0, 6⟩) ∧
    decodeV false (wordV 0 0x21 0 0 (opsVR 1 2 3 0 8 13)) 0 = .ok (.vicmp (headV false 0 false 0) ⟨1, 2, 3, 0, 8, 13⟩) ∧
    decodeV false (wordV 0 0x22 0 0 (opsVR 1 2 3 7 0 0)) 0 = .ok (.vselm (headV false 0 false 0) ⟨1, 2, 3, 7, 0, 0⟩) ∧
    decodeV false (wordV 0 0x23 0 0 (opsVR 1 2 3 0 0 6)) 0 = .ok (.wlog (headV false 0 false 0) ⟨1, 2, 3, 0, 0, 6⟩) ∧
    decodeV false (wordV 0 0x24 0 0 (opsVR 1 2 0 0 8 1)) 0 = .ok (.wcnt (headV false 0 false 0) ⟨1, 2, 0, 0, 8, 1⟩) ∧
    decodeV false (wordV 0 0x25 0 0 (opsVR 1 2 0 0 5 3)) 0 = .ok (.vrsum (headV false 0 false 0) ⟨1, 2, 0, 0, 5, 3⟩) ∧
    decodeV false (wordV 0 0x26 0 0 (opsVR 1 2 0 0 5 2)) 0 = .ok (.vrmax (headV false 0 false 0) ⟨1, 2, 0, 0, 5, 2⟩) ∧
    decodeV false (wordV 0 0x28 0 0 (opsVR 1 2 3 4 5 0)) 0 = .ok (.vperm (headV false 0 false 0) ⟨1, 2, 3, 4, 5, 0⟩) ∧
    decodeV false (wordV 0 0x29 0 0 (opsVR 1 2 0 15 0 0)) 0 = .ok (.vbcst (headV false 0 false 0) ⟨1, 2, 0, 15, 0, 0⟩) ∧
    decodeV false (wordV 0 0x2A 0 0 [(1, 26), (0x801, 8), (8, 4)]) 0 = .ok (.viota (headV false 0 false 0) ⟨1, 8, 0, .short 0x801⟩) ∧
    decodeV false (wordV 0 0x2B 0 0 [(1, 26), (8, 4), (1, 3), (1, 0)]) 0x12345678 =
      .ok (.vmovi (headV false 0 false 0) ⟨1, 8, 1, .ext 0x12345678⟩) ∧
    decodeV false (wordV 0 0x30 0 0 (opsVR 0 2 0 0 0 0)) 0 = .ok (.vbmax (headV false 0 false 0) ⟨0, 2, 0, 0, 0, 0⟩) ∧
    decodeV false (wordV 0 0x31 0 0 (opsVR 1 2 0 7 0 2)) 0 = .ok (.vqsx (headV false 0 false 0) ⟨1, 2, 0, 7, 0, 2⟩) ∧
    decodeV false (wordV 0 0x32 0 0 (opsVR 1 2 0 4 0 1)) 0 = .ok (.vdqsx (headV false 0 false 0) ⟨1, 2, 0, 4, 0, 1⟩) ∧
    decodeV false (wordV 0 0x33 0 0 (opsVR 1 2 0 31 0 0)) 0 = .ok (.vsigp (headV false 0 false 0) ⟨1, 2, 0, 31, 0, 0⟩) ∧
    decodeV false (wordV 0 0x34 0 0 (opsVR 1 2 0 31 7 0)) 0 = .ok (.vmaj (headV false 0 false 0) ⟨1, 2, 0, 31, 7, 0⟩) ∧
    decodeV false (wordV 0 0x35 0 1 (opsVR 10 11 0 0 0 0)) 0 = .ok (.vosm (headV false 0 false 1) ⟨10, 11, 0, 0, 0, 0⟩) ∧
    decodeV false (wordV 0 0x36 0 0 (opsVR 1 2 3 0 0 0)) 0 = .ok (.vosf (headV false 0 false 0) ⟨1, 2, 3, 0, 0, 0⟩) ∧
    decodeV false (wordV 0 0x38 0 0 [(1, 26), (3, 24), (16, 19), (128, 11), (8, 4), (7, 0)]) 0 =
      .ok (.ard (headV false 0 false 0) ⟨1, 3, 16, 128, 8, 7⟩) ∧
    decodeV false (wordV 0 0x39 0 0 [(1, 26), (3, 24), (16, 19), (128, 11), (4, 0)]) 0 =
      .ok (.awr (headV false 0 false 0) ⟨1, 3, 16, 128, 0, 4⟩) ∧
    decodeV false (wordV 0 0x3A 0 0 [(1, 26), (511, 17)]) 0 = .ok (.zld (headV false 0 false 0) 1 511) ∧
    decodeV false (wordV 0 0x3B 0 0 [(1, 26), (256, 17)]) 0 = .ok (.zst (headV false 0 false 0) 1 256) := by decide

theorem test_decode_matrix_and_tree :
    decodeM (wordM 0 0x00 0 []) = .ok (.nopEngineSlot .m 0) ∧
    decodeM (wordM 0 0x01 0 [(511, 40), (4, 37), (15, 32)]) = .ok (.xcpM (headM 0 false) 511 4 15) ∧
    decodeM (wordM 1 0x08 0 [(63, 33)]) = .ok (.mstat (headM 1 false) 63) ∧
    decodeM (wordM 0 0x09 1 [(5, 33), (1, 31)]) = .ok (.mrel (headM 0 true) 5 1) ∧
    decodeM (wordM 0 0x0A 0 [(7, 39), (0xFFF, 27)]) = .ok (.mtld (headM 0 false) 7 0xFFF) ∧
    decodeM (wordM 0 0x0B 0 [(6, 39), (0x100, 27)]) = .ok (.mtst (headM 0 false) 6 0x100) ∧
    decodeM (wordM 0 0x0C 0 [(1, 50), (1, 49), (3, 46), (2, 43), (7, 39), (9, 33), (0x1234, 17), (0x8001, 1)]) =
      .ok (.mmul (headM 0 false) true true 3 2 7 9 0x1234 0x8001) ∧
    decodeM (wordM 0 0x0D 0 [(3, 43)]) = .ok (.mclr (headM 0 false) 3) ∧
    decodeM (wordM 0 0x10 0 [(2, 49), (511, 40), (63, 34), (62, 28), (510, 19)]) = .ok (.tup (headM 0 false) 2 511 63 62 510) ∧
    decodeM (wordM 0 0x11 0 [(1, 49), (511, 40), (63, 34), (62, 28), (510, 19), (509, 10)]) =
      .ok (.tdn (headM 0 false) 1 511 509 63 62 510) ∧
    decodeM (wordM 0 0x12 0 [(8, 40), (1, 34), (2, 28), (16, 19)]) = .ok (.tmxp (headM 0 false) 0 8 1 2 16) ∧
    decodeM (wordM 0 0x13 0 [(1, 50), (8, 40)]) = .ok (.tscl (headM 0 false) true 8) ∧
    decodeM (wordM 0 0x14 0 [(1, 50), (33, 34), (0x321, 22)]) = .ok (.tshl (headM 0 false) true 33 0x321) ∧
    decodeM (wordM 0 0x15 0 [(1, 49), (8, 40), (16, 31)]) = .ok (.tcvt (headM 0 false) 1 8 16) := by decide

theorem test_decode_channels_1 :
    decodeC true (wordM 0 0x00 0 []) 0 = .ok (.nopEngineSlot .c1 0) ∧
    decodeC false (wordM 0 0x01 0 [(1, 46), (2, 41), (3, 35)]) 0 = .ok (.addC (headC false 0 false) 1 2 (.reg 3)) ∧
    decodeC true (wordM 0 0x02 0 [(1, 46), (2, 41), (1, 40), (0xDEADBEEF, 8)]) 0 =
      .ok (.subC (headC true 0 false) 1 2 (.imm 0xDEADBEEF)) ∧
    decodeC false (wordM 0 0x0A 0 [(1, 46), (2, 41), (1, 40), (6, 8)]) 0 = .ok (.shlC (headC false 0 false) 1 2 (.imm 6)) ∧
    decodeC false (wordM 0 0x13 0 [(1, 46), (1, 40), (7, 8)]) 0 = .ok (.liC (headC false 0 false) 1 7) ∧
    decodeC false (wordM 0 0x14 0 [(1, 46), (1, 40), (7, 8)]) 0 = .ok (.lihC (headC false 0 false) 1 7) ∧
    decodeC false (wordM 0 0x1A 0 [(15, 46), (3, 43), (511, 34)]) 0 = .ok (.xcpC (headC false 0 false) 15 3 511) ∧
    decodeC false (wordM 0 0x1E 0 [(2, 41), (3, 35)]) 0 = .ok (.cmptC (headC false 0 false) 2 3) ∧
    decodeC false (wordM 0 0x20 0 (opsCE 1 0x18 2 3 0 0x40 1)) 0 = .ok (.cpy (headC false 0 false) ⟨1, 0x18, 2, 3, 0, 0x40, .short 1⟩) ∧
    decodeC false (wordM 0 0x20 1 ((1, 51) :: opsCE 1 0xFFF 2 3 4 0x38 0)) 0x10000 =
      .ok (.cpy (headC false 0 true) ⟨1, 0xFFF, 2, 3, 4, 0x38, .ext 0x10000⟩) ∧
    decodeC false (wordM 0 0x21 0 (opsCE 1 0 2 3 4 0x10 5)) 0 = .ok (.cpy2 (headC false 0 false) ⟨1, 0, 2, 3, 4, 0x10, .short 5⟩) ∧
    decodeC false (wordM 0 0x22 0 (opsCE 1 0 2 3 4 0 5)) 0 = .ok (.cpyl (headC false 0 false) ⟨1, 0, 2, 3, 4, 0, .short 5⟩) ∧
    decodeC false (wordM 0 0x23 0 [(0xABC, 39), (0x123, 27), (15, 23), (23, 18), (22, 13)]) 0 =
      .ok (.put (headC false 0 false) 0xABC 0x123 15 23 22) ∧
    decodeC false (wordM 0 0x24 0 [(1, 50), (63, 44), (64, 37)]) 0 = .ok (.give (headC false 0 false) true 63 64) ∧
    decodeC false (wordM 0 0x25 0 [(63, 44), (1, 37)]) 0 = .ok (.take (headC false 0 false) 63 1) ∧
    decodeC false (wordM 0 0x26 0 (opsCE 1 0 2 3 4 0x35 0x1FE)) 0 = .ok (.atom (headC false 0 false) ⟨1, 0, 2, 3, 4, 0x35, .short 0x1FE⟩) ∧
    decodeC false (wordM 0 0x27 0 (opsCE 1 0 2 3 0 0x23 9)) 0 = .ok (.sig (headC false 0 false) ⟨1, 0, 2, 3, 0, 0x23, .short 9⟩) := by
  decide

theorem test_decode_channels_2 :
    decodeC false (wordM 0 0x28 0 (opsCE 1 0 0 0 0 5 0)) 0 = .ok (.fence (headC false 0 false) ⟨1, 0, 0, 0, 0, 5, .short 0⟩) ∧
    decodeC false (wordM 0 0x29 0 (opsCE 1 0 2 0 0 5 0)) 0 = .ok (.coll (headC false 0 false) ⟨1, 0, 2, 0, 0, 5, .short 0⟩) ∧
    decodeC false (wordM 0 0x2A 0 (opsCE 1 0 2 0 0 0 511)) 0 = .ok (.cstk (headC false 0 false) ⟨1, 0, 2, 0, 0, 0, .short 511⟩) ∧
    decodeC false (wordM 0 0x2B 0 (opsCE 1 0 2 3 4 0 127)) 0 = .ok (.pgft (headC false 0 false) ⟨1, 0, 2, 3, 4, 0, .short 127⟩) ∧
    decodeC false (wordM 0 0x2C 0 (opsCE 1 0 0 0 0 0 0xFFF)) 0 = .ok (.preq (headC false 0 false) ⟨1, 0, 0, 0, 0, 0, .short 0xFFF⟩) ∧
    decodeC false (wordM 0 0x2D 0 (opsCE 1 0 0 0 0 0 0x040)) 0 = .ok (.wbk (headC false 0 false) ⟨1, 0, 0, 0, 0, 0, .short 0x040⟩) ∧
    decodeC false (wordM 0 0x2E 0 [(7, 48), (63, 42), (64, 35), (15, 30)]) 0 = .ok (.mapr (headC false 0 false) 7 63 64 15) ∧
    decodeC false (wordM 0 0x2F 0 (opsCE 1 0 2 3 4 0 0)) 0 = .ok (.pmov (headC false 0 false) ⟨1, 0, 2, 3, 4, 0, .short 0⟩) ∧
    decodeC false (wordM 0 0x30 0 (opsCE 1 0 2 3 0 0 0)) 0 = .ok (.sset (headC false 0 false) ⟨1, 0, 2, 3, 0, 0, .short 0⟩) ∧
    decodeC false (wordM 0 0x31 0 (opsCE 1 0 2 0 0 0 0)) 0 = .ok (.sins (headC false 0 false) ⟨1, 0, 2, 0, 0, 0, .short 0⟩) ∧
    decodeC false (wordM 0 0x32 0 (opsCE 1 0x28 2 3 0 0x40 3)) 0 = .ok (.ssel (headC false 0 false) ⟨1, 0x28, 2, 3, 0, 0x40, .short 3⟩) ∧
    decodeC false (wordM 0 0x33 0 (opsCE 1 0 2 0 0 0 255)) 0 = .ok (.sage (headC false 0 false) ⟨1, 0, 2, 0, 0, 0, .short 255⟩) ∧
    decodeC false (wordM 0 0x34 0 (opsCE 1 0 2 3 0 0 0)) 0 = .ok (.sdel (headC false 0 false) ⟨1, 0, 2, 3, 0, 0, .short 0⟩) ∧
    decodeC false (wordM 0 0x35 0 (opsCE 1 0 2 0 0 0 0x1FF)) 0 = .ok (.smig (headC false 0 false) ⟨1, 0, 2, 0, 0, 0, .short 0x1FF⟩) ∧
    decodeC false (wordM 0 0x36 0 (opsCE 1 0 2 3 0 0 0)) 0 = .ok (.pgap (headC false 0 false) ⟨1, 0, 2, 3, 0, 0, .short 0⟩) ∧
    decodeC false (wordM 0 0x37 0 (opsCE 1 0 2 0 0 0x40 0)) 0 = .ok (.plan (headC false 0 false) ⟨1, 0, 2, 0, 0, 0x40, .short 0⟩) := by
  decide

theorem test_decode_stack_words :
    decodeK (wordK 0x00 255 []) = .ok (.knop 255) ∧
    decodeK (wordK 0x01 1 [(0xABC, 38), (31, 32), (33, 26)]) = .ok (.kact 1 0xABC 31 33) ∧
    decodeK (wordK 0x02 2 [(3, 48), (15, 38), (0xFFFFFF, 14), (9, 0)]) = .ok (.krd 2 ⟨3, 15, 0xFFFFFF⟩ 9) ∧
    decodeK (wordK 0x03 2 [(1, 48), (0, 38), (5, 14), (15, 0)]) = .ok (.kwr 2 ⟨1, 0, 5⟩ 15) ∧
    decodeK (wordK 0x04 0 [(3899, 0)]) = .ok (.kpre 0 3899) ∧
    decodeK (wordK 0x05 0 [(1, 48), (1023, 38), (7, 14), (1, 13), (0xFFF, 0)]) = .ok (.kmac8 0 ⟨1, 1023, 7⟩ true 0xFFF) ∧
    decodeK (wordK 0x06 0 [(1, 48), (9, 38), (7, 14), (0x123, 0)]) = .ok (.kmac4 0 ⟨1, 9, 7⟩ 0x123) ∧
    decodeK (wordK 0x07 0 [(1, 48), (4, 14), (2, 0)]) = .ok (.kdq 0 1 4 2) ∧
    decodeK (wordK 0x08 0 [(2, 48), (3, 38), (4, 14), (2, 12), (1, 11), (3, 9)]) = .ok (.kexp 0 ⟨2, 3, 4⟩ 2 true 3) ∧
    decodeK (wordK 0x0A 0 [(0, 48), (1, 47), (4064, 14)]) = .ok (.kacr 0 0 true 4064) ∧
    decodeK (wordK 0x0B 3 [(1, 0)]) = .ok (.kend 3 true) := by decide

/-- Reserved encodings of R294 to R305 are refused by name, and no neighbour takes them. -/
theorem test_reserved_words :
    decodeS (wordS 0 0x1F []) 0 = .error (.unassigned 0) ∧ decodeS (wordS 0 0x30 []) 0 = .error (.unassigned 0) ∧
    decodeS (wordS 0 0x00 [(1, 0)]) 0 = .error (.reserved 0) ∧ decodeS (wordS 0 0x26 [(5, 18)]) 0 = .error (.badField 0) ∧
    decodeS (wordS 0 0x15 [(6, 5)]) 0 = .error (.badField 0) ∧ decodeS (wordS 0 0x1B [(0x006, 0)]) 0 = .error (.badField 0) ∧
    decodeV false (wordV 0 0x17 0 0 []) 0 = .error (.unassigned 1) ∧ decodeV true (wordV 0 0x40 0 0 []) 0 = .error (.unassigned 2) ∧
    decodeV false (wordV 0 0x38 0 0 [(8, 4), (1, 8)]) 0 = .error (.reserved 1) ∧
    decodeM (wordM 0 0x02 0 []) = .error (.unassigned 3) ∧ decodeM (wordM 0 0x0D 0 [(1, 51)]) = .error (.reserved 3) ∧
    decodeC false (wordM 0 0x03 0 []) 0 = .error (.unassigned 4) ∧ decodeC true (wordM 0 0x38 0 []) 0 = .error (.unassigned 5) ∧
    decodeBundle (leBytes 2 1) = .error .badHeader ∧ decodeBundle (leBytes 2 0x8) = .error .badHeader ∧
    decodeBundle (leBytes 2 0x8004 ++ leBytes 4 0 ++ leBytes 4 0) = .error .badExtension ∧
    decodeBundle (leBytes 2 0x210) = .ok ⟨true, 1, none, none, none, none, none, none, 2⟩ := by decide

/-! ### An ill-formed term for each check -/

/-- Operands that are wrong in one field each. -/
def vr (d a b c : BitVec 6) (ty mod : BitVec 4) : VR := ⟨d, a, b, c, ty, mod⟩
def ce (ra rb rc : BitVec 5) (qual : BitVec 7) (imm : Imm 12) : CE := ⟨0, 0, ra, rb, rc, qual, imm⟩
def hv : VHead := headV false 0 false 0
def hk : VHead := headV false 0 true 0
def hm1 : VHead := headV false 0 false 1
def hc : CHead := headC false 0 false
def hck : CHead := headC false 0 true
def z12 : Imm 12 := .short 0
def x12 : Imm 12 := .ext 1

/-- No term of a list is well formed. -/
def allBad (l : List Instr) : Bool := l.all (fun i => !i.wf)

theorem wf_scalar : allBad [.cmp 0 1 2 3 4 6, .cmpi 0 1 2 3 7 (.short 0), .xcpS 0 6 0 0, .xcpS 0 0 32 0, .xcpS 0 1 64 0,
    .xcpS 0 2 64 0, .xcpS 0 4 16 0, .xcpS 0 5 16 0, .crd 0 1 0x006, .crd 0 1 0x00E, .crd 0 1 0x01D, .crd 0 1 0x088,
    .cwr 0 1 0xFFF, .waitVal 0 false 6 0 0 0 false, .waitVal 0 false 0 0 0 6 false, .tnext 0 0 0 0] = true := by decide

theorem wf_lane_moves : allBad [.xcpV hk 0 0 0 0, .xcpV hm1 0 0 0 0, .xcpV hv 0 7 0 0, .xcpV hv 0 3 0 1, .cmptV hk (vr 0 0 0 0 0 0),
    .cmptV hm1 (vr 0 0 0 0 0 0), .cmptV hv (vr 1 0 0 0 0 0), .cmptV hv (vr 0 0 0 1 0 0), .cmptV hv (vr 0 0 0 0 1 0),
    .cmptV hv (vr 0 0 0 0 0 1), .vld hv ⟨0, 1, false, 0, 0, 0⟩, .vld hv ⟨0, 0, true, 0, 0, 2⟩, .vld hv ⟨0, 0, true, 0, 1, 0⟩,
    .vld hv ⟨0, 0, true, 0, 0, 1⟩, .vst hv ⟨0, 1, false, 0, 0, 0⟩, .vst hv ⟨0, 0, true, 0, 0, 2⟩, .vst hv ⟨0, 0, true, 0, 0, 1⟩,
    .vst hv ⟨0, 0, true, 0, 1, 0⟩, .vgth hv ⟨0, 0, true, 0, 0, 0⟩, .vgth hv ⟨0, 0, false, 0, 4, 0⟩, .vgth hv ⟨0, 0, false, 0, 0, 1⟩,
    .vsct hv ⟨0, 0, true, 0, 0, 0⟩, .vsct hv ⟨0, 0, false, 0, 4, 0⟩, .vsct hv ⟨0, 0, false, 0, 0, 8⟩, .vsct hv ⟨0, 0, false, 0, 0, 2⟩,
    .vsct hv ⟨0, 0, false, 0, 1, 3⟩, .vsct hv ⟨0, 0, false, 0, 2, 5⟩, .vsct hv ⟨0, 0, false, 0, 2, 7⟩, .vrmg hv (vr 0 0 0 0 4 0),
    .vrmg hv (vr 0 0 0 0 5 2)] = true := by decide

theorem wf_float_lanes : allBad [.vadd hv (vr 0 0 0 0 3 0), .vadd hv (vr 0 0 0 0 0 2), .vadd hv (vr 0 0 0 1 0 0), .vsub hv (vr 0 0 0 0 5 0),
    .vsub hv (vr 0 0 0 0 0 2), .vsub hv (vr 0 0 0 1 0 0), .vmul hv (vr 0 0 0 0 9 0), .vmul hv (vr 0 0 0 0 0 2), .vmul hv (vr 0 0 0 1 0 0),
    .vfma hv (vr 0 0 0 0 3 0), .vfma hv (vr 0 0 0 0 0 2), .vmin hv (vr 0 0 0 0 4 0), .vmin hv (vr 0 0 0 0 0 1), .vmin hv (vr 0 0 0 1 0 0),
    .vmax hv (vr 0 0 0 0 4 0), .vmax hv (vr 0 0 0 0 0 1), .vmax hv (vr 0 0 0 1 0 0), .vabs hv (vr 0 0 0 0 3 0), .vabs hv (vr 0 0 0 0 0 1),
    .vabs hv (vr 0 0 1 0 0 0), .vneg hv (vr 0 0 0 0 3 0), .vneg hv (vr 0 0 0 0 0 1), .vneg hv (vr 0 0 0 1 0 0), .vrcp hv (vr 0 0 0 0 1 0),
    .vrcp hv (vr 0 0 0 0 0 1), .vrcp hv (vr 0 0 1 0 0 0), .vrsq hv (vr 0 0 0 0 1 0), .vrsq hv (vr 0 0 0 0 0 1), .vrsq hv (vr 0 0 1 0 0 0),
    .vexp2 hv (vr 0 0 0 0 1 0), .vexp2 hv (vr 0 0 0 0 0 1), .vexp2 hv (vr 0 0 0 1 0 0), .vlog2 hv (vr 0 0 0 0 1 0),
    .vlog2 hv (vr 0 0 0 0 0 1), .vlog2 hv (vr 0 0 0 1 0 0), .vcvt hv (vr 0 0 1 2 0 0), .vcvt hv (vr 0 0 0 16 0 0),
    .vcvt hv (vr 0 0 0 0 0 0), .vcvt hv (vr 0 0 0 9 0 0), .vcvt hv (vr 0 0 0 6 0 0), .vcvt hv (vr 0 0 0 2 0 8),
    .vcvt hv (vr 0 0 0 0 2 1)] = true := by decide

theorem wf_integer_lanes : allBad [.viadd hv (vr 0 0 0 0 0 0), .viadd hv (vr 0 0 0 0 5 4), .viadd hv (vr 0 0 0 1 5 0), .visub hv (vr 0 0 0 0 6 0),
    .visub hv (vr 0 0 0 0 5 4), .visub hv (vr 0 0 0 1 5 0), .vimul hv (vr 0 0 0 0 0 0), .vimul hv (vr 0 0 0 0 5 4), .vimul hv (vr 0 0 0 1 5 0),
    .vlogic hv (vr 0 0 0 0 0 0), .vlogic hv (vr 0 0 0 1 5 0), .vshl hv (vr 0 0 0 0 0 0), .vshl hv (vr 0 0 0 0 5 1), .vshl hv (vr 0 0 0 1 5 0),
    .vshr hv (vr 0 0 0 0 0 0), .vshr hv (vr 0 0 0 0 5 1), .vshr hv (vr 0 0 0 1 5 0), .vpopc hv (vr 0 0 0 0 0 0), .vpopc hv (vr 0 0 0 0 5 1),
    .vpopc hv (vr 0 0 1 0 5 0), .viota hv ⟨0, 0, 0, z12⟩, .viota hv ⟨0, 5, 1, z12⟩, .vmovi hv ⟨0, 3, 0, z12⟩, .vmovi hv ⟨0, 5, 2, z12⟩,
    .vcmp hv (vr 0 0 0 0 5 0), .vcmp hv (vr 0 0 0 0 0 7), .vcmp hv (vr 0 0 0 1 0 0), .vicmp hv (vr 0 0 0 0 0 0), .vicmp hv (vr 0 0 0 0 5 6),
    .vicmp hv (vr 0 0 0 1 5 0), .vselm hv (vr 0 0 0 0 6 0), .vselm hv (vr 0 0 0 8 0 0), .vselm hv (vr 0 0 0 0 0 1), .wlog hm1 (vr 0 0 0 0 0 0),
    .wlog hv (vr 0 0 0 0 1 0), .wlog hv (vr 8 0 0 0 0 0), .wlog hv (vr 0 8 0 0 0 0), .wlog hv (vr 0 0 8 0 0 0), .wlog hv (vr 0 0 0 1 0 0),
    .wcnt hv (vr 0 0 0 0 0 0), .wcnt hv (vr 0 8 0 0 8 0), .wcnt hv (vr 0 0 1 0 8 0), .wcnt hv (vr 0 0 0 0 8 2), .vbits hv (vr 0 0 0 0 6 0),
    .vbits hv (vr 8 0 0 0 0 0), .vbits hv (vr 0 0 0 8 0 0), .vbits hv (vr 0 0 0 0 0 1), .vrsum hv (vr 0 0 0 0 3 0), .vrsum hv (vr 0 0 0 0 0 1),
    .vrsum hv (vr 0 0 0 0 5 4), .vrsum hv (vr 0 0 1 0 0 0), .vrmax hv (vr 0 0 0 0 3 0), .vrmax hv (vr 0 0 0 0 0 2), .vrmax hv (vr 0 0 0 0 5 1),
    .vrmax hv (vr 0 0 0 1 0 0), .vperm hv (vr 0 0 0 0 6 0), .vperm hv (vr 0 0 0 0 0 1), .vbcst hv (vr 0 0 0 0 6 0), .vbcst hv (vr 0 0 0 0 0 1),
    .vbcst hv (vr 0 0 1 0 0 0), .vbcst hv (vr 0 0 0 16 0 0)] = true := by decide

theorem wf_banks_blocks_states : allBad [.ard hv ⟨0, 0, 17, 0, 8, 0⟩, .ard hv ⟨0, 0, 0, 129, 8, 0⟩, .ard hv ⟨0, 0, 0, 0, 8, 8⟩, .ard hv ⟨0, 0, 0, 0, 1, 0⟩,
    .ard hv ⟨0, 0, 0, 0, 0, 1⟩, .ard hv ⟨0, 0, 0, 0, 0, 2⟩, .awr hv ⟨0, 0, 17, 0, 8, 0⟩, .awr hv ⟨0, 0, 0, 129, 8, 0⟩, .awr hv ⟨0, 0, 0, 0, 8, 1⟩,
    .awr hv ⟨0, 0, 0, 0, 1, 0⟩, .zld hm1 0 0, .zst hm1 0 0, .vbmax hv (vr 1 0 0 0 0 0), .vbmax hv (vr 0 0 1 0 0 0), .vbmax hv (vr 0 0 0 0 1 0),
    .vbmax hv (vr 0 0 0 0 0 1), .vqsx hv (vr 0 0 1 0 0 0), .vqsx hv (vr 0 0 0 0 1 0), .vqsx hv (vr 0 0 0 3 0 0), .vqsx hv (vr 0 0 0 5 0 1),
    .vqsx hv (vr 0 0 0 8 0 2), .vqsx hv (vr 0 0 0 0 0 3), .vdqsx hv (vr 0 0 1 0 0 0), .vdqsx hv (vr 0 0 0 0 1 0), .vdqsx hv (vr 0 0 0 3 0 0),
    .vdqsx hv (vr 0 0 0 5 0 1), .vdqsx hv (vr 0 0 0 8 0 2), .vdqsx hv (vr 0 0 0 0 0 3), .vsigp hv (vr 0 0 1 0 0 0), .vsigp hv (vr 0 0 0 0 1 0),
    .vsigp hv (vr 0 0 0 0 0 1), .vsigp hv (vr 0 0 0 32 0 0), .vmaj hv (vr 0 0 1 0 7 0), .vmaj hv (vr 0 0 0 0 0 0), .vmaj hv (vr 0 0 0 0 7 1),
    .vmaj hv (vr 0 0 0 32 7 0), .vosm hv (vr 0 0 1 0 0 0), .vosm hv (vr 0 0 0 0 1 0), .vosm hv (vr 0 0 0 0 0 1), .vosf hv (vr 0 0 0 0 1 0),
    .vosf hv (vr 0 0 0 1 0 0), .vosf hm1 (vr 0 0 0 0 0 0), .vosf hv (vr 0 0 1 0 0 2), .vosf hv (vr 0 0 0 0 0 3), .vrope hv (vr 0 0 0 0 1 0),
    .vrope hv (vr 0 0 0 0 0 2), .vrng hv (vr 0 0 0 0 1 0), .vrng hv (vr 0 0 0 0 0 1), .vrng hv (vr 0 0 0 1 0 0)] = true := by decide

theorem wf_matrix_and_tree : allBad [.mrel (headM 0 false) 0 2, .mtld (headM 0 false) 8 0, .mtst (headM 0 false) 8 0,
    .mmul (headM 0 false) false false 4 0 0 0 0 0, .mmul (headM 0 false) false false 0 4 0 0 0 0, .mmul (headM 0 false) false false 0 0 8 0 0 0,
    .mclr (headM 0 false) 4, .tup (headM 0 false) 3 0 0 0 0, .tdn (headM 0 false) 3 0 0 0 0 0, .tmxp (headM 0 false) 3 0 0 0 0,
    .tcvt (headM 0 false) 2 0 0, .xcpM (headM 0 true) 0 0 0, .xcpM (headM 0 false) 0 1 0, .xcpM (headM 0 false) 0 4 16] = true := by decide

theorem wf_channels : allBad [.addC hck 0 0 (.imm 0), .addC hc 16 0 (.imm 0), .addC hc 0 16 (.imm 0), .addC hc 0 0 (.reg 16), .subC hck 0 0 (.imm 0),
    .subC hc 16 0 (.imm 0), .subC hc 0 16 (.imm 0), .subC hc 0 0 (.reg 16), .shlC hck 0 0 (.imm 0), .shlC hc 16 0 (.imm 0), .shlC hc 0 16 (.imm 0),
    .shlC hc 0 0 (.reg 16), .liC hck 0 0, .liC hc 16 0, .lihC hck 0 0, .lihC hc 16 0, .xcpC hck 0 0 0, .xcpC hc 16 0 0, .xcpC hc 0 0 32,
    .cmptC hck 0 0, .cmptC hc 16 0, .cmptC hc 0 16, .cpy hc (ce 16 0 0 0 z12), .cpy hc (ce 0 0 0 1 z12), .cpy hc (ce 0 0 1 0 z12),
    .cpy2 hc (ce 0 16 0 0 z12), .cpy2 hc (ce 0 0 0 4 z12), .cpyl hc (ce 0 0 16 0 z12), .cpyl hc (ce 0 0 0 1 z12), .put hc 0 0 0 24 0,
    .put hc 0 0 0 0 24, .give hc false 0 0, .give hc false 0 65, .take hc 0 0, .take hc 0 65] = true := by decide

theorem wf_commands : allBad [.atom hc (ce 16 0 0 0 z12), .atom hc (ce 0 0 0 0x40 z12), .atom hc (ce 0 0 0 6 z12), .atom hc (ce 0 0 0 0 x12),
    .atom hc (ce 0 0 0 0 (.short 0x200)), .atom hc (ce 0 0 0 0 (.short 7)), .atom hc (ce 0 0 1 0 (.short 0)), .sig hc (ce 0 16 0 0 z12),
    .sig hc (ce 0 0 0 8 z12), .sig hc (ce 0 0 0 0 x12), .sig hc (ce 0 0 1 0 z12), .sig hc (ce 0 0 0 0x10 z12), .sig hc (ce 0 0 0 0 (.short 2)),
    .fence hck (ce 0 0 0 0 z12), .fence hc (ce 0 0 0 7 z12), .fence hc (ce 0 0 0 0x10 z12), .fence hc (ce 1 0 0 0 z12), .fence hc (ce 0 1 0 0 z12),
    .fence hc (ce 0 0 1 0 z12), .fence hc (ce 0 0 0 0 (.short 1)), .coll hc (ce 16 0 0 0 z12), .coll hc (ce 0 0 0 6 z12),
    .coll hc (ce 0 0 0 0x20 z12), .coll hc (ce 0 1 0 0 z12), .coll hc (ce 0 0 1 0 z12), .coll hc (ce 0 0 0 0 x12), .cstk hc (ce 16 0 0 0 z12),
    .cstk hc (ce 0 0 0 1 z12), .cstk hc (ce 0 1 0 0 z12), .cstk hc (ce 0 0 1 0 z12), .cstk hc (ce 0 0 0 0 x12), .cstk hc (ce 0 0 0 0 (.short 512)),
    .pgft hc (ce 16 0 0 0 z12), .pgft hc (ce 0 0 0 1 z12), .pgft hc (ce 0 0 0 0 x12), .pgft hc (ce 0 0 0 0 (.short 128)), .preq hc (ce 1 0 0 0 z12),
    .preq hc (ce 0 1 0 0 z12), .preq hc (ce 0 0 1 0 z12), .preq hc (ce 0 0 0 1 z12), .preq hc (ce 0 0 0 0 x12), .preq hc ⟨16, 0, 0, 0, 0, 0, z12⟩,
    .wbk hc (ce 1 0 0 0 z12), .wbk hc (ce 0 1 0 0 z12), .wbk hc (ce 0 0 1 0 z12), .wbk hc (ce 0 0 0 1 z12), .wbk hc (ce 0 0 0 0 x12),
    .wbk hc ⟨16, 0, 0, 0, 0, 0, z12⟩, .mapr hck 0 0 0 0, .mapr hc 0 0 65 0, .mapr hc 0 0 0 16] = true := by decide

theorem wf_set_commands : allBad [.pmov hc (ce 16 0 0 0 z12), .pmov hc (ce 0 0 0 1 z12), .pmov hc (ce 0 0 0 0 (.short 1)), .sset hc (ce 16 0 0 0 z12),
    .sset hc (ce 0 0 0 1 z12), .sset hc (ce 0 0 1 0 z12), .sset hc (ce 0 0 0 0 x12), .sins hc (ce 16 0 0 0 z12), .sins hc (ce 0 0 0 1 z12),
    .sins hc (ce 0 1 0 0 z12), .sins hc (ce 0 0 1 0 z12), .sins hc (ce 0 0 0 0 x12), .ssel hc (ce 16 0 0 0 z12), .ssel hc (ce 0 0 0 1 z12),
    .ssel hc (ce 0 0 1 0 z12), .ssel hc (ce 0 0 0 0 x12), .sage hc (ce 16 0 0 0 z12), .sage hc (ce 0 0 0 1 z12), .sage hc (ce 0 1 0 0 z12),
    .sage hc (ce 0 0 1 0 z12), .sage hc (ce 0 0 0 0 x12), .sage hc (ce 0 0 0 0 (.short 256)), .sdel hc (ce 16 0 0 0 z12), .sdel hc (ce 0 0 0 1 z12),
    .sdel hc (ce 0 0 1 0 z12), .sdel hc (ce 0 0 0 0 x12), .sdel hc (ce 0 0 0 0 (.short 2)), .sdel hc (ce 0 1 0 0 (.short 1)),
    .smig hc (ce 16 0 0 0 z12), .smig hc (ce 0 0 0 1 z12), .smig hc (ce 0 1 0 0 z12), .smig hc (ce 0 0 1 0 z12), .smig hc (ce 0 0 0 0 x12),
    .smig hc (ce 0 0 0 0 (.short 512)), .pgap hc (ce 16 0 0 0 z12), .pgap hc (ce 0 0 0 1 z12), .pgap hc (ce 0 0 1 0 z12), .pgap hc (ce 0 0 0 0 x12),
    .plan hc (ce 16 0 0 0 z12), .plan hc (ce 0 0 0 1 z12), .plan hc (ce 0 1 0 0 z12), .plan hc (ce 0 0 1 0 z12), .plan hc (ce 0 0 0 0 x12)] = true := by
  decide

theorem wf_stack_words : allBad [.krd 0 ⟨0, 16, 0⟩ 0, .kwr 0 ⟨0, 16, 0⟩ 0, .kpre 0 3900, .kdq 0 0 0 3, .kexp 0 ⟨0, 0, 0⟩ 3 false 0,
    .kacr 0 1 true 4065, .kacr 0 0 true 4065] = true := by decide

/-! ### Small states -/

/-- A core that issues, held by instance 1. -/
def core0 : Core := { Core.idle 0 with run := true, exited := false, inst := 1, pc := 8 }

/-- An instance that runs on core 0. -/
def inst1 : Inst :=
  { Inst.unstarted ⟨false, 3, 7, 5, 1, false, false, 0, 0, 0, 0, 0, 0, 0, none⟩ 0 with
    id := 1, phase := .running, stages := 4, rows := 1, cols := 1, ldies := 1, held := [0] }

/-- A module with firmware, one instance and one core, changed as asked; core 0 issues. -/
def one (f : Core → Core) : State := { State.reset with fwUp := true, cores := [(0, f core0)], insts := [inst1], nuid := 1 }

/-- The next state, or the reset state. -/
def next (r : Host.Outcome State Fault Refusal) : State :=
  match r with
  | .next t => t
  | _ => State.reset

/-- What the issuing core has in flight after an instruction: slot, latency and effect. -/
def flight (i : Instr) (s : State) : List (Nat × Nat × Eff) :=
  ((next (exec i s)).core 0).pend.map (fun p => (p.slot, p.due - p.iss, p.eff))

/-! ### Single steps whose results the spec gives -/

/-- spec/13, example "three bundles in bytes". -/
theorem test_spec_bundles :
    decodeBundle [0x00, 0xC0, 0xA0, 0x20, 0x24, 0x00, 0x00, 0xC0, 0x20, 0x04, 0x80, 0x00] =
      .ok ⟨false, 0, some (.addReg 0 4 4 5 false false), some (.vadd hv ⟨1, 2, 3, 0, 0, 0⟩), none, none, none, none, 12⟩ ∧
    decodeBundle [0x00, 0x82, 0xFA, 0x3F, 0x00, 0x94] = .ok ⟨true, 0, some (.br 18 0x3FFA), none, none, none, none, none, 6⟩ ∧
    decodeBundle [0x04, 0x80, 0x00, 0x36, 0xE6, 0x00, 0xFF, 0x0F, 0x00, 0x00] =
      .ok ⟨false, 0, some (.andImm 0 6 6 (.ext 0xFFF)), none, none, none, none, none, 10⟩ := by decide

/-- spec/15 and spec/16, the examples of one select and of one `VOSM` in bits. -/
theorem test_spec_words :
    decodeC false 0x064040A043040003 0 = .ok (.ssel hc ⟨1, 40, 2, 3, 0, 0x40, .short 3⟩) ∧
    decodeV false 0x035128B00000 0 = .ok (.vosm hm1 ⟨10, 11, 0, 0, 0, 0⟩) := by decide

/-- The first step after reset runs the word that is placed where it fetches (R25, R61, R80): `LI s4, -1` is in flight, and
the core stands behind its six bytes. -/
theorem test_first_step :
    let t := next (step (State.reset.withFetchWord 32 (wordS 0 0x13 [(4, 16), (0x7FFF, 0)])))
    (t.core 0).pend.map (fun p => (p.slot, p.due, p.eff)) = [(0, 1, .reg .s 4 0xFFFFFFFFFFFFFFFF)] ∧ (t.core 0).pc = 6 := by decide

/-- R344: a zero divisor gives all ones, and −2^63 / −1 gives −2^63. -/
theorem test_div :
    flight (.divReg 0 1 2 3 true) (one fun c => { c with s := [(2, 5)] }) = [(0, 18, .reg .s 1 0xFFFFFFFFFFFFFFFF)] ∧
    flight (.divReg 0 1 2 3 false) (one fun c => { c with s := [(2, 0x8000000000000000), (3, 0xFFFFFFFFFFFFFFFF)] }) =
      [(0, 18, .reg .s 1 0x8000000000000000)] := by decide

/-- R89, R361: the sum of 2^63 − 1 and 1 wraps, and saturates with `.S`. -/
theorem test_add :
    flight (.addReg 0 1 2 3 false false) (one fun c => { c with s := [(2, 0x7FFFFFFFFFFFFFFF), (3, 1)] }) =
      [(0, 1, .reg .s 1 0x8000000000000000)] ∧
    flight (.addReg 0 1 2 3 false true) (one fun c => { c with s := [(2, 0x7FFFFFFFFFFFFFFF), (3, 1)] }) =
      [(0, 1, .reg .s 1 0x7FFFFFFFFFFFFFFF)] := by decide

/-- R325: an operand of 0 gives 64. -/
theorem test_clz :
    flight (.clzReg 0 1 2) (one id) = [(0, 1, .reg .s 1 64)] ∧
    flight (.clzReg 0 1 2) (one fun c => { c with s := [(2, 1)] }) = [(0, 1, .reg .s 1 63)] := by decide

/-- R70: with RB.S = 15, `s17` is the physical `s16`. -/
theorem test_rotation :
    flight (.li 0 17 (.short 1)) (one fun c => c.setCr 0x00A 15) = [(0, 1, .reg .s 16 1)] := by decide

/-- R71, R322: `LOOP` with a zero count branches forward by its offset. -/
theorem test_loop_zero : ((next (exec (.loop 0 1 2 5) (one id))).core 0).npc = 18 := by decide

/-- spec/09, example "one subtree, three passes". -/
def treeCore : Core :=
  { core0 with
    z := [(40, 0x40400000), (41, 0x3F000000), (42, 0xC0000000), (43, 0x3FA00000), (96, 0x3F800000)]
    shape := [(5, 0x00000003FFFE7F3F)], leaf := [(9, 0x0003000200010000)] }

/-- R222 to R226: the three results of the example: 2.75; the flows 0.5, 3.0, +0, 1.0; 1.5 and the path's word. -/
theorem test_tree :
    flight (.tup (headM 0 false) 0 100 5 9 40) (one fun _ => treeCore) = [(3, 12, .zs [(100, 0x40300000)])] ∧
    flight (.tmxp (headM 0 false) 0 120 5 9 40) (one fun _ => treeCore) = [(3, 12, .zs [(120, 0x3FC00000), (121, 0x01000000)])] ∧
    (flight (.tdn (headM 0 false) 0 104 96 5 9 40) (one fun _ => treeCore)).head? = some (3, 16, .zs ((List.range 16).map (fun j =>
      (104 + j, [0x3F000000, 0x40400000, 0, 0x3F800000].getD j 0)))) := by decide +kernel

/-- R247, R251, R252: the trap entry of a fault: stub mode, the handler's address and the trap registers. -/
theorem test_trap_entry :
    let s := one (fun c => { c with cyc := 9, flt := some ⟨7, 7, 0x12, 0, 0, false, 0x55, 2, false, 0, false, some 3⟩ })
    let c := (next (exec (.trapEntry 0) s)).core 0
    c.stub = true ∧ c.crv 0x048 = 2 ^ 31 + 0x12 ∧ c.crv 0x049 = 8 ∧ c.crv 0x04A = 2 ∧ c.crv 0x04C = 0x55 := by decide

/-- R115, R248: a write into a quarter that an engine owns is suppressed with `OWNERSHIP` (0x10). -/
theorem test_ownership :
    let s := one (fun c => { c with own := [(1, .engine)], pend := [⟨1, 0, 0, false, 8, .write 64 1 1⟩] })
    let t := next (exec .taskClockEdge s)
    t.mem = [] ∧ ((t.core 0).flt.map (fun f => (f.cause, f.data))) = some (0x10, 4096) := by decide

/-- R113, R114: a write takes place on its cycle, byte by byte. -/
theorem test_store :
    (next (exec .taskClockEdge (one fun c => { c with pend := [⟨1, 0, 0, false, 8, .write 64 0xBBAA 2⟩] }))).mem = [(4097, 0xBB)] := by
  decide +kernel

/-- R14, R273: `MODID` at reset. -/
theorem test_modid : State.reset.modid = 0x0200000F00000000 := by decide

/-- R12: a limit outside 2,000 W to 4,600 W is refused. -/
theorem test_power_limit :
    (next (exec (.mgmtWritePowerLimit ⟨false, 0, 0, 4, 1, leBytes 4 1975⟩) (one id))).powerLimit = 4600 ∧
    (next (exec (.mgmtWritePowerLimit ⟨false, 0, 0, 4, 1, leBytes 4 2000⟩) (one id))).powerLimit = 2000 := by decide

/-! ### States that meet the hypotheses of the statements

One theorem for each statement with hypotheses: concrete states and operands that meet those of every clause, at boundary
values of their ranges. -/

/-- The plain state: core 0 issues, and nothing is under way. -/
def w0 : State := one id

theorem clean_of {s : State} (h0 : s.errs = []) (h : VHead) (rs : List (BitVec 6)) : Claim.clean s h rs := by
  intro e he
  rw [h0] at he
  cases he

theorem cleanZ_of {s : State} (h0 : s.errs = []) (zs : List Nat) : Claim.cleanZ s zs := by
  intro e he
  rw [h0] at he
  cases he

theorem intact_of {s : State} (h0 : s.errs = []) : Claim.intact s := by
  intro e he
  rw [h0] at he
  cases he

/-- A result with its first part known. -/
theorem fst_eq {α β : Type} {p : α × β} {a : α} (h : p.1 = a) : p = (a, p.2) := by
  rw [← h]

/-- An access that succeeds. -/
def accOk {α β : Type} (p : Acc α × β) : Bool :=
  match p.1 with
  | .ok _ => true
  | _ => false

theorem acc_ok {α β : Type} {p : Acc α × β} (h : accOk p = true) : ∃ a b, p = (.ok a, b) := by
  obtain ⟨a, b⟩ := p
  cases a with
  | ok a => exact ⟨a, b, rfl⟩
  | err c d => cases h
  | wait => cases h

/-- The guard that is `p0` is true, and its negation false. -/
theorem witness_guard : w0.me.guard 0 = true ∧ w0.me.guard 16 = false := by decide

theorem witness_ScalarArithmeticIsExactAndNarrowedOnce : w0.me.guard 0 = true := by decide
theorem witness_DivisionHasAResultForEveryPair : w0.me.guard 0 = true := by decide
theorem witness_SelectChoosesByItsPredicate : w0.me.guard 0 = true := by decide
theorem witness_PredicateLogicTakesItsTable : w0.me.guard 0 = true ∧ (0 : BitVec 4) = 0 := by decide

/-- The last element of the core's own scratch, the first byte of the next core's, and the first address of no core. -/
theorem witness_ScalarAccessesFormTheirElement :
    let s (v : W64) := one fun c => { c with s := [(1, v)] }
    let own (v : W64) := ((s v).me.sreg 1).toNat < 2 ^ 30 ∧ ((s v).me.sreg 1).toNat / 2 ^ 18 = (s v).me.id
    (∀ v : W64, (s v).me.guard 0 = true) ∧ own 0x3FFF8 ∧ ¬ own 0x40000 ∧ ¬ own 0x40000000 :=
  ⟨fun _ => rfl, by decide, by decide, by decide⟩

/-- A region of containment. -/
def reg1 (n : Nat) : Crgn := ⟨n, 64, false, []⟩

/-- A held command that belongs to a region of a depth. -/
def cmd1 (k : CmdKind) (start depth : Nat) : Cmd :=
  { uid := 1, kind := k, ret := false, rel := false, acq := false, scope := 0, start := start, iss := 0, baddr := 8
    depth := depth, phase := .held, done := 0, n := 1, crc := 0xFFFFFFFF, qset := [], blk := [], ent := none }

/-- A copy from one host row to row 0 of the core's own scratch. -/
def copy1 : CmdKind := .cpy 0x8000000000000000 0x1000 1 none

theorem witness_EndsTrapsAndRegions :
    w0.me.guard 0 = true ∧ w0.me.stub = false ∧ w0.me.flt = none ∧
    (one fun c => { c with stub := true }).me.stub = true ∧
    (one fun c => { c with crgn := [reg1 1, reg1 2, reg1 3] }).me.crgn.length < 4 ∧
    4 ≤ (one fun c => { c with crgn := [reg1 1, reg1 2, reg1 3, reg1 4] }).me.crgn.length ∧
    (let s := one fun c => { c with crgn := [reg1 1] }
     s.me.crgn = reg1 1 :: [] ∧ s.me.stall = none ∧ ([] : List Crgn).length + 1 ∉ s.engineWork s.cur) ∧
    (let s := one fun c => { c with crgn := [reg1 1], c0 := { c.c0 with cmds := [cmd1 copy1 90 1] } }
     s.me.crgn = reg1 1 :: [] ∧ s.me.stall = none ∧ ([] : List Crgn).length + 1 ∈ s.engineWork s.cur) ∧
    w0.me.crgn = [] := by decide +kernel

theorem witness_FloatLanesRoundOnce :
    w0.me.guard hv.g = true ∧ ((vr 1 2 3 4 0 1).ty = 0 ∧ (vr 1 2 3 4 1 1).ty = 1 ∧ (vr 1 2 3 4 2 1).ty = 2) ∧
    Claim.clean w0 hv [2, 3, 4] := ⟨rfl, ⟨rfl, rfl, rfl⟩, clean_of rfl _ _⟩

theorem witness_BlocksAndSignatures :
    w0.me.guard hv.g = true ∧ Claim.clean w0 hv [2] ∧ 2 * 18 + 18 ≤ 64 ∧ 4 * 12 + 12 ≤ 64 ∧ 7 * 8 + 8 ≤ 64 ∧
    (0 : BitVec 4).toNat % 4 ≤ 2 ∧ (1 : BitVec 4).toNat % 4 ≤ 2 ∧ (2 : BitVec 4).toNat % 4 ≤ 2 := 
  ⟨rfl, clean_of rfl _ _, by decide, by decide, by decide, by decide, by decide, by decide⟩

/-- `p0` with its negation, on an operation that cannot stall and on one that can. -/
theorem witness_FalseGuardHasNoEffect :
    (∀ i ∈ [Instr.addReg 16 1 2 3 false false, .waitOwn 16 63, .mclr ⟨16, false, ⟨0, 0, 0⟩⟩ 7, .ssel ⟨true, 16, false, ⟨0, 0, 0⟩⟩ (ce 1 2 3 0 z12)],
      Claim.guardOf i = some 16 ∧ (Claim.stalls i = true → w0.me.stall = none)) ∧
    w0.me.rdP (w0.me.phP ((16 : BitVec 5).toNat % 16)) = (16 : BitVec 5).getLsbD 4 := by decide

/-- A tile of 16 rows that ends with scratch, one that leaves it at the top, and one below row 0. -/
theorem witness_TensorOperationsIssue :
    let s := one fun c => c.setCr 0x010 (16 * 8 + 256)
    let rows := ((Sparse.get 0 s.me.cr 0x010).extractLsb' 3 5).toNat
    let h (a : Int) : MHead := ⟨0, true, ⟨a, 0, 0⟩⟩
    s.me.guard 0 = true ∧ rows = 16 ∧ ((4080 : BitVec 12).toNat : Int) + (h 0).st.a = (4080 : Nat) ∧ 4080 + rows ≤ 4096 ∧
    (4096 : Int) < (4080 : BitVec 12).toNat + (h 1).st.a + rows ∧ (((0 : BitVec 12).toNat : Int) + (h (-1)).st.a < 0) := by decide

/-- A full queue, a start that is not later than the cycle, one that is not later than the last command's; a destination in
the current half; a command that is accepted; an expander's source in the host's memory, and a misaligned source. -/
theorem witness_ChannelsAcceptInOrder :
    let c := w0.core 0
    let m := cmd1 copy1 1 0
    let late (q : Chan) (m : Cmd) : Prop := 8 ≤ q.cmds.length ∨ m.start ≤ c.cyc ∨ ∃ l ∈ q.cmds.getLast?, m.start ≤ l.start
    c.flt = none ∧ late { Chan.idle with cmds := List.replicate 8 m } { m with start := 99 } ∧ late Chan.idle { m with start := 0 } ∧
    late { Chan.idle with cmds := [m] } { m with start := 1 } ∧ ¬ late c.c0 m ∧
    (cmd1 (.cpy 0xC000000000000000 0x1000 1 none) 1 0).kind.halves c.id = some c.half ∧
    c.ownRefusal m.kind = false ∧ c.operandsOk m.kind = true ∧ w0.xFar 0 m.kind = false ∧
    (let d := (one fun c => { c with crgn := [reg1 2, { reg1 1 with named := [3] }] }).core 0
     let n (i : Nat) : CmdKind × Nat := (copy1, i)
     d.flt = none ∧ d.crgn[0]? = some (reg1 2) ∧ d.crgn[1]? = some { reg1 1 with named := [3] } ∧ 0 + (n 2).2 = d.crgn.length ∧
       1 + (n 1).2 = d.crgn.length ∧ 0 ∈ (cmd1 (.cpy 0x1000 0x8000000000000000 1 none) 0 2).names 0) ∧
    (let far : CmdKind := .cpy 0x8000000000000000 0x1000 1 (some 0)
     c.ownRefusal far = false ∧ w0.xFar 0 far = true) ∧
    (let odd : CmdKind := .cpy 0x8000000000000000 0x1001 1 none
     c.ownRefusal odd = false ∧ c.operandsOk odd = false) := by decide +kernel

theorem next_of {r : Host.Outcome State Fault Refusal} (h : (match r with | .next _ => true | _ => false) = true) : r = .next (next r) := by
  cases r with
  | next s => rfl
  | fault f => cases h
  | refused f => cases h

/-- A scalar word alone in a bundle at core 0, whose turn it is. -/
def fetched (i : Instr) (f : Core → Core) : State :=
  (State.reset.withFetchWord ((encode i).getD (0, 0)).1 ((encode i).getD (0, 0)).2).onCore 0 f

/-- The bundle of one scalar word of 32 bits. -/
def alone (i : Instr) : Bundle := ⟨false, 0, some i, none, none, none, none, none, 6⟩

/-- The empty bundle. -/
def empty0 : Bundle := ⟨false, 0, none, none, none, none, none, none, 2⟩

/-- A lane at its last word. -/
def lane0 : Lane := { Lane.idle with phase := .running, prog := [(255, BitVec.ofNat 64 ((encode (.kend 0 true)).getD (0, 0)).2)], idx := 255 }

/-- A compare whose two predicates are the same. -/
def same : Instr := .cmp 0 1 1 2 3 0

/-- An event; a module without power; an empty bundle; `LI`; a `WAIT.CYC` that does not hold; a word that a check
stops; a word with no meaning; a `WAIT.CYC` that does not hold before a word with no meaning; the last word of a lane. -/
theorem witness_StepRunsTheDecodedInstruction :
    (let s := { State.reset with inbox := [.modulePowerUp] }
     s.inbox = .modulePowerUp :: [] ∧ isEvent .modulePowerUp = true) ∧
    (let s := { State.reset with power := false }
     s.inbox = [] ∧ s.power = false) ∧
    (let s := State.reset.withFetchWord 16 0
     Claim.turnOf s 0 [] ∧ s.resumable 0 = false ∧ Claim.fresh (s.core 0) ∧ Claim.fetches s 0 empty0 ∧
       (bundleWords empty0).all (·.isNone) = true) ∧
    (let s := fetched (.li 0 4 (.short 5)) id
     let b := alone (.li 0 4 (.short 5))
     Claim.turnOf s 0 [] ∧ s.resumable 0 = false ∧ Claim.fresh (s.core 0) ∧ Claim.fetches s 0 b ∧
       (bundleWords b).all (·.isNone) = false ∧ Claim.passes (s.core 0) b ∧
       ∃ u t, Claim.runs b.s.toList (Claim.begins { s with turn := [], cur := 0 } 0 b) u ∧ (u.core 0).stall = none ∧
          Claim.runs (Claim.engineWords b) u t ∧ (t.core 0).rlen = 0) ∧
    (let s := fetched (.waitCyc 0 1) (fun c => { c with s := [(1, 5)] })
     let b := alone (.waitCyc 0 1)
     Claim.turnOf s 0 [] ∧ s.resumable 0 = false ∧ Claim.fresh (s.core 0) ∧ Claim.fetches s 0 b ∧ b.s = some (.waitCyc 0 1) ∧
       Claim.intact { s with turn := [], cur := 0 } ∧
       ∃ u, exec (.waitCyc 0 1) (Claim.begins { s with turn := [], cur := 0 } 0 b) = .next u ∧
          (u.core 0).stall = some (.cyc 5)) ∧
    (let s := fetched same id
     let b := alone same
     Claim.turnOf s 0 [] ∧ s.resumable 0 = false ∧ Claim.fresh (s.core 0) ∧ Claim.fetches s 0 b ∧
       (bundleWords b).all (·.isNone) = false ∧ ¬ Claim.passes (s.core 0) b ∧ (s.core 0).flt = none ∧
       ∃ u, Claim.runs b.s.toList (Claim.begins { s with turn := [], cur := 0 } 0 b) u ∧ (u.core 0).stall = none) ∧
    (let s := State.reset.withFetchWord 32 0x03E00000
     let bs := rdBytes s.mem (iscKey 0 (s.core 0).half (s.core 0).pc) (min 42 (16384 - (s.core 0).pc))
     Claim.turnOf s 0 [] ∧ s.resumable 0 = false ∧ (s.core 0).flt = none ∧ s.errs = [] ∧
       (∃ e, decodeBundle bs = .error e) ∧ ∀ i, Claim.heads bs i → Claim.stalls i = false) ∧
    (let s := { State.placeBundle State.reset 0 (leBytes 2 0x900F ++ leBytes 4 (wordS 0 0x26 [(4, 18), (1, 12)]) ++ leBytes 8 (wordM 0 0x3F 0 [])) with
       cores := [(0, { (State.placeBundle State.reset 0 []).core 0 with s := [(1, 5)] })] }
     let bs := rdBytes s.mem (iscKey 0 (s.core 0).half (s.core 0).pc) (min 42 (16384 - (s.core 0).pc))
     let s1 := { s with turn := [], cur := 0 }
     Claim.turnOf s 0 [] ∧ s.resumable 0 = false ∧ (s.core 0).flt = none ∧ s.errs = [] ∧ (∃ e, decodeBundle bs = .error e) ∧
       Claim.heads bs (.waitCyc 0 1) ∧ Claim.stalls (.waitCyc 0 1) = true ∧ (s.core 0).stall = none ∧
       ∃ u, exec (.waitCyc 0 1) (s1.setCore 0 { s.core 0 with npc := (s.core 0).pc + Claim.headLen bs, nhalf := (s.core 0).half }) =
         .next u ∧ (u.core 0).stall = some (.cyc 5)) ∧
    (let s := { State.reset with lanes := [(511, lane0)] }
     s.inbox = [] ∧ s.power = true ∧ s.urgent = none ∧ s.turn = [] ∧ s.waiting = [] ∧ s.flits = [] ∧ s.background = none ∧
       s.laneTurn = some 511 ∧
       s.laneWord 511 = some (.kend 0 true)) := by
  refine ⟨by decide, by decide, ?_, ?_, ?_, ?_, ?_, ?_, by decide +kernel⟩
  · unfold Claim.turnOf Claim.fresh Claim.fetches
    decide +kernel
  · refine ⟨?_, by decide +kernel, ?_, ?_, by decide, ?_,
      next (exec (.li 0 4 (.short 5)) (Claim.begins { fetched (.li 0 4 (.short 5)) id with turn := [], cur := 0 } 0 (alone (.li 0 4 (.short 5))))),
      next (exec (.li 0 4 (.short 5)) (Claim.begins { fetched (.li 0 4 (.short 5)) id with turn := [], cur := 0 } 0 (alone (.li 0 4 (.short 5))))),
      ⟨intact_of (by decide +kernel), _, next_of (by decide +kernel), rfl⟩, by decide +kernel, rfl, by decide +kernel⟩
    · unfold Claim.turnOf; decide +kernel
    · unfold Claim.fresh; decide +kernel
    · unfold Claim.fetches; decide +kernel
    · unfold Claim.passes; decide +kernel
  · refine ⟨?_, by decide +kernel, ?_, ?_, rfl, intact_of (by decide +kernel), _, next_of (by decide +kernel), by decide +kernel⟩
    · unfold Claim.turnOf; decide +kernel
    · unfold Claim.fresh; decide +kernel
    · unfold Claim.fetches; decide +kernel
  · refine ⟨?_, by decide +kernel, ?_, ?_, by decide, ?_, by decide +kernel, _,
      ⟨intact_of (by decide +kernel), _, next_of (by decide +kernel), rfl⟩, by decide +kernel⟩
    · unfold Claim.turnOf; decide +kernel
    · unfold Claim.fresh; decide +kernel
    · unfold Claim.fetches; decide +kernel
    · unfold Claim.passes; decide +kernel
  · refine ⟨?_, by decide +kernel, by decide +kernel, rfl, ⟨.unassigned 0, by decide +kernel⟩, fun i h => ?_⟩
    · unfold Claim.turnOf; decide +kernel
    · have h := h.2.2.2
      rw [show decodeS _ 0 = .error (.unassigned 0) from by decide +kernel] at h
      cases h
  · refine ⟨?_, by decide +kernel, by decide +kernel, rfl, ⟨.badHeader, by decide +kernel⟩, ?_, rfl, by decide +kernel,
      _, next_of (by decide +kernel), by decide +kernel⟩
    · unfold Claim.turnOf; decide +kernel
    · unfold Claim.heads; decide +kernel

/-- A fault of a depth: of the stub, of one that no region is left for; one that a region takes, first with a copy that has not
started, with a collective that has not been handed on, and with none, into a half that it may enter and into one that it may
not. -/
def flt1 (depth : Nat) : Flt := ⟨7, 7, 0x12, 0, 0, false, 0x55, 2, false, depth, false, some 3⟩

theorem witness_TrapEntrySavesAndEntersTheStub :
    ∀ d ∈ [0, 4],
      let s := one fun c => { c with cyc := 8, flt := some (flt1 d) }
      (s.core 0).run = true ∧ (s.core 0).flt = some (flt1 d) ∧ (s.core 0).stub = false ∧
        ((flt1 d).depth = 0 ∨ (s.core 0).crgn = []) ∧ Claim.entered (s.core 0) (flt1 d) := by
  unfold Claim.entered Claim.settled
  decide

theorem witness_ContainmentUnwindsToTheHandler :
    let s (w : Bool) (l : List Cmd) := one fun c => { c with
      cyc := 8, flt := some (flt1 4), crgn := [reg1 1], wrA := w, c0 := { c.c0 with cmds := l } }
    let hyp (s : State) := (s.core 0).run = true ∧ (s.core 0).flt = some (flt1 4) ∧ 1 = min (flt1 4).depth (s.core 0).crgn.length ∧
      0 < 1 ∧ (s.core 0).crgn[(s.core 0).crgn.length - 1]? = some (reg1 1) ∧ s.engUnstarted 0 1 = false
    let gone (m : Cmd) : Bool := decide (1 ≤ m.depth) &&
      (if m.kind.rows || m.kind == .fence then m.phase == .held && decide ((flt1 4).f < m.start) else m.phase != .handed)
    let coll := cmd1 (.coll 0x8000000000000000) 7 1
    (∀ w l, 0 ∉ (s w l).turn) ∧ (∀ m ∈ [cmd1 copy1 8 1, coll], hyp (s false [m]) ∧ m ∈ ((s false [m]).core 0).held ∧ gone m = true) ∧
    (∀ w ∈ [false, true], hyp (s w []) ∧ (∀ m ∈ ((s w []).core 0).held, gone m = false) ∧ Claim.entered ((s w []).core 0) (flt1 4) ∧
      (∀ d ∈ (s w []).engineWork 0, d < 1) ∧ ((s w []).core 0).target false = false ∧ ((s w []).core 0).written false = w) := by
  unfold Claim.entered Claim.settled
  exact ⟨fun _ _ => show 0 ∉ State.reset.turn by decide, by decide⟩

theorem killed_dec : ∀ ph ∈ [IPhase.ending 0, .vanish],
    let x := { inst1 with phase := ph }
    let s := { one id with insts := [x] }
    s.inst? 1 = some x ∧ ((∃ n, x.phase = .ending n) ∨ x.phase = .vanish) ∧
      ∃ j ∈ s.instCores 1, (s.core j).exited = false ∧ ¬ Claim.midst (s.core j) := by
  intro ph h
  rcases List.mem_pair.1 h with rfl | rfl
  · exact ⟨by decide, .inl ⟨0, rfl⟩, by unfold Claim.midst; decide⟩
  · exact ⟨by decide, .inr rfl, by unfold Claim.midst; decide⟩

/-- A core in its stub, and one of its instance in the midst of a repeated bundle; a core that has not stopped of an instance that
ends or is forgotten; a freeze at its end; injections into scratch, into the tree scratch and as marks; a wait that reads
a row of an engine's quarter. -/
theorem witness_KillsFreezesInjectionsAndWaitReads :
    (let m := cmd1 copy1 8 0
     let s := one fun c => { c with stub := true, cyc := 7, c0 := { c.c0 with cmds := [m] }, pend := [⟨8, 7, 4, false, 8, .accept false m⟩] }
     m.unstarted 0 7 = true ∧ s.inst? 1 = some inst1 ∧ inst1.alive = true ∧
       (∃ j ∈ s.instCores 1, (s.core j).stub = true ∧ ¬ Claim.midst (s.core j)) ∧
       let t := { s with cores := s.cores ++ [(1, { core0 with rep := 2 })] }
       (∃ j ∈ t.instCores 1, (t.core j).stub = true) ∧ ∃ j ∈ t.instCores 1, Claim.midst (t.core j)) ∧
    (∀ ph ∈ [IPhase.ending 0, .vanish],
      let x := { inst1 with phase := ph }
      let s := { one id with insts := [x] }
      s.inst? 1 = some x ∧ ((∃ n, x.phase = .ending n) ∨ x.phase = .vanish) ∧
        ∃ j ∈ s.instCores 1, (s.core j).exited = false ∧ ¬ Claim.midst (s.core j)) ∧
    ((one fun c => { c with freeze := 1 }).core 0).freeze = 1 ∧
    (∀ v ∈ [2 ^ 63 + 2 ^ 24 - 1, 2 ^ 63 + 4 * 2 ^ 58 + 5, 2 ^ 63 + 2 ^ 61 + 7, 2 ^ 63 + 2 * 2 ^ 61],
      let s := one fun c => { c with cyc := v % 2 ^ 24, cr := [(0x04E, BitVec.ofNat 64 v)] }
      let u := (Sparse.get 0 (s.core 0).cr 0x04E).toNat
      (s.core 0).run = true ∧ u.testBit 63 = true ∧ (s.core 0).cyc % 2 ^ 24 = u % 2 ^ 24) ∧
    ((2 ^ 63 + 2 ^ 24 - 1) / 2 ^ 61 % 4 = 0 ∧ (injWord (2 ^ 63 + 2 ^ 24 - 1)).1 = 0 ∧
      (2 ^ 63 + 4 * 2 ^ 58 + 5) / 2 ^ 61 % 4 = 0 ∧ (injWord (2 ^ 63 + 4 * 2 ^ 58 + 5)).1 = 4 ∧
      (2 ^ 63 + 2 ^ 61 + 7) / 2 ^ 61 % 4 ≠ 0 ∧ (2 ^ 63 + 2 * 2 ^ 61) / 2 ^ 61 % 4 ≠ 0) ∧
    (let a : W64 := 0x8000000000000FF8
     let s := one fun c => { c with stall := some (.val a 0 true 0 false 0), own := [(0, .engine)] }
     (s.core 0).run = true ∧ (s.core 0).stall = some (.val a 0 true (0 : BitVec 3).toNat false 0) ∧ (s.core 0).flt = none ∧
       (s.core 0).frozen = false ∧ (s.core 0).stopped = false ∧ 0 ≤ (s.core 0).cyc ∧ opndOf 0 a = some (.scr 0 0xFF8) ∧
       ∃ bs s1, s.engRead (s.who 0) false (.scr 0 0xFF8) 8 = (.ok bs, s1)) :=
  ⟨by unfold Claim.midst; decide, killed_dec, by decide, by decide +kernel, by decide, by decide, by decide, by decide, by decide, by decide, by decide, by decide,
    acc_ok (by decide +kernel)⟩

/-- The forms: with no slot armed, with a vector slot armed, and with two. -/
theorem witness_NopsAndEmptyBundles :
    (Claim.fresh w0.me ∧ Claim.passes w0.me empty0) ∧
    (let a : Armed := ⟨.vadd hk (vr 1 2 3 0 0 0), 3⟩
     let c := (one fun c => { c with armed := [(1, some a)] }).me
     c.armed = [(1, some a)] ∧ 1 ≤ 1 ∧ 1 ≤ 5 ∧ c.rlen = 0 ∧ c.stall = none ∧ kBit a.ins = true ∧ Claim.passes c empty0 ∧
       Claim.intact (one fun c => { c with armed := [(1, some a)] }) ∧ ∃ t, exec (withOff a.ins ⟨0, 0, 0⟩) ((one fun c => { c with armed := [(1, some a)] }).setCore 0
          { c with npc := c.pc + 2, nhalf := c.half, armed := [(1, some { a with j := a.j + 1 })] }) = .next t ∧ (t.core 0).rlen = 0) ∧
    (let l : List (Nat × Armed) := [(1, ⟨.vadd hk (vr 1 2 3 0 0 0), 3⟩), (2, ⟨.vadd (headV true 0 true 0) (vr 4 5 6 0 0 0), 0⟩)]
     let s := one fun c => { c with armed := l.map (fun e => (e.1, some e.2)) }
     s.me.armed = l.map (fun e => (e.1, some e.2)) ∧ l.Pairwise (fun a b => a.1 < b.1) ∧
       (∀ e ∈ l, 1 ≤ e.1 ∧ e.1 ≤ 5 ∧ kBit e.2.ins = true) ∧ s.me.rlen = 0 ∧ s.me.stall = none ∧ Claim.passes s.me empty0 ∧
       ∃ t, Claim.runs (l.map (fun e => withOff e.2.ins ⟨0, 0, 0⟩)) (s.setCore 0 { s.me with
         npc := s.me.pc + 2, nhalf := s.me.half, armed := l.map (fun e => (e.1, some { e.2 with j := e.2.j + 1 })) }) t ∧
         (t.core 0).rlen = 0) := by
  refine ⟨?_, ⟨rfl, by decide, by decide, rfl, rfl, rfl, ?_, intact_of rfl, _, next_of (by decide +kernel), by decide +kernel⟩,
    rfl, by decide, by decide, rfl, rfl, ?_, _, ⟨intact_of rfl, _, next_of (by decide +kernel), intact_of (by decide +kernel), _,
      next_of (by decide +kernel), rfl⟩, by decide +kernel⟩
  · unfold Claim.fresh Claim.passes; decide +kernel
  · unfold Claim.passes; decide +kernel
  · unfold Claim.passes; decide +kernel

/-- Waits on presentation; waits that name no barrier, a misaligned address, instruction scratch and no operand; each kind in
force; a stalled bundle with an engine word, whose condition holds on its cycle. -/
theorem witness_WaitsHoldAndRelease :
    (let x : Barr := ⟨0, 15, 0, 1, 0, true⟩
     let s := { one id with insts := [{ inst1 with bars := [x] }] }
     s.me.guard 0 = true ∧ s.me.stall = none ∧ s.me.flt = none ∧ s.barr? s.cur (15 : BitVec 4).toNat = some x ∧
       s.barr? s.cur (14 : BitVec 4).toNat = none ∧ s.me.guard 16 = false) ∧
    (let s := one fun c => { c with s := [(1, 0x8000000000000008)] }
     opndOf s.me.id (s.me.sreg 1) = some (.scr 0 8) ∧ (Opnd.scr 0 8).aligned (bif true then 8 else 4) = true ∧
       (Opnd.scr 0 8).isIsc = false) ∧
    (∀ e ∈ [((4 : W64) + 0x8000000000000000, some (Opnd.scr 0 4)), (0xC000000000000000, some (.isc 0 0)), (0x4000000000000000, none)],
      let s := one fun c => { c with s := [(1, e.1)] }
      opndOf s.me.id (s.me.sreg 1) = e.2 ∧
        ∀ p ∈ opndOf s.me.id (s.me.sreg 1), p.aligned (bif true then 8 else 4) = false ∨ p.isIsc = true) ∧
    (∀ st ∈ [Stall.own 63, .wp true 64, .cyc 9, .val 0 0 true 0 true 0, .val 0 0 true 0 false 0],
      (one fun c => { c with stall := some st }).me.stall = some st) ∧
    (let s := { State.placeBundle State.reset 0 (leBytes 2 0x9000 ++ leBytes 4 (wordS 0 0x26 [(4, 18), (1, 12)]) ++ leBytes 8 (wordM 0 0x0D 0 [(3, 43)])) with
       cores := [(0, { (State.placeBundle State.reset 0 []).core 0 with cyc := 5, stall := some (.cyc 5) })] }
     let b : Bundle := ⟨false, 0, some (.waitCyc 0 1), none, none, some (.mclr (headM 0 false) 3), none, none, 14⟩
     let s1 := Claim.begins { s with turn := [], cur := 0 } 0 b
     s.turn = 0 :: [] ∧ (s.core 0).issues = true ∧ (s.core 0).stall = some (.cyc 5) ∧ s.stallMet 0 (.cyc 5) = true ∧
       Claim.fetches s 0 b ∧ (s.core 0).armed = [] ∧ (s.core 0).rlen = 0 ∧ Claim.passes (s.core 0) b ∧ b.s = some (.waitCyc 0 1) ∧
       ∃ t, Claim.runs (Claim.engineWords b) (s1.setCore 0 { s1.core 0 with stall := none }) t ∧ (t.core 0).rlen = 0) := by
  refine ⟨by decide, by decide, by decide, by decide, by decide +kernel, by decide +kernel, by decide +kernel, by decide +kernel, ?_,
    by decide +kernel, by decide +kernel, ?_, rfl, _, ⟨intact_of (by decide +kernel), _, next_of (by decide +kernel), rfl⟩, by decide +kernel⟩
  · unfold Claim.fetches; decide +kernel
  · unfold Claim.passes; decide +kernel

/-- A declared barrier with no work and with some, and one that is not declared; a bound and an unbound queue, behind an open
and a closed gate. -/
theorem witness_BarriersAndQueues :
    (let x : Barr := ⟨0, 15, 0, 2304, 2303, true⟩
     let s (f : Core → Core) := { one f with insts := [{ inst1 with bars := [x] }] }
     (s id).me.guard 0 = true ∧ (s id).me.stall = none ∧ (s id).barr? (s id).cur (15 : BitVec 4).toNat = some x ∧
       (s id).engineWork (s id).cur = [] ∧
       (s fun c => { c with c0 := { c.c0 with cmds := [cmd1 copy1 9 0] } }).engineWork 0 ≠ [] ∧
       (s id).barr? (s id).cur (0 : BitVec 4).toNat = none ∧ (s id).me.flt = none) ∧
    (let s (b gate : W64) := one fun c => (c.setCr 0x005 b).setCr 0x03E gate
     let e (b : W64) : BitVec 8 := (Sparse.get 0 (s b 0).me.cr 0x005).extractLsb' 56 8
     let open' (g : W64) := (Sparse.get 0 (s 0 g).me.cr 0x03E).getLsbD 63 = true →
       ((Sparse.get 0 (s 0 g).me.cr 0x03E).extractLsb' 0 62).toNat ≤ (s 0 g).me.c0.wp
     (s 0 0).me.guard 0 = true ∧ (e 0xBF00000000000000).getLsbD 7 = true ∧ (e 0x7FFFFFFFFFFFFFFF).getLsbD 7 = false ∧
       open' 0 ∧ open' 0x8000000000000000 ∧ ¬ open' 0x8000000000000001) := by
  decide +kernel

theorem onlyEffect_of {s : State} {k : Nat} {p : Pend} (h : s.errs = [] ∧ s.cores.Pairwise (fun a b => a.1 ≠ b.1) ∧
    s.ticks (s.core k) = true ∧ (s.core k).pend = [p] ∧ (s.core k).owed = [] ∧ (s.core k).flt = none ∧ p.slot ≠ 6 ∧
    (∀ e ∈ s.cores, e.2.held = []) ∧ ∀ e ∈ s.cores, e.1 ≠ k → e.2.pend = [] ∧ e.2.owed = [] ∧ e.2.flt = none) :
    Claim.onlyEffect s k p := by
  obtain ⟨h1, h2, h3, h4, h5, h6, h7, h8, h9⟩ := h
  refine ⟨h1, h2, h3, h4, h5, h6, fun x hx => List.mem_singleton.mp hx ▸ h7, fun e he m hm => ?_, h9⟩
  rw [h8 e he] at hm
  cases hm

/-- An empty queue, and one whose oldest record of the highest priority is not the oldest record; the last row of a core; a full
queue and one with a free place; an address of another core, above scratch and on a die that is cleared; a row of an engine's
quarter; a record that lands in a quarter of each owner; and two cores of a die that pop and push on one edge. -/
theorem witness_QueuesPopAndPush :
    let x (pri : Nat) (v : Vec) : TRec := ⟨pri, v⟩
    let w (l : List TRec) : State := { w0 with dies := [(0, { Die.empty with queues := [(63, l)] })] }
    let mine (s : State) (k row : Nat) (a : W64) : Prop :=
      a.toNat = k * 2 ^ 18 + 64 * row ∧ row < 4096 ∧ a.toNat < 2 ^ 30 ∧ s.diemask.getLsbD (dieOf k) = true
    let p (slot : Nat) (e : Eff) : Pend := ⟨1, 0, slot, false, 8, e⟩
    let two := { w [x 1 5, x 3 6, x 3 7, x 2 8] with cores := [
      (0, { core0 with pend := [p 0 (.tnext 63 15 0x3FFC0)] }), (1, { core0 with id := 1, pend := [p 0 (.enq 63 3 15 0x40000)] })] }
    (Claim.popped (Claim.queue w0 0 63) none [] ∧ mine w0 0 4095 0x3FFC0 ∧ w0.errs = [] ∧
      Claim.popped (Claim.queue (w [x 1 5, x 3 6, x 3 7, x 2 8]) 0 63) (some (x 3 6)) [x 1 5, x 3 7, x 2 8]) ∧
    ((w0.core 0).owner (4095 / 64) = .core ∧ (w0.core 0).mapped (4095 / 64) = false ∧ (Claim.queue (w [x 0 0]) 0 63).length < 4096 ∧
      ¬ (Claim.queue (w (List.replicate 4096 (x 0 0))) 0 63).length < 4096) ∧
    ((w0.core 0).flt = none ∧ (0x40000 : W64).toNat / 2 ^ 18 ≠ 0 ∧ 2 ^ 30 ≤ (0x40000000 : W64).toNat ∧
      { w0 with diemask := 14 }.diemask.getLsbD (dieOf 0) = false) ∧
    (let c := (one fun c => { c with own := [(63, .engine)] }).core 0
     c.flt = none ∧ c.owner (4095 / 64) ≠ .core) ∧
    (∀ o ∈ [[], [(63, Owner.engine)]],
      let e := Eff.popRow 4095 5
      let s := one fun c => { c with pend := [p 0 e], own := o }
      Claim.onlyEffect s 0 (p 0 e) ∧ (p 0 e).due ≤ (Claim.ticked s 0).cyc ∧
        ((s.core 0).owner (4095 / 64) = .core ↔ o = []) ∧ (s.core 0).mapped (4095 / 64) = false) ∧
    (mine two 0 4095 0x3FFC0 ∧ mine two 1 0 0x40000 ∧ two.errs = [] ∧ 1 ≠ 0 ∧ dieOf 1 = dieOf 0 ∧
      two.cores.Pairwise (fun x y => x.1 ≠ y.1) ∧ (∀ e ∈ two.cores, e.2.held = []) ∧
      (∀ e ∈ two.cores, e.2.owed = [] ∧ e.2.flt = none ∧ (e.1 ≠ 1 → e.1 ≠ 0 → e.2.pend = [])) ∧
      two.ticks (two.core 0) = true ∧ two.ticks (two.core 1) = true ∧ (two.core 0).pend = [p 0 (.tnext 63 15 0x3FFC0)] ∧
      1 ≤ (two.core 0).cyc + 1 ∧ (two.core 1).pend = [p 0 (.enq 63 3 15 0x40000)] ∧ 1 ≤ (two.core 1).cyc + 1 ∧
      (two.core 1).owner (0 / 64) = .core ∧ (two.core 1).mapped (0 / 64) = false ∧
      Claim.popped (Claim.queue two 0 63) (some (x 3 6)) [x 1 5, x 3 7, x 2 8] ∧ [x 1 5, x 3 7, x 2 8].length < 4096) := by
  have pop (h : TRec) (a b : List TRec) (ha : ∀ y ∈ a, y.pri < h.pri) (hb : ∀ y ∈ b, y.pri ≤ h.pri) :
      Claim.popped (a ++ h :: b) (some h) (a ++ b) := .inr ⟨a, h, b, rfl, rfl, rfl, ha, hb⟩
  refine ⟨⟨.inl ⟨rfl, rfl, rfl⟩, by decide, rfl, pop ⟨3, 6⟩ [⟨1, 5⟩] _ (by decide) (by decide)⟩,
    ⟨by decide, by decide, by decide, ?_⟩, by decide, by decide, ?_,
    by decide, by decide, rfl, by decide, rfl, by decide, by decide, by decide, by decide, by decide, rfl, by decide, rfl, by decide,
    by decide, by decide, pop ⟨3, 6⟩ [⟨1, 5⟩] _ (by decide) (by decide), by decide⟩
  · show ¬ (List.replicate 4096 _).length < 4096
    rw [List.length_replicate]
    exact Nat.lt_irrefl 4096
  · intro o ho
    refine ⟨onlyEffect_of ?_, by decide +revert, by decide +revert, by decide +revert⟩
    revert o; decide +kernel

/-- A die whose TLB holds the grant of port 0 for the first 2^30 bytes of an ASID (R169, R171). -/
def granted (asid : Nat) : Die := { Die.empty with tlb := [⟨asid, 0, 30, 0, 0, some (false, ⟨0, 0, 30, true⟩), false⟩] }

/-- A module whose dies hold that grant for ASID 5, with memory as given besides. -/
def hosted (l : List Host.Cell) (f : State → State) : State :=
  f { one id with
      ports := [(0, { Port.zero with ats := true })], dies := (List.range 4).map (fun d => (d, granted 5))
      mem := (hbmKey 87, 0xC0) :: l }

/-- The launch of `inst1`, with its record at an address of the host. -/
def launch1 : Launch := { inst1.l with cmpl := 0x1000 }

/-- An image of one core with one empty bundle (R19 to R21), its CRC apart. -/
def image0 (crc : Nat) : List Byte :=
  leBytes 4 0x324C4D4B ++ leBytes 4 2 ++ leBytes 4 0x01010101 ++ leBytes 4 0 ++ leBytes 4 64 ++ leBytes 28 0 ++ leBytes 4 98 ++
  leBytes 4 0 ++ leBytes 4 crc ++ leBytes 4 0 ++ leBytes 4 0 ++ leBytes 4 0xFFFF ++ leBytes 4 96 ++ leBytes 4 2 ++ leBytes 16 0 ++
  leBytes 2 0

/-- The image with its CRC (R20). -/
def image1 : List Byte := image0 (crc32c ((image0 0).take 0x38 ++ (image0 0).drop 0x40))

/-- An image read that finds an image. -/
def imgOk (p : ImgRes × State) : Bool :=
  match p.1 with
  | .ok _ => true
  | _ => false

theorem img_ok {p : ImgRes × State} (h : imgOk p = true) : ∃ i s, p = (.ok i, s) := by
  obtain ⟨a, b⟩ := p
  cases a with
  | ok a => exact ⟨a, b, rfl⟩
  | bad => cases h
  | wait => cases h

theorem some_of {α : Type} {o : Option α} (h : o.isSome = true) : ∃ a, o = some a := by
  cases o with
  | none => cases h
  | some a => exact ⟨a, rfl⟩

/-- A boundary with one launch, its image in the host's memory. -/
def admits (b : List Byte) : State :=
  hosted [] (fun s => { s with boundary := true, cands := [launch1], mem := wrBytes s.mem (hostKey false 0) b })

/-- The launch with its record in a page of the host that no TLB holds. -/
def far1 : Launch := { launch1 with cmpl := 0x80001000 }

theorem wait_of {α β : Type} {p : Acc α × β} (h : (match p.1 with | .wait => true | _ => false) = true) : p = (.wait, p.2) := by
  obtain ⟨a, b⟩ := p
  cases a with
  | wait => rfl
  | ok a => cases h
  | err c d => cases h

/-- An image read that waits; a record that waits, of a launch that fails and of an instance that has ended; and a record that is
due. -/
theorem witness_LaunchesAreAdmitted_waits :
    (let s := { admits image1 with dies := [] }
     s.boundary = true ∧ s.reports = [] ∧ s.candOrder = [.fresh launch1] ∧ ∃ s1, s.readImage launch1 = (.wait, s1)) ∧
    (let s := { admits [] with cands := [far1] }
     s.boundary = true ∧ s.reports = [] ∧ s.candOrder = [.fresh far1] ∧ ∃ s1, s.readImage far1 = (.bad, s1) ∧ s1.reports = [] ∧
       ∃ s2, s1.wrOp far1.who false (.va far1.cmpl.toNat) (recordBytes (Inst.unstarted far1 s1.glob) 4 s1.glob) = (.wait, s2)) ∧
    (let x := { inst1 with l := far1, phase := .ending 1 }
     let s := hosted [] (fun s => { (s.onCore 0 (fun c => { c with exited := true })) with insts := [x] })
     let d : Report := ⟨far1.who, far1.cmpl, recordBytes x 1 s.glob, none⟩
     s.inst? 1 = some x ∧ (∀ k ∈ s.instCores 1, (s.core k).exited = true ∧ (s.core k).pend = [] ∧ (s.core k).flt = none ∧ s.engineWork k = []) ∧
       s.dueOf x.l.who = none ∧ d.word = recordBytes x 1 s.glob ∧ d.who = x.l.who ∧ d.addr = x.l.cmpl ∧ d.fault = none ∧
       ∃ s1, s.wrOp x.l.who false (.va x.l.cmpl.toNat) d.word = (.wait, s1)) ∧
    (let x := { inst1 with l := launch1, phase := .running }
     let s := hosted [] (fun s => { (s.onCore 0 (fun c => { c with exited := true })) with insts := [x] })
     let d : Report := ⟨launch1.who, launch1.cmpl, recordBytes x 0 77, none⟩
     let s2 := { s with reports := [d] }
     s2.dueOf x.l.who = some d ∧ s2.glob ≠ 77 ∧ (s2.wrOp x.l.who false (.va x.l.cmpl.toNat) d.word).1 = .ok () ∧
       (s2.wrOp x.l.who false (.va x.l.cmpl.toNat) d.word).2.instCores 1 = s2.instCores 1) := by
  refine ⟨⟨rfl, rfl, by decide +kernel, _, fst_eq (by decide +kernel)⟩, ⟨rfl, rfl, by decide +kernel, _, fst_eq (by decide +kernel), by decide +kernel,
    _, wait_of (by decide +kernel)⟩, ⟨rfl, by decide +kernel, by decide +kernel, rfl, rfl, rfl, rfl, _, wait_of (by decide +kernel)⟩, by decide +kernel⟩

/-- A record that waits is due with END of its first attempt, and that END is written. -/
theorem test_record_due :
    let x := { inst1 with l := far1, phase := .running }
    let s := hosted [] (fun s => { (s.onCore 0 (fun c => { c with exited := true })) with insts := [x], glob := 5 })
    let t := next (exec (.instanceRetire 1) s)
    t.reports.map (fun r => fieldAt r.word 0x18 8) = [5] ∧ t.inst? 1 = some x ∧
    fieldAt (rdBytes (next (exec (.instanceRetire 1)
      (hosted [] (fun s => { (s.onCore 0 (fun c => { c with exited := true })) with
        insts := [{ x with l := launch1 }], glob := 9
        reports := [⟨launch1.who, launch1.cmpl, recordBytes x 0 5, none⟩] })))).mem (hostKey false 0x1000) 64) 0x18 8 = 5 := by
  decide +kernel

/-- No candidate; a launch without an image; and one with a sound image, a placement and free queues. -/
theorem witness_LaunchesAreAdmitted :
    (let s := { one id with boundary := true }
     s.boundary = true ∧ s.reports = [] ∧ s.cands = [] ∧ ∀ i ∈ s.insts, i.phase ≠ .saved) ∧
    (let s := admits []
     s.boundary = true ∧ s.reports = [] ∧ s.candOrder = [.fresh launch1] ∧ s.readImage launch1 = (.bad, (s.readImage launch1).2) ∧
       (s.readImage launch1).2.reports = [] ∧
       let g := (s.readImage launch1).2.glob
       let x := Inst.unstarted launch1 g
       let r := recordBytes x 4 g
       x.l = launch1 ∧ x.faults = 0 ∧ x.start = g ∧ x.delay = min (g - launch1.tm) 0xFFFFFFFF ∧ x.preempts = 0 ∧ x.freezes = 0 ∧
         x.stWgt = 0 ∧ x.stHbm = 0 ∧ x.stHost = 0 ∧ x.stPeer = 0 ∧ Claim.isRecord r x 4 g ∧
         ∃ s2, (s.readImage launch1).2.wrOp launch1.who false (.va launch1.cmpl.toNat) r = (.ok (), s2)) ∧
    (∀ d ∈ [9, 10],
      let s := { admits image1 with debt := d }
      s.boundary = true ∧ s.reports = [] ∧ s.candOrder = [.fresh launch1] ∧ ∃ img s1, s.readImage launch1 = (.ok img, s1) ∧
        (placeAll s1.placeable img.rows img.cols img.ldies).isSome = true ∧ s1.debt = d ∧
        img.cores.map (fun c => (c.code.length, c.data.length)) = [(2, 0)] ∧
        ∃ f, s1.fit img.rows img.cols img.ldies img.queues = some f) ∧
    (launch1.hold = none ∧ { launch1 with hold := some 9 }.hold ≠ none ∧ 4600 ≤ (admits image1).powerLimit ∧
      { admits image1 with powerLimit := 4599 }.powerLimit < 4600) := by
  refine ⟨by decide, ⟨by decide, rfl, by decide +kernel, fst_eq (by decide +kernel), by decide +kernel, rfl, rfl, by decide +kernel, by decide +kernel, rfl,
    rfl, rfl, rfl, rfl, rfl, by unfold Claim.isRecord; decide +kernel, _, fst_eq (by decide +kernel)⟩, fun d hd => ?_,
    by decide, by decide, by decide, by decide⟩
  have h : imgOk ({ admits image1 with debt := d }.readImage launch1) = true := by revert d; decide +kernel
  have h1 : (match { admits image1 with debt := d }.readImage launch1 with
    | (.ok img, s1) => (placeAll s1.placeable img.rows img.cols img.ldies).isSome &&
        (decide (s1.debt = d) && (decide (img.cores.map (fun c => (c.code.length, c.data.length)) = [(2, 0)]) &&
        (s1.fit img.rows img.cols img.ldies img.queues).isSome))
    | _ => false) = true := by revert d; decide +kernel
  refine ⟨by revert d; decide +kernel, rfl, by revert d; decide +kernel, ?_⟩
  obtain ⟨i, s1, e⟩ := img_ok h
  rw [e] at h1
  simp only [Bool.and_eq_true, decide_eq_true_eq] at h1
  exact ⟨i, s1, e, h1.1, h1.2.1, h1.2.2.1, some_of h1.2.2.2⟩

/-- An instance that drains beside a saved one of some cores. -/
def pooled (n : Nat) : State :=
  { one (fun c => { c with stopped := true }) with
    insts := [{ inst1 with phase := .draining 9 }, { inst1 with id := 2, phase := .saved, cores := List.replicate n ⟨core0, [], [], []⟩ }] }

theorem pooled_fits (n : Nat) : (pooled n).poolFits 1 0 = decide (360448 * (n + 1) + 32768 ≤ Config.contextPool + 897597440) := by
  have h : (((pooled n).insts.filter (fun i => i.phase == .saved)).map (fun i => ctxBytes i.cores.length i.qsave.length)) =
      [ctxBytes (List.replicate n (⟨core0, [], [], []⟩ : SavedCore)).length 0] := rfl
  rw [State.poolFits, h, List.length_replicate, decide_eq_decide]
  simp only [List.sum_cons, List.sum_nil, ctxBytes, poolBytes]
  omega

/-- A group at a drain point, for both reasons; all groups stopped, for the debugger and for pre-emption, with room in the context
pool and without; a bound that is over. -/
theorem witness_DrainsStopSaveAndAbandon :
    let s (ph : IPhase) (f : Core → Core) := { one f with insts := [{ inst1 with phase := ph }] }
    (∀ ph ∈ [IPhase.draining 9, .forced],
      let s := s ph (fun c => { c with atDrain := true })
      s.inst? 1 = some { inst1 with phase := ph } ∧ (s.instCores 1).filter (fun k => (s.core k).gname == 0x10000) = [0] ∧
        (s.core 0).stopped = false ∧ (s.core 0).atDrain = true ∧ (s.core 0).exited = false ∧ (s.core 0).flt = none ∧
        (s.core 0).stub = false ∧ (s.core 0).pend = [] ∧ (s.core 0).owed = [] ∧ (s.core 0).c0.cmds = [] ∧
        (s.core 0).c1.cmds = [] ∧ 0 ∉ s.turn ∧ (s.core 0).freeze = 0) ∧
    (∀ ph ∈ [IPhase.draining 9, .forced],
      let s := s ph (fun c => { c with stopped := true })
      s.inst? 1 = some { inst1 with phase := ph } ∧ (∀ k ∈ s.instCores 1, (s.core k).stopped = true ∧ s.engineWork k = []) ∧
        ∃ s1, State.writeBackAll (s.instCores 1) (s.alignCyc (s.instCores 1)) = ((.ok (), none), s1) ∧
          s1.inst? 1 = some { inst1 with phase := ph } ∧ s1.instCores 1 = s.instCores 1) ∧
    (∀ n, (pooled n).inst? 1 = some { inst1 with phase := .draining 9 } ∧ (pooled n).instCores 1 = [0]) ∧
    (pooled 0).poolFits 1 0 = true ∧ (pooled (Config.contextPool + 2500)).poolFits 1 0 = false ∧
    (let s := { s (.draining 9) id with glob := 10 }
     s.inst? 1 = some { inst1 with phase := .draining 9 } ∧ 9 < s.glob ∧ ¬ Claim.midst (s.core 0)) ∧
    Claim.midst ((s (.draining 9) (fun c => { c with rep := 31 })).core 0) := by
  refine ⟨by decide +kernel, ?_, fun n => ⟨rfl, rfl⟩, ?_, ?_, by unfold Claim.midst; decide +kernel, by unfold Claim.midst; decide⟩
  · intro ph h
    simp only [List.mem_cons, List.not_mem_nil, or_false] at h
    obtain rfl | rfl := h
    · exact ⟨rfl, by decide +kernel, _, fst_eq (by decide +kernel), by decide +kernel, by decide +kernel⟩
    · exact ⟨rfl, by decide +kernel, _, fst_eq (by decide +kernel), by decide +kernel, by decide +kernel⟩
  · rw [pooled_fits]
    exact decide_eq_true (by omega)
  · rw [pooled_fits]
    exact decide_eq_false (by omega)

/-- A saved core of a saved instance. -/
def saved1 : Inst :=
  { inst1 with phase := .saved, held := [], l := launch1, cores := [⟨core0, [], [], []⟩], place := [(0, 5, 5, 7)], queues := 2 }

/-- The saved instance in its turn; one that has ended of itself and one that was killed; one that a reset took away. -/
theorem witness_InstancesResumeAndRetire :
    (let s := { State.reset with fwUp := true, insts := [saved1], boundary := true }
     s.boundary = true ∧ saved1.id = 1 ∧ s.inst? 1 = some saved1 ∧ ∃ p b, State.nextCand false s.candOrder s = (.resume saved1 p b, s)) ∧
    (∀ ph ∈ [IPhase.running, .ending 1],
      let x := { inst1 with l := launch1, phase := ph }
      let s := hosted [] (fun s => { (s.onCore 0 (fun c => { c with exited := true })) with insts := [x] })
      s.inst? 1 = some x ∧ (∀ k ∈ s.instCores 1, (s.core k).exited = true ∧ (s.core k).pend = [] ∧ (s.core k).flt = none ∧ s.engineWork k = []) ∧
        s.dueOf x.l.who = none ∧ let r := recordBytes x (if ph = .running then 0 else 1) s.glob
        Claim.isRecord r x (match x.phase with | .ending n => n | _ => 0) s.glob ∧
        (s.wrOp x.l.who false (.va x.l.cmpl.toNat) r).1 = .ok () ∧
        (s.wrOp x.l.who false (.va x.l.cmpl.toNat) r).2.instCores 1 = s.instCores 1) ∧
    (let s := { one (fun c => { c with exited := true }) with insts := [{ inst1 with phase := .vanish }] }
     s.inst? 1 = some { inst1 with phase := .vanish } ∧
       ∀ k ∈ s.instCores 1, (s.core k).exited = true ∧ (s.core k).pend = [] ∧ (s.core k).flt = none ∧ s.engineWork k = []) := by
  refine ⟨⟨rfl, rfl, rfl, ⟨0, [(0, 0, 0, 0)]⟩, [(0, 0, 0), (0, 1, 1)], by decide +kernel⟩, ?_, by decide⟩
  unfold Claim.isRecord
  decide +kernel

/-- A lane that waits for its phase; a hot stack at its refresh, without a lock-step word, with one for the first time and
with one for the second; and a postponed refresh whose stack is hot no more. -/
theorem witness_LanesStartAndStacksRefresh :
    (let s := { State.reset with lanes := [(511, { Lane.idle with phase := .loaded, startph := Claim.phase State.reset 0 })] }
     (s.laneAt 511).phase = .loaded ∧ Claim.phase s s.glob = (s.laneAt 511).startph) ∧
    (let g := 1950 + Config.refreshPhase 0 % 3900
     let s (l : Lane) (p : List Nat) := { State.reset with glob := g, hot := 0x80000000, lanes := [(496, l)], postponed := p }
     let at' (l : Lane) := { l with phase := .running, lock := g + 1 }
     let locked (s : State) (i : Nat) : Prop := i < 16 ∧ (s.laneAt (31 * 16 + i)).phase = .running ∧ s.glob < (s.laneAt (31 * 16 + i)).lock
     (s Lane.idle []).hot.getLsbD 31 = true ∧ Claim.phase (s Lane.idle []) g = 1950 ∧ Sparse.get 0 (s Lane.idle []).refAt 31 ≠ g + 1 ∧
       (∀ i, ¬ locked (s Lane.idle []) i) ∧ locked (s (at' Lane.idle) []) 0 ∧ 31 ∉ (s (at' Lane.idle) []).postponed ∧
       (∀ j, j < 0 → ¬ locked (s (at' Lane.idle) [31]) j) ∧ 31 ∈ (s (at' Lane.idle) [31]).postponed ∧
       ({ s (at' Lane.idle) [31] with hot := 0 }.hot.getLsbD 31 = false ∧ 31 ∈ { s (at' Lane.idle) [31] with hot := 0 }.postponed)) := by
  refine ⟨⟨rfl, rfl⟩, by decide, ?_, ?_, ?_, ?_, by simp, ?_, by simp, by simp⟩
  · simp only [Claim.phase, show State.reset.epoch = 0 from rfl]; omega
  · simp [State.reset, Sparse.get]
  · intro i ⟨hi, h, _⟩
    have : ∀ i < 16, (State.laneAt { State.reset with lanes := [(496, Lane.idle)] } (31 * 16 + i)).phase ≠ .running := by decide
    exact this i hi h
  · exact ⟨by decide, rfl, Nat.lt_succ_self _⟩
  · intro j hj; omega

theorem witness_BitwiseShiftsAndCounts : w0.me.guard 0 = true ∧ (∃ y, y = w0.me.sreg 31) ∧ ∃ y, y = Claim.sext (.ext 0x80000000 : Imm 9) :=
  ⟨rfl, ⟨_, rfl⟩, ⟨_, rfl⟩⟩

theorem witness_ImmediatesComparesAndChannelArithmetic : w0.me.guard 0 = true ∧ w0.me.guard hc.g = true := by decide

theorem witness_CrossMovesAndComparedTwins :
    w0.me.guard 0 = true ∧ w0.me.guard hc.g = true ∧ w0.me.guard hv.g = true ∧ w0.me.guard (headM 0 false).g = true ∧
    ((5 : BitVec 3).toNat ≤ 5 ∧ (0 : BitVec 3).toNat ≤ 5) ∧ Claim.clean w0 hv [63, 0] ∧ Claim.cleanZ w0 [511] :=
  ⟨rfl, rfl, rfl, rfl, by decide, clean_of rfl _ _, cleanZ_of rfl _⟩

/-- The ends of the privileged range, outside the stub, and a register of neither; the eight tile shapes. -/
theorem witness_ControlRegistersReadAndWritten :
    let priv (n : BitVec 12) : Prop := 0x080 ≤ n.toNat ∧ n.toNat ≤ 0x087
    w0.me.guard 0 = true ∧ priv 0x080 ∧ priv 0x087 ∧ w0.me.stub = false ∧ w0.me.flt = none ∧ ¬ priv 0x07F ∧ ¬ priv 0x088 ∧ 7 < 8 := by
  decide

/-- A count of 0 and one above; both loop counters 0, and either of them not. -/
theorem witness_BranchesLoopsAndRotation :
    let s (a lc ec : W64) := one fun c => { (c.setCr 0x008 lc).setCr 0x009 ec with s := [(1, a)] }
    let lc (s : State) := Sparse.get 0 s.me.cr 0x008
    let ec (s : State) := Sparse.get 0 s.me.cr 0x009
    (s 0 0 0).me.guard 0 = true ∧ (s 0 0 0).me.sreg 1 = 0 ∧ (s 1 0 0).me.sreg 1 ≠ 0 ∧ (lc (s 0 0 0) = 0 ∧ ec (s 0 0 0) = 0) ∧
    lc (s 0 1 0) ≠ 0 ∧ (lc (s 0 0 1) = 0 ∧ ec (s 0 0 1) ≠ 0) ∧ (0 < 2 ^ 64 - 1 ∧ 2 ^ 64 - 1 < 2 ^ 64 ∧ 0 < 8 ∧ 8 ≤ 8) := by decide

theorem witness_FunctionsAndConversions :
    w0.me.guard hv.g = true ∧ Claim.clean w0 hv [2] ∧ (vr 1 2 0 0 0 0).ty = 0 ∧
    ∀ o ∈ [vr 1 2 0 1 0 0, vr 1 2 0 0 1 4, vr 1 2 0 5 8 12, vr 1 2 0 8 5 3, vr 1 2 0 7 0 0, vr 1 2 0 4 8 0],
      (Instr.vcvt hv o).wf = true := ⟨rfl, clean_of rfl _ _, rfl, by decide⟩

/-- Arguments of each range of the tabled functions: NaNs of both signs, the limits of `VEXP2`, negative arguments, and the ends of
the ranges of powers of two. -/
theorem witness_FunctionsAndConversions_arguments :
    let nan (b : Nat) : Prop := b < 2 ^ 32 ∧ 0x7F800000 < b % 2 ^ 31
    nan 0x7F800001 ∧ nan 0xFFFFFFFF ∧ ¬ nan 0x7F800000 ∧ ¬ nan 0xFF800000 ∧
    (∀ b ∈ [0x43000000, 0x7F800000], b < 2 ^ 32 ∧ 0x43000000 ≤ b ∧ b ≤ 0x7F800000) ∧
    (∀ b ∈ [0xC3160001, 0xFF800000], b < 2 ^ 32 ∧ 0xC3160000 < b ∧ b ≤ 0xFF800000) ∧
    (∀ b ∈ [0x80000001, 0xFF800000], b < 2 ^ 32 ∧ 0x80000000 < b ∧ b ≤ 0xFF800000) ∧
    (∀ n ∈ [(-149 : Int), 127], -149 ≤ n ∧ n ≤ 127) ∧ (∀ n ∈ [(-127 : Int), 127], -127 ≤ n ∧ n ≤ 127) ∧
    (∀ n ∈ [(-149 : Int), -128], -149 ≤ n ∧ n < -127) ∧ ∀ n ∈ [(-74 : Int), 63], -74 ≤ n ∧ n ≤ 63 := by decide

theorem witness_IntegerLanesAndMasks :
    w0.me.guard hv.g = true ∧ Claim.clean w0 hv [2, 3] ∧ Claim.clean w0 hv [2] ∧
    (∀ t ∈ [(5 : BitVec 4), 7, 8], (vr 1 2 3 0 t 0).ty = 5 ∨ (vr 1 2 3 0 t 0).ty = 7 ∨ (vr 1 2 3 0 t 0).ty = 8) ∧
    (∀ t ∈ [(0 : BitVec 4), 1, 2], (vr 1 2 3 0 t 6).ty = 0 ∨ (vr 1 2 3 0 t 6).ty = 1 ∨ (vr 1 2 3 0 t 6).ty = 2) ∧
    ((⟨1, 5, 0, z12⟩ : VI).ty = (vr 1 2 3 0 5 0).ty ∧ (⟨1, 5, 0, z12⟩ : VI).mod.getLsbD 0 = false ∧
      (⟨1, 5, 1, z12⟩ : VI).mod.getLsbD 0 = true) ∧ (5 : BitVec 4).toNat % 8 ≤ 5 ∧ (6 : BitVec 4).toNat % 8 ≤ 6 ∧
    ((8 : BitVec 4) ≠ 6 ∧ (8 : BitVec 4).toNat ≤ 8) ∧ (0 : BitVec 4).getLsbD 0 = false ∧ (1 : BitVec 4).getLsbD 0 = true :=
  ⟨rfl, clean_of rfl _ _, clean_of rfl _ _, by decide, by decide, ⟨rfl, rfl, rfl⟩, by decide, by decide, by decide, rfl, rfl⟩

/-- Types of both kinds; a mask with no lane, with a NaN in its last lane, and with none. -/
theorem witness_ReductionsAndLaneMoves :
    w0.me.guard hv.g = true ∧ Claim.clean w0 hv [2, 3, 4] ∧ (∀ t ∈ [(0 : BitVec 4), 1, 2], t = 0 ∨ t = 1 ∨ t = 2) ∧
    (∀ t ∈ [(5 : BitVec 4), 7, 8], t = 5 ∨ t = 7 ∨ t = 8) ∧ ((8 : BitVec 4) ≠ 6 ∧ (8 : BitVec 4).toNat ≤ 8) ∧
    (let s (m : W64) (v : Vec) := one fun c => { c with w := [(1, m)], x := [(2, v)] }
     let h := hm1
     let act (m : W64) := (List.range 16).filter (Claim.active (s m 0) h)
     let z (v : Vec) (k : Nat) : Fp := (Fmt.ofTy 0).decode (Claim.el 32 ((s 0 v).me.vreg false 2) k)
     let nan : Vec := 0x7FC00000#512 <<< 480
     act 0 = [] ∧ 15 ∈ act 0x8000 ∧ (z nan 15).isNan = true ∧ (∀ k ∈ act 0xFFFF, k < 15 → (z nan k).isNan = false) ∧
       act 0xFFFF ≠ [] ∧ ∀ k ∈ act 0xFFFF, (z 0 k).isNan = false) :=
  ⟨rfl, clean_of rfl _ _, by decide, by decide, by decide, by decide +kernel⟩

/-- Addresses at both ends; a tensor whose scales stand in the last row of scratch, and one without scales. -/
theorem witness_VectorBankAndTreeAccesses :
    w0.me.guard hv.g = true ∧ Claim.clean w0 hv [2, 3] ∧ Claim.clean w0 hv [2] ∧
    ((⟨1, 0, 16, 0, 8, 4⟩ : VA).arow.toNat : Int) + hv.st.a = (16 : Nat) ∧
    (((⟨1, 0, 0, 0, 8, 0⟩ : VA).acol.toNat : Int) + (headV false 0 false 0).st.b = (0 : Nat)) ∧
    Claim.cleanZ w0 ((List.range 16).map (fun k => (511 + k) % 512)) ∧
    (let ent : W64 := BitVec.ofNat 64 (fields [(63, 6), (1, 12), (1, 19), (16, 35), (4095, 51), (1, 63)])
     let srow := ent.toNat / 2 ^ 51 % 2 ^ 12
     (7 : Nat).testBit 1 = true ∧ (5 : Nat).testBit 1 = false ∧ (16 ≤ 16 ∧ 128 ≤ 128) ∧ ttValid ent.toNat = true ∧ ttScv ent.toNat = true ∧
       ttScv 0 = false ∧ ∀ j < 16, srow + (0 + j) / 16 < 4096 ∧ Sparse.get .core (w0.core 0).own ((srow + (0 + j) / 16) / 64) = .core ∧
         (w0.core 0).mapped ((srow + (0 + j) / 16) / 64) = false) :=
  ⟨rfl, clean_of rfl _ _, clean_of rfl _ _, by decide, by decide, cleanZ_of rfl _, by decide +kernel⟩

/-- A poisoned state and one that is not, a fresh one; a maximum that is NaN, too large, too small for a fresh state, −∞, one that
raises RHO and one that keeps it; states to merge of which both, one and none hold a sum. -/
theorem witness_SoftMaximumRotationsAndRandomNumbers_states :
    let d (fl k : Nat) : Nat := if k = 11 then fl else 0
    let m (act : Nat → Bool) (x : Nat) : Fp := ((List.range 16).filter act).foldr (fun _ v => (d32 x).max v) (.inf true)
    let bad (fl : Nat) (m : Fp) : Bool := (d fl 11).testBit 1 || m.isNan || !m.lt (.fin false 1 31) ||
      ((d fl 11).testBit 0 && decide (m ≠ .inf true) && m.lt (.fin true 1 31))
    let all (_ : Nat) := true
    let up (m : Fp) : Bool := (Fp.int (Claim.int32 (d 0 8) + 8)).lt m
    (bad 2 (m all 0) = true ∧ bad 0 (m all 0x7FC00000) = true ∧ bad 0 (m all 0x4F000000) = true ∧ bad 1 (m all 0xCF000001) = true ∧
      bad 0 (m all 0xCF000001) = false) ∧
    (bad 0 (m (fun _ => false) 0) = false ∧ m (fun _ => false) 0 = .inf true) ∧
    (bad 1 (m all 0x3F800000) = false ∧ m all 0x3F800000 ≠ .inf true) ∧
    (bad 0 (m all 0x41100000) = false ∧ up (m all 0x41100000) = true) ∧ (bad 0 (m all 0x41000000) = false ∧ up (m all 0x41000000) = false) ∧
    (let flag (fl i : Nat) : Bool := (d fl 11).testBit i
     flag 2 1 = true ∧ (flag 1 1 = false ∧ flag 1 0 = true) ∧ (flag 0 1 = false ∧ flag 0 0 = false)) := by
  decide +kernel

/-- A group with no token and one with all; each form. -/
theorem witness_SoftMaximumRotationsAndRandomNumbers :
    let s (v : Vec) (m : W64) := one fun c => { c with x := [(1, v)], w := [(1, m)] }
    let poison (v : Vec) : Bool := (Claim.el 32 ((s v 0).me.vreg false 1) 11).testBit 1
    (s 0 0).me.guard hv.g = true ∧ poison (2#512 <<< 352) = true ∧ poison 0 = false ∧
    (∀ k < 16, Claim.active (s 0 0) hm1 k = false) ∧ Claim.active (s 0 0x8000) hm1 14 = false ∧
    ((vr 1 2 3 4 0 0).mod = 0 ∧ (vr 1 2 3 4 0 1).mod = 1 ∧ (vr 1 2 3 4 0 2).mod = 2) ∧ ((vr 1 2 3 4 8 0).ty = 8 ∧ (vr 1 2 3 4 0 0).ty = 0) ∧
    (s 0 0).errs = [] := by decide +kernel

/-- Rows that end with scratch, and rows that leave it at either end; the whole span, a span that leaves scratch, and quarters of each
owner. -/
theorem witness_ChannelFlipsAndOwnership :
    w0.me.guard hc.g = true ∧
    (let fits (r : Int) : Prop := 0 ≤ r ∧ r + ((15 : BitVec 4).toNat + 1) ≤ 4096
     fits 4080 ∧ fits 0 ∧ ¬ fits 4081 ∧ ¬ fits (-1)) ∧
    (let c (o : Owner) := (one fun c => { c with own := (List.range 64).map (fun q => (q, o)) }).core 0
     ((c .core).flt = none ∧ (c .core).exited = false ∧ (c .core).crgn = []) ∧
       0 + 64 ≤ 64 ∧ (∀ k < 64, (c .core).owner k = .core ∧ (c .core).mapped k = false) ∧
       (c .stat).owner 63 = .stat ∧ (c .engine).owner 0 ≠ .core ∧
       (∀ k < 64, (c .engine).owner k ≠ .stat ∧ (c .engine).mapped k = false ∧ (c .engine).namesQ k = false) ∧ 64 < 63 + 2) := by decide +kernel

/-- A slot that is bound, one that is not, and one whose quarters are dirty; a base that is misaligned and one beyond the device
half; a `PUT` to each kind of destination, with its reservation and without; rows of quarters of each owner. -/
theorem witness_ChannelFlipsAndOwnership_mapsAndPuts :
    (let c := (one fun c => { c with maps := [(1, some ⟨0, 4, 0x4000⟩), (7, some ⟨60, 4, 0⟩)], mdirty := 1 }).core 0
     c.flt = none ∧ Sparse.get none c.maps 0 = none ∧ Sparse.get none c.maps 1 = some ⟨0, 4, 0x4000⟩ ∧ 0 + 4 ≤ 64 ∧
       (0 ≤ 0 ∧ 0 < 0 + 4 ∧ c.mdirty.getLsbD 0 = true) ∧ Sparse.get none c.maps 7 = some ⟨60, 4, 0⟩ ∧ 60 + 4 ≤ 64 ∧
       (∀ i < 64, 60 ≤ i → ¬ (c.mdirty.getLsbD i = true ∨ c.filling i = true ∨ c.backing i = true)) ∧
       (4 + 60 ≤ 64 ∧ (2 ^ 57 - 4096 : W64).toNat < 2 ^ 57 ∧ (2 ^ 57 - 4096 : W64).toNat % 4096 = 0) ∧ ¬ 5 + 60 ≤ 64 ∧
       ¬ (2 ^ 57 : W64).toNat < 2 ^ 57 ∧ (2048 : W64).toNat % 4096 ≠ 0 ∧ c.mapped 60 = true ∧
       ∀ i < 60, 4 ≤ i → c.owner i = .core ∧ c.mapped i = false) ∧
    (let c : Core := { (one id).core 0 with grp := 2, own := [(0, .engine), (1, .stat), (2, .sched)] }
     let r : Resv := ⟨c.grp, c.ldie, c.lrow, c.lcol, 0, 1, 3, 128, 0⟩
     let s : State := { one id with cores := [(0, c), (1, { c with id := 1, lcol := 1 })], insts := [{ inst1 with sched := [r] }] }
     (s.core 0).flt = none ∧ s.errs = [] ∧ s.coreAt c.inst c.ldie 0 1 = some 1 ∧ s.coreAt c.inst c.ldie 0 0 = some 0 ∧
       s.coreAt c.inst c.ldie 0 2 = none ∧ sameGroup (s.core 0) (s.core 1) = true ∧ (1 : Nat) ≠ 0 ∧
       (∃ x, s.inst? c.inst = some x ∧ r ∈ x.sched) ∧ r ≠ { r with cyc := 1 } ∧
       (s.core 0).owner (63 / 64) = .engine ∧ (s.core 0).owner (64 / 64) = .stat ∧ (s.core 0).owner (128 / 64) = .sched ∧
       (s.core 0).owner (4095 / 64) = .core ∧ (s.core 0).mapped (128 / 64) = false ∧ (s.core 0).mapped (4095 / 64) = false ∧
       memWf s.mem = true) := by
  refine ⟨by decide +kernel, by decide, by decide, by decide, by decide, by decide, by decide, by decide, ⟨_, rfl, List.mem_singleton_self _⟩,
    by decide, by decide, by decide, by decide, by decide, by decide, by decide, by decide⟩

theorem witness_TreeOperations : w0.me.guard (headM 0 false).g = true ∧ Claim.cleanZ w0 (List.range 512) ∧
    (511 = (((511 : BitVec 9).toNat + (headM 0 false).st.b : Int) % 512).toNat) ∧ ((0 : BitVec 2) = 0 ∧ (1 : BitVec 2) ≠ 0) :=
  ⟨rfl, cleanZ_of rfl _, by decide, by decide, by decide⟩

/-- Plain, transposing and expanding copies; one that streams into scratch; the command words with a short immediate. -/
theorem witness_EngineWordsOfferCommands :
    let s := one fun c => { c with g := [(1, 0x8000000000000000), (2, 0x1000)] }
    let tx (q : BitVec 7) : Nat := (q.extractLsb' 4 2).toNat
    s.me.guard hc.g = true ∧ (0 : BitVec 7).getLsbD 3 = false ∧ (8 : BitVec 7).getLsbD 3 = true ∧
    (∃ p f, opndOf s.me.id (s.me.greg false 1 + BitVec.ofInt 64 hc.st.b) = some (.scr p f)) ∧
    tx 0 = 0 ∧ tx 48 = 3 ∧ tx 32 < 3 ∧ (ce 1 2 3 0 z12).imm = .short 0 ∧
    (¬ ((8 : BitVec 7).getLsbD 3 = false ∨ ∃ p f, opndOf s.me.id (s.me.greg false 2 + BitVec.ofInt 64 hc.st.b) = some (.scr p f)) ∧
      tx 16 = 1 ∧ tx 48 ≠ 0) := by
  refine ⟨rfl, rfl, rfl, ⟨0, 0, by decide⟩, rfl, rfl, by decide, rfl, ?_, rfl, by decide⟩
  rintro (h | ⟨p, f, h⟩)
  · cases h
  · have e : opndOf 0 0x1000 = some (.va 0x1000) := by decide
    exact absurd (e.symm.trans h) (by simp)

/-- Lane 511 at work at a refresh phase, with a base of 1 MiB at the top of the HBM and a scratch window over all of core
0's scratch, whose quarters an engine owns. -/
def stacked (ph : Nat) : State :=
  { one (fun c => { c with own := (List.range 64).map (fun q => (q, .engine)) }) with
    klane := 511, glob := ph + Config.refreshPhase 0 % 3900
    lanes := [(511, { Lane.idle with
      phase := .running, base := [2199022206976, 0, 0, 0], len := [1048576, 0, 0, 0], slen := 262144 })] }

theorem stacked_glob (ph : Nat) : (stacked ph).glob = ph + Config.refreshPhase 0 % 3900 := rfl
theorem stacked_epoch (ph : Nat) : (stacked ph).epoch = 0 := rfl
theorem stacked_base (ph : Nat) : (Claim.klane (stacked ph)).base.getD (0 : BitVec 2).toNat 0 = 2199022206976 := by simp [Claim.klane, stacked, State.laneAt, Sparse.find]
theorem stacked_len (ph : Nat) : (Claim.klane (stacked ph)).len.getD (0 : BitVec 2).toNat 0 = 1048576 := by simp [Claim.klane, stacked, State.laneAt, Sparse.find]

/-- `n` cycles from phase 240 on are free of the refresh, up to the next one. -/
theorem stacked_free (n : Nat) (h : n ≤ 3660) : Claim.free' (stacked 240) n := by
  intro i hi
  rw [Claim.phase, stacked_glob, stacked_epoch]
  omega

theorem stacked_bound (n : Nat) (h : 0 < n) : ¬ Claim.free' (stacked 0) n := by
  intro f
  have h0 := f 0 h
  rw [Claim.phase, stacked_glob, stacked_epoch] at h0
  omega

/-- `n` bytes that end with the base. -/
theorem stacked_in (off n : Nat) (h : off + n ≤ 1048576) (ph : Nat) : Claim.inBase (stacked ph) 0 off n (2199022206976 + off) := by
  rw [Claim.inBase, stacked_base, stacked_len]
  exact ⟨h, rfl⟩

/-- `g` is the first granule of the base's last 4,096 bytes, and it is uncorrectable. -/
def flawed (ph : Nat) : State := { stacked ph with errs := [⟨6, 31, 2147483520, true⟩] }

theorem flawed_first (ph : Nat) : Claim.firstBad (flawed ph) 2199023251456 (256 * 16) 2199023251456 := by
  refine ⟨by decide, by decide, by decide, rfl, fun h h1 h2 h3 => ?_⟩
  omega

/-- Words of a lane that are issued: rows at the end of the window and of the base, a source of four blocks, scales, the window's
last rows. -/
theorem witness_StackWordsIssueOrAbort :
    ((3899 : BitVec 12).toNat < 3900) ∧
    (64 * ((4095 : BitVec 12).toNat + ((0 : BitVec 6).toNat + 1)) ≤ (Claim.klane (stacked 0)).slen ∧
      ∃ rows, (stacked 0).windowRows (Claim.klane (stacked 0)) 4095 1 = (.ok rows, stacked 0)) ∧
    (15 + 1 ≤ 16 ∧ Claim.free' (stacked 240) 16 ∧ Claim.inBase (stacked 240) 0 1044480 (256 * 16) 2199023251456 ∧
      Claim.sound (stacked 240) 2199023251456 (256 * 16)) ∧
    ((2 : BitVec 2).toNat < 3 ∧ Claim.inBase (stacked 0) 0 (256 * 0) (4 * (512 / 32)) 2199022206976 ∧
      Claim.sound (stacked 0) 2199022206976 (4 * (512 / 32))) ∧
    ((0 : BitVec 2).toNat < 3 ∧ ∃ bs, expandBlocks (kexpSrc (Claim.klane (stacked 240)) 0 0) 0 false 0 4 (stacked 240) = (.ok bs, stacked 240)) ∧
    (Claim.inBase (stacked 0) 0 (256 * 0) 2048 2199022206976 ∧ (4064 : BitVec 24).toNat ≤ 4064 ∧
      64 * (4064 : BitVec 24).toNat + 2048 ≤ (Claim.klane (stacked 0)).slen ∧
      (stacked 0).windowOpen (Claim.klane (stacked 0)) (64 * 4064) 2048 = true) := by
  refine ⟨by decide, ⟨by decide, _, rfl⟩, ⟨by decide, stacked_free _ (by decide), stacked_in _ _ (by decide) _, fun _ _ _ e he => by cases he⟩,
    ⟨by decide, stacked_in _ _ (by decide) _, fun _ _ _ e he => by cases he⟩, ⟨by decide, _, rfl⟩,
    stacked_in _ _ (by decide) _, by decide, by decide, by decide +kernel⟩

/-- Words of a lane that abort its program: in a refresh window, out of a base or a window, on an uncorrectable granule, with a source
or a scratch window that cannot be accessed, with values out of range. -/
theorem witness_StackWordsIssueOrAbort_aborts :
    (¬ Claim.free' (stacked 0) 1 ∧ Claim.free' (stacked 240) 16 ∧ Claim.outBase (stacked 240) 0 1044481 (256 * 16)) ∧
    (Claim.free' (flawed 240) 16 ∧ Claim.inBase (flawed 240) 0 1044480 (256 * 16) 2199023251456 ∧
      Claim.firstBad (flawed 240) 2199023251456 (256 * 16) 2199023251456) ∧
    (Claim.free' (flawed 240) 1 ∧ (2 : BitVec 2).toNat < 3 ∧ 256 * 1 ≤ (Claim.klane (flawed 240)).len.getD 0 0 ∧
      ((Claim.klane (flawed 240)).base.getD 0 0 + 1044480) % 4096 = 0 ∧
      ∃ c x s1, expandBlocks (kexpSrc (Claim.klane (flawed 240)) 0 1044480) 2 false 0 4 (flawed 240) = (.err c x, s1) ∧
        s1.glob = (flawed 240).glob ∧ s1.epoch = (flawed 240).epoch ∧ s1.klane = (flawed 240).klane) ∧
    ((Claim.klane (stacked 0)).slen < 64 * ((4095 : BitVec 12).toNat + ((1 : BitVec 6).toNat + 1)) ∧
      (let s : State := { stacked 0 with lanes := [(511, { Claim.klane (stacked 0) with slen := 2047 })] }
       (Claim.klane s).slen < 64 * (0 : BitVec 24).toNat + 2048) ∧
      (let s : State := { stacked 0 with lanes := [(511, { Claim.klane (stacked 0) with sbase := 262144 })] }
       (0 : BitVec 24).toNat ≤ 4064 ∧ 64 * (0 : BitVec 24).toNat + 2048 ≤ (Claim.klane s).slen ∧
         s.windowOpen (Claim.klane s) (64 * 0) 2048 = false)) ∧
    (16 < (16 : BitVec 7).toNat + 1 ∧ 3900 ≤ (3900 : BitVec 12).toNat ∧ (2 : BitVec 2) ≠ 3 ∧ Claim.outBase (stacked 0) 1 (256 * 0) 16 ∧
      Claim.outBase (stacked 0) 0 1046529 2048 ∧ 4064 < (4065 : BitVec 24).toNat) := by
  refine ⟨⟨stacked_bound _ (by decide), stacked_free _ (by decide), ?_⟩,
    ⟨stacked_free 16 (by decide), stacked_in 1044480 4096 (by decide) 240, flawed_first _⟩,
    ⟨stacked_free 1 (by decide), by decide, by decide, by decide, _, _, _, rfl, rfl, rfl, rfl⟩,
    by decide +kernel, by decide, by decide, by decide, ?_, ?_, by decide⟩
  · show 1048576 < 1044481 + 256 * 16; decide
  · show 0 < 256 * 0 + 16; decide
  · show 1048576 < 1046529 + 2048; decide

/-- Each kind of effect alone in flight in a lane, at both ends of the buffer and the accumulators, with SAT and without. -/
theorem witness_StackWordsIssueOrAbort_rows :
    (∀ e ∈ [KEff.rdMac 0 256 false 4095, .rdMac 0 0 true 0, .rdBuf 0 3840, .rdOut 3840 0, .mac 256 false (List.replicate 256 1) (-128),
        .mac 0 true (List.replicate 256 1) 127, .buf 4095 [1, 2], .hbm 0 (List.replicate 256 1), .clear], ∀ sat ∈ [false, true],
      let p : KPend := ⟨0, 0, e⟩
      let l := { Lane.idle with phase := .running, sat := sat, pend := [p] }
      Claim.onlyLane { State.reset with lanes := [(511, l)] } 511 l p ∧ 0 ≥ l.lock) ∧
    (List.replicate 256 (1 : Byte)).length = 256 ∧ 256 + 256 ≤ 512 ∧ 0 + 512 ≤ 512 ∧ [(1 : Byte), 2].length ≤ 4096 :=
  ⟨fun _ _ _ _ => ⟨⟨rfl, rfl, rfl, rfl, rfl, rfl, rfl, fun _ => rfl⟩, Nat.le_refl 0⟩, List.length_replicate, by decide⟩

/-- Commands at their start cycle with their quarter given to the engine, too early after the last one, and with a quarter that the
core owns; a started `SAGE` whose set has a home that is there; rows of a copy, of a fill's last quarter, of a list that has not
been read, of an atomic and a signal; and commands whose rows are all delivered. -/
theorem witness_CommandsStartDeliverAndComplete :
    (∀ kind ∈ [copy1, .fence, .plan 0x8000000000000000, .coll 0x8000000000000000],
      let m := cmd1 kind 4 0
      let s (o : Owner) (l : Option (Nat × Nat)) := one fun c => { c with
        cyc := 4, own := [(0, o)], c0 := { c.c0 with cmds := [m], last := l } }
      ((s .engine none).core 0).run = true ∧ ((s .engine none).core 0).frozen = false ∧ ((s .engine none).core 0).stopped = false ∧
        (s .engine none |>.core 0).c0.cmds = [] ++ m :: [] ∧ m.phase = .held ∧ m.start ≤ ((s .engine none).core 0).cyc ∧
        (m.kind = copy1 ∨ m.kind = .fence ∨ m.kind.other = true)) ∧ (CmdKind.plan 0).reports = true ∧ (CmdKind.coll 0).reports = false ∧
    (CmdKind.half? 0 (.cpy 0xC000000000004000 0x8000000000000000 1 none)).isSome = true ∧
    (let m := cmd1 copy1 4 0
     let s (o : Owner) (l : Option (Nat × Nat)) := one fun c => { c with
       cyc := 4, own := [(0, o)], c0 := { c.c0 with cmds := [m], last := l } }
     let late (s : State) : Prop := ∃ l, (s.core 0).c0.last = some l ∧ m.start < l.1 + l.2
     let owned (s : State) : Prop := (m.kind.half? (s.core 0).id).isSome = true ∨ ∀ n ∈ m.names (s.core 0).id, n / 64 = (s.core 0).id → (s.core 0).owner (n % 64) = .engine
     ¬ late (s .engine (some (3, 1))) ∧ owned (s .engine none) ∧ late (s .engine (some (3, 2))) ∧ ¬ owned (s .core none)) ∧
    Claim.copies copy1 ∧ Claim.copies .fence ∧
    (let m := { cmd1 (.sage 0xFFFFFF 4095) 4 0 with phase := .running }
     let s := one fun c => { c with c0 := { c.c0 with cmds := [m] } }
     (s.core 0).c0.cmds = m :: [] ∧ m.phase = .running ∧ s.mustWait 0 false m = false ∧ s.reports = [] ∧
       s.dies.find? (fun d => d.2.setq.any (fun x => x.set == (0xFFFFFF : W64).toNat)) = none ∧
       ∃ e, s.setEnt (dieOf 0) (0xFFFFFF : W64).toNat = (.ok e, s) ∧ s.diemask.getLsbD e.home = true) ∧
    (let m := { cmd1 copy1 4 0 with phase := .running }
     let s := hosted [] (fun s => s.onCore 0 (fun c => { c with cyc := 4, own := [(0, .engine)], c0 := { c.c0 with cmds := [m] } }))
     let w := s.whoOf 0 false m
     Claim.goes (s.core 0) ∧ (s.core 0).c0.cmds = m :: [] ∧ m.phase = .running ∧ m.done < m.n ∧ m.start + m.done ≤ (s.core 0).cyc ∧
       s.mustWait 0 false m = false ∧ opndAt 0 0x8000000000000000 (64 * m.done) = some (.scr 0 0) ∧
       (∃ bs s1, s.rdMaybe w true (opndAt 0 0x1000 (64 * m.done)) 64 = (.ok bs, s1)) ∧
       (∃ s2, s.wrOp w true (.scr 0 0) (List.replicate 64 0) = (.ok (), s2)) ∧
       s.rdMaybe w true (opndAt 0 0x4000000000000000 (64 * m.done)) 64 = (.err 0x12 0, s) ∧
       (∃ old s1, s.atomGo w 0x1000 1 0 0 false true = (.ok old, s1)) ∧ (∃ old s1, s.sigGo w 0x1000 1 false true = (.ok old, s1)) ∧
       ((none : Option (Nat × W64)).map (·.1) ≠ some 0 ∧ ∃ bs s1, s.rdMaybe w true (opndAt 0 0x2000 (8 * 0)) 8 = (.ok bs, s1))) ∧
    (let m := { cmd1 (.preq 63 1) 4 0 with phase := .running, n := 64, done := 63 }
     let s := hosted [] (fun s => s.onCore 0 (fun c => { c with
       cyc := 99, own := [(63, .engine)], maps := [(0, some ⟨63, 1, 0x10000⟩)], c0 := { c.c0 with cmds := [m] } }))
     let w := s.whoOf 0 false m
     (∃ bs s1, s.rdOp w true (.va ((s.core 0).vaOf (63 + m.done / 64) + 64 * (m.done % 64))) 64 = (.ok bs, s1)) ∧
       ∃ s2, s.wrOp w true (.scr 0 (4096 * 63 + 64 * m.done)) (List.replicate 64 0) = (.ok (), s2)) ∧
    (let m := { cmd1 copy1 4 0 with phase := .running, done := 1 }
     m.n ≤ m.done ∧ m.ret = false ∧ { m with ret := true }.ret = true) ∧
    (let m := { cmd1 .fence 4 0 with phase := .running, n := 0 }
     let s := one fun c => { c with c0 := { c.c0 with cmds := [m] } }
     (s.core 0).c0.cmds = m :: [] ∧ m.ret = false ∧ s.allBefore 0 m = true) := by
  refine ⟨by decide, by decide, by decide, by decide, by decide, .inl ⟨_, _, _, _, rfl⟩, .inr (.inr (.inr (.inr (.inr rfl)))),
    ⟨rfl, rfl, by decide, rfl, by decide, SetEnt.ofBytes (List.replicate 64 0), by decide +kernel, by decide⟩,
    ⟨⟨rfl, rfl, rfl⟩, by decide, by decide, by decide, by decide, by decide, by decide, acc_ok (by decide +kernel), ⟨_, fst_eq (by decide +kernel)⟩,
      by decide +kernel, acc_ok (by decide +kernel), acc_ok (by decide +kernel), by decide, acc_ok (by decide +kernel)⟩,
    ⟨acc_ok (by decide +kernel), _, fst_eq (by decide +kernel)⟩, by decide, by decide +kernel⟩

/-- A property of each quarter of an entry. -/
theorem quarters_of {e a n : Nat} (h : Claim.tFirst e = a ∧ Claim.tCount e = n) {P : Nat → Prop} (hp : ∀ i < n, P (a + i)) :
    ∀ q, Claim.tQuarter e q → P q := by
  intro q hq
  obtain ⟨h1, h2⟩ := hq
  rw [h.1] at h1 h2
  rw [h.2] at h2
  have := hp (q - a) (by omega)
  rwa [show a + (q - a) = q by omega] at this

/-- An INT8 tensor of 16 rows and 300 columns in quarters 3 and 4, of a layout. -/
def tensor8 (layout : Nat) : Nat := fields [(5, 0), (layout, 4), (3, 6), (2, 12), (16, 19), (300, 35)]

/-- A core whose tensor table holds it as entry 63, with an owner of its quarters and a quarter that streams till a cycle. -/
def tensed (layout : Nat) (o : Owner) (busy : List Busy) : State := one fun c => { c with
  cyc := 40, tt := [(62, 1), (63, BitVec.ofNat 64 (tensor8 layout))], own := [(3, o), (4, o)], busy := busy, statAt := [(63, 40)] }

/-- The entry of a stationary tensor whose quarters the core owns, and an engine; an entry that is not valid; one that is
stationary already, with a quarter that streams till the present cycle and till the last; products of a tile within the limits, too early,
on a busy quarter, and outside them; sums into both corners of a bank; and four effects of one cycle. -/
theorem witness_TensorOperationsPerform :
    (∀ l ∈ [0, 2], ((Sparse.get 0 ((tensed l .core []).core 0).tt 63).toNat = tensor8 l) ∧ (Claim.tFirst (tensor8 l) = 3 ∧ Claim.tCount (tensor8 l) = 2) ∧
      Claim.tValid (tensor8 l) ∧ Claim.slabOf (Claim.tFmt (tensor8 l)) ≠ 0 ∧ Claim.slabsIn (tensor8 l) * Claim.slabsOut (tensor8 l) ≤ Claim.tCount (tensor8 l)) ∧
    (∀ l o b, ((tensed l o b).core 0).flt = none ∧ (tensed l o b).errs = []) ∧
    ((Sparse.get 0 ((tensed 0 .core []).core 0).tt 62).toNat = 1 ∧ ¬ Claim.tValid 1) ∧
    (∀ q, Claim.tQuarter (tensor8 0) q → ((tensed 0 .core []).core 0).owner q = .core ∧ ((tensed 0 .core []).core 0).mapped q = false) ∧
    (∃ q, Claim.tQuarter (tensor8 0) q ∧ ((tensed 0 .engine []).core 0).owner q ≠ .core) ∧
    ((Claim.tValid (tensor8 2) ∧ Claim.tLayout (tensor8 2) = 2) ∧ ¬ Claim.tLayout (tensor8 0) = 2 ∧
      (∀ q, Claim.tQuarter (tensor8 2) q → ((tensed 2 .stat []).core 0).owner q = .stat)) ∧
    (let stream (t q : Nat) : Prop := ∃ b ∈ ((tensed 2 .stat [⟨4, t⟩]).core 0).busy, b.q = q ∧ ((tensed 2 .stat []).core 0).cyc ≤ b.till
     (∃ q, Claim.tQuarter (tensor8 2) q ∧ Claim.streams (tensor8 2) 0 256 q ∧ stream 40 q) ∧ ∀ q, ¬ stream 39 q) ∧
    (3 < 4 ∧ 16 ≤ 128 ∧ Claim.pairs 3 (Claim.tFmt (tensor8 2)) ∧ ¬ Claim.pairs 0 (Claim.tFmt (tensor8 2)) ∧ Claim.inLimits (tensor8 2) 16 0 256 ∧
      ¬ Claim.inLimits (tensor8 2) 17 0 256 ∧ (∀ q, Claim.streams (tensor8 2) 0 256 q → ((tensed 2 .stat []).core 0).owner q = .stat) ∧
      Sparse.get 0 ((tensed 2 .stat []).core 0).statAt 63 = 40) ∧
    (let t : MTerm := { ts := [0x3F800000], iv := 1, ex := .fin false 1 0 }
     let eff := Eff.mmul 7 true true false (List.replicate 16 (List.replicate 128 t))
     let p (d iss : Nat) (e : Eff) : Pend := ⟨d, iss, 3, false, 8, e⟩
     let order := [p 41 7 (.mmul 0 true false true [[t]]), p 41 6 (.mmul 0 false true true [[t]]), p 40 39 (.accs 0 [(0, 5)]), p 41 40 (.accClear 0)]
     (∃ x y z w v, eff = .mmul x y z w v ∧ v.length ≤ 16 ∧ 128 ≤ 128 ∧ ∀ r ∈ v, r.length = 128) ∧
       order.Perm [p 41 40 (.accClear 0), p 40 39 (.accs 0 [(0, 5)]), p 41 6 (.mmul 0 false true true [[t]]), p 41 7 (.mmul 0 true false true [[t]])] ∧
       6 < 7 ∧ Claim.onlyPend (one fun c => { c with cyc := 40, pend := order }) 0 order ∧
       ∀ x ∈ order, x.due ≤ (Claim.ticked (one fun c => { c with cyc := 40, pend := order }) 0).cyc) := by
  refine ⟨by unfold Claim.tValid; decide, fun _ _ _ => ⟨rfl, rfl⟩, by unfold Claim.tValid; decide, ?_, ⟨3, by unfold Claim.tQuarter; decide⟩,
    ⟨by unfold Claim.tValid; decide, by decide, ?_⟩, ⟨⟨4, by unfold Claim.tQuarter; decide, ⟨1, by decide⟩, _, List.mem_singleton_self _, by decide⟩, ?_⟩,
    ⟨by decide, by decide, by unfold Claim.pairs; decide, by unfold Claim.pairs; decide, by unfold Claim.inLimits; decide,
      by unfold Claim.inLimits; decide, ?_, by decide⟩, ⟨_, _, _, _, _, rfl, by simp, by decide, ?_⟩, by decide, by decide, ?_, by decide⟩
  · exact quarters_of (a := 3) (n := 2) (by decide) (by decide)
  · exact quarters_of (a := 3) (n := 2) (by decide) (by decide)
  · rintro q ⟨b, hb, _, h⟩
    rw [List.mem_singleton.mp hb] at h
    exact absurd h (by decide)
  · rintro q ⟨b, h1, h2, rfl⟩
    have : b = 1 := Nat.le_antisymm (Nat.le_trans h2 (by decide)) (Nat.le_trans (by decide) h1)
    subst this
    decide
  · intro r hr
    rw [List.eq_of_mem_replicate hr]
    simp
  · refine ⟨rfl, by decide, by decide, rfl, rfl, rfl, by decide, fun e he m hm => ?_, by decide⟩
    rw [List.mem_singleton.mp he] at hm
    cases hm

/-- A module with bytes of HBM given. -/
def inHbm (f : State → State) (pa : Nat) (bs : List Byte) : State := f { one id with mem := wrBytes [] (hbmKey pa) bs }

/-- The entry of set 1: every bit cared for, capacity 1, home die 3, valid (R189). -/
def set1 : List Byte := leBytes 32 (2 ^ 256 - 1) ++ leBytes 2 1 ++ leBytes 2 0 ++ leBytes 2 1 ++ leBytes 1 3 ++ leBytes 1 1 ++ leBytes 4 0 ++ leBytes 4 1

/-- The operation `SSEL` of a core, with a query of zeros and its descriptor in the host's memory; and a core that holds it. -/
def ssel1 : SetOp := ⟨0, false, 1, 2, 5, .ssel 0x8000000000000000 0x8000000000000000 1, leBytes 32 0 ++ leBytes 32 0x1000⟩

def sselCmd : Cmd := { cmd1 ssel1.kind 4 0 with phase := .handed }

/-- The complex of die 3 with that operation, and one row of its set; the descriptor counts one page. -/
def sselAt : State :=
  hosted [] (fun s => { (s.onCore 0 (fun c => { c with own := [(0, .engine)], c0 := { c.c0 with cmds := [sselCmd] } })) with
    mem := wrBytes (wrBytes s.mem (hbmKey 128) set1) (hostKey false 0x1000) (leBytes 8 0 ++ leBytes 4 1 ++ leBytes 4 16)
    dies := [(0, granted 5), (3, { Die.empty with setq := [ssel1], rows := [⟨2, 0, 0, 7, 0⟩] })] })

/-- A selection with another place for its list, and a descriptor of some pages. -/
def sselVar (out : W64) (n : Nat) (f : Die → Die) : State :=
  let x : SetOp := { ssel1 with kind := .ssel out 0x8000000000000000 1 }
  hosted [] (fun s => { (s.onCore 0 (fun c => { c with c0 := { c.c0 with cmds := [{ sselCmd with kind := x.kind }] } })) with
    mem := wrBytes (wrBytes s.mem (hbmKey 128) set1) (hostKey false 0x1000) (leBytes 8 0 ++ leBytes 4 n ++ leBytes 4 (16 * n))
    dies := [(0, f (granted 5)), (3, { Die.empty with setq := [x], rows := [⟨2, 0, 0, 7, 0⟩] })] })

/-- A TLB that holds a page of module 3 at 2^56. -/
def peerTlb (d : Die) : Die :=
  { d with tlb := ⟨5, 2 ^ 56, 16, BitVec.ofNat 64 (2 ^ 63 + 2 ^ 62 + 2 ^ 61 + 2 ^ 60 + 2 ^ 56 + 3 * 2 ^ 46), 8, none, false⟩ :: d.tlb }

/-- What the writes of a selection meet, one after another: its pages, its entries, and the header; 999 is a wait. -/
def sselMeets (s : State) (out : W64) : List Nat :=
  let x : SetOp := { ssel1 with kind := .ssel out 0x8000000000000000 1 }
  let e := SetEnt.ofBytes set1
  let kind (p : Acc Unit × State) : Nat := match p.1 with | .ok _ => 0 | .err c _ => c | .wait => 999
  match opndOf x.core out, s.rdOp x.who false (.va (fieldAt x.blk 0x20 8)) 128 with
  | some o, (.ok d, s1) =>
    let n := fieldAt d 8 4
    let live : List HRow := (((s1.die e.home).rows.filter (fun r => r.set == x.set)).map (fun r => ⟨none, r⟩)).filter
      (fun h => decide (h.row.lpage < n))
    let ch := chooseRows e n (fieldAt x.blk 0 32) 1 live
    let list := selectPages e d ch live
    let p := State.pagesOpen x.who (o.pages (16 + 16 * list.1.length)) s1
    let a := p.2.wrOp x.who true (o.plus 16) (list.1.flatMap (Claim.listEntry (fieldAt d 12 4)))
    let b := State.setAges x.who e (fun _ => 255) (ch.map (·.2)) a.2
    let c := b.2.wrOp x.who true o (Claim.listHead list.1.length n list.2)
    [(if (s1.slotsOf e.home x.set).isEmpty && s1.errs.isEmpty then 0 else 1), kind p, kind a, kind b, kind c, c.2.fab.length - b.2.fab.length]
  | _, _ => []

/-- A list in a page that no table names; entries, and a header without entries, in the scratch of a die that is out of reach; a
header on its way to a peer. -/
theorem witness_SelectionRuns_faults :
    sselMeets (sselVar 0x0100000000000000 1 id) 0x0100000000000000 = [0, 0x20, 0x20, 0, 0x20, 0] ∧
    sselMeets { sselVar 0x8000000010000000 1 id with diemask := 13 } 0x8000000010000000 = [0, 0, 0x12, 0, 0x12, 0] ∧
    sselMeets { sselVar 0x8000000010000000 0 id with diemask := 13 } 0x8000000010000000 = [0, 0, 0, 0, 0x12, 0] ∧
    sselMeets { sselVar 0x0100000000000000 0 peerTlb with cloeth := true, fwUp := true } 0x0100000000000000 = [0, 0, 0, 0, 999, 1] := by
  decide +kernel

theorem witness_SelectionRuns :
    (let x : SetOp := ⟨0, false, 1, 1, 5, .sage 1 4095, []⟩
     let m := { cmd1 (.sage 1 4095) 4 0 with phase := .handed }
     let s := inHbm (fun s => { (s.onCore 0 (fun c => { c with c0 := { c.c0 with cmds := [m] } })) with
       dies := [(3, { Die.empty with setq := [x], rows := [⟨1, 0, 0, 7, 0⟩, ⟨1, 1, 0, 7, 0⟩] })] }) 64 set1
     (s.die 3).setq = x :: [] ∧ (∀ y ∈ ([] : List SetOp), y.set = x.set) ∧ s.reaches (dieOf x.core) 3 = true ∧
       (Claim.chan (s.core x.core) x.chan).cmds.find? (fun y => y.uid == x.uid) = some m ∧ m.ret = false ∧ m.kind = x.kind ∧ s.reports = [] ∧
       s.setEnt (dieOf x.core) x.set = (.ok (SetEnt.ofBytes set1), s) ∧ (SetEnt.ofBytes set1).valid = true ∧
       (SetEnt.ofBytes set1).home = 3 ∧
       s.slotsOf 3 1 = [] ∧ s.errs = [] ∧ (s.die 3).rows.Pairwise (fun a b => a.set = b.set → a.lpage ≠ b.lpage)) ∧
    (let s := sselAt
     let x := ssel1
     let e := SetEnt.ofBytes set1
     let holds (s : State) : Prop := (Claim.chan (s.core x.core) x.chan).cmds.find? (fun y => y.uid == x.uid) = some sselCmd
     (s.die 3).setq = x :: [] ∧ s.reaches (dieOf x.core) 3 = true ∧ sselCmd.kind = x.kind ∧ sselCmd.ret = false ∧ s.reports = [] ∧
       (∃ s1, s.sselGo x.who x.set x.blk 0x8000000000000000 1 = (.ok (), s1) ∧ holds s1) ∧
       opndOf x.core 0x8000000000000000 = some (.scr 0 0) ∧
       ∃ d s1, s.rdOp x.who false (.va (fieldAt x.blk 0x20 8)) 128 = (.ok d, s1) ∧ (descOk d = true ∧
         s1.setEnt (dieOf x.core) x.set = (.ok e, s1) ∧ e.valid = true ∧ e.poison = false ∧ 1 ≤ e.kmax ∧ e.home = 3 ∧
         s1.slotsOf e.home x.set = [] ∧ s1.errs = []) ∧
         let n := fieldAt d 8 4
         let live : List HRow := (((s1.die e.home).rows.filter (fun r => r.set == x.set)).map (fun r => ⟨none, r⟩)).filter
           (fun h => decide (h.row.lpage < n))
         let list := selectPages e d (chooseRows e n (fieldAt x.blk 0 32) 1 live) live
         live.length = 1 ∧ (Opnd.scr 0 0).pages (16 + 16 * list.1.length) = [] ∧ ∃ s2, s1.wrOp x.who true (.scr 0 16) (list.1.flatMap (Claim.listEntry (fieldAt d 12 4))) = (.ok (), s2) ∧
           ∃ s3, State.setAges x.who e (fun _ => 255) ((chooseRows e n (fieldAt x.blk 0 32) 1 live).map (·.2)) s2 = (.ok (), s3) ∧
             ∃ s4, s3.wrOp x.who true (.scr 0 0) (Claim.listHead list.1.length n list.2) = (.ok (), s4) ∧ holds s4) ∧
    (let h : HRow := ⟨none, ⟨1, 0, 0, 7, 0⟩⟩
     let e := SetEnt.ofBytes set1
     h ∈ [h] ∧ e.sink ≤ h.row.lpage ∧ h.row.lpage + e.recent < 1) := by
  refine ⟨by decide +kernel, ⟨by decide, by decide, rfl, rfl, rfl, ⟨_, fst_eq (by decide +kernel), by decide +kernel⟩, by decide,
    leBytes 8 0 ++ leBytes 4 1 ++ leBytes 4 16 ++ List.replicate 112 0, sselAt, by decide +kernel, by decide +kernel, by decide +kernel,
    rfl, _, fst_eq (by decide +kernel), _, fst_eq (by decide +kernel), _, fst_eq (by decide +kernel), by decide +kernel⟩, by decide⟩
/-- A page in transit of core 0, and the command that moves it. -/
def move1 : Move := ⟨0, false, 1, 5, 72057594037927936, 72057594037993472, 16, 0, 8, 0x8000000000000000⟩

/-- A page fetch of a chain at its one page, and at its end. -/
def weevil1 (next : Nat) : Weevil :=
  { uid := 1, chan := true, pool := 0x10000, hdrt := 0x8000, desc := 0, list := 0, status := 0x8000000000000000, q0 := 56, chain := true
    count := 1, next := next, frame := 0, back := 0, given := [56, 57] }

/-- A collective of one rank at engine 7 of die 3. -/
def coll1 : Coll :=
  { core := some 0, depth := 0, slot := 4, baddr := 0, iss := 0, strm := none, inst := 1, asid := 5, nrank := 1, myrank := 0, cls := 0, fmt := 0
    outfmt := 0, ranks := [(0, 3, 7)], send := 0x8000000000000000, recv := 0x8000000000000FFC, status := 0x8000000000000040
    count := 1, op := 3, root := 0, sent := false }

/-- A core with a page to fetch, whose header in the host's memory has the CRC of 8,192 zero bytes. -/
def paged : State :=
  hosted (wrBytes [] (hostKey false 0x8010) (leBytes 4 2420393507)) (fun s => s.onCore 0 (fun c => { c with
    weevil := [weevil1 0], own := (List.range 64).map (fun q => (q, .engine))
    c1 := { c.c1 with cmds := [{ cmd1 (.pgft 0 0 0 56 true) 4 0 with phase := .running }] } }))

/-- The CRC with each intermediate value compared, which makes the kernel evaluate it there. -/
def crcEach : Nat → List Byte → Nat
  | c, [] => c
  | c, b :: bs => bif Nat.ble c 0 then crcEach (crcByte c b.toNat) bs else crcEach (crcByte c b.toNat) bs

theorem crcEach_eq (bs : List Byte) (c : Nat) : crcEach c bs = crcRun c bs := by
  induction bs generalizing c with
  | nil => rfl
  | cons b bs ih =>
    show (bif Nat.ble c 0 then crcEach (crcByte c b.toNat) bs else crcEach (crcByte c b.toNat) bs) = crcRun (crcByte c b.toNat) bs
    rw [ih]
    cases Nat.ble c 0 <;> rfl

theorem crc_zeros : crc32c (List.replicate 8192 0) = 2420393507 := by
  have h : Nat.beq (Nat.xor (crcEach 0xFFFFFFFF (List.replicate 8192 0)) 0xFFFFFFFF) 2420393507 = true := by decide +kernel
  rw [crcEach_eq] at h
  rw [crc32c, Nat.eq_of_beq_eq_true h]

/-- Rows that each read as zeros read together as zeros. -/
theorem readZeros (s : State) (w : Who) (own : Bool) (n fuel a : Nat) (ha : a % 64 = 0) (hf : n < fuel)
    (h : ∀ i < n, s.engRead w own (.va (a + 64 * i)) 64 = (.ok (List.replicate 64 0), s)) :
    s.engReadN w own (.va a) fuel (64 * n) = (.ok (List.replicate (64 * n) 0), s) := by
  induction n generalizing a fuel with
  | zero => cases fuel <;> rfl
  | succ n ih =>
    obtain ⟨f, rfl⟩ : ∃ f, fuel = f + 1 := ⟨fuel - 1, by omega⟩
    have h0 := h 0 (by omega)
    rw [State.engReadN]
    simp only [ha, Nat.sub_zero, show min (64 * (n + 1)) 64 = 64 by omega, show ¬ 64 * (n + 1) = 0 by omega, if_false]
    simp only [Nat.mul_zero, Nat.add_zero] at h0
    rw [h0]
    simp only [Acc.bind, Opnd.plus, show 64 * (n + 1) - 64 = 64 * n by omega]
    rw [ih f (a + 64) (by omega) (by omega) (fun i hi => by simpa [Nat.mul_add, Nat.add_assoc, Nat.add_comm, Nat.add_left_comm] using h (i + 1) (by omega))]
    simp only [List.replicate_append_replicate, show 64 + 64 * n = 64 * (n + 1) by omega]

theorem markRow_weevil (c : Core) (off : Nat) : (c.markRow off).weevil = c.weevil ∧ (c.markRow off).frozen = c.frozen := by
  unfold Core.markRow
  dsimp only
  split <;> exact ⟨rfl, rfl⟩

/-- Nothing holds the accesses of an engine to the scratch of core 0. -/
def quiet (s : State) (w : Who) : Prop :=
  s.diemask.getLsbD 0 = true ∧ s.errs = [] ∧ (s.core 0).frozen = false ∧ ∀ e ∈ s.rowsNow, e.2.1 ≤ w.rank

/-- Without error marks a write of SRAM changes bytes of memory and nothing else. -/
theorem sramWrite_clean (s : State) (kind phys idx0 : Nat) (key : Nat → Nat) (off : Nat) (bs : List Byte) (h : s.errs = []) :
    ∃ m, s.sramWrite kind phys idx0 key off bs = (false, { s with mem := m }) := by
  have hb : ∀ l : List Nat, l.filter (fun _ => false) = [] := fun l => List.filter_eq_nil_iff.mpr (fun _ _ => Bool.false_ne_true)
  refine ⟨wrMasked s.mem (key off) (flagBits ((List.range bs.length).map (fun i => !([] : List Nat).contains (idx0 + (off + i) / 8)))) bs, ?_⟩
  simp only [State.sramWrite, State.badWords, h, List.any_nil, hb, State.readWords, State.errOf, List.filter_nil, List.isEmpty_nil,
    if_true, Bool.not_true, State.clearErr]

/-- A write of one's own scratch is done, and keeps the page fetches. -/
theorem ownRow (s : State) (w : Who) (off : Nat) (b : List Byte) (hw : w.core = 0) (hq : quiet s w) (ho : off < 2 ^ 18) :
    ∃ t, s.engWrite w true (.scr 0 off) b = (.ok (), t) ∧ quiet t w ∧ (t.core 0).weevil = (s.core 0).weevil := by
  obtain ⟨hd, he, hf, hr⟩ := hq
  have h : scratchAt s.diemask (0 * 2 ^ 18 + off) = some (0, off) := by
    have h1 : (0 * 2 ^ 18 + off) / 2 ^ 18 = 0 := by omega
    have h2 : (0 * 2 ^ 18 + off) % 2 ^ 18 = off := by omega
    have h3 : 0 * 2 ^ 18 + off < 2 ^ 30 := by omega
    have h4 : decide (0 * 2 ^ 18 + off < 2 ^ 30) = true := decide_eq_true h3
    simp only [scratchAt, h1, h2, h4, Nat.zero_div, hd]
    rfl
  have hm : s.mayTouch w true 0 off = true := by simp [State.mayTouch, hw]
  have hh : s.rowHit 0 off (fun r => decide (w.rank < r)) = false := by
    rw [State.rowHit, List.any_eq_false]
    intro e he'
    simp [Nat.not_lt.mpr (hr e he')]
  obtain ⟨m, hs⟩ := sramWrite_clean s 0 0 0 (fun o => scrKey 0 o) off b he
  refine ⟨?t, ?_, ⟨?_, ?_, ?_, ?_⟩, ?_⟩
  rotate_left
  · show (match scratchAt s.diemask (0 * 2 ^ 18 + off) with
      | none => _
      | some _ => _) = _
    simp only [h, hm, Bool.not_true, Bool.false_eq_true, if_false, State.scrWrite, hf, hh, hs, Bool.or_self]
    rfl
  · exact hd
  · exact he
  · rw [Machine.core_onCore_self, (markRow_weevil _ _).2]
    exact hf
  · intro e h'
    rcases List.mem_append.mp h' with h' | h'
    · exact hr e h'
    · rw [List.mem_singleton.mp h']
  · rw [Machine.core_onCore_self, (markRow_weevil _ _).1]
    rfl

/-- A range of one's own scratch. -/
theorem ownWrite (s : State) (w : Who) (off fuel : Nat) (bs : List Byte) (hw : w.core = 0) (hq : quiet s w)
    (hf : off + 64 * fuel < 2 ^ 18) (ho : off % 64 = 0) :
    ∃ t, s.engWriteN w true (.scr 0 off) fuel bs = (.ok (), t) ∧ quiet t w ∧ (t.core 0).weevil = (s.core 0).weevil := by
  induction fuel generalizing s off bs with
  | zero => exact ⟨s, rfl, hq, rfl⟩
  | succ fuel ih =>
    rw [State.engWriteN]
    cases bs with
    | nil => exact ⟨s, rfl, hq, rfl⟩
    | cons b bs =>
      simp only [List.isEmpty_cons, Bool.false_eq_true, if_false, ho, Nat.sub_zero]
      obtain ⟨t, h1, h2, h3⟩ := ownRow s w off (List.take 64 (b :: bs)) hw hq (by omega)
      obtain ⟨u, h4, h5, h6⟩ := ih t (off + 64) (List.drop 64 (b :: bs)) h2 (by omega) (by omega)
      have hp : Opnd.plus (.scr 0 off) 64 = .scr 0 (off + 64) := by
        simp only [Opnd.plus]
        congr 1 <;> omega
      refine ⟨u, ?_, h5, h6.trans h3⟩
      rw [h1]
      simp only [Acc.bind, hp, h4]

/-- Three reads that leave the state alone read a page. -/
theorem readPage_of (s : State) (w : Who) (x : Weevil) (f : Nat) (h k v : List Byte) (a b : Nat) (ha : x.hdrt.toNat + 64 * f = a)
    (hb : x.pool.toNat + 8192 * f = b) (h1 : s.rdOp w false (.va a) 64 = (.ok h, s)) (h2 : s.rdOp w false (.va b) 4096 = (.ok k, s))
    (h3 : s.rdOp w false (.va (b + 4096)) 4096 = (.ok v, s)) : s.readPage w x f = (.ok ⟨h, k, v⟩, s) := by
  subst ha hb
  rw [State.readPage, h1]
  simp only [Acc.bind, h2, h3]

/-- A row of zeros of `paged`, where the host's memory lists none. -/
theorem zeroRow : ∀ q ∈ [0x10000, 0x11000], ∀ i < 64,
    paged.engRead (paged.whoPage 0 (weevil1 0)) false (.va (q + 64 * i)) 64 = (.ok (List.replicate 64 0), paged) := by decide +kernel

theorem zeroBlock (s : State) (w : Who) (p : Nat) (hp : p % 64 = 0)
    (h : ∀ i < 64, s.engRead w false (.va (p + 64 * i)) 64 = (.ok (List.replicate 64 0), s)) :
    s.rdOp w false (.va p) 4096 = (.ok (List.replicate 4096 0), s) :=
  readZeros s w false 64 66 p hp (by omega) h

/-- The page in `paged` reads as zeros. -/
theorem pageRead : paged.readPage (paged.whoPage 0 (weevil1 0)) (weevil1 0) 0 =
    (.ok ⟨leBytes 16 0 ++ leBytes 4 2420393507 ++ leBytes 44 0, List.replicate 4096 0, List.replicate 4096 0⟩, paged) :=
  readPage_of _ _ _ _ _ _ _ 0x8000 0x10000 (by decide) (by decide) (by decide +kernel)
    (zeroBlock _ _ _ (by decide) (zeroRow _ (by decide))) (zeroBlock _ _ _ (by decide) (zeroRow 0x11000 (by decide)))

theorem leBytes_length (n v : Nat) : (leBytes n v).length = n := by
  induction n generalizing v with
  | zero => rfl
  | succ n ih => simp [leBytes, ih]

theorem page_some : ∃ p s2 s3 s4, paged.readPage (paged.whoPage 0 (weevil1 0)) (weevil1 0) 0 = (.ok p, s2) ∧
    s2.wrOp (paged.whoPage 0 (weevil1 0)) true (.scr 0 (4096 * 56)) (maskK (fieldAt p.hdr 8 1) p.k) = (.ok (), s3) ∧
    s3.wrOp (paged.whoPage 0 (weevil1 0)) true (.scr 0 (4096 * 57)) (turnV (fieldAt p.hdr 8 1) p.v) = (.ok (), s4) ∧
    crc32c (p.k ++ p.v) = fieldAt p.hdr 0x10 4 ∧ (s4.core 0).weevil = [weevil1 0] := by
  have w1 : quiet paged (paged.whoPage 0 (weevil1 0)) := by unfold quiet; decide +kernel
  obtain ⟨t, h1, h2, h3⟩ := ownWrite paged (paged.whoPage 0 (weevil1 0)) (4096 * 56) 66 (maskK 0 (List.replicate 4096 0)) rfl w1 (by decide) (by decide)
  obtain ⟨u, h4, h5, h6⟩ := ownWrite t (paged.whoPage 0 (weevil1 0)) (4096 * 57) 66 (turnV 0 (List.replicate 4096 0)) rfl h2 (by decide) (by decide)
  have l1 : (maskK 0 (List.replicate 4096 0)).length = 4096 := by
    rw [maskK, List.length_append, List.length_take, leBytes_length, List.length_replicate]
    decide
  have l2 : (turnV 0 (List.replicate 4096 0)).length = 4096 := by
    rw [turnV, weave]
    simp only [List.length_flatMap, List.length_take, List.length_drop, List.map_map, Function.comp_def, l1]
    decide +kernel
  have hn : fieldAt (leBytes 16 0 ++ leBytes 4 2420393507 ++ leBytes 44 0) 8 1 = 0 := by decide
  refine ⟨_, _, t, u, pageRead, ?_, ?_, ?_, ?_⟩
  · simp only [hn]
    unfold State.wrOp
    rw [l1]
    exact h1
  · simp only [hn]
    unfold State.wrOp
    rw [l2]
    exact h4
  · refine Eq.trans (congrArg crc32c List.replicate_append_replicate) (Eq.trans (congrArg (fun n => crc32c (List.replicate n 0)) ?_) (crc_zeros.trans ?_))
    · decide
    · decide +kernel
  · rw [h6, h3]
    decide +kernel

/-- A command whose plan deals the one page of a batch of one entry to one core; the batch and its descriptor stand in the host's
memory. -/
def planCmd : Cmd :=
  { cmd1 (.plan 0x8000000000000000) 4 0 with
    phase := .handed
    blk := leBytes 8 0x2000 ++ leBytes 8 0x8000000000000000 ++ leBytes 8 0x8000000000001000 ++ leBytes 4 64 ++ leBytes 4 0 ++ leBytes 4 1 }

def planned : State :=
  hosted [] (fun s => { (s.onCore 0 (fun c => { c with c0 := { c.c0 with cmds := [planCmd] } })) with
    mem := wrBytes (wrBytes (wrBytes s.mem (hbmKey 128) set1) (hostKey false 0x1000) (leBytes 8 0 ++ leBytes 4 1 ++ leBytes 4 16 ++ leBytes 3 2))
      (hostKey false 0x2000) (leBytes 16 1 ++ leBytes 16 0x1000 ++ leBytes 2 1) })

/-- A page whose CRC is that of 8,192 zero bytes; the end of a list and of a chain; a batch of 2 blocks for 3 ranks; a plan. -/
theorem witness_PagesAndPlans :
    (Claim.goes (paged.core 0) ∧ paged.reports = [] ∧ (paged.core 0).weevil = [weevil1 0] ∧
      (Claim.chan (paged.core 0) true).cmds.find? (fun y => y.uid == (weevil1 0).uid) =
        some { cmd1 (.pgft 0 0 0 56 true) 4 0 with phase := .running } ∧
      paged.pageFrame (paged.whoPage 0 (weevil1 0)) (weevil1 0) = (.ok (0, 0), paged) ∧ paged.pageHeld 0 (weevil1 0) { cmd1 (.pgft 0 0 0 56 true) 4 0 with phase := .running } 0 = false ∧
      ((weevil1 0).next < (weevil1 0).count ∧ (weevil1 0).frame ≠ 0xFFFFFFFF ∧ 56 ∈ (weevil1 0).given ∧ 57 ∈ (weevil1 0).given)) ∧
    (∃ p s2 s3 s4, paged.readPage (paged.whoPage 0 (weevil1 0)) (weevil1 0) 0 = (.ok p, s2) ∧
      s2.wrOp (paged.whoPage 0 (weevil1 0)) true (.scr 0 (4096 * 56)) (maskK (fieldAt p.hdr 8 1) p.k) = (.ok (), s3) ∧
      s3.wrOp (paged.whoPage 0 (weevil1 0)) true (.scr 0 (4096 * 57)) (turnV (fieldAt p.hdr 8 1) p.v) = (.ok (), s4) ∧
      crc32c (p.k ++ p.v) = fieldAt p.hdr 0x10 4 ∧ (s4.core 0).weevil = [weevil1 0]) ∧
    (∀ x ∈ [weevil1 1, { weevil1 0 with frame := 0xFFFFFFFF }],
      let s := paged.onCore 0 (fun c => { c with weevil := [x] })
      (x.count ≤ x.next ∨ (x.chain = true ∧ x.frame = 0xFFFFFFFF)) ∧ Claim.goes (s.core 0) ∧ x.back ≤ (s.core 0).cyc ∧
        opndOf 0 x.status = some (.scr 0 0) ∧
        (Claim.chan (s.core 0) true).cmds.find? (fun y => y.uid == x.uid) = some { cmd1 (.pgft 0 0 0 56 true) 4 0 with phase := .running } ∧
        (s.wrOp (s.whoPage 0 x) true (.scr 0 0) (Claim.status 0 0 x.next)).1 = .ok () ∧
        ((s.wrOp (s.whoPage 0 x) true (.scr 0 0) (Claim.status 0 0 x.next)).2.core 0).weevil = [x]) ∧
    (0 < 3 ∧ 2 < 3 ∧ 1 < 2) ∧
    (Claim.goes (planned.core 0) ∧ planCmd.phase = .handed ∧ planCmd.ret = false ∧
      (Claim.chan (planned.core 0) false).cmds.head? = some planCmd ∧
      (planned.planGo (planned.whoOf 0 false planCmd) planCmd.blk).1 = .ok ()) := by
  unfold Claim.goes
  exact ⟨by decide +kernel, page_some, by decide +kernel, by decide, by decide +kernel⟩

/-- A move whose leaf lies on a die that `DIEMASK` has lost; a collective whose rank still has contributions, an old one and a later
one. -/
theorem witness_MovesAndCollectivesReport_lost :
    let x : Move := { move1 with leafAt := 2 ^ 39 }
    let m := { cmd1 (.pmov (72057594037927936) (72057594037993472) 0x8000000000000000) 4 0 with phase := .handed }
    let s : State := { inHbm (fun s => { s.onCore 0 (fun c => { c with c0 := { c.c0 with cmds := [m] } }) with moves := [x] }) 8
      (leBytes 8 65536) with diemask := 13 }
    let z : State := { (s.setMig (dieOf 0) x.leafAt false).setMig (dieOf 0) x.spareAt false with moves := [] }
    s.moves = [x] ∧ (Claim.chan (s.core 0) false).cmds.find? (fun m => m.uid == x.uid) = some m ∧ m.ret = false ∧ s.reports = [] ∧
      s.reaches (dieOf 0) (hbmDie x.leafAt) = false ∧ opndOf 0 x.status = some (.scr 0 0) ∧
      (z.wrOp (s.whoOf 0 false m) true (.scr 0 0) (leBytes 8 (0x12 * 2 ^ 56))).1 = .ok () := by
  decide +kernel

/-- A collective that is over drops what is old for its rank and keeps what is for the next one. -/
theorem test_coll_over :
    let s0 : State := one (fun c => { c with own := [(0, .engine)] })
    let s1 : State := { s0 with dies := [(3, { Die.empty with coll := [(7, [coll1])] })] }
    let s : State := { s1 with collrx := [⟨[(0, 3, 7)], 0, 0, 0, []⟩, ⟨[(0, 3, 7)], 0, 0, 1, []⟩] }
    let t := next (exec (.collectiveReport 3 7) s)
    t.teamDone [(0, 3, 7)] 0 = 1 ∧ t.collrx.map (·.nth) = [1] ∧ t.collQ 3 7 = [] := by
  decide +kernel

theorem witness_MovesAndCollectivesReport :
    (memWf [] = true ∧ (0 + 65536 ≤ 65536 ∨ 65536 + 65536 ≤ 0)) ∧
    (hbmKey 0 ≤ hbmKey 65535 ∧ hbmKey 65535 < hbmKey 0 + 65536) ∧
    (let m := { cmd1 (.pmov (72057594037927936) (72057594037993472) 0x8000000000000000) 4 0 with phase := .handed }
     let s (l : List Cmd) := inHbm (fun s => { s.onCore 0 (fun c => { c with c0 := { c.c0 with cmds := l } }) with moves := [move1] }) 8
       (leBytes 8 (65536))
     let w := (s [m]).whoOf 0 false m
     let s1 := { s [m] with mem := memCopy (s [m]).mem (hbmKey 0) (hbmKey 65536) 65536 }
     let z := (s1.store (hbmKey 0) (leBytes 8 65536)).store (hbmKey 8) (leBytes 8 0)
     (s []).moves = [move1] ∧ (Claim.chan ((s []).core 0) false).cmds.find? (fun m => m.uid == move1.uid) = none ∧
       (Claim.chan ((s [m]).core 0) false).cmds.find? (fun m => m.uid == move1.uid) = some m ∧ m.ret = false ∧
       (s [m]).pageHome (dieOf 0) (rdLE (s [m]).mem (hbmKey 0) 8) 16 = .ok (hbmKey 0) 0 ∧
       (s [m]).pageHome (dieOf 0) (rdLE (s [m]).mem (hbmKey 8) 8) 16 = .ok (hbmKey (65536)) 0 ∧
       (s [m]).errsIn 0 (hbmKey 0) 65536 true = [] ∧ (s [m]).reports = [] ∧ (s [m]).flits = [] ∧ (s [m]).reaches (dieOf 0) (hbmDie move1.leafAt) = true ∧
       (s [m]).reaches (dieOf 0) (hbmDie move1.spareAt) = true ∧ (0 : Nat) ≠ 1 ∧ s1.moves = [move1] ∧ opndOf 0 move1.status = some (.scr 0 0) ∧
       (({ z with moves := [] }.tlbDrop (fun t => t.entry == 0 || t.entry == 8)).wrOp w true (.scr 0 0) (leBytes 8 0)).1 = .ok ()) ∧
    (let s := { one (fun c => { c with own := [(0, .engine)] }) with dies := [(3, { Die.empty with coll := [(7, [coll1])] })] }
     s.collQ 3 7 = [coll1] ∧ s.reports = [] ∧ coll1.nrank = 1 ∧ coll1.ranks = [(s.mymod, 3, 7)] ∧ coll1.myrank = 0 ∧ coll1.root = 0 ∧
       opndOf coll1.who.core coll1.send = some (.scr 0 0) ∧
       opndOf coll1.who.core coll1.recv = some (.scr 0 0xFFC) ∧ opndOf coll1.who.core coll1.status = some (.scr 0 0x40) ∧
       ∃ b s1, s.rdOp coll1.who true (.scr 0 0) 4 = (.ok b, s1) ∧ b.length = 4 ∧
         ∃ s2, s1.wrOp coll1.who true (.scr 0 0xFFC) (coll1.result [b]) = (.ok (), s2) ∧
           ∃ s3, s2.wrOp coll1.who true (.scr 0 0x40) (Claim.status 0 0 1) = (.ok (), s3) ∧ s3.collQ 3 7 = [coll1] ∧
             s3.mymod = s.mymod) := by
  refine ⟨by decide, by decide, by decide +kernel, by decide, rfl, by decide, by decide, by decide, by decide, by decide, by decide, by decide,
    [0, 0, 0, 0], _, fst_eq (by decide +kernel), rfl,
    _, fst_eq (by decide +kernel), _, fst_eq (by decide +kernel), by decide +kernel, by decide +kernel⟩

/-- Requests at the last page of a grant in each stage, with their answers; 512 page requests; one that has waited 100 ms; an
invalidation to answer; the enables; an invalidation of the translation buffers, with and without an access left. -/
theorem witness_HostAnswersAndInvalidations :
    let r (i : Nat) (w : Bool) (st : PStage) : PReq := ⟨i, 0, 5, 0x3FFFF000, w, 0, st⟩
    let a : HostPage := ⟨0, 0, 30, true⟩
    let s (l : List PReq) :=
      { one id with glob := 100000000, ports := [(0, { Port.zero with ats := true, preqs := l, inval := [3] })], tlbinv := 0x8000000000000000 }
    let covers (a : HostPage) : Bool := decide (a.va.toNat ≤ 0x3FFFF000) && decide (0x3FFFF000 < a.va.toNat + 2 ^ a.log2)
    let full := (List.range 512).map (fun i => r i true .paging)
    (∀ x ∈ [r 7 true .asked, r 7 true .paging, r 7 true .queued],
      ((s [x]).port false).preqs.find? (fun y => y.id == x.id) = some x ∧ (s [x]).atsOn false = true ∧
        ∀ y ∈ ((s [x]).port false).preqs.filter (fun y => y.id != x.id), y.stage ≠ .queued) ∧
    (((s (full ++ [r 512 true .asked])).port false).preqs = full ++ [r 512 true .asked] ∧
      (full ++ [r 512 true .asked]).find? (fun y => y.id == 512) = some (r 512 true .asked) ∧
      512 ≤ ((full ++ [r 512 true .asked]).filter (fun y => y.stage == .paging)).length ∧
      ∀ y ∈ (full ++ [r 512 true .asked]).filter (fun y => y.id != 512), y.stage ≠ .queued) ∧
    (covers a = true ∧ ((r 7 true .asked).w = true → a.w = true) ∧ 30 ∈ [12, 16, 21, 26, 30] ∧ 30 ≤ a.log2 ∧
      a.va.toNat % 2 ^ 30 = 0 ∧ a.bus.toNat % 2 ^ 30 = 0 ∧
      ∀ j ∈ [12, 16, 21, 26, 30], 30 < j → ¬ (j ≤ a.log2 ∧ a.va.toNat % 2 ^ j = 0 ∧ a.bus.toNat % 2 ^ j = 0)) ∧
    covers ⟨0, 0, 29, true⟩ = false ∧ (covers ⟨0, 0, 30, false⟩ = true ∧ (r 7 true .asked).w = true ∧ (⟨0, 0, 30, false⟩ : HostPage).w = false) ∧
    (r 7 true .paging).tm + 10 ^ 8 ≤ (s []).glob ∧ 3 ∈ ((s []).port false).inval ∧ (s []).reachable true = true ∧
    (s []).tlbinv.getLsbD 63 = true ∧ (s []).invBusy = false ∧
    { s [] with fab := [⟨0, ⟨0, 0, 5, 1, 0⟩, 0, .read 8, none⟩] }.invBusy = true ∧ ((∀ e ∈ (s []).lanes, e.2.phase = .idle) ∧ (s []).fab = []) := by
  decide +kernel

/-- The window open, claimed by each port, loading, checked, and after firmware has started; images of a right and a wrong length. -/
theorem witness_BootWindowAndFirmware :
    let s (b : Boot) := { State.reset with boot := b }
    { State.reset with power := false }.power = false ∧ (s ⟨0, 0, none, 0, 0, 0, 0, (0, 0, 0, 0)⟩).reachable false = true ∧
    (0x8000000000000001 : W64).getLsbD 0 = true ∧ (0x8000000000000001 : W64).getLsbD 63 = true ∧ (1 : W64).getLsbD 63 = false ∧
    ((s ⟨2, 0, none, 0, 0, 0, 0, (0, 0, 0, 0)⟩).boot.st = 2 ∧ { s ⟨2, 0, none, 0, 0, 0, 0, (0, 0, 0, 0)⟩ with glob := 1 }.glob ≠ 0 ∧
      (s ⟨2, 0, none, 0, 0, 0, 0, (0, 0, 0, 0)⟩).boot.tm = (s ⟨2, 0, none, 0, 0, 0, 0, (0, 0, 0, 0)⟩).glob ∧
      { s ⟨2, 0, none, 0, 0, 0, 0, (0, 0, 0, 0)⟩ with glob := 1 }.boot.tm ≠ 1) ∧
    ((s ⟨2, 0, none, 0, 0, 0, 0, (0, 0, 0, 0)⟩).boot.load = none ∧ (s ⟨2, 0, none, 0, 0, 0, 0, (0, 0, 0, 0)⟩).boot.result ≠ 2 ∧ (s ⟨2, 0, none, 0, 0, 0, 0, (0, 0, 0, 0)⟩).boot.st ≠ 1) ∧
    ((s ⟨1, 0, some (0, 4096), 1, 1, 0, 4096, (0, 0, 0, 0)⟩).boot.load = some (0, 4096) ∧ (s ⟨1, 0, some (0, 4096), 1, 1, 0, 4096, (0, 0, 0, 0)⟩).boot.st = 1) ∧
    (∀ b ∈ [(⟨1, 0, some (0, 4096), 1, 1, 0, 4096, (0, 0, 0, 0)⟩ : Boot), ⟨1, 0, none, 2, 1, 0, 0, (0, 0, 0, 0)⟩],
      (s b).reachable false = true ∧ b.st = 1 ∧ ((∃ l, b.load = some l) ∨ b.result = 2)) ∧
    (s ⟨0, 0, none, 0, 0, 0, 0, (0, 0, 0, 0)⟩).parked false = [] ∧
    bootLenOk 4096 = true ∧ bootLenOk 0 = false ∧
    ((s ⟨1, 0, none, 0x10, 1, 0, 0, (0, 0, 0, 0)⟩).power = true ∧ (s ⟨1, 0, none, 0x10, 1, 0, 0, (0, 0, 0, 0)⟩).boot.load = none ∧
      (s ⟨1, 0, none, 0x10, 1, 0, 0, (0, 0, 0, 0)⟩).boot.tm + 10 ^ 10 ≤ { s ⟨1, 0, none, 0x10, 1, 0, 0, (0, 0, 0, 0)⟩ with glob := 10000000000 }.glob) ∧
    ((s ⟨1, 0, none, 2, 1, 0, 0, (0, 0, 0, 0)⟩).power = true ∧ (s ⟨1, 0, none, 2, 1, 0, 0, (0, 0, 0, 0)⟩).boot.result = 2 ∧ (s ⟨1, 0, none, 2, 1, 0, 0, (0, 0, 0, 0)⟩).fwUp = false) := by
  refine ⟨by decide, by decide, by decide, by decide, by decide, by decide, by decide, by decide, ?_, by decide⟩
  intro b hb
  rcases List.mem_cons.mp hb with h | h
  · subst h
    exact ⟨by decide, rfl, .inl ⟨_, rfl⟩⟩
  · rw [List.mem_singleton] at h
    subst h
    exact ⟨by decide, rfl, .inr rfl⟩

theorem witness_PowerHeatAndLostUnits :
    w0.power = true ∧ memWf w0.mem = true ∧ { w0 with thermal := true }.thermal = true ∧
    ({ w0 with thermal := true, boundary := true }.boundary = true ∧ w0.boundary = false ∧ w0.reports = [] ∧ ∀ i ∈ w0.insts, i.phase ≠ .saved) ∧
    (w0.fwUp = true ∧ w0.thermal = false) ∧
    w0.diemask.getLsbD (3 : BitVec 2).toNat = true ∧ (31 : BitVec 5).toNat ∉ w0.stackOff ∧
    w0.diemask.getLsbD (31 / 8) = true ∧ { w0 with diemask := 7 }.diemask.getLsbD (31 / 8) = false := by decide
/-- A stream whose next record is given, in the ring in the host's memory. -/
def streamed (b : List Byte) (l : List SCmd) : State :=
  hosted [] (fun s => { s with
    mem := wrBytes s.mem (hostKey false 0x40) b
    ports := [(0, { s.port false with strms := [(3, some { Strm.zero with log2n := 4, asid := 5, en := true, wridx := 16, fly := l })] })] })

/-- The first bytes of a record: OP, and SEQ 1. -/
def recHead (op : Nat) : List Byte := leBytes 4 op ++ leBytes 4 1

/-- A collective's record, and a stream whose next record it is; its team is this module alone. -/
def collRow : List Byte :=
  recHead 5 ++ leBytes 8 0x2000 ++ leBytes 8 0x3000 ++ leBytes 8 0x4000 ++ leBytes 8 1 ++ leBytes 8 0x5000 ++ leBytes 16 0
def collStrm : State :=
  streamed collRow [] |> fun s => { s with mem := wrBytes s.mem (hostKey false 0x2000) [1] }

/-- A record of every kind, in the ring, as its reader gets it; and one whose SEQ is wrong. -/
theorem witness_StreamsConsumeRecords :
    (∀ e ∈ [(1, recHead 1), (2, recHead 2), (3, recHead 3), (4, recHead 4 ++ leBytes 16 0 ++ leBytes 8 64), (6, recHead 6), (7, recHead 7)],
      let s := streamed e.2 []
      let b := e.2 ++ leBytes (64 - e.2.length) 0
      s.serves false = true ∧ (s.strm false 3).en = true ∧ (s.strm false 3).err = false ∧ (s.strm false 3).fly = [] ∧ (∀ c ∈ (s.strm false 3).fly, c.holds = false) ∧
        1 ≤ ((s.strm false 3).wridx - (s.strm false 3).consumed).toNat ∧
        ((s.strm false 3).wridx - (s.strm false 3).consumed).toNat ≤ 2 ^ (s.strm false 3).log2n ∧
        (s.vaRead (s.strmWho false 3 1) (0 + 64 * (1 % 2 ^ 4)) 64).1 = .ok b ∧ fieldAt b 4 4 = 1 ∧ fieldAt b 0 1 = e.1 ∧ 1 ≤ e.1 ∧ e.1 ≤ 7 ∧
        recOk (s.strm false 3) b = true) ∧
    ((collStrm.vaRead (collStrm.strmWho false 3 1) (0 + 64 * (1 % 2 ^ 4)) 64).1 = .ok collRow ∧ recOk (collStrm.strm false 3) collRow = true ∧
      fieldAt collRow 0 1 = 5 ∧ (∀ o ∈ [0, 8, 0x10, 0x20], fieldAt ((collRow.drop 8).take 48) o 8 < 2 ^ 57) ∧
      ∃ x s2, collStrm.collRead (collStrm.strmWho false 3 1) false ((collRow.drop 8).take 48) = (.ok x, s2) ∧
        ∃ s3, s2.collTake 0 { x with strm := some (false, 3, 1), asid := 5 } = (.ok (), s3)) ∧
    (let s := streamed (leBytes 4 1 ++ leBytes 4 2) []
     let b := leBytes 4 1 ++ leBytes 4 2 ++ leBytes 56 0
     (s.vaRead (s.strmWho false 3 1) (0 + 64 * (1 % 2 ^ 4)) 64).1 = .ok b ∧ fieldAt b 4 4 ≠ 1) := by
  refine ⟨by decide +kernel, ⟨by decide +kernel, by decide +kernel, by decide +kernel, by decide +kernel, ?_⟩, by decide +kernel⟩
  have h : (match collStrm.collRead (collStrm.strmWho false 3 1) false ((collRow.drop 8).take 48) with
    | (.ok x, s2) => decide ((s2.collTake 0 { x with strm := some (false, 3, 1), asid := 5 }).1 = .ok ())
    | _ => false) = true := by decide +kernel
  split at h
  · rename_i x s2 e
    exact ⟨x, s2, e, _, fst_eq (of_decide_eq_true h)⟩
  · cases h

/-- Each kind of command, first in flight, with an access that succeeds. -/
theorem witness_StreamCommandsComplete :
    let s (k : SKind) := streamed [] [⟨1, k⟩]
    let who := (s .fence).strmWho false 3 1
    (∀ k ∈ [SKind.signal 0x1000 1 false true, .launch 0 0 true true, .launch 0x1000 1 true true, .copy 0 0x1000 64, .copy 0 0 0, .coll true,
      .event 1 none, .event 1 (some 1), .fence], ((s k).strm false 3).fly = ⟨1, k⟩ :: []) ∧
    (∃ s1, (s (.waitv 0x1000 0 0xFF 0)).vaRead who 0x1000 8 = (.ok [0, 0, 0, 0, 0, 0, 0, 0], s1) ∧
      condHolds 64 0 ((BitVec.ofNat 64 (leNat [0, 0, 0, 0, 0, 0, 0, 0])) &&& (0xFF : W64)).toNat (0 : W64).toNat = true) ∧
    (∃ s1, (s (.signal 0x1000 1 false true)).wrOp who false (.va 0x1000) (leBytes 8 1) = (.ok (), s1)) ∧
    (∃ bs s1, (s (.copy 0 0x1000 64)).rdOp who false (.va 0) 64 = (.ok bs, s1)) ∧
    (∃ s2, (s (.copy 0 0x1000 64)).wrOp who false (.va 0x1000) (leBytes 64 0) = (.ok (), s2)) ∧
    ((s (.event 1 none)).port false).even = false ∧ ((s (.event 1 none)).port false).held.length < 1024 ∧
    (∀ x ∈ ((s (.event 1 (some 1))).port false).held, x.seq ≠ 1) ∧
    (∃ x ∈ ({ Port.zero with held := [⟨1, 0, 3, 1, 0, 0, 0, 0, 0⟩] }).held, x.seq = 1) ∧
    (Strm.zero.ahead = [] ∧ 0 < 2 ^ 31 - 1 ∧ 2 ^ 31 - 1 < 2 ^ 31) ∧
    (∃ old s1, (s (.signal 0x1000 1 true true)).sigWrite false 3 1 0x1000 1 true = (.ok old, s1)) ∧
    (∀ k ∈ [SKind.signal 0x1000 1 false true, .launch 0x1000 1 true true, .launch 0 0 true false, .launch 0 0 true true, .copy 0 0 0, .coll true, .fence],
      let f : List SCmd := [⟨1, .copy 0 0x1000 64⟩, ⟨2, k⟩]
      ((streamed [] f).strm false 3).fly = ⟨1, .copy 0 0x1000 64⟩ :: [⟨2, k⟩] ∧ (1 : W32) ≠ 2 ∧ f.find? (fun x => x.seq == 2) = some ⟨2, k⟩) ∧
    (let l : List W32 := [3, 2, 5]
     l.Nodup ∧ 2 ≤ l.length ∧ 2 < 2 ^ 32 ∧ (∀ i, 1 ≤ i → i ≤ 2 → (1 : W32) + BitVec.ofNat 32 i ∈ l) ∧ (1 : W32) + BitVec.ofNat 32 3 ∉ l) := by
  refine ⟨by decide +kernel, ⟨_, fst_eq (by decide +kernel), by decide⟩, ⟨_, fst_eq (by decide +kernel)⟩, acc_ok (by decide +kernel),
    ⟨_, fst_eq (by decide +kernel)⟩, by decide, by decide, by decide, ⟨_, List.mem_singleton_self _, rfl⟩, by decide,
    acc_ok (by decide +kernel), by decide +kernel, by decide, by decide, by decide, fun i h1 h2 => ?_, by decide⟩
  obtain rfl | rfl : i = 1 ∨ i = 2 := by omega
  all_goals decide

theorem witness_PortsAreWrittenAndReset :
    let s (t : Strm) := { one id with ports := [(0, { Port.zero with strms := [(511, some t)] })] }
    (s Strm.zero).serves false = true ∧ (s Strm.zero).parked false = [] ∧
    { s Strm.zero with waiting := [.streamDisable false 3] }.parked false ≠ [] ∧ (s Strm.zero).reachable false = true ∧ (s Strm.zero).power = true ∧
    (s Strm.zero).insts.Pairwise (fun a b => a.id ≠ b.id) ∧
    (4 ≤ ((s { Strm.zero with log2n := 16 }).strm false 511).log2n ∧ ((s { Strm.zero with log2n := 16 }).strm false 511).log2n ≤ 16) ∧
    (((s { Strm.zero with log2n := 3 }).strm false 511).en = false ∧ ¬ (4 ≤ ((s { Strm.zero with log2n := 3 }).strm false 511).log2n)) ∧
    ((s { Strm.zero with en := true }).strm false 511).en = true ∧
    (let off : BitVec 26 := 0x3FFFFFF
     [(0 : Byte)].length ≤ 64 - off.toNat % 64 ∧ 64 ≤ off.toNat ∧ off.toNat / 64 * 64 ≠ 0xF0000 ∧
       ¬ (0x100000 ≤ off.toNat ∧ off.toNat < 0x108000)) ∧
    (((s Strm.zero).port false).held = [] ∧ 4 ≤ { (s Strm.zero).port false with evlog := 4 }.evlog ∧ ¬ 4 ≤ ((s Strm.zero).port false).evlog ∧
      ((s Strm.zero).port false).even = false) ∧
    (∀ t ∈ [{ Strm.zero with prio := 3, asid := 2 ^ 14 - 1, log2n := 16 }, { Strm.zero with en := true, log2n := 4 }],
      ((s t).strm false 511) = t ∧ t.prio < 4 ∧ t.asid < 2 ^ 14 ∧ t.log2n < 256 ∧ 2 ^ 32 - 1 < 2 ^ 32 ∧ (2 ^ 32 - 1).testBit 0 = true ∧
        (2 ^ 32 - 2).testBit 0 = false) ∧
    (∀ b ∈ [false, true], ({ (s Strm.zero).port false with even := b, evlog := 255 }).held = [] ∧ 255 < 256 ∧
      ({ (s Strm.zero).port false with even := b, evlog := 255 }).even = b) ∧
    (let e : Evt := ⟨1, 0, 3, 1, 0, 0, 0, 0, 0⟩
     let p := { Port.zero with ats := true, held := [e], even := true, evlog := 4 }
     let s := { one id with ports := [(0, p)], dies := [(0, granted 0)], mem := [(hbmKey 7, 0xC0)] }
     (s.port false).held = [e] ∧ (s.port false).even = true ∧ (e.seq - 0).toNat ≤ 2 ^ (s.port false).evlog ∧
       ∃ key tier s1, tier ≠ 1 ∧ (Claim.portSet s false { p with evcons := 0 }).xlate 0 0 (p.evring.toNat + 32 * (e.seq.toNat % 2 ^ p.evlog)) true =
         (.ok key tier, s1)) := by
  refine ⟨by decide, by decide, by decide, by decide, by decide, by decide, by decide, by decide, by decide, by decide, by decide, by decide, by decide,
    by decide, by decide, by decide, hostKey false 32, 2, _, by decide, fst_eq (by decide +kernel)⟩

/-- A module whose ASID 0 maps a page of 2^30 bytes at the start of the device half to the start of the HBM. -/
def mapped1 : State :=
  let dir (pa : Nat) : List Byte := leBytes 8 (2 ^ 63 + pa)
  let tables := wrBytes (wrBytes [] (hbmKey 0) (dir 0x2000)) (hbmKey 0x2000) (dir 0x4000)
  { one id with mem := wrBytes tables (hbmKey 0x4000) (leBytes 8 (2 ^ 63 + 2 ^ 62 + 2 ^ 60)) }

/-- Accesses that perform, that find no translation, that read an uncorrectable word, and that wait for a page in transit; a
port that is up and one that is down, more and not more than 1,000 retries; and values of both orders. -/
theorem witness_WindowAndFabricAccesses :
    let at' : Opnd := .va (2 ^ 56 + 2 ^ 30 - 8)
    let moving : State := { mapped1 with moves := [⟨0, false, 1, 0, 0, 0, 30, 0x4000, 8, 0⟩] }
    let bad : State := { mapped1 with errs := [⟨6, 0, (2 ^ 30 - 8) / 32, true⟩] }
    let who : Who := ⟨0xFFFF, 0, 0, 1, 8191⟩
    mapped1.serves false = true ∧ mapped1.parked false = [] ∧
    { mapped1 with waiting := [.bar2WindowRead false 0 8] }.parked false ≠ [] ∧ (w0.port false).apbase.toNat = 0 ∧ { w0 with ports := [(1, { Port.zero with up := false })] }.serves true = false ∧
    (mapped1.wrOp who false at' [0, 1, 2, 3, 4, 5, 6, 7]).1 = .ok () ∧ (mapped1.rdOp who false at' 8).1 = .ok (List.replicate 8 0) ∧
    (w0.wrOp who false at' [0]).1 = .err 0x20 (tfltWord true 1 (2 ^ 56 + 2 ^ 30 - 8)) ∧
    (w0.rdOp who false at' 8).1 = .err 0x20 (tfltWord false 1 (2 ^ 56 + 2 ^ 30 - 8)) ∧ (bad.rdOp who false at' 8).1 = .err 0x18 (2 ^ 56 + 2 ^ 30 - 8) ∧
    (moving.wrOp who false at' [0]).1 = .wait ∧ (moving.rdOp who false at' 8).1 = .wait ∧
    { w0 with cloeth := true }.portUp (127 : BitVec 7).toNat = true ∧ w0.portUp (127 : BitVec 7).toNat = false ∧
    ((w0.diemask.getLsbD (2 ^ 40 / 2 ^ 39) = true ∧ ¬ ({ w0 with diemask := 1 }.diemask.getLsbD ((2 ^ 41 - 8) / 2 ^ 39) = true ∨
        (0 : BitVec 7).toNat / 32 = (2 ^ 41 - 8) / 2 ^ 39) ∧ (127 : BitVec 7).toNat / 32 = (2 ^ 41 - 8) / 2 ^ 39) ∧
      w0.moves = [] ∧ w0.flits = [] ∧ moving.inTransit 0 = true ∧
      (∃ y, ((127 : BitVec 7), y) ∈ { w0 with flits := [(127, .write 0 [1] 5 9)] }.flits) ∧
      (∀ y ∈ w0.fab, y.tag = 1 → y.who.rank ≠ 8196) ∧ { w0 with fab := [⟨1, ⟨0xFFFF, 0, 5, 9, 8196⟩, 0, .read 8, none⟩] }.fab =
        [⟨1, ⟨0xFFFF, 0, 5, 9, 8196⟩, 0, .read 8, none⟩]) ∧
    (∃ g ∈ granules (2 ^ 30 - 8) 8, bad.hbmBad g = true) ∧ (¬ ∃ g ∈ granules (2 ^ 41 - 8) 8, w0.hbmBad g = true) ∧ w0.was = [] ∧
    (∀ e ∈ w0.errs, e.kind ≠ 6) ∧ 1000 < Sparse.get 0 { w0 with retries := [(127, 1001)] }.retries 127 ∧
    Sparse.get 0 { w0 with retries := [(127, 1000)] }.retries 127 ≤ 1000 ∧
    ((BitVec.ofNat 64 (2 ^ 63)).toInt < (BitVec.ofNat 64 0).toInt ∧ 0 < 2 ^ 63) := by
  refine ⟨by decide, by decide, by decide, by decide, by decide, by decide +kernel, by decide +kernel, by decide +kernel, by decide +kernel,
    by decide +kernel, by decide +kernel, by decide +kernel, by decide, by decide, ⟨by decide, by decide, by decide, by decide +kernel,
      ⟨_, List.mem_singleton_self _⟩, by decide, rfl⟩, by decide +kernel⟩

/-- A contribution for a collective that is over at its rank, and one for the next collective. -/
theorem witness_WindowAndFabricAccesses_stale :
    let x (n : Nat) : Contrib := ⟨[(0, 3, 7), (1, 0, 0)], 1, 0, n, []⟩
    let s : State := { w0 with cloeth := true, teams := [⟨[(0, 3, 7), (1, 0, 0)], 0, 1⟩] }
    s.portUp (127 : BitVec 7).toNat = true ∧ s.diemask.getLsbD ((x 0).ranks.getD (x 0).dst (0, 0, 0)).2.1 = true ∧
    (x 0).nth < s.teamDone (x 0).ranks (x 0).dst ∧ ¬ (x 1).nth < s.teamDone (x 1).ranks (x 1).dst := by
  decide

/-- A window access that fails has met a parity error: the error stays counted, and memory is as it was. -/
theorem test_window_parity :
    let s : State := { mapped1 with errs := [⟨6, 0, (2 ^ 30 - 8) / 32, true⟩] }
    (s.undone { s with parity := 3, mem := [], nuid := 9 }).parity = 3 ∧ (s.undone { s with parity := 3, mem := [], nuid := 9 }).mem = s.mem ∧
    (s.undone { s with parity := 3, mem := [], nuid := 9 }).nuid = s.nuid := by
  decide +kernel

/-- The leak on its cycle and off it; a code of a retired unit that is due, of a core that no instance holds, and of one that does. -/
theorem witness_CountersLeakAndUnitsRetire :
    (let s := { one id with glob := 0x100000000, buckets := [(0, 1)], owes := [0x00010000] }
     Sparse.wf 0 s.buckets = true ∧ s.leakper ≠ 0 ∧ s.glob % s.leakper.toNat = 0 ∧ s.glob ≠ s.leakAt ∧
       unitOk (0x00010000 : BitVec 32).toNat = true ∧ ((0x00010000 : BitVec 32).toNat ∈ s.owes ∨ (0x00010000 : BitVec 32).toNat ∈ s.failing) ∧
       (∃ k, k < 4096 ∧ unitCovers (0x00010000 : BitVec 32).toNat k = true ∧ ∀ i ∈ s.insts, k ∉ i.held) ∧
       (∀ k, k < 4096 → unitCovers (0 : BitVec 32).toNat k = true → ∃ i ∈ s.insts, k ∈ i.held) ∧ s.fwUp = true) ∧
    ((unitOk (0 : BitVec 32).toNat = true ∧ (0 : BitVec 32).toNat ∈ { w0 with failing := [0] }.failing ∧ (0 : BitVec 32).toNat ∉ w0.owes) ∧
      { w0 with glob := 1 }.glob % w0.leakper.toNat ≠ 0 ∧ { w0 with leakper := 0 }.leakper = 0 ∧ w0.glob = w0.leakAt) := by
  refine ⟨⟨by decide, by decide, by decide, by decide, by decide, by decide +kernel, ⟨1, by decide, by decide, by decide⟩, ?_, rfl⟩,
    by decide⟩
  intro k _ h
  have : k = 0 := by simpa [unitCovers] using h
  exact ⟨inst1, List.mem_singleton_self _, by subst this; decide⟩

/-- Requests of each form, at the ends of their ranges. -/
theorem witness_ManagementSettings :
    let r (sel : Nat) (b : List Byte) : Mgmt := ⟨false, 0, BitVec.ofNat 16 sel, b.length, 1, b⟩
    w0.serves false = true ∧ Claim.frame (r 0 []) ∧ ¬ Claim.frame { r 0 [] with opf := 1 } ∧ Claim.frame (r 255 (leBytes 24 0)) ∧ (r 0 []).data = [] ∧ (r 0 []).sel.toNat = 0 ∧ (r 1 []).sel.toNat = 1 ∧ (r 3 []).sel.toNat < 4 ∧
    (r 255 []).sel.toNat < 256 ∧ Sparse.get none { w0 with wranges := [(255, some ⟨5, 0, 64⟩)] }.wranges 255 = some ⟨5, 0, 64⟩ ∧
    Sparse.get none w0.wranges 255 = none ∧ (r 0 [1]).data ≠ [] ∧ (r 1 []).sel.toNat ≠ 0 ∧
    ((r 0 (leBytes 4 (2 ^ 32 - 1))).data = leBytes 4 (2 ^ 32 - 1) ∧ 2 ^ 32 - 1 < 2 ^ 32) ∧
    ((r 2 (leBytes 2 3 ++ leBytes 2 512 ++ leBytes 4 32256)).data = leBytes 2 3 ++ leBytes 2 512 ++ leBytes 4 32256 ∧ 3 < 256 ∧ 512 < 2 ^ 16 ∧
      32256 < 2 ^ 32) ∧
    ((r 0 (leBytes 8 (2 ^ 48 - 1))).data = leBytes 8 (2 ^ 48 - 1) ∧ 2 ^ 48 - 1 < 2 ^ 64) ∧ 1 < 2 ^ 8 ∧ 1023 < 2 ^ 16 ∧
    ((r 255 (leBytes 2 16383 ++ leBytes 1 true.toNat ++ leBytes 5 0 ++ leBytes 8 (2 ^ 57 - 64) ++ leBytes 8 64)).sel.toNat < 256 ∧ 16383 < 2 ^ 16) ∧
    (∀ n ∈ [1, 2, 3, 4, 8, 10, 24, 72], (r 0 [1, 2, 3, 4, 5]).data.length ≠ n ∧ ¬ Claim.frame { r 0 (leBytes n 0) with opf := 1 }) ∧
    (2 ≤ fieldAt (r 0 [0, 0, 2]).data 2 1 ∧ 255 < fieldAt (r 0 (leBytes 4 256)).data 0 4 ∧
      (r 0 (leBytes 4 1)).data.length ≠ 4 + 4 * fieldAt (r 0 (leBytes 4 1)).data 0 4 ∧ fieldAt (leBytes 3 0 ++ [1]) 3 5 ≠ 0) ∧
    ((r 31 []).sel.toNat < 32 ∧ (r 256 []).sel.toNat ≠ 1 ∧ 256 ≤ (r 256 []).sel.toNat) ∧
    (2296 ≤ 2296 ∧ 2296 < 2297 ∧ 2297 < 2 ^ 16) ∧
    ([(0x00010000 : BitVec 32)].length ≤ 255 ∧ unitOk (0x00010000 : BitVec 32).toNat = true ∧
      unitOk (0xFFFFFFFF : BitVec 32).toNat = false) ∧ w0.fwUp = true := by
  unfold Claim.frame
  decide +kernel

/-- A module with no die left has fewer cores than any mark. -/
theorem witness_ManagementSettings_pcores : { w0 with diemask := 0 }.fwUp = true ∧ State.pcores { w0 with diemask := 0 } < 2296 := by
  have h : State.pcores { w0 with diemask := 0 } = 0 := by
    have : ∀ d, (0 : BitVec 4).getLsbD d = false := by simp
    unfold State.pcores
    simp only [this]
    simp
  exact ⟨rfl, by rw [h]; decide⟩

/-- An instance in each phase that the debugger tells apart, named by its launch; a halted core and the ends of each file; a
subject that is read-only and one that is none. -/
theorem witness_DiscardsAndDebugger :
    let x (ph : IPhase) : Inst := { inst1 with phase := ph }
    let s (ph : IPhase) : State := { one id with insts := [x ph] }
    let data : List Byte := leBytes 2 0 ++ leBytes 2 3 ++ leBytes 4 7
    let r (sel : BitVec 16) (b : List Byte) : Mgmt := ⟨false, 0, sel, b.length, 1, b⟩
    (∀ ph ∈ [IPhase.running, .forced, .halted, .draining 5],
      data = leBytes 2 (x ph).l.port.toNat ++ leBytes 2 (x ph).l.strm ++ leBytes 4 (x ph).l.seq.toNat ∧ (x ph).l.strm < 2 ^ 16 ∧
      (s ph).insts.find? (fun i => i.l.port.toNat == (x ph).l.port.toNat && i.l.strm == (x ph).l.strm && i.l.seq.toNat == (x ph).l.seq.toNat) =
        some (x ph) ∧ ∀ i ∈ (s ph).insts, i.id = (x ph).id → i = x ph) ∧
    ((x (.draining 5)).phase ≠ .running ∧ (x (.draining 5)).phase ≠ .forced ∧ (x (.draining 5)).phase ≠ .halted ∧
      (x .forced).phase ≠ .halted) ∧
    (s .halted).serves false = true ∧ Claim.frame (r 31 (leBytes 2 65535)) ∧ Claim.frame (r 0 data) ∧ (r 31 (leBytes 2 65535)).sel.toNat < 32 ∧ (r 31 (leBytes 2 65535)).data = leBytes 2 65535 ∧
    65535 < 2 ^ 16 ∧ ((s .halted).haltedCore 0 = true ∧ 0 < 2 ^ 16) ∧ ((s .running).haltedCore 0 = false) ∧
    (r 3 (leBytes 2 0 ++ leBytes 2 10 ++ leBytes 4 4095)).data = leBytes 2 0 ++ leBytes 2 10 ++ leBytes 4 4095 ∧ 4095 < 4096 ∧
    Claim.frame (r 3 (leBytes 2 0 ++ leBytes 2 10 ++ leBytes 4 4095)) ∧ Claim.frame (r 4 (leBytes 2 0 ++ leBytes 2 4095 ++ leBytes 4 0 ++ leBytes 64 1)) ∧
    Claim.frame (r 3 []) ∧ (r 3 []).sel.toNat < 4 ∧ debugCr 0x048 = false ∧ (leBytes 64 1).length = 64 ∧ (s .halted |>.core 0).owner (4095 / 64) = .core := by
  unfold Claim.frame
  decide +kernel

/-- A CMD and a selector without a subject, two that can only be written, and two launches that no instance has. -/
theorem witness_DiscardsAndDebugger_subjects :
    ¬ Claim.subject (0xFF : BitVec 8).toNat 3 ∧ ¬ Claim.subject (9 : BitVec 8).toNat 5 ∧ ((7 : BitVec 8) = 7 ∧ 31 < 32 ∧ (9 : BitVec 8) = 9 ∧ 2 < 3) ∧
    (leBytes 2 1 ++ leBytes 6 0).length = 8 ∧ (w0.launched? (leBytes 2 1 ++ leBytes 6 0)).isNone = true ∧
      fieldAt (leBytes 2 256 ++ leBytes 6 0) 1 1 ≠ 0 := by
  unfold Claim.subject
  decide

/-- The words of a read without an error, with one that is mended and with one that cannot be; errors beside them; a launch of
higher priority that waits while an instance is halted, at a boundary and outside one. -/
theorem witness_DiscardsAndDebugger_errors :
    let s (l : List ErrMark) : State := { one id with insts := [{ inst1 with phase := .halted }], errs := l }
    let ws : List Nat := (List.range 8).map (fun i => 4095 * 8 + i)
    let at' (e : ErrMark) : Prop := e.kind = 0 ∧ e.unit = 0 ∧ e.idx ∈ ws
    (∀ e ∈ (s [⟨0, 1, 32760, true⟩, ⟨0, 0, 32759, true⟩]).errs, ¬ at' e) ∧
    (∃ e ∈ (s [⟨0, 0, 32767, true⟩]).errs, at' e ∧ e.bad = true) ∧
    ((∃ e ∈ (s [⟨0, 0, 32767, false⟩]).errs, at' e) ∧ (∀ e ∈ (s [⟨0, 0, 32767, false⟩]).errs, at' e → e.bad = false) ∧
      Claim.noRing (s [⟨0, 0, 32767, false⟩])) ∧
    (∀ e ∈ (s [⟨15, 1, 4095, true⟩, ⟨18, 0, 4094, true⟩]).errs, e.unit = 0 → e.kind ≠ 15 ∧ (e.kind = 18 → e.idx ≠ 4095)) ∧
    (∀ e ∈ (s [⟨0, 0, 32759, true⟩]).errs, e.kind = 0 → e.unit = 0 → e.idx ∉ ws) ∧
    (let l : Launch := { inst1.l with strm := 4, prio := 3 }
     let x : Inst := { inst1 with phase := .halted }
     let h : State := { s [] with cands := [l] }
     (s []).waitingNow = [] ∧ { h with boundary := true }.boundary = true ∧ h.boundary = false ∧ (∃ y ∈ h.waitingNow, x.l.prio < y.prio) ∧
       (∀ i ∈ h.insts, i.id = x.id → i = x) ∧ ∀ i ∈ h.insts, i = x ∨ (i.phase ≠ .running ∧ i.phase ≠ .draining 5)) := by
  unfold Claim.noRing
  decide +kernel

/-- The `h` file of a halted core at its last register, 15, and beyond it, from 16 on. -/
theorem witness_DiscardsAndDebugger_h :
    let s : State := { one id with insts := [{ inst1 with phase := .halted }] }
    let r (b : List Byte) : Mgmt := ⟨false, 0, 3, b.length, 1, b⟩
    let key (n : Nat) : List Byte := leBytes 2 0 ++ leBytes 2 4 ++ leBytes 4 n
    (s.serves false = true ∧ s.haltedCore 0 = true ∧ (r []).sel.toNat = 3 ∧ 15 < 16) ∧
    (∀ n ∈ [15, 16, 31, 2 ^ 32 - 1], (n = 15 ∨ 16 ≤ n ∧ n < 2 ^ 32) ∧ (r (key n ++ leBytes 8 1)).data = key n ++ leBytes 8 (1 : W64).toNat ∧
      Claim.frame (r (key n ++ leBytes 8 1)) ∧ (r (key n)).data = key n ∧ Claim.frame (r (key n))) := by
  unfold Claim.frame
  decide +kernel

/-- The last register of the `h` file is written, and the next one is refused. -/
theorem test_debug_h :
    let s : State := { one id with insts := [{ inst1 with phase := .halted }] }
    let d (n : Nat) : List Byte := leBytes 2 0 ++ leBytes 2 4 ++ leBytes 4 n ++ leBytes 8 9
    let t (n : Nat) := next (exec (.mgmtDebugRegisterWrite ⟨false, 0, 3, 16, 1, d n⟩) s)
    ((t 15).core 0).h = [(15, 9)] ∧ (t 15).out = [.mgmt false 9 0 3 1 (leBytes 8 9)] ∧
    (t 16).cores = s.cores ∧ (t 16).out = [.mgmt false 9 1 3 1 []] := by decide +kernel

/-- A read of one counter, for the refusal of a write that names it. -/
theorem witness_DiscardsAndDebugger_counters :
    let r : Mgmt := ⟨false, 0, 2, 8, 1, leBytes 2 0 ++ leBytes 2 1 ++ leBytes 4 0⟩
    Claim.frame r ∧ r.sel.toNat = 2 ∧ exec (.mgmtReadBucketCounters r) w0 = .next (Claim.answers w0 r 4 0 (leBytes 2 0)) := by
  unfold Claim.frame
  exact ⟨by decide, by decide, rfl⟩

/-- A module without an instance or a lane, and one whose cores have nothing in flight. -/
theorem witness_ClocksAdvance :
    (State.reset.insts = [] ∧ State.reset.lanes = [] ∧ State.reset.met = [] ∧ ∀ p, (State.reset.port p).held = []) ∧
    (∀ e ∈ w0.cores, e.2.pend = [] ∧ e.2.owed = [] ∧ e.2.flt = none ∧ e.2.held = []) ∧
    (∃ e ∈ w0.cores, e.1 = 0 ∧ w0.ticks e.2 = true) := by decide

/-- Words of every width, with their extension word where they have one, and two empty bundles. -/
theorem witness_EncodingDecodesToTheInstruction :
    ∀ i ∈ [Instr.addImm 31 31 31 (.ext 0xFFFFFFFF), .viota hv ⟨63, 5, 0, .short 1⟩, .vadd (headV true 31 true 7) (vr 63 63 63 0 2 1),
        .mclr (headM 31 true) 3, .cpy hc (ce 2 3 0 0 (.short 1)), .kend 255 true, .emptyBundle false 0],
      i.wf = true ∧ i.plain = true ∧ (encode i).isSome = true := by decide

theorem witness_AcceptedWordsEncodeBack :
    (0x002420A0 < 2 ^ 32 ∧ decodeS 0x002420A0 0 = .ok (.addReg 0 4 4 5 false false)) ∧
    (∃ i, 0x00800420C000 < 2 ^ 48 ∧ decodeV false 0x00800420C000 0 = .ok i) ∧
    (let w := ((encode (.mclr (headM 31 true) 3)).getD (0, 0)).2
     w < 2 ^ 64 ∧ decodeM w = .ok (.mclr (headM 31 true) 3)) ∧
    (∃ i, 0x0400406043040001 < 2 ^ 64 ∧ decodeC false 0x0400406043040001 0 = .ok i) ∧
    (0x2C00000000000001 < 2 ^ 64 ∧ decodeK 0x2C00000000000001 = .ok (.kend 0 true)) :=
  ⟨by decide, ⟨.vadd hv ⟨1, 2, 3, 0, 0, 0⟩, by decide⟩, by decide,
    ⟨.cpy hc ⟨1, 24, 2, 3, 0, 0x40, .short 1⟩, by decide⟩, by decide⟩

/-- Each kind of effect alone in flight, due on the next edge and later; a store into a quarter of each owner, and a load of
the last word of scratch; both with the die clear in DIEMASK. -/
theorem witness_ResultsLandAndStoresWriteTheirBytes :
    let p (d : Nat) (e : Eff) : Pend := ⟨d, 0, 0, false, 8, e⟩
    let s (d : Nat) (e : Eff) := one fun c => { c with pend := [p d e], own := [(1, .engine)] }
    (∀ e ∈ [Eff.reg .s 31 5, .reg .s 0 5, .reg .g 15 5, .reg .h 15 5, .cmpt true 5, .cmpt false 0, .vec true 63 0 1, .pred 15 true, .msk 7 5 1, .zs [(511, 0)], .cr 0x021 1, .tile 7 15 1,
        .write 4095 1 (BitVec.allOnes 64), .write 64 1 1, .lds 262136 8 true 31],
      (∀ d ∈ [1, 2], Claim.onlyEffect (s d e) 0 (p d e) ∧ Claim.onlyEffect { s d e with diemask := 14 } 0 (p d e)) ∧
        Claim.plainEffect e = true) ∧
    ((s 1 (.pred 0 true)).diemask.getLsbD (dieOf 0) = true ∧ (14 : BitVec 4).getLsbD (dieOf 0) = false) ∧
    ((Claim.ticked (s 1 (.pred 0 true)) 0).cyc = 1 ∧ (Claim.ticked (s 1 (.pred 0 true)) 0).owner (4095 / 64) = .core ∧
      (Claim.ticked (s 1 (.pred 0 true)) 0).mapped (4095 / 64) = false ∧ (Claim.ticked (s 1 (.pred 0 true)) 0).owner (64 / 64) = .engine) ∧
    (8 ∈ [1, 2, 4, 8] ∧ 262136 % 8 = 0 ∧ 262136 < 2 ^ 18) := by
  refine ⟨fun e he => ⟨fun d hd => ⟨onlyEffect_of ?_, onlyEffect_of ?_⟩, ?_⟩, by decide, by decide, by decide⟩
  · revert e d; decide +kernel
  · revert e d; decide +kernel
  · revert e; decide

/-- A step of each kind that changes something of what the invariants say: an event, a bundle, a clock. -/
theorem witness_EveryStepKeepsMemoryCanonical :
    let s := { State.reset with inbox := [.bootclaimWrite true 1] }
    let t := fetched (.li 0 4 (.short 5)) id
    (memWf s.mem = true ∧ step s = .next (next (step s))) ∧ (memWf t.mem = true ∧ step t = .next (next (step t))) ∧
    (memWf w0.mem = true ∧ step w0 = .next (next (step w0))) :=
  ⟨⟨by decide, next_of (by decide +kernel)⟩, ⟨by decide +kernel, next_of (by decide +kernel)⟩, ⟨by decide, next_of (by decide +kernel)⟩⟩

theorem witness_EveryStepKeepsCoresAndBootWindow :
    let s := { State.reset with inbox := [.bootclaimWrite true 1] }
    let t := fetched (.li 0 4 (.short 5)) id
    (Claim.placed s ∧ Claim.bootSound s ∧ step s = .next (next (step s))) ∧
    (Claim.placed t ∧ Claim.bootSound t ∧ step t = .next (next (step t))) := by
  refine ⟨⟨?_, ?_, next_of (by decide +kernel)⟩, ⟨?_, ?_, next_of (by decide +kernel)⟩⟩
  · unfold Claim.placed; decide
  · unfold Claim.bootSound; decide
  · unfold Claim.placed; decide +kernel
  · unfold Claim.bootSound; decide +kernel

end Sys2Proof.Tests
end

/-! PROOFS of the module's statements (spec/01_module.md): reset, power, heat and lost units, and the admission of launches. -/

namespace Sys2Proof

/-- Reading a map of which some keys are left. -/
theorem Sparse.get_filter {α : Type} (d : α) (m : Sparse α) (f : Nat → Bool) (k : Nat) :
    Sparse.get d (m.filter (fun e => f e.1)) k = if f k then Sparse.get d m k else d := by
  induction m with
  | nil => simp [Sparse.get]
  | cons e m ih =>
    rw [List.filter_cons]
    by_cases hk : e.1 = k
    · subst hk
      by_cases hf : f e.1 = true
      · simp [hf, Sparse.get]
      · simp [hf, ih]
    · by_cases hf : f e.1 = true
      · simp [hf, Sparse.get, hk, ih]
      · simp [hf, Sparse.get, hk, ih]

end Sys2Proof

namespace Sys2Proof.Machine

/-! ### What an event leaves alone (R280) -/

/-- A state apart from all that a write at a virtual address may touch: memory, the dies' TLBs and walk caches, the ports, and
what goes to peers and hosts. Two states that agree in it agree in every other field. -/
def State.bared (s : State) : State :=
  { s with mem := [], was := [], dies := [], ports := [], parity := 0, met := [], fab := [], ftag := 0, out := [], reports := [] }

section
variable (s s1 : State) (w : Who) (p : Bool) (die asid va : Nat) (wr : Bool)

theorem bared_onDie (f : Die → Die) : (s.onDie die f).bared = s.bared := rfl
theorem bared_onPort (f : Port → Port) : (s.onPort p f).bared = s.bared := rfl

theorem bared_asked (o : List Out) (f : List Fab) (n : Nat) : ({ s with out := o, fab := f, ftag := n } : State).bared = s.bared := rfl

theorem bared_meets (l : List Nat) : (s.meets l).bared = s.bared := rfl
theorem bared_quit : (s.quit w).bared = s.bared := rfl
theorem bared_send_onPort (o : Out) (f : Port → Port) : ((s.onPort p f).send o).bared = s.bared := rfl
theorem bared_refetch (e : TlbEnt) : (s.refetch die e).bared = s.bared := rfl
theorem bared_walked (r : Walked) : (s.walked die asid r).bared = s.bared := (bared_meets ..).trans rfl

theorem bared_hostMiss : (s.hostMiss p die asid va wr).2.bared = s.bared := by
  unfold State.hostMiss
  dsimp only
  split
  · rfl
  · split <;> rfl

theorem bared_xlateHost : (s.xlateHost die asid va wr).2.bared = s.bared := by
  have hm := bared_meets s [s.ctxAt asid]
  simp only [State.xlateHost]
  split
  · rfl
  · split
    · rfl
    · split
      · exact hm
      · split
        · exact (bared_hostMiss ..).trans hm
        · split
          · exact hm
          · exact (bared_hostMiss ..).trans ((bared_refetch ..).trans hm)

theorem bared_xlateWalk : (s.xlateWalk die asid va wr).2.bared = s.bared := by
  have hw := bared_walked s die asid (s.walk die asid va)
  generalize hr : s.walk die asid va = r at hw
  generalize ht : s.walked die asid r = t at hw
  simp only [State.xlateWalk, hr, ht]
  split
  · rfl
  · split
    · rfl
    · split
      · exact hw
      · exact hw
      · exact hw
      · split
        · exact hw
        · exact (bared_onDie ..).trans hw

theorem bared_xlate : (s.xlate die asid va wr).2.bared = s.bared := by
  unfold State.xlate
  split
  · exact bared_xlateHost ..
  · split
    · rfl
    · split
      · split
        · exact (bared_xlateWalk ..).trans (bared_refetch ..)
        · rfl
      · exact bared_xlateWalk ..

theorem bared_peer (key : Nat) (req : PeerReq) : (s.peer w key req).2.bared = s.bared := by
  unfold State.peer
  split <;> rfl

theorem bared_writeVA (bs : List Byte) : (s.writeVA w va bs).2.bared = s.bared := by
  have hx := bared_xlate s w.die w.asid va true
  unfold State.writeVA
  split
  next key tier t e =>
    rw [e] at hx
    split
    · have hp : (t.peer w key (.write bs)).2.bared = s.bared := (bared_peer ..).trans hx
      unfold Acc.bind
      split <;> exact hp
    · exact hx
  next e => rw [e] at hx; exact hx
  next e => rw [e] at hx; exact hx

theorem bared_parityOf : (s.parityOf s1).bared = s.bared := by
  unfold State.parityOf
  split <;> rfl

theorem bared_waited : ((s.waited s1).getD s).bared = s.bared := by
  unfold State.waited
  dsimp only
  split
  · rfl
  · exact (bared_asked ..).trans ((bared_onPort ..).trans ((bared_onPort ..).trans (bared_parityOf s s1)))

theorem bared_flushEvts (n : Nat) : (s.flushEvts p n).bared = s.bared := by
  induction n generalizing s with
  | zero => rfl
  | succ n ih =>
    unfold State.flushEvts
    dsimp only
    split
    · rfl
    · next e rest _ =>
      split
      · have hw := bared_writeVA s (hostWho p 0)
          ((s.port p).evring.toNat + 32 * (e.seq.toNat % 2 ^ (s.port p).evlog)) e.bytes
        split
        · next h => rw [h] at hw; exact (ih _).trans ((bared_send_onPort ..).trans ((bared_quit ..).trans hw))
        · exact bared_waited ..
        · next h => rw [h] at hw; exact hw
      · rfl

theorem bared_raise (e : Evt) : (s.raise p e).bared = s.bared := by
  unfold State.raise
  dsimp only
  split
  · rfl
  · exact bared_flushEvts ..

theorem bared_eventAll (ty cause : Nat) (data : W64) : (s.eventAll ty cause data).bared = s.bared :=
  (bared_raise ..).trans (bared_raise ..)

theorem bared_replace : s.replace.bared = { s with repl := true }.bared := bared_eventAll ..

section
variable (ty cause : Nat) (data : W64)

@[simp] theorem State.eventAll_cores : (s.eventAll ty cause data).cores = s.cores :=
  (congrArg State.cores (bared_eventAll s ty cause data) : (s.eventAll ty cause data).bared.cores = _)

@[simp] theorem State.eventAll_insts : (s.eventAll ty cause data).insts = s.insts :=
  (congrArg State.insts (bared_eventAll s ty cause data) : (s.eventAll ty cause data).bared.insts = _)

@[simp] theorem State.eventAll_cands : (s.eventAll ty cause data).cands = s.cands :=
  (congrArg State.cands (bared_eventAll s ty cause data) : (s.eventAll ty cause data).bared.cands = _)

@[simp] theorem State.eventAll_thermal : (s.eventAll ty cause data).thermal = s.thermal :=
  (congrArg State.thermal (bared_eventAll s ty cause data) : (s.eventAll ty cause data).bared.thermal = _)

end

/-- A replacement request sets REPL and takes nothing else of the module's counts (R267). -/
@[simp] theorem State.replace_repl : s.replace.repl = true :=
  (congrArg State.repl (bared_replace s) : s.replace.bared.repl = _)

@[simp] theorem State.replace_cores : s.replace.cores = s.cores :=
  (congrArg State.cores (bared_replace s) : s.replace.bared.cores = _)

@[simp] theorem State.replace_diemask : s.replace.diemask = s.diemask :=
  (congrArg State.diemask (bared_replace s) : s.replace.bared.diemask = _)

@[simp] theorem State.replace_stackOff : s.replace.stackOff = s.stackOff :=
  (congrArg State.stackOff (bared_replace s) : s.replace.bared.stackOff = _)

end

/-! ### A launch boundary (R44) -/

section
variable {s s1 : State} {l : Launch}

theorem dueOf_none (hr : s.reports = []) (w : Who) : s.dueOf w = none := by simp [State.dueOf, hr]

theorem failed_false (hr : s.reports = []) (l : Launch) : s.failed l = false := by simp [State.failed, dueOf_none hr]

theorem retryRecords_none (hr : s.reports = []) : s.retryRecords = none := by
  simp [State.retryRecords, failed_false hr]

theorem launchAdmission_serves (hb : s.boundary = true) (hr : s.reports = []) :
    exec .launchAdmission s = .next (s.serveBoundary.getD s) := by
  show orSame s s.tryAdmit = _
  simp [orSame, State.tryAdmit, retryRecords_none hr, hb]

theorem launchAdmission_holdOver (hb : s.boundary = false) (hr : s.reports = []) :
    exec .launchAdmission s = .next (s.holdOver.getD s) := by
  show orSame s s.tryAdmit = _
  simp [orSame, State.tryAdmit, retryRecords_none hr, hb]

/-! #### No candidate -/

theorem waitingNow_of_thermal (h : s.thermal = true) : s.waitingNow = [] := by simp [State.waitingNow, h]

theorem waitingNow_of_no_cands (h : s.cands = []) : s.waitingNow = [] := by simp [State.waitingNow, h, firstOf]

theorem candOrder_nil (hw : s.waitingNow = []) (hs : ∀ i ∈ s.insts, i.phase ≠ .saved) : s.candOrder = [] := by
  have hn : s.insts.filter (fun i => i.phase == .saved) = [] := by simpa [List.filter_eq_nil_iff] using hs
  simp [State.candOrder, hw, hn, orderBy]

theorem preemptFor_self (hw : s.waitingNow = []) : s.preemptFor = s := by
  simp [State.preemptFor, hw, orderBy]

theorem imagesOver_of_no_cands (h : s.cands = []) : s.imagesOver = s := by simp [State.imagesOver, h]

theorem quit_of_no_reports (hr : s.reports = []) (w : Who) :
    s.quit w = { s with fab := s.fab.filter (fun f => f.who != w) } := by simp [State.quit, hr]

/-- The end of the image reads drops what they asked of peers, and nothing else. -/
theorem imagesOver_frame (hr : s.reports = []) : ∃ F, s.imagesOver = { s with fab := F } := by
  suffices h : ∀ ls : List Launch, ∃ F, ls.foldl (fun t l => if t.failed l then t else t.quit l.who) s = { s with fab := F } from
    h s.cands
  intro ls
  induction ls generalizing s with
  | nil => exact ⟨s.fab, rfl⟩
  | cons l ls ih =>
    rw [List.foldl_cons, failed_false hr, if_neg Bool.false_ne_true, quit_of_no_reports hr]
    exact ih hr

/-- A boundary without a candidate ends (R44). -/
theorem launchAdmission_ends (hb : s.boundary = true) (hr : s.reports = []) (hw : s.waitingNow = [])
    (hs : ∀ i ∈ s.insts, i.phase ≠ .saved) : exec .launchAdmission s = .next { s.imagesOver with boundary := false } := by
  obtain ⟨F, hF⟩ := imagesOver_frame hr
  have hp : ({ s.imagesOver with boundary := false } : State).preemptFor = { s.imagesOver with boundary := false } :=
    preemptFor_self (by rw [hF]; exact hw)
  simp only [launchAdmission_serves hb hr, State.serveBoundary, candOrder_nil hw hs, State.nextCand, hp, Option.getD_some]

/-! #### One launch as the candidate -/

variable (hb : s.boundary = true) (hr : s.reports = []) (hc : s.candOrder = [.fresh l])
include hb hr hc

/-- A launch whose image read waits leaves the boundary open (log 35). -/
theorem launchAdmission_of_wait (h : s.readImage l = (.wait, s1)) :
    exec .launchAdmission s = .next ((s.waited s1).getD s) := by
  simp only [launchAdmission_serves hb hr, State.serveBoundary, hc, State.nextCand, h]

/-- A launch whose image is not sound fails (R20, R53). -/
theorem launchAdmission_of_bad (h : s.readImage l = (.bad, s1)) :
    exec .launchAdmission s = .next ((s1.failLaunch l 4).getD s) := by
  simp only [launchAdmission_serves hb hr, State.serveBoundary, hc, State.nextCand, h]

/-- A launch that has an image, a placement and its queues is the one to be admitted (R30, R36). -/
theorem launchAdmission_of_fit {img : Image} {p : Placed} {bind : List (Nat × Nat × Nat)}
    (h : s.readImage l = (.ok img, s1)) (hp : (placeAll s1.placeable img.rows img.cols img.ldies).isSome = true)
    (hf : s1.fit img.rows img.cols img.ldies img.queues = some (p, bind)) :
    exec .launchAdmission s = .next (((s1.quit l.who).admitAt l img p bind).getD s) := by
  have hn : (placeAll s1.placeable img.rows img.cols img.ldies).isNone = false := by simpa using hp
  simp only [launchAdmission_serves hb hr, State.serveBoundary, hc, State.nextCand, h, hn, hf, Bool.false_eq_true, if_false]

end

/-! ### Completion records (R52) -/

theorem leBytes_leNat (b : List Byte) : leBytes b.length (leNat b) = b := by
  induction b with
  | nil => rfl
  | cons x xs ih =>
    have hx := x.isLt
    rw [List.length_cons, leBytes, leNat, show (x.toNat + 256 * leNat xs) / 256 = leNat xs by omega, ih]
    congr 1
    apply BitVec.eq_of_toNat_eq
    rw [BitVec.toNat_ofNat]
    omega

theorem leBytes_mod (n v : Nat) : leBytes n (v % 2 ^ (8 * n)) = leBytes n v := by
  induction n generalizing v with
  | zero => rfl
  | succ n ih =>
    have h8 : 2 ^ (8 * (n + 1)) = 256 * 2 ^ (8 * n) := by rw [Nat.mul_add, Nat.pow_add]; omega
    rw [leBytes, leBytes, h8, Nat.mod_mul_right_div_self, ih]
    congr 1
    apply BitVec.eq_of_toNat_eq
    rw [BitVec.toNat_ofNat, BitVec.toNat_ofNat]
    exact Nat.mod_mul_right_mod v 256 _

/-- A field of a byte list that is known gives its bytes. -/
theorem drop_of_fieldAt {r : List Byte} {off n v : Nat} (hl : off + n ≤ r.length) (h : fieldAt r off n = v % 2 ^ (8 * n)) :
    r.drop off = leBytes n v ++ r.drop (off + n) := by
  have hn : ((r.drop off).take n).length = n := by rw [List.length_take, List.length_drop]; omega
  have ht : (r.drop off).take n = leBytes n v := by
    rw [← leBytes_mod n v, ← h, fieldAt]
    conv_lhs => rw [← leBytes_leNat ((r.drop off).take n), hn]
  conv_lhs => rw [← List.take_append_drop n (r.drop off), ht, List.drop_drop]

/-- A field that only a fault gives a value. -/
theorem ite_beq_zero (n v : Nat) : (if (n == 0) = true then 0 else v) = if n = 0 then 0 else v := by
  by_cases h : n = 0 <;> simp [h]

/-- The fields of a completion record are all of its bytes. -/
theorem recordBytes_of_isRecord {r : List Byte} {x : Inst} {status glob : Nat} (h : Claim.isRecord r x status glob) :
    r = recordBytes x status glob := by
  obtain ⟨hl, h0, h2, h3, h4, h8, hC, hE, h10, h18, h20, h22, h24, h28, h2C, h2E, h30, h34, h38, h3C⟩ := h
  have at' {off n v : Nat} (hk : off + n ≤ 64) (h : fieldAt r off n = v % 2 ^ (8 * n)) := drop_of_fieldAt (hl.symm ▸ hk) h
  have hend : r.drop (0x3C + 4) = [] := List.drop_eq_nil_of_le (by omega)
  calc r = r.drop 0 := rfl
    _ = recordBytes x status glob := by
      rw [at' (by omega) h0, at' (by omega) h2, at' (by omega) h3, at' (by omega) h4, at' (by omega) h8, at' (by omega) hC,
        at' (by omega) hE, at' (by omega) h10, at' (by omega) h18, at' (by omega) h20, at' (by omega) h22, at' (by omega) h24,
        at' (by omega) h28, at' (by omega) h2C, at' (by omega) h2E, at' (by omega) h30, at' (by omega) h34, at' (by omega) h38,
        at' (by omega) h3C, hend]
      unfold recordBytes
      simp only [List.append_nil, List.append_assoc, ite_beq_zero]

/-- The record of a launch that never started says nothing but the launch and its times (R53). -/
theorem recordBytes_unstarted {x : Inst} {l : Launch} {status glob : Nat} (hl : x.l = l) (hf : x.faults = 0) (ht : x.start = glob)
    (hd : x.delay = min (glob - l.tm) 0xFFFFFFFF) (hp : x.preempts = 0) (hz : x.freezes = 0) (h1 : x.stWgt = 0)
    (h2 : x.stHbm = 0) (h3 : x.stHost = 0) (h4 : x.stPeer = 0) :
    recordBytes x status glob = recordBytes (Inst.unstarted l glob) status glob := by
  unfold recordBytes
  simp only [Inst.unstarted, sat32, hl, hf, ht, hd, hp, hz, h1, h2, h3, h4, beq_self_eq_true, if_true]

theorem strm_onStrm_self (s : State) (p : Bool) (n : Nat) (f : Strm → Strm) : (s.onStrm p n f).strm p n = f (s.strm p n) := by
  simp [State.strm, State.onStrm, State.onPort, State.port]

theorem strm_cands (s : State) (c : List Launch) (p : Bool) (n : Nat) : ({ s with cands := c } : State).strm p n = s.strm p n := rfl

theorem strm_quit (s : State) (w : Who) (p : Bool) (n : Nat) : (s.quit w).strm p n = s.strm p n := rfl

/-- A launch that has failed and whose record performs is no candidate any more, and its command's signal stands next (R53, R279). -/
theorem failLaunch_of_ok {s s2 : State} {l : Launch} {status : Nat} (hr : s.reports = [])
    (h : s.wrOp l.who false (.va l.cmpl.toNat) (recordBytes (Inst.unstarted l s.glob) status s.glob) = (.ok (), s2)) :
    ∃ t, s.failLaunch l status = some t ∧ t.cands = s2.cands.erase l ∧ t.mem = s2.mem ∧ t.insts = s2.insts ∧
      (t.strm l.port l.strm).fly = (s2.strm l.port l.strm).fly.map (SCmd.launched · l.seq true) := by
  have hw : s.writeRecord (Inst.unstarted l s.glob) status = (.ok true, (s2.quit l.who).onStrm l.port l.strm
      (fun t => { t with fly := t.fly.map (SCmd.launched · l.seq true) })) := by
    simp only [State.writeRecord, Inst.unstarted, dueOf_none hr, Option.getD_none] at h ⊢
    rw [h]
  have ht : s.failLaunch l status = some { (s2.quit l.who).onStrm l.port l.strm
      (fun t => { t with fly := t.fly.map (SCmd.launched · l.seq true) }) with cands := s2.cands.erase l } := by
    rw [State.failLaunch, hw]
    rfl
  refine ⟨_, ht, rfl, rfl, rfl, ?_⟩
  rw [strm_cands, strm_onStrm_self, strm_quit]

/-- A launch that has failed and whose record waits stands with its record due as it is (R53, R151). -/
theorem failLaunch_of_wait {s s2 : State} {l : Launch} {status : Nat} (hr : s.reports = [])
    (h : s.wrOp l.who false (.va l.cmpl.toNat) (recordBytes (Inst.unstarted l s.glob) status s.glob) = (.wait, s2)) :
    s.failLaunch l status =
      some { s with reports := [⟨l.who, l.cmpl, recordBytes (Inst.unstarted l s.glob) status s.glob, none⟩] } := by
  have hw : s.writeRecord (Inst.unstarted l s.glob) status = (.ok false,
      { s with reports := [⟨l.who, l.cmpl, recordBytes (Inst.unstarted l s.glob) status s.glob, none⟩] }) := by
    simp only [State.writeRecord, Inst.unstarted, dueOf_none hr, Option.getD_none] at h ⊢
    rw [h]
    simp [hr]
  rw [State.failLaunch, hw]

/-! ### A launch that starts (R25, R30, R33, R36) -/

/-- A state apart from cores, dies and memory with its error marks: what seating a launched kernel leaves alone. -/
def State.shell (s : State) : State := { s with mem := [], errs := [], cores := [], dies := [] }

theorem shell_onDie (s : State) (d : Nat) (f : Die → Die) : (s.onDie d f).shell = s.shell := rfl

theorem shell_setCore (s : State) (k : Nat) (c : Core) : (s.setCore k c).shell = s.shell := rfl

theorem shell_loadCore (s : State) (k : Nat) (c : ICore) : (s.loadCore k c).shell = s.shell := by
  unfold State.shell State.loadCore State.wipe
  rfl

theorem shell_foldl {α : Type} (f : State → α → State) (h : ∀ s a, (f s a).shell = s.shell) (l : List α) (s : State) :
    (l.foldl f s).shell = s.shell := by
  induction l generalizing s with
  | nil => rfl
  | cons a l ih => rw [List.foldl_cons, ih, h]

theorem shell_takeQueues (s : State) (p : Placed) (bind : List (Nat × Nat × Nat)) :
    (s.takeQueues p bind).shell = s.shell := by
  unfold State.takeQueues
  exact shell_foldl _ (fun _ _ => shell_onDie ..) _ _

/-- The entry that a started launch adds to those that run (R30, R33). -/
def Inst.launched (s : State) (l : Launch) (img : Image) (p : Placed) (bind : List (Nat × Nat × Nat)) : Inst :=
  { Inst.unstarted l s.glob with
    id := s.nuid + 1, phase := .running, stages := img.stages, rows := img.rows, cols := img.cols, ldies := img.ldies
    queues := img.queues, dmap := p.dmap, place := p.place, held := p.cover img.rows img.cols, sched := img.sched
    bars := launchBars img, bind := bind }

/-- The physical core of a core of an image under a placement (R30). -/
abbrev Placed.seat (p : Placed) (img : Image) (c : ICore) : Nat := p.phys img.rows img.cols c.ldie c.lrow c.lcol

/-- The module's own notes of a launch that starts (R33, R44), before any core is loaded. -/
def State.noted (s : State) (l : Launch) (img : Image) (p : Placed) (bind : List (Nat × Nat × Nat)) : State :=
  { s with nuid := s.nuid + 1, insts := s.insts ++ [Inst.launched s l img p bind], cands := s.cands.erase l
           rr := (l.port.toNat * 512 + l.strm + 1) % 1024 }

/-- The queues of a launch with their initial records (R24, R36), before any core is loaded. -/
def State.queued (s : State) (l : Launch) (img : Image) (p : Placed) (bind : List (Nat × Nat × Nat)) : State :=
  img.qinit.foldl (fun s e => s.qpush (p.place.getD e.1 (0, 0, 0, 0)).1 (boundQ bind e.1 e.2.1) e.2.2)
    ((s.noted l img p bind).takeQueues p bind)

/-- One core of an image in its place (R25). -/
def State.seated (s : State) (id : Nat) (l : Launch) (img : Image) (p : Placed) (bind : List (Nat × Nat × Nat)) (c : ICore) : State :=
  (s.loadCore (p.seat img c) c).setCore (p.seat img c) (entryCore img l id p bind (p.seat img c) c)

section
variable (s : State) (l : Launch) (img : Image) (p : Placed) (bind : List (Nat × Nat × Nat))

theorem enterInst_eq : s.enterInst l img p bind =
    let t := img.cores.foldl (fun t c => t.seated (s.nuid + 1) l img p bind c) (s.queued l img p bind)
    { t with turn := t.turn ++ img.cores.map (p.seat img) } := rfl

theorem shell_queued : (s.queued l img p bind).shell = (s.noted l img p bind).shell :=
  (shell_foldl _ (fun _ _ => shell_onDie ..) _ _).trans (shell_takeQueues ..)

theorem shell_seated (id : Nat) (c : ICore) : (s.seated id l img p bind c).shell = s.shell :=
  (shell_setCore ..).trans (shell_loadCore ..)

/-- Apart from cores, dies and memory a launch that starts changes the module's own notes and the turn alone. -/
theorem shell_enterInst : (s.enterInst l img p bind).shell =
    ({ s.noted l img p bind with turn := s.turn ++ img.cores.map (p.seat img) } : State).shell := by
  rw [enterInst_eq]
  generalize ht : List.foldl _ _ img.cores = t
  have h : t.shell = (s.noted l img p bind).shell := by
    rw [← ht]
    exact (shell_foldl _ (fun t c => shell_seated t l img p bind _ c) _ _).trans (shell_queued ..)
  have hturn : t.turn = s.turn := (congrArg State.turn h : t.shell.turn = (s.noted l img p bind).shell.turn)
  calc ({ t with turn := t.turn ++ img.cores.map (p.seat img) } : State).shell
      = { t.shell with turn := t.turn ++ img.cores.map (p.seat img) } := rfl
    _ = _ := by rw [h, hturn]; rfl

theorem insts_enterInst : (s.enterInst l img p bind).insts = s.insts ++ [Inst.launched s l img p bind] :=
  (congrArg State.insts (shell_enterInst s l img p bind) : (s.enterInst l img p bind).shell.insts = _)

theorem cands_enterInst : (s.enterInst l img p bind).cands = s.cands.erase l :=
  (congrArg State.cands (shell_enterInst s l img p bind) : (s.enterInst l img p bind).shell.cands = _)

theorem glob_enterInst : (s.enterInst l img p bind).glob = s.glob :=
  (congrArg State.glob (shell_enterInst s l img p bind) : (s.enterInst l img p bind).shell.glob = _)

theorem turn_enterInst : (s.enterInst l img p bind).turn = s.turn ++ img.cores.map (p.seat img) :=
  (congrArg State.turn (shell_enterInst s l img p bind) : (s.enterInst l img p bind).shell.turn = _)

end

/-! #### The memories of a core (R20, R25, R253) -/

section
variable (s : State) (k : Nat) (c : ICore)

theorem loadCore_mem : (s.loadCore k c).mem =
    wrBytes (wrBytes (wrBytes (wrBytes (s.wipe k).mem (scrKey k 0) c.data) (iscKey k false 0) c.code)
      (iscKey k false 14336) stubBytes) (iscKey k true 14336) stubBytes := by
  unfold State.loadCore
  dsimp only

theorem stubBytes_length : stubBytes.length = 2048 := by simp only [stubBytes, List.length_map, List.length_range]

/-! Where a core's scratch, its code and its two stubs lie (R15, R80, R252). -/

theorem scrKey_start : scrKey k 0 = k * 2 ^ 18 := by
  unfold scrKey
  omega

theorem iscKey_halfA {off : Nat} (h : off < 2 ^ 14) : iscKey k false off = 2 ^ 32 + k * 2 ^ 15 + off := by
  rw [iscKey, Nat.mod_eq_of_lt h, Bool.toNat_false, Nat.zero_mul, Nat.add_zero]

theorem iscKey_halfB {off : Nat} (h : off < 2 ^ 14) : iscKey k true off = 2 ^ 32 + k * 2 ^ 15 + 2 ^ 14 + off := by
  rw [iscKey, Nat.mod_eq_of_lt h, Bool.toNat_true, Nat.one_mul]

theorem iscKey_code : iscKey k false 0 = 2 ^ 32 + k * 2 ^ 15 := by
  rw [iscKey_halfA k (by omega : 0 < 2 ^ 14), Nat.add_zero]

theorem iscKey_stubA : iscKey k false 14336 = 2 ^ 32 + k * 2 ^ 15 + 14336 := iscKey_halfA k (by omega)

theorem iscKey_stubB : iscKey k true 14336 = 2 ^ 32 + k * 2 ^ 15 + 2 ^ 14 + 14336 := iscKey_halfB k (by omega)

/-- The code of a core stands in half A, below the stub. -/
theorem rdBytes_loadCore_code (h : c.code.length ≤ 14336) :
    rdBytes (s.loadCore k c).mem (iscKey k false 0) c.code.length = c.code := by
  rw [loadCore_mem, iscKey_code, iscKey_stubA, iscKey_stubB, rdBytes_wrBytes_apart _ _ _ _ _ (.inl (by omega)),
    rdBytes_wrBytes_apart _ _ _ _ _ (.inl (by omega)), rdBytes_wrBytes]

/-- The stub stands at the top of both halves (R253). -/
theorem rdBytes_loadCore_stub (half : Bool) : rdBytes (s.loadCore k c).mem (iscKey k half 14336) 2048 = stubBytes := by
  rw [← stubBytes_length]
  cases half with
  | true => rw [loadCore_mem, rdBytes_wrBytes]
  | false =>
    have hlen := stubBytes_length
    rw [loadCore_mem, iscKey_stubA, iscKey_stubB, rdBytes_wrBytes_apart _ _ _ _ _ (.inl (by omega)), rdBytes_wrBytes]

/-- The preload rows of a core stand in its scratch from row 0 on (R25). -/
theorem rdBytes_loadCore_data (hk : k < 4096) (h : c.data.length ≤ 2 ^ 18) :
    rdBytes (s.loadCore k c).mem (scrKey k 0) c.data.length = c.data := by
  rw [loadCore_mem, scrKey_start, iscKey_code, iscKey_stubA, iscKey_stubB, rdBytes_wrBytes_apart _ _ _ _ _ (.inl (by omega)),
    rdBytes_wrBytes_apart _ _ _ _ _ (.inl (by omega)), rdBytes_wrBytes_apart _ _ _ _ _ (.inl (by omega)), rdBytes_wrBytes]

end

/-! #### The registers of a core (R25, R26, R30, R252) -/

/-- A core that has just begun at an entry bundle in half A (R25, R26). -/
def Core.atEntry (d : Core) (inst entry : Nat) : Prop :=
  d.run = true ∧ d.exited = false ∧ d.inst = inst ∧ d.pc = entry ∧ d.half = false ∧ d.cyc = 0 ∧ d.stub = false

section
variable {d : Core} {inst entry : Nat}

theorem atEntry_setCr (h : d.atEntry inst entry) (n : Nat) (v : W64) : (d.setCr n v).atEntry inst entry := h

theorem atEntry_setReg (h : d.atEntry inst entry) (n : Nat) (v : W64) : (d.setReg .s n v).atEntry inst entry := by
  unfold Core.setReg
  dsimp only
  split <;> exact h

theorem atEntry_setShapes (h : d.atEntry inst entry) (e : Nat) (l : List W64) : (d.setShapes e l).atEntry inst entry := by
  induction l generalizing d e with
  | nil => exact h
  | cons v l ih => exact ih (d := { d with shape := Sparse.set 0 d.shape (e % 64) v }) h (e + 1)

theorem atEntry_setLeaves (h : d.atEntry inst entry) (e : Nat) (l : List (BitVec 256)) : (d.setLeaves e l).atEntry inst entry := by
  induction l generalizing d e with
  | nil => exact h
  | cons v l ih => exact ih (d := { d with leaf := Sparse.set 0 d.leaf (e % 64) v }) h (e + 1)

theorem cr_setReg (c : Core) (f : File) (n : Nat) (v : W64) : (c.setReg f n v).cr = c.cr := by
  cases f with
  | s => unfold Core.setReg; dsimp only; split <;> rfl
  | g => rfl
  | h => rfl

end

section
variable (img : Image) (l : Launch) (inst : Nat) (p : Placed) (bind : List (Nat × Nat × Nat)) (k : Nat) (c : ICore)

/-- A core of a launch begins at its entry bundle. -/
theorem entryCore_atEntry : (entryCore img l inst p bind k c).atEntry inst c.entry := by
  unfold entryCore
  refine atEntry_setReg (atEntry_setReg (atEntry_setCr (atEntry_setCr (atEntry_setCr (atEntry_setCr (atEntry_setCr
    (atEntry_setLeaves (atEntry_setShapes ?_ _ _) _ _) _ _) _ _) _ _) _ _) _ _) _ _) _ _
  exact ⟨rfl, rfl, rfl, rfl, rfl, rfl, rfl⟩

/-- The argument range stands in `s1` and `s2`: that of the launch, or else that of its image (R25). -/
theorem entryCore_s1 : (entryCore img l inst p bind k c).rdS 1 =
    if l.argva = 0 then l.image + BitVec.ofNat 64 img.args else l.argva := by
  unfold entryCore
  rw [rdS_setReg, if_neg (by decide), rdS_setReg, if_pos (by decide)]
  exact apply_ite Prod.fst ..

theorem entryCore_s2 : (entryCore img l inst p bind k c).rdS 2 =
    if l.argva = 0 then BitVec.ofNat 64 img.argsize else l.arglen := by
  unfold entryCore
  rw [rdS_setReg, if_pos (by decide)]
  exact apply_ite Prod.snd ..

theorem entryCore_stage : Sparse.get 0 (entryCore img l inst p bind k c).cr 0x002 = BitVec.ofNat 64 c.stage := by
  unfold entryCore
  rw [cr_setReg, cr_setReg, get_setCr_ne _ _ _ _ (by decide), get_setCr_self]

theorem entryCore_lcore : Sparse.get 0 (entryCore img l inst p bind k c).cr 0x003 =
    lcoreWord (img.lgrp c) c.ldie c.lrow c.lcol := by
  unfold entryCore Core.placeRegs
  rw [cr_setReg, cr_setReg, get_setCr_ne _ _ _ _ (by decide), get_setCr_ne _ _ _ _ (by decide), get_setCr_ne _ _ _ _ (by decide),
    get_setCr_ne _ _ _ _ (by decide), get_setCr_self]

/-- A group of one core reads 0xFF in LGRP (R30). -/
theorem lgrp_of_one_core (h : img.cores = [c]) : img.lgrp c = 0xFF := by simp [Image.lgrp, h]

end

section
variable {s : State} {l : Launch} {img : Image} {p : Placed} {bind : List (Nat × Nat × Nat)}

theorem core_turn (s : State) (t : List Nat) (k : Nat) : ({ s with turn := t } : State).core k = s.core k := rfl

/-- Of an image of one core that core is seated, and its memories are loaded. -/
theorem enterInst_of_one_core {c : ICore} (hc : img.cores = [c]) :
    (s.enterInst l img p bind).core (p.seat img c) = entryCore img l (s.nuid + 1) p bind (p.seat img c) c ∧
    (s.enterInst l img p bind).mem = ((s.queued l img p bind).loadCore (p.seat img c) c).mem := by
  rw [enterInst_eq, hc]
  dsimp only [List.foldl_cons, List.foldl_nil, State.seated]
  rw [core_turn]
  exact ⟨core_setCore_self .., State.setCore_mem ..⟩

/-! #### The edge and the power limit (R12, R33) -/

/-- Under a power limit below 4,600 W a launch is delayed once (R12, log 31). -/
theorem admitAt_of_low_power (hp : s.powerLimit < 4600) (hh : l.hold = none) :
    s.admitAt l img p bind = some (s.choose.2.setHold l (some (s.glob + s.choose.1))) := by
  simp [State.admitAt, State.powerHold, hp, hh]

theorem powerHold_none (h : 4600 ≤ s.powerLimit ∨ l.hold ≠ none) : s.powerHold l = none := by
  have hn : (decide (s.powerLimit < 4600) && l.hold.isNone) = false := by
    rcases h with h | h
    · simp [Nat.not_lt.mpr h]
    · simp [Option.isNone_eq_false_iff.mpr (Option.isSome_iff_ne_none.mpr h)]
  simp only [State.powerHold, hn, Bool.false_eq_true, if_false]

theorem admitAt_off_edge (h : 4600 ≤ s.powerLimit ∨ l.hold ≠ none) (hd : s.debt < 10) : s.admitAt l img p bind = none := by
  simp [State.admitAt, powerHold_none h, State.atEdge, hd]

theorem admitAt_on_edge (h : 4600 ≤ s.powerLimit ∨ l.hold ≠ none) (hd : 10 ≤ s.debt) :
    s.admitAt l img p bind = some (s.enterInst l img p bind) := by
  simp [State.admitAt, powerHold_none h, State.atEdge, hd]

end

/-! ### Power (R13, R267) -/

/-- Without power every byte of the module reads as one that nothing has written; host memory stands (R13). -/
theorem rdByte_powerLost (s : State) (a : Nat) :
    rdByte s.powerLost.mem a = if a < 2 ^ 64 then memDefault else rdByte s.mem a := by
  refine (Sparse.get_filter memDefault s.mem (fun k => decide (2 ^ 64 ≤ k)) a).trans ?_
  by_cases h : a < 2 ^ 64
  · rw [if_pos h, if_neg (by rw [decide_eq_true_eq]; omega)]
  · rw [if_neg h, if_pos (by rw [decide_eq_true_eq]; omega), rdByte]

/-- Both ways in which power goes are one (R13, R267). -/
theorem exec_of_power_loss {s : State} (hp : s.power = true) {e : Instr} (he : e ∈ [Instr.modulePowerOff, .thermalTrip]) :
    exec e s = .next s.powerLost := by
  have h : (.next (if s.power then s.powerLost else s) : Res) = .next s.powerLost := by rw [if_pos hp]
  rcases List.mem_pair.mp he with rfl | rfl
  · exact h
  · exact h

/-! ### Heat (R13) -/

theorem thermalThrottle_event {s : State} (h : (s.power && s.fwUp && !s.thermal) = true) :
    exec .thermalThrottle s = .next ({ s with thermal := true }.eventAll 6 0 0) := by
  show (.next (if s.power && s.fwUp && !s.thermal then _ else _) : Res) = _
  rw [if_pos h]

theorem thermalThrottle_silent {s : State} (hp : s.power = true) (h : s.fwUp = false ∨ s.thermal = true) :
    exec .thermalThrottle s = .next { s with thermal := true } := by
  show (.next (if s.power && s.fwUp && !s.thermal then _ else _) : Res) = _
  rw [if_neg (by rcases h with h | h <;> simp [h]), hp, Bool.or_true]

/-- The throttle holds launches back and changes nothing of cores, running kernels and candidates. -/
theorem thermalThrottle_frame {s : State} (hp : s.power = true) : ∃ t, exec .thermalThrottle s = .next t ∧ t.thermal = true ∧
    t.cores = s.cores ∧ t.insts = s.insts ∧ t.cands = s.cands ∧ (s.fwUp = false ∨ s.thermal = true → t = { s with thermal := true }) := by
  by_cases h : s.fwUp = false ∨ s.thermal = true
  · exact ⟨_, thermalThrottle_silent hp h, rfl, rfl, rfl, rfl, fun _ => rfl⟩
  · have hon : (s.power && s.fwUp && !s.thermal) = true := by
      rw [not_or, Bool.not_eq_false, Bool.not_eq_true] at h
      simp [hp, h]
    exact ⟨_, thermalThrottle_event hon, State.eventAll_thermal .., State.eventAll_cores .., State.eventAll_insts ..,
      State.eventAll_cands .., fun h' => absurd h' h⟩

/-- Above the throttle mark a boundary ends with every candidate where it was. -/
theorem launchAdmission_throttled {s : State} (ht : s.thermal = true) (hb : s.boundary = true) (hr : s.reports = [])
    (hs : ∀ i ∈ s.insts, i.phase ≠ .saved) :
    ∃ t, exec .launchAdmission s = .next t ∧ t = { s with boundary := false, fab := t.fab } := by
  obtain ⟨F, hF⟩ := imagesOver_frame hr
  exact ⟨_, launchAdmission_ends hb hr (waitingNow_of_thermal ht) hs, by rw [hF]⟩

theorem holdOver_frame (s : State) : (s.holdOver.getD s).insts = s.insts ∧ (s.holdOver.getD s).cores = s.cores ∧
    (s.holdOver.getD s).turn = s.turn := by
  unfold State.holdOver
  split <;> exact ⟨rfl, rfl, rfl⟩

theorem thermalRelease_of_throttled {s : State} (h : s.thermal = true) :
    exec .thermalRelease s = .next { s with thermal := false, boundary := true } := by
  show (.next (if s.thermal then _ else _) : Res) = _
  rw [if_pos h]

/-! ### Lost dies and stacks, and `MODID` (R14, R267) -/

theorem diemaskClear_of_set {s : State} {d : BitVec 2} (hf : s.fwUp = true) (hd : s.diemask.getLsbD d.toNat = true) :
    exec (.diemaskClear d) s = .next { s with diemask := s.diemask &&& ~~~(1#4 <<< d.toNat) }.replace := by
  show (.next (if s.fwUp && s.diemask.getLsbD d.toNat then _ else _) : Res) = _
  rw [if_pos (by simp [hf, hd])]

/-- Clearing one bit of a die mask. -/
theorem getLsbD_clear_bit (m : BitVec 4) (d : BitVec 2) (i : Nat) :
    (m &&& ~~~(1#4 <<< d.toNat)).getLsbD i = (m.getLsbD i && decide (i ≠ d.toNat)) := by
  by_cases hi : i < 4
  · revert m d
    interval_cases i <;> decide
  · rw [BitVec.getLsbD_of_ge _ _ (by omega), BitVec.getLsbD_of_ge _ _ (by omega), Bool.false_and]

theorem stackDisable_of_on {s : State} {k : BitVec 5} (hf : s.fwUp = true) (hk : k.toNat ∉ s.stackOff) :
    exec (.stackDisable k) s = .next (if s.diemask.getLsbD (k.toNat / 8) then
      ({ s with stackOff := s.stackOff ++ [k.toNat] } : State).replace else { s with stackOff := s.stackOff ++ [k.toNat] }) := by
  show (.next (if !s.fwUp || s.stackOff.contains k.toNat then _ else _) : Res) = _
  rw [if_neg (by simp [hf, hk])]

/-- PCORES counts the cores of dies that work, without command cores, and without retired ones that no kernel holds (R14). -/
theorem pcores_eq (s : State) : s.pcores = ((List.range 4096).filter (fun k => decide (k % 1024 / 16 < 36) &&
    !(k % 1024 == 35 * 16 + 14 || k % 1024 == 35 * 16 + 15) && s.diemask.getLsbD (k / 1024) &&
    !(s.retired.any (fun u => unitCovers u.toNat k) && !s.insts.any (fun i => i.held.contains k)))).length := by
  unfold State.pcores
  refine congrArg List.length (List.filter_congr fun k hk => ?_)
  have hlt : k < 4096 := List.mem_range.mp hk
  rw [realCore, decide_eq_true hlt, Bool.true_and]
  simp only [cmdCore, dieOf, State.isRetired, State.isOut, State.isHeld]

/-! ### The statements of the module (R12 to R14) -/

theorem modid_reset : State.reset.modid = 0x0200000F00000000 := by decide

/-- Settles O32: each value is the one that `State.reset` lists, or what a table with nothing listed reads as. -/
theorem resetHasTheSpecsValues : Obligations.ResetHasTheSpecsValues := by
  unfold Obligations.ResetHasTheSpecsValues
  intro s
  have hbounds : ∀ d < 4, s.bounds.getD d 0 = 200 := by decide
  have hbuckets (k : Nat) : Sparse.get 0 s.buckets k = 0 := rfl
  have hcore (k : Nat) : s.core k = Core.idle k := rfl
  have hstrm (p : Bool) (n : Nat) : s.strm p n = Strm.zero := rfl
  have hport (p : Bool) : s.port p = Port.zero := rfl
  have hdie (d : Nat) : s.die d = Die.empty := rfl
  have hlane (l : Nat) : s.laneAt l = Lane.idle := rfl
  refine ⟨rfl, rfl, rfl, rfl, modid_reset, rfl, hbounds, rfl, rfl, rfl, rfl, rfl, rfl, rfl, rfl, rfl, rfl, hbuckets, rfl,
    fun k => ?_, fun p n => ?_, fun d => ?_, fun l => ?_⟩
  · rw [hcore]
    exact ⟨rfl, rfl⟩
  · rw [hstrm, hport]
    exact ⟨rfl, rfl, rfl, rfl, rfl⟩
  · rw [hdie]
    exact ⟨rfl, rfl, rfl⟩
  · rw [hlane]
    rfl

/-- Settles O22: power by what `State.powerLost` leaves, heat by a boundary without candidates, lost units by what a replacement
request leaves alone, `MODID` by the count of placeable cores. -/
theorem powerHeatAndLostUnits : Obligations.PowerHeatAndLostUnits := by
  unfold Obligations.PowerHeatAndLostUnits
  intro s d k hp
  refine ⟨fun e he => ⟨_, exec_of_power_loss hp he, rfl, rfl, rfl, rfl, rfl, rfl, rfl, rfl, rfl, rfl, fun _ a => rdByte_powerLost s a⟩,
    thermalThrottle_frame hp, launchAdmission_throttled, fun _ hb hr => ⟨_, launchAdmission_holdOver hb hr, holdOver_frame s⟩,
    thermalRelease_of_throttled, fun hf hd => ?_, fun hf hk => ⟨_, stackDisable_of_on hf hk, ?_⟩, ?_⟩
  · refine ⟨_, diemaskClear_of_set hf hd, State.replace_repl _, State.replace_cores _, fun i => ?_⟩
    rw [State.replace_diemask]
    exact getLsbD_clear_bit ..
  · split
    next hdie =>
      exact ⟨State.replace_cores _, State.replace_stackOff _, State.replace_diemask _, fun _ => State.replace_repl _,
        fun h => absurd (hdie.symm.trans h) (by decide)⟩
    next hdie => exact ⟨rfl, rfl, rfl, fun h => absurd h hdie, fun _ => rfl⟩
  · rw [State.modid, State.stackCount, State.cportCount, pcores_eq]

/-- Settles O16: each branch of a boundary with one candidate by its own lemma; what a started launch leaves in the module by the
frame of `State.enterInst`, and what its one core holds by the lemmas on `State.loadCore` and `entryCore`. -/
theorem launchesAreAdmitted : Obligations.LaunchesAreAdmitted := by
  unfold Obligations.LaunchesAreAdmitted
  intro s s1 l img p bind hb hr
  refine ⟨fun hc hs => ?_, fun hc h => launchAdmission_of_wait hb hr hc h, ?_, ?_, fun hc h hp hf => ?_⟩
  · rw [launchAdmission_ends hb hr (waitingNow_of_no_cands hc) hs, imagesOver_of_no_cands hc]
  · intro hc h hr1 s2 r x hl hf ht hd hp hz h1 h2 h3 h4 hrec hw
    rw [recordBytes_of_isRecord hrec, recordBytes_unstarted hl hf ht hd hp hz h1 h2 h3 h4] at hw
    obtain ⟨t, hfail, ht⟩ := failLaunch_of_ok hr1 hw
    exact ⟨t, by rw [launchAdmission_of_bad hb hr hc h, hfail, Option.getD_some], ht⟩
  · intro hc h hr1 s2 hw
    rw [launchAdmission_of_bad hb hr hc h, failLaunch_of_wait hr1 hw, Option.getD_some]
  have hexec := launchAdmission_of_fit hb hr hc h hp hf
  refine ⟨fun hlow hhold => ?_, fun hpow hd => ?_, fun hpow hd => ?_⟩
  · rw [admitAt_of_low_power (s := s1.quit l.who) hlow hhold, Option.getD_some] at hexec
    exact ⟨_, _, hexec, rfl, rfl, rfl, rfl⟩
  · rw [hexec, admitAt_off_edge (s := s1.quit l.who) hpow hd, Option.getD_none]
  · rw [admitAt_on_edge (s := s1.quit l.who) hpow hd, Option.getD_some] at hexec
    refine ⟨_, Inst.launched (s1.quit l.who) l img p bind, hexec, insts_enterInst .., rfl, rfl, rfl, rfl, rfl, rfl, rfl, rfl, rfl,
      cands_enterInst .., glob_enterInst .., turn_enterInst .., ?_⟩
    rintro c k hcores rfl
    obtain ⟨hcore, hmem⟩ := enterInst_of_one_core (s := s1.quit l.who) (l := l) (p := p) (bind := bind) hcores
    obtain ⟨hrun, hexit, hinst, hpc, hhalf, hcyc, hstub⟩ := entryCore_atEntry img l (s1.nuid + 1) p bind (p.seat img c) c
    dsimp only
    rw [hcore, hmem]
    refine ⟨hrun, hexit, hinst, hpc, hhalf, hcyc, hstub, entryCore_s1 .., entryCore_s2 .., entryCore_stage .., ?_,
      rdBytes_loadCore_code _ _ _, rdBytes_loadCore_stub _ _ _, rdBytes_loadCore_data _ _ _⟩
    refine (entryCore_lcore ..).trans ?_
    rw [lgrp_of_one_core _ _ hcores]
    rfl

end Sys2Proof.Machine

namespace Sys2Proof.Machine

/-! ### What every step keeps (O33, O59) -/

section

-- Elaborated one by one, these many short proofs stay within the memory that threads may take.
set_option Elab.async false

variable {b : Bool} {o s : State}

/-- What no operation of a core changes: its index and its cycle. -/
abbrev Core.tag (c : Core) : Nat × Nat := (c.id, c.cyc)

/-- The counts that only a clock changes, and the retries that a second's end drops. -/
abbrev State.clocks (s : State) : Nat × Nat × Sparse Nat × Bool := (s.glob, s.debt, s.retries, s.fwUp)

/-- The fields that `Kept` speaks of. -/
abbrev State.frame (s : State) : List Host.Cell × Sparse Core × Boot × Nat × Nat × Sparse Nat × Bool :=
  (s.mem, s.cores, s.boot, s.clocks)

/-- What every step keeps, seen from a state `o` before it: canonical memory (R15), each core's record under its own index (R16), and a
legal boot window (R273 to R276); where `b` is true, the clocks as well. -/
structure Kept (b : Bool) (o s : State) : Prop where
  mem : memWf o.mem = true → memWf s.mem = true
  placed : Claim.placed o → Claim.placed s
  boot : Claim.bootSound o → Claim.bootSound s
  calm : b = true → s.clocks = o.clocks ∧ ∀ k, (s.core k).cyc = (o.core k).cyc

/-- The same of an answer and the state after it. -/
structure KeptP {α : Type} (b : Bool) (o : State) (r : α × State) : Prop where
  snd : Kept b o r.2

/-- The same of an attempt that may not be enabled. -/
structure KeptO (b : Bool) (o : State) (r : Option State) : Prop where
  get : ∀ t, r = some t → Kept b o t

/-- The same of an outcome. -/
structure KeptR (b : Bool) (o : State) (r : Res) : Prop where
  get : ∀ t, r = .next t → Kept b o t

theorem Kept.refl (s : State) : Kept b s s := ⟨id, id, id, fun _ => ⟨rfl, fun _ => rfl⟩⟩

/-- Other fields are free. -/
theorem Kept.upd {t : State} (h : Kept b o s) (e : t.frame = s.frame := by rfl) : Kept b o t := by
  obtain ⟨h1, h2, h3, h4⟩ := h
  obtain ⟨em, ec, eb, ek⟩ : t.mem = s.mem ∧ t.cores = s.cores ∧ t.boot = s.boot ∧ t.clocks = s.clocks := by
    simpa [State.frame] using e
  have ef : t.fwUp = s.fwUp := congrArg (·.2.2.2) ek
  refine ⟨by rwa [em], fun p => ?_, fun p => ?_, fun p => ?_⟩
  · unfold Claim.placed; rw [ec]; exact h2 p
  · unfold Claim.bootSound; rw [eb, ef]; exact h3 p
  · rw [ek]; unfold State.core; rw [ec]; exact h4 p

/-- A memory written in canonical form. -/
theorem Kept.setMem (h : Kept b o s) (m : List Host.Cell) (hm : memWf o.mem = true → memWf m = true) : Kept b o { s with mem := m } :=
  ⟨hm, h.placed, h.boot, h.calm⟩

/-- Where the clocks are not asked for, they are free as well. -/
theorem Kept.loose {t : State} (h : Kept false o s) (em : t.mem = s.mem := by rfl) (ec : t.cores = s.cores := by rfl)
    (eb : t.boot = s.boot := by rfl) (ef : t.fwUp = s.fwUp := by rfl) : Kept false o t := by
  refine ⟨by rw [em]; exact h.mem, fun p => ?_, fun p => ?_, nofun⟩
  · unfold Claim.placed; rw [ec]; exact h.placed p
  · unfold Claim.bootSound; rw [eb, ef]; exact h.boot p

theorem Kept.pair {α : Type} {a : α} (h : Kept b o s) : KeptP b o (a, s) := ⟨h⟩

/-- The state that an answer holds, once it is taken apart. -/
theorem KeptP.out {α : Type} {r : α × State} {a : α} {t : State} (h : KeptP b o r) (e : r = (a, t)) : Kept b o t := by
  cases e
  exact h.snd

theorem Kept.ite {t : State} {p : Prop} [Decidable p] (h : Kept b o s) (ht : Kept b o t) : Kept b o (if p then s else t) := by
  split
  · exact h
  · exact ht

theorem KeptP.ite {α : Type} {r q : α × State} {p : Prop} [Decidable p] (h : KeptP b o r) (hq : KeptP b o q) :
    KeptP b o (if p then r else q) := by
  split
  · exact h
  · exact hq

theorem Kept.foldl {α : Type} {f : State → α → State} (h : Kept b o s) (hf : ∀ t a, Kept b o t → Kept b o (f t a)) (l : List α) :
    Kept b o (l.foldl f s) := by
  induction l generalizing s with
  | nil => exact h
  | cons a l ih => exact ih (hf s a h)

theorem KeptP.bind {α β : Type} {r : Acc α × State} {f : α → State → Acc β × State} (h : KeptP b o r)
    (hf : ∀ a t, Kept b o t → KeptP b o (f a t)) : KeptP b o (Acc.bind r f) := by
  unfold Acc.bind
  split
  · exact hf _ _ h.snd
  · exact h.snd.pair
  · exact h.snd.pair

theorem KeptP.catch {α β : Type} {r : Acc α × State} {f : α → State → Acc β × State} {g : Nat → W64 → State → Acc β × State}
    (h : KeptP b o r) (hf : ∀ a t, Kept b o t → KeptP b o (f a t)) (hg : ∀ c d t, Kept b o t → KeptP b o (g c d t)) :
    KeptP b o (Acc.catch r f g) := by
  unfold Acc.catch
  split
  · exact hf _ _ h.snd
  · exact hg _ _ _ h.snd
  · exact h.snd.pair

theorem KeptO.none : KeptO b o Option.none := ⟨nofun⟩
theorem Kept.some (h : Kept b o s) : KeptO b o (Option.some s) := ⟨fun _ e => Option.some.inj e ▸ h⟩
theorem KeptO.getD {r : Option State} (hr : KeptO b o r) (h : Kept b o s) : Kept b o (r.getD s) := by
  cases r with
  | none => exact h
  | some t => exact hr.get t rfl

theorem KeptO.orElse {r q : Option State} (hr : KeptO b o r) (hq : KeptO b o q) : KeptO b o (r.orElse fun _ => q) := by
  cases r with
  | none => exact hq
  | some t => exact hr

theorem KeptO.ite {r q : Option State} {p : Prop} [Decidable p] (h : KeptO b o r) (hq : KeptO b o q) :
    KeptO b o (if p then r else q) := by
  split
  · exact h
  · exact hq

theorem KeptO.out {r : Option State} {t : State} (h : KeptO b o r) (e : r = Option.some t) : Kept b o t := h.get t e
theorem KeptO.mapOf {α : Type} {r : Option α} {f : α → State} (hf : ∀ a, Kept b o (f a)) : KeptO b o (r.map f) := by
  cases r with
  | none => exact KeptO.none
  | some a => exact (hf a).some

theorem KeptO.findSome {α : Type} {l : List α} {f : α → Option State} (hf : ∀ a, KeptO b o (f a)) :
    KeptO b o (l.findSome? f) := ⟨fun _ e => by
  obtain ⟨a, -, e⟩ := List.exists_of_findSome?_eq_some e
  exact (hf a).get _ e⟩

theorem Kept.next (h : Kept b o s) : KeptR b o (.next s) := ⟨fun _ e => Host.Outcome.next.inj e ▸ h⟩
theorem KeptR.ite {r q : Res} {p : Prop} [Decidable p] (h : KeptR b o r) (hq : KeptR b o q) :
    KeptR b o (if p then r else q) := by
  split
  · exact h
  · exact hq

theorem KeptR.out {r : Res} {t : State} (h : KeptR b o r) (e : r = .next t) : Kept b o t := h.get t e

/-! #### One core -/

theorem core_id (h : Claim.placed s) (k : Nat) : (s.core k).id = k := by
  have find : ∀ l : Sparse Core, (∀ e ∈ l, e.2.id = e.1) → ((Sparse.find l k).getD (Core.idle k)).id = k := by
    intro l
    induction l with
    | nil => intro _; rfl
    | cons e l ih =>
      intro hl
      unfold Sparse.find
      split
      next hk => exact (hl e (List.mem_cons_self ..)).trans hk
      next => exact ih fun x hx => hl x (List.mem_cons_of_mem _ hx)
  exact find s.cores h

theorem Sparse.mem_del {α : Type} {m : Sparse α} {k : Nat} {e : Nat × α} (h : e ∈ Sparse.del k m) : e ∈ m := by
  induction m with
  | nil => exact h
  | cons x m ih =>
    unfold Sparse.del at h
    split at h
    · exact List.mem_cons_of_mem _ (ih h)
    · rcases List.mem_cons.mp h with rfl | h
      · exact List.mem_cons_self ..
      · exact List.mem_cons_of_mem _ (ih h)

theorem Sparse.mem_ins {α : Type} {m : Sparse α} {k : Nat} {v : α} {e : Nat × α} (h : e ∈ Sparse.ins k v m) :
    e = (k, v) ∨ e ∈ m := by
  induction m with
  | nil => exact .inl (List.mem_singleton.mp h)
  | cons x m ih =>
    unfold Sparse.ins at h
    split at h
    · exact List.mem_cons.mp h
    · rcases List.mem_cons.mp h with rfl | h
      · exact .inr (List.mem_cons_self ..)
      · exact (ih h).imp_right (List.mem_cons_of_mem _)

theorem Sparse.mem_put {α : Type} {m : Sparse α} {k : Nat} {v : α} {e : Nat × α} (h : e ∈ Sparse.put m k v) :
    e = (k, v) ∨ e ∈ m := (Sparse.mem_ins h).imp_right Sparse.mem_del

theorem Kept.coreId (h : Kept b o s) (p : Claim.placed o) (k : Nat) : (s.core k).id = k := core_id (h.placed p) k

/-- A core written under its own index (R16). -/
theorem Kept.putCore (h : Kept false o s) (k : Nat) (c : Core) (hc : Claim.placed o → c.id = k) : Kept false o (s.setCore k c) := by
  refine ⟨h.mem, fun p e he => ?_, h.boot, nofun⟩
  rcases Sparse.mem_put he with rfl | he
  · exact hc p
  · exact h.placed p e he

theorem Kept.setCore (h : Kept b o s) (k : Nat) (c : Core) (hc : c.tag = (s.core k).tag) : Kept b o (s.setCore k c) := by
  obtain ⟨hi, hy⟩ := Prod.mk.inj hc
  refine ⟨h.mem, fun p e he => ?_, h.boot, fun p => ⟨(h.calm p).1, fun j => ?_⟩⟩
  · rcases Sparse.mem_put he with rfl | he
    · exact hi.trans (h.coreId p k)
    · exact h.placed p e he
  · obtain rfl | hj := eq_or_ne j k
    · rw [core_setCore_self]
      exact hy.trans ((h.calm p).2 j)
    · rw [core_setCore_ne _ _ _ _ hj]
      exact (h.calm p).2 j

theorem Kept.onCore (h : Kept b o s) (k : Nat) (f : Core → Core) (hf : ∀ c, (f c).tag = c.tag := by intro c; rfl) :
    Kept b o (s.onCore k f) :=
  h.setCore k _ (hf _)

/-! ### The index of a core (R16) -/

section
variable (c : Core)

theorem tag_eq {c d : Core} (hi : d.id = c.id) (hy : d.cyc = c.cyc) : d.tag = c.tag := Prod.ext hi hy

theorem id_of_tag {c d : Core} (h : d.tag = c.tag) : d.id = c.id := (Prod.mk.inj h).1

theorem tag_foldl {α : Type} {f : Core → α → Core} (hf : ∀ d a, (f d a).tag = d.tag) (l : List α) : (l.foldl f c).tag = c.tag := by
  induction l generalizing c with
  | nil => rfl
  | cons a l ih => exact (ih (f c a)).trans (hf c a)

@[simp] theorem tag_setCr (n v) : (c.setCr n v).tag = c.tag := by
  unfold Core.setCr
  rfl

@[simp] theorem tag_setReg (f n v) : (c.setReg f n v).tag = c.tag := by
  cases f with
  | s => unfold Core.setReg; dsimp only; split <;> rfl
  | g => rfl
  | h => rfl

@[simp] theorem tag_setVec (y n v m) : (c.setVec y n v m).tag = c.tag := by
  unfold Core.setVec
  split <;> rfl

@[simp] theorem tag_setP (n v) : (c.setP n v).tag = c.tag := by
  unfold Core.setP
  split <;> rfl

@[simp] theorem tag_setW (n v m) : (c.setW n v m).tag = c.tag := by
  unfold Core.setW
  split <;> rfl

@[simp] theorem tag_setZs (l) : (c.setZs l).tag = c.tag := by
  induction l generalizing c with
  | nil => rfl
  | cons e l ih => exact ih _

@[simp] theorem tag_setAccs (bank l) : (c.setAccs bank l).tag = c.tag := by
  induction l generalizing c with
  | nil => rfl
  | cons e l ih => exact ih _

@[simp] theorem tag_setOwn (w q n) : (c.setOwn w q n).tag = c.tag := by
  induction n generalizing c q with
  | zero => rfl
  | succ n ih => exact ih _ _

@[simp] theorem tag_setStages (n l) : (c.setStages n l).tag = c.tag := by
  induction l generalizing c n with
  | nil => rfl
  | cons b l ih => exact (ih _ _).trans (tag_setP ..)

@[simp] theorem tag_setShapes (e l) : (c.setShapes e l).tag = c.tag := by
  induction l generalizing c e with
  | nil => rfl
  | cons v l ih => exact ih _ _

@[simp] theorem tag_setLeaves (e l) : (c.setLeaves e l).tag = c.tag := by
  induction l generalizing c e with
  | nil => rfl
  | cons v l ih => exact ih _ _

@[simp] theorem tag_pushScatter (slot e add l) : (c.pushScatter slot e add l).tag = c.tag := by
  induction l generalizing c with
  | nil => rfl
  | cons x l ih => exact ih _

@[simp] theorem tag_pushSticky (lat spo spu) : (c.pushSticky lat spo spu).tag = c.tag := by
  unfold Core.pushSticky
  split <;> split <;> rfl

@[simp] theorem tag_detect (slot eng cause sub data baddr depth issue) :
    (c.detect slot eng cause sub data baddr depth issue).tag = c.tag := by
  unfold Core.detect
  dsimp only
  split
  · rfl
  · split <;> rfl

@[simp] theorem tag_slotFault (p cause data) : (c.slotFault p cause data).tag = c.tag := tag_detect ..
@[simp] theorem tag_faultNow (slot cause data) : (c.faultNow slot cause data).tag = c.tag := tag_detect ..
@[simp] theorem tag_faultIssue (slot cause) : (c.faultIssue slot cause).tag = c.tag := tag_detect ..
@[simp] theorem tag_stopStalled (cause data st) : (c.stopStalled cause data st).tag = c.tag := tag_detect ..

@[simp] theorem tag_trapRegs (f stub) : (c.trapRegs f stub).tag = c.tag :=
  (tag_setCr ..).trans <| (tag_setCr ..).trans <| (tag_setCr ..).trans <| (tag_setCr ..).trans <| tag_setCr ..

@[simp] theorem tag_trapEntry (f) : (c.trapEntry f).tag = c.tag := tag_eq (Core.trapEntry_id ..) (Core.trapEntry_cyc ..)

@[simp] theorem tag_trapReturn : c.trapReturn.tag = c.tag := by
  unfold Core.trapReturn
  exact tag_eq rfl rfl

@[simp] theorem tag_xcp64 (slot f r v) : (c.xcp64 slot f r v).tag = c.tag := by
  unfold Core.xcp64
  split <;> rfl

@[simp] theorem tag_tnextGo (q pd a) : (c.tnextGo q pd a).tag = c.tag := by
  unfold Core.tnextGo
  split <;> rfl

@[simp] theorem tag_landZ (lat zd ws spo spu) : (c.landZ lat zd ws spo spu).tag = c.tag := tag_pushSticky ..

@[simp] theorem tag_tileRows (row m) {f : Nat → Nat → Core → Core} (hf : ∀ k r d, (f k r d).tag = d.tag) :
    (c.tileRows row m f).tag = c.tag := by
  unfold Core.tileRows
  split
  · rfl
  · exact tag_foldl c (fun d k => hf ..) _

@[simp] theorem tag_markRow (off) : (c.markRow off).tag = c.tag := by
  unfold Core.markRow
  dsimp only
  split <;> rfl

@[simp] theorem tag_onChan (ch f) : (c.onChan ch f).tag = c.tag := by
  unfold Core.onChan
  split <;> rfl

@[simp] theorem tag_onCmd (ch uid f) : (c.onCmd ch uid f).tag = c.tag := tag_onChan ..

@[simp] theorem tag_push (slot lat e) : (c.push slot lat e).tag = c.tag := rfl
@[simp] theorem tag_pushX (slot e) : (c.pushX slot e).tag = c.tag := rfl
@[simp] theorem tag_landS (lat d v) : (c.landS lat d v).tag = c.tag := rfl
@[simp] theorem tag_landV (h lat d v m) : (c.landV h lat d v m).tag = c.tag := rfl
@[simp] theorem tag_landW (h n v m) : (c.landW h n v m).tag = c.tag := rfl
@[simp] theorem tag_landLanes (h lat w n d v) : (c.landLanes h lat w n d v).tag = c.tag := rfl
@[simp] theorem tag_landPair (h d n t) : (c.landPair h d n t).tag = c.tag := rfl
@[simp] theorem tag_land16 (h lat d q v) : (c.land16 h lat d q v).tag = c.tag := rfl
@[simp] theorem tag_engFault (slot cause sub data baddr depth) : (c.engFault slot cause sub data baddr depth).tag = c.tag := rfl
@[simp] theorem tag_branch (t) : (c.branch t).tag = c.tag := rfl
@[simp] theorem tag_noteNames (depth qs) : (c.noteNames depth qs).tag = c.tag := rfl

@[simp] theorem tag_atStart (ch m rows) : (c.atStart ch m rows).tag = c.tag := by
  unfold Core.atStart
  exact (tag_onChan ..).trans (tag_onCmd ..)

@[simp] theorem tag_returnQ (q) : (c.returnQ q).tag = c.tag := rfl

@[simp] theorem tag_giveGo (p q n w) : (c.giveGo p q n w).tag = c.tag := by
  unfold Core.giveGo
  split
  · exact tag_slotFault ..
  · split
    · exact tag_slotFault ..
    · dsimp only
      split <;> exact tag_setOwn ..

@[simp] theorem tag_takeGo (p q n) : (c.takeGo p q n).tag = c.tag := by
  unfold Core.takeGo
  split
  · exact tag_slotFault ..
  · split
    · exact tag_slotFault ..
    · exact tag_foldl c tag_returnQ _

@[simp] theorem tag_mstatGo (p tid) : (c.mstatGo p tid).tag = c.tag := by
  unfold Core.mstatGo
  dsimp only
  split
  · exact tag_slotFault ..
  · split
    · exact tag_slotFault ..
    · exact tag_setOwn ..

theorem tag_returnOwned (w : Owner) (l : List Nat) :
    (l.foldl (fun c q => if c.owner q = w then c.returnQ q else c) c).tag = c.tag :=
  tag_foldl c (fun d q => by split <;> rfl) l

@[simp] theorem tag_mrelGo (p tid layout left) : (c.mrelGo p tid layout left).tag = c.tag := by
  unfold Core.mrelGo
  dsimp only
  split
  · exact tag_slotFault ..
  · split
    · exact tag_slotFault ..
    · split
      · exact tag_returnOwned ..
      · rfl

@[simp] theorem tag_maprGo (p slot q n va) : (c.maprGo p slot q n va).tag = c.tag := by
  unfold Core.maprGo
  dsimp only
  split
  · split
    · rfl
    · split
      · exact tag_slotFault ..
      · rfl
  · split
    · exact tag_slotFault ..
    · split
      · exact tag_slotFault ..
      · rfl

@[simp] theorem tag_owedGo : c.owedGo.tag = c.tag := tag_returnOwned ..

@[simp] theorem tag_rotate : c.rotate.tag = c.tag := by
  unfold Core.rotate
  rw [tag_setCr, tag_setCr, tag_setCr, tag_setCr]

@[simp] theorem tag_loopGo (n k) : (c.loopGo n k).tag = c.tag := tag_setStages ..

@[simp] theorem tag_bloopGo : c.bloopGo.tag = c.tag := by
  unfold Core.bloopGo
  split
  · rw [tag_setP, tag_rotate, tag_setCr]
  · rw [tag_setP, tag_rotate, tag_setCr]

@[simp] theorem tag_finish (b) : (c.finish b).tag = c.tag := by
  unfold Core.finish
  dsimp only
  split
  · split <;> rfl
  · split <;> split <;> rfl

@[simp] theorem tag_rowDone (ch m bs) : (c.rowDone ch m bs).tag = c.tag := by
  unfold Core.rowDone
  dsimp only
  split
  · split <;> exact (tag_onChan ..).trans (tag_onCmd ..)
  · exact (tag_onChan ..).trans (tag_onCmd ..)

@[simp] theorem tag_placeRegs (p bind) : (c.placeRegs p bind).tag = c.tag := by
  unfold Core.placeRegs
  rw [tag_setCr, tag_setCr]

/-- A core of an image is made for its physical index (R30). -/
theorem id_entryCore (img l inst p bind phys) (d : ICore) : (entryCore img l inst p bind phys d).id = phys := by
  have h : (entryCore img l inst p bind phys d).tag = (Core.idle phys).tag := by
    unfold entryCore
    rw [tag_setReg, tag_setReg, tag_setCr, tag_setCr, tag_placeRegs, tag_setCr, tag_setLeaves, tag_setShapes]
  exact id_of_tag h

end

theorem Kept.store (h : Kept b o s) (key bs) : Kept b o (s.store key bs) :=
  ⟨fun m => wf_wrBytes _ _ _ (h.mem m), h.placed, h.boot, h.calm⟩

theorem Kept.act (h : Kept b o s) (g f) (hf : ∀ c, (f c).tag = c.tag := by intro c; rfl) : KeptR b o (s.act g f) := by
  unfold State.act
  split
  · exact (h.setCore _ _ (hf _)).next
  · exact h.next

/-! #### Machine/Ops -/

theorem Kept.onPort (h : Kept b o s) (q f) : Kept b o (s.onPort q f) := h.upd

theorem Kept.onDie (h : Kept b o s) (d f) : Kept b o (s.onDie d f) := h.upd

theorem Kept.onLane (h : Kept b o s) (l f) : Kept b o (s.onLane l f) := h.upd

theorem Kept.onInst (h : Kept b o s) (i f) : Kept b o (s.onInst i f) := h.upd

theorem Kept.onStrm (h : Kept b o s) (q n f) : Kept b o (s.onStrm q n f) := h.onPort ..

theorem Kept.countFault (h : Kept b o s) (k cause glob) : Kept b o (s.countFault k cause glob) := h.onInst ..

theorem Kept.stamp (h : Kept b o s) (k) : Kept b o (s.stamp k) := by
  unfold State.stamp
  split
  · exact Kept.ite h (h.onCore ..)
  · exact h

theorem Kept.choose (h : Kept b o s) : KeptP b o s.choose := h.upd.pair

theorem Kept.send (h : Kept b o s) (op) : Kept b o (s.send op) := h.upd

/-! #### Machine/Xlate -/

theorem Kept.storeFor (h : Kept b o s) (die pa bs) : Kept b o (s.storeFor die pa bs) := Kept.ite (h.store ..) h

theorem Kept.meets (h : Kept b o s) (pas) : Kept b o (s.meets pas) := h.upd

theorem Kept.hostMiss (h : Kept b o s) (q die asid va wr) : KeptP b o (s.hostMiss q die asid va wr) :=
  KeptP.ite (Kept.pair (h.onPort ..)) (KeptP.ite h.pair (Kept.pair ((h.onPort ..).send ..)))

theorem Kept.refetch (h : Kept b o s) (die x) : Kept b o (s.refetch die x) := h.upd

theorem Kept.xlateHost (h : Kept b o s) (die asid va wr) : KeptP b o (s.xlateHost die asid va wr) := by
  unfold State.xlateHost
  refine .ite h.pair ?_
  split
  · exact h.pair
  · refine .ite (h.meets _).pair ?_
    extract_lets
    split
    · exact (h.meets ..).hostMiss ..
    · split
      · exact Kept.pair (h.meets ..)
      · exact ((h.meets ..).refetch ..).hostMiss ..

theorem Kept.walked (h : Kept b o s) (die asid r) : Kept b o (s.walked die asid r) := h.upd.meets ..

theorem Kept.xlateWalk (h : Kept b o s) (die asid va wr) : KeptP b o (s.xlateWalk die asid va wr) := by
  unfold State.xlateWalk
  refine KeptP.ite h.pair ?_
  split
  · exact h.pair
  · extract_lets
    split
    · exact Kept.pair (h.walked ..)
    · exact Kept.pair (h.walked ..)
    · exact Kept.pair (h.walked ..)
    · split
      · exact Kept.pair (h.walked ..)
      · exact Kept.pair ((h.walked ..).onDie ..)

theorem Kept.xlate (h : Kept b o s) (die asid va wr) : KeptP b o (s.xlate die asid va wr) := by
  unfold State.xlate
  refine KeptP.ite (h.xlateHost ..) ?_
  refine KeptP.ite h.pair ?_
  split
  · exact KeptP.ite ((h.refetch ..).xlateWalk ..) h.pair
  · exact h.xlateWalk ..

theorem Kept.tlbDrop (h : Kept b o s) (f) : Kept b o (s.tlbDrop f) := h.upd

theorem Kept.walkDrop (h : Kept b o s) : Kept b o s.walkDrop := h.upd

theorem Kept.invalidate (h : Kept b o s) : Kept b o s.invalidate := (h.tlbDrop ..).walkDrop

theorem Kept.hostDrop (h : Kept b o s) (q f) : Kept b o (s.hostDrop q f) := h.upd

theorem Kept.peer (h : Kept b o s) (w key req) : KeptP b o (s.peer w key req) := by
  unfold State.peer
  split
  · exact h.pair
  · exact Kept.pair (h.upd.send ..)

theorem Kept.quit (h : Kept b o s) (w) : Kept b o (s.quit w) := h.upd

theorem Kept.writeVA (h : Kept b o s) (w va bs) : KeptP b o (s.writeVA w va bs) := by
  unfold State.writeVA
  split
  next e => exact KeptP.ite ((((h.xlate ..).out e).peer ..).bind (fun _ _ h1 => h1.pair)) (Kept.pair (((h.xlate ..).out e).store ..))
  next e => exact Kept.pair ((h.xlate ..).out e)
  next e => exact Kept.pair ((h.xlate ..).out e)

theorem Kept.parityOf (h : Kept b o s) (s1) : Kept b o (s.parityOf s1) := Kept.ite h h.upd

theorem Kept.waited (h : Kept b o s) (s1) : KeptO b o (s.waited s1) := by
  unfold State.waited
  extract_lets sent port
  have hp (t q) (ht : Kept b o t) : Kept b o (port q t) := ht.onPort ..
  exact .ite .none (Kept.some (hp _ true (hp _ false (h.parityOf s1))).upd)

theorem Kept.undone (h : Kept b o s) (s1) : Kept b o (s.undone s1) := (h.parityOf ..).upd rfl

theorem Kept.flushEvts (h : Kept b o s) (q n) : Kept b o (s.flushEvts q n) := by
  induction n generalizing s with
  | zero => exact h
  | succ n ih =>
    unfold State.flushEvts
    extract_lets
    split
    · exact h
    · refine .ite ?_ h
      split
      next e => exact ih ((((h.writeVA ..).out e).quit ..).onPort .. |>.send ..)
      next => exact (h.waited _).getD h
      next e => exact (h.writeVA ..).out e

theorem Kept.raise (h : Kept b o s) (q x) : Kept b o (s.raise q x) := Kept.ite (h.onPort ..) ((h.onPort ..).flushEvts ..)

theorem Kept.event (h : Kept b o s) (q ty cause strm cmd data) : Kept b o (s.event q ty cause strm cmd data) := h.raise ..

theorem Kept.eventAll (h : Kept b o s) (ty cause data) : Kept b o (s.eventAll ty cause data) := (h.event ..).event ..

theorem Kept.poisonEvt (h : Kept b o s) (asid va frame) : Kept b o (s.poisonEvt asid va frame) := (h.raise ..).raise ..

theorem Kept.replace (h : Kept b o s) : Kept b o s.replace := h.upd.eventAll ..

theorem Kept.replCheck (h : Kept b o s) (old) : Kept b o (s.replCheck old) := Kept.ite h.replace h

theorem Kept.failure (h : Kept b o s) (cls idx) : Kept b o (s.failure cls idx) :=
  Kept.ite (h.upd.eventAll ..).replace (h.upd.eventAll ..)

theorem Kept.predict (h : Kept b o s) (k) : Kept b o (s.predict k) := Kept.ite (h.upd.failure ..) h

theorem Kept.bump (h : Kept b o s) (cls idx) : Kept b o (s.bump cls idx) := h.upd.predict ..

theorem Kept.rearm (h : Kept b o s) : Kept b o s.rearm := h.upd

theorem Kept.newMarks (h : Kept b o s) (v) : Kept b o (s.newMarks v) := h.upd.rearm.foldl (fun _ _ h1 => h1.predict ..) _

theorem Kept.freeze (h : Kept b o s) (k) : Kept b o (s.freeze k) :=
  Kept.ite ((h.foldl (fun _ _ h1 => h1.onCore ..) _).onInst ..) (h.foldl (fun _ _ h1 => h1.onCore ..) _)

theorem Kept.clearErr (h : Kept b o s) (kind unit idxs) : Kept b o (s.clearErr kind unit idxs) := h.upd

theorem Kept.unitFail (h : Kept b o s) (cls idx) : Kept b o (s.unitFail cls idx) := h.failure ..

theorem Kept.bumpAll (h : Kept b o s) (kind unit ws) : Kept b o (s.bumpAll kind unit ws) := h.foldl (fun _ _ h1 => h1.bump ..) _

theorem Kept.readWords (h : Kept b o s) (kind unit idxs) : KeptP b o (s.readWords kind unit idxs) := by
  unfold State.readWords
  split
  · exact h.pair
  · exact KeptP.ite (Kept.pair (h.unitFail ..)) (Kept.pair (((h.clearErr ..).freeze ..).bumpAll ..))

theorem Kept.poison (h : Kept b o s) (die asid va pa) : Kept b o (s.poison die asid va pa) := by
  unfold State.poison
  have h1 : Kept b o (match s.leafOf die asid va with
      | Option.some (entry, log2, _) =>
        (s.storeFor die entry (leBytes 8 (rdLE s.mem (hbmKey entry) 8 ||| 2 ^ 59))).tlbDrop
          (fun t => t.asid == asid && t.va == va / 2 ^ log2 * 2 ^ log2)
      | Option.none => s) := by
    split
    · exact (h.storeFor ..).tlbDrop ..
    · exact h
  exact .ite (h1.upd.poisonEvt ..) h1.upd

theorem Kept.hbmFault {α : Type} (h : Kept b o s) (w va pa) : KeptP b o (s.hbmFault (α := α) w va pa) :=
  Kept.pair (h.poison ..)

theorem Kept.hbmCount (h : Kept b o s) (gs) : Kept b o (s.hbmCount gs) := h.foldl (fun _ _ h1 => (h1.clearErr ..).bump ..) _

theorem Kept.readVA (h : Kept b o s) (w va n) : KeptP b o (s.readVA w va n) := by
  unfold State.readVA
  split
  next e1 =>
    have h1 := (h.xlate ..).out e1
    refine .ite ((h1.peer ..).bind fun _ _ h2 => .ite (h2.hbmFault ..) h2.pair) (.ite h1.pair (.ite ?_ h1.pair))
    exact .ite (h1.hbmFault ..) (h1.hbmCount _).pair
  next e1 => exact ((h.xlate ..).out e1).pair
  next e1 => exact ((h.xlate ..).out e1).pair

theorem Kept.engRead (h : Kept b o s) (w own op n) : KeptP b o (s.engRead w own op n) := by
  obtain ⟨place, e⟩ : ∃ f, f = scratchAt := ⟨_, rfl⟩
  unfold State.engRead
  rw [← e]
  split
  · exact h.readVA ..
  · exact h.pair
  · extract_lets
    split
    · exact h.pair
    · refine .ite h.pair (.ite h.pair ?_)
      split
      next e => exact Kept.pair ((h.readWords ..).out e)
      next e => exact Kept.pair ((h.readWords ..).out e)

theorem Kept.sramWrite (h : Kept b o s) (kind phys idx key off bs) : KeptP b o (s.sramWrite kind phys idx key off bs) := by
  unfold State.sramWrite
  extract_lets part bad s1 s2 keep
  have h1 : Kept b o s1 := (h.readWords ..).snd
  have h2 : Kept b o s2 := .ite h1 (h1.readWords ..).snd
  have h3 : Kept b o { s2 with mem := wrMasked s2.mem (key off) keep bs } :=
    h2.setMem _ fun hm => wf_wrMasked _ _ _ _ (h2.mem hm)
  exact Kept.pair (h3.clearErr ..)

theorem Kept.scrWrite (h : Kept b o s) (w phys off bs) : KeptP b o (s.scrWrite w phys off bs) := by
  unfold State.scrWrite
  refine .ite h.pair ?_
  split
  next e =>
    have h1 := (h.sramWrite ..).out e
    exact .ite (Kept.pair h1.upd) (Kept.pair (h1.upd.onCore _ _ fun _ => tag_markRow ..))

theorem Kept.engWrite (h : Kept b o s) (w own op bs) : KeptP b o (s.engWrite w own op bs) := by
  obtain ⟨place, e⟩ : ∃ f, f = scratchAt := ⟨_, rfl⟩
  unfold State.engWrite
  rw [← e]
  split
  · exact h.writeVA ..
  · refine .ite h.pair ?_
    split
    next e =>
      refine Kept.pair (((h.sramWrite ..).out e).onCore _ _ fun c => ?_)
      split <;> rfl
  · extract_lets
    split
    · exact h.pair
    · exact .ite h.pair (h.scrWrite ..)

theorem Kept.engReadN (h : Kept b o s) (w own op fuel n) : KeptP b o (s.engReadN w own op fuel n) := by
  induction fuel generalizing s op n with
  | zero => exact h.pair
  | succ fuel ih => exact .ite h.pair ((h.engRead ..).bind fun _ _ h1 => (ih h1 ..).bind fun _ _ h2 => h2.pair)

theorem Kept.engWriteN (h : Kept b o s) (w own op fuel bs) : KeptP b o (s.engWriteN w own op fuel bs) := by
  induction fuel generalizing s op bs with
  | zero => exact h.pair
  | succ fuel ih => exact .ite h.pair ((h.engWrite ..).bind fun _ _ h1 => ih h1 ..)

theorem Kept.rdOp (h : Kept b o s) (w own op n) : KeptP b o (s.rdOp w own op n) := h.engReadN ..

theorem Kept.wrOp (h : Kept b o s) (w own op bs) : KeptP b o (s.wrOp w own op bs) := h.engWriteN ..

/-! #### Machine/Control -/

theorem Kept.putCr (h : Kept b o s) (k n v) : Kept b o (s.putCr k n v) := h.onCore ..

theorem Kept.writeCr (h : Kept b o s) (k n v) : Kept b o (s.writeCr k n v) := by
  unfold State.writeCr
  extract_lets
  split
  · exact Kept.ite (h.putCr ..) h
  · exact h.putCr ..
  · exact h.putCr ..
  · exact h.putCr ..
  · exact h.putCr ..
  · exact h.putCr ..
  · exact h.putCr ..
  · exact h.putCr ..
  · exact h.putCr ..
  · exact Kept.ite (h.putCr ..) h
  · exact Kept.ite (h.putCr ..) h
  · exact h.putCr ..
  · exact h.putCr ..
  · exact h.putCr ..
  · exact Kept.ite (h.onCore ..) h
  · exact h.putCr ..
  · exact h.putCr ..
  · exact Kept.ite (h.putCr ..) h
  · exact h.putCr ..
  · exact h.upd
  · exact Kept.ite h h.upd
  · exact h.newMarks ..
  · exact h.upd
  · exact h.upd
  · exact Kept.ite h (Kept.ite h.upd.invalidate h.upd)
  · exact h.upd
  · exact Kept.ite (Kept.ite (h.putCr ..) h) (Kept.ite (h.putCr ..) h)

theorem Kept.hold (h : Kept b o s) (g st f) (hf : ∀ t, Kept b o t → Kept b o (f t)) : KeptR b o (s.hold g st f) :=
  KeptR.ite h.next (KeptR.ite (hf _ (h.onCore ..)).next (h.onCore ..).next)

theorem Kept.arrive (h : Kept b o s) (k w) : Kept b o (s.arrive k w) := by
  unfold State.arrive
  split
  · exact h
  · exact (h.onInst ..).onCore ..

/-! #### Machine/Vector -/

theorem Kept.vop (h : Kept b o s) (hd srcs f) (hf : ∀ a0, (f a0).tag = a0.tag) : KeptR b o (s.vop hd srcs f) := by
  unfold State.vop
  refine KeptR.ite h.next ?_
  extract_lets
  split
  next e1 => exact (((h.readWords ..).out e1).onCore _ _ (fun _ => tag_faultNow ..)).next
  next e1 => exact (((h.readWords ..).out e1).onCore _ _ hf).next

theorem Kept.lane1 (h : Kept b o s) (hd op lat f) : KeptR b o (s.lane1 hd op lat f) := h.vop _ _ _ (fun _ => tag_landLanes ..)

theorem Kept.lane2 (h : Kept b o s) (hd op lat f) : KeptR b o (s.lane2 hd op lat f) := h.vop _ _ _ (fun _ => tag_landLanes ..)

theorem Kept.vcompare (h : Kept b o s) (hd op f) : KeptR b o (s.vcompare hd op f) := h.vop _ _ _ (fun _ => tag_landPair ..)

/-! #### Machine/VMove -/

theorem Kept.zop (h : Kept b o s) (g slot zs f) (hf : ∀ a0, (f a0).tag = a0.tag) : KeptR b o (s.zop g slot zs f) := by
  unfold State.zop
  refine KeptR.ite h.next ?_
  split
  next e1 => exact (((h.readWords ..).out e1).onCore _ _ (fun _ => tag_faultNow ..)).next
  next e1 => exact (((h.readWords ..).out e1).onCore _ _ hf).next

/-! #### Machine/Copy -/

theorem Kept.accept (h : Kept b o s) (k q ch m) : Kept b o (s.accept k q ch m) := by
  unfold State.accept
  extract_lets
  split
  · exact h.upd.onCore _ _ (fun _ => (tag_noteNames ..).trans (tag_onChan ..))
  · exact h.setCore _ _ ((tag_detect ..).trans (tag_noteNames ..))

theorem Kept.cmdFault (h : Kept b o s) (k ch m cause d) : Kept b o (s.cmdFault k ch m cause d) := h.onCore ..

theorem Kept.endCmd (h : Kept b o s) (k ch m) : Kept b o (s.endCmd k ch m) :=
  Kept.ite (((h.quit ..).onCore _ _ (fun _ => tag_onChan ..)).foldl (fun _ _ h1 => h1.onCore ..) _)
    ((h.quit ..).onCore _ _ (fun _ => tag_onChan ..))

theorem Kept.startStop (h : Kept b o s) (k ch m cause) : Kept b o (s.startStop k ch m cause) :=
  Kept.ite ((h.cmdFault ..).endCmd ..) ((h.cmdFault ..).onCore _ _ (fun _ => tag_onChan ..))

theorem Kept.startCmd (h : Kept b o s) (k ch) : KeptO b o (s.startCmd k ch) := by
  unfold State.startCmd
  extract_lets
  split
  · exact KeptO.none
  · refine KeptO.ite KeptO.none ?_
    split
    · exact (h.onCore _ _ (fun _ => tag_atStart ..)).some
    · exact (h.startStop ..).some

theorem Kept.startWbk (h : Kept b o s) (k ch) : Kept b o (s.startWbk k ch) := by
  unfold State.startWbk
  split
  · split
    · exact (h.startCmd ..).getD h
    · exact h
  · exact h

/-! #### Machine/Clock -/

theorem Kept.rdScr (h : Kept b o s) (k q r words) : KeptP b o (s.rdScr k q r words) := by
  unfold State.rdScr
  refine KeptP.ite (Kept.pair (h.setCore _ _ (tag_slotFault ..))) ?_
  refine KeptP.ite h.pair ?_
  split
  next e2 => exact Kept.pair (((h.readWords ..).out e2).onCore _ _ (fun _ => tag_slotFault ..))
  next e2 => exact Kept.pair ((h.readWords ..).out e2)

theorem Kept.rdOwn (h : Kept b o s) (k q off words) : KeptP b o (s.rdOwn k q off words) :=
  KeptP.ite (Kept.pair (h.onCore _ _ (fun _ => tag_slotFault ..))) (h.rdScr ..)

theorem Kept.wrScr (h : Kept b o s) (k q r v m) : Kept b o (s.wrScr k q r v m) := by
  unfold State.wrScr
  extract_lets c bad s1 s2 keep s3
  have h1 : Kept b o s1 := (h.readWords ..).snd
  have h2 : Kept b o s2 := .ite h1 ((h1.readWords ..).snd.onCore _ _ fun _ => tag_slotFault ..)
  have h3 : Kept b o { s2 with mem := wrMasked s2.mem (scrKey k (64 * r)) keep (leBytes 64 v.toNat) } :=
    h2.setMem _ fun hm => wf_wrMasked _ _ _ _ (h2.mem hm)
  have h4 : Kept b o s3 := h3.clearErr ..
  exact .ite h (.ite (h.setCore _ _ (tag_slotFault ..)) (.ite (h4.onCore ..) h4))

theorem Kept.mmulGo (h : Kept b o s) (k q acc ck fmt bank rows m l tid k0 n0) :
    Kept b o (s.mmulGo k q acc ck fmt bank rows m l tid k0 n0) := by
  unfold State.mmulGo
  refine Kept.ite (h.setCore _ _ (tag_slotFault ..)) ?_
  refine Kept.ite (h.setCore _ _ (tag_slotFault ..)) ?_
  split
  next e2 => exact ((h.readWords ..).out e2).onCore _ _ (fun _ => tag_slotFault ..)
  next e2 => exact ((h.readWords ..).out e2).onCore ..

theorem Kept.putGo (h : Kept b o s) (k q srow drow n lrow lcol) : Kept b o (s.putGo k q srow drow n lrow lcol) := by
  unfold State.putGo
  extract_lets
  split
  · exact h.setCore _ _ (tag_slotFault ..)
  · exact Kept.ite (h.setCore _ _ (tag_slotFault ..)) (Kept.ite (h.setCore _ _ (tag_slotFault ..)) (h.onCore ..))

theorem Kept.forceDrain (h : Kept b o s) (i) : Kept b o (s.forceDrain i) := h.onInst ..

theorem Kept.earlyGo (h : Kept b o s) (k q) : Kept b o (s.earlyGo k q) := by
  unfold State.earlyGo
  split
  · exact h.onCore _ _ fun _ => tag_giveGo ..
  · exact h.onCore _ _ fun _ => tag_takeGo ..
  · exact h.onCore _ _ fun _ => tag_mstatGo ..
  · exact h.onCore _ _ fun _ => tag_mrelGo ..
  · exact h.onCore _ _ fun _ => tag_maprGo ..
  · exact .ite (h.forceDrain ..) h
  · exact .ite (h.onCore _ _ fun _ => tag_slotFault ..) h
  · exact h.onCore _ _ fun _ => tag_slotFault ..
  · exact h.onCore _ _ fun c => tag_foldl c (fun _ _ => tag_returnQ ..) _
  · exact h.onCore _ _ fun _ => tag_detect ..
  · exact h.putGo ..
  · exact h.mmulGo ..
  · exact h.accept ..
  · exact h

theorem Kept.gatherGo (h : Kept b o s) (k q e l) : KeptP b o (s.gatherGo k q e l) := by
  induction l generalizing s with
  | nil => exact h.pair
  | cons x l ih =>
    unfold State.gatherGo
    split
    next e1 => exact ih ((h.rdScr ..).out e1)
    next e1 => exact Kept.pair (ih ((h.rdScr ..).out e1)).snd

theorem Kept.scaleAt (h : Kept b o s) (k q ent col) : KeptP b o (s.scaleAt k q ent col) := by
  unfold State.scaleAt
  refine KeptP.ite h.pair ?_
  split
  next e1 => exact Kept.pair ((h.rdScr ..).out e1)
  next e1 => exact Kept.pair ((h.rdScr ..).out e1)

theorem Kept.ardLanes (h : Kept b o s) (k q bank mode ent l) : KeptP b o (s.ardLanes k q bank mode ent l) := by
  induction l generalizing s with
  | nil => exact h.pair
  | cons x l ih =>
    unfold State.ardLanes
    extract_lets r v rest
    have h1 : KeptP b o r := .ite (h.scaleAt ..) h.pair
    split
    · exact ih h1.snd
    · exact Kept.pair (ih h1.snd).snd

theorem Kept.ardGo (h : Kept b o s) (k q y d bank row col colForm mode m ent) :
    Kept b o (s.ardGo k q y d bank row col colForm mode m ent) := by
  unfold State.ardGo
  refine Kept.ite (h.onCore _ _ (fun _ => tag_slotFault ..)) ?_
  split
  next e1 => exact ((h.readWords ..).out e1).onCore _ _ (fun _ => tag_slotFault ..)
  next e1 => exact ((((h.readWords ..).out e1).ardLanes ..).snd).onCore ..

theorem Kept.readGo (h : Kept b o s) (k q) : Kept b o (s.readGo k q) := by
  unfold State.readGo
  split
  · split
    next e1 => exact (h.rdOwn ..).out e1
    next e1 => exact ((h.rdOwn ..).out e1).onCore ..
  · refine Kept.ite ?_ ?_
    · split
      · exact h
      · exact h.onCore ..
    · split
      next e2 => exact (h.rdScr ..).out e2
      next e2 =>
        extract_lets
        split
        · exact ((h.rdScr ..).out e2).onCore ..
        · exact (((h.rdScr ..).out e2).onCore ..).onCore ..
  · exact ((h.gatherGo ..).snd).onCore ..
  · split
    next e1 => exact (h.rdScr ..).out e1
    next e1 => exact ((h.rdScr ..).out e1).onCore ..
  · split
    · exact h.onCore _ _ (fun _ => tag_slotFault ..)
    · split
      next e2 => exact (h.rdScr ..).out e2
      next e2 => exact ((h.rdScr ..).out e2).onCore ..
  · exact h.ardGo ..
  · split
    · exact h.onCore _ _ (fun _ => tag_slotFault ..)
    · split
      next e2 => exact (h.rdScr ..).out e2
      next e2 => exact ((h.rdScr ..).out e2).onCore ..
  · exact h

theorem Kept.popGo (h : Kept b o s) (k q q' pd a) : Kept b o (s.popGo k q q' pd a) := by
  unfold State.popGo
  extract_lets
  split
  · exact h.onCore _ _ (fun _ => tag_slotFault ..)
  · split
    · exact h.onCore ..
    · exact (h.onDie ..).onCore ..

theorem Kept.enqGo (h : Kept b o s) (k q q' pri pd a) : Kept b o (s.enqGo k q q' pri pd a) := by
  unfold State.enqGo
  extract_lets
  split
  · exact h.onCore _ _ (fun _ => tag_slotFault ..)
  · refine Kept.ite (h.onCore _ _ (fun _ => tag_slotFault ..)) ?_
    split
    next e2 => exact (h.rdScr ..).out e2
    next e2 => exact Kept.ite (((h.rdScr ..).out e2).onCore ..) ((((h.rdScr ..).out e2).onDie ..).onCore ..)

theorem Kept.writeGo (h : Kept b o s) (m0 k q) : Kept b o (State.writeGo m0 s k q) := by
  unfold State.writeGo
  split
  · exact Kept.ite (h.onCore _ _ (fun _ => tag_slotFault ..)) (h.wrScr ..)
  · exact Kept.ite (h.wrScr ..) (h.onCore _ _ (fun _ => tag_slotFault ..))
  · refine Kept.ite (h.wrScr ..) ?_
    split
    next e2 => exact ((h.readWords ..).out e2).onCore _ _ (fun _ => tag_slotFault ..)
    next e2 => exact ((h.readWords ..).out e2).wrScr ..
  · exact Kept.ite (h.wrScr ..) (h.onCore _ _ (fun _ => tag_detect ..))
  · exact h

theorem Kept.vecGo (h : Kept b o s) (k q y n v m) : Kept b o (s.vecGo k q y n v m) :=
  ((Kept.ite ((h.readWords ..).snd) (((((h.readWords ..).snd).readWords ..).snd).onCore _ _ (fun _ => tag_slotFault ..))).clearErr
    ..).onCore _ _ (fun _ => tag_setVec ..)

theorem Kept.zGo (h : Kept b o s) (k all q) : Kept b o (State.zGo k all s q) :=
  Kept.ite (((h.clearErr ..).onCore _ _ (fun _ => tag_setZs ..)).onCore _ _ (fun _ => tag_slotFault ..))
    ((h.clearErr ..).onCore _ _ (fun _ => tag_setZs ..))

theorem Kept.bankGo (h : Kept b o s) (k q) : Kept b o (s.bankGo k q) := by
  unfold State.bankGo
  split
  · exact (h.clearErr ..).onCore ..
  · exact (h.clearErr ..).onCore _ _ (fun _ => tag_setAccs ..)
  · extract_lets
    split
    next e1 => exact ((h.readWords ..).out e1).onCore _ _ (fun _ => tag_slotFault ..)
    next e1 => exact (((h.readWords ..).out e1).clearErr ..).onCore _ _ (fun _ => tag_setAccs ..)
  · exact h

theorem Kept.regGo (h : Kept b o s) (k f n v) : Kept b o (s.regGo k f n v) := (h.clearErr ..).onCore _ _ (fun _ => tag_setReg ..)

theorem Kept.mskGo (h : Kept b o s) (k q n v m) : Kept b o (s.mskGo k q n v m) := by
  unfold State.mskGo
  refine Kept.ite ((h.clearErr ..).onCore _ _ (fun _ => tag_setW ..)) ?_
  split
  next e1 => exact ((h.readWords ..).out e1).onCore _ _ (fun _ => tag_slotFault ..)
  next e1 => exact ((h.readWords ..).out e1).onCore _ _ (fun _ => tag_setW ..)

theorem Kept.landGo (h : Kept b o s) (k q) : Kept b o (s.landGo k q) := by
  unfold State.landGo
  split
  · exact h.regGo ..
  · exact h.vecGo ..
  · exact (h.clearErr ..).onCore _ _ fun _ => tag_setP ..
  · exact h.mskGo ..
  · exact (h.clearErr ..).onCore ..
  · exact (h.clearErr ..).onCore _ _ fun _ => tag_setShapes ..
  · exact (h.clearErr ..).onCore _ _ fun _ => tag_setLeaves ..
  · exact (h.clearErr ..).onCore _ _ fun _ => tag_setCr ..
  · exact h.onCore _ _ fun _ => tag_setCr ..
  · exact (Kept.ite (h.clearErr ..) (h.clearErr ..)).writeCr ..
  · exact h.onCore _ _ fun _ => tag_setCr ..
  · exact h.onCore _ _ fun _ => tag_loopGo ..
  · exact h.onCore _ _ fun _ => tag_bloopGo ..
  · exact h

theorem Kept.phase (h : Kept b o s) (k f order go) (hgo : ∀ t a1, Kept b o t → Kept b o (go t a1)) : Kept b o (s.phase k f order go) :=
  (h.onCore ..).foldl (fun _ _ h1 => hgo _ _ h1) _

theorem Kept.edgeOpen (h : Kept b o s) (k) : Kept b o (s.edgeOpen k) := by
  have h0 := h.onCore k Core.owedGo fun _ => tag_owedGo ..
  exact (((h0.phase _ _ _ _ fun _ _ h1 => h1.earlyGo ..).startWbk ..).startWbk ..).phase _ _ _ _ fun _ _ h1 => h1.readGo ..

theorem Kept.edgePop (h : Kept b o s) (k) : Kept b o (s.edgePop k) := by
  unfold State.edgePop
  refine h.phase _ _ _ _ (fun t a h1 => ?_)
  split
  · exact h1.popGo ..
  · exact h1

theorem Kept.edgePush (h : Kept b o s) (k) : Kept b o (s.edgePush k) := by
  unfold State.edgePush
  refine h.phase _ _ _ _ (fun t a h1 => ?_)
  split
  · exact h1.enqGo ..
  · exact h1

theorem Kept.edgeLand (h : Kept b o s) (k) : Kept b o (s.edgeLand k) := by
  unfold State.edgeLand
  extract_lets c landed s1 s2 zs s3 s4
  have h1 : Kept b o s1 := h.phase _ _ _ _ fun _ _ ht => ht.writeGo ..
  have h2 : Kept b o s2 := h1.phase _ _ _ _ fun _ _ ht => ht.bankGo ..
  have h3 : Kept b o s3 := h2.phase _ _ _ _ fun _ _ ht => ht.zGo ..
  have h4 : Kept b o s4 := h3.phase _ _ _ _ fun _ _ ht => ht.landGo ..
  exact .ite (h4.onCore ..) h4

/-- The cores whose clock goes on an edge (R34). -/
def State.going (s : State) : List Nat := (s.cores.filter (fun e => s.ticks e.2)).map (·.1)

/-- A core after an edge of its clock, and one that stands still on it. -/
def Core.ticked (c : Core) (go : Bool) : Core :=
  if go then { c with cyc := c.cyc + 1, atDrain := false }
  else { c with freeze := if 1 < c.freeze then c.freeze - 1 else c.freeze, frozen := c.freeze != 0 }

/-- The clocks of the cores after an edge, before anything performs on it. -/
def State.ticked (s : State) : State := { s with cores := s.cores.map (fun e => (e.1, e.2.ticked (s.going.contains e.1))) }

/-- What performs on an edge, phase by phase (R39). -/
def State.performs (s : State) (go : List Nat) : State :=
  go.foldl State.stamp (go.foldl State.edgeLand (go.foldl State.edgePush (go.foldl State.edgePop (go.foldl State.edgeOpen s))))

theorem edge_eq (s : State) : s.edge =
    { s.ticked.performs s.going with
      turn := s.going.filter (fun k => ((s.ticked.performs s.going).core k).issues)
      rowsNow := s.rowsNow.filter (fun e => (s.core (e.1 / 4096)).freeze != 0) } := rfl

theorem Kept.performs (h : Kept b o s) (go) : Kept b o (s.performs go) := by
  have h1 := h.foldl (fun _ k ht => ht.edgeOpen k) go
  have h2 := h1.foldl (fun _ k ht => ht.edgePop k) go
  have h3 := h2.foldl (fun _ k ht => ht.edgePush k) go
  have h4 := h3.foldl (fun _ k ht => ht.edgeLand k) go
  exact h4.foldl (fun _ k ht => ht.stamp k) go

theorem Kept.ticked (h : Kept false o s) : Kept false o s.ticked := by
  refine ⟨h.mem, fun p e he => ?_, h.boot, nofun⟩
  obtain ⟨x, hx, rfl⟩ := List.mem_map.mp he
  refine Eq.trans ?_ (h.placed p x hx)
  unfold Core.ticked
  split <;> rfl

theorem Kept.edge (h : Kept false o s) : Kept false o s.edge := by
  rw [edge_eq]
  exact (h.ticked.performs _).upd

/-! #### Machine/Regs -/

theorem Kept.readKinds (h : Kept b o s) (k ws l) : KeptP b o (s.readKinds k ws l) := by
  induction l generalizing s with
  | nil => exact h.pair
  | cons kind l ih =>
    unfold State.readKinds
    split
    next e => exact ((h.readWords ..).out e).pair
    next e => exact ih ((h.readWords ..).out e)

theorem Kept.regChecked (h : Kept b o s) (run slot i) (hrun : ∀ a0 t, Kept b o t → KeptR b o (run a0 t)) :
    KeptR b o (State.regChecked run slot i s) := by
  unfold State.regChecked
  refine KeptR.ite (hrun _ _ h) ?_
  split
  next e1 => exact (((h.readKinds ..).out e1).onCore _ _ (fun _ => tag_faultNow ..)).next
  next e1 => exact hrun _ _ ((h.readKinds ..).out e1)

/-! #### Machine/Issue -/

theorem Kept.issueFault (h : Kept b o s) (slot cause rep) : Kept b o (s.issueFault slot cause rep) := by
  unfold State.issueFault
  extract_lets c a x left
  have h2 : Kept b o x.2 := h.choose.snd.choose.snd
  refine (h2.onCore s.cur _ fun c => ?_).stamp _
  exact (tag_detect c (slot.getD (a.1 % 6)) false cause 0 0 c.baddr 0 true :)

theorem Kept.runOps (h : Kept b o s) (run l) (hrun : ∀ n i t, Kept b o t → KeptR b o (run n i t)) :
    KeptR b o (Machine.runOps run l s) := by
  induction l generalizing s with
  | nil => exact h.next
  | cons i l ih =>
    unfold Machine.runOps
    split
    next e => exact ih ((hrun _ _ _ h).out e)
    next => exact hrun _ _ _ h

theorem Kept.present (h : Kept b o s) (run w armed go) (hrun : ∀ a0 t, Kept b o t → KeptR b o (run a0 t))
    (hgo : ∀ t, Kept b o t → KeptR b o (go t)) : KeptR b o (State.present run w armed s go) := by
  unfold State.present
  extract_lets
  split
  next e =>
    split
    · exact (((((h.onCore ..).runOps _ _ (fun _ _ _ h1 => h1.regChecked _ _ _ (fun _ _ h2 => hrun _ _ h2))).out e).onCore ..).stamp
        ..).next
    · exact hgo _ (((h.onCore ..).runOps _ _ (fun _ _ _ h1 => h1.regChecked _ _ _ (fun _ _ h2 => hrun _ _ h2))).out e)
  · exact (h.onCore ..).runOps _ _ (fun _ _ _ h1 => h1.regChecked _ _ _ (fun _ _ h2 => hrun _ _ h2))

theorem Kept.issueBundle (h : Kept b o s) (run w) (hrun : ∀ a0 t, Kept b o t → KeptR b o (run a0 t)) :
    KeptR b o (State.issueBundle run w s) := by
  unfold State.issueBundle
  refine h.present _ _ _ _ (fun _ _ h1 => hrun _ _ h1) (fun t h1 => ?_)
  split
  · exact (h.issueFault ..).next
  · split
    · exact (h.issueFault ..).next
    · split
      next e3 =>
        exact ((((h1.runOps _ _ (fun _ _ _ h2 => h2.regChecked _ _ _ (fun _ _ h3 => hrun _ _ h3))).out e3).onCore _ _
          (fun _ => tag_finish ..)).stamp ..).next
      · exact h1.runOps _ _ (fun _ _ _ h2 => h2.regChecked _ _ _ (fun _ _ h3 => hrun _ _ h3))

theorem Kept.issue (h : Kept b o s) (run) (hrun : ∀ a0 t, Kept b o t → KeptR b o (run a0 t)) : KeptR b o (State.issue run s) := by
  unfold State.issue
  extract_lets
  split
  next e => exact (((h.readWords ..).out e).issueFault ..).next
  next e =>
    split
    · extract_lets
      split
      · exact ((h.readWords ..).out e).present _ _ _ _ (fun _ _ h1 => hrun _ _ h1)
          (fun _ _ => (((h.readWords ..).out e).issueFault ..).next)
      · exact (((h.readWords ..).out e).issueFault ..).next
    · exact KeptR.ite (hrun _ _ ((h.readWords ..).out e)) (((h.readWords ..).out e).issueBundle _ _ (fun _ _ h1 => hrun _ _ h1))

/-! #### Machine/Faults -/

theorem Kept.orSame (h : Kept b o s) {r} (hr : KeptO b o r) : KeptR b o (Machine.orSame s r) := (hr.getD h).next

theorem Kept.enturn (h : Kept b o s) (k) : Kept b o (s.enturn k) := h.upd

theorem Kept.enterTrap (h : Kept b o s) (k f) : Kept b o (s.enterTrap k f) := by
  unfold State.enterTrap
  exact ((h.countFault ..).onCore _ _ fun _ => tag_trapEntry ..).enturn ..

theorem Kept.tryTrap (h : Kept b o s) (k) : KeptO b o (s.tryTrap k) := by
  unfold State.tryTrap
  split
  · exact KeptO.none
  · exact KeptO.ite (h.enterTrap ..).some KeptO.none

theorem Kept.cancel (h : Kept b o s) (k g f) : Kept b o (s.cancel k g f) := by
  unfold State.cancel
  exact h.upd.onCore ..

theorem core_countFault (s : State) (k j cause glob) : (s.countFault k cause glob).core j = s.core j := rfl

theorem Kept.unwindTo (h : Kept b o s) (k g f) : Kept b o (s.unwindTo k g f) := by
  unfold State.unwindTo
  extract_lets c inside named back c1
  split
  · exact h.enterTrap ..
  · refine .ite (h.enterTrap ..) ?_
    extract_lets c2
    have h1 : c1.tag = c.tag := (tag_trapRegs ..).trans (tag_foldl c (fun _ _ => tag_returnQ ..) back)
    have h2 : c2.tag = c1.tag := by
      unfold c2
      rw [tag_setReg, tag_setReg, tag_setReg]
    clear_value c2
    refine Kept.enturn (Kept.setCore ((h.clearErr ..).countFault ..) _ _ ?_) _
    rw [core_countFault]
    exact (h2.trans h1 :)

theorem Kept.notYet (h : Kept b o s) (k) : Kept b o (s.notYet k) := h.onCore ..

theorem Kept.tryUnwind (h : Kept b o s) (k) : KeptO b o (s.tryUnwind k) := by
  unfold State.tryUnwind
  extract_lets
  split
  · exact KeptO.none
  · split
    · exact KeptO.none
    · exact KeptO.ite KeptO.none
        (KeptO.ite ((h.cancel ..).notYet ..).some
          (KeptO.ite (KeptO.ite (h.notYet ..).some KeptO.none) (KeptO.ite (h.unwindTo ..).some KeptO.none)))

theorem Kept.haltCores (h : Kept b o s) (ks) : Kept b o (s.haltCores ks) := (h.foldl (fun _ _ h1 => (h1.cancel ..).onCore ..) _).upd rfl

theorem Kept.stopInst (h : Kept b o s) (i ph) : Kept b o (s.stopInst i ph) := (h.haltCores ..).onInst ..

theorem Kept.tryKill (h : Kept b o s) (i) : KeptO b o (s.tryKill i) := by
  unfold State.tryKill
  split
  · exact KeptO.none
  · exact KeptO.ite (h.stopInst ..).some (KeptO.ite KeptO.none (h.haltCores ..).some)

theorem Kept.tryFreezeEnd (h : Kept b o s) (k) : KeptO b o (s.tryFreezeEnd k) :=
  KeptO.ite ((h.onCore ..).foldl (fun _ _ h1 => h1.onCore ..) _).some KeptO.none

theorem Kept.tryLeak (h : Kept b o s) : KeptO b o s.tryLeak := KeptO.ite h.upd.rearm.some KeptO.none

theorem Kept.tryRetire (h : Kept b o s) (code) : KeptO b o (s.tryRetire code) :=
  KeptO.ite KeptO.none (KeptO.ite (KeptO.ite KeptO.none h.upd.some) (h.upd.replCheck ..).some)

theorem Kept.flipBit (h : Kept b o s) (k kind idx bit) : Kept b o (s.flipBit k kind idx bit) := by
  unfold State.flipBit
  split
  · exact h.setMem _ fun hm => wf_wrByte _ _ _ (h.mem hm)
  · exact h.onCore ..
  · exact h.onCore ..
  · exact h.onCore ..
  · exact h.onCore ..

theorem Kept.tryInject (h : Kept b o s) (k) : KeptO b o (s.tryInject k) := by
  unfold State.tryInject
  extract_lets c v w s1
  have h1 : Kept b o s1 := h.putCr ..
  refine .ite ?_ .none
  split
  · exact ((h1.clearErr ..).flipBit ..).some
  · exact (h1.clearErr w.1 k [w.2.1]).upd.some

theorem Kept.tryTlbInv (h : Kept b o s) : KeptO b o s.tryTlbInv := KeptO.ite h.invalidate.upd.some KeptO.none

theorem Kept.tryWaitVal (h : Kept b o s) (k) : KeptO b o (s.tryWaitVal k) := by
  unfold State.tryWaitVal
  extract_lets
  split
  · refine KeptO.ite ?_ KeptO.none
    extract_lets
    split
    · exact KeptO.none
    · split
      next e3 => exact ((((h.engRead ..).out e3).quit ..).onCore ..).some
      next e3 => exact (((((h.engRead ..).out e3).quit ..).onCore _ _ (fun _ => tag_detect ..)).stamp ..).some
      · exact h.waited ..
  · exact KeptO.none

/-! #### Machine/Expander -/

theorem Kept.ecFind (h : Kept b o s) (rd : Src) (fuel c k) (hr : ∀ a n t, Kept b o t → KeptP b o (rd.rd a n t)) :
    KeptP b o (Machine.ecFind rd fuel c k s) := by
  induction fuel generalizing s c k with
  | zero => exact h.pair
  | succ fuel ih => exact (hr _ _ _ h).bind fun _ _ h1 => .ite h1.pair (.ite h1.pair (ih h1 ..))

theorem Kept.expand (h : Kept b o s) (rd : Src) (fmt k) (hr : ∀ a n t, Kept b o t → KeptP b o (rd.rd a n t)) :
    KeptP b o (Machine.expand rd fmt k s) := by
  unfold Machine.expand
  extract_lets take
  have ht (w x t) (h1 : Kept b o t) : KeptP b o (take w x t) := by
    unfold take
    split <;> exact h1.pair
  clear_value take
  split
  · exact (hr _ _ _ h).bind fun _ _ h1 => ht _ _ _ h1
  · exact (hr _ _ _ h).bind fun _ _ h1 => ht _ _ _ h1
  · refine (h.ecFind rd _ _ _ hr).bind fun a s1 h1 => ?_
    extract_lets chunk
    clear_value chunk
    exact (hr _ _ _ h1).bind fun _ _ h2 => ht _ _ _ h2

theorem Kept.expandRow (h : Kept b o s) (rd : Src) (fmt b16 k) (hr : ∀ a n t, Kept b o t → KeptP b o (rd.rd a n t)) :
    KeptP b o (Machine.expandRow rd fmt b16 k s) := (h.expand rd _ _ hr).bind fun _ _ h1 => h1.pair

/-! #### Machine/Engine -/

theorem Kept.rdMaybe (h : Kept b o s) (w own op n) : KeptP b o (s.rdMaybe w own op n) := by
  unfold State.rdMaybe
  split
  · exact h.pair
  · exact h.rdOp ..

theorem Kept.rdColumn (h : Kept b o s) (w src ss off len n i) : KeptP b o (s.rdColumn w src ss off len n i) := by
  induction n generalizing s i with
  | zero => exact h.pair
  | succ n ih => exact (h.rdMaybe ..).bind fun _ _ h1 => (ih h1 _).bind fun _ _ h2 => h2.pair

theorem Kept.xRead (w a off n t) (h : Kept b o t) : KeptP b o ((State.xRead w a).rd off n t) := by
  unfold State.xRead
  dsimp only
  split
  next e => exact .ite (((h.xlate ..).out e).rdOp ..) ((h.xlate ..).out e).pair
  next e => exact ((h.xlate ..).out e).pair
  next e => exact ((h.xlate ..).out e).pair

theorem Kept.rowRead (h : Kept b o s) (w m r) : KeptP b o (s.rowRead w m r) := by
  unfold State.rowRead
  extract_lets c
  split
  · exact h.rdMaybe ..
  · exact h.expandRow _ _ _ _ (Kept.xRead w _)
  · exact .ite (h.rdMaybe ..) ((h.rdColumn ..).bind fun _ _ h1 => h1.pair)
  · split
    · exact .ite (h.rdOp ..) h.pair
    · exact h.pair
  · exact h.rdOp ..
  · exact h.rdOp ..
  · exact h.pair

theorem Kept.copyRow (h : Kept b o s) (w m r) : KeptP b o (s.copyRow w m r) := by
  unfold State.copyRow
  refine (h.rowRead ..).bind (fun a t h1 => ?_)
  split
  · exact h1.pair
  · exact (h1.wrOp ..).bind (fun _ _ h2 => h2.pair)

theorem Kept.rmw (h : Kept b o s) (w op n req f) : KeptP b o (s.rmw w op n req f) := by
  unfold State.rmw
  split
  · split
    next e1 =>
      exact KeptP.ite (Kept.pair ((h.xlate ..).out e1))
        (KeptP.ite ((((h.xlate ..).out e1).peer ..).bind (fun _ _ h1 => KeptP.ite (h1.hbmFault ..) h1.pair))
          (KeptP.ite (Kept.pair ((h.xlate ..).out e1))
            (KeptP.ite (((h.xlate ..).out e1).hbmFault ..)
              (Kept.pair ((Kept.ite (((h.xlate ..).out e1).hbmCount ..) ((h.xlate ..).out e1)).store ..)))))
    next e1 => exact Kept.pair ((h.xlate ..).out e1)
    next e1 => exact Kept.pair ((h.xlate ..).out e1)
  · refine (h.engRead ..).bind (fun a t h1 => ?_)
    split
    · exact h1.pair
    · exact (h1.engWrite ..).bind (fun _ _ h2 => h2.pair)

theorem Kept.atomGo (h : Kept b o s) (w addr val cmp op u eight) : KeptP b o (s.atomGo w addr val cmp op u eight) := by
  unfold State.atomGo
  extract_lets
  split
  · exact h.pair
  · exact KeptP.ite h.pair (h.rmw ..)

theorem Kept.sigGo (h : Kept b o s) (w addr val add eight) : KeptP b o (s.sigGo w addr val add eight) := by
  unfold State.sigGo
  extract_lets
  split
  · exact h.pair
  · exact KeptP.ite h.pair (KeptP.ite (h.rmw ..) ((h.engWrite ..).bind (fun _ _ h1 => h1.pair)))

theorem Kept.stopCmd (h : Kept b o s) (k ch m cause d) : Kept b o (s.stopCmd k ch m cause d) := by
  refine (h.cmdFault ..).onCore _ _ fun c => ?_
  extract_lets r c1 c2
  have h1 : c1.tag = c.tag := by
    unfold c1
    split
    · exact tag_setCr ..
    · rfl
  have h2 : c2.tag = c1.tag := by
    unfold c2
    split <;> rfl
  exact (tag_onCmd ..).trans (h2.trans h1)

theorem Kept.oneRow (h : Kept b o s) (w ch m) : KeptP b o (s.oneRow w ch m) := by
  unfold State.oneRow
  split
  · exact (h.atomGo ..).bind (fun _ _ h1 => Kept.pair (h1.regGo ..))
  · exact (h.sigGo ..).bind (fun _ _ h1 => h1.pair)
  · exact h.copyRow ..

theorem Kept.loadEnt (h : Kept b o s) (w ch m i op) : KeptO b o (s.loadEnt w ch m i op) := by
  unfold State.loadEnt
  split
  next e => exact ((((h.rdMaybe ..).out e).quit ..).onCore _ _ (fun _ => tag_onCmd ..)).some
  next e => exact ((((h.rdMaybe ..).out e).quit ..).stopCmd ..).some
  · exact h.waited ..

theorem Kept.tryRow (h : Kept b o s) (k ch) : KeptO b o (s.tryRow k ch) := by
  unfold State.tryRow
  split
  · exact KeptO.none
  · refine KeptO.ite KeptO.none ?_
    split
    · exact h.loadEnt ..
    · split
      next e3 => exact ((((h.oneRow ..).out e3).quit ..).onCore _ _ (fun _ => tag_rowDone ..)).some
      next e3 => exact ((((h.oneRow ..).out e3).quit ..).stopCmd ..).some
      · exact h.waited ..

theorem Kept.tryComplete (h : Kept b o s) (k ch) : KeptO b o (s.tryComplete k ch) := by
  unfold State.tryComplete
  split
  · exact KeptO.ite (h.endCmd ..).some KeptO.none
  · exact KeptO.none

theorem Kept.statusAt (h : Kept b o s) (w v bs) : KeptP b o (s.statusAt w v bs) := by
  unfold State.statusAt
  split
  · exact h.wrOp ..
  · exact h.pair

theorem Kept.lastWrite (h : Kept b o s) (r) : KeptP b o (s.lastWrite r) := by
  unfold State.lastWrite
  split
  next e => exact Kept.pair ((h.statusAt ..).out e)
  next e => exact Kept.pair ((h.statusAt ..).out e)
  next e => exact KeptP.ite (Kept.pair ((h.statusAt ..).out e)) h.upd.pair

theorem Kept.reportEnd (h : Kept b o s) (r close) (hclose : ∀ t a1, Kept b o t → Kept b o (close t a1)) :
    KeptP b o (s.reportEnd r close) := by
  unfold State.reportEnd
  split
  next e => exact Kept.pair (Kept.ite (hclose _ _ ((h.lastWrite ..).out e)) ((h.lastWrite ..).out e))
  next e => exact Kept.pair (hclose _ _ ((h.lastWrite ..).out e))
  next e => exact Kept.pair ((h.lastWrite ..).out e)

/-! #### Machine/Scarab -/

theorem Kept.allOrNone {α : Type} (h : Kept b o s) {r : Acc α × State} (hr : KeptP b o r) : KeptP b o (s.allOrNone r) := by
  unfold State.allOrNone
  split
  · exact Kept.pair (h.undone _)
  · exact hr

theorem Kept.setEnt (h : Kept b o s) (die set) : KeptP b o (s.setEnt die set) :=
  KeptP.ite h.pair (KeptP.ite h.pair (KeptP.ite h.pair (Kept.pair (h.meets ..))))

theorem Kept.putSet (h : Kept b o s) (set off bs) : Kept b o (s.putSet set off bs) := h.store ..

theorem Kept.putFlags (h : Kept b o s) (set valid poison) : Kept b o (s.putFlags set valid poison) := h.putSet ..

theorem Kept.recount (h : Kept b o s) (die set) : Kept b o (s.recount die set) := h.putSet ..

theorem Kept.dropSlot (h : Kept b o s) (die set n) : Kept b o (s.dropSlot die set n) := h.onDie ..

theorem Kept.sweepArrays (h : Kept b o s) (die set) : Kept b o (s.sweepArrays die set) :=
  Kept.ite (((h.upd.onDie ..).putFlags ..).recount ..) h

theorem Kept.readSlots (h : Kept b o s) (w x set l) : KeptP b o (State.readSlots w x set l s) := by
  induction l generalizing s with
  | nil => exact h.pair
  | cons n l ih =>
    unfold State.readSlots
    split
    next e =>
      refine (ih ((h.rdOp ..).out e)).bind fun _ _ h1 => ?_
      split <;> exact h1.pair
    next e =>
      have h1 := (h.rdOp ..).out e
      exact .ite (ih (((h1.dropSlot ..).putFlags ..).recount ..)) h1.pair
    next e => exact ((h.rdOp ..).out e).pair

theorem Kept.setRows (h : Kept b o s) (w x set) : KeptP b o (s.setRows w x set) :=
  ((h.sweepArrays ..).readSlots ..).bind (fun _ _ h1 => h1.pair)

theorem Kept.setAges (h : Kept b o s) (w x age l) : KeptP b o (State.setAges w x age l s) := by
  induction l generalizing s with
  | nil => exact h.pair
  | cons r l ih =>
    unfold State.setAges
    split
    · exact ih (h.onDie ..)
    · exact (h.wrOp ..).bind fun _ _ h1 => ih h1

theorem Kept.freeSlot (h : Kept b o s) (w x set n) : Kept b o (s.freeSlot w x set n) := by
  unfold State.freeSlot
  extract_lets src s1
  have h1 : Kept b o s1 := (h.dropSlot x.home set n).upd
  split
  next e => exact (h1.wrOp ..).out e
  next => exact h1.undone _
  next => exact h1.parityOf _

theorem Kept.removeRows (h : Kept b o s) (w x set l) : Kept b o (State.removeRows w x set l s) := by
  induction l generalizing s with
  | nil => exact h
  | cons r l ih =>
    unfold State.removeRows
    refine ih ?_
    split
    · exact h.onDie ..
    · exact h.freeSlot ..

theorem Kept.pickSlot (h : Kept b o s) (x set) : KeptP b o (s.pickSlot x set) := KeptP.ite h.pair h.choose.snd.pair

theorem Kept.putOvf (h : Kept b o s) (w x r) : KeptP b o (s.putOvf w x r) := by
  unfold State.putOvf
  split
  next e => exact Kept.pair ((h.pickSlot ..).out e)
  next e => exact (((h.pickSlot ..).out e).wrOp ..).bind (fun _ _ h1 => Kept.pair (h1.onDie ..))

theorem Kept.putArr (h : Kept b o s) (x r) : Kept b o (s.putArr x r) := h.onDie ..

theorem Kept.writeList (h : Kept b o s) (w out d ps) : KeptP b o (s.writeList w out d ps) := h.wrOp ..

theorem Kept.sselReport (h : Kept b o s) (r f) : KeptP b o (s.sselReport r f) := by
  unfold State.sselReport
  split
  next e => exact Kept.pair ((h.lastWrite ..).out e)
  next e => exact Kept.pair ((h.lastWrite ..).out e)
  next e => exact Kept.pair ((h.lastWrite ..).out e)

theorem Kept.pagesOpen (h : Kept b o s) (w l) : KeptP b o (State.pagesOpen w l s) := by
  induction l generalizing s with
  | nil => exact h.pair
  | cons a l ih =>
    unfold State.pagesOpen
    split
    next e => exact ih ((h.xlate ..).out e)
    next e => exact ((h.xlate ..).out e).pair
    next e => exact ((h.xlate ..).out e).pair

theorem Kept.sselWrite (h : Kept b o s) (w x op d list chosen) : KeptP b o (s.sselWrite w x op d list chosen) :=
  (h.pagesOpen ..).bind (fun _ _ h1 => (h1.writeList ..).bind (fun _ _ h2 => h2.setAges ..))

theorem Kept.sselClose (h : Kept b o s) (w x op d r list chosen) : KeptP b o (s.sselClose w x op d r list chosen) := by
  have h1 := h.sselWrite w x op d list chosen
  unfold State.sselClose
  split
  next s1 e =>
    have h2 : KeptP b o (s.allOrNone (s1.statusAt w r.addr r.word)) := h.allOrNone ((h1.out e).statusAt ..)
    split
    next e2 => exact .ite (Kept.pair (h2.out e2).upd) (h2.out e2).pair
    next => exact h2
  next => exact h.allOrNone h1

theorem Kept.sselDue (h : Kept b o s) (w r) : KeptP b o (s.sselDue w r) := by
  unfold State.sselDue
  split
  · exact h.sselReport ..
  · exact KeptP.ite (Kept.pair (h.quit ..)) h.pair

theorem Kept.sselPoisoned (h : Kept b o s) (w out d) : KeptP b o (s.sselPoisoned w out d) := h.sselReport ..

theorem Kept.sselGo (h : Kept b o s) (w set blk out k) : KeptP b o (s.sselGo w set blk out k) := by
  unfold State.sselGo
  split
  · exact h.sselDue ..
  · exact h.pair
  · refine (h.rdOp ..).bind fun d s1 h1 => (h1.setEnt ..).bind fun x s2 h2 => ?_
    refine .ite h2.pair (.ite (h2.sselPoisoned ..) ?_)
    exact (h2.setRows ..).bind fun _ _ h3 => .ite (h3.sselPoisoned ..) (h3.sselClose ..)

theorem Kept.moveOvf (h : Kept b o s) (w x l) : KeptP b o (State.moveOvf w x l s) := by
  induction l generalizing s with
  | nil => exact h.pair
  | cons r l ih => exact (h.putOvf ..).bind fun _ _ h1 => ih h1

theorem Kept.ssetGo (h : Kept b o s) (w set blk) : KeptP b o (s.ssetGo w set blk) := by
  refine (h.setEnt ..).bind fun x s1 h1 => ?_
  extract_lets i used entry
  have he (t) (ht : Kept b o t) : Kept b o (entry t) := (((ht.putSet ..).putSet ..).putFlags ..).putSet ..
  refine .ite h1.pair (.ite (he _ h1).pair ((h1.readSlots ..).bind fun rows s2 h2 => h2.allOrNone ?_))
  exact ((h2.foldl (fun _ _ ht => ht.freeSlot ..) used).moveOvf ..).bind fun _ _ h3 => (he _ h3).pair

theorem Kept.sinsGo (h : Kept b o s) (w blk) : KeptP b o (s.sinsGo w blk) := by
  refine (h.setEnt ..).bind fun x s1 h1 => KeptP.ite h1.pair ((h1.setRows ..).bind fun rows s2 h2 => ?_)
  extract_lets r s3
  have h3 : Kept b o s3 := h2.removeRows ..
  exact h2.allOrNone (.ite (Kept.pair ((h3.putArr ..).recount ..)) ((h3.putOvf ..).bind fun _ _ h4 => Kept.pair (h4.recount ..)))

theorem Kept.sdelAll (h : Kept b o s) (w x set) : Kept b o (s.sdelAll w x set) :=
  ((h.upd.foldl (fun _ _ h1 => h1.freeSlot ..) _).putFlags ..).recount ..

theorem Kept.sdelGo (h : Kept b o s) (w set rng all) : KeptP b o (s.sdelGo w set rng all) :=
  (h.setEnt ..).bind (fun _ _ h1 => KeptP.ite (Kept.pair (h1.sdelAll ..))
    ((h1.setRows ..).bind (fun _ _ h2 => Kept.pair ((h2.removeRows ..).recount ..))))

theorem Kept.sageGo (h : Kept b o s) (w set d) : KeptP b o (s.sageGo w set d) :=
  (h.setEnt ..).bind (fun _ _ h1 => KeptP.ite h1.pair ((h1.setRows ..).bind (fun _ _ h2 => h2.setAges ..)))

theorem Kept.migrate (h : Kept b o s) (w x set inward l) : KeptP b o (State.migrate w x set inward l s) := by
  induction l generalizing s with
  | nil => exact h.pair
  | cons r l ih =>
    refine .ite (.ite (ih ((h.removeRows ..).putArr ..)) h.pair) (.ite h.pair ?_)
    exact (h.putOvf ..).bind fun _ _ h1 => ih (h1.removeRows ..)

theorem Kept.smigGo (h : Kept b o s) (w set mark inward) : KeptP b o (s.smigGo w set mark inward) :=
  (h.setEnt ..).bind (fun _ _ h1 => KeptP.ite h1.pair (KeptP.ite h1.pair ((h1.setRows ..).bind (fun _ _ h2 => h2.migrate ..))))

theorem Kept.pgapGo (h : Kept b o s) (w set desc frame) : KeptP b o (s.pgapGo w set desc frame) := by
  unfold State.pgapGo
  split
  · exact h.pair
  · refine (h.rdOp ..).bind (fun a t h1 => (h1.setEnt ..).bind (fun a1 t1 h2 => ?_))
    refine KeptP.ite h2.pair ?_
    refine KeptP.ite ?_ (h2.allOrNone
      ((h2.wrOp ..).bind (fun _ _ h3 => (KeptP.ite (h3.wrOp ..) (h3.wrOp ..)).bind
        (fun _ _ h4 => (h4.wrOp ..).bind (fun _ _ h5 => h5.wrOp ..)))))
    split
    next e4 => exact Kept.pair ((h2.wrOp ..).out e4)
    next e4 => exact Kept.pair ((h2.wrOp ..).out e4)

theorem Kept.setOpGo (h : Kept b o s) (die x) : KeptP b o (s.setOpGo die x) := by
  unfold State.setOpGo
  refine KeptP.ite h.pair ?_
  split
  · exact h.sselGo ..
  · exact h.ssetGo ..
  · exact h.sinsGo ..
  · exact h.sdelGo ..
  · exact h.sageGo ..
  · exact h.smigGo ..
  · exact h.pgapGo ..
  · exact h.pair

theorem Kept.setOpEnd (h : Kept b o s) (die x f) : Kept b o (s.setOpEnd die x f) := by
  unfold State.setOpEnd
  extract_lets s1
  have h1 : Kept b o s1 := (h.quit ..).onDie ..
  split
  · exact h1
  · refine Kept.endCmd ?_ ..
    split
    · exact h1.cmdFault ..
    · exact h1

theorem Kept.trySetOps (h : Kept b o s) (die l) : KeptO b o (s.trySetOps die l) := by
  induction l with
  | nil => exact .none
  | cons x l ih =>
    have h1 := h.setOpGo die x
    unfold State.trySetOps
    split
    next e => exact (Kept.ite (h1.out e) ((h1.out e).setOpEnd ..)).some
    next e => exact ((h1.out e).setOpEnd ..).some
    next e =>
      split
      next e1 => exact ((h.waited _).out e1).some
      next => exact ih

theorem Kept.trySsel (h : Kept b o s) (die) : KeptO b o (s.trySsel die) := h.trySetOps ..

theorem Kept.trySetOp (h : Kept b o s) (die) : KeptO b o (s.trySetOp die) := h.trySetOps ..

/-! #### Machine/Weevil -/

theorem Kept.weevilDone (h : Kept b o s) (w x m f) : Kept b o (s.weevilDone w x m f) := by
  refine (Kept.endCmd ?_ ..).onCore ..
  split
  · exact (h.quit ..).cmdFault ..
  · exact h.quit ..

theorem Kept.weevilEnd (h : Kept b o s) (w x m lpage f) : KeptP b o (s.weevilEnd w x m lpage f) :=
  h.reportEnd _ _ (fun _ _ h1 => h1.weevilDone ..)

theorem KeptP.dropWrite {r : Acc Unit × State} (hr : KeptP b o r) : KeptP b o (State.dropWrite r) := by
  unfold State.dropWrite
  split
  · exact hr.snd.pair
  · exact hr

theorem Kept.pageFrame (h : Kept b o s) (w x) : KeptP b o (s.pageFrame w x) := by
  unfold State.pageFrame
  refine KeptP.ite h.pair ?_
  split
  · exact h.pair
  · exact (h.rdOp ..).bind (fun _ _ h1 => h1.pair)

theorem Kept.readPage (h : Kept b o s) (w x f) : KeptP b o (s.readPage w x f) :=
  (h.rdOp ..).bind (fun _ _ h1 => (h1.rdOp ..).bind (fun _ _ h2 => (h2.rdOp ..).bind (fun _ _ h3 => h3.pair)))

theorem Kept.writeSlot (h : Kept b o s) (w x q) : KeptP b o (s.writeSlot w x q) := (h.wrOp ..).bind (fun _ _ h1 => h1.wrOp ..)

theorem Kept.weevilGo (h : Kept b o s) (w x m) : KeptP b o (s.weevilGo w x m) := by
  unfold State.weevilGo
  split
  · exact h.reportEnd _ _ fun _ _ ht => ht.weevilDone ..
  refine .ite (h.weevilEnd ..) ?_
  have h1 := h.pageFrame w x
  split
  next e => exact (h1.out e).pair
  next e => exact (h1.out e).weevilEnd ..
  next fl s1 e =>
    refine .ite (h1.out e).pair ?_
    have h2 := (h1.out e).readPage w x fl.1
    split
    next e => exact (h2.out e).pair
    next e => exact (h2.out e).weevilEnd ..
    next p s2 e =>
      have h3 := (h2.out e).writeSlot w x p
      split
      next e => exact (h3.out e).pair
      next e => exact (h3.out e).weevilEnd ..
      next s3 e =>
        refine .ite (Kept.pair (((h3.out e).quit ..).onCore ..)) ?_
        refine (KeptP.dropWrite ((h3.out e).wrOp ..)).bind fun _ s4 h4 => ?_
        refine (KeptP.dropWrite ?_).bind fun _ s5 h5 => h5.weevilEnd ..
        split
        · exact h4.wrOp ..
        · exact h4.pair

theorem Kept.tryPages (h : Kept b o s) (k l) : KeptO b o (s.tryPages k l) := by
  induction l with
  | nil => exact .none
  | cons x l ih =>
    unfold State.tryPages
    split
    · exact ih
    · split
      next =>
        split
        next e1 => exact ((h.waited _).out e1).some
        next => exact ih
      next e => exact ((h.weevilGo ..).out e).some

theorem Kept.tryPage (h : Kept b o s) (k ch) : KeptO b o (s.tryPage k ch) := KeptO.ite (h.tryPages ..) KeptO.none

/-! #### Machine/Plan -/

theorem Kept.engineEnd (h : Kept b o s) (k ch m) {r} (hr : KeptP b o r) : KeptO b o (s.engineEnd k ch m r) := by
  unfold State.engineEnd
  split
  · exact (hr.snd.endCmd ..).some
  · exact ((hr.snd.cmdFault ..).endCmd ..).some
  · exact h.waited _

theorem Kept.planCounts (h : Kept b o s) (w l) : KeptP b o (State.planCounts w l s) := by
  induction l generalizing s with
  | nil => exact h.pair
  | cons x l ih =>
    refine (h.rdOp ..).bind fun _ _ h1 => (h1.setEnt ..).bind fun _ _ h2 => ?_
    exact .ite h2.pair ((ih h2).bind fun _ _ h3 => h3.pair)

theorem Kept.writeAll (h : Kept b o s) (w l) : KeptP b o (State.writeAll w l s) := by
  induction l generalizing s with
  | nil => exact h.pair
  | cons x l ih => exact (h.wrOp ..).bind fun _ _ h1 => ih h1

theorem Kept.planGo (h : Kept b o s) (w blk) : KeptP b o (s.planGo w blk) := by
  unfold State.planGo
  extract_lets
  split
  · exact KeptP.ite h.pair
      ((h.rdOp ..).bind (fun _ _ h1 => KeptP.ite h1.pair
        ((h1.rdOp ..).bind (fun _ _ h2 => (h2.planCounts ..).bind (fun _ _ h3 => KeptP.ite h3.pair (h3.writeAll ..))))))
  · exact h.pair

theorem Kept.tryPlan (h : Kept b o s) (k ch) : KeptO b o (s.tryPlan k ch) := by
  unfold State.tryPlan
  extract_lets
  split
  · exact KeptO.ite (h.engineEnd _ _ _ (h.planGo ..)) KeptO.none
  · exact KeptO.none

/-! #### Machine/Pmov -/

theorem Kept.peerAtomic (h : Kept b o s) (key op u eight val cmp) : KeptP b o (s.peerAtomic key op u eight val cmp) :=
  Kept.pair (h.store ..)

theorem Kept.serve (h : Kept b o s) (key f) : Kept b o (s.serve key f) := by
  unfold State.serve
  extract_lets
  split
  · exact (h.store ..).send ..
  · exact Kept.ite (h.send ..) ((Kept.ite (h.hbmCount ..) h).send ..)
  · exact Kept.ite (h.send ..) ((((Kept.ite (h.hbmCount ..) h).peerAtomic ..).snd).send ..)
  · exact h

theorem Kept.relay (h : Kept b o s) (key f) : Kept b o (s.relay key f) := by
  unfold State.relay
  extract_lets
  split
  · exact (h.peer ..).snd
  · exact (h.peer ..).snd
  · exact (h.peer ..).snd
  · exact h

theorem Kept.flitGo (h : Kept b o s) (q f) : Kept b o (s.flitGo q f) := by
  unfold State.flitGo
  split
  · exact Kept.ite (h.serve ..) h
  · exact h

theorem Kept.flitIn (h : Kept b o s) (q f) : Kept b o (s.flitIn q f) := Kept.ite h.upd (h.flitGo ..)

theorem Kept.flitTurn (h : Kept b o s) : KeptO b o s.flitTurn :=
  KeptO.mapOf fun _ => Kept.flitGo h.upd ..

theorem Kept.pmovDone (h : Kept b o s) (w ch m f) : Kept b o (s.pmovDone w ch m f) := by
  refine (Kept.endCmd ?_ ..).quit ..
  split
  · exact h.cmdFault ..
  · exact h

theorem Kept.pmovEnd (h : Kept b o s) (w ch m status f) : KeptP b o (s.pmovEnd w ch m status f) :=
  h.reportEnd _ _ (fun _ _ h1 => h1.pmovDone ..)

theorem Kept.moveLeaf (h : Kept b o s) (die asid va spare) : KeptP b o (s.moveLeaf die asid va spare) := by
  unfold State.moveLeaf
  refine KeptP.ite h.pair ?_
  refine KeptP.ite h.pair ?_
  split
  · exact h.pair
  · extract_lets
    split
    · exact Kept.pair (h.walked ..)
    · exact Kept.pair (h.walked ..)
    · exact KeptP.ite (Kept.pair (h.walked ..)) (Kept.pair (h.walked ..))
    · exact Kept.pair (h.walked ..)
    · exact Kept.pair (h.walked ..)
    · exact Kept.pair (h.walked ..)
    · exact Kept.pair (h.walked ..)

theorem Kept.setMig (h : Kept b o s) (die entry on) : Kept b o (s.setMig die entry on) := h.storeFor ..

theorem Kept.pmovStart (h : Kept b o s) (w ch m va spare status) : KeptP b o (s.pmovStart w ch m va spare status) := by
  unfold State.pmovStart
  extract_lets stop
  have hs (c d t) (ht : Kept b o t) : KeptP b o (stop c d t) := ht.pmovEnd ..
  refine (h.moveLeaf ..).catch (fun a s1 h1 => (h1.moveLeaf ..).catch (fun a2 s2 h2 => ?_) fun c d t ht => hs c d t ht)
    fun c d t ht => hs c d t ht
  refine .ite (hs _ _ _ h2) (.ite h2.pair ?_)
  extract_lets x src s3
  have h3 : Kept b o s3 := ((h2.setMig w.die a.1 true).setMig w.die a2.1 true).upd
  exact Kept.pair (h3.onCore _ _ fun _ => tag_onCmd ..)

theorem wf_foldl_wrByte {α : Type} (at' : α → Nat) (v : α → Byte) (l : List α) (m : List Host.Cell) (h : memWf m = true) :
    memWf (l.foldl (fun m e => wrByte m (at' e) (v e)) m) = true := by
  induction l generalizing m with
  | nil => exact h
  | cons e l ih => exact ih _ (wf_wrByte _ _ _ h)

theorem wf_memCopy (m : List Host.Cell) (src dst len : Nat) (h : memWf m = true) : memWf (memCopy m src dst len) = true :=
  wf_foldl_wrByte _ _ _ _ (Sparse.wf_filter _ _ _ h)

theorem Kept.pageCopy (h : Kept b o s) (w src u dst u' len) : KeptP b o (s.pageCopy w src u dst u' len) := by
  unfold State.pageCopy
  extract_lets bytes
  have h1 : KeptP b o bytes := .ite (h.peer ..) h.pair
  refine h1.bind fun _ _ h2 => .ite h2.pair (.ite ((h2.peer ..).bind fun _ _ h3 => h3.pair) (Kept.pair ?_))
  refine ⟨fun m => ?_, h2.placed, h2.boot, h2.calm⟩
  dsimp only
  split
  · exact wf_wrBytes _ _ _ (h2.mem m)
  · exact wf_memCopy _ _ _ _ (h2.mem m)

theorem Kept.moveOff (h : Kept b o s) (x) : Kept b o (s.moveOff x) := ((h.setMig ..).setMig ..).upd rfl

theorem Kept.moveBad (h : Kept b o s) (w m x off pa) : KeptP b o (s.moveBad w m x off pa) := by
  unfold State.moveBad
  exact ((h.moveOff ..).poison ..).pmovEnd ..

theorem Kept.rehome (h : Kept b o s) (old new tier len) : Kept b o (s.rehome old new tier len) := by
  unfold State.rehome
  refine h.upd.foldl (fun t a h1 => ?_) _
  split
  · exact h1.upd
  · refine Kept.ite h1.upd ?_
    split
    · exact h1.upd
    · exact h1.relay ..
    · exact h1.serve ..

theorem Kept.moveMap (h : Kept b o s) (x a w) : Kept b o (s.moveMap x a w) := by
  unfold State.moveMap
  extract_lets hi home s1
  have h1 : Kept b o s1 := (h.store ..).store ..
  exact Kept.tlbDrop h1.upd ..

theorem Kept.pmovGo (h : Kept b o s) (w m x) : KeptP b o (s.pmovGo w m x) := by
  unfold State.pmovGo
  refine KeptP.ite ((h.moveOff ..).pmovEnd ..) ?_
  split
  · split
    · exact h.moveBad ..
    · exact (h.pageCopy ..).bind
        (fun _ _ h1 => KeptP.ite ((Kept.ite (((h1.hbmCount ..).moveMap ..).rehome ..) ((h1.hbmCount ..).moveMap ..)).pmovEnd ..)
          (h1.moveBad ..))
  · exact (h.moveOff ..).pmovEnd ..
  · exact (h.moveOff ..).pmovEnd ..
  · exact h.pair

theorem Kept.pmovReport (h : Kept b o s) (k ch) : KeptO b o (s.pmovReport k ch) := by
  refine KeptO.findSome fun m => ?_
  split
  next =>
    split
    next => exact h.waited _
    next e => exact ((h.reportEnd _ _ fun _ _ ht => ht.pmovDone ..).out e).some
  next => exact .none

theorem Kept.tryPmov (h : Kept b o s) (k ch) : KeptO b o (s.tryPmov k ch) := by
  unfold State.tryPmov
  split
  · exact h.pmovReport ..
  · split
    · exact (h.moveOff ..).some
    · split
      · exact h.waited ..
      next e2 => exact ((h.pmovGo ..).out e2).some

/-! #### Machine/Collect -/

theorem Kept.collRead (h : Kept b o s) (w own blk) : KeptP b o (s.collRead w own blk) := by
  unfold State.collRead
  split
  · exact h.pair
  · exact (h.rdOp ..).bind (fun _ _ h1 => KeptP.ite h1.pair ((h1.rdOp ..).bind (fun _ _ h2 => KeptP.ite h2.pair h2.pair)))

theorem Kept.setCollQ (h : Kept b o s) (die eng q) : Kept b o (s.setCollQ die eng q) := h.onDie ..

theorem Kept.collTake (h : Kept b o s) (die x) : KeptP b o (s.collTake die x) :=
  KeptP.ite h.pair (KeptP.ite h.pair (Kept.pair (h.setCollQ ..)))

theorem Kept.teamStep (h : Kept b o s) (ranks r) : Kept b o (s.teamStep ranks r) := h.upd

theorem Kept.contrib (h : Kept b o s) (x) : KeptP b o (s.contrib x) := by
  unfold State.contrib
  refine KeptP.ite h.pair ?_
  split
  · exact h.rdOp ..
  · exact h.pair

theorem Kept.collDone (h : Kept b o s) (x f) : Kept b o (s.collDone x f) := by
  unfold State.collDone
  extract_lets s1 s3 s2
  have h3 : Kept b o s3 := ((h.quit ..).setCollQ ..).teamStep ..
  have h2 : Kept b o s2 := h3.upd
  clear_value s2
  split
  · exact h2.onCore _ _ fun _ => tag_engFault ..
  · exact h2
  · split
    · exact h2.onStrm ..
    · exact h2

theorem Kept.collEnd (h : Kept b o s) (x f) : KeptP b o (s.collEnd x f) := h.reportEnd _ _ (fun _ _ h1 => h1.collDone ..)

theorem Kept.collGather (h : Kept b o s) (x l) : Kept b o (State.collGather x l s).2.1 := by
  induction l generalizing s with
  | nil => exact h
  | cons r l ih =>
    unfold State.collGather
    split
    · have h1 := h.contrib
      split
      next e =>
        have h2 := ih ((h1 _).out e)
        split
        next e2 => rw [e2] at h2; exact h2
        next => exact h2
      next e => exact (h1 _).out e
      next e => exact (h1 _).out e
    · split
      next e2 => have h2 := ih h; rw [e2] at h2; exact h2
      next => exact ih h
    · exact h

theorem Kept.collWrite (h : Kept b o s) (cs l) : KeptP b o (State.collWrite cs l s) := by
  induction l generalizing s with
  | nil => exact h.pair
  | cons y l ih =>
    unfold State.collWrite
    extract_lets r
    have hr : KeptP b o r := by
      unfold r
      split
      · exact h.wrOp ..
      · exact h.pair
    clear_value r
    split
    · exact hr.snd.pair
    · exact (hr.snd.collEnd ..).bind fun _ _ h1 => ih h1
    · exact (hr.snd.collEnd ..).bind fun _ _ h1 => ih h1

theorem Kept.collFail (h : Kept b o s) (d l) : KeptP b o (State.collFail d l s) := by
  induction l generalizing s with
  | nil => exact h.pair
  | cons y l ih => exact (h.collEnd ..).bind fun _ _ h1 => ih h1

theorem Kept.collSend (h : Kept b o s) (x w) : Kept b o (s.collSend x w) := h.foldl (fun _ _ h1 => (h1.peer ..).snd) _

theorem Kept.collGo (h : Kept b o s) (die eng x) : KeptP b o (s.collGo die eng x) := by
  unfold State.collGo
  split
  · exact h.reportEnd _ _ fun _ _ ht => ht.collDone ..
  refine .ite h.pair (.ite (h.collEnd ..) (.ite ?_ ?_))
  · have h1 := h.contrib x
    split
    next e => exact (h1.out e).pair
    next e => exact (h1.out e).collEnd ..
    next e => exact Kept.pair (((h1.out e).setCollQ ..).collSend ..)
  · extract_lets near
    refine .ite h.pair (.ite (h.collFail ..) ?_)
    have h1 := h.collGather x (List.range x.nrank)
    split
    next e => rw [e] at h1; exact Kept.pair h1
    next e => rw [e] at h1; exact Kept.collEnd h1 ..
    next e => rw [e] at h1; exact .ite (Kept.collWrite h1 ..) (Kept.collFail h1 ..)

theorem Kept.tryColls (h : Kept b o s) (die eng l) : KeptO b o (s.tryColls die eng l) := by
  induction l with
  | nil => exact .none
  | cons x l ih =>
    unfold State.tryColls
    split
    next =>
      split
      next e1 => exact ((h.waited _).out e1).some
      next => exact ih
    next e => exact ((h.collGo ..).out e).some

theorem Kept.tryColl (h : Kept b o s) (die eng) : KeptO b o (s.tryColl die eng) := h.tryColls ..

/-! #### Machine/StackLane -/

theorem Kept.laneRead (h : Kept b o s) (l base off n) : KeptP b o (s.laneRead l base off n) := by
  unfold State.laneRead
  split
  · exact h.pair
  · extract_lets
    split
    · exact Kept.pair (h.hbmCount ..)
    · exact Kept.pair (h.poison ..)

theorem Kept.kword (h : Kept b o s) (w occ lockstep r) : KeptR b o (s.kword w occ lockstep r) := by
  unfold State.kword
  refine KeptR.ite (h.onLane ..).next ?_
  split <;> exact (h.onLane ..).next

theorem Kept.klock (h : Kept b o s) (w occ) {r : Sum Nat Lane × State} (hr : KeptP b o r) : KeptR b o (s.klock w occ r) :=
  .ite (h.kword ..) (hr.snd.kword ..)

theorem Kept.windowRows (h : Kept b o s) (l r n) : KeptP b o (s.windowRows l r n) := by
  induction n generalizing s r with
  | zero => exact h.pair
  | succ n ih => exact (h.rdOp ..).bind fun _ _ h1 => (ih h1 _).bind fun _ _ h2 => h2.pair

theorem Kept.chooseN (h : Kept b o s) (n) : KeptP b o (State.chooseN n s) := by
  induction n generalizing s with
  | zero => exact h.pair
  | succ n ih => exact Kept.pair (ih h.choose.snd).snd

theorem Kept.kmac (h : Kept b o s) (w r four first k0) : KeptR b o (s.kmac w r four first k0) := by
  unfold State.kmac
  extract_lets
  split
  next e => exact h.klock _ _ (Kept.pair ((h.laneRead ..).out e))
  next e => exact h.klock _ _ (Kept.pair ((h.laneRead ..).out e))

theorem Kept.expandBlocks (h : Kept b o s) (rd : Src) (fmt b16 k n) (hr : ∀ a n t, Kept b o t → KeptP b o (rd.rd a n t)) :
    KeptP b o (Machine.expandBlocks rd fmt b16 k n s) := by
  induction n generalizing s k with
  | zero => exact h.pair
  | succ n ih => exact (h.expand rd _ _ hr).bind fun _ _ h1 => (ih h1 _).bind fun _ _ h2 => h2.pair

theorem Kept.laneReads (h : Kept b o s) (n) : Kept b o (s.laneReads n) := h.upd

theorem Kept.landWin (h : Kept b o s) (k q off bs) : Kept b o (s.landWin k q off bs) := by
  unfold State.landWin
  extract_lets
  split
  next e => exact (h.wrOp ..).out e
  · exact h.onLane ..
  · exact ((h.waited ..).getD h).onLane ..

theorem Kept.landRow (h : Kept b o s) (k q pa bs) : Kept b o (s.landRow k q pa bs) := (h.store ..).onLane ..

theorem Kept.landK (h : Kept b o s) (k q) : Kept b o (s.landK k q) := by
  unfold State.landK
  split
  · exact h.onLane ..
  · exact h.onLane ..
  · exact h.onLane ..
  · exact h.onLane ..
  · exact h.landRow ..
  · exact h.landWin ..
  · exact h

theorem Kept.laneLand (h : Kept b o s) (n k) : Kept b o (State.laneLand n s k) := (h.onLane ..).foldl (fun _ _ h1 => h1.landK ..) _

theorem Kept.laneFault (h : Kept b o s) (l f) : Kept b o (s.laneFault l f) := h.onCore ..

theorem Kept.laneEnd (h : Kept b o s) (k) : Kept b o (s.laneEnd k) := by
  unfold State.laneEnd
  extract_lets l l1
  split
  · refine .ite h ?_
    extract_lets word f
    have h1 := h.statusAt l.who l.status word
    clear_value f
    split
    · exact (h.waited _).getD h
    next e =>
      have h2 := (h1.out e).quit l.who
      split
      · exact (h2.onLane ..).laneFault ..
      · exact h2.onLane ..
    next e => exact (((h1.out e).quit ..).onLane ..).laneFault ..
  · exact h

theorem Kept.laneCycle (h : Kept b o s) : Kept b o s.laneCycle :=
  ((h.laneReads ..).foldl (fun _ _ h1 => h1.laneLand ..) _).foldl (fun _ _ h1 => h1.laneEnd ..) _

theorem Kept.baseAt (h : Kept b o s) (die asid stack va len) : KeptP b o (s.baseAt die asid stack va len) := by
  unfold State.baseAt
  refine .ite h.pair (.ite h.pair ?_)
  extract_lets leaf
  have h1 := h.xlate die asid va false
  split
  next e => exact (h1.out e).pair
  next e _ => exact (h1.out e).pair
  next e _ => exact (h1.out e).pair
  next e _ => exact (h1.out e).pair

theorem Kept.basesAt (h : Kept b o s) (die asid stack d n) : KeptP b o (State.basesAt die asid stack d n s) := by
  induction n generalizing s with
  | zero => exact h.pair
  | succ n ih =>
    unfold State.basesAt
    extract_lets i
    exact (h.baseAt ..).bind fun _ _ h1 => (ih h1).bind fun _ _ h2 => h2.pair

theorem Kept.cstkGo (h : Kept b o s) (k ch m stack lane d) : KeptP b o (s.cstkGo k ch m stack lane d) := by
  unfold State.cstkGo
  extract_lets w li refuse
  have hr (t c x) (ht : Kept b o t) : KeptP b o (refuse t c x) := by
    unfold refuse
    split
    · exact ht.pair
    · extract_lets word
      split
      next e => exact ((ht.statusAt ..).out e).pair
      next e => exact ((ht.statusAt ..).out (by assumption)).pair
  clear_value refuse
  refine .ite (hr _ _ _ h) ?_
  have h1 := h.basesAt w.die w.asid stack d 4
  split
  next e => exact (h1.out e).pair
  next e => exact hr _ _ _ (h1.out e)
  next s1 e =>
    have h2 : KeptP b o (if fieldAt d 8 2 = 0 then (.ok [], s1) else s1.rdOp w false (.va (fieldAt d 0 8)) (8 * fieldAt d 8 2)) :=
      .ite (h1.out e).pair ((h1.out e).rdOp ..)
    split
    next e => exact (h2.out e).pair
    next e => exact hr _ _ _ (h2.out e)
    next s2 e =>
      extract_lets s3
      have h3 : Kept b o s3 := (h2.out e).upd
      exact Kept.pair (h3.onLane ..)

theorem Kept.tryStart (h : Kept b o s) (l) : KeptO b o (s.tryStart l) := KeptO.ite (h.upd.onLane ..).some KeptO.none

theorem Kept.laneIllegal (h : Kept b o s) (l) : Kept b o (s.laneIllegal l) := h.onLane ..

theorem Kept.lockAbort (h : Kept b o s) (k) : Kept b o (s.lockAbort k) := (h.foldl (fun _ _ h1 => h1.store ..) _).onLane ..

theorem Kept.tryRefresh (h : Kept b o s) (stack) : KeptO b o (s.tryRefresh stack) := by
  unfold State.tryRefresh
  refine .ite ?_ .none
  extract_lets s1 busy
  have h1 : Kept b o s1 := h.upd
  clear_value busy
  split
  · exact Kept.some h1.upd
  · exact .ite (Kept.some (Kept.lockAbort (s := { s1 with postponed := s.postponed.filter (· != stack) }) h1.upd _))
      (Kept.some h1.upd)

/-! #### Machine/Handon -/

theorem Kept.handFault (h : Kept b o s) (k ch m cause d) : Kept b o (s.handFault k ch m cause d) := (h.stopCmd ..).endCmd ..

theorem Kept.handEnd (h : Kept b o s) (k ch m) {r} (hr : KeptP b o r) : KeptO b o (s.handEnd k ch m r) := by
  unfold State.handEnd
  split
  · exact (Kept.ite hr.snd (hr.snd.quit ..)).some
  · exact (hr.snd.handFault ..).some
  · exact h.waited _

theorem Kept.block (h : Kept b o s) (w v n) : KeptP b o (s.block w v n) := by
  unfold State.block
  split
  · exact h.rdOp ..
  · exact h.pair

theorem Kept.complexOf (h : Kept b o s) (die set) : KeptP b o (s.complexOf die set) := by
  unfold State.complexOf
  extract_lets
  split
  · exact KeptP.ite h.pair h.pair
  · exact (h.setEnt ..).bind (fun _ _ h1 => KeptP.ite h1.pair h1.pair)

theorem Kept.arriveSet (h : Kept b o s) (w ch m set blk) : KeptP b o (s.arriveSet w ch m set blk) :=
  (h.complexOf ..).bind (fun _ _ h1 => Kept.pair ((h1.onDie ..).onCore _ _ (fun _ => tag_onCmd ..)))

theorem Kept.handed (h : Kept b o s) (k ch m qs blk) : Kept b o (s.handed k ch m qs blk) := h.onCore _ _ (fun _ => tag_onCmd ..)

theorem Kept.note (h : Kept b o s) (k m qs) : Kept b o (s.note k m qs) := h.onCore ..

theorem Kept.planSize (h : Kept b o s) (w blk) : KeptP b o (s.planSize w blk) := by
  unfold State.planSize
  split
  · exact h.pair
  · exact (h.rdOp ..).catch (fun _ _ h1 => h1.pair) (fun _ _ _ h1 => h1.pair)

theorem Kept.handPlan (h : Kept b o s) (w ch m v) : KeptP b o (s.handPlan w ch m v) :=
  (h.block ..).bind (fun _ _ h1 => (h1.planSize ..).bind
    (fun _ _ h2 => KeptP.ite (Kept.pair ((h2.onCore _ _ (fun _ => tag_onCmd ..)).note ..))
      (KeptP.ite (Kept.pair ((h2.onCore _ _ (fun _ => tag_onCmd ..)).note ..))
        (Kept.pair (((h2.onCore _ _ (fun _ => tag_onCmd ..)).note ..).handed ..)))))

theorem Kept.handColl (h : Kept b o s) (w ch m v) : KeptP b o (s.handColl w ch m v) :=
  (h.block ..).bind (fun _ _ h1 => ((h1.note ..).collRead ..).bind
    (fun _ _ h2 => KeptP.ite h2.pair
      (KeptP.ite (Kept.pair (((h2.note ..).quit ..).startStop ..))
        (((h2.note ..).collTake ..).bind (fun _ _ h3 => Kept.pair (h3.endCmd ..))))))

theorem Kept.handCstk (h : Kept b o s) (w ch m v stack lane) : KeptP b o (s.handCstk w ch m v stack lane) := by
  unfold State.handCstk
  refine (h.block ..).bind (fun a t h1 => ?_)
  refine KeptP.ite h1.pair ?_
  refine KeptP.ite (Kept.pair (((h1.note ..).quit ..).startStop ..)) ?_
  split
  next e3 => exact Kept.pair ((((h1.note ..).cstkGo ..).out e3).endCmd ..)
  next e3 => exact Kept.pair (((((h1.note ..).cstkGo ..).out e3).cmdFault ..).endCmd ..)
  next e3 => exact Kept.pair (((h1.note ..).cstkGo ..).out e3)

theorem Kept.handPgft (h : Kept b o s) (w ch m ra rb rc q0 chain) : KeptP b o (s.handPgft w ch m ra rb rc q0 chain) := by
  unfold State.handPgft
  extract_lets
  split
  next e => exact Kept.pair ((h.block ..).out e)
  next e => exact ((h.block ..).out e).weevilEnd ..
  next e =>
    refine KeptP.ite (KeptP.ite (((h.block ..).out e).weevilEnd ..)
      (KeptP.ite (Kept.pair (((h.block ..).out e).note ..)) (Kept.pair (((((h.block ..).out e).note ..).handed ..).onCore ..)))) ?_
    split
    next e2 => exact Kept.pair ((((h.block ..).out e).block ..).out e2)
    next e2 => exact ((((h.block ..).out e).block ..).out e2).weevilEnd ..
    next e2 =>
      refine KeptP.ite (KeptP.ite (((((h.block ..).out e).block ..).out e2).weevilEnd ..)
        (KeptP.ite (Kept.pair (((((h.block ..).out e).block ..).out e2).note ..))
          (Kept.pair (((((((h.block ..).out e).block ..).out e2).note ..).handed ..).onCore ..)))) ?_
      split
      next e4 => exact Kept.pair ((((((h.block ..).out e).block ..).out e2).statusAt ..).out e4)
      next e4 => exact Kept.pair (((((((h.block ..).out e).block ..).out e2).statusAt ..).out e4).endCmd ..)
      next e4 => exact Kept.pair ((((((((h.block ..).out e).block ..).out e2).statusAt ..).out e4).cmdFault ..).endCmd ..)

theorem Kept.handGo (h : Kept b o s) (w ch m) : KeptP b o (s.handGo w ch m) := by
  unfold State.handGo
  split
  · exact h.reportEnd _ _ (fun _ _ h1 => h1.pmovDone ..)
  · split
    · exact (h.block ..).bind (fun _ _ h1 => h1.arriveSet ..)
    · exact (h.block ..).bind (fun _ _ h1 => h1.arriveSet ..)
    · exact (h.block ..).bind (fun _ _ h1 => KeptP.ite h1.pair ((h1.rdOp ..).bind (fun _ _ h2 => h2.arriveSet ..)))
    · exact h.arriveSet ..
    · exact h.arriveSet ..
    · exact h.arriveSet ..
    · exact (h.block ..).bind (fun _ _ h1 => h1.arriveSet ..)
    · exact h.handPlan ..
    · exact h.handColl ..
    · exact h.handCstk ..
    · exact h.handPgft ..
    · exact h.pmovStart ..
    · exact h.pair

theorem Kept.tryHand (h : Kept b o s) (k ch) : KeptO b o (s.tryHand k ch) := by
  unfold State.tryHand
  extract_lets
  split
  · exact KeptO.none
  · exact KeptO.ite KeptO.none (h.handEnd _ _ _ (h.handGo ..))

theorem Kept.tryCmdStart (h : Kept b o s) (k ch) : KeptO b o (s.tryCmdStart k ch) := by
  unfold State.tryCmdStart
  split
  next e => exact ((h.tryHand ..).out e).some
  · exact h.startCmd ..

/-! #### Machine/Launch -/

theorem Kept.vaRead (h : Kept b o s) (w va n) : KeptP b o (s.vaRead w va n) := h.rdOp ..

theorem Kept.readImage (h : Kept b o s) (l) : KeptP b o (s.readImage l) := by
  unfold State.readImage
  extract_lets
  split
  next e => exact Kept.pair ((h.vaRead ..).out e)
  next e => exact Kept.pair ((h.vaRead ..).out e)
  next e =>
    refine KeptP.ite (Kept.pair ((h.vaRead ..).out e)) ?_
    split
    next e2 => exact Kept.pair ((((h.vaRead ..).out e).vaRead ..).out e2)
    next e2 => exact Kept.pair ((((h.vaRead ..).out e).vaRead ..).out e2)
    next e2 => exact Kept.pair ((((h.vaRead ..).out e).vaRead ..).out e2)

theorem Kept.writeRecord (h : Kept b o s) (i status) : KeptP b o (s.writeRecord i status) := by
  unfold State.writeRecord
  extract_lets
  split
  next e => exact KeptP.ite (Kept.pair ((h.wrOp ..).out e)) h.upd.pair
  next e => exact Kept.pair ((((h.wrOp ..).out e).quit ..).onStrm ..)
  next e => exact Kept.pair (((((h.wrOp ..).out e).quit ..).onStrm ..).event ..)

theorem Kept.failLaunch (h : Kept b o s) (l status) : KeptO b o (s.failLaunch l status) := by
  have h1 := h.writeRecord (Inst.unstarted l s.glob) status
  unfold State.failLaunch
  split
  next e => exact (h1.out e).upd.some
  next e => exact (h1.out e).some
  next => exact h.waited _

theorem Kept.retryRecords (h : Kept b o s) : KeptO b o s.retryRecords :=
  KeptO.findSome fun _ => .ite (h.failLaunch ..) .none

theorem Kept.wipe (h : Kept b o s) (k) : Kept b o (s.wipe k) := by
  unfold State.wipe
  exact (h.setMem _ fun hm => Sparse.wf_filter _ _ _ (h.mem hm)).upd

theorem Kept.loadCore (h : Kept b o s) (phys d) : Kept b o (s.loadCore phys d) := by
  have h1 := h.wipe phys
  exact h1.setMem _ fun hm => wf_wrBytes _ _ _ (wf_wrBytes _ _ _ (wf_wrBytes _ _ _ (wf_wrBytes _ _ _ (h1.mem hm))))

theorem Kept.qpush (h : Kept false o s) (die q r) : Kept false o (s.qpush die q r) := h.onDie ..

theorem Kept.takeQueues (h : Kept false o s) (q bind) : Kept false o (s.takeQueues q bind) := h.foldl (fun _ _ h1 => h1.onDie ..) _

theorem Kept.enterInst (h : Kept false o s) (l img q bind) : Kept false o (s.enterInst l img q bind) := by
  unfold State.enterInst
  extract_lets id src inst s1 s2 s3
  have h1 : Kept false o s1 := h.upd
  have h2 : Kept false o s2 := (h1.takeQueues q bind).foldl (fun _ _ ht => ht.qpush ..) _
  have h3 : Kept false o s3 := h2.foldl (fun _ _ ht => (ht.loadCore ..).putCore _ _ fun _ => id_entryCore ..) _
  exact h3.upd

theorem Kept.nextCand (h : Kept b o s) (wait l) : KeptP b o (State.nextCand wait l s) := by
  induction l generalizing s wait with
  | nil => exact h.pair
  | cons d l ih =>
    cases d with
    | saved i =>
      unfold State.nextCand
      split
      · exact h.pair
      · exact ih h _
    | fresh l =>
      have h1 := h.readImage l
      unfold State.nextCand
      split
      next e => exact ih (h1.out e) _
      next e => exact (h1.out e).pair
      next e =>
        refine .ite (h1.out e).pair ?_
        split
        · exact (h1.out e).pair
        · exact ih (h1.out e) _

theorem Kept.preemptFor (h : Kept false o s) : Kept false o s.preemptFor := by
  unfold State.preemptFor
  extract_lets
  split
  · exact Kept.ite h (h.onInst ..)
  · exact h

theorem Kept.imagesOver (h : Kept false o s) : Kept false o s.imagesOver := h.foldl (fun _ _ h1 => Kept.ite h1 (h1.quit ..)) _

theorem Kept.setHold (h : Kept false o s) (l hd) : Kept false o (s.setHold l hd) := h.upd

theorem Kept.powerHold (h : Kept false o s) (l) : KeptO false o (s.powerHold l) := KeptO.ite (h.choose.snd.setHold ..).some KeptO.none

theorem Kept.holdOver (h : Kept false o s) : KeptO false o s.holdOver := by
  unfold State.holdOver
  split
  next l _ => exact Kept.some (h.setHold l (Option.some 0)).upd
  next => exact .none

theorem Kept.admitAt (h : Kept false o s) (l img q bind) : KeptO false o (s.admitAt l img q bind) := by
  unfold State.admitAt
  split
  next e => exact ((h.powerHold ..).out e).some
  · exact KeptO.ite (h.enterInst ..).some KeptO.none

theorem Kept.serveBoundary (h : Kept false o s) : KeptO false o s.serveBoundary := by
  have h1 := h.nextCand false s.candOrder
  unfold State.serveBoundary
  split
  next e => exact (h1.out e).failLaunch ..
  next e => exact (h1.out e).failLaunch ..
  next e => exact ((h1.out e).quit ..).admitAt ..
  next => exact .none
  next => exact h.waited _
  next e => exact (Kept.preemptFor (h1.out e).imagesOver.upd).some

theorem Kept.tryAdmit (h : Kept false o s) : KeptO false o s.tryAdmit := by
  unfold State.tryAdmit
  split
  next e => exact (h.retryRecords.out e).some
  · exact KeptO.ite h.serveBoundary h.holdOver

theorem Kept.settle (h : Kept b o s) (k) : Kept b o (s.settle k) := by
  have h1 := h.onCore k fun c => { c with pend := c.pend.map (fun p => { p with due := c.cyc }) }
  exact (h1.edgeOpen k).edgeLand k

theorem Kept.stopCores (h : Kept false o s) (ks) : Kept false o (s.stopCores ks) := h.foldl (fun _ _ h1 => h1.onCore ..) _

theorem Kept.alignCyc (h : Kept false o s) (ks) : Kept false o (s.alignCyc ks) :=
  h.foldl (fun t k ht => ht.putCore k { t.core k with cyc := s.stopCyc k } (ht.coreId · k)) ks

theorem Kept.tryStop (h : Kept false o s) (i grp) : KeptO false o (s.tryStop i grp) := by
  unfold State.tryStop
  split
  · exact KeptO.none
  · exact KeptO.ite KeptO.none
      (KeptO.ite (KeptO.ite KeptO.none ((h.foldl (fun _ _ h1 => h1.settle ..) _).stopCores ..).some)
        (KeptO.ite ((h.alignCyc ..).onInst ..).some KeptO.none))

theorem Kept.writeBack (h : Kept b o s) (k l) : KeptP b o (s.writeBack k l) := by
  induction l generalizing s with
  | nil => exact h.pair
  | cons q l ih => exact (h.wrOp ..).bind fun _ _ h1 => ih h1

theorem Kept.writeBackAll (h : Kept b o s) (l) : KeptP b o (State.writeBackAll l s) := by
  induction l generalizing s with
  | nil => exact h.pair
  | cons k l ih =>
    unfold State.writeBackAll
    split
    next e => exact ih ((h.writeBack ..).out e)
    next e => exact ((h.writeBack ..).out e).pair

theorem Kept.quitAll (h : Kept false o s) (ks) : Kept false o (s.quitAll ks) := h.foldl (fun _ _ h1 => h1.quit ..) _

theorem Sparse.mem_foldl_del {α : Type} (l : List Nat) (m : Sparse α) {e : Nat × α} (h : e ∈ l.foldl (fun m k => Sparse.del k m) m) :
    e ∈ m := by
  induction l generalizing m with
  | nil => exact h
  | cons k l ih => exact Sparse.mem_del (ih _ h)

theorem Kept.release (h : Kept false o s) (i) : Kept false o (s.release i) := by
  unfold State.release
  extract_lets ks s1
  have h1 : Kept false o s1 := ⟨h.mem, fun p e he => h.placed p e (Sparse.mem_foldl_del _ _ he), h.boot, nofun⟩
  exact h1.foldl (fun _ _ ht => ht.onDie ..) _

theorem Kept.tryPreempt (h : Kept false o s) (i) : KeptO false o (s.tryPreempt i) := by
  unfold State.tryPreempt
  split
  · exact .none
  next x _ =>
    extract_lets ks
    split
    · refine .ite (.ite (h.stopInst ..).some ?_) .none
      have h1 := (h.alignCyc ks).writeBackAll ks
      split
      next => exact h.waited _
      next e => exact ((((h1.out e).quitAll ks).countFault ..).stopInst ..).some
      next s1 e =>
        extract_lets s2 saved qs
        have h2 : Kept false o s2 := (h1.out e).quitAll ks
        have h3 : Kept false o ((s2.release x).onInst i (fun y => { y with
            phase := .saved, held := [], bind := [], cores := saved, qsave := qs, porder := s2.norder
            preempts := min 0xFFFF (y.preempts + 1) })) := (h2.release x).onInst ..
        exact (h3.upd.replCheck s).some
    · exact .none

theorem Kept.tryPreemptAbort (h : Kept false o s) (i) : KeptO false o (s.tryPreemptAbort i) := by
  unfold State.tryPreemptAbort
  split
  · exact KeptO.none
  · split
    · exact KeptO.ite (h.stopInst ..).some KeptO.none
    · exact KeptO.none

theorem Kept.restoreCore (h : Kept false o s) (q bind hd w x) : Kept false o (s.restoreCore q bind hd w x) := by
  unfold State.restoreCore
  extract_lets phys s1 m1 m2 src c s2
  have h1 : Kept false o s1 := h.wipe phys
  have h2 : Kept false o s2 :=
    ⟨fun m => wf_foldl_wrByte _ _ _ _ (wf_foldl_wrByte _ _ _ _ (h1.mem m)), h1.placed, h1.boot, nofun⟩
  exact h2.putCore _ _ fun _ => id_of_tag (tag_placeRegs c q bind)

theorem Kept.resumeAt (h : Kept false o s) (i q bind) : Kept false o (s.resumeAt i q bind) :=
  (((h.takeQueues ..).foldl (fun _ _ h1 => h1.onDie ..) _).foldl (fun _ _ h1 => h1.restoreCore ..) _).onInst ..

theorem Kept.tryResume (h : Kept false o s) (i) : KeptO false o (s.tryResume i) := by
  unfold State.tryResume
  refine KeptO.ite KeptO.none ?_
  split
  next e1 => exact KeptO.ite (((h.nextCand ..).out e1).resumeAt ..).some KeptO.none
  · exact KeptO.none

theorem Kept.dropInst (h : Kept false o s) (i) : Kept false o (s.dropInst i) := by
  unfold State.dropInst
  extract_lets s1
  have h1 : Kept false o s1 := h.release i
  exact Kept.replCheck h1.upd s

theorem Kept.tryRetireInst (h : Kept false o s) (i) : KeptO false o (s.tryRetireInst i) := by
  unfold State.tryRetireInst
  split
  · exact KeptO.none
  · refine KeptO.ite KeptO.none ?_
    refine KeptO.ite ((h.quit ..).dropInst ..).some ?_
    split
    next e3 => exact (((h.writeRecord ..).out e3).dropInst ..).some
    next e3 => exact ((h.writeRecord ..).out e3).some
    · exact h.waited ..

theorem bootSound_reset : Claim.bootSound State.reset := by
  unfold Claim.bootSound State.reset
  exact ⟨Nat.zero_le 3, nofun, nofun⟩

theorem placed_reset : Claim.placed State.reset := fun _ he => nomatch he

/-! #### Machine/Boot -/

theorem Kept.powerLost (h : Kept false o s) : Kept false o s.powerLost := by
  unfold State.powerLost
  have hb := bootSound_reset
  have hc := placed_reset
  generalize State.reset = r at *
  have h1 := h.setMem (s.mem.filter fun e => decide (2 ^ 64 ≤ e.1)) fun hm => Sparse.wf_filter _ _ _ (h.mem hm)
  exact ⟨h1.mem, fun _ => hc, fun _ => hb, nofun⟩

/-- A boot window that R273 to R276 know, with firmware up or not. -/
def Boot.sound (x : Boot) (up : Bool) : Prop :=
  x.st ≤ 3 ∧ (x.load.isSome = true → (x.st = 1 ∨ x.st = 2) ∧ x.result = 1) ∧ (up = true → x.st = 3)

theorem bootSound_iff : Claim.bootSound s ↔ s.boot.sound s.fwUp := Iff.rfl

theorem Boot.sound.not_up {x : Boot} {up : Bool} (h : x.sound up) (hst : x.st ≠ 3) : up = false :=
  Bool.eq_false_iff.mpr fun e => hst (h.2.2 e)

theorem Boot.sound.no_load {x : Boot} {up : Bool} (h : x.sound up) (hst : x.st ≠ 1 ∧ x.st ≠ 2) : x.load = none :=
  Option.not_isSome_iff_eq_none.mp fun e => (h.2.1 e).1.elim hst.1 hst.2

/-- With no image that loads and no firmware every state of the window is sound. -/
theorem Boot.sound_of_idle {x : Boot} (hst : x.st ≤ 3) (hload : x.load = none) : x.sound false :=
  ⟨hst, by rw [hload]; exact nofun, nofun⟩

/-- An attempt that is over: the window opens again, and no image loads (R274). -/
theorem Boot.sound_lapse (x : Boot) (r : Nat) : (x.lapse r).sound false := Boot.sound_of_idle (Nat.zero_le _) rfl

theorem Kept.setBoot (h : Kept b o s) (x : Boot) (hx : s.boot.sound s.fwUp → x.sound s.fwUp) : Kept b o { s with boot := x } :=
  ⟨h.mem, h.placed, fun p => bootSound_iff.mpr (hx (bootSound_iff.mp (h.boot p))), h.calm⟩

theorem Kept.tryLapse (h : Kept b o s) : KeptO b o s.tryLapse := by
  unfold State.tryLapse
  extract_lets x
  split
  next hg =>
    refine Kept.some (h.setBoot _ fun hs => ?_)
    have hst : s.boot.st = 1 ∨ s.boot.st = 2 := by
      simp only [Bool.and_eq_true, Bool.or_eq_true, beq_iff_eq] at hg
      exact hg.1.1.1.2
    rw [hs.not_up (by omega)]
    exact Boot.sound_lapse ..
  next => exact .none

theorem Kept.tryBootCheck (h : Kept b o s) : KeptO b o s.tryBootCheck := by
  unfold State.tryBootCheck
  split
  · exact .none
  next bus n hl =>
    have hup (hs : s.boot.sound s.fwUp) : s.fwUp = false := by
      have hst := (hs.2.1 (hl ▸ rfl)).1
      exact hs.not_up (by omega)
    have hlapse (r) : Kept b o { s with boot := s.boot.lapse r } :=
      h.setBoot _ fun hs => hup hs ▸ Boot.sound_lapse ..
    refine .ite .none (.ite (hlapse _).some (.ite (hlapse _).some ?_))
    extract_lets img r
    have h1 : Kept b o { s with mem := wrBytes s.mem (hbmKey bootImageAt) img } :=
      ⟨fun m => wf_wrBytes _ _ _ (h.mem m), h.placed, h.boot, h.calm⟩
    refine Kept.some (h1.setBoot _ fun hs => ?_)
    have hs : s.boot.sound s.fwUp := hs
    show Boot.sound _ s.fwUp
    rw [hup hs]
    split
    · exact Boot.sound_of_idle hs.1 rfl
    · exact Boot.sound_lapse ..

/-! #### Machine/Ports -/

theorem Kept.streamErr (h : Kept false o s) (q n code seq) : Kept false o (s.streamErr q n code seq) := (h.onStrm ..).event ..

theorem Kept.setEn (h : Kept false o s) (q n v) : Kept false o (s.setEn q n v) := Kept.ite ((h.onStrm ..).streamErr ..) (h.onStrm ..)

theorem Kept.writeStrm (h : Kept false o s) (q n w ctl) : Kept false o (s.writeStrm q n w ctl) :=
  Kept.ite ((h.onStrm ..).setEn ..) (h.onStrm ..)

theorem Kept.park (h : Kept false o s) (i) : Kept false o (s.park i) := h.upd

theorem Kept.inOrder (h : Kept false o s) (q i) {r} (hr : Kept false o r) : KeptR false o (s.inOrder q i r) :=
  (Kept.ite hr (h.park i)).next

theorem Kept.setEven (h : Kept false o s) (q v) : Kept false o (s.setEven q v) := (h.onPort ..).flushEvts ..

theorem Kept.writeRing (h : Kept false o s) (q w ctl) : Kept false o (s.writeRing q w ctl) :=
  Kept.ite ((h.onPort ..).setEven ..) ((h.onPort ..).flushEvts ..)

theorem Kept.bootAddr (h : Kept b o s) (q v) : Kept b o (s.bootAddr q v) := .ite (h.setBoot _ id) h

theorem claimOf_cases (q : Bool) : claimOf q = 1 ∨ claimOf q = 2 := by cases q <;> decide

/-- A claim of a window in which nothing loads and firmware is not up (R274). -/
theorem Boot.sound_claim {x : Boot} (hload : x.load = none) (q : Bool) (now : Nat) : (x.claim q now).sound false := by
  refine Boot.sound_of_idle ?_ hload
  show claimOf q ≤ 3
  rcases claimOf_cases q with e | e <;> omega

/-! #### Machine/Boot -/

theorem Kept.execBootclaimWrite (h : Kept b o s) (q v) : KeptR b o (execBootclaimWrite q v s) := by
  unfold Machine.execBootclaimWrite
  refine Kept.next (.ite h ?_)
  split
  next hst =>
    refine h.setBoot _ fun hs => ?_
    rw [hs.not_up (by omega)]
    exact Boot.sound_claim (hs.no_load (by omega)) ..
  next =>
    split
    next hg =>
      refine h.setBoot _ fun hs => ?_
      have hst : s.boot.st = 2 := by
        simp only [Bool.and_eq_true, decide_eq_true_eq] at hg
        exact hg.1.1
      rw [hs.not_up (by omega)]
      exact Boot.sound_claim rfl ..
    next => exact h

theorem Kept.execBootLoadStart (h : Kept b o s) (q v) : KeptR b o (execBootLoadStart q v s) := by
  unfold Machine.execBootLoadStart
  refine Kept.next ?_
  split
  · exact h
  next hc =>
    have hst : s.boot.st = 1 ∨ s.boot.st = 2 := by
      have e : s.boot.st = claimOf q := by
        simp only [Bool.or_eq_true, Bool.not_eq_true', not_or, Bool.not_eq_false] at hc
        exact beq_iff_eq.mp hc.2
      rw [e]
      exact claimOf_cases q
    exact .ite (h.setBoot _ fun hs => ⟨hs.1, fun _ => ⟨hst, rfl⟩, hs.2.2⟩) (h.setBoot _ id)

/-! #### Machine/Ports -/

theorem Kept.writeWindow (h : Kept b o s) (q off w new) : KeptR b o (s.writeWindow q off w new) := by
  unfold State.writeWindow
  have h1 : KeptR b o (if hitsAt off new.length 8 8 then Machine.execBootclaimWrite q (BitVec.ofNat 64 (fieldAt w 8 8)) s
      else .next s) := .ite (h.execBootclaimWrite ..) h.next
  split
  next s1 e =>
    extract_lets s2
    have h2 : Kept b o s2 := .ite ((h1.out e).bootAddr ..) (h1.out e)
    exact .ite (h2.execBootLoadStart ..) h2.next
  next => exact h1

theorem Kept.writeBlock (h : Kept false o s) (q off new) : KeptR false o (s.writeBlock q off new) :=
  KeptR.ite h.next (KeptR.ite (h.writeWindow ..)
    (KeptR.ite h.next (KeptR.ite (h.writeRing ..).next (KeptR.ite (h.writeStrm ..).next h.next))))

theorem Kept.writeBar0 (h : Kept false o s) (q n off bs) : KeptR false o (State.writeBar0 q n off bs s) := by
  induction n generalizing s off bs with
  | zero => exact h.next
  | succ n ih =>
    refine .ite h.next ?_
    extract_lets k
    have h1 := h.writeBlock q off (bs.take k)
    split
    next e => exact ih (h1.out e) ..
    next => exact h1

theorem Kept.killPort (h : Kept b o s) (q) : Kept b o (s.killPort q) := by
  unfold State.killPort
  extract_lets rest s1
  have h1 : Kept b o rest := h.foldl (fun _ _ ht => ht.quit ..) _
  have h2 : Kept b o s1 := h1.upd
  exact h2.foldl (fun _ _ ht => ht.stopInst ..) _

theorem Kept.atsStop (h : Kept b o s) (q) : Kept b o (s.atsStop q) := (h.hostDrop ..).onPort ..

theorem Kept.portReset (h : Kept b o s) (q) : Kept b o (s.portReset q) := by
  unfold State.portReset
  extract_lets s1
  have h1 : Kept b o s1 := ((h.killPort q).atsStop q).onPort ..
  exact h1.upd

theorem Kept.holdGrant (h : Kept false o s) (q r g) : Kept false o (s.holdGrant q r g) := by
  unfold State.holdGrant
  exact h.onDie ..

theorem Kept.askPage (h : Kept false o s) (q r) : Kept false o (s.askPage q r) := Kept.ite ((h.onPort ..).send ..) (h.onPort ..)

theorem Kept.missOver (h : Kept false o s) (q r) : Kept false o (s.missOver q r) := by
  unfold State.missOver
  extract_lets
  split
  · exact Kept.ite ((h.onPort ..).askPage ..) (h.onPort ..)
  · exact h.onPort ..

theorem Kept.missFails (h : Kept false o s) (q r) : Kept false o (s.missFails q r) := (h.missOver ..).onPort ..

theorem Kept.hostAnswer (h : Kept false o s) (q r ans) : Kept false o (s.hostAnswer q r ans) := by
  unfold State.hostAnswer
  extract_lets
  split
  · split
    · exact Kept.ite ((h.missOver ..).holdGrant ..) (Kept.ite (h.askPage ..) h)
    · exact h.missFails ..
  · exact Kept.ite (h.askPage ..) h
  · exact h.missFails ..
  · exact Kept.ite (h.missOver ..) h

theorem Kept.tryPageTimeout (h : Kept false o s) (q req) : KeptO false o (s.tryPageTimeout q req) := by
  unfold State.tryPageTimeout
  split
  · exact KeptO.ite (h.missFails ..).some KeptO.none
  · exact KeptO.none

theorem Kept.tryInvalDone (h : Kept false o s) (q tag) : KeptO false o (s.tryInvalDone q tag) :=
  KeptO.ite ((h.onPort ..).send ..).some KeptO.none

theorem Kept.windowed (h : Kept false o s) (q) : Kept false o (s.windowed q) := h.quit ..

theorem Kept.windowWait (h : Kept false o s) (s1 i) : Kept false o (s.windowWait s1 i) := ((h.waited ..).getD h).park ..

/-! #### Machine/Streams -/

theorem Kept.nextRec (h : Kept false o s) (q n) : KeptP false o (s.nextRec q n) := by
  unfold State.nextRec
  refine KeptP.ite h.pair ?_
  refine KeptP.ite h.pair ?_
  split
  next e2 => exact Kept.pair ((h.vaRead ..).out e2)
  next e2 => exact Kept.pair ((h.vaRead ..).out e2)
  next e2 => exact Kept.pair ((h.vaRead ..).out e2)

theorem Kept.fly (h : Kept false o s) (q n k) : Kept false o (s.fly q n k) := (h.quit ..).onStrm ..

theorem Kept.takeRec (h : Kept false o s) (q n op bad f) (hf : ∀ a0 t, Kept false o t → KeptO false o (f a0 t)) :
    KeptO false o (s.takeRec q n op bad f) := by
  unfold State.takeRec
  split
  · exact KeptO.none
  · exact KeptO.ite (h.waited ..) KeptO.none
  next e => exact KeptO.ite ((((h.nextRec ..).out e).quit ..).streamErr ..).some KeptO.none
  next e => exact KeptO.ite (hf _ _ ((h.nextRec ..).out e)) KeptO.none

theorem Kept.tryLaunch (h : Kept false o s) (q n) : KeptO false o (s.tryLaunch q n) := by
  refine h.takeRec _ _ _ _ _ fun x t ht => ?_
  extract_lets l s2
  have h2 : Kept false o s2 := ht.fly ..
  exact Kept.some h2.upd

theorem Kept.tryWaitv (h : Kept false o s) (q n) : KeptO false o (s.tryWaitv q n) :=
  h.takeRec _ _ _ _ _ (fun _ _ h1 => (h1.fly ..).some)

theorem Kept.trySignal (h : Kept false o s) (q n) : KeptO false o (s.trySignal q n) :=
  h.takeRec _ _ _ _ _ (fun _ _ h1 => (h1.fly ..).some)

theorem Kept.tryCopyRec (h : Kept false o s) (q n) : KeptO false o (s.tryCopyRec q n) :=
  h.takeRec _ _ _ _ _ (fun _ _ h1 => (h1.fly ..).some)

theorem Kept.tryEventRec (h : Kept false o s) (q n) : KeptO false o (s.tryEventRec q n) :=
  h.takeRec _ _ _ _ _ (fun _ _ h1 => (h1.fly ..).some)

theorem Kept.tryFenceRec (h : Kept false o s) (q n) : KeptO false o (s.tryFenceRec q n) :=
  h.takeRec _ _ _ _ _ (fun _ _ h1 => (h1.fly ..).some)

theorem Kept.tryCollRec (h : Kept false o s) (q n) : KeptO false o (s.tryCollRec q n) := by
  unfold State.tryCollRec
  refine h.takeRec _ _ _ _ _ (fun a t h1 => ?_)
  refine KeptO.ite ((h1.fly ..).event ..).some ?_
  split
  · exact h.waited ..
  next e2 => exact ((((h1.collRead ..).out e2).fly ..).event ..).some
  next e2 =>
    split
    next e3 => exact (((((h1.collRead ..).out e2).collTake ..).out e3).fly ..).some
    next e3 => exact KeptO.ite KeptO.none ((((((h1.collRead ..).out e2).collTake ..).out e3).fly ..).event ..).some
    · exact KeptO.none

theorem Kept.finishCmd (h : Kept false o s) (q n seq msix) : Kept false o (s.finishCmd q n seq msix) :=
  Kept.ite ((h.onStrm ..).send ..) (h.onStrm ..)

theorem Kept.endAcc {α : Type} (h : Kept false o s) (q n seq msix) {r : Acc α × State} (hr : KeptP false o r) :
    KeptO false o (s.endAcc q n seq msix r) := by
  unfold State.endAcc
  extract_lets w
  split
  · exact h.waited _
  · exact (Kept.finishCmd (hr.out rfl |>.quit w) ..).some
  · exact (Kept.finishCmd ((hr.out rfl |>.quit w).event ..) ..).some

theorem Kept.sigWrite (h : Kept false o s) (q n seq addr val add) : KeptP false o (s.sigWrite q n seq addr val add) :=
  KeptP.ite (h.rmw ..) ((h.wrOp ..).bind (fun _ _ h1 => h1.pair))

theorem Kept.copyStep (h : Kept false o s) (q n seq src dst len) : KeptO false o (s.copyStep q n seq src dst len) := by
  unfold State.copyStep
  extract_lets w
  refine .ite (h.finishCmd ..).some ?_
  have h1 : KeptP false o (Acc.bind (s.rdOp w false (.va src.toNat) 64) fun bs s1 => s1.wrOp w false (.va dst.toNat) bs) :=
    (h.rdOp ..).bind fun _ _ ht => ht.wrOp ..
  split
  next e => exact (((h1.out e).quit w).onStrm ..).some
  next => exact h.endAcc _ _ _ _ h1

theorem Kept.userEvent (h : Kept false o s) (q n seq tag ev) : KeptO false o (s.userEvent q n seq tag ev) := by
  unfold State.userEvent
  split
  · exact KeptO.ite KeptO.none (h.finishCmd ..).some
  · exact (Kept.ite ((h.event ..).onStrm ..) ((h.event ..).finishCmd ..)).some

theorem Kept.tryCmdDone (h : Kept false o s) (q n seq) : KeptO false o (s.tryCmdDone q n seq) := by
  unfold State.tryCmdDone
  extract_lets t
  split
  · exact .none
  · split
    · exact .ite .none (.ite (h.finishCmd ..).some (.ite (h.endAcc _ _ _ _ (h.sigWrite ..)) .none))
    · exact .none
    · exact .ite (h.endAcc _ _ _ _ (h.sigWrite ..)) .none
    · exact h.copyStep ..
    · exact .ite (h.finishCmd ..).some .none
    · exact h.userEvent ..
    · exact .none

theorem Kept.tryFenceDone (h : Kept false o s) (q n) : KeptO false o (s.tryFenceDone q n) := by
  unfold State.tryFenceDone
  split
  · exact KeptO.ite (h.finishCmd ..).some KeptO.none
  · exact KeptO.none

theorem Kept.tryWaitvPoll (h : Kept false o s) (q n) : KeptO false o (s.tryWaitvPoll q n) := by
  unfold State.tryWaitvPoll
  split
  · exact KeptO.none
  · split
    · extract_lets
      split
      · exact h.waited ..
      next e2 => exact (((((h.vaRead ..).out e2).quit ..).onStrm ..).streamErr ..).some
      next e2 =>
        exact KeptO.ite ((((h.vaRead ..).out e2).quit ..).finishCmd ..).some
          (KeptO.ite (((h.vaRead ..).out e2).quit ..).some KeptO.none)
    · exact KeptO.none

/-! #### Machine/Fabric -/

theorem Kept.answered (h : Kept false o s) (tag data) : Kept false o (s.answered tag data) := by
  unfold State.answered
  split
  · exact h.upd.send ..
  · exact h.upd

theorem Kept.tryPortDown (h : Kept false o s) (q) : KeptO false o (s.tryPortDown q) :=
  KeptO.ite (h.upd.eventAll ..).replace.some KeptO.none

/-! #### Machine/Mgmt -/

theorem Kept.reply (h : Kept false o s) (r cmd status data) : KeptR false o (s.reply r cmd status data) := (h.send ..).next

theorem Kept.onSel (h : Kept false o s) (r cmd ok) {f} (hf : KeptR false o f) : KeptR false o (s.onSel r cmd ok f) :=
  .ite h.next (.ite hf (h.reply ..))

theorem Kept.allow {t : State} (h : Kept b o t) (ok) : KeptO b o (allow ok t) := .ite h.some .none

theorem Kept.mread (h : Kept false o s) (r cmd ok n v) : KeptR false o (s.mread r cmd ok n v) := by
  refine h.onSel _ _ _ ?_
  split
  · exact .ite (h.reply ..) (h.reply ..)
  · exact h.reply ..

theorem Kept.mwrite (h : Kept false o s) (r cmd ok) {v} (now) (hv : KeptO false o v) : KeptR false o (s.mwrite r cmd ok v now) := by
  have hv : KeptO false o (if frameOk r then v else none) := .ite hv .none
  refine h.onSel _ _ _ ?_
  split
  next e => exact (hv.out e).reply ..
  next => exact h.reply ..

theorem Kept.measured (h : Kept false o s) : Kept false o s.measured := h.upd

theorem Kept.retireAll (h : Kept false o s) (codes) : Kept false o (s.retireAll codes) :=
  h.foldl (fun _ _ h1 => (h1.upd.tryRetire ..).getD h1.upd) _

theorem Kept.onDebug (h : Kept false o s) (r sel ok f) (hf : ∀ x, Kept false o (f x)) : KeptR false o (s.onDebug r sel ok f) := by
  refine h.mwrite _ _ _ _ ?_
  split
  · exact (hf _).allow _
  · exact .none

theorem Kept.unhalt (h : Kept false o s) (i) : Kept false o (s.unhalt i) :=
  Kept.ite ((h.onInst ..).foldl (fun _ _ h1 => h1.onCore ..) _) ((h.onInst ..).foldl (fun _ _ h1 => h1.onCore ..) _).preemptFor

theorem Kept.dreply (h : Kept false o s) (r k kind ws v) : KeptR false o (s.dreply r k kind ws v) := by
  unfold State.dreply
  split
  next e => exact ((h.readWords ..).out e).reply ..
  next e => exact ((h.readWords ..).out e).reply ..

theorem Kept.onKey (h : Kept false o s) (r sel ok) {f} (hf : KeptR false o f) : KeptR false o (s.onKey r sel ok f) :=
  h.onSel _ _ _ (.ite hf (h.reply ..))

theorem Kept.fileSet (h : Kept false o s) (k f n v) : Kept false o (s.fileSet k f n v) := by
  unfold State.fileSet
  extract_lets
  split
  · exact h.regGo ..
  · exact (h.clearErr ..).onCore ..
  · exact (h.clearErr ..).onCore ..
  · exact h.regGo ..
  · exact h.regGo ..
  · exact (h.clearErr ..).onCore _ _ (fun _ => tag_setP ..)
  · exact (h.clearErr ..).onCore _ _ (fun _ => tag_setW ..)
  · exact (h.clearErr ..).onCore ..
  · exact (h.clearErr ..).onCore ..
  · exact (h.clearErr ..).onCore ..
  · exact Kept.ite ((h.clearErr ..).writeCr ..) h

theorem Kept.debugRow (h : Kept b o s) (k row bs) : Kept b o (s.debugRow k row bs) := by
  have h1 : Kept b o { s with mem := wrBytes s.mem (scrKey k (64 * row)) bs } :=
    h.setMem _ fun hm => wf_wrBytes _ _ _ (h.mem hm)
  exact .ite (h1.clearErr ..) h

/-! #### Machine/Global -/

theorem Kept.tierStalls (h : Kept b o s) : Kept b o s.tierStalls := h.upd

theorem Kept.globalTick (h : Kept false o s) : Kept false o s.globalTick := by
  unfold State.globalTick
  extract_lets s1
  have h1 : Kept false o s1 := ((h.hbmCount ..).laneCycle.tierStalls.flushEvts ..).flushEvts ..
  exact h1.loose

/-! #### Machine/Scalar -/

theorem Kept.execLds (h : Kept false o s) (g d a x u op) : KeptR false o (Machine.execLds g d a x u op s) := by
  unfold Machine.execLds
  refine h.act _ _ ?_
  intro c
  split <;> exact tag_push ..

theorem Kept.execSts (h : Kept false o s) (g d a x op) : KeptR false o (Machine.execSts g d a x op s) := by
  unfold Machine.execSts
  refine h.act _ _ ?_
  intro c
  split <;> exact tag_push ..

/-! #### Machine/Control -/

theorem Kept.execCrd (h : Kept false o s) (g r n) : KeptR false o (Machine.execCrd g r n s) := by
  unfold Machine.execCrd
  refine h.act _ _ ?_
  intro c
  split
  · exact tag_faultIssue ..
  · exact tag_landS ..

theorem Kept.execCwr (h : Kept false o s) (g r n) : KeptR false o (Machine.execCwr g r n s) := by
  unfold Machine.execCwr
  refine h.act _ _ ?_
  intro c
  split
  · exact tag_faultIssue ..
  · exact tag_push ..

theorem Kept.execLoop (h : Kept b o s) (g a k op) : KeptR b o (Machine.execLoop g a k op s) := by
  refine h.act _ _ fun c => ?_
  extract_lets n
  split
  · exact tag_branch ..
  · exact tag_push ..

theorem Kept.execBloop (h : Kept false o s) (g op) : KeptR false o (Machine.execBloop g op s) := by
  unfold Machine.execBloop
  refine h.act _ _ ?_
  intro c
  split
  · exact (tag_branch ..).trans (tag_push ..)
  · rfl

theorem Kept.execEnq (h : Kept false o s) (g pd q pri a) : KeptR false o (Machine.execEnq g pd q pri a s) := by
  unfold Machine.execEnq
  refine h.act _ _ ?_
  intro c
  split <;> exact tag_push ..

theorem Kept.execTret (h : Kept false o s) (g) : KeptR false o (Machine.execTret g s) := by
  unfold Machine.execTret
  refine h.act _ _ ?_
  intro c
  split
  · exact tag_trapReturn ..
  · exact tag_faultIssue ..

theorem Kept.execCrgnOpen (h : Kept false o s) (g id op) : KeptR false o (Machine.execCrgnOpen g id op s) := by
  unfold Machine.execCrgnOpen
  refine h.act _ _ ?_
  intro c
  split
  · exact tag_faultNow ..
  · exact tag_push ..

/-! #### Machine/Vector -/

theorem Kept.execXcpV (h : Kept false o s) (hd a f r lane) : KeptR false o (Machine.execXcpV hd a f r lane s) := by
  unfold Machine.execXcpV
  refine h.vop _ _ _ ?_
  intro c
  split
  · exact tag_pushX ..
  · exact tag_pushX ..
  · exact tag_pushX ..
  · exact tag_pushX ..
  · exact tag_pushX ..
  · exact tag_faultIssue ..

theorem Kept.execVosf (h : Kept false o s) (hd op) : KeptR false o (Machine.execVosf hd op s) := by
  unfold Machine.execVosf
  split
  · exact h.vop _ _ _ (fun _ => tag_landV ..)
  · exact h.vop _ _ _ (fun _ => tag_landLanes ..)
  · exact h.vop _ _ _ (fun _ => tag_landLanes ..)

/-! #### Machine/Matrix -/

theorem Kept.execXcpM (h : Kept false o s) (hd zs f r) : KeptR false o (Machine.execXcpM hd zs f r s) := by
  unfold Machine.execXcpM
  refine h.zop _ _ _ _ ?_
  intro c
  split <;> exact tag_pushX ..

/-! #### Machine/Lacewing -/

theorem Kept.execTscl (h : Kept false o s) (hd all zd) : KeptR false o (Machine.execTscl hd all zd s) := by
  unfold Machine.execTscl
  refine h.zop _ _ _ _ ?_
  intro c
  split
  · exact tag_landZ ..
  · exact (tag_push ..).trans ((tag_push ..).trans (tag_landZ ..))

theorem Kept.execTcvt (h : Kept false o s) (hd md zd zs) : KeptR false o (Machine.execTcvt hd md zd zs s) := by
  unfold Machine.execTcvt
  refine h.zop _ _ _ _ ?_
  intro c
  split <;> exact tag_landZ ..

/-! #### Machine/Copy -/

theorem Kept.execPut (h : Kept b o s) (hd srow drow n lrow lcol) : KeptR b o (Machine.execPut hd srow drow n lrow lcol s) := by
  refine h.act _ _ fun c => ?_
  extract_lets n a b
  split <;> exact tag_push ..

/-! #### Machine/StackLane -/

theorem Kept.execKact (h : Kept false o s) (w wrow n1 brow) : KeptR false o (Machine.execKact w wrow n1 brow s) := by
  unfold Machine.execKact
  refine KeptR.ite (h.kword ..) ?_
  split
  next e1 => exact ((((h.windowRows ..).out e1).chooseN ..).snd).kword ..
  next e1 => exact ((h.windowRows ..).out e1).kword ..
  next e1 => exact ((h.windowRows ..).out e1).next

theorem Kept.execKrd (h : Kept false o s) (w r brow) : KeptR false o (Machine.execKrd w r brow s) := by
  unfold Machine.execKrd
  refine KeptR.ite (h.kword ..) ?_
  split
  next e1 => exact h.klock _ _ (Kept.pair ((h.laneRead ..).out e1))
  next e1 => exact h.klock _ _ (Kept.pair ((h.laneRead ..).out e1))

theorem Kept.execKwr (h : Kept false o s) (w r brow) : KeptR false o (Machine.execKwr w r brow s) := by
  unfold Machine.execKwr
  extract_lets
  split <;> exact h.kword ..

theorem Kept.execKdq (h : Kept false o s) (w base off gc) : KeptR false o (Machine.execKdq w base off gc s) := by
  unfold Machine.execKdq
  refine KeptR.ite (h.kword ..) ?_
  split
  next e1 => exact ((h.laneRead ..).out e1).kword ..
  next e1 => exact ((h.laneRead ..).out e1).kword ..

theorem Kept.kexpSrc (l base src off n t) (h : Kept b o t) : KeptP b o ((kexpSrc l base src).rd off n t) := by
  unfold Machine.kexpSrc
  dsimp only
  split
  next e => exact ((h.laneRead ..).out e).pair
  next e => exact ((h.laneRead ..).out e).pair

theorem Kept.execKexp (h : Kept false o s) (w r fmt b16 db) : KeptR false o (Machine.execKexp w r fmt b16 db s) := by
  unfold Machine.execKexp
  extract_lets l n src pa per
  refine .ite (h.kword ..) ?_
  split
  · exact h.kword ..
  · refine .ite (h.kword ..) ?_
    have h1 := h.expandBlocks (Machine.kexpSrc l r.base src) fmt.toNat b16 0 (per * n) (Kept.kexpSrc l r.base src)
    split
    next e => exact h.klock _ _ (h1.out e).pair
    next e => exact h.klock _ _ (h1.out e).pair
    next e => exact (h1.out e).next

theorem Kept.execKacr (h : Kept false o s) (w base win off) : KeptR false o (Machine.execKacr w base win off s) := by
  unfold Machine.execKacr
  refine KeptR.ite (KeptR.ite (h.kword ..) (KeptR.ite (h.kword ..) (KeptR.ite (h.kword ..) (h.kword ..)))) ?_
  split <;> exact h.kword ..

/-! #### Machine/Boot -/

theorem Kept.execFirmwareBootComplete (h : Kept false o s) (fwMin hbm cports units) :
    KeptR false o (Machine.execFirmwareBootComplete fwMin hbm cports units s) := by
  unfold Machine.execFirmwareBootComplete
  refine Kept.next ?_
  split
  next hg =>
    refine Kept.replCheck ?_ s
    refine ⟨h.mem, h.placed, fun p => ?_, nofun⟩
    have hs := h.boot p
    have hres : s.boot.result = 2 := by
      simp only [Bool.and_eq_true, beq_iff_eq] at hg
      exact hg.1.2
    refine ⟨Nat.le_refl 3, fun e => ?_, fun _ => rfl⟩
    have := (hs.2.1 e).2
    omega
  next => exact h

/-! #### Machine/Ports -/

theorem Kept.execLinkDown (h : Kept false o s) (port) : KeptR false o (Machine.execLinkDown port s) := by
  unfold Machine.execLinkDown
  extract_lets s1
  have h1 {c : Bool} {q : State} (hq : Kept c q s) : Kept c q s1 := (hq.portReset port).onPort ..
  have hup : s1.fwUp = s.fwUp := congrArg (·.2.2.2) ((h1 (Kept.refl (b := true) s)).calm rfl).1
  refine Kept.next (.ite h ?_)
  split
  next hc =>
    refine ⟨(h1 h).mem, (h1 h).placed, fun p => ?_, nofun⟩
    have hs : s.boot.sound s.fwUp := h.boot p
    have hst := claimOf_cases port
    rw [← beq_iff_eq.mp hc] at hst
    have e : s1.fwUp = false := hup.trans (hs.not_up (by omega))
    clear_value s1
    refine bootSound_iff.mpr ?_
    dsimp only
    rw [e]
    exact Boot.sound_lapse ..
  next => exact h1 h

theorem Kept.execHostPageResponse (h : Kept false o s) (port req ans) :
    KeptR false o (Machine.execHostPageResponse port req ans s) := by
  unfold Machine.execHostPageResponse
  split
  · exact h.next
  · exact (Kept.ite (h.hostAnswer ..) h).next

theorem Kept.execBar2WindowWrite (h : Kept false o s) (port off data) :
    KeptR false o (Machine.execBar2WindowWrite port off data s) := by
  unfold Machine.execBar2WindowWrite
  refine KeptR.ite h.next ?_
  refine KeptR.ite (h.park ..).next ?_
  split
  next e2 => exact (((h.wrOp ..).out e2).windowed ..).next
  · exact (((h.undone ..).windowed ..).send ..).next
  · exact (h.windowWait ..).next

theorem Kept.execBar2WindowRead (h : Kept false o s) (port off len) : KeptR false o (Machine.execBar2WindowRead port off len s) := by
  unfold Machine.execBar2WindowRead
  refine KeptR.ite h.next ?_
  refine KeptR.ite (h.park ..).next ?_
  split
  next e2 => exact ((((h.rdOp ..).out e2).windowed ..).send ..).next
  next e2 => exact ((((Kept.ite ((h.rdOp ..).out e2) (h.undone ..)).windowed ..).send ..).send ..).next
  · exact (h.windowWait ..).next

/-! #### Machine/Fabric -/

theorem Kept.execCloethFlitArrival (h : Kept false o s) (q f) : KeptR false o (Machine.execCloethFlitArrival q f s) := by
  unfold Machine.execCloethFlitArrival
  refine KeptR.ite h.next ?_
  split
  · exact (h.answered ..).next
  · exact KeptR.ite (h.upd.send ..).next h.next
  · exact (h.flitIn ..).next

theorem Kept.execCloethFlitCrcFail (h : Kept false o s) (q) : KeptR false o (Machine.execCloethFlitCrcFail q s) := by
  refine Kept.next (.ite (Kept.send ?_ ..) h)
  exact h.loose

/-! #### The dispatch and the step -/

theorem Kept.execSlot (h : Kept false o s) (i) : KeptR false o (Machine.execSlot i s) := by
  cases i with
  | nopS => unfold Machine.execSlot; exact h.next
  | addReg | addImm | subReg | subImm | mulReg | mulImm | mulhReg | mulhImm | divReg | divImm | remReg | remImm | andReg
    | andImm | orReg | orImm | xorReg | xorImm | shlReg | shlImm | shrReg | shrImm | sraReg | sraImm | rotlReg | rotlImm
    | clzReg | clzImm | popcReg | popcImm | minReg | minImm | maxReg | maxImm | sel | li | lih | cmp | cmpi | plog | cyc | cmptS
    | br | jmp | bsw | ifence | exit | dbrk | trap | mstat | mrel | mmul | mclr | tshl | addC | subC | shlC | liC | lihC | cmptC
    | cpy | cpy2 | cpyl | give | take | atom | sig | fence | coll | cstk | pgft | preq | wbk | mapr | pmov | sset | sins | ssel
    | sage | sdel | smig | pgap | plan => unfold Machine.execSlot; exact h.act ..
  | lds => exact h.execLds ..
  | sts => exact h.execSts ..
  | xcpS | xcpC => unfold Machine.execSlot; exact h.act _ _ (fun _ => tag_xcp64 ..)
  | crd => exact h.execCrd ..
  | cwr => exact h.execCwr ..
  | loop => exact h.execLoop ..
  | bloop => exact h.execBloop ..
  | waitOwn | waitWp | waitCyc => unfold Machine.execSlot; exact h.hold _ _ _ fun _ ht => ht
  | waitBar | waitVal =>
      unfold Machine.execSlot; exact .ite (h.onCore _ _ fun _ => tag_stopStalled ..).next (h.hold _ _ _ fun _ ht => ht)
  | bar => unfold Machine.execSlot; exact KeptR.ite (h.act _ _ (fun _ => tag_faultNow ..)) (h.hold _ _ _ (fun _ h1 => h1.arrive ..))
  | tnext => unfold Machine.execSlot; exact h.hold _ _ _ (fun _ h1 => h1.onCore _ _ (fun _ => tag_tnextGo ..))
  | enq => exact h.execEnq ..
  | tret => exact h.execTret ..
  | crgnOpen => exact h.execCrgnOpen ..
  | crgnClose =>
      unfold Machine.execSlot; exact KeptR.ite (h.act _ _ (fun _ => tag_faultNow ..)) (h.hold _ _ _ (fun _ h1 => h1.onCore ..))
  | nopEngineSlot => unfold Machine.execSlot; exact (h.onCore ..).next
  | xcpV => exact h.execXcpV ..
  | cmptV | vld | vst | vgth | ard | awr | zst | vbmax => unfold Machine.execSlot; exact h.vop _ _ _ (fun _ => tag_push ..)
  | vsct => unfold Machine.execSlot; exact h.vop _ _ _ (fun _ => tag_pushScatter ..)
  | vrmg | vfma | viota | vmovi | vselm | vperm | vbcst | vdqsx | vrope | vrng =>
      unfold Machine.execSlot; exact h.vop _ _ _ (fun _ => tag_landLanes ..)
  | vadd | vsub | vmul | vmin | vmax | viadd | visub | vimul | vlogic | vshl | vshr => unfold Machine.execSlot; exact h.lane2 ..
  | vabs | vneg | vrcp | vrsq | vexp2 | vlog2 | vpopc => unfold Machine.execSlot; exact h.lane1 ..
  | vcvt | wcnt | vrsum | vrmax | vqsx | vosm => unfold Machine.execSlot; exact h.vop _ _ _ (fun _ => tag_landV ..)
  | vcmp | vicmp => unfold Machine.execSlot; exact h.vcompare ..
  | wlog | vbits => unfold Machine.execSlot; exact h.vop _ _ _ (fun _ => tag_landW ..)
  | zld => unfold Machine.execSlot; exact h.zop _ _ _ _ (fun _ => tag_landV ..)
  | vsigp | vmaj => unfold Machine.execSlot; exact h.vop _ _ _ (fun _ => tag_land16 ..)
  | vosf => exact h.execVosf ..
  | mtld | mtst => unfold Machine.execSlot; exact h.act _ _ fun _ => tag_tileRows _ _ _ fun _ _ _ => tag_push ..
  | tup | tdn | tmxp => unfold Machine.execSlot; exact h.zop _ _ _ _ (fun _ => tag_landZ ..)
  | tscl => exact h.execTscl ..
  | tcvt => exact h.execTcvt ..
  | xcpM => exact h.execXcpM ..
  | put => exact h.execPut ..
  | _ => exact h.next

theorem Kept.execEmptyBundle (h : Kept false o s) (drain rep) : KeptR false o (Machine.execEmptyBundle drain rep s) :=
  h.issueBundle _ _ fun _ _ ht => ht.execSlot _

theorem Kept.execBundleStallResume (h : Kept false o s) (core) : KeptR false o (Machine.execBundleStallResume core s) := by
  refine .ite (Kept.issue ?_ _ fun i t ht => ?_) h.next
  · exact h.upd
  · split
    · exact ht.execEmptyBundle ..
    · exact ht.execSlot _

/-- Every instruction keeps them: a slot's word as `execSlot` does, every other by its own meaning. -/
theorem Kept.exec (h : Kept false o s) (i) : KeptR false o (Machine.exec i s) := by
  have hslot := h.execSlot i
  cases i with
  | knop => unfold Machine.exec; exact h.kword ..
  | kact => exact h.execKact ..
  | krd => exact h.execKrd ..
  | kwr => exact h.execKwr ..
  | kpre => unfold Machine.exec; exact KeptR.ite (h.kword ..) (h.kword ..)
  | kmac8 | kmac4 => unfold Machine.exec; exact h.kmac ..
  | kdq => exact h.execKdq ..
  | kexp => exact h.execKexp ..
  | kacr => exact h.execKacr ..
  | kend => unfold Machine.exec; exact (h.onLane ..).next
  | emptyBundle => exact h.execEmptyBundle ..
  | trapEntry => unfold Machine.exec; exact h.orSame (h.tryTrap ..)
  | containmentUnwind => unfold Machine.exec; exact h.orSame (h.tryUnwind ..)
  | killInstance => unfold Machine.exec; exact h.orSame (h.tryKill ..)
  | freezeEnd => unfold Machine.exec; exact h.orSame (h.tryFreezeEnd ..)
  | leakyBucketLeak => unfold Machine.exec; exact h.orSame h.tryLeak
  | unitRetire => unfold Machine.exec; exact h.orSame (h.tryRetire ..)
  | errinjFlip => unfold Machine.exec; exact h.orSame (h.tryInject ..)
  | tlbInvalidationComplete => unfold Machine.exec; exact h.orSame h.tryTlbInv
  | launchAdmission => unfold Machine.exec; exact h.orSame h.tryAdmit
  | groupDrainStop => unfold Machine.exec; exact h.orSame (h.tryStop ..)
  | preemptComplete => unfold Machine.exec; exact h.orSame (h.tryPreempt ..)
  | preemptAbort => unfold Machine.exec; exact h.orSame (h.tryPreemptAbort ..)
  | instanceResume => unfold Machine.exec; exact h.orSame (h.tryResume ..)
  | instanceRetire => unfold Machine.exec; exact h.orSame (h.tryRetireInst ..)
  | bundleStallResume => exact h.execBundleStallResume ..
  | waitValRead => unfold Machine.exec; exact h.orSame (h.tryWaitVal ..)
  | copyCommandStart => unfold Machine.exec; exact h.orSame (h.tryCmdStart ..)
  | hostPageResponse => exact h.execHostPageResponse ..
  | pageRequestTimeout => unfold Machine.exec; exact h.orSame (h.tryPageTimeout ..)
  | hostInvalidationRequest => unfold Machine.exec; exact (Kept.ite ((h.hostDrop ..).onPort ..) h).next
  | hostInvalidationCompletion => unfold Machine.exec; exact h.orSame (h.tryInvalDone ..)
  | rowDelivered => unfold Machine.exec; exact h.orSame (h.tryRow ..)
  | copyCommandComplete => unfold Machine.exec; exact h.orSame (h.tryComplete ..)
  | weevilPageReturn => unfold Machine.exec; exact h.orSame (h.tryPage ..)
  | sselStart => unfold Machine.exec; exact h.orSame (h.trySsel ..)
  | scarabSetOperation => unfold Machine.exec; exact h.orSame (h.trySetOp ..)
  | pmovComplete => unfold Machine.exec; exact h.orSame (h.tryPmov ..)
  | collectiveReport => unfold Machine.exec; exact h.orSame (h.tryColl ..)
  | stackProgramStart => unfold Machine.exec; exact h.orSame (h.tryStart ..)
  | refreshInterval => unfold Machine.exec; exact h.orSame (h.tryRefresh ..)
  | planReport => unfold Machine.exec; exact h.orSame (h.tryPlan ..)
  | modulePowerUp => unfold Machine.exec; exact (Kept.ite h h.upd).next
  | bootclaimWrite => exact h.execBootclaimWrite ..
  | bootLoadStart => exact h.execBootLoadStart ..
  | bootImageCheck => unfold Machine.exec; exact h.orSame h.tryBootCheck
  | firmwareBootComplete => exact h.execFirmwareBootComplete ..
  | bootClaimLapse => unfold Machine.exec; exact h.orSame h.tryLapse
  | registerWrite => unfold Machine.exec; exact KeptR.ite (h.writeBar0 ..) (h.park ..).next
  | streamEnable | streamDisable => unfold Machine.exec; exact h.inOrder _ _ (Kept.ite (h.setEn ..) h)
  | streamWridxWrite => unfold Machine.exec; exact h.inOrder _ _ (Kept.ite (h.onStrm ..) h)
  | launchRec => unfold Machine.exec; exact h.orSame (h.tryLaunch ..)
  | waitvRec => unfold Machine.exec; exact h.orSame (h.tryWaitv ..)
  | waitvPoll => unfold Machine.exec; exact h.orSame (h.tryWaitvPoll ..)
  | signalRec => unfold Machine.exec; exact h.orSame (h.trySignal ..)
  | copyRec => unfold Machine.exec; exact h.orSame (h.tryCopyRec ..)
  | collectiveRec => unfold Machine.exec; exact h.orSame (h.tryCollRec ..)
  | eventRec => unfold Machine.exec; exact h.orSame (h.tryEventRec ..)
  | streamFence => unfold Machine.exec; exact h.orSame ((h.tryFenceDone ..).orElse (h.tryFenceRec ..))
  | streamCommandComplete => unfold Machine.exec; exact h.orSame (h.tryCmdDone ..)
  | eventRingEnable => unfold Machine.exec; exact h.inOrder _ _ (Kept.ite (h.setEven ..) h)
  | evconsWrite => unfold Machine.exec; exact h.inOrder _ _ (Kept.ite ((h.onPort ..).flushEvts ..) h)
  | functionLevelReset => unfold Machine.exec; exact (Kept.ite ((h.portReset ..).onPort ..) h).next
  | linkDown => exact h.execLinkDown ..
  | bar2WindowWrite => exact h.execBar2WindowWrite ..
  | bar2WindowRead => exact h.execBar2WindowRead ..
  | cloethFlitCrcFail => exact h.execCloethFlitCrcFail ..
  | cloethPortDown => unfold Machine.exec; exact h.orSame (h.tryPortDown ..)
  | thermalThrottle => unfold Machine.exec; exact (Kept.ite (h.upd.eventAll ..) h.upd).next
  | thermalRelease => unfold Machine.exec; exact (Kept.ite h.upd h).next
  | thermalTrip | modulePowerOff => unfold Machine.exec; exact (Kept.ite h.powerLost h).next
  | mgmtReadModid => unfold Machine.exec; exact KeptR.ite h.next (KeptR.ite (h.reply ..) (h.reply ..))
  | mgmtReadTelemetry => unfold Machine.exec; exact h.measured.mread ..
  | mgmtReadPowerLimit | mgmtReadPreemptBound | mgmtReadLeakper | mgmtReadBktmark | mgmtReadBucketCounters
    | mgmtReadRetiredUnits | mgmtReadReplmin | mgmtReadWeightRange | mgmtReadErrinjen | mgmtReadMymod | mgmtReadAperture =>
      unfold Machine.exec; exact h.mread ..
  | mgmtWritePowerLimit | mgmtWritePreemptBound | mgmtWriteLeakper | mgmtWriteWeightRange | mgmtWriteErrinjen | mgmtWriteMymod =>
      unfold Machine.exec; exact h.mwrite _ _ _ _ (h.upd.allow ..)
  | mgmtWriteBktmark => unfold Machine.exec; exact h.mwrite _ _ _ _ ((h.newMarks ..).allow ..)
  | mgmtWriteRetiredUnits => unfold Machine.exec; exact h.mwrite _ _ _ _ ((h.retireAll ..).allow ..)
  | mgmtWriteReplmin => unfold Machine.exec; exact h.mwrite _ _ _ _ ((h.upd.replCheck ..).allow ..)
  | mgmtForcedDiscard =>
      unfold Machine.exec; exact h.onSel _ _ _ (KeptR.ite ((h.foldl (fun _ _ h1 => h1.onLane ..) _).reply ..) (h.reply ..))
  | mgmtDebugForcedDrain => unfold Machine.exec; exact h.onDebug _ _ _ _ (fun _ => h.forceDrain ..)
  | mgmtDebugResume => unfold Machine.exec; exact h.onDebug _ _ _ _ (fun _ => h.unhalt ..)
  | mgmtDebugAbort => unfold Machine.exec; exact h.onDebug _ _ _ _ (fun _ => h.stopInst ..)
  | mgmtDebugRegisterRead | mgmtDebugScratchRead => unfold Machine.exec; exact h.onKey _ _ _ (h.dreply ..)
  | mgmtDebugRegisterWrite => unfold Machine.exec; exact h.onKey _ _ _ ((h.fileSet ..).dreply ..)
  | mgmtDebugScratchWrite => unfold Machine.exec; exact h.onKey _ _ _ ((h.debugRow ..).dreply ..)
  | mgmtWriteAperture => unfold Machine.exec; exact h.mwrite _ _ _ _ ((h.onPort ..).allow ..)
  | taskClockEdge => unfold Machine.exec; exact h.edge.loose.next
  | globalCycle => unfold Machine.exec; exact h.globalTick.next
  | powerDownRequest => unfold Machine.exec; exact (h.send ..).next
  | addressTranslationEnable => unfold Machine.exec; exact (Kept.ite ((Kept.ite h (h.atsStop ..)).onPort ..) h).next
  | linkUp => unfold Machine.exec; exact (Kept.ite (h.onPort ..) h).next
  | cloethFlitArrival => exact h.execCloethFlitArrival ..
  | diemaskClear => unfold Machine.exec; exact (Kept.ite h.upd.replace h).next
  | stackDisable => unfold Machine.exec; exact (Kept.ite h (Kept.ite h.upd.replace h.upd)).next
  | mgmtUnassignedRequest =>
      unfold Machine.exec; exact h.onSel _ _ _ (KeptR.ite (KeptR.ite (h.measured.reply ..) (h.reply ..)) (h.reply ..))
  | _ => exact hslot

theorem Kept.windowTurn (h : Kept false o s) (q) {r} (e : s.windowTurn Machine.exec q = Option.some r) : KeptR false o r := by
  unfold State.windowTurn at e
  split at e
  · cases e
  next i rest _ =>
    have h1 := Kept.exec (s := { s with waiting := s.waiting.filter (fun x => hostPort x != Option.some q) }) h.upd i
    split at e
    next t et =>
      split at e
      · cases e
        exact (h1.out et).upd.next
      · obtain ⟨u, hu, rfl⟩ := Option.map_eq_some_iff.mp e
        exact ((h.waited t).out hu).next
    next =>
      cases e
      exact h1

theorem Kept.quietStep (h : Kept false o s) : KeptR false o (s.quietStep Machine.exec) := by
  unfold State.quietStep
  split
  · exact h.exec _
  · split
    next l _ =>
      unfold State.laneIssue
      split
      · exact Kept.exec h.upd _
      · exact (h.laneIllegal l).next
    next => exact h.exec _

theorem Kept.idleStep (h : Kept false o s) : KeptR false o (s.idleStep Machine.exec) := by
  unfold State.idleStep
  cases e0 : s.windowTurn Machine.exec false with
  | some r => exact h.windowTurn _ e0
  | none =>
    cases e1 : s.windowTurn Machine.exec true with
    | some r => exact h.windowTurn _ e1
    | none =>
      cases e2 : s.flitTurn with
      | some t => exact (h.flitTurn.out e2).next
      | none => exact h.quietStep

theorem Kept.turnOfCore (h : Kept false o s) (k rest) : KeptR false o (State.turnOfCore Machine.exec k rest s) :=
  .ite (h.exec _) (.ite (Kept.issue h.upd _ fun i _ ht => ht.exec i) h.upd.next)

theorem Kept.innerStep (h : Kept false o s) : KeptR false o (s.innerStep Machine.exec) := by
  unfold State.innerStep
  split
  · exact h.exec _
  · split
    · exact h.turnOfCore ..
    · exact h.idleStep

/-- A step keeps the memory canonical, the cores in their places and the boot window legal. -/
theorem Kept.step (h : Kept false o s) : KeptR false o (Machine.step s) := by
  unfold Machine.step
  split
  · refine .ite (Kept.exec ?_ _) ⟨nofun⟩
    exact h.upd
  · exact .ite h.innerStep h.next

end

/-- Settles O33: no step leaves the canonical form of memory. -/
theorem everyStepKeepsMemoryCanonical : Obligations.EveryStepKeepsMemoryCanonical := by
  unfold Obligations.EveryStepKeepsMemoryCanonical
  intro s t hs ht
  exact (((Kept.refl s).step).out ht).mem hs

/-- Settles O59: no step moves a core's record from its index, nor leaves a boot window that R273 to R276 do not know. -/
theorem everyStepKeepsCoresAndBootWindow : Obligations.EveryStepKeepsCoresAndBootWindow := by
  unfold Obligations.EveryStepKeepsCoresAndBootWindow Claim.EveryStepKeepsCoresInPlace Claim.EveryStepKeepsTheBootWindowLegal
  exact ⟨fun s t hs ht => (((Kept.refl s).step).out ht).placed hs, fun s t hs ht => (((Kept.refl s).step).out ht).boot hs⟩

/-- Settles O34: memory and cores are empty at power-up, and the boot window is closed with no firmware running. -/
theorem resetMeetsTheInvariants : Obligations.ResetMeetsTheInvariants := ⟨memWf_nil, placed_reset, bootSound_reset⟩

end Sys2Proof.Machine

namespace Sys2Proof.Machine

/-! ### The clocks (O27) -/

section

-- Elaborated one by one, these many short proofs stay within the memory that threads may take.
set_option Elab.async false

variable {s t : State} {k : Nat}

/-! #### The global cycle -/

/-- What performs on a global cycle before its count goes on. -/
def State.globalWork (s : State) : State :=
  ((s.hbmCount s.met).laneCycle.tierStalls.flushEvts false 1024).flushEvts true 1024

theorem globalTick_eq (s : State) : s.globalTick = { s.globalWork with
    glob := s.globalWork.glob + 1, debt := s.globalWork.debt - 7, was := [], met := []
    hot := if s.globalWork.fwUp then Config.hotStacks (s.globalWork.glob + 1) else s.globalWork.hot
    retries := if (s.globalWork.glob + 1) % 10 ^ 9 = 0 then [] else s.globalWork.retries } := rfl

/-- The work of a global cycle leaves the clocks as they are. -/
theorem clocks_globalWork (s : State) : s.globalWork.clocks = s.clocks :=
  (((((Kept.refl (b := true) s).hbmCount _).laneCycle.tierStalls.flushEvts _ _).flushEvts _ _).calm rfl).1

theorem laneCycle_of_noLanes (h : s.lanes = []) : s.laneCycle = s := by
  have e : s.laneReads s.glob = s := by
    unfold State.laneReads
    rw [h]
    exact (congrArg (fun l => ({ s with lanes := l } : State)) h).symm
  simp [State.laneCycle, e, h]

theorem tierStalls_of_noInsts (h : s.insts = []) : s.tierStalls = s := by
  unfold State.tierStalls
  rw [h]
  exact (congrArg (fun l => ({ s with insts := l } : State)) h).symm

theorem flushEvts_of_noHeld {p : Bool} (h : (s.port p).held = []) (n : Nat) : s.flushEvts p n = s := by
  cases n with
  | zero => rfl
  | succ n => unfold State.flushEvts; simp only [h]

theorem globalWork_of_quiet (hi : s.insts = []) (hl : s.lanes = []) (hm : s.met = []) (hp : ∀ p, (s.port p).held = []) :
    s.globalWork = s := by
  have e : s.hbmCount s.met = s := by rw [hm]; rfl
  rw [State.globalWork, e, laneCycle_of_noLanes hl, tierStalls_of_noInsts hi, flushEvts_of_noHeld (hp false), flushEvts_of_noHeld (hp true)]

/-! #### The core clocks -/

theorem going_iff : k ∈ s.going ↔ ∃ e ∈ s.cores, e.1 = k ∧ s.ticks e.2 = true := by
  simp [State.going, and_comm, and_left_comm]

theorem Sparse.find_map {α β : Type} (f : Nat → α → β) (m : Sparse α) (k : Nat) :
    Sparse.find (m.map (fun e => (e.1, f e.1 e.2))) k = (Sparse.find m k).map (f k) := by
  induction m with
  | nil => rfl
  | cons e m ih =>
    simp only [List.map_cons, Sparse.find]
    split
    next h => rw [h]; rfl
    next => exact ih

theorem Sparse.find_of_mem {α : Type} {m : Sparse α} {e : Nat × α} (h : e ∈ m) : ∃ v, (e.1, v) ∈ m ∧ Sparse.find m e.1 = some v := by
  induction m with
  | nil => nomatch h
  | cons d m ih =>
    unfold Sparse.find
    split
    next hd => exact ⟨d.2, by simp [← hd], rfl⟩
    next hd =>
      obtain ⟨v, hv, hf⟩ := ih ((List.mem_cons.mp h).resolve_left fun he => hd (he ▸ rfl))
      exact ⟨v, List.mem_cons_of_mem _ hv, hf⟩

/-- A core after an edge is what `ticked` says; a core that the machine does not have stands still. -/
theorem core_ticked (s : State) (k : Nat) : s.ticked.core k = (s.core k).ticked (s.going.contains k) := by
  have e : Sparse.find s.ticked.cores k = (Sparse.find s.cores k).map (fun c => c.ticked (s.going.contains k)) :=
    Sparse.find_map (fun k (c : Core) => c.ticked (s.going.contains k)) s.cores k
  unfold State.core
  rw [e]
  cases h : Sparse.find s.cores k with
  | some c => rfl
  | none =>
    have hg : s.going.contains k = false := by
      rw [List.contains_eq_mem, decide_eq_false_iff_not, going_iff]
      rintro ⟨e, he, rfl, -⟩
      obtain ⟨v, -, hv⟩ := Sparse.find_of_mem he
      exact nomatch h ▸ hv
    rw [hg]; rfl

theorem ticked_going (h : k ∈ s.going) : s.ticked.core k = { s.core k with cyc := (s.core k).cyc + 1, atDrain := false } := by
  rw [core_ticked, List.contains_iff_mem.mpr h]; rfl

theorem ticked_still (h : k ∉ s.going) : s.ticked.core k = { s.core k with
    freeze := if 1 < (s.core k).freeze then (s.core k).freeze - 1 else (s.core k).freeze, frozen := (s.core k).freeze != 0 } := by
  rw [core_ticked, List.contains_eq_mem, decide_eq_false h]; rfl

/-- What performs on an edge leaves the clocks and the cores' cycles as they are. -/
theorem calm_performs (s : State) (go : List Nat) :
    (s.performs go).clocks = s.clocks ∧ ∀ k, ((s.performs go).core k).cyc = (s.core k).cyc :=
  ((Kept.refl (b := true) s).performs go).calm rfl

/-! #### An edge on which nothing is in flight -/

/-- Two states that agree on memory, the instances and every core. -/
structure State.Alike (s t : State) : Prop where
  mem : t.mem = s.mem
  insts : t.insts = s.insts
  core : ∀ k, t.core k = s.core k

theorem State.Alike.refl (s : State) : s.Alike s := ⟨rfl, rfl, fun _ => rfl⟩

theorem State.Alike.trans {s t u : State} (h : s.Alike t) (g : t.Alike u) : s.Alike u :=
  ⟨g.mem.trans h.mem, g.insts.trans h.insts, fun k => (g.core k).trans (h.core k)⟩

/-- A core in which nothing is in flight, no fault waits, and no write-back is about to start. -/
structure Core.Quiet (c : Core) : Prop where
  pend : c.pend = []
  owed : c.owed = []
  flt : c.flt = none
  noWbk : ∀ m ∈ c.held, ∀ q n, m.kind ≠ .wbk q n

theorem Core.Quiet.drop {c : Core} (h : c.Quiet) (f) : c.drop f = c := by
  unfold Core.drop
  rw [h.pend]
  exact congrArg (fun l => ({ c with pend := l } : Core)) h.pend.symm

theorem Core.Quiet.due {c : Core} (h : c.Quiet) (f) : c.due f = [] := by
  rw [Core.due, h.pend]; rfl

theorem Core.Quiet.owedGo {c : Core} (h : c.Quiet) : c.owedGo = c := by
  unfold Core.owedGo
  rw [h.owed]
  exact congrArg (fun l => ({ c with owed := l } : Core)) h.owed.symm

theorem alike_onCore {f : Core → Core} (h : f (s.core k) = s.core k) : s.Alike (s.onCore k f) := by
  refine ⟨rfl, rfl, fun j => ?_⟩
  rcases eq_or_ne j k with rfl | hj
  · rw [core_onCore_self, h]
  · rw [core_onCore_ne s k j f hj]

theorem Core.Quiet.phase (h : (s.core k).Quiet) (f order go) (ho : order [] = []) : s.Alike (s.phase k f order go) := by
  unfold State.phase
  rw [h.due, ho]
  exact alike_onCore (h.drop f)

theorem Core.Quiet.startWbk (h : (s.core k).Quiet) (ch : Bool) : s.startWbk k ch = s := by
  unfold State.startWbk
  split
  next m e =>
    have hm : m ∈ (s.core k).held := by
      have := List.mem_of_find?_eq_some e
      cases ch <;> simp_all [Core.held, Core.chan]
    split
    next q n e2 => exact absurd e2 (h.noWbk m hm _ _)
    next => rfl
  next => rfl

theorem Core.Quiet.edgeOpen (h : (s.core k).Quiet) : s.Alike (s.edgeOpen k) := by
  unfold State.edgeOpen
  extract_lets s0 s1
  have a0 : s.Alike s0 := alike_onCore h.owedGo
  have a1 : s.Alike s1 := a0.trans (((a0.core k).symm ▸ h).phase _ _ _ rfl)
  have q1 : (s1.core k).Quiet := (a1.core k).symm ▸ h
  rw [q1.startWbk, q1.startWbk]
  exact a1.trans (q1.phase _ _ _ rfl)

theorem Core.Quiet.edgePop (h : (s.core k).Quiet) : s.Alike (s.edgePop k) := h.phase _ _ _ rfl

theorem Core.Quiet.edgePush (h : (s.core k).Quiet) : s.Alike (s.edgePush k) := h.phase _ _ _ rfl

theorem Core.Quiet.edgeLand (h : (s.core k).Quiet) : s.Alike (s.edgeLand k) := by
  unfold State.edgeLand
  extract_lets c0 landed s1 s2 zs s3 s4
  have a1 : s.Alike s1 := h.phase _ _ _ rfl
  have a2 : s.Alike s2 := a1.trans (((a1.core k).symm ▸ h).phase _ _ _ rfl)
  have a3 : s.Alike s3 := a2.trans (((a2.core k).symm ▸ h).phase _ _ _ rfl)
  have a4 : s.Alike s4 := a3.trans (((a3.core k).symm ▸ h).phase _ _ _ rfl)
  have e : landed = false := by simp [landed, c0, h.pend]
  rw [e]
  exact a4

theorem Core.Quiet.stamp (h : (s.core k).Quiet) : s.Alike (s.stamp k) := by
  unfold State.stamp
  rw [h.flt]
  exact .refl s

/-- A pass over quiet cores changes nothing, where its step changes nothing for a quiet core. -/
theorem alike_foldl {f : State → Nat → State} (hf : ∀ (t : State) k, (t.core k).Quiet → t.Alike (f t k)) {go : List Nat}
    (hq : ∀ k ∈ go, (s.core k).Quiet) (h : s.Alike t) : s.Alike (go.foldl f t) := by
  induction go generalizing t with
  | nil => exact h
  | cons k go ih =>
    have h1 : t.Alike (f t k) := hf t k (h.core k ▸ hq k List.mem_cons_self)
    exact ih (fun j hj => hq j (List.mem_cons_of_mem _ hj)) (h.trans h1)

theorem alike_performs {go : List Nat} (hq : ∀ k ∈ go, (s.core k).Quiet) : s.Alike (s.performs go) := by
  have h1 := alike_foldl (fun _ _ => Core.Quiet.edgeOpen) hq (.refl s)
  have h2 := alike_foldl (fun _ _ => Core.Quiet.edgePop) hq h1
  have h3 := alike_foldl (fun _ _ => Core.Quiet.edgePush) hq h2
  have h4 := alike_foldl (fun _ _ => Core.Quiet.edgeLand) hq h3
  exact alike_foldl (fun _ _ => Core.Quiet.stamp) hq h4

/-- A core whose clock goes is quiet after its edge where every core is quiet before it. -/
theorem quiet_ticked (h : ∀ e ∈ s.cores, e.2.Quiet) (hk : k ∈ s.going) : (s.ticked.core k).Quiet := by
  obtain ⟨e, he, rfl, -⟩ := going_iff.mp hk
  obtain ⟨c, hc, hf⟩ := Sparse.find_of_mem he
  have e1 : s.core e.1 = c := by rw [State.core, hf]; rfl
  rw [ticked_going hk, e1]
  exact { h _ hc with }

end

/-- Settles O27: the work of a cycle leaves the clocks alone, and an edge on which nothing is in flight performs nothing. -/
theorem clocksAdvance : Obligations.ClocksAdvance := by
  unfold Obligations.ClocksAdvance
  intro s goes
  have hg : ∀ k, goes k ↔ k ∈ s.going := fun k => going_iff.symm
  refine ⟨⟨s.globalTick, rfl, ?_⟩, ⟨_, rfl, ?_⟩⟩
  · have hc := clocks_globalWork s
    simp only [State.clocks, Prod.mk.injEq] at hc
    obtain ⟨hglob, hdebt, hret, -⟩ := hc
    rw [globalTick_eq]
    refine ⟨by simp only [hglob], by simp only [hdebt], by simp only [hglob, hret], fun hi hl hm hp => ?_⟩
    rw [globalWork_of_quiet hi hl hm hp]
  · obtain ⟨hclk, hcyc⟩ := calm_performs s.ticked s.going
    simp only [State.clocks, Prod.mk.injEq] at hclk
    obtain ⟨hglob, hdebt, -⟩ := hclk
    rw [edge_eq]
    refine ⟨hglob, congrArg (· + 10) hdebt, fun k => ?_, fun k hk => ?_, fun hq => ?_⟩
    · rw [hg]; exact List.mem_filter
    · refine (hcyc k).trans ?_
      rw [ticked_going ((hg k).mp hk)]
    · have ha := alike_performs fun k => quiet_ticked fun e he =>
        have ⟨hp, ho, hf, hw⟩ := hq e he
        ⟨hp, ho, hf, hw⟩
      refine ⟨ha.mem, ha.insts, fun k => ⟨fun hk => ?_, fun hk => ?_⟩⟩
      · exact (ha.core k).trans (ticked_going ((hg k).mp hk))
      · exact (ha.core k).trans (ticked_still (mt (hg k).mpr hk))

end Sys2Proof.Machine

namespace Sys2Proof.Machine

/-! ### Drains, saved contexts and retirement (O17, O18) -/

section

-- Elaborated one by one, these many short proofs stay within the memory that threads may take.
set_option Elab.async false

variable {s t : State} {i k : Nat} {x : Inst}

/-! #### A pass over the cores -/

/-- A step for another core leaves a core as it is. -/
def OnOwnCore (f : State → Nat → State) : Prop := ∀ (t : State) (j k : Nat), k ≠ j → (f t j).core k = t.core k

theorem core_foldl_other {f : State → Nat → State} (hf : OnOwnCore f) {ks : List Nat} (h : k ∉ ks) : (ks.foldl f s).core k = s.core k := by
  induction ks generalizing s with
  | nil => rfl
  | cons j ks ih =>
    obtain ⟨hj, hks⟩ := not_or.mp (mt List.mem_cons.mpr h)
    exact (ih hks).trans (hf s j k hj)

/-- What a step makes true of its own core is true of every core that a pass has come to. -/
theorem core_foldl_mem {f : State → Nat → State} (hf : OnOwnCore f) {P : Core → Prop} (hP : ∀ t : State, P ((f t k).core k))
    {ks : List Nat} (h : k ∈ ks) : P ((ks.foldl f s).core k) := by
  induction ks generalizing s with
  | nil => nomatch h
  | cons j ks ih =>
    by_cases hk : k ∈ ks
    · exact ih hk
    · obtain rfl := (List.mem_cons.mp h).resolve_right hk
      rw [List.foldl_cons, core_foldl_other hf hk]
      exact hP s

/-- A pass that changes each core by a change which, made twice, is made once. -/
theorem core_foldl_onCore {g : Nat → Core → Core} (hg : ∀ k c, g k (g k c) = g k c) (ks : List Nat) (s : State) :
    (ks.foldl (fun t j => t.onCore j (g j)) s).core k = if k ∈ ks then g k (s.core k) else s.core k := by
  induction ks generalizing s with
  | nil => rfl
  | cons j ks ih =>
    rw [List.foldl_cons, ih]
    rcases eq_or_ne k j with rfl | hj
    · simp [hg]
    · simp [hj]

theorem mem_foldl_onCore (g : Nat → Core → Core) (ks : List Nat) (s : State) : (ks.foldl (fun t j => t.onCore j (g j)) s).mem = s.mem := by
  induction ks generalizing s with
  | nil => rfl
  | cons j ks ih => exact (ih _).trans rfl

theorem insts_foldl_onCore (g : Nat → Core → Core) (ks : List Nat) (s : State) :
    (ks.foldl (fun t j => t.onCore j (g j)) s).insts = s.insts := by
  induction ks generalizing s with
  | nil => rfl
  | cons j ks ih => exact (ih _).trans rfl

/-! #### One `Inst` -/

theorem orSame_some {o : Option State} (h : o = some t) : orSame s o = .next t := by rw [h]; rfl

theorem inst?_id (h : s.inst? i = some x) : x.id = i := by simpa using List.find?_some h

theorem inst?_onInst (h : s.inst? i = some x) {f : Inst → Inst} (hf : ∀ y, (f y).id = y.id) : (s.onInst i f).inst? i = some (f x) := by
  unfold State.inst? at h ⊢
  rw [State.onInst_insts]
  generalize s.insts = l at h ⊢
  induction l with
  | nil => nomatch h
  | cons y l ih =>
    rw [List.find?_cons] at h
    rw [List.map_cons, List.find?_cons]
    cases hy : y.id == i with
    | true =>
      rw [hy] at h
      rw [if_pos rfl, hf, hy, Option.some.inj h]
    | false =>
      rw [hy] at h
      rw [if_neg Bool.false_ne_true, hy]
      exact ih h

/-! #### The stop of a group (R46, R47) -/

theorem Core.Quiet.settle (h : (s.core k).Quiet) : s.Alike (s.settle k) := by
  unfold State.settle
  extract_lets s1
  have a1 : s.Alike s1 := alike_onCore (by
    rw [h.pend]
    exact congrArg (fun l => ({ s.core k with pend := l } : Core)) h.pend.symm)
  have a2 := a1.trans (((a1.core k).symm ▸ h).edgeOpen)
  exact a2.trans (((a2.core k).symm ▸ h).edgeLand)

theorem stopCores_core (ks : List Nat) : (s.stopCores ks).core k =
    if k ∈ ks then { s.core k with stopped := !(s.core k).exited, stall := none, stopAt := none } else s.core k :=
  core_foldl_onCore (g := fun _ c => { c with stopped := !c.exited, stall := none, stopAt := none }) (fun _ _ => rfl) ks s

theorem alignCyc_core (ks : List Nat) : (s.alignCyc ks).core k = if k ∈ ks then { s.core k with cyc := s.stopCyc k } else s.core k :=
  core_foldl_onCore (g := fun k c => { c with cyc := s.stopCyc k }) (fun _ _ => rfl) ks s

/-- What the statement of a stop asks of a core of the group: it stands at a drain point, and nothing of it is in flight. -/
structure State.AtDrain (s : State) (k : Nat) : Prop extends (s.core k).Quiet where
  ready : s.mayStop k = true
  runs : (s.core k).exited = false

/-- A group whose cores all stand at a drain point stops. -/
theorem tryStop_group {grp : Nat} (hx : s.inst? i = some x) (hd : x.drains = true)
    (hne : (s.instCores i).filter (fun k => (s.core k).gname == grp) ≠ [])
    (h : ∀ k ∈ (s.instCores i).filter (fun k => (s.core k).gname == grp), s.AtDrain k) : ∃ t, s.tryStop i grp = some t ∧
      t.mem = s.mem ∧ t.insts = s.insts ∧ ∀ k, t.core k = if k ∈ (s.instCores i).filter (fun k => (s.core k).gname == grp) then
        { s.core k with stopped := true, stall := none, stopAt := none } else s.core k := by
  generalize hks : (s.instCores i).filter (fun k => (s.core k).gname == grp) = ks at hne h ⊢
  have ha : s.Alike (ks.foldl State.settle s) := alike_foldl (fun _ _ => Core.Quiet.settle) (fun k hk => (h k hk).toQuiet) (.refl s)
  have hany : ks.any (fun k => !(s.core k).exited) = true := by
    obtain ⟨k, hk⟩ := List.exists_mem_of_ne_nil ks hne
    exact List.any_eq_true.mpr ⟨k, hk, by rw [(h k hk).runs]; rfl⟩
  have hall : ks.all s.mayStop = true := List.all_eq_true.mpr fun k hk => (h k hk).ready
  have hflt : ks.any (fun k => ((ks.foldl State.settle s).core k).flt.isSome) = false :=
    List.any_eq_false.mpr fun k hk => by rw [ha.core, (h k hk).flt]; exact Bool.false_ne_true
  refine ⟨(ks.foldl State.settle s).stopCores ks, ?_, ?_, ?_, fun k => ?_⟩
  · simp only [State.tryStop, hx, hks, hd, hany, hall, hflt, Bool.and_self, Bool.not_true, Bool.false_eq_true, if_true, if_false]
  · exact (mem_foldl_onCore (fun _ c => { c with stopped := !c.exited, stall := none, stopAt := none }) _ _).trans ha.mem
  · exact (insts_foldl_onCore (fun _ c => { c with stopped := !c.exited, stall := none, stopAt := none }) _ _).trans ha.insts
  · rw [stopCores_core, ha.core]
    split
    next hk => rw [(h k hk).runs]; rfl
    next => rfl

theorem instIdle_of {s : State} (h : ∀ k ∈ s.instCores i, (s.core k).stopped = true ∧ s.engineWork k = []) : s.instIdle i = true :=
  List.all_eq_true.mpr fun k hk => by rw [(h k hk).2]; rfl

theorem all_halts_of (h : ∀ k ∈ s.instCores i, (s.core k).stopped = true ∧ s.engineWork k = []) : (s.instCores i).all s.halts = true :=
  List.all_eq_true.mpr fun k hk => by rw [State.halts, (h k hk).1]; rfl

/-- An `Inst` that drains for the debugger halts once its groups have stopped (R270). -/
theorem tryStop_halt (grp : Nat) (hx : s.inst? i = some x) (hf : x.phase = .forced)
    (h : ∀ k ∈ s.instCores i, (s.core k).stopped = true ∧ s.engineWork k = []) :
    s.tryStop i grp = some ((s.alignCyc (s.instCores i)).onInst i (fun x => { x with phase := .halted })) := by
  have hno : ∀ ks : List Nat, (∀ k ∈ ks, (s.core k).stopped = true) →
      (ks.any (fun k => !(s.core k).exited) && ks.all s.mayStop) = false := by
    intro ks hks
    rw [Bool.and_eq_false_iff]
    by_cases hex : ∀ k ∈ ks, (s.core k).exited = true
    · exact .inl (List.any_eq_false.mpr fun k hk => by rw [hex k hk]; exact Bool.false_ne_true)
    · obtain ⟨k, hk, hke⟩ : ∃ k ∈ ks, (s.core k).exited = false := by simpa using hex
      exact .inr (List.all_eq_false.mpr ⟨k, hk, by simp [State.mayStop, hke, hks k hk]⟩)
  have hg := hno ((s.instCores i).filter (fun k => (s.core k).gname == grp)) fun k hk => (h k (List.mem_filter.mp hk).1).1
  simp only [State.tryStop, hx, Inst.drains, hf, hg, all_halts_of h, instIdle_of h, beq_self_eq_true, Bool.and_self, Bool.not_true,
    Bool.false_eq_true, if_true, if_false]

/-! #### The stop of an `Inst` (R49) -/

theorem midBundle_iff (c : Core) : c.midBundle = true ↔ Claim.midst c := by
  simp [Core.midBundle, Claim.midst, and_assoc]

theorem onOwnCore_halt : OnOwnCore (fun t k => (t.cancel k 0 (t.core k).cyc).onCore k Core.stopIssue) := by
  intro t j k h
  rw [core_onCore_ne _ _ _ _ h]
  exact core_onCore_ne _ _ _ _ h

/-- A halt of cores leaves memory and the entries of the instances alone. -/
theorem haltCores_frame (ks : List Nat) (s : State) : (s.haltCores ks).mem = s.mem ∧ (s.haltCores ks).insts = s.insts := by
  unfold State.haltCores
  induction ks generalizing s with
  | nil => exact ⟨rfl, rfl⟩
  | cons k ks ih => exact ⟨(ih _).1.trans rfl, (ih _).2.trans rfl⟩

/-- An `Inst` that is stopped ends, and none of its cores issues again past its bundle boundary. -/
theorem stopInst_ends (hx : s.inst? i = some x) (ph : IPhase) :
    (s.stopInst i ph).inst? i = some { x with phase := ph } ∧ (s.stopInst i ph).mem = s.mem ∧
    ∀ k ∈ s.instCores i, if Claim.midst (s.core k) then (s.stopInst i ph).core k = s.core k else
      ((s.stopInst i ph).core k).exited = true ∧ ((s.stopInst i ph).core k).issues = false ∧ k ∉ (s.stopInst i ph).turn := by
  have ⟨hmem, hinsts⟩ := haltCores_frame ((s.instCores i).filter (fun k => !(s.core k).midBundle)) s
  refine ⟨inst?_onInst ?_ fun _ => rfl, hmem, fun k hk => ?_⟩
  · unfold State.inst?
    rw [hinsts]
    exact hx
  · split
    next hm =>
      refine core_foldl_other onOwnCore_halt fun hk' => ?_
      have := (List.mem_filter.mp hk').2
      rw [(midBundle_iff _).mpr hm] at this
      exact nomatch this
    next hm =>
      have hk' : k ∈ (s.instCores i).filter (fun k => !(s.core k).midBundle) := by
        simpa [hk, ← midBundle_iff] using hm
      have hex : ((s.stopInst i ph).core k).exited = true :=
        core_foldl_mem (P := fun c => c.exited = true) onOwnCore_halt (fun t => by rw [core_onCore_self]; rfl) hk'
      exact ⟨hex, by simp [Core.issues, hex], not_mem_turn_haltCores hk'⟩

/-! #### The cores that a save or a retirement frees (R48, R54) -/

theorem Sparse.find_foldl_del {α : Type} (l : List Nat) (m : Sparse α) (j : Nat) :
    Sparse.find (l.foldl (fun m k => Sparse.del k m) m) j = if j ∈ l then none else Sparse.find m j := by
  induction l generalizing m with
  | nil => rfl
  | cons k l ih =>
    rw [List.foldl_cons, ih, Sparse.find_del]
    by_cases hj : j ∈ l <;> by_cases hk : j = k <;> simp [hj, hk]

theorem foldl_onDie {α : Type} (g : α → Nat) (f : α → Die → Die) (l : List α) (s : State) :
    ∃ d, l.foldl (fun s b => s.onDie (g b) (f b)) s = { s with dies := d } := by
  induction l generalizing s with
  | nil => exact ⟨s.dies, rfl⟩
  | cons a l ih =>
    obtain ⟨d, hd⟩ := ih (s.onDie (g a) (f a))
    exact ⟨d, hd.trans rfl⟩

/-- A release frees the cores of an `Inst` and its queues, and begins a launch boundary. -/
theorem release_eq (s : State) (x : Inst) : ∃ d, s.release x =
    { s with cores := (s.instCores x.id).foldl (fun m k => Sparse.del k m) s.cores, boundary := true
             turn := s.turn.filter (fun k => !(s.instCores x.id).contains k), dies := d } :=
  foldl_onDie ..

theorem quitAll_eq (ks : List Nat) (s : State) : ∃ f r, s.quitAll ks = { s with fab := f, reports := r } := by
  unfold State.quitAll
  induction ks generalizing s with
  | nil => exact ⟨s.fab, s.reports, rfl⟩
  | cons k ks ih =>
    obtain ⟨f, r, h⟩ := ih (s.quit (s.who k))
    exact ⟨f, r, h.trans rfl⟩

theorem release_core (s : State) (x : Inst) (k : Nat) :
    (s.release x).core k = if k ∈ s.instCores x.id then Core.idle k else s.core k := by
  obtain ⟨d, hd⟩ := release_eq s x
  rw [hd]
  unfold State.core
  dsimp only
  rw [Sparse.find_foldl_del]
  split <;> rfl

section
variable (s : State) (x : Inst)

@[simp] theorem release_boundary : (s.release x).boundary = true := by obtain ⟨d, hd⟩ := release_eq s x; rw [hd]
@[simp] theorem release_mem : (s.release x).mem = s.mem := by obtain ⟨d, hd⟩ := release_eq s x; rw [hd]
@[simp] theorem release_fwUp : (s.release x).fwUp = s.fwUp := by obtain ⟨d, hd⟩ := release_eq s x; rw [hd]
@[simp] theorem release_ports : (s.release x).ports = s.ports := by obtain ⟨d, hd⟩ := release_eq s x; rw [hd]
@[simp] theorem release_insts : (s.release x).insts = s.insts := by obtain ⟨d, hd⟩ := release_eq s x; rw [hd]

end

theorem release_turn (h : k ∈ s.instCores x.id) : k ∉ (s.release x).turn := by
  obtain ⟨d, hd⟩ := release_eq s x
  rw [hd]
  simp [h]

/-! #### A replacement request (R14, R267) -/

@[simp] theorem State.replace_insts : s.replace.insts = s.insts :=
  (congrArg State.insts (bared_replace s) : s.replace.bared.insts = _)

@[simp] theorem State.replace_boundary : s.replace.boundary = s.boundary :=
  (congrArg State.boundary (bared_replace s) : s.replace.bared.boundary = _)

@[simp] theorem State.replace_turn : s.replace.turn = s.turn :=
  (congrArg State.turn (bared_replace s) : s.replace.bared.turn = _)

/-- A port whose ring is off keeps its events, and its state. -/
theorem flushEvts_of_off {p : Bool} (h : (s.port p).even = false) (n : Nat) : s.flushEvts p n = s := by
  cases n with
  | zero => rfl
  | succ n =>
    unfold State.flushEvts
    dsimp only
    split
    · rfl
    · rw [h]; rfl

theorem port_onPort_self (s : State) (p : Bool) (f : Port → Port) : (s.onPort p f).port p = f (s.port p) := by
  simp [State.port]

theorem port_onPort_ne (s : State) {p q : Bool} (f : Port → Port) (h : q ≠ p) : (s.onPort p f).port q = s.port q := by
  have hn : q.toNat ≠ p.toNat := fun e => h (by cases p <;> cases q <;> simp_all)
  simp [State.port, hn]

theorem noRing_onPort (h : Claim.noRing s) {p : Bool} {f : Port → Port} (hf : (f (s.port p)).even = (s.port p).even) :
    Claim.noRing (s.onPort p f) := by
  intro q
  rcases eq_or_ne q p with rfl | hq
  · rw [port_onPort_self, hf, h]
  · rw [port_onPort_ne s f hq, h]

theorem raise_of_noRing (h : Claim.noRing s) (p : Bool) (e : Evt) : Claim.noRing (s.raise p e) ∧ (s.raise p e).mem = s.mem := by
  unfold State.raise
  dsimp only
  split
  · exact ⟨noRing_onPort h rfl, rfl⟩
  · rw [flushEvts_of_off (noRing_onPort h rfl p)]
    exact ⟨noRing_onPort h rfl, rfl⟩

/-- An event writes no memory while no ring is enabled. -/
theorem eventAll_mem (h : Claim.noRing s) (ty cause : Nat) (data : W64) : (s.eventAll ty cause data).mem = s.mem := by
  have ⟨h1, m1⟩ := raise_of_noRing h false ⟨ty, cause, 0x1FF, 0, 0, 0, data, 0, 0⟩
  exact (raise_of_noRing h1 true ⟨ty, cause, 0x1FF, 0, 0, 0, data, 0, 0⟩).2.trans m1

theorem replCheck_insts (s old : State) : (s.replCheck old).insts = s.insts := by
  unfold State.replCheck; split <;> simp

theorem replCheck_core (s old : State) (k : Nat) : (s.replCheck old).core k = s.core k := by
  unfold State.replCheck State.core; split <;> simp

theorem replCheck_boundary (s old : State) : (s.replCheck old).boundary = s.boundary := by
  unfold State.replCheck; split <;> simp

theorem replCheck_turn (s old : State) : (s.replCheck old).turn = s.turn := by
  unfold State.replCheck; split <;> simp

theorem replCheck_mem (s old : State) (h : s.fwUp = false ∨ Claim.noRing s) : (s.replCheck old).mem = s.mem := by
  unfold State.replCheck
  split
  next hr =>
    refine eventAll_mem (s := { s with repl := true }) (h.resolve_left fun hf => ?_) ..
    rw [hf] at hr
    exact nomatch hr
  next => rfl

/-! #### The save of an `Inst` (R47, R48) -/

/-- An `Inst` with its context. -/
def Inst.shelved (cores : List SavedCore) (qs : List (Nat × Nat × List TRec)) (n : Nat) (x : Inst) : Inst :=
  { x with phase := .saved, held := [], bind := [], cores := cores, qsave := qs, porder := n, preempts := min 0xFFFF (x.preempts + 1) }

/-- A state in which the quarters of an `Inst` are written back, after its save. -/
def State.shelve (s : State) (x : Inst) (ks : List Nat) : State :=
  let s1 := s.quitAll ks
  let qs := x.bind.map (fun b => (b.1, b.2.1, Sparse.get [] (s1.die (x.qdie b)).queues b.2.2))
  let s2 := (s1.release x).onInst x.id (Inst.shelved (ks.map s1.saveCore) qs s1.norder)
  { s2 with norder := s2.norder + 1 }

theorem tryPreempt_saved {s1 : State} {till : Nat} (hx : s.inst? i = some x) (hp : x.phase = .draining till)
    (h : ∀ k ∈ s.instCores i, (s.core k).stopped = true ∧ s.engineWork k = [])
    (hf : s.poolFits (s.instCores i).length x.bind.length = true)
    (hw : State.writeBackAll (s.instCores i) (s.alignCyc (s.instCores i)) = ((.ok (), none), s1)) :
    s.tryPreempt i = some ((s1.shelve x (s.instCores i)).replCheck s) := by
  obtain rfl := inst?_id hx
  simp only [State.tryPreempt, hx, hp, all_halts_of h, instIdle_of h, hf, hw, Bool.and_self, Bool.not_true, Bool.false_eq_true, if_true,
    if_false]
  rfl

theorem tryPreempt_short {till : Nat} (hx : s.inst? i = some x) (hp : x.phase = .draining till)
    (h : ∀ k ∈ s.instCores i, (s.core k).stopped = true ∧ s.engineWork k = [])
    (hf : s.poolFits (s.instCores i).length x.bind.length = false) : s.tryPreempt i = some (s.stopInst i (.ending 3)) := by
  simp only [State.tryPreempt, hx, hp, all_halts_of h, instIdle_of h, hf, Bool.and_self, Bool.not_false, if_true]

theorem tryPreemptAbort_over {till : Nat} (hx : s.inst? i = some x) (hp : x.phase = .draining till) (ht : till < s.glob) :
    s.tryPreemptAbort i = some (s.stopInst i (.ending 3)) := by
  simp only [State.tryPreemptAbort, hx, hp, ht, if_true]

/-- A saved `Inst` stands with its context in it, and its cores are free. -/
theorem shelve_frees (ks : List Nat) (hx : s.inst? x.id = some x) (hks : s.instCores x.id = ks) :
    (∃ qs n, (s.shelve x ks).inst? x.id = some (x.shelved (ks.map s.saveCore) qs n)) ∧ (s.shelve x ks).boundary = true ∧
    (s.shelve x ks).mem = s.mem ∧ (s.shelve x ks).fwUp = s.fwUp ∧ (s.shelve x ks).ports = s.ports ∧
    (∀ k ∈ ks, k ∉ (s.shelve x ks).turn) ∧ ∀ k, (s.shelve x ks).core k = if k ∈ ks then Core.idle k else s.core k := by
  unfold State.shelve
  extract_lets s1 qs s2
  obtain ⟨f, r, hq⟩ : ∃ f r, s1 = { s with fab := f, reports := r } := quitAll_eq ks s
  clear_value qs
  have hks1 : s1.instCores x.id = ks := by rw [← hks, hq]; rfl
  have hx1 : (s1.release x).inst? x.id = some x := by rw [State.inst?, release_insts, hq]; exact hx
  have hsave : s1.saveCore = s.saveCore := by rw [hq]; rfl
  refine ⟨⟨qs, s1.norder, hsave ▸ inst?_onInst hx1 fun _ => rfl⟩, release_boundary .., (release_mem ..).trans (by rw [hq]),
    (release_fwUp ..).trans (by rw [hq]), (release_ports ..).trans (by rw [hq]), fun k hk => release_turn (hks1 ▸ hk), fun k => ?_⟩
  refine (release_core s1 x k).trans ?_
  rw [hks1, hq]
  rfl

theorem noRing_of_ports (h : Claim.noRing s) (e : t.ports = s.ports) : Claim.noRing t := by
  intro p
  rw [State.port, e]
  exact h p

end

/-- Settles O17: a stop needs nothing in flight, so it performs nothing; a save and an abandonment leave the other cores alone. -/
theorem drainsStopSaveAndAbandon : Obligations.DrainsStopSaveAndAbandon := by
  unfold Obligations.DrainsStopSaveAndAbandon
  intro s i grp till x hx ks leaves group
  obtain rfl := inst?_id hx
  refine ⟨fun hp hne hg => ?_, fun hp h => ?_, fun hp h hf s1 hw hx1 hks => ?_, fun hp h hf => ?_, fun hp ht => ?_⟩
  · have hd : x.drains = true := by
      rcases hp with ⟨n, hp⟩ | hp <;> rw [Inst.drains, hp]
    obtain ⟨t, ht, h⟩ := tryStop_group hx hd hne fun k hk => by
      obtain ⟨hst, hat, hex, hflt, hstub, hpend, howed, h0, h1, hturn, hfr⟩ := hg k hk
      exact { pend := hpend, owed := howed, flt := hflt, runs := hex, noWbk := by simp [Core.held, h0, h1]
              ready := by simp [State.mayStop, Core.drained, Core.calm, hst, hat, hex, hflt, hstub, hpend, h0, h1, hturn, hfr] }
    exact ⟨t, orSame_some ht, h⟩
  · refine ⟨_, orSame_some (tryStop_halt grp hx hp h), ?_, fun k => ?_, ?_⟩
    · refine inst?_onInst ?_ fun _ => rfl
      unfold State.inst?
      rw [State.alignCyc, insts_foldl_onCore]
      exact hx
    · exact alignCyc_core ks
    · exact mem_foldl_onCore _ _ _
  · obtain ⟨⟨qs, n, hi⟩, hb, hm, hfw, hports, hturn, hcore⟩ := shelve_frees _ hx1 hks
    refine ⟨_, x.shelved (ks.map s1.saveCore) qs n, orSame_some (tryPreempt_saved hx hp h hf hw), ?_, rfl, rfl, rfl, rfl, rfl, rfl, ?_,
      fun h1 => ?_, fun k hk => ⟨?_, ?_⟩, fun k hk => ?_⟩
    · exact (congrArg (List.find? _) (replCheck_insts ..)).trans hi
    · rw [replCheck_boundary, hb]
    · rw [replCheck_mem _ _ (h1.imp hfw.trans fun h => noRing_of_ports h hports), hm]
    · rw [replCheck_core, hcore, if_pos hk]
    · rw [replCheck_turn]; exact hturn k hk
    · rw [replCheck_core, hcore, if_neg hk]
  · exact ⟨_, orSame_some (tryPreempt_short hx hp h hf), stopInst_ends hx _⟩
  · exact ⟨_, orSame_some (tryPreemptAbort_over hx hp ht), stopInst_ends hx _⟩

end Sys2Proof.Machine

namespace Sys2Proof.Machine

section

-- Elaborated one by one, these many short proofs stay within the memory that threads may take.
set_option Elab.async false

variable {s s1 t : State} {i k : Nat} {x : Inst}

/-! #### The placement of a saved core (R50, R180) -/

/-- A saved core in its new place: `PCORE` and `TQBIND` are new, and its mapped quarters are not resident and clean. -/
def SavedCore.placed (c : SavedCore) (p : Placed) (bind : List (Nat × Nat × Nat)) (k : Nat) : Core :=
  ({ c.core with id := k, stopped := false, atDrain := false, mres := 0, mdirty := 0 } : Core).placeRegs p bind

theorem restoreCore_core (s : State) (p : Placed) (bind : List (Nat × Nat × Nat)) (h w : Nat) (c : SavedCore) (k : Nat) :
    (s.restoreCore p bind h w c).core k =
      if k = p.phys h w c.core.ldie c.core.lrow c.core.lcol then c.placed p bind k else s.core k := by
  split
  next h => subst h; exact core_setCore_self ..
  next h => exact core_setCore_ne _ _ k _ h

theorem shell_restoreCore (s : State) (p : Placed) (bind : List (Nat × Nat × Nat)) (h w : Nat) (c : SavedCore) :
    (s.restoreCore p bind h w c).shell = s.shell := rfl

/-- A pass that seats each of its elements on a core of its own leaves each where it is to be. -/
theorem core_foldl_seat {α : Type} {f : State → α → State} {g : α → Nat} {v : α → Nat → Core}
    (hf : ∀ t a k, (f t a).core k = if k = g a then v a k else t.core k) {a : α} {l : List α}
    (hu : ∀ d ∈ l, g d = g a → d = a) (ha : a ∈ l ∨ s.core (g a) = v a (g a)) : (l.foldl f s).core (g a) = v a (g a) := by
  induction l generalizing s with
  | nil => exact ha.resolve_left nofun
  | cons d l ih =>
    refine ih (fun e he => hu e (List.mem_cons_of_mem _ he)) ?_
    by_cases hl : a ∈ l
    · exact .inl hl
    · refine .inr ((hf ..).trans ?_)
      split
      next hg => rw [hu d List.mem_cons_self hg.symm]
      next hg =>
        refine ha.resolve_left fun h => ?_
        exact (List.mem_cons.mp h).elim (fun e => hg (congrArg g e)) hl

/-- An `Inst` that runs again, under a placement with its footprint and its queues. -/
def Inst.resumed (p : Placed) (held : List Nat) (bind : List (Nat × Nat × Nat)) (x : Inst) : Inst :=
  { x with phase := .running, dmap := p.dmap, place := p.place, held := held, bind := bind, cores := [], qsave := [] }

/-- The queues and the cores of a saved `Inst` in their new places. -/
def State.reseat (s : State) (x : Inst) (p : Placed) (bind : List (Nat × Nat × Nat)) : State :=
  x.cores.foldl (fun s c => s.restoreCore p bind x.rows x.cols c) (x.qsave.foldl (fun s e =>
    s.onDie (p.place.getD e.1 (0, 0, 0, 0)).1 (fun d => { d with queues := Sparse.set [] d.queues (boundQ bind e.1 e.2.1) e.2.2 }))
    (s.takeQueues p bind))

theorem resumeAt_eq (s : State) (x : Inst) (p : Placed) (bind : List (Nat × Nat × Nat)) :
    s.resumeAt x p bind = (s.reseat x p bind).onInst x.id (Inst.resumed p (p.cover x.rows x.cols) bind) := rfl

/-- Apart from cores, dies and memory nothing changes as a saved `Inst` is seated. -/
theorem shell_reseat (s : State) (x : Inst) (p : Placed) (bind : List (Nat × Nat × Nat)) : (s.reseat x p bind).shell = s.shell :=
  ((shell_foldl _ (fun _ _ => shell_restoreCore ..) _ _).trans (shell_foldl _ (fun _ _ => shell_onDie ..) _ _)).trans
    (shell_takeQueues ..)

theorem reseat_core {p : Placed} {bind : List (Nat × Nat × Nat)} {c : SavedCore} (hc : c ∈ x.cores)
    (hk : k = p.phys x.rows x.cols c.core.ldie c.core.lrow c.core.lcol)
    (hu : ∀ d ∈ x.cores, p.phys x.rows x.cols d.core.ldie d.core.lrow d.core.lcol = k → d = c) :
    (s.reseat x p bind).core k = c.placed p bind k := by
  subst hk
  exact core_foldl_seat (g := fun c : SavedCore => p.phys x.rows x.cols c.core.ldie c.core.lrow c.core.lcol)
    (fun t a k => restoreCore_core ..) hu (.inl hc)

theorem reseat_insts (p : Placed) (bind : List (Nat × Nat × Nat)) : (s.reseat x p bind).insts = s.insts :=
  (congrArg State.insts (shell_reseat s x p bind) : (s.reseat x p bind).shell.insts = _)

theorem reseat_turn (p : Placed) (bind : List (Nat × Nat × Nat)) : (s.reseat x p bind).turn = s.turn :=
  (congrArg State.turn (shell_reseat s x p bind) : (s.reseat x p bind).shell.turn = _)

theorem placed_cr_keep (c : SavedCore) (p : Placed) (bind : List (Nat × Nat × Nat)) (k : Nat) {n : Nat} (h4 : n ≠ 4) (h5 : n ≠ 5) :
    Sparse.get 0 (c.placed p bind k).cr n = Sparse.get 0 c.core.cr n :=
  (get_setCr_ne _ _ _ _ h5).trans (get_setCr_ne _ _ _ _ h4)

/-! #### The bytes of a completion record (R52) -/

theorem leNat_leBytes_append (n v : Nat) (l : List Byte) : leNat ((leBytes n v ++ l).take n) = v % 2 ^ (8 * n) := by
  induction n generalizing v with
  | zero => simp [leNat, Nat.mod_one]
  | succ n ih =>
    have h8 : 2 ^ (8 * (n + 1)) = 256 * 2 ^ (8 * n) := by rw [Nat.mul_add, Nat.pow_add]; omega
    rw [leBytes, List.cons_append, List.take_succ_cons, leNat, ih, h8, Nat.mod_mul, BitVec.toNat_ofNat]

theorem length_leBytes (n v : Nat) : (leBytes n v).length = n := by
  induction n generalizing v with
  | zero => rfl
  | succ n ih => rw [leBytes, List.length_cons, ih]

theorem fieldAt_first (n v : Nat) (l : List Byte) : fieldAt (leBytes n v ++ l) 0 n = v % 2 ^ (8 * n) :=
  leNat_leBytes_append n v l

theorem fieldAt_later {m v off n : Nat} (l : List Byte) (h : m ≤ off) : fieldAt (leBytes m v ++ l) off n = fieldAt l (off - m) n := by
  rw [fieldAt, fieldAt, List.drop_append, length_leBytes, List.drop_eq_nil_of_le (by rw [length_leBytes]; exact h), List.nil_append]

/-- The bytes that the module writes are a completion record. -/
theorem isRecord_recordBytes (x : Inst) (status glob : Nat) : Claim.isRecord (recordBytes x status glob) x status glob := by
  have e : recordBytes x status glob = recordBytes x status glob ++ [] := (List.append_nil _).symm
  rw [e]
  unfold Claim.isRecord recordBytes
  simp (disch := decide) only [List.append_assoc, fieldAt_later, fieldAt_first, ite_beq_zero, Nat.reduceSub, List.length_append,
    length_leBytes, List.length_nil, and_self]

/-! #### What an event leaves of the streams (R280) -/

/-- The stream contexts of the two ports. -/
def State.streams (s : State) (p : Bool) : Sparse (Option Strm) := (s.port p).strms

theorem strm_of_streams (h : t.streams = s.streams) (p : Bool) (n : Nat) : t.strm p n = s.strm p n := by
  have hp : (t.port p).strms = (s.port p).strms := congrFun h p
  rw [State.strm, hp]
  rfl

section
variable (s s1 : State) (w : Who) (p : Bool) (die asid va : Nat) (wr : Bool)

theorem streams_onPort {f : Port → Port} (h : (f (s.port p)).strms = (s.port p).strms) : (s.onPort p f).streams = s.streams := by
  funext q
  unfold State.streams
  rcases eq_or_ne q p with rfl | hq
  · rw [port_onPort_self, h]
  · rw [port_onPort_ne s f hq]

theorem streams_send (o : Out) : (s.send o).streams = s.streams := rfl

theorem streams_quit : (s.quit w).streams = s.streams := rfl

theorem streams_hostMiss : (s.hostMiss p die asid va wr).2.streams = s.streams := by
  unfold State.hostMiss
  dsimp only
  split
  · exact streams_onPort s p rfl
  · split
    · rfl
    · exact (streams_send ..).trans (streams_onPort s p rfl)

theorem streams_xlateHost : (s.xlateHost die asid va wr).2.streams = s.streams := by
  simp only [State.xlateHost]
  split
  · rfl
  · split
    · rfl
    · split
      · rfl
      · split
        · exact streams_hostMiss ..
        · split
          · rfl
          · exact streams_hostMiss ..

theorem streams_xlateWalk : (s.xlateWalk die asid va wr).2.streams = s.streams := by
  simp only [State.xlateWalk]
  split
  · rfl
  · split
    · rfl
    · split
      · rfl
      · rfl
      · rfl
      · split <;> rfl

theorem streams_xlate : (s.xlate die asid va wr).2.streams = s.streams := by
  unfold State.xlate
  split
  · exact streams_xlateHost ..
  · split
    · rfl
    · split
      · split
        · exact streams_xlateWalk ..
        · rfl
      · exact streams_xlateWalk ..

theorem streams_peer (key : Nat) (req : PeerReq) : (s.peer w key req).2.streams = s.streams := by
  unfold State.peer
  split <;> rfl

theorem streams_writeVA (bs : List Byte) : (s.writeVA w va bs).2.streams = s.streams := by
  have hx := streams_xlate s w.die w.asid va true
  unfold State.writeVA
  split
  next key tier t e =>
    rw [e] at hx
    split
    · have hp : (t.peer w key (.write bs)).2.streams = s.streams := (streams_peer ..).trans hx
      unfold Acc.bind
      split <;> exact hp
    · exact hx
  next e => rw [e] at hx; exact hx
  next e => rw [e] at hx; exact hx

theorem streams_waited : ((s.waited s1).getD s).streams = s.streams := by
  unfold State.waited
  extract_lets sent port
  have hp (q : Bool) (t : State) : (port q t).streams = t.streams := streams_onPort t q rfl
  split
  · rfl
  · refine (hp true _).trans ((hp false _).trans ?_)
    unfold State.parityOf
    split <;> rfl

theorem streams_flushEvts (n : Nat) : (s.flushEvts p n).streams = s.streams := by
  induction n generalizing s with
  | zero => rfl
  | succ n ih =>
    unfold State.flushEvts
    dsimp only
    split
    · rfl
    · next e rest _ =>
      split
      · have hw := streams_writeVA s (hostWho p 0)
          ((s.port p).evring.toNat + 32 * (e.seq.toNat % 2 ^ (s.port p).evlog)) e.bytes
        split
        · next h => rw [h] at hw; exact (ih _).trans ((streams_send ..).trans ((streams_onPort _ p rfl).trans ((streams_quit ..).trans hw)))
        · exact streams_waited ..
        · next h => rw [h] at hw; exact hw
      · rfl

theorem streams_raise (e : Evt) : (s.raise p e).streams = s.streams := by
  unfold State.raise
  dsimp only
  split
  · exact streams_onPort s p rfl
  · exact (streams_flushEvts ..).trans (streams_onPort s p rfl)

theorem streams_replCheck (old : State) : (s.replCheck old).streams = s.streams := by
  unfold State.replCheck
  split
  · exact (streams_raise ..).trans (streams_raise ..)
  · rfl

end

/-! #### Retirement (R51 to R54) -/

theorem mayRetire_of (hi : x.id = i) (hs : x.phase ≠ .saved) (hh : x.phase ≠ .halted)
    (h : ∀ k ∈ s.instCores i, (s.core k).exited = true ∧ (s.core k).pend = [] ∧ (s.core k).flt = none ∧ s.engineWork k = []) :
    s.mayRetire x = true := by
  subst hi
  have hidle : s.instIdle x.id = true := List.all_eq_true.mpr fun k hk => by
    obtain ⟨-, -, -, hw⟩ := h k hk
    rw [hw]; rfl
  have hall : (s.instCores x.id).all (fun k => (s.core k).exited && (s.core k).pend.isEmpty && (s.core k).flt.isNone) = true :=
    List.all_eq_true.mpr fun k hk => by
      obtain ⟨he, hp, hf, -⟩ := h k hk
      rw [he, hp, hf]; rfl
  simp [State.mayRetire, hs, hh, hidle, hall]

/-- The record that an `Inst` writes: the one that is due, or else that of this cycle. -/
def State.recordOf (s : State) (x : Inst) (status : Nat) : Report :=
  (s.dueOf x.l.who).getD ⟨x.l.who, x.l.cmpl, recordBytes x status s.glob, none⟩

/-- The state in which a record has performed: nothing of it is due, and the launch's command knows it. -/
def State.recorded (s : State) (x : Inst) : State :=
  (s.quit x.l.who).onStrm x.l.port x.l.strm (fun t => { t with fly := t.fly.map (SCmd.launched · x.l.seq true) })

theorem writeRecord_ok {status : Nat} (h : s.wrOp x.l.who false (.va x.l.cmpl.toNat) (s.recordOf x status).word = (.ok (), s1)) :
    s.writeRecord x status = (.ok true, s1.recorded x) := by
  unfold State.recordOf at h
  simp only [State.writeRecord, h]
  rfl

theorem writeRecord_wait {status : Nat} (h : s.wrOp x.l.who false (.va x.l.cmpl.toNat) (s.recordOf x status).word = (.wait, s1))
    (hr : s.recordOf x status ∉ s.reports) :
    s.writeRecord x status = (.ok false, { s with reports := s.reports ++ [s.recordOf x status] }) := by
  unfold State.recordOf at h hr
  simp only [State.writeRecord, h, List.contains_eq_mem, decide_eq_false hr, Bool.false_eq_true, if_false]
  rfl

/-- Where nothing of an agent is due, what is due names other agents. -/
theorem not_mem_reports {w : Who} {r : Report} (h : s.dueOf w = none) (hr : r.who = w) : r ∉ s.reports := by
  intro hm
  have := List.find?_eq_none.mp h r hm
  exact this (by rw [hr]; exact beq_self_eq_true w)

theorem recordOf_word {status : Nat} {r : List Byte} (h : (s.dueOf x.l.who = none ∧ Claim.isRecord r x status s.glob) ∨
    ∃ d, s.dueOf x.l.who = some d ∧ d.word = r) : (s.recordOf x status).word = r := by
  unfold State.recordOf
  rcases h with ⟨hn, hr⟩ | ⟨d, hd, hr⟩
  · rw [hn, recordBytes_of_isRecord hr]; rfl
  · rw [hd]; exact hr

theorem recorded_strm (s : State) (x : Inst) :
    ((s.recorded x).strm x.l.port x.l.strm).fly = (s.strm x.l.port x.l.strm).fly.map (SCmd.launched · x.l.seq true) := by
  rw [State.recorded, strm_onStrm_self, strm_quit]

theorem noRing_recorded (h : Claim.noRing s) (x : Inst) : Claim.noRing (s.recorded x) := by
  unfold State.recorded State.onStrm
  refine noRing_onPort (s := s.quit x.l.who) (noRing_of_ports h rfl) ?_
  rfl

/-- An `Inst` that leaves frees its cores and queues, which begins a launch boundary. -/
theorem dropInst_frees (s : State) (x : Inst) : (s.dropInst x).inst? x.id = none ∧ (s.dropInst x).boundary = true ∧
    (s.fwUp = false ∨ Claim.noRing s → (s.dropInst x).mem = s.mem) ∧
    (∀ k ∈ s.instCores x.id, (s.dropInst x).core k = Core.idle k ∧ k ∉ (s.dropInst x).turn) ∧
    (s.dropInst x).streams = s.streams := by
  unfold State.dropInst
  extract_lets s1
  refine ⟨?_, ?_, fun h => ?_, fun k hk => ⟨?_, ?_⟩, ?_⟩
  · rw [State.inst?, replCheck_insts]
    simp
  · rw [replCheck_boundary]
    exact release_boundary ..
  · have hr : s1.fwUp = false ∨ Claim.noRing s1 := h.imp (release_fwUp s x).trans fun h => noRing_of_ports h (release_ports s x)
    exact (replCheck_mem { s1 with insts := s1.insts.filter (fun y => y.id != x.id) } s hr).trans (release_mem s x)
  · rw [replCheck_core]
    exact (release_core s x k).trans (if_pos hk)
  · rw [replCheck_turn]
    exact release_turn hk
  · refine (streams_replCheck ..).trans (funext fun p => ?_)
    exact congrArg (fun m => ((Sparse.find m p.toNat).getD Port.zero).strms) (release_ports s x)

theorem tryRetireInst_ok (hx : s.inst? i = some x) (hm : s.mayRetire x = true) (hv : x.phase ≠ .vanish)
    (h : s.wrOp x.l.who false (.va x.l.cmpl.toNat) (s.recordOf x x.status).word = (.ok (), s1)) :
    s.tryRetireInst i = some ((s1.recorded x).dropInst x) := by
  simp only [State.tryRetireInst, hx, hm, Bool.not_true, Bool.false_eq_true, if_false, beq_eq_false_iff_ne.mpr hv, writeRecord_ok h]

theorem tryRetireInst_wait (hx : s.inst? i = some x) (hm : s.mayRetire x = true) (hv : x.phase ≠ .vanish)
    (h : s.wrOp x.l.who false (.va x.l.cmpl.toNat) (s.recordOf x x.status).word = (.wait, s1)) (hr : s.recordOf x x.status ∉ s.reports) :
    s.tryRetireInst i = some { s with reports := s.reports ++ [s.recordOf x x.status] } := by
  simp only [State.tryRetireInst, hx, hm, Bool.not_true, Bool.false_eq_true, if_false, beq_eq_false_iff_ne.mpr hv, writeRecord_wait h hr]

theorem tryRetireInst_vanish (hx : s.inst? i = some x) (hm : s.mayRetire x = true) (hv : x.phase = .vanish) :
    s.tryRetireInst i = some ((s.quit x.l.who).dropInst x) := by
  simp only [State.tryRetireInst, hx, hm, hv, Bool.not_true, Bool.false_eq_true, if_false, beq_self_eq_true, if_true]

theorem tryResume_turn {p : Placed} {bind : List (Nat × Nat × Nat)} (hb : s.boundary = true)
    (h : State.nextCand false s.candOrder s = (.resume x p bind, s1)) (hi : x.id = i) :
    s.tryResume i = some (s1.resumeAt x p bind) := by
  simp only [State.tryResume, hb, h, hi, Bool.not_true, Bool.false_eq_true, if_false, if_true]

end

/-- Settles O18: a restored core depends on its saved record alone, and an `Inst` that leaves writes nothing but its record. -/
theorem instancesResumeAndRetire : Obligations.InstancesResumeAndRetire := by
  unfold Obligations.InstancesResumeAndRetire
  intro s s1 i x
  refine ⟨fun p bind hb hn hi hx => ?_, fun hx hp h => ?_, fun hx hp h => ?_⟩
  · subst hi
    have hx1 : (s1.reseat x p bind).inst? x.id = some x := by rw [State.inst?, reseat_insts]; exact hx
    refine ⟨s1.resumeAt x p bind, x.resumed p (p.cover x.rows x.cols) bind, orSame_some (tryResume_turn hb hn rfl), ?_, rfl, rfl, rfl, rfl,
      rfl, rfl, reseat_turn p bind, fun c hc k hk hu => ?_⟩
    · exact inst?_onInst hx1 fun _ => rfl
    · have hcore : (s1.resumeAt x p bind).core k = c.placed p bind k := by rw [resumeAt_eq]; exact reseat_core hc hk hu
      rw [hcore]
      refine ⟨rfl, rfl, rfl, rfl, rfl, rfl, rfl, rfl, rfl, rfl, rfl, rfl, rfl, ?_, ?_, ?_, ?_⟩
      · exact placed_cr_keep _ _ _ _ (by decide) (by decide)
      · exact placed_cr_keep _ _ _ _ (by decide) (by decide)
      · exact (get_setCr_ne _ _ _ _ (by decide)).trans (get_setCr_self ..)
      · exact get_setCr_self ..
  · have hi := inst?_id hx
    have hph : x.phase ≠ .saved ∧ x.phase ≠ .halted ∧ x.phase ≠ .vanish := by
      rcases hp with hp | hp | ⟨n, hp⟩ <;> rw [hp] <;> exact ⟨nofun, nofun, nofun⟩
    obtain ⟨hs, hh, hv⟩ := hph
    have hm := mayRetire_of hi hs hh h
    refine ⟨fun d hd hw hwho haddr hf => ?_, fun r hr hw hks => ?_⟩
    · have hrec : s.recordOf x x.status = d := by
        rw [State.recordOf, hd, ← hwho, ← haddr, ← hf]
        exact congrArg (fun l => (⟨d.who, d.addr, l, d.fault⟩ : Report)) hw.symm
      refine ⟨hw ▸ isRecord_recordBytes x _ s.glob, fun hwait => orSame_some ?_⟩
      rw [tryRetireInst_wait hx hm hv (hrec ▸ hwait) (hrec ▸ not_mem_reports hd hwho), hrec]
    · have hr' : (s.recordOf x x.status).word = r := recordOf_word hr
      obtain ⟨h1, h2, h3, h4, h5⟩ := dropInst_frees (s1.recorded x) x
      refine ⟨_, orSame_some (tryRetireInst_ok hx hm hv (hr' ▸ hw)), hi ▸ h1, h2, fun h => h3 (h.imp_right (noRing_recorded · x)),
        fun k hk => h4 k ?_, ?_⟩
      · rw [← hks, ← hi] at hk
        exact hk
      · rw [strm_of_streams h5, recorded_strm]
  · have hi := inst?_id hx
    have hm := mayRetire_of hi (hp ▸ nofun) (hp ▸ nofun) h
    obtain ⟨h1, h2, h3, h4, -⟩ := dropInst_frees (s.quit x.l.who) x
    subst hi
    exact ⟨_, orSame_some (tryRetireInst_vanish hx hm hp), h1, h2, fun h => h3 (h.imp_right fun h => noRing_of_ports h rfl),
      fun k hk => (h4 k hk).1⟩

end Sys2Proof.Machine

/-! PROOFS of the statements of spec/05_scratchpad.md: what the tensor and channel operations issue, how channels accept, start,
deliver and complete commands, and what flips, mappings and transfers do. -/

namespace Sys2Proof.Machine

/-! ### Results under way as issued operations leave them (R61, R132) -/

section

variable {s : State} {c d : Core} {g : BitVec 5} {f : Core → Core} {l : List Claim.Res} {h : CHead} {o : CE} {i : Instr}

theorem plus_nil (c : Core) : Claim.plus c [] = c := by simp [Claim.plus]

theorem plus_push (c : Core) (l : List Claim.Res) (slot lat : Nat) (e : Eff) :
    (Claim.plus c l).push slot lat e = Claim.plus c (l ++ [⟨slot, lat, e⟩]) := by
  simp [Claim.plus, Core.push, Core.baddr]

/-- An operation that issues one effect in each of its rows leaves one result for each. -/
theorem foldl_push {F : Core → Nat → Core} {slot : Nat} {lat : Nat → Nat} {e : Nat → Eff}
    (hF : ∀ l k, F (Claim.plus c l) k = (Claim.plus c l).push slot (lat k) (e k)) (n : Nat) :
    (List.range n).foldl F c = Claim.plus c ((List.range n).map fun k => ⟨slot, lat k, e k⟩) := by
  induction n with
  | zero => exact (plus_nil c).symm
  | succ n ih => rw [List.range_succ, List.foldl_concat, ih, List.map_append, hF]; exact plus_push ..

/-- An operation under a true guard that adds results to its core alone. -/
theorem act_gives (hg : s.me.guard g = true) (hf : f s.me = Claim.plus s.me l) : s.act g f = .next (Claim.gives s l) := by
  rw [act_true hg, hf]; rfl

/-- An operation under a true guard with one effect. -/
theorem act_push (hg : s.me.guard g = true) (slot lat : Nat) (e : Eff) :
    s.act g (fun c => c.push slot lat e) = .next (Claim.gives s [⟨slot, lat, e⟩]) := act_gives hg rfl

theorem cNum_eq_cslot (h : CHead) : cNum h.slot = Claim.cslot h := by
  unfold cNum Claim.cslot; cases h.slot <;> rfl

/-! ### Tiles (R56, R371) -/

theorem bitsOf_extract {w : Nat} (v : BitVec w) (hi lo : Nat) : bitsOf v.toNat hi lo = (v.extractLsb' lo (hi + 1 - lo)).toNat := by
  rw [bitsOf, BitVec.extractLsb'_toNat, Nat.shiftRight_eq_div_pow]

theorem tshRows_eq (c : Core) (t : Nat) : c.tshRows t = ((Sparse.get 0 c.cr (0x010 + t)).extractLsb' 3 5).toNat :=
  bitsOf_extract _ 7 3

theorem tshCols_eq (c : Core) (t : Nat) : c.tshCols t = ((Sparse.get 0 c.cr (0x010 + t)).extractLsb' 8 8).toNat :=
  bitsOf_extract _ 15 8

theorem tileRow_eq (c : Core) (t k : Nat) : c.tileRow t k = Sparse.get 0 c.t (16 * t + k) := by
  rw [Core.tileRow, Nat.mul_comm]

/-- Rows within scratch are issued one by one. -/
theorem tileRows_in (c : Core) {r m : Nat} (hr : r + m ≤ 4096) (F : Nat → Nat → Core → Core) :
    c.tileRows r m F = (List.range m).foldl (fun c k => F k (r + k) c) c := by
  rw [Core.tileRows, if_neg (by simp only [Bool.or_eq_true, decide_eq_true_eq, Int.ofNat_eq_natCast]; omega)]; rfl

/-- Rows that leave scratch raise `ADDRESS`, and none is issued. -/
theorem tileRows_out (c : Core) {r : Int} {m : Nat} (hr : r < 0 ∨ 4096 < r + m) (F : Nat → Nat → Core → Core) :
    c.tileRows r m F = c.push 3 1 (.raise 0x12 0) := by
  rw [Core.tileRows, if_pos (by simpa using hr)]

end

/-- Settles O10: rows within scratch are results of their own; every other tensor operation is one result. -/
theorem tensorOperationsIssue : Obligations.TensorOperationsIssue := by
  unfold Obligations.TensorOperationsIssue
  intro s h t row tid layout acc ck fmt bank k0 n0 hg
  dsimp only
  rw [← tshRows_eq s.me, ← tshCols_eq s.me]
  refine ⟨fun r hr hfit => ⟨?_, ?_⟩, fun hout => ⟨?_, ?_⟩, ?_, act_push hg 3 1 _, act_push hg 3 1 _, act_push hg 3 1 _⟩
  · show execMtld h t row s = _
    refine act_gives hg ?_
    rw [stepped, hr, tileRows_in _ hfit]
    exact foldl_push (fun _ _ => rfl) _
  · show execMtst h t row s = _
    refine act_gives hg ?_
    rw [stepped, hr, tileRows_in _ hfit]
    exact foldl_push (fun _ _ => by simp only [← tileRow_eq]; rfl) _
  · show execMtld h t row s = _
    exact act_gives hg (tileRows_out s.me hout _)
  · show execMtst h t row s = _
    exact act_gives hg (tileRows_out s.me hout _)
  · simp only [← tileRow_eq]
    exact act_push hg 3 1 _

/-! ### Commands as the C slots offer them (R136, R302, R315) -/

section

variable {s : State} {h : CHead} {o : CE}

/-- A register with its steps, added modulo 2^64 (R315). -/
theorem stepped64_eq (v : W64) (o : Int) : stepped64 v o = v + BitVec.ofInt 64 o := by
  rw [stepped64, BitVec.ofInt_add, BitVec.ofInt_natCast, BitVec.ofNat_toNat, BitVec.setWidth_eq]

theorem bitOf_getLsbD {w : Nat} (v : BitVec w) (k : Nat) : bitOf v.toNat k = v.getLsbD k := by
  rw [bitOf_testBit, BitVec.getLsbD]

theorem immU_eq_count (i : Imm 12) : immU i = Claim.count i := by cases i <;> rfl

theorem ceTx_eq (o : CE) : ceTx o = (o.qual.extractLsb' 4 2).toNat := by
  rw [ceTx, BitVec.extractLsb'_toNat, Nat.shiftRight_eq_div_pow]

/-- `.W` is legal without it, or for a destination in scratch. -/
theorem streamOk_iff (self : Nat) (o : CE) (v : W64) : streamOk self o v = true ↔
    o.qual.getLsbD 3 = false ∨ ∃ p f, opndOf self v = some (.scr p f) := by
  rw [streamOk, ceW, Bool.or_eq_true, Bool.not_eq_true']
  refine or_congr_right ?_
  rcases opndOf self v with - | - | - | - <;> simp

/-- A word whose meaning `r` offers a command under a true guard: the command enters its slot's channel on c + 1. -/
theorem offers_of_act {i : Instr} (r : Res) {f : Core → Core} {ret rel acq : Bool} {n : Nat} {k : CmdKind}
    (hg : s.me.guard h.g = true) (hi : exec i s = r) (hr : r = s.act h.g f) (hf : f s.me = s.me.offer h o ret rel acq n k) :
    Claim.offers s h o i ret rel acq n k := by
  have hscope : o.qual.toNat % 8 = (o.qual.extractLsb' 0 3).toNat := by simp [BitVec.extractLsb'_toNat]
  rw [Claim.offers, hi, hr]
  refine act_gives hg ?_
  rw [hf, Core.offer, cNum_eq_cslot, hscope]
  rfl

theorem cmdRegs_eq (c : Core) (h : CHead) (o : CE) : c.cmdRegs h o =
    ⟨c.greg h.slot o.ra + BitVec.ofInt 64 h.st.b, c.greg h.slot o.rb + BitVec.ofInt 64 h.st.c, c.greg h.slot o.rc,
      (((c.greg h.slot o.tr + o.toff.setWidth 64).toNat : Int) + h.st.a).toNat⟩ := by
  rw [Core.cmdRegs, stepped64_eq, stepped64_eq, stepped]

end

/-- The words of copies, atomics, signals, fences, collectives and stack programs. -/
theorem copyAndSyncWordsOfferCommands : Claim.CopyAndSyncWordsOfferCommands := by
  intro s h o hg
  dsimp only
  have hr := cmdRegs_eq s.me h o
  rw [← immU_eq_count, ← streamOk_iff, ← ceTx_eq]
  refine ⟨fun hs ht => ?_, fun hs ht => ?_, fun hs ht => ?_, fun hs ht => ?_, fun hs => ?_, fun hs => ?_, fun hs => ?_,
    fun d x => ⟨rfl, rfl, rfl⟩, ?_, ?_, fun i hi => ⟨?_, ?_, ?_⟩⟩
  · exact offers_of_act (execCpy h o s) hg rfl rfl (by simp [hr, hs, ht, ceRet])
  · exact offers_of_act (execCpy h o s) hg rfl rfl (by simp [hr, hs, ht, ceRet])
  · exact offers_of_act (execCpy2 h o s) hg rfl rfl (by simp [hr, hs, Nat.ne_of_lt ht, ceRet, bitsOf])
  · exact offers_of_act (execCpyl h o s) hg rfl rfl (by simp [hr, hs, ht, ceRet])
  · exact offers_of_act (execCpy h o s) hg rfl rfl (by rcases hs with hs | hs | hs <;> simp [hr, hs, ceRet])
  · exact offers_of_act (execCpy2 h o s) hg rfl rfl (by rcases hs with hs | hs <;> simp [hr, hs, ceRet])
  · exact offers_of_act (execCpyl h o s) hg rfl rfl (by rcases hs with hs | hs <;> simp [hr, hs, ceRet])
  · exact offers_of_act (execFence h o s) hg rfl rfl rfl
  · exact offers_of_act (execColl h o s) hg rfl rfl (by rw [hr])
  · exact offers_of_act (execAtom h o s) hg rfl rfl (by simp [hr, hi, Imm.bits12, bitOf_getLsbD, Nat.shiftRight_eq_div_pow])
  · exact offers_of_act (execSig h o s) hg rfl rfl (by simp [hr, hi, Imm.bits12, bitOf_getLsbD])
  · exact offers_of_act (execCstk h o s) hg rfl rfl (by simp [hr, hi, Imm.bits12, Nat.shiftRight_eq_div_pow])

/-- The words of pages, sets, selections and plans. -/
theorem pagingAndSelectionWordsOfferCommands : Claim.PagingAndSelectionWordsOfferCommands := by
  intro s h o i hg hi
  have hr := cmdRegs_eq s.me h o
  have hb : o.imm.bits12 = i := by rw [hi]; rfl
  have hq : i.toNat % 64 = (i.extractLsb' 0 6).toNat := by simp
  have hn : i.toNat / 64 = (i.extractLsb' 6 6).toNat := by
    rw [BitVec.extractLsb'_toNat, Nat.shiftRight_eq_div_pow, Nat.mod_eq_of_lt (by omega)]
  dsimp only
  rw [← hq, ← hn]
  refine ⟨?_, ?_, ?_, ?_, ?_, ?_, ?_, ?_, ?_, ?_, ?_, ?_⟩
  · exact offers_of_act (execPgft h o s) hg rfl rfl (by simp [hr, hb, bitOf_getLsbD])
  · exact offers_of_act (execPreq h o s) hg rfl rfl (by rw [hb])
  · exact offers_of_act (execWbk h o s) hg rfl rfl (by rw [hb])
  · exact offers_of_act (execPmov h o s) hg rfl rfl (by rw [hr])
  · exact offers_of_act (execSset h o s) hg rfl rfl (by rw [hr])
  · exact offers_of_act (execSins h o s) hg rfl rfl (by rw [hr])
  · exact offers_of_act (execSage h o s) hg rfl rfl (by rw [hr, hb])
  · exact offers_of_act (execSdel h o s) hg rfl rfl (by rw [hr, hb])
  · exact offers_of_act (execSmig h o s) hg rfl rfl (by simp [hr, hb])
  · exact offers_of_act (execPgap h o s) hg rfl rfl (by rw [hr])
  · exact offers_of_act (execSsel h o s) hg rfl rfl (by rw [hr, hb]; rfl)
  · exact offers_of_act (execPlan h o s) hg rfl rfl (by rw [hr]; rfl)

/-- Settles O50: each word's meaning is one offer to its slot's channel, whose operands are the registers with their steps. -/
theorem engineWordsOfferCommands : Obligations.EngineWordsOfferCommands :=
  ⟨copyAndSyncWordsOfferCommands, pagingAndSelectionWordsOfferCommands⟩

/-! ### Channel operations without a queue (R348, R365, R381, R393) -/

section

variable {s : State} {h : CHead} {g : BitVec 5}

/-- An operation of a C slot with one effect on c + 1. -/
theorem act_push_cslot (hg : s.me.guard g = true) (e : Eff) :
    s.act g (fun c => c.push (cNum h.slot) 1 e) = .next (Claim.gives s [⟨Claim.cslot h, 1, e⟩]) := by
  rw [cNum_eq_cslot]; exact act_push hg _ 1 e

end

/-- Rows that leave scratch: the condition of `PUT` in the terms of its rows. -/
theorem rowsOut_iff (a b : Int) (n : Nat) :
    (decide (a < 0) || decide (b < 0) || decide (4096 < a + Int.ofNat n) || decide (4096 < b + Int.ofNat n)) = true ↔
      ¬ ((0 ≤ a ∧ a + n ≤ 4096) ∧ 0 ≤ b ∧ b + n ≤ 4096) := by
  simp only [Bool.or_eq_true, decide_eq_true_eq, Int.ofNat_eq_natCast]
  omega

/-- What the operations without a queue issue. -/
theorem channelOperationsWithoutAQueue : Claim.ChannelOperationsWithoutAQueue := by
  intro s h w q n slot ra srow drow n1 lrow lcol hg
  refine ⟨act_push_cslot hg _, act_push_cslot hg _, ?_, fun hfit => ?_, fun hout => ?_⟩
  · show execMapr h slot q n ra s = _
    rw [execMapr, act_true hg, cNum_eq_cslot]
    rfl
  · show execPut h srow drow n1 lrow lcol s = _
    rw [execPut, act_true hg]
    dsimp only
    rw [if_neg (fun hc => (rowsOut_iff (stepped srow.toNat h.st.a) (stepped drow.toNat h.st.b) _).1 hc hfit), cNum_eq_cslot]
    rfl
  · show execPut h srow drow n1 lrow lcol s = _
    rw [execPut, act_true hg]
    dsimp only
    rw [if_pos ((rowsOut_iff (stepped srow.toNat h.st.a) (stepped drow.toNat h.st.b) _).2 hout), cNum_eq_cslot]
    rfl

/-! ### Faults of flips (R250) -/

section

variable {c : Core} {p : Pend} {k q n : Nat}

/-- The first fault of a core's slot that is not routed to the stub. -/
theorem slotFault_first (hf : c.flt = none) {cause : Nat} (hs : stubCause cause = false) :
    c.slotFault p cause 0 = Claim.detected c p cause := by
  simp [Core.slotFault, Core.detect, Claim.detected, hf, hs]

/-! ### Owner states (R115 to R119) -/

theorem qSpan_in (h : q + n ≤ 64) : qSpan q n = some ((List.range n).map fun i => q + i) := by
  rw [qSpan, if_neg (by simp only [Bool.or_eq_true, decide_eq_true_eq, Int.ofNat_eq_natCast]; omega)]; rfl

theorem qSpan_out (h : 64 < q + n) : qSpan q n = none := by
  rw [qSpan, if_pos (by simp only [Bool.or_eq_true, decide_eq_true_eq, Int.ofNat_eq_natCast]; omega)]

/-- The quarters of a span. -/
theorem mem_span : k ∈ (List.range n).map (fun i => q + i) ↔ q ≤ k ∧ k < q + n := by
  simp only [List.mem_map, List.mem_range]
  constructor
  · rintro ⟨i, hi, rfl⟩; omega
  · exact fun h => ⟨k - q, by omega, by omega⟩

theorem owner_setOwn (c : Core) (w : Owner) (q n k : Nat) :
    (c.setOwn w q n).owner k = if q ≤ k ∧ k < q + n then w else c.owner k := by
  induction n generalizing c q with
  | zero => rw [if_neg (by omega)]; rfl
  | succ n ih =>
    rw [Core.setOwn, ih, Core.owner, Core.owner, Sparse.get_set]
    by_cases hk : k = q
    · rw [if_pos hk, if_pos (show q ≤ k ∧ k < q + (n + 1) by omega), ite_self]
    · have hin : (q + 1 ≤ k ∧ k < q + 1 + n) ↔ (q ≤ k ∧ k < q + (n + 1)) := by omega
      simp only [if_neg hk, hin]

theorem owner_returnQ (c : Core) (q k : Nat) : (c.returnQ q).owner k = if k = q then .core else c.owner k := by
  rw [Core.owner, Core.returnQ, Sparse.get_set]; rfl

theorem owner_foldl_returnQ (l : List Nat) (c : Core) (k : Nat) :
    (l.foldl Core.returnQ c).owner k = if k ∈ l then .core else c.owner k := by
  induction l generalizing c with
  | nil => rfl
  | cons q l ih =>
    rw [List.foldl_cons, ih, owner_returnQ]
    simp only [List.mem_cons]
    split_ifs <;> simp_all

theorem owner_giveGo (c : Core) (p : Pend) (w : Bool) (h : q + n ≤ 64)
    (ho : ∀ i, q ≤ i ∧ i < q + n → c.owner i = .core ∧ c.mapped i = false) :
    (c.giveGo p q n w).owner k = if q ≤ k ∧ k < q + n then .engine else c.owner k := by
  have hno : ((List.range n).map fun i => q + i).any (fun q => c.owner q != .core || c.mapped q) = false := by
    simp only [List.any_eq_false, mem_span]
    exact fun i hi => by simp [ho i hi]
  rw [Core.giveGo, qSpan_in h]
  dsimp only
  rw [hno, ← owner_setOwn c .engine]
  cases w <;> rfl

theorem giveGo_refused (w : Bool) (hf : c.flt = none) (h : q + n ≤ 64)
    (ho : ∃ i, (q ≤ i ∧ i < q + n) ∧ (c.owner i ≠ .core ∨ c.mapped i = true)) : c.giveGo p q n w = Claim.detected c p 0x10 := by
  obtain ⟨i, hi, ho⟩ := ho
  have hyes : ((List.range n).map fun i => q + i).any (fun q => c.owner q != .core || c.mapped q) = true :=
    List.any_eq_true.2 ⟨i, mem_span.2 hi, by simpa using ho⟩
  rw [Core.giveGo, qSpan_in h]
  dsimp only
  rw [if_pos hyes, slotFault_first hf rfl]

theorem owner_takeGo (c : Core) (p : Pend) (h : q + n ≤ 64)
    (ho : ∀ i, q ≤ i ∧ i < q + n → c.owner i ≠ .stat ∧ c.mapped i = false ∧ c.namesQ i = false) :
    (c.takeGo p q n).owner k = if q ≤ k ∧ k < q + n then .core else c.owner k := by
  have hno : ((List.range n).map fun i => q + i).any (fun q => c.owner q == .stat || c.namesQ q || c.mapped q) = false := by
    simp only [List.any_eq_false, mem_span]
    exact fun i hi => by simp [ho i hi]
  rw [Core.takeGo, qSpan_in h]
  dsimp only
  rw [hno, if_neg Bool.false_ne_true, owner_foldl_returnQ]
  simp only [mem_span]

theorem takeGo_refused (hf : c.flt = none) (h : q + n ≤ 64)
    (ho : ∃ i, (q ≤ i ∧ i < q + n) ∧ (c.owner i = .stat ∨ c.mapped i = true ∨ c.namesQ i = true)) :
    c.takeGo p q n = Claim.detected c p 0x10 := by
  obtain ⟨i, hi, ho⟩ := ho
  have hyes : ((List.range n).map fun i => q + i).any (fun q => c.owner q == .stat || c.namesQ q || c.mapped q) = true :=
    List.any_eq_true.2 ⟨i, mem_span.2 hi, by rcases ho with ho | ho | ho <;> simp [ho]⟩
  rw [Core.takeGo, qSpan_in h]
  dsimp only
  rw [if_pos hyes, slotFault_first hf rfl]

theorem flips_outside (w : Bool) (hf : c.flt = none) (h : 64 < q + n) :
    c.giveGo p q n w = Claim.detected c p 0x12 ∧ c.takeGo p q n = Claim.detected c p 0x12 := by
  rw [Core.giveGo, Core.takeGo, qSpan_out h]
  exact ⟨slotFault_first hf rfl, slotFault_first hf rfl⟩

end

/-- What the flips do to owner states. -/
theorem ownershipFlips : Claim.OwnershipFlips := by
  intro c p q n w hf
  refine ⟨fun h ho k => ?_, fun h ho => giveGo_refused w hf h ho, fun h ho k => ?_, fun h ho => takeGo_refused hf h ho,
    fun h => flips_outside w hf h⟩
  · rw [owner_giveGo c p w h ho]
    by_cases hk : q ≤ k ∧ k < q + n
    · exact .inl ⟨if_pos hk, hk⟩
    · exact .inr ⟨if_neg hk, hk⟩
  · rw [owner_takeGo c p h ho]
    by_cases hk : q ≤ k ∧ k < q + n
    · exact .inl ⟨if_pos hk, hk⟩
    · exact .inr ⟨if_neg hk, hk⟩

/-! ### Mappings (R176, R365) -/

section

variable {c : Core} {p : Pend} {slot q n : Nat} {va : W64} {m : MapSlot}

/-- Whether a mapped quarter may not be unbound: dirty, being filled or written back. -/
def Core.mapBusy (c : Core) (i : Nat) : Prop := c.mdirty.getLsbD i = true ∨ c.filling i = true ∨ c.backing i = true

/-- The bits outside a span of quarters. -/
def outsideSpan (q n : Nat) : W64 := BitVec.ofNat 64 (2 ^ 64 - 1 - (2 ^ n - 1) * 2 ^ q)

theorem getLsbD_and_outsideSpan (v : W64) {i : Nat} (h : q + n ≤ 64) (hi : i < 64) :
    (v &&& outsideSpan q n).getLsbD i = (v.getLsbD i && !decide (q ≤ i ∧ i < q + n)) := by
  have hx : (2 ^ n - 1) * 2 ^ q < 2 ^ 64 := by
    have h1 : (2 ^ n - 1) * 2 ^ q < 2 ^ n * 2 ^ q :=
      Nat.mul_lt_mul_of_pos_right (Nat.sub_lt (Nat.two_pow_pos n) Nat.one_pos) (Nat.two_pow_pos q)
    have h2 : 2 ^ n * 2 ^ q ≤ 2 ^ 64 := by rw [← Nat.pow_add]; exact Nat.pow_le_pow_right (by omega) (by omega)
    omega
  rw [outsideSpan, BitVec.getLsbD_and, BitVec.getLsbD_ofNat, Nat.sub_sub, Nat.add_comm 1, Nat.testBit_two_pow_sub_succ hx,
    Nat.testBit_mul_two_pow, Nat.testBit_two_pow_sub_one]
  congr 1
  simp only [hi, decide_true, Bool.true_and, ← Bool.decide_and]
  congr 2
  exact propext ⟨fun h => ⟨h.1, by omega⟩, fun h => ⟨h.1, by omega⟩⟩

/-- Unbinding a free slot does nothing. -/
theorem maprGo_free (ho : Sparse.get none c.maps slot = none) : c.maprGo p slot q 0 va = c := by
  rw [Core.maprGo, if_pos rfl, ho]

theorem mapBusy_iff (i : Nat) : (bitOf c.mdirty.toNat i || c.filling i || c.backing i) = true ↔ c.mapBusy i := by
  rw [bitOf_getLsbD, Core.mapBusy, Bool.or_eq_true, Bool.or_eq_true, or_assoc]

theorem maprGo_unbind_refused (hf : c.flt = none) (ho : Sparse.get none c.maps slot = some m)
    (hb : ∃ i, (m.q ≤ i ∧ i < m.q + m.n) ∧ c.mapBusy i) : c.maprGo p slot q 0 va = Claim.detected c p 0x10 := by
  obtain ⟨i, hi, hb⟩ := hb
  rw [Core.maprGo, if_pos rfl, ho]
  dsimp only
  rw [if_pos (List.any_eq_true.2 ⟨i, mem_span.2 hi, (mapBusy_iff i).2 hb⟩), slotFault_first hf rfl]

theorem maprGo_unbind (ho : Sparse.get none c.maps slot = some m) (hb : ∀ i, m.q ≤ i ∧ i < m.q + m.n → ¬ c.mapBusy i) :
    c.maprGo p slot q 0 va = { c with
      maps := Sparse.set none c.maps slot none
      mres := c.mres &&& outsideSpan m.q m.n
      mdirty := c.mdirty &&& outsideSpan m.q m.n } := by
  rw [Core.maprGo, if_pos rfl, ho]
  dsimp only
  rw [if_neg]
  · rfl
  · simp only [List.any_eq_true, mem_span, mapBusy_iff]
    rintro ⟨i, hi, h⟩
    exact hb i hi h

/-- The limits of a binding. -/
def mapLegal (c : Core) (slot q n : Nat) (va : W64) : Prop :=
  q + n ≤ 64 ∧ Sparse.get none c.maps slot = none ∧ va.toNat < 2 ^ 57 ∧ va.toNat % 4096 = 0

theorem mapLegal_iff : mapLegal c slot q n va ↔
    (decide (64 < q + n) || (Sparse.get none c.maps slot).isSome || decide (2 ^ 57 ≤ va.toNat) || va.toNat % 4096 != 0) = false := by
  simp [mapLegal, and_assoc]

theorem maprGo_illegal (hf : c.flt = none) (hn : 1 ≤ n) (hl : ¬ mapLegal c slot q n va) :
    c.maprGo p slot q n va = Claim.detected c p 0x12 := by
  rw [mapLegal_iff, Bool.not_eq_false] at hl
  rw [Core.maprGo, if_neg (by omega)]
  rw [if_pos hl, slotFault_first hf rfl]

theorem maprGo_refused (hf : c.flt = none) (hn : 1 ≤ n) (hl : mapLegal c slot q n va)
    (ho : ∃ i, (q ≤ i ∧ i < q + n) ∧ (c.owner i ≠ .core ∨ c.mapped i = true)) :
    c.maprGo p slot q n va = Claim.detected c p 0x10 := by
  obtain ⟨i, hi, ho⟩ := ho
  rw [mapLegal_iff] at hl
  rw [Core.maprGo, if_neg (by omega)]
  rw [hl, if_neg Bool.false_ne_true, if_pos, slotFault_first hf rfl]
  obtain ⟨j, hj, rfl⟩ := List.mem_map.1 (mem_span.2 hi)
  exact List.any_eq_true.2 ⟨j, hj, by simpa using ho⟩

theorem maprGo_bind (hn : 1 ≤ n) (hl : mapLegal c slot q n va)
    (ho : ∀ i, q ≤ i ∧ i < q + n → c.owner i = .core ∧ c.mapped i = false) :
    c.maprGo p slot q n va = { c with maps := Sparse.set none c.maps slot (some ⟨q, n, va⟩) } := by
  rw [mapLegal_iff] at hl
  rw [Core.maprGo, if_neg (by omega)]
  rw [hl, if_neg Bool.false_ne_true, if_neg]
  simp only [List.any_eq_true, List.mem_range]
  rintro ⟨j, hj, h⟩
  simp [ho (q + j) ⟨by omega, by omega⟩] at h

end

/-! ### Rows between cores (R138, R381) -/

section

variable {s : State} {k : Nat} {p : Pend}

/-- The reservation that a `PUT` of a core needs. -/
def Core.resvFor (c : Core) (p : Pend) (drow rows lrow lcol : Nat) : Resv :=
  ⟨c.grp, c.ldie, c.lrow, c.lcol, lrow, lcol, rows, drow, p.iss⟩

/-- The schedule of the core's instance holds a reservation. -/
def State.reserved (s : State) (k : Nat) (r : Resv) : Prop := ∃ x y, s.inst? (s.core k).inst = some x ∧ y ∈ x.sched ∧ y = r

theorem reserved_iff (drow rows lrow lcol : Nat) :
    (((s.inst? (s.core k).inst).map (·.sched)).getD []).any (fun r => r.grp == (s.core k).grp && r.ldie == (s.core k).ldie &&
      r.srow == (s.core k).lrow && r.scol == (s.core k).lcol && r.drow == lrow && r.dcol == lcol && r.n == rows && r.dfirst == drow &&
      r.cyc == p.iss) = true ↔ s.reserved k ((s.core k).resvFor p drow rows lrow lcol) := by
  rw [List.any_eq_true, State.reserved]
  cases s.inst? (s.core k).inst with
  | none => simp
  | some x =>
    simp only [Option.map_some, Option.getD_some, Core.resvFor, Bool.and_eq_true, beq_iff_eq, Option.some.injEq]
    constructor
    · rintro ⟨r, hr, h⟩
      refine ⟨x, r, rfl, hr, ?_⟩
      cases r
      simp_all
    · rintro ⟨_, r, rfl, hr, rfl⟩
      exact ⟨_, hr, by simp⟩

variable {srow drow rows lrow lcol : Nat}

theorem putGo_nowhere (hf : (s.core k).flt = none)
    (h : s.coreAt (s.core k).inst (s.core k).ldie lrow lcol = none ∨
      ∃ d, s.coreAt (s.core k).inst (s.core k).ldie lrow lcol = some d ∧ (sameGroup (s.core k) (s.core d) = false ∨ d = k)) :
    s.putGo k p srow drow rows lrow lcol = s.setCore k (Claim.detected (s.core k) p 0x12) := by
  rw [State.putGo]
  obtain h | ⟨d, h, hd⟩ := h
  · rw [h]; dsimp only; rw [slotFault_first hf rfl]
  · rw [h]; dsimp only
    rw [if_pos (by rcases hd with hd | hd <;> simp [hd]), slotFault_first hf rfl]

variable {d : Nat} (h : s.coreAt (s.core k).inst (s.core k).ldie lrow lcol = some d)
  (hg : sameGroup (s.core k) (s.core d) = true) (hd : d ≠ k)

include h hg hd

theorem putGo_unreserved (hf : (s.core k).flt = none) (hr : ¬ s.reserved k ((s.core k).resvFor p drow rows lrow lcol)) :
    s.putGo k p srow drow rows lrow lcol = s.setCore k (Claim.detected (s.core k) p 0x11) := by
  rw [← reserved_iff, Bool.not_eq_true] at hr
  rw [State.putGo]
  rw [h, hr]
  dsimp only
  rw [if_neg (by simp [hg, hd]), if_pos (show (!false) = true from rfl), slotFault_first hf rfl]

theorem putGo_reserved (hr : s.reserved k ((s.core k).resvFor p drow rows lrow lcol)) :
    s.putGo k p srow drow rows lrow lcol = s.setCore k { s.core k with
      pend := (s.core k).pend ++ (List.range rows).map (fun j =>
        { p with due := p.iss + 1 + j, eff := .putRead (srow + j) d (drow + j) (1 + 3 * hops k d) }) } := by
  rw [← reserved_iff] at hr
  rw [State.putGo]
  dsimp only
  rw [h, hr]
  dsimp only
  rw [if_neg (by simp [hg, hd]), if_neg (by simp)]
  rfl

end

section

variable {s : State} {k : Nat} {p : Pend}

/-- Without an error mark nothing is bad, and every read and every write of words leaves the marks as they are. -/
theorem readWords_noErrs (he : s.errs = []) (kind unit : Nat) (l : List Nat) : s.readWords kind unit l = (false, s) :=
  readWords_clean (by simp [he])

theorem badWords_noErrs (he : s.errs = []) (kind unit : Nat) (l : List Nat) : s.badWords kind unit l = [] := by
  simp [State.badWords, he]

theorem clearErr_noErrs (he : s.errs = []) (kind unit : Nat) (l : List Nat) : s.clearErr kind unit l = s := by
  cases s; cases he; rfl

/-- The first fault of a core. -/
theorem detect_first {c : Core} (hf : c.flt = none) (slot : Nat) (eng : Bool) (cause sub : Nat) (data : W64) (baddr depth : Nat)
    (issue : Bool) : c.detect slot eng cause sub data baddr depth issue = { c with flt := some ⟨c.cyc, c.cyc, cause, sub, slot, eng, data,
      baddr, false, if stubCause cause || c.exited then 0 else if eng then depth else 4, issue, none⟩ } := by
  simp only [Core.detect, hf]

/-- A row of a quarter that `PUT` may not read. -/
theorem putRead_refused {srow dst drow land : Nat} (he : p.eff = .putRead srow dst drow land)
    (ho : (s.core k).owner (srow / 64) = .engine ∨ (s.core k).owner (srow / 64) = .stat) :
    s.readGo k p = s.setCore k ((s.core k).slotFault p 0x10 (rowAddr k srow)) := by
  rw [State.readGo, he]
  rcases ho with ho | ho
  · simp only [ho]
    rfl
  · have hr : (s.core k).mayRead srow = false := by simp [Core.mayRead, ho]
    simp only [ho, State.rdScr, hr, Bool.not_false, if_true]

/-- A core slot reads a row of an unmapped quarter. -/
theorem rdScr_unmapped {r : Nat} (hx : s.errs = []) (ho : (s.core k).owner (r / 64) = .core ∨ (s.core k).owner (r / 64) = .sched)
    (hm : (s.core k).mapped (r / 64) = false) (words : List Nat) : s.rdScr k p r words = (some (rdRow s.mem k r), s) := by
  have hr : (s.core k).mayRead r = true := by rcases ho with ho | ho <;> simp [Core.mayRead, ho]
  simp [State.rdScr, hr, Core.absent, hm, readWords_noErrs hx]

/-- A row read by `PUT` is on its way to the other core. -/
theorem putRead_sent {srow dst drow land : Nat} (he : p.eff = .putRead srow dst drow land) (hx : s.errs = [])
    (ho : (s.core k).owner (srow / 64) = .core ∨ (s.core k).owner (srow / 64) = .sched)
    (hm : (s.core k).mapped (srow / 64) = false) :
    s.readGo k p = s.setCore dst { s.core dst with pend := (s.core dst).pend ++
      [⟨(s.core k).cyc + land, p.iss, 6, false, p.baddr, .putRow k drow (rdRow s.mem k srow) p.slot p.baddr⟩] } := by
  have hrd := rdScr_unmapped (p := p) hx ho hm (rowWords srow)
  rw [State.readGo, he]
  rcases ho with ho | ho
  · simp only [ho, hrd]
    rfl
  · simp only [ho, hrd]
    rfl

/-! ### Whole rows (R114, R264) -/

/-- A mask that selects all of some bytes writes them all. -/
theorem wrMasked_all (bs : List Byte) (m : List Host.Cell) (a n : Nat) (h : ∀ i < bs.length, bitOf n i = true) :
    wrMasked m a n bs = wrBytes m a bs := by
  induction bs generalizing m a n with
  | nil => rfl
  | cons b bs ih =>
    rw [wrMasked, if_pos (h 0 (Nat.zero_lt_succ _)), wrBytes, ih]
    intro i hi
    rw [bitOf, Nat.div_div_eq_div_mul, ← Nat.pow_succ']
    exact h (i + 1) (Nat.succ_lt_succ hi)

/-- A core slot writes a whole row of an unmapped quarter. -/
theorem wrScr_row {r : Nat} (hx : s.errs = []) (hw : (s.core k).mayWrite r = true) (hm : (s.core k).mapped (r / 64) = false) (v : Vec) :
    s.wrScr k p r v (2 ^ 64 - 1) = { s with mem := wrBytes s.mem (scrKey k (64 * r)) (leBytes 64 v.toNat) } := by
  have hp : partWords r (2 ^ 64 - 1) = [] := rfl
  have hb : wordBytes r [] = 0 := by
    simp only [wordBytes, List.contains_nil]
    rfl
  have hall : ∀ i < (leBytes 64 v.toNat).length, bitOf (2 ^ 64 - 1) i = true := by rw [length_leBytes]; decide
  rw [State.wrScr, if_neg (by decide), hw, if_neg (by decide)]
  dsimp only
  simp only [hp, badWords_noErrs hx, hb, hm, List.filter_nil, readWords_noErrs hx, List.isEmpty_nil, if_true, Nat.sub_zero,
    Nat.and_self, wrMasked_all _ _ _ _ hall, Bool.false_eq_true, if_false]
  refine clearErr_noErrs ?_ ..
  exact hx

/-- A row that comes to a SCHED quarter is written there. -/
theorem putRow_written {m0 : List Host.Cell} {src row slot at' : Nat} {v : Vec} (he : p.eff = .putRow src row v slot at')
    (hx : s.errs = []) (ho : (s.core k).owner (row / 64) = .sched) (hm : (s.core k).mapped (row / 64) = false) :
    s.writeGo m0 k p = { s with mem := wrBytes s.mem (scrKey k (64 * row)) (leBytes 64 v.toNat) } := by
  have hw : (s.core k).mayWrite row = true := by simp [Core.mayWrite, ho]
  rw [State.writeGo, he]
  dsimp only
  rw [if_pos ho, wrScr_row hx hw hm]

/-- One that comes to another quarter is discarded, with a fault of the core that sent it. -/
theorem putRow_refused {m0 : List Host.Cell} {src row slot at' : Nat} {v : Vec} (he : p.eff = .putRow src row v slot at')
    (ho : (s.core k).owner (row / 64) ≠ .sched) :
    s.writeGo m0 k p = s.setCore src ((s.core src).detect slot false 0x10 0 (rowAddr k row) at' 0 false) := by
  rw [State.writeGo, he]
  dsimp only
  rw [if_neg ho]
  rfl

theorem rdByte_row (m : List Host.Cell) (a b v : Nat) : rdByte (wrBytes m a (leBytes 64 v)) b =
    if a ≤ b ∧ b < a + 64 then (leBytes 64 v).getD (b - a) 0 else rdByte m b := by
  rw [rdByte_wrBytes]
  simp only [length_leBytes]
  split_ifs with h
  · rw [List.getD_eq_getElem]
  · rfl

end

/-- What mappings and transfers do when they perform. -/
theorem mappingsAndPutsPerform : Claim.MappingsAndPutsPerform := by
  intro s k p hf hx
  refine ⟨fun slot q n va => ⟨fun hn ho => ?_, fun m hn ho hm => ⟨fun hb => ?_, fun hb => ?_⟩, fun hn hl => ?_,
    fun hn hl => ⟨fun ho => ?_, fun ho => ?_⟩⟩, fun srow drow rows lrow lcol he => ?_,
    fun srow dst drow land he => ⟨fun ho => ?_, fun ho hm => ?_⟩, fun m0 src row v slot at' he => ⟨fun ho hm _ => ?_, fun ho hs => ?_⟩⟩
  · subst hn; exact maprGo_free ho
  · subst hn; exact maprGo_unbind_refused hf ho hb
  · subst hn
    rw [maprGo_unbind ho hb]
    exact ⟨rfl, fun j => Sparse.get_set none (s.core k).maps slot j none,
      fun i hi => ⟨getLsbD_and_outsideSpan _ hm hi, getLsbD_and_outsideSpan _ hm hi⟩⟩
  · exact maprGo_illegal hf hn hl
  · exact maprGo_refused hf hn hl ho
  · rw [maprGo_bind hn hl ho]
    exact ⟨rfl, fun j => Sparse.get_set none (s.core k).maps slot j (some ⟨q, n, va⟩)⟩
  · have ht : s.earlyGo k p = s.putGo k p srow drow rows lrow lcol := by rw [State.earlyGo, he]
    dsimp only
    rw [ht]
    exact ⟨putGo_nowhere hf, fun d h hg hd => ⟨putGo_unreserved h hg hd hf, putGo_reserved h hg hd⟩⟩
  · rw [putRead_refused he ho, Core.slotFault, detect_first hf]
    exact ⟨_, rfl, rfl, rfl, rfl, rfl, rfl⟩
  · exact putRead_sent he hx ho hm
  · rw [putRow_written he hx ho hm]
    exact ⟨rfl, fun a => rdByte_row ..⟩
  · rw [putRow_refused he ho, detect_first hs]
    exact ⟨_, rfl, rfl, rfl, rfl, rfl, rfl, rfl⟩

/-- Settles O48: every branch of a flip, a mapping and a transfer by its own lemma; the span of a flip decides what it changes. -/
theorem channelFlipsAndOwnership : Obligations.ChannelFlipsAndOwnership :=
  ⟨channelOperationsWithoutAQueue, ownershipFlips, mappingsAndPutsPerform⟩

/-! ### Channels of a core (R132) -/

section

variable (c : Core) (ch : Bool) (f : Chan → Chan)

theorem chan_eq : c.chan ch = Claim.chan c ch := by cases ch <;> rfl

theorem chan_onChan : Claim.chan (c.onChan ch f) ch = f (Claim.chan c ch) := by cases ch <;> rfl

/-- A change of one channel leaves the other. -/
theorem chan_onChan_other : Claim.chan (c.onChan ch f) (!ch) = Claim.chan c (!ch) := by cases ch <;> rfl

@[simp] theorem onChan_crgn : (c.onChan ch f).crgn = c.crgn := by cases ch <;> rfl

@[simp] theorem onChan_flt : (c.onChan ch f).flt = c.flt := by cases ch <;> rfl

end

/-! ### Acceptance (R132, R258) -/

section

variable {s : State} {k : Nat} {p : Pend} {ch : Bool} {m : Cmd}

/-- A command that a channel refuses with `TIMING` on task cycle `now`. -/
def Chan.tooLate (q : Chan) (now : Nat) (m : Cmd) : Prop :=
  8 ≤ q.cmds.length ∨ m.start ≤ now ∨ ∃ l, q.cmds.getLast? = some l ∧ m.start ≤ l.start

theorem timingRefusal_iff (q : Chan) (now : Nat) (m : Cmd) : q.timingRefusal now m = true ↔ q.tooLate now m := by
  rw [Chan.timingRefusal, Chan.tooLate, Bool.or_eq_true, Bool.or_eq_true, decide_eq_true_eq, decide_eq_true_eq, Nat.lt_succ_iff, or_assoc]
  rcases q.cmds.getLast? with - | l <;> simp

theorem refusal_tooLate (h : (Claim.chan (s.core k) ch).tooLate (s.core k).cyc m) : s.refusal k ch m = 0x11 := by
  rw [← timingRefusal_iff, ← chan_eq] at h
  rw [State.refusal, Core.refusal, if_pos h]; rfl

section

variable (h : ¬ (Claim.chan (s.core k) ch).tooLate (s.core k).cyc m)

include h

theorem refusal_owned (ho : (s.core k).ownRefusal m.kind = true) : s.refusal k ch m = 0x10 := by
  rw [← timingRefusal_iff, ← chan_eq] at h
  rw [State.refusal, Core.refusal, if_neg h, if_pos ho]; rfl

theorem refusal_operands (ho : (s.core k).ownRefusal m.kind = false)
    (hx : (s.core k).operandsOk m.kind = false ∨ s.xFar k m.kind = true) : s.refusal k ch m = 0x12 := by
  rw [← timingRefusal_iff, ← chan_eq] at h
  rw [State.refusal, Core.refusal, if_neg h, ho, if_neg Bool.false_ne_true]
  cases hop : (s.core k).operandsOk m.kind with
  | false => rfl
  | true => rw [if_pos rfl]; exact if_pos (hx.resolve_left (by simp [hop]))

theorem refusal_accepted (ho : (s.core k).ownRefusal m.kind = false) (hop : (s.core k).operandsOk m.kind = true)
    (hx : s.xFar k m.kind = false) : s.refusal k ch m = 0 := by
  rw [← timingRefusal_iff, ← chan_eq] at h
  rw [State.refusal, Core.refusal, if_neg h, ho, if_neg Bool.false_ne_true, if_pos hop]
  exact if_neg (by simp [hx])

end

/-- A destination in the current half is refused for its owner. -/
theorem ownRefusal_of_half {c : Core} {kind : CmdKind} (h : kind.halves c.id = some c.half) : c.ownRefusal kind = true := by
  simp [Core.ownRefusal, h]

/-- The fault of a refused command. -/
def refusalFlt (c : Core) (p : Pend) (m : Cmd) (cause : Nat) : Flt :=
  ⟨c.cyc, c.cyc, cause, 0, p.slot, true, 0, p.baddr, false, if stubCause cause || c.exited then 0 else m.depth, false, none⟩

/-- A refused command leaves a fault of the engine, and names. -/
theorem accept_refused (hf : (s.core k).flt = none) {cause : Nat} (h : s.refusal k ch m = cause) (h0 : cause ≠ 0) :
    s.accept k p ch m = s.setCore k { s.core k with
      flt := some (refusalFlt (s.core k) p m cause), crgn := ((s.core k).noteNames m.depth (m.names k)).crgn } := by
  rw [State.accept, h]
  dsimp only
  split
  · exact absurd rfl h0
  · rw [detect_first (c := (s.core k).noteNames m.depth (m.names k)) hf]; rfl

/-- An accepted command stands last in its queue, and names. -/
theorem accept_taken (h : s.refusal k ch m = 0) : s.accept k p ch m = { s with nuid := s.nuid + 1 }.setCore k
    (((s.core k).onChan ch fun q => { q with cmds := q.cmds ++ [{ m with uid := s.nuid + 1 }] }).noteNames m.depth (m.names k)) := by
  rw [State.accept, h]; rfl

@[simp] theorem accept_mem : (s.accept k p ch m).mem = s.mem := by
  rw [State.accept]; split <;> rfl

/-- Accepted or refused, a command has named its quarters. -/
theorem accept_crgn (hf : (s.core k).flt = none) :
    ((s.accept k p ch m).core k).crgn = ((s.core k).noteNames m.depth (m.names k)).crgn := by
  by_cases h : s.refusal k ch m = 0
  · rw [accept_taken h, core_setCore_self]
    simp [Core.noteNames]
  · rw [accept_refused hf rfl h, core_setCore_self]

/-- What naming adds: the quarters, to the region of their depth. -/
theorem noteNames_crgn {c : Core} {i : Nat} {r : Crgn} (depth : Nat) (qs : List Nat) (h : c.crgn[i]? = some r) :
    ∃ x, (c.noteNames depth qs).crgn[i]? = some x ∧ { x with named := r.named } = r ∧
      ∀ n, n ∈ x.named ↔ n ∈ r.named ∨ (i + depth = c.crgn.length ∧ n ∈ qs) := by
  refine ⟨_, by rw [Core.noteNames, List.getElem?_map, List.getElem?_zipIdx, h]; rfl, ?_⟩
  dsimp only
  rw [Nat.zero_add]
  split_ifs with hd
  · refine ⟨rfl, fun n => ?_⟩
    simp only [List.mem_append, List.mem_filter, Bool.not_eq_true', List.contains_eq_mem, decide_eq_false_iff_not, hd, true_and]
    exact ⟨fun h => h.imp_right And.left, fun h => (em (n ∈ r.named)).imp id fun hr => ⟨h.resolve_left hr, hr⟩⟩
  · exact ⟨rfl, fun n => by simp [hd]⟩

end

/-- Settles O11: the order in which a channel refuses decides the cause; names are noted whatever comes of the command. -/
theorem channelsAcceptInOrder : Obligations.ChannelsAcceptInOrder := by
  unfold Obligations.ChannelsAcceptInOrder
  intro s k p ch m hf
  refine ⟨accept_mem, fun i r hr => ?_, fun hl => ?_, fun hl hh => ?_, fun hl ho hx => ?_, fun hl ho hop hx => ?_⟩
  · rw [accept_crgn hf]
    exact noteNames_crgn _ _ hr
  · exact ⟨_, accept_refused hf (refusal_tooLate hl) (by decide), rfl, rfl, rfl, rfl⟩
  · exact ⟨_, accept_refused hf (refusal_owned hl (ownRefusal_of_half hh)) (by decide), rfl, rfl, rfl, rfl⟩
  · exact ⟨_, accept_refused hf (refusal_operands hl ho hx) (by decide), rfl, rfl, rfl, rfl⟩
  · rw [accept_taken (refusal_accepted hl ho hop hx), core_setCore_self]
    refine ⟨?_, ?_, ?_⟩
    · exact congrArg Chan.cmds (chan_onChan (s.core k) ch _)
    · simp [Core.noteNames, hf]
    · have := chan_onChan_other (s.core k) ch fun q => { q with cmds := q.cmds ++ [{ m with uid := s.nuid + 1 }] }
      cases ch <;> exact this

/-! ### Changes of a channel in the state -/

section

variable (s : State) (k : Nat) (ch : Bool) (q : Chan)

/-- A change of one channel of a core. -/
theorem onCore_onChan (f : Chan → Chan) :
    s.onCore k (fun c => c.onChan ch f) = Claim.chanSet s k ch (f (Claim.chan (s.core k) ch)) := by cases ch <;> rfl

theorem chanSet_core : (Claim.chanSet s k ch q).core k = (s.core k).onChan ch (fun _ => q) := by
  rw [Claim.chanSet, core_setCore_self]; cases ch <;> rfl

theorem chan_chanSet : Claim.chan ((Claim.chanSet s k ch q).core k) ch = q := by
  rw [chanSet_core, chan_onChan]

theorem chanSet_owed (j : Nat) : ((Claim.chanSet s k ch q).core j).owed = (s.core j).owed := by
  rw [Claim.chanSet]
  by_cases hj : j = k
  · subst hj; rw [core_setCore_self]; cases ch <;> rfl
  · rw [core_setCore_ne _ _ _ _ hj]

end

/-! ### The end of a command (R120, R135) -/

section

variable (s : State) (k : Nat) (ch : Bool) (m : Cmd)

/-- What a command leaves in the CRC register of its channel: the CRC of its bytes, or that of no bytes. -/
def Cmd.lastCrc (m : Cmd) : Nat :=
  match m.kind with
  | .cpy _ _ _ _ | .cpy2 _ _ _ _ _ | .cpyl _ _ _ _ | .preq _ _ | .wbk _ _ => Nat.xor m.crc 0xFFFFFFFF
  | _ => 0

/-- The state without a command that has ended, before the returns that it owes. -/
def State.closed (s : State) (k : Nat) (ch : Bool) (m : Cmd) : State :=
  Claim.chanSet (s.quit (s.whoOf k ch m)) k ch { Claim.chan (s.core k) ch with
    cmds := (Claim.chan (s.core k) ch).cmds.filter (fun x => x.uid != m.uid), crc := m.lastCrc }

/-- Cores owe the return of some quarters, numbered core × 64 + quarter (R120). -/
def State.owe (s : State) (qs : List Nat) : State :=
  qs.foldl (fun s q => s.onCore (q / 64) fun c =>
    { c with owed := if c.owed.contains (q % 64) then c.owed else c.owed ++ [q % 64] }) s

/-- The quarters of listed cores that a command names. -/
def State.listedNames (s : State) (k : Nat) (m : Cmd) : List Nat :=
  (m.names k).eraseDups.filter (fun q => (Sparse.find s.cores (q / 64)).isSome)

/-- The end of a command: it leaves its channel, and under `.RET` its quarters are owed. -/
theorem endCmd_eq : s.endCmd k ch m = if m.ret then (s.closed k ch m).owe (s.listedNames k m) else s.closed k ch m := by
  unfold State.endCmd State.closed Cmd.lastCrc
  dsimp only
  rw [onCore_onChan]
  cases m.kind <;> rfl

/-- What a core owes is all that changes in it. -/
theorem owe_core (l : List Nat) (k : Nat) : ∃ o, (s.owe l).core k = { s.core k with owed := o } ∧
    ∀ n < 64, n ∈ o ↔ n ∈ (s.core k).owed ∨ k * 64 + n ∈ l := by
  induction l generalizing s with
  | nil => exact ⟨(s.core k).owed, rfl, fun n _ => by simp⟩
  | cons q l ih =>
    obtain ⟨o, ho, hn⟩ := ih (s.onCore (q / 64) fun c =>
      { c with owed := if c.owed.contains (q % 64) then c.owed else c.owed ++ [q % 64] })
    by_cases hk : k = q / 64
    · subst hk
      rw [core_onCore_self] at ho hn
      refine ⟨o, ho, fun n h => (hn n h).trans ?_⟩
      have hq : q / 64 * 64 + n = q ↔ n = q % 64 := by omega
      rw [List.mem_cons, hq, ← or_assoc]
      refine or_congr_left ?_
      dsimp only
      split_ifs with hc
      · exact ⟨.inl, fun h => h.elim id fun h => by simpa [h] using hc⟩
      · rw [List.mem_append, List.mem_singleton]
    · rw [core_onCore_ne _ _ _ _ hk] at ho hn
      refine ⟨o, ho, fun n h => (hn n h).trans ?_⟩
      have hq : k * 64 + n ≠ q := by omega
      rw [List.mem_cons, or_iff_right hq]

theorem owe_mem (l : List Nat) : (s.owe l).mem = s.mem := by
  induction l generalizing s with
  | nil => rfl
  | cons q l ih => exact (ih _).trans rfl

theorem endCmd_mem : (s.endCmd k ch m).mem = s.mem := by
  rw [endCmd_eq]
  split_ifs
  · exact (owe_mem ..).trans rfl
  · rfl

/-- The end of a command leaves in its core the effects in flight and the other channel. -/
theorem endCmd_core : ∃ o, (s.endCmd k ch m).core k = { (s.closed k ch m).core k with owed := o } := by
  rw [endCmd_eq]
  split_ifs
  · obtain ⟨o, ho, -⟩ := owe_core (s.closed k ch m) (s.listedNames k m) k
    exact ⟨o, ho⟩
  · exact ⟨_, rfl⟩

end

/-! ### The start cycle (R121, R133, R363) -/

section

variable {s : State} {k : Nat} {ch : Bool} {m : Cmd} {cause : Nat}

/-- A command that starts from what it holds itself: neither a `PREQ` nor a `WBK`, whose mappings a start reads. -/
def CmdKind.plain (x : CmdKind) : Prop := ∀ q n, x ≠ .preq q n ∧ x ≠ .wbk q n

/-- What a channel delivers itself goes to no other engine, and is none that completes at its fault. -/
theorem other_of_copies {x : CmdKind} (h : Claim.copies x) : x.other = false ∧ x.reports = false := by
  obtain ⟨_, _, _, _, rfl⟩ | ⟨_, _, _, _, _, rfl⟩ | ⟨_, _, _, _, rfl⟩ | ⟨_, _, _, _, _, _, _, rfl⟩ | ⟨_, _, _, _, rfl⟩ | rfl := h <;>
    exact ⟨rfl, rfl⟩

theorem plain_of_starts {x : CmdKind} (h : Claim.copies x ∨ x.other = true) : x.plain := by
  rintro q n
  refine ⟨?_, ?_⟩ <;> rintro rfl <;> simp [Claim.copies, CmdKind.other, CmdKind.rows] at h

/-- The own quarters that a command names are ENGINE, or it goes into instruction scratch. -/
def Core.ownsNames (c : Core) (m : Cmd) : Prop :=
  (m.kind.half? c.id).isSome = true ∨ ∀ n ∈ m.names c.id, n / 64 = c.id → c.owner (n % 64) = .engine

theorem startOwned_iff {c : Core} (h : m.kind.plain) : c.startOwned m = true ↔ c.ownsNames m := by
  unfold Core.startOwned
  split
  · next hk => exact absurd hk (h _ _).1
  · next hk => exact absurd hk (h _ _).2
  · simp [Core.ownsNames, List.all_eq_true, imp_iff_not_or]

/-- The start of a plain command: it runs, with its rows counted. -/
theorem atStart_eq (c : Core) (h : m.kind.plain) (rows : Nat) : c.atStart ch m rows = c.onChan ch fun q => { q with
    cmds := q.cmds.map (fun x => if x.uid = m.uid then { x with phase := .running, n := rows } else x)
    last := some (m.start, rows) } := by
  unfold Core.atStart
  split
  · next hk => exact absurd hk (h _ _).2
  · have hc : c.mdirty &&& BitVec.ofNat 64 (2 ^ 64 - 1 - (List.map (2 ^ ·) ([] : List Nat)).sum) = c.mdirty := BitVec.and_allOnes
    dsimp only
    rw [hc]
    cases ch <;> rfl

/-- The last command of a channel has issued all its requests only after a command's start cycle. -/
def Chan.startsLate (q : Chan) (m : Cmd) : Prop := ∃ l, q.last = some l ∧ m.start < l.1 + l.2

theorem startFault_late {c : Core} (h : (Claim.chan c ch).startsLate m) : c.startFault ch m = 0x11 := by
  obtain ⟨l, hl, h⟩ := h
  rw [Core.startFault, chan_eq, hl]
  simp [h]

theorem startFault_notLate {c : Core} (h : ¬ (Claim.chan c ch).startsLate m) :
    c.startFault ch m = if c.startOwned m then 0 else 0x10 := by
  rw [Core.startFault, chan_eq]
  rw [Chan.startsLate] at h
  cases hl : (Claim.chan c ch).last with
  | none => simp
  | some l => simp [show ¬ m.start < l.1 + l.2 from fun hlt => h ⟨l, hl, hlt⟩]

/-- A command that fails on its start cycle, of those that leave without completing. -/
theorem startStop_silent (h : m.kind.reports = false) (hc : cause ≠ 0x20) :
    s.startStop k ch m cause = Claim.charged (Claim.chanSet s k ch { Claim.chan (s.core k) ch with
      cmds := (Claim.chan (s.core k) ch).cmds.filter (fun x => x.uid != m.uid) }) k ch m cause := by
  rw [State.startStop, h, State.cmdFault, accSub, if_neg hc]
  dsimp only
  rw [if_neg Bool.false_ne_true, onCore_onCore, Claim.charged, Claim.chanSet, setCore_setCore, core_setCore_self]
  cases ch <;> rfl

/-- The state with an engine fault of a command under way. -/
theorem cmdFault_eq (s : State) (k : Nat) (ch : Bool) (m : Cmd) {cause : Nat} (hc : cause ≠ 0x20) (d : W64) :
    s.cmdFault k ch m cause d = s.setCore k { s.core k with pend := (s.core k).pend ++
      [⟨(s.core k).cyc + 1, (s.core k).cyc, bif ch then 5 else 4, false, m.baddr, .engFault cause 0 d m.depth⟩] } := by
  rw [State.cmdFault, accSub, if_neg hc]
  cases ch <;> rfl

/-- A command of another engine moves no bytes of its own. -/
theorem lastCrc_of_other (h : m.kind.other = true) : m.lastCrc = 0 := by
  rw [Cmd.lastCrc]
  split
  case h_6 => rfl
  all_goals next hk => simp [hk, CmdKind.other, CmdKind.rows] at h

theorem chanSet_pend (s : State) (k : Nat) (ch : Bool) (q : Chan) : ((Claim.chanSet s k ch q).core k).pend = (s.core k).pend := by
  rw [chanSet_core]; cases ch <;> rfl

/-- What the end of a command leaves of its channel and of the effects in flight. -/
theorem endCmd_chan (s : State) (k : Nat) (ch : Bool) (m : Cmd) : Claim.chan ((s.endCmd k ch m).core k) ch =
    { Claim.chan (s.core k) ch with
      cmds := (Claim.chan (s.core k) ch).cmds.filter (fun x => x.uid != m.uid), crc := m.lastCrc } ∧
    ((s.endCmd k ch m).core k).pend = (s.core k).pend := by
  obtain ⟨o, ho⟩ := endCmd_core s k ch m
  rw [ho]
  exact ⟨chan_chanSet .., chanSet_pend ..⟩

/-- A command of another engine that fails on its start cycle: one of R363 completes, with the CRC of no bytes. -/
theorem startStop_other (ho : m.kind.other = true) (hc : cause ≠ 0x20) :
    (s.startStop k ch m cause).mem = s.mem ∧ Claim.chan ((s.startStop k ch m cause).core k) ch = { Claim.chan (s.core k) ch with
      cmds := (Claim.chan (s.core k) ch).cmds.filter (fun x => x.uid != m.uid)
      crc := if m.kind.reports then 0 else (Claim.chan (s.core k) ch).crc } ∧
    ((s.startStop k ch m cause).core k).pend = ((Claim.charged s k ch m cause).core k).pend := by
  cases hr : m.kind.reports with
  | false =>
    rw [startStop_silent hr hc, Claim.charged, Claim.charged, core_setCore_self, core_setCore_self, chanSet_core]
    exact ⟨rfl, chan_onChan .., by cases ch <;> rfl⟩
  | true =>
    obtain ⟨hchan, hpend⟩ := endCmd_chan (Claim.charged s k ch m cause) k ch m
    rw [State.startStop, hr, cmdFault_eq s k ch m hc]
    refine ⟨endCmd_mem .., hchan.trans ?_, hpend⟩
    rw [lastCrc_of_other ho, Claim.charged, core_setCore_self]
    cases ch <;> rfl

variable (hg : Claim.goes (s.core k))

include hg

theorem startCmd_eq (hm : (Claim.chan (s.core k) ch).cmds.find? (fun m => m.phase == .held) = some m) (ht : m.start ≤ (s.core k).cyc) :
    s.startCmd k ch = some (if (s.core k).startFault ch m = 0 then s.onCore k (fun c => c.atStart ch m (s.startRows k m))
      else s.startStop k ch m ((s.core k).startFault ch m)) := by
  obtain ⟨hrun, hfr, hst⟩ := hg
  rw [State.startCmd]
  rw [chan_eq, hm]
  dsimp only
  rw [hrun, hfr, hst, if_neg (by simpa using ht)]
  split
  · next h => rw [if_pos h]
  · next h => rw [if_neg h]

/-- With nothing to hand on, a start is what a channel does next. -/
theorem copyCommandStart_of_held (hh : (Claim.chan (s.core k) ch).handing = none)
    (hm : (Claim.chan (s.core k) ch).cmds.find? (fun m => m.phase == .held) = some m) (ht : m.start ≤ (s.core k).cyc) :
    exec (.copyCommandStart k ch) s = .next (if (s.core k).startFault ch m = 0 then s.onCore k (fun c => c.atStart ch m (s.startRows k m))
      else s.startStop k ch m ((s.core k).startFault ch m)) := by
  refine orSame_some ?_
  have hn : s.tryHand k ch = none := by
    rw [State.tryHand]
    rw [chan_eq, hh]
  rw [State.tryCmdStart, hn]
  exact startCmd_eq hg hm ht

end

/-! ### Commands that another engine takes (R198, R363) -/

section

variable {s : State} {k : Nat} {ch : Bool} {m : Cmd} {before after : List Cmd}

theorem find?_held (hb : ∀ x ∈ before, x.phase ≠ .held) (hm : m.phase = .held) :
    (before ++ m :: after).find? (fun x => x.phase == .held) = some m := by
  rw [List.find?_append, List.find?_eq_none.2 (by simpa using hb), List.find?_cons_of_pos (by simp [hm])]
  rfl

/-- Nothing is handed on while the running commands of a channel are its own. -/
theorem handing_none {q : Chan} (h : ∀ x ∈ q.cmds, x.phase = .running → Claim.copies x.kind) : q.handing = none := by
  rw [Chan.handing, List.find?_eq_none]
  intro x hx hc
  rw [Bool.and_eq_true, beq_iff_eq] at hc
  rw [(other_of_copies (h x hx hc.1)).1] at hc
  exact Bool.false_ne_true hc.2

/-- A set operation that no engine holds goes to the complex of its set's home. -/
theorem complexOf_home {die set : Nat} {e : SetEnt} (hn : s.dies.find? (fun d => d.2.setq.any (fun x => x.set == set)) = none)
    (he : s.setEnt die set = (.ok e, s)) (hd : s.diemask.getLsbD e.home = true) : s.complexOf die set = (.ok e.home, s) := by
  rw [State.complexOf, hn, he]
  simp [Acc.bind, State.reaches, hd]

theorem die_onDie (s : State) (d : Nat) (f : Die → Die) : (s.onDie d f).die d = f (s.die d) := by
  simp [State.die, State.onDie]

/-- A command as a complex holds it. -/
def State.setOp (s : State) (k : Nat) (ch : Bool) (m : Cmd) (set : Nat) : SetOp := ⟨k, ch, m.uid, set, (s.who k).asid, m.kind, []⟩

/-- A set operation of a running command, handed to the complex of a die. -/
def State.setHanded (s : State) (k : Nat) (ch : Bool) (m : Cmd) (die set : Nat) : State :=
  ((s.onDie die fun d => { d with setq := d.setq ++ [s.setOp k ch m set] }).onCore k fun c =>
    c.onCmd ch m.uid (fun x => { x with phase := .handed })).quit (s.whoOf k ch m)

theorem setHanded_setq (s : State) (k : Nat) (ch : Bool) (m : Cmd) (die set : Nat) :
    ((s.setHanded k ch m die set).die die).setq = (s.die die).setq ++ [s.setOp k ch m set] :=
  congrArg Die.setq (die_onDie s die fun d => { d with setq := d.setq ++ [s.setOp k ch m set] })

theorem setHanded_cmds (s : State) (k : Nat) (ch : Bool) (m : Cmd) (die set : Nat) :
    (Claim.chan ((s.setHanded k ch m die set).core k) ch).cmds =
      (Claim.chan (s.core k) ch).cmds.map (fun x => if x.uid = m.uid then { x with phase := .handed } else x) := by
  have h : (s.setHanded k ch m die set).core k = (s.core k).onCmd ch m.uid (fun x => { x with phase := .handed }) :=
    core_onCore_self (s.onDie die fun d => { d with setq := d.setq ++ [s.setOp k ch m set] }) k
      fun c => c.onCmd ch m.uid (fun x => { x with phase := .handed })
  rw [h, Core.onCmd, chan_onChan]

/-- The first command of a channel, when another engine is to take it, is handed on. -/
theorem copyCommandStart_of_handing {r : Acc Unit × State} {t : State} (hg : Claim.goes (s.core k))
    (hq : (Claim.chan (s.core k) ch).cmds = m :: after) (hm : m.phase = .running) (ho : m.kind.other = true)
    (hw : s.mustWait k ch m = false) (hr : s.handGo (s.whoOf k ch m) ch m = r) (ht : s.handEnd k ch m r = some t) :
    exec (.copyCommandStart k ch) s = .next t := by
  obtain ⟨hrun, hfr, hst⟩ := hg
  have hh : (Claim.chan (s.core k) ch).handing = some m := by
    rw [Chan.handing, hq, List.find?_cons_of_pos (by simp [hm, ho])]
  refine orSame_some ?_
  rw [State.tryCmdStart, State.tryHand]
  rw [chan_eq, hh]
  dsimp only
  rw [hrun, hfr, hst, hw, hr, ht]
  rfl

/-- A command handed on whose report is not due gives up its accesses. -/
theorem handEnd_ok {t : State} {u : Unit} (h : t.dueOf (s.whoOf k ch m) = none) :
    s.handEnd k ch m (.ok u, t) = some (t.quit (s.whoOf k ch m)) := by
  rw [State.handEnd]
  simp [h]

/-- A set operation by its set's number is handed to the set's home. -/
theorem handGo_setOp {set : W64} {e : SetEnt} (hrep : s.reports = [])
    (hn : s.dies.find? (fun d => d.2.setq.any (fun x => x.set == set.toNat)) = none)
    (he : s.setEnt (dieOf k) set.toNat = (.ok e, s)) (hd : s.diemask.getLsbD e.home = true)
    (hk : (∃ n, m.kind = .sage set n) ∨ (∃ r a, m.kind = .sdel set r a) ∨ ∃ n i, m.kind = .smig set n i) :
    s.handEnd k ch m (s.handGo (s.whoOf k ch m) ch m) = some (s.setHanded k ch m e.home set.toNat) := by
  have hdue : ∀ t : State, t.reports = s.reports → t.dueOf (s.whoOf k ch m) = none := fun t ht => by
    rw [State.dueOf, ht, hrep]; rfl
  have hgo : s.handGo (s.whoOf k ch m) ch m = s.arriveSet (s.whoOf k ch m) ch m set.toNat [] := by
    rw [State.handGo, hdue s rfl]
    rcases hk with ⟨n, hk⟩ | ⟨r, a, hk⟩ | ⟨n, i, hk⟩ <;> rw [hk]
  have hc : s.complexOf (s.whoOf k ch m).die set.toNat = (.ok e.home, s) := complexOf_home hn he hd
  rw [hgo, State.arriveSet, hc]
  exact handEnd_ok (hdue _ rfl)

end

/-- Commands start, fail or are handed on. -/
theorem commandsStartOnTheirCycle : Claim.CommandsStartOnTheirCycle := by
  intro s k ch m before after hg
  refine ⟨fun hq hb ha hm hkind ht => ?_, fun set e hq hm hw hn he hrep hd hk => ?_⟩
  · have hplain := plain_of_starts hkind
    have hhand : (Claim.chan (s.core k) ch).handing = none := by
      refine handing_none fun x hx hrun => ?_
      rw [hq, List.mem_append, List.mem_cons] at hx
      rcases hx with hx | rfl | hx
      · exact (hb x hx).2 hrun
      · rw [hm] at hrun; cases hrun
      · rw [ha x hx] at hrun; cases hrun
    have hheld : (Claim.chan (s.core k) ch).cmds.find? (fun m => m.phase == .held) = some m := by
      rw [hq]
      exact find?_held (fun x hx => (hb x hx).1) hm
    have hexec := copyCommandStart_of_held hg hhand hheld ht
    have hfails : ∀ cause, (s.core k).startFault ch m = cause → cause ≠ 0 →
        exec (.copyCommandStart k ch) s = .next (s.startStop k ch m cause) := by
      rintro _ rfl h0
      rw [hexec, if_neg h0]
    refine ⟨fun hp => ?_, fun hl ho => ?_, fun hl => ⟨fun hc => ?_, fun ho => ?_⟩, fun hl ho => ⟨fun hc => ?_, fun ho' => ?_⟩⟩
    · rw [State.startRows]
      split
      · next h => exact absurd h (hp _ _ _)
      · rfl
    · rw [hexec, startFault_notLate hl, if_pos ((startOwned_iff hplain).2 ho), if_pos rfl]
      simp only [atStart_eq _ hplain]
      rw [onCore_onChan]
    · rw [hfails _ (startFault_late hl) (by decide), startStop_silent (other_of_copies hc).2 (by decide)]
    · exact ⟨_, hfails _ (startFault_late hl) (by decide), startStop_other ho (by decide)⟩
    · rw [hfails 0x10 (by rw [startFault_notLate hl, if_neg (mt (startOwned_iff hplain).1 ho)]) (by decide),
        startStop_silent (other_of_copies hc).2 (by decide)]
    · exact ⟨_, hfails 0x10 (by rw [startFault_notLate hl, if_neg (mt (startOwned_iff hplain).1 ho)]) (by decide),
        startStop_other ho' (by decide)⟩
  · refine ⟨s.setHanded k ch m e.home set.toNat, ?_, rfl, setHanded_setq .., setHanded_cmds ..⟩
    have ho : m.kind.other = true := by rcases hk with ⟨n, hk⟩ | ⟨r, a, hk⟩ | ⟨n, i, hk⟩ <;> rw [hk] <;> rfl
    exact copyCommandStart_of_handing hg hq hm ho hw rfl (handGo_setOp hrep hn he hd hk)

/-! ### Rows (R134 to R137) -/

section

variable {s s1 : State} {k : Nat} {ch : Bool} {m : Cmd} {rest : List Cmd} {bs : List Byte}

/-- A row delivered: the command counts it, its CRC takes the bytes, and the write pointer goes up. -/
def Chan.delivered (q : Chan) (m : Cmd) (bs : List Byte) : Chan := { q with
  cmds := q.cmds.map (fun x => if x.uid = m.uid then { x with done := m.done + 1, crc := crcRun m.crc bs } else x)
  wp := (q.wp + 64) % 2 ^ 64 }

theorem rowDone_eq (c : Core) (h : ∀ q n, m.kind ≠ .preq q n) :
    c.rowDone ch m bs = c.onChan ch fun q => Chan.delivered q m bs := by
  unfold Core.rowDone
  split
  · next hk => exact absurd hk (h _ _)
  · cases ch <;> rfl

/-- A row of a `PREQ` does that too, and the last of a quarter makes it resident. -/
theorem rowDone_preq (c : Core) {q n : Nat} (h : m.kind = .preq q n) :
    Claim.chan (c.rowDone ch m bs) ch = Chan.delivered (Claim.chan c ch) m bs ∧ (c.rowDone ch m bs).mres =
      if m.done % 64 = 63 then c.mres ||| BitVec.ofNat 64 (2 ^ (q + m.done / 64)) else c.mres := by
  rw [Core.rowDone, h]
  dsimp only
  split_ifs <;> cases ch <;> exact ⟨rfl, rfl⟩

/-- The first of a channel's commands, when it delivers rows. -/
theorem delivering_head {q : Chan} (hq : q.cmds = m :: rest) (hr : m.kind.rows = true) : q.delivering = some m := by
  simp [Chan.delivering, hq, hr]

/-- The first command of a channel may deliver its next row. -/
structure RowDue (s : State) (k : Nat) (ch : Bool) (m : Cmd) (rest : List Cmd) : Prop where
  goes : Claim.goes (s.core k)
  head : (Claim.chan (s.core k) ch).cmds = m :: rest
  running : m.phase = .running
  left : m.done < m.n
  issued : m.start + m.done ≤ (s.core k).cyc
  free : s.mustWait k ch m = false

variable (h : RowDue s k ch m rest)

include h

theorem rowOpen_of_due : s.rowOpen k ch m = true := by
  obtain ⟨⟨hrun, hfr, hst⟩, -, hph, hn, hc, hw⟩ := h
  simp [State.rowOpen, hrun, hfr, hst, hph, hn, hc, hw]

variable (hr : m.kind.rows = true)

include hr

/-- A command whose rows need no list entry delivers one. -/
theorem rowDelivered_row (he : m.needsEnt k = none) (ho : s.oneRow (s.whoOf k ch m) ch m = (.ok bs, s1)) :
    exec (.rowDelivered k ch) s = .next ((s1.quit (s.whoOf k ch m)).onCore k fun c => c.rowDone ch m bs) := by
  refine orSame_some ?_
  rw [State.tryRow, chan_eq, delivering_head h.head hr]
  simp only [rowOpen_of_due h, he, ho, Bool.not_true, Bool.false_eq_true, if_false]

/-- One of a command that fills no quarter changes its channel alone. -/
theorem rowDelivered_plain (he : m.needsEnt k = none) (hp : ∀ q n, m.kind ≠ .preq q n)
    (ho : s.oneRow (s.whoOf k ch m) ch m = (.ok bs, s1)) : exec (.rowDelivered k ch) s =
      .next (Claim.chanSet (s1.quit (s.whoOf k ch m)) k ch (Chan.delivered (Claim.chan (s1.core k) ch) m bs)) := by
  rw [rowDelivered_row h hr he ho]
  simp only [rowDone_eq _ hp]
  rw [onCore_onChan]
  rfl

/-- A row that meets a fault stops its command. -/
theorem rowDelivered_fault (he : m.needsEnt k = none) {cause : Nat} {d : W64}
    (ho : s.oneRow (s.whoOf k ch m) ch m = (.err cause d, s1)) :
    exec (.rowDelivered k ch) s = .next ((s1.quit (s.whoOf k ch m)).stopCmd k ch m cause d) := by
  refine orSame_some ?_
  rw [State.tryRow, chan_eq, delivering_head h.head hr]
  simp only [rowOpen_of_due h, he, ho, Bool.not_true, Bool.false_eq_true, if_false]

/-- Before the rows of a list entry comes the entry. -/
theorem rowDelivered_entry {e : Nat × Option Opnd} (he : m.needsEnt k = some e)
    (ho : s.rdMaybe (s.whoOf k ch m) true e.2 8 = (.ok bs, s1)) :
    exec (.rowDelivered k ch) s = .next ((s1.quit (s.whoOf k ch m)).onCore k fun c => c.onCmd ch m.uid fun x =>
      { x with ent := some (e.1, BitVec.ofNat 64 (leNat bs)) }) := by
  refine orSame_some ?_
  rw [State.tryRow, chan_eq, delivering_head h.head hr]
  simp only [rowOpen_of_due h, he, State.loadEnt, ho, Bool.not_true, Bool.false_eq_true, if_false]
  exact congrArg some rfl

end

section

variable {s s1 s2 : State} {k : Nat} {ch : Bool} {m : Cmd} {bs : List Byte} {cause : Nat} {d : W64} {dst src : W64} {n : Nat} {o : Opnd}

/-- A command that stops at a row without a fault of translation, and is no write-back: it has no further rows. -/
theorem stopCmd_eq (h : ∀ q n, m.kind ≠ .wbk q n) (h1 : cause ≠ 0x20) (h2 : cause ≠ 0x21) : s.stopCmd k ch m cause d =
    (s.cmdFault k ch m cause d).onCore k fun c => c.onCmd ch m.uid fun x => { x with n := m.done } := by
  unfold State.stopCmd
  refine congrArg (State.onCore _ k) (funext fun c => ?_)
  simp only [h1, h2, decide_false, Bool.or_self, Bool.false_and, Bool.false_eq_true, if_false]

theorem stopCmd_core (h : ∀ q n, m.kind ≠ .wbk q n) (h1 : cause ≠ 0x20) (h2 : cause ≠ 0x21) :
    (s.stopCmd k ch m cause d).mem = s.mem ∧
    (Claim.chan ((s.stopCmd k ch m cause d).core k) ch).cmds =
      (Claim.chan (s.core k) ch).cmds.map (fun x => if x.uid = m.uid then { x with n := m.done } else x) ∧
    ((s.stopCmd k ch m cause d).core k).pend = (s.core k).pend ++ [⟨(s.core k).cyc + 1, (s.core k).cyc, bif ch then 5 else 4, false,
      m.baddr, .engFault cause 0 d m.depth⟩] := by
  rw [stopCmd_eq h h1 h2, cmdFault_eq s k ch m h1, core_onCore_self, core_setCore_self, Core.onCmd]
  exact ⟨rfl, by cases ch <;> rfl, by cases ch <;> rfl⟩

/-- The row of a copy is read at its source and written at its destination. -/
theorem copyRow_ok {w : Who} {r : Nat} (hb : s.rowRead w m r = (.ok bs, s1)) (ho : s1.rowDst w m r = some o)
    (hw : s1.wrOp w true o bs = (.ok (), s2)) : s.copyRow w m r = (.ok bs, s2) := by
  rw [State.copyRow, hb]
  simp only [Acc.bind, ho, hw]

theorem copyRow_err {w : Who} {r : Nat} (hb : s.rowRead w m r = (.err cause d, s1)) : s.copyRow w m r = (.err cause d, s1) := by
  rw [State.copyRow, hb]; rfl

end

/-- Rows are delivered in order. -/
theorem rowsAreDeliveredInOrder : Claim.RowsAreDeliveredInOrder := by
  intro s s1 s2 k ch m rest bs cause d hg hq hm hn hc hw
  have h : RowDue s k ch m rest := ⟨hg, hq, hm, hn, hc, hw⟩
  refine ⟨fun dst src n o hk ho => ⟨fun hr hwr => ?_, fun hr h1 h2 => ?_⟩, fun q n hk hr hwr => ?_, fun dst l p n hk hi hr => ?_,
    fun a v x gd op u e old hk ha => ?_, fun a v z old hk ha => ?_⟩
  · have hone : s.oneRow (s.whoOf k ch m) ch m = (.ok bs, s2) := by
      rw [State.oneRow, hk]
      refine copyRow_ok ?_ ?_ hwr
      · rw [State.rowRead, hk]; exact hr
      · rw [State.rowDst, hk]; exact ho
    exact rowDelivered_plain h (by rw [hk]; rfl) (by rw [Cmd.needsEnt, hk]) (by rw [hk]; nofun) hone
  · have hone : s.oneRow (s.whoOf k ch m) ch m = (.err cause d, s) := by
      rw [State.oneRow, hk]
      refine copyRow_err ?_
      rw [State.rowRead, hk]; exact hr
    obtain ⟨hmem, hcmds, hpend⟩ := stopCmd_core (s := s.quit (s.whoOf k ch m)) (k := k) (ch := ch) (d := d)
      (show ∀ q n, m.kind ≠ .wbk q n by rw [hk]; nofun) h1 h2
    exact ⟨_, rowDelivered_fault h (by rw [hk]; rfl) (by rw [Cmd.needsEnt, hk]) hone, hmem, hcmds.trans (congrArg _ hq), hpend⟩
  · have hone : s.oneRow (s.whoOf k ch m) ch m = (.ok bs, s2) := by
      rw [State.oneRow, hk]
      refine copyRow_ok ?_ ?_ hwr
      · rw [State.rowRead, hk]; exact hr
      · rw [State.rowDst, hk]; rfl
    refine ⟨_, rowDelivered_row h (by rw [hk]; rfl) (by rw [Cmd.needsEnt, hk]) hone, rfl, ?_⟩
    rw [core_onCore_self, chan_chanSet]
    exact rowDone_preq _ hk
  · have he : m.needsEnt k = some (m.done / p.toNat, opndAt k l (8 * (m.done / p.toNat))) := by
      rw [Cmd.needsEnt, hk]
      exact if_neg (by simpa using hi)
    rw [rowDelivered_entry h (by rw [hk]; rfl) he hr]
    simp only [Core.onCmd]
    rw [onCore_onChan]
    rfl
  · have hone : s.oneRow (s.whoOf k ch m) ch m = (.ok [], s1.regGo k (if ch then .h else .g) gd
        (BitVec.ofInt 64 (rdInt (if e then 64 else 32) (u || e) old))) := by
      rw [State.oneRow, hk]
      dsimp only
      rw [ha]
      rfl
    exact rowDelivered_plain h (by rw [hk]; rfl) (by rw [Cmd.needsEnt, hk]) (by rw [hk]; nofun) hone
  · have hone : s.oneRow (s.whoOf k ch m) ch m = (.ok [], s1) := by
      rw [State.oneRow, hk]
      dsimp only
      rw [ha]
      rfl
    exact rowDelivered_plain h (by rw [hk]; rfl) (by rw [Cmd.needsEnt, hk]) (by rw [hk]; nofun) hone

/-! ### Completion (R120, R135, R156) -/

section

variable {s : State} {k : Nat} {ch : Bool} {m : Cmd} {rest : List Cmd}

/-- The first command of a channel completes once it is done. -/
theorem copyCommandComplete_of_done (hrun : (s.core k).run = true) (hq : (Claim.chan (s.core k) ch).cmds = m :: rest)
    (hd : s.cmdDone k ch m = true) : exec (.copyCommandComplete k ch) s = .next (s.endCmd k ch m) := by
  refine orSame_some ?_
  rw [State.tryComplete, chan_eq, hq, List.find?_cons_of_pos hd]
  simp only [hrun, if_true]

/-- A command that delivers rows is done when all are delivered, and none of an earlier one is left. -/
theorem cmdDone_of_rows (hq : (Claim.chan (s.core k) ch).cmds = m :: rest) (hm : m.phase = .running) (hr : m.kind.rows = true)
    (hn : m.n ≤ m.done) : s.cmdDone k ch m = true := by
  simp [State.cmdDone, hm, hr, hn, chan_eq, delivering_head hq hr]

/-- A fence is done when everything before it has performed. -/
theorem cmdDone_of_fence (hm : m.phase = .running) (hk : m.kind = .fence) (hb : s.allBefore k m = true) : s.cmdDone k ch m = true := by
  simp [State.cmdDone, hm, hk, CmdKind.isFence, hb]

/-- The quarters that a command with `.RET` leaves owed: those it names, of every core that the module lists. -/
theorem endCmd_owed (hrun : (s.core k).run = true) (hret : m.ret = true) (j n : Nat) (hn : n < 64) :
    n ∈ ((s.endCmd k ch m).core j).owed ↔ n ∈ (s.core j).owed ∨
      (j * 64 + n ∈ m.names k ∧ (Sparse.find (s.closed k ch m).cores j).isSome = true) := by
  obtain ⟨o, ho, hmem⟩ := owe_core (s.closed k ch m) (s.listedNames k m) j
  have hk : (Sparse.find s.cores k).isSome = true := by
    cases hf : Sparse.find s.cores k with
    | none => rw [State.core, hf] at hrun; cases hrun
    | some c => rfl
  have hlist : (Sparse.find (s.closed k ch m).cores j).isSome = (Sparse.find s.cores j).isSome := by
    by_cases hj : j = k
    · subst hj; rw [hk]; simp [State.closed, Claim.chanSet]
    · simp [State.closed, Claim.chanSet, hj, quit_eq]
  have hj : (j * 64 + n) / 64 = j := by omega
  rw [endCmd_eq, if_pos hret, ho, hlist]
  refine (hmem n hn).trans ?_
  rw [State.closed, chanSet_owed, State.listedNames, List.mem_filter, List.mem_eraseDups, hj]
  rfl

end

/-- Commands complete. -/
theorem commandsComplete : Claim.CommandsComplete := by
  intro s k ch m rest hrun hq hm
  refine ⟨fun dst src n x hk hn => ?_, fun hk hret hb => ?_⟩
  · have hexec := copyCommandComplete_of_done hrun hq (cmdDone_of_rows hq hm (by rw [hk]; rfl) hn)
    have hcrc : m.lastCrc = Nat.xor m.crc 0xFFFFFFFF := by rw [Cmd.lastCrc, hk]
    dsimp only
    rw [← hcrc, ← hq]
    refine ⟨fun hret => ?_, fun hret => ⟨_, hexec, endCmd_mem .., ?_, endCmd_owed hrun hret⟩⟩
    · rw [hexec, endCmd_eq, if_neg (by simp [hret])]
      rfl
    · rw [(endCmd_chan s k ch m).1, chan_chanSet]
  · have hcrc : m.lastCrc = 0 := by rw [Cmd.lastCrc, hk]
    rw [← hcrc, ← hq, copyCommandComplete_of_done hrun hq (cmdDone_of_fence hm hk hb), endCmd_eq, if_neg (by simp [hret])]
    rfl

/-- Settles O52: what the first command of a channel does is the channel's only change, but for what its row writes and what
its end leaves owed. -/
theorem commandsStartDeliverAndComplete : Obligations.CommandsStartDeliverAndComplete :=
  ⟨commandsStartOnTheirCycle, rowsAreDeliveredInOrder, commandsComplete⟩

end Sys2Proof.Machine

/-! PROOFS of the statements of spec/07_translation.md: answers and invalidations of the host, moved pages, and collectives. -/

namespace Sys2Proof.Machine

/-! ### Ports and dies -/

section

variable (s : State) (p : Bool) (q x : Port)

theorem port_portSet : (Claim.portSet s p q).port p = q := port_onPort_self s p fun _ => q

theorem port_portSet_other : (Claim.portSet s p q).port (!p) = s.port (!p) := port_onPort_ne s (fun _ => q) (Bool.not_ne_self p)

theorem portSet_portSet : Claim.portSet (Claim.portSet s p q) p x = Claim.portSet s p x := by
  simp [Claim.portSet]

/-- A port changed again after it was replaced. -/
theorem onPort_portSet (f : Port → Port) : (Claim.portSet s p q).onPort p f = Claim.portSet s p (f q) := by
  rw [State.onPort, port_portSet]
  exact portSet_portSet ..

/-- A change of every die that leaves an empty one empty. -/
theorem die_map {s t : State} {f : Die → Die} (h : t.dies = s.dies.map fun e => (e.1, f e.2)) (hf : f Die.empty = Die.empty) (d : Nat) :
    t.die d = f (s.die d) := by
  have hm : Sparse.find t.dies d = (Sparse.find s.dies d).map f := h ▸ Sparse.find_map (fun _ => f) s.dies d
  rw [State.die, State.die, hm]
  cases Sparse.find s.dies d with
  | none => exact hf.symm
  | some x => rfl

end

/-! ### Grants (R169, R170) -/

/-- A page whose range and base allow a size of R170. -/
def pageFits (a : HostPage) (j : Nat) : Prop := j ≤ a.log2 ∧ a.va.toNat % 2 ^ j = 0 ∧ a.bus.toNat % 2 ^ j = 0

/-- A page whose range holds an address. -/
def pageCovers (a : HostPage) (va : Nat) : Prop := a.va.toNat ≤ va ∧ va < a.va.toNat + 2 ^ a.log2

/-- The part of a host page of one size that holds an address. -/
def pagePart (a : HostPage) (l va : Nat) : HostPage :=
  ⟨BitVec.ofNat 56 (va / 2 ^ l * 2 ^ l), a.bus + BitVec.ofNat 64 (va / 2 ^ l * 2 ^ l - a.va.toNat), l, a.w⟩

section

variable {a : HostPage} {va l : Nat}

/-- In a falling list, the first element that passes a test is the greatest that does. -/
theorem find?_greatest {t : Nat → Bool} {js : List Nat} (hs : js.Pairwise (· > ·)) (hl : l ∈ js) (ht : t l = true)
    (hm : ∀ j ∈ js, l < j → t j = false) : js.find? t = some l := by
  induction js with
  | nil => nomatch hl
  | cons j js ih =>
    obtain ⟨hj, hs⟩ := List.pairwise_cons.mp hs
    rcases List.mem_cons.mp hl with rfl | hl
    · exact List.find?_cons_of_pos ht
    · rw [List.find?_cons_of_neg (by rw [hm j List.mem_cons_self (hj l hl)]; exact Bool.false_ne_true)]
      exact ih hs hl fun i hi => hm i (List.mem_cons_of_mem _ hi)

theorem fitTest_iff {j : Nat} : (decide (j ≤ a.log2) && a.va.toNat % 2 ^ j == 0 && a.bus.toNat % 2 ^ j == 0) = true ↔ pageFits a j := by
  simp [pageFits, and_assoc]

/-- The sizes of R170, falling and rising. -/
theorem mem_sizes {j : Nat} : j ∈ [30, 26, 21, 16, 12] ↔ j ∈ [12, 16, 21, 26, 30] :=
  (List.reverse_perm [12, 16, 21, 26, 30]).mem_iff

/-- A grant is held at the largest size that fits. -/
theorem grantSize_greatest (hl : l ∈ [12, 16, 21, 26, 30]) (hf : pageFits a l)
    (hm : ∀ j ∈ [12, 16, 21, 26, 30], l < j → ¬ pageFits a j) : grantSize a = some l := by
  refine find?_greatest (by decide) (mem_sizes.2 hl) (fitTest_iff.2 hf) fun j hj hlt => ?_
  rw [Bool.eq_false_iff, Ne, fitTest_iff]
  exact hm j (mem_sizes.1 hj) hlt

theorem grantSize_of_fits (h : ∃ j ∈ [12, 16, 21, 26, 30], pageFits a j) : ∃ l, grantSize a = some l := by
  obtain ⟨j, hj, hf⟩ := h
  exact Option.isSome_iff_exists.1 (List.find?_isSome.2 ⟨j, mem_sizes.2 hj, fitTest_iff.2 hf⟩)

theorem grantAt_outside (h : ¬ pageCovers a va) : grantAt a va = none := by
  unfold grantAt
  split
  · rfl
  · exact if_neg (by simpa [pageCovers] using h)

theorem grantAt_inside (hs : grantSize a = some l) (h : pageCovers a va) : grantAt a va = some (pagePart a l va) := by
  rw [grantAt, hs]
  exact if_pos (by simpa [pageCovers] using h)

end

/-! ### Answers to a miss (R169) -/

section

variable {s : State} {p : Bool} {r : PReq} {a : HostPage} {ans : HostAns} {l : Nat}

/-- The requests of a port apart from one. -/
def Port.without (q : Port) (r : PReq) : List PReq := q.preqs.filter fun x => x.id != r.id

/-- An answer that makes a miss ask for its page: it is not present, or the host's page permits no write. -/
def asksPage (r : PReq) (ans : HostAns) : Prop :=
  ans = .absent ∨ ∃ a, ans = .grant a ∧ pageCovers a r.va ∧ (∃ j ∈ [12, 16, 21, 26, 30], pageFits a j) ∧ r.w = true ∧ a.w = false

theorem hostAnswer_asks (h : asksPage r ans) : s.hostAnswer p r ans = if r.stage = .asked then s.askPage p r else s := by
  rcases h with rfl | ⟨a, rfl, hc, hf, hr, hw⟩
  · simp only [State.hostAnswer, beq_iff_eq]
  · obtain ⟨l, hl⟩ := grantSize_of_fits hf
    simp only [State.hostAnswer, grantAt_inside hl hc, pagePart, hw, hr, beq_iff_eq, Bool.not_true, Bool.or_self, Bool.false_eq_true, if_false]

/-- A grant of another page is no answer. -/
theorem hostAnswer_outside (hc : ¬ pageCovers a r.va) : s.hostAnswer p r (.grant a) = s.missFails p r := by
  rw [State.hostAnswer, grantAt_outside hc]

/-- With fewer than 512 page requests outstanding, a miss sends its own. -/
theorem askPage_free (h : (s.port p).paging < 512) : s.askPage p r =
    { Claim.portSet s p { s.port p with
        preqs := (s.port p).preqs.map fun x => if x.id = r.id then { x with stage := .paging, tm := s.glob } else x } with
      out := s.out ++ [.pageReq p r.id (s.pasidOf r.asid) r.va r.w] } := by
  rw [State.askPage, if_pos h]
  rfl

/-- Else it waits for one to end. -/
theorem askPage_full (h : 512 ≤ (s.port p).paging) : s.askPage p r =
    Claim.portSet s p { s.port p with
      preqs := (s.port p).preqs.map fun x => if x.id = r.id then { x with stage := .queued } else x } := by
  rw [State.askPage, if_neg (Nat.not_lt.2 h)]
  rfl

section

variable (hq : ∀ x ∈ (s.port p).without r, x.stage ≠ .queued)

include hq

/-- A miss that is over, with no other waiting for an entry, leaves its port and nothing else. -/
theorem missOver_alone : s.missOver p r = Claim.portSet s p { s.port p with preqs := (s.port p).without r } := by
  have hn : ((s.port p).without r).find? (fun x => x.stage == .queued) = none :=
    List.find?_eq_none.2 fun x hx => by simpa using hq x hx
  have hp : (s.onPort p fun q => { q with preqs := q.preqs.filter fun x => x.id != r.id }).port p =
      { s.port p with preqs := (s.port p).without r } := port_onPort_self ..
  rw [State.missOver]
  simp only [hp, hn]
  rfl

/-- One that fails leaves a refusal as well. -/
theorem missFails_alone : s.missFails p r = Claim.portSet s p { s.port p with
    preqs := (s.port p).without r, refused := (s.port p).refused ++ [(r.die, r.asid, r.va)] } := by
  rw [State.missFails, missOver_alone hq, onPort_portSet]

/-- A grant that permits the access ends the miss, and the die that asked holds the part of the page at its size. -/
theorem hostAnswer_granted (hs : grantSize a = some l) (hc : pageCovers a r.va) (hw : r.w = true → a.w = true) :
    s.hostAnswer p r (.grant a) = State.holdGrant (Claim.portSet s p { s.port p with preqs := (s.port p).without r }) p r
      (pagePart a l r.va) := by
  have hok : ((pagePart a l r.va).w || !r.w) = true := by
    cases hr : r.w with
    | false => simp
    | true => simp [pagePart, hw hr]
  rw [State.hostAnswer, grantAt_inside hs hc]
  simp only [hok, if_true, missOver_alone hq]

end

section

variable (hr : (s.port p).preqs.find? (fun x => x.id == r.id) = some r)

include hr

theorem hostPageResponse_found (ho : s.atsOn p = true) (ans : HostAns) :
    exec (.hostPageResponse p r.id ans) s = .next (s.hostAnswer p r ans) := by
  change execHostPageResponse p r.id ans s = _
  simp only [execHostPageResponse, hr, ho, if_true]

theorem pageRequestTimeout_due (hp : r.stage = .paging) (ht : r.tm + 10 ^ 8 ≤ s.glob) :
    exec (.pageRequestTimeout p r.id) s = .next (s.missFails p r) := by
  refine orSame_some ?_
  simp only [State.tryPageTimeout, hr, hp, ht, decide_true, Bool.and_true, beq_self_eq_true, if_true]

end

end

/-! ### Invalidations (R170, R173) -/

section

variable {s t : State} {p : Bool} {d : Nat}

/-- Two ranges meet where they share an address. -/
theorem ranges_meet {a b m n : Nat} (hm : 0 < m) (hn : 0 < n) :
    (b < a + m ∧ a < b + n) ↔ ∃ x, (a ≤ x ∧ x < a + m) ∧ b ≤ x ∧ x < b + n := by
  refine ⟨fun h => ⟨max a b, ?_⟩, fun ⟨x, h⟩ => ?_⟩ <;> omega

theorem div_eq_iff_in_range {v x l : Nat} : v / 2 ^ l = x / 2 ^ l ↔ v / 2 ^ l * 2 ^ l ≤ x ∧ x < v / 2 ^ l * 2 ^ l + 2 ^ l := by
  rw [eq_comm, Nat.div_eq_iff (Nat.two_pow_pos l)]
  have := Nat.two_pow_pos l
  omega

theorem inRange_iff (pasid v l : Nat) (e : TlbEnt) : s.inRange pasid (v / 2 ^ l * 2 ^ l) (2 ^ l) e = true ↔
    s.pasidOf e.asid = pasid ∧ ∃ x, v / 2 ^ l = x / 2 ^ l ∧ e.va ≤ x ∧ x < e.va + 2 ^ e.log2 := by
  simp only [State.inRange, Bool.and_eq_true, beq_iff_eq, decide_eq_true_eq, and_assoc, div_eq_iff_in_range,
    ranges_meet (Nat.two_pow_pos l) (Nat.two_pow_pos e.log2)]

/-- The entries of a port that meet a test leave the TLB of each die, and nothing else of it. -/
theorem die_hostDrop {f : TlbEnt → Bool} (h : t.dies = (s.hostDrop p f).dies) (d : Nat) :
    { t.die d with tlb := (s.die d).tlb } = s.die d ∧
    ∀ e, e ∈ (t.die d).tlb ↔ e ∈ (s.die d).tlb ∧ ¬ ((∃ g, e.host = some (p, g)) ∧ f e = true) := by
  rw [die_map (f := fun x => { x with tlb := x.tlb.filter fun t => match t.host with
    | some g => !(g.1 == p && f t)
    | none => true }) h rfl]
  refine ⟨rfl, fun e => List.mem_filter.trans (and_congr_right fun _ => ?_)⟩
  cases he : e.host with
  | none => simp
  | some g => obtain ⟨b, g⟩ := g; simp [imp_iff_not_or]

/-- KIND of `TLBINV` (R173). -/
theorem invKind_eq (v : W64) : bitsOf v.toNat 62 61 = (v.extractLsb' 61 2).toNat := by
  simp [bitsOf, Nat.shiftRight_eq_div_pow]

/-- What `TLBINV` names (R173): the fields of the register. -/
theorem invHit_iff (e : TlbEnt) : s.invHit e = true ↔
    (s.tlbinv.extractLsb' 61 2).toNat = 0 ∨ (e.asid = (s.tlbinv.extractLsb' 0 14).toNat ∧
      ((s.tlbinv.extractLsb' 61 2).toNat = 1 ∨
        ((s.tlbinv.extractLsb' 61 2).toNat = 2 ∧ e.va = s.tlbiva.toNat / 2 ^ e.log2 * 2 ^ e.log2))) := by
  have ha : s.tlbinv.toNat % 2 ^ 14 = (s.tlbinv.extractLsb' 0 14).toNat := by simp
  have hlt : (s.tlbinv.extractLsb' 61 2).toNat < 4 := (s.tlbinv.extractLsb' 61 2).isLt
  unfold State.invHit
  rw [ha, invKind_eq]
  generalize (s.tlbinv.extractLsb' 61 2).toNat = kind at hlt
  obtain rfl | rfl | rfl | rfl : kind = 0 ∨ kind = 1 ∨ kind = 2 ∨ kind = 3 := by omega
  all_goals simp

/-- What an invalidation leaves of a die. -/
theorem die_invalidate (h : t.dies = s.invalidate.dies) (d : Nat) :
    { t.die d with tlb := (s.die d).tlb, walks := (s.die d).walks } = s.die d ∧
    (∀ e, e ∈ (t.die d).walks ↔ e ∈ (s.die d).walks ∧
      ¬ ((s.tlbinv.extractLsb' 61 2).toNat = 0 ∨ e.asid = (s.tlbinv.extractLsb' 0 14).toNat)) ∧
    ∀ e, e ∈ (t.die d).tlb ↔ e ∈ (s.die d).tlb ∧ ¬ (e.host = none ∧ s.invHit e = true) := by
  have h1 (d : Nat) : (s.tlbDrop s.invHit).die d =
      { s.die d with tlb := (s.die d).tlb.filter fun t => t.host.isSome || !s.invHit t } :=
    die_map (f := fun x => { x with tlb := x.tlb.filter fun t => t.host.isSome || !s.invHit t }) rfl rfl d
  rw [die_map (s := s.tlbDrop s.invHit) (f := fun x => { x with walks := x.walks.filter fun e =>
    !(bitsOf s.tlbinv.toNat 62 61 == 0 || e.asid == s.tlbinv.toNat % 2 ^ 14) }) h rfl, h1]
  refine ⟨rfl, fun e => List.mem_filter.trans (and_congr_right fun _ => ?_),
    fun e => List.mem_filter.trans (and_congr_right fun _ => ?_)⟩
  · rw [invKind_eq]; simp
  · cases e.host <;> simp

/-- A stack program that runs, or an access at a peer, is all that an invalidation waits for. -/
theorem invBusy_idle (hl : ∀ e ∈ s.lanes, e.2.phase = .idle) (hf : s.fab = []) : s.invBusy = false := by
  have hlanes (a : Nat → Bool) (f : Nat → Nat → Bool) : s.laneUses a f = false := by
    rw [State.laneUses, List.any_eq_false]
    intro e he
    simp [hl e he]
  simp only [State.invBusy, hlanes, hf, List.any_nil, Bool.or_self]

/-- A request of a port whose translations are on drops what it meets, and waits for its answer. -/
theorem hostInvalidationRequest_on (ho : s.atsOn p = true) (tag : Nat) (pasid : BitVec 20) (va : BitVec 56) (l : Nat) :
    exec (.hostInvalidationRequest p tag pasid va l) s =
      .next ((s.hostDrop p (s.inRange pasid.toNat (va.toNat / 2 ^ l * 2 ^ l) (2 ^ l))).onPort p fun q =>
        { q with inval := q.inval ++ [tag] }) := by
  change execHostInvalidationRequest p tag pasid va l s = _
  rw [execHostInvalidationRequest, if_pos ho]

theorem addressTranslationEnable_up (hp : s.reachable p = true) (en : Bool) : exec (.addressTranslationEnable p en) s =
    .next ((if en then s else s.atsStop p).onPort p fun q => { q with ats := en }) := by
  change execAddressTranslationEnable p en s = _
  rw [execAddressTranslationEnable, if_pos hp]

/-- Where the enables are cleared, no translation of the port stands. -/
theorem atsStop_off (s : State) (p : Bool) : (s.atsStop p).onPort p (fun q => { q with ats := false }) =
    Claim.portSet (s.hostDrop p fun _ => true) p { s.port p with ats := false, refused := [], preqs := [] } := by
  rw [State.atsStop]
  exact onPort_portSet ..

/-- GO of `TLBINV` cleared. -/
theorem tlbinv_withoutGo (v : W64) : BitVec.ofNat 64 (v.toNat % 2 ^ 63) = v &&& 0x7FFFFFFFFFFFFFFF#64 := by
  have hm : v.toNat % 2 ^ 63 < 2 ^ 64 := by omega
  apply BitVec.eq_of_toNat_eq
  rw [BitVec.toNat_ofNat, Nat.mod_eq_of_lt hm, BitVec.toNat_and]
  exact (Nat.and_two_pow_sub_one_eq_mod v.toNat 63).symm

end

/-- Settles O20: each answer and each invalidation by its own lemma; a port or the dies are all that changes. -/
theorem hostAnswersAndInvalidations : Obligations.HostAnswersAndInvalidations := by
  unfold Obligations.HostAnswersAndInvalidations
  intro s p r a tag pasid va l q without failed covers fits
  refine ⟨fun hr ho hq => ?_, fun ho => ?_, fun ht => ?_, fun hp => ⟨?_, ?_⟩, fun hgo => ⟨fun hb => ?_, fun hb => ?_⟩, fun hl hf => ?_⟩
  · have hfound := hostPageResponse_found hr ho
    refine ⟨?_, fun hc => ?_, fun hc hw hl hfit hmax => ?_, fun ans hans => ?_, fun hst => ?_, fun hst ht => ?_⟩
    · rw [hfound]; exact congrArg _ (missFails_alone hq)
    · rw [hfound, hostAnswer_outside hc]; exact congrArg _ (missFails_alone hq)
    · refine ⟨pagePart a l r.va, _, _, (hfound _).trans (congrArg _ (hostAnswer_granted hq (grantSize_greatest hl hfit hmax) hc hw)), rfl,
        rfl, rfl, rfl, rfl, rfl⟩
    · have ha : s.hostAnswer p r ans = if r.stage = .asked then s.askPage p r else s :=
        hostAnswer_asks (hans.imp_right fun ⟨h, hc, hfit, hr, hw⟩ => ⟨a, h, hc, hfit, hr, hw⟩)
      refine ⟨fun hst => ?_, fun hst hn => ?_, fun hst hn => ?_⟩
      · rw [hfound, ha, if_neg hst]
      · rw [hfound, ha, if_pos hst, askPage_free hn]
      · rw [hfound, ha, if_pos hst, askPage_full hn]
    · rw [hfound, State.hostAnswer, hst]; exact congrArg _ (missOver_alone hq)
    · rw [pageRequestTimeout_due hr hst ht]; exact congrArg _ (missFails_alone hq)
  · refine ⟨_, (hostInvalidationRequest_on ho ..).trans rfl, rfl, fun d => ?_⟩
    have hd := die_hostDrop (s := s) (p := p) (f := s.inRange pasid.toNat (va.toNat / 2 ^ l * 2 ^ l) (2 ^ l)) rfl d
    simp only [inRange_iff] at hd
    exact hd
  · refine orSame_some ?_
    rw [State.tryInvalDone, if_pos (List.contains_iff_mem.2 ht)]
    rfl
  · rw [addressTranslationEnable_up hp]; rfl
  · have hoff := (addressTranslationEnable_up hp false).trans (congrArg _ (atsStop_off s p))
    refine ⟨_, hoff, rfl, port_portSet .., port_portSet_other .., fun d => ?_⟩
    have hd := die_hostDrop (s := s) (p := p) (f := fun _ => true) rfl d
    simp only [and_true] at hd
    exact hd
  · refine congrArg Host.Outcome.next ?_
    rw [State.tryTlbInv, hb]
    simp
  · have htry : s.tryTlbInv = some { s.invalidate with tlbinv := s.tlbinv &&& 0x7FFFFFFFFFFFFFFF#64 } := by
      rw [State.tryTlbInv, bitOf_getLsbD, hgo, hb, ← tlbinv_withoutGo]
      rfl
    refine ⟨_, orSame_some htry, rfl, rfl, fun d => ?_⟩
    have hd := die_invalidate (s := s) rfl d
    simp only [invHit_iff] at hd
    exact hd
  · exact invBusy_idle hl hf

end Sys2Proof.Machine

namespace Sys2Proof.Machine

/-! ### What accesses of engines leave alone -/

section

variable {s t : State} {w : Who} {own : Bool} {k : Nat}

/-- The moves in progress, the accesses of peers that wait, and the agents of the cores. -/
def State.standing (s : State) : List Move × List (BitVec 7 × Flit) × (Nat → Who) := (s.moves, s.flits, s.who)

theorem standing_of_bared (h : t.bared = s.bared) : t.standing = s.standing :=
  (congrArg State.standing h : t.bared.standing = s.bared.standing)

theorem moves_of_standing (h : t.standing = s.standing) : t.moves = s.moves := congrArg Prod.fst h

theorem flits_of_standing (h : t.standing = s.standing) : t.flits = s.flits := congrArg (fun x => x.2.1) h

theorem who_of_standing (h : t.standing = s.standing) : t.who = s.who := congrArg (fun x => x.2.2) h

theorem standing_onCore {f : Core → Core} (hf : ∀ c, (f c).inst = c.inst) : (s.onCore k f).standing = s.standing := by
  have hi (j : Nat) : ((s.onCore k f).core j).inst = (s.core j).inst := by
    rcases eq_or_ne j k with rfl | hj
    · rw [core_onCore_self, hf]
    · rw [core_onCore_ne s k j f hj]
  have hw : (s.onCore k f).who = s.who := funext fun j => by
    rw [State.who, hi]
    rfl
  rw [State.standing, hw]
  rfl

theorem standing_onInst {i : Nat} {f : Inst → Inst} (hf : ∀ x, (f x).id = x.id ∧ (f x).l = x.l) : (s.onInst i f).standing = s.standing := by
  have hg (x : Inst) : (if x.id == i then f x else x).id = x.id ∧ (if x.id == i then f x else x).l = x.l := by
    split
    · exact hf x
    · exact ⟨rfl, rfl⟩
  have hi (j : Nat) : ((s.onInst i f).inst? j).map (·.l.asid) = (s.inst? j).map (·.l.asid) := by
    simp only [State.inst?, State.onInst, List.find?_map, Option.map_map, Function.comp_def, hg]
  have hw : (s.onInst i f).who = s.who := funext fun j =>
    congrArg (fun a : Option Nat => (⟨j, dieOf j, a.getD 0, 0, 2 * j⟩ : Who)) (hi (s.core j).inst)
  rw [State.standing, hw]
  rfl

theorem standing_foldl {α : Type} {f : State → α → State} (hf : ∀ t a, (f t a).standing = t.standing) (l : List α) (s : State) :
    (l.foldl f s).standing = s.standing := by
  induction l generalizing s with
  | nil => rfl
  | cons a l ih => exact (ih _).trans (hf s a)

theorem standing_bind {α β : Type} {r : Acc α × State} {f : α → State → Acc β × State} (h : r.2.standing = s.standing)
    (hf : ∀ a t, t.standing = s.standing → (f a t).2.standing = s.standing) : (Acc.bind r f).2.standing = s.standing := by
  rw [Acc.bind]
  split
  · exact hf _ _ h
  · exact h
  · exact h

/-! #### Errors of words (R140, R264, R265) -/

theorem standing_failing (s : State) (l : List Nat) : ({ s with failing := l } : State).standing = s.standing := rfl

theorem standing_repl (s : State) (v : Bool) : ({ s with repl := v } : State).standing = s.standing := rfl

theorem standing_failure (s : State) (cls idx : Nat) : (s.failure cls idx).standing = s.standing := by
  unfold State.failure
  extract_lets code s1
  have h1 : s1.standing = s.standing := (standing_of_bared (bared_eventAll ..)).trans (standing_failing s _)
  split
  · exact (standing_of_bared (bared_replace s1)).trans ((standing_repl s1 _).trans h1)
  · exact h1

theorem standing_bump (s : State) (cls idx : Nat) : (s.bump cls idx).standing = s.standing := by
  rw [State.bump, State.predict]
  split
  · exact (standing_failure ..).trans rfl
  · rfl

theorem standing_freeze (s : State) (k : Nat) : (s.freeze k).standing = s.standing := by
  unfold State.freeze
  extract_lets ks s1
  have h1 : s1.standing = s.standing := by
    refine standing_foldl (fun t j => standing_onCore fun c => ?_) ks s
    rfl
  split
  · refine (standing_onInst fun x => ?_).trans h1
    exact ⟨rfl, rfl⟩
  · exact h1

theorem standing_readWords (s : State) (kind unit : Nat) (l : List Nat) : (s.readWords kind unit l).2.standing = s.standing := by
  unfold State.readWords
  split
  · rfl
  · extract_lets ws
    split
    · exact standing_failure ..
    · exact (standing_foldl (fun _ _ => standing_bump ..) ws _).trans ((standing_freeze ..).trans rfl)

theorem standing_hbmCount (s : State) (gs : List Nat) : (s.hbmCount gs).standing = s.standing :=
  standing_foldl (fun t _ => (standing_bump ..).trans (rfl : (t.clearErr ..).standing = t.standing)) _ s

/-! #### Writes (R121, R142) -/

theorem standing_sramWrite (s : State) (kind phys idx : Nat) (key : Nat → Nat) (off : Nat) (bs : List Byte) :
    (s.sramWrite kind phys idx key off bs).2.standing = s.standing := by
  unfold State.sramWrite
  extract_lets part bad s1 s2 keep
  have h1 : s1.standing = s.standing := standing_readWords ..
  have h2 : s2.standing = s.standing := by
    rw [show s2 = if bad.isEmpty then s1 else (s1.readWords kind phys bad).2 from rfl]
    split
    · exact h1
    · exact (standing_readWords ..).trans h1
  exact h2

theorem standing_scrWrite (s : State) (w : Who) (phys off : Nat) (bs : List Byte) : (s.scrWrite w phys off bs).2.standing = s.standing := by
  unfold State.scrWrite
  split
  · rfl
  · have h1 := standing_sramWrite s 0 phys 0 (fun o => scrKey phys o) off bs
    split
    next bad s1 e =>
    rw [e] at h1
    extract_lets s2
    have h2 : s2.standing = s.standing := h1
    split
    · exact h2
    · refine (standing_onCore fun c => ?_).trans h2
      rw [Core.markRow]
      split <;> rfl

/-- The place of a scratch address is named first: the kernel is not to compute it. -/
theorem standing_engWrite (s : State) (w : Who) (own : Bool) (o : Opnd) (bs : List Byte) :
    (s.engWrite w own o bs).2.standing = s.standing := by
  obtain ⟨place, e⟩ : ∃ f, f = scratchAt := ⟨_, rfl⟩
  unfold State.engWrite
  rw [← e]
  split
  next => exact standing_of_bared (bared_writeVA ..)
  next h off =>
    split
    · rfl
    · have h1 := standing_sramWrite s 5 w.core (h.toNat * 2048) (fun o => iscKey w.core h o) off bs
      split
      next bad s1 e =>
      rw [e] at h1
      refine (standing_onCore fun c => ?_).trans h1
      cases h <;> rfl
  next phys off =>
    extract_lets a
    split
    · rfl
    · split
      · rfl
      · exact standing_scrWrite ..

theorem standing_engWriteN (s : State) (w : Who) (own : Bool) (o : Opnd) (n : Nat) (bs : List Byte) :
    (s.engWriteN w own o n bs).2.standing = s.standing := by
  induction n generalizing s o bs with
  | zero => rfl
  | succ n ih =>
    unfold State.engWriteN
    extract_lets off piece
    split
    · rfl
    · exact standing_bind (standing_engWrite ..) fun _ s1 h1 => (ih s1 ..).trans h1

/-- A write that performs leaves moves, waiting accesses and agents as they are. -/
theorem standing_wrOp {o : Opnd} {bs : List Byte} {r : Acc Unit} (h : s.wrOp w own o bs = (r, t)) : t.standing = s.standing := by
  have := standing_engWriteN s w own o (pieces bs.length) bs
  rw [State.wrOp] at h
  rwa [h] at this

end

/-! ### Bytes of a moved page (R379) -/

section

variable {m : List Host.Cell} {src dst len a : Nat}

/-- A key below the bound is unlisted. -/
theorem Sparse.find_below {α : Type} [DecidableEq α] {d : α} {m : Sparse α} {lo k : Nat} (h : Sparse.wfFrom d lo m = true) (hk : k < lo) :
    Sparse.find m k = none := by
  induction m generalizing lo with
  | nil => rfl
  | cons e m ih =>
    simp only [Sparse.wfFrom, Bool.and_eq_true, decide_eq_true_eq] at h
    obtain ⟨⟨hlo, -⟩, hm⟩ := h
    rw [Sparse.find, if_neg (by omega)]
    exact ih hm (by omega)

/-- Finding in a map of which some keys are left. -/
theorem Sparse.find_filter {α : Type} (m : Sparse α) (f : Nat → Bool) (k : Nat) :
    Sparse.find (m.filter fun e => f e.1) k = if f k then Sparse.find m k else none := by
  induction m with
  | nil => simp [Sparse.find]
  | cons e m ih =>
    rw [List.filter_cons]
    by_cases hk : e.1 = k
    · subst hk
      by_cases hf : f e.1 = true <;> simp [hf, Sparse.find, ih]
    · by_cases hf : f e.1 = true <;> simp [hf, Sparse.find, hk, ih]

/-- Listed bytes of a range, written at another: each reads at its new place, and every other byte as before. -/
theorem rdByte_foldl_moved {lo : Nat} {l : List Host.Cell} (h : Sparse.wfFrom memDefault lo l = true) (hl : ∀ e ∈ l, src ≤ e.1)
    (m : List Host.Cell) : rdByte (l.foldl (fun m e => wrByte m (dst + (e.1 - src)) e.2) m) a =
      if dst ≤ a then (Sparse.find l (src + (a - dst))).getD (rdByte m a) else rdByte m a := by
  induction l generalizing lo m with
  | nil => simp [Sparse.find]
  | cons e l ih =>
    simp only [Sparse.wfFrom, Bool.and_eq_true, decide_eq_true_eq] at h
    have he : src ≤ e.1 := hl e List.mem_cons_self
    rw [List.foldl_cons, ih h.2 (fun x hx => hl x (List.mem_cons_of_mem _ hx)), rdByte_wrByte, Sparse.find]
    split_ifs with hd ha hk hk
    · have hn : Sparse.find l (src + (a - dst)) = none := Sparse.find_below h.2 (by omega)
      rw [hn]; rfl
    · omega
    · omega
    · rfl
    · omega
    · rfl

theorem rdByte_memCopy (hm : memWf m = true) :
    rdByte (memCopy m src dst len) a = if dst ≤ a ∧ a < dst + len then rdByte m (src + (a - dst)) else rdByte m a := by
  have hin (k : Nat) : Sparse.find (m.filter fun e => src ≤ e.1 && e.1 < src + len) k =
      if src ≤ k ∧ k < src + len then Sparse.find m k else none := by
    simpa using Sparse.find_filter m (fun k => src ≤ k && k < src + len) k
  have hout : rdByte (m.filter fun e => !(dst ≤ e.1 && e.1 < dst + len)) a =
      if dst ≤ a ∧ a < dst + len then 0 else rdByte m a := by
    rw [rdByte, Sparse.get_filter memDefault m (fun k => !(dst ≤ k && k < dst + len)) a]
    by_cases h : dst ≤ a ∧ a < dst + len <;> simp [h, rdByte, memDefault]
  rw [memCopy, rdByte_foldl_moved (Sparse.wf_filter _ _ _ hm) (fun e he => by simp at he; exact he.2.1), hin, hout]
  by_cases h : dst ≤ a ∧ a < dst + len
  · rw [if_pos h, if_pos h, if_pos h.1, if_pos (by omega), rdByte, Sparse.get_eq]
    rfl
  · rw [if_neg h, if_neg h]
    split_ifs
    · omega
    · rfl
    · rfl

end

/-! ### Accesses that waited for a moved page (R163) -/

section

variable {s : State} {p : BitVec 7} {a : BitVec 41} {d : List Byte} {peer : BitVec 10} {tag old new len : Nat}
  (hf : s.flits = [(p, .write a d peer tag)]) (ha : old ≤ hbmKey a.toNat) (hb : hbmKey a.toNat < old + len)

include hf ha hb

/-- A write that waited goes on at the new home in this module's HBM. -/
theorem rehome_write_here : s.rehome old new 0 len =
    { s with flits := [(p, .write (BitVec.ofNat 41 (new + (hbmKey a.toNat - old))) d peer tag)] } := by
  simp [State.rehome, hf, Flit.range, Flit.moved, Nat.not_lt.2 ha, Nat.not_le.2 hb]

/-- At a new home in host memory it performs, and is acknowledged. -/
theorem rehome_write_host : s.rehome old new 2 len =
    { State.store { s with flits := [] } (new + (hbmKey a.toNat - old)) d with out := s.out ++ [.flitReply peer.toNat tag []] } := by
  simp [State.rehome, hf, Flit.range, State.serve, State.send, State.store, Nat.not_lt.2 ha, Nat.not_le.2 hb]

end

/-! ### The end of a move (R182, R379) -/

section

variable {s s1 s2 : State} {x : Move} {m : Cmd} {w : Who} {o : Opnd} {src dst t u : Nat}

theorem setMig_eq (s : State) (die entry : Nat) (on : Bool) : s.setMig die entry on = if s.reaches die (hbmDie entry) then
    s.store (hbmKey entry) (leBytes 8 (rdLE s.mem (hbmKey entry) 8 / 2 ^ 59 * 2 ^ 59 + (bif on then 1 else 0) * 2 ^ 58 +
      rdLE s.mem (hbmKey entry) 8 % 2 ^ 58)) else s := by
  cases on <;> rfl

/-- A page of this module goes to another home in it by a copy of its bytes. -/
theorem pageCopy_here (ht : t ≠ 1) (hu : u ≠ 1) (w : Who) (len : Nat) :
    s.pageCopy w src t dst u len = (.ok true, { s with mem := memCopy s.mem src dst len }) := by
  simp [State.pageCopy, Acc.bind, ht, hu]

theorem standing_pageCopy (s : State) (w : Who) (src t dst u len : Nat) : (s.pageCopy w src t dst u len).2.standing = s.standing := by
  unfold State.pageCopy
  extract_lets bytes
  have hb : bytes.2.standing = s.standing := by
    rw [show bytes = if t = 1 then s.peer w src (.read len) else (.ok [], s) from rfl]
    split
    · exact standing_of_bared (bared_peer ..)
    · rfl
  refine standing_bind hb fun bs s1 h1 => ?_
  split
  · exact h1
  · split
    · exact standing_bind ((standing_of_bared (bared_peer ..)).trans h1) fun _ _ h2 => h2
    · exact h1

/-- An agent that has ended has nothing more to end. -/
theorem quit_chanSet_quit (s : State) (w : Who) (k : Nat) (ch : Bool) (q : Chan) :
    (Claim.chanSet (s.quit w) k ch q).quit w = Claim.chanSet (s.quit w) k ch q := by
  simp [quit_eq, Claim.chanSet, State.setCore, State.core]

/-- The status word of a move that stops with `ADDRESS`. -/
theorem pmovWord_address : pmovWord 0x12 0 = leBytes 8 (0x12 * 2 ^ 56) := by simp [pmovWord]

section

variable {ch : Bool} {status : W64} (ho : opndOf w.core status = some o)

include ho

/-- The report of a move performs, and its command ends. -/
theorem pmovEnd_sound (h : s.wrOp w true o (leBytes 8 0) = (.ok (), s1)) :
    s.pmovEnd w ch m status none = (.ok (), s1.pmovDone w ch m none) := by
  refine reportEnd_ok (u := ()) ?_
  rw [State.statusAt, ho]
  exact h

theorem pmovEnd_fault {e : Nat × W64} (h : s.wrOp w true o (pmovWord e.1 e.2) = (.ok (), s1)) :
    s.pmovEnd w ch m status (some e) = (.ok (), s1.pmovDone w ch m (some (faultData (pmovWord e.1 e.2) e))) := by
  refine reportEnd_ok (u := ()) ?_
  rw [State.statusAt, ho]
  exact h

end

/-- A command with a status word that has met no fault ends, and so do the accesses of its agent. -/
theorem pmovDone_none {k : Nat} {ch : Bool} (hret : m.ret = false) (hk : ∃ v w z, m.kind = .pmov v w z) (hs : s1.who = s.who) :
    s1.pmovDone (s.whoOf k ch m) ch m none = Claim.ended s1 k ch m := by
  have hcrc : m.lastCrc = 0 := by
    obtain ⟨v, w, z, hk⟩ := hk
    rw [Cmd.lastCrc, hk]
  have hw : s.whoOf k ch m = s1.whoOf k ch m := by rw [State.whoOf, State.whoOf, hs]
  rw [hw, State.pmovDone, endCmd_eq, if_neg (by simp [hret])]
  refine (quit_chanSet_quit ..).trans ?_
  rw [hcrc]
  rfl

/-- One that has met a fault leaves its channel as well. -/
theorem pmovDone_fault (s : State) (w : Who) (ch : Bool) (e : Nat × W64) (hret : m.ret = false) :
    (s.pmovDone w ch m (some e)).mem = s.mem ∧ (s.pmovDone w ch m (some e)).moves = s.moves ∧
    ∀ y ∈ (Claim.chan ((s.pmovDone w ch m (some e)).core w.core) ch).cmds, y.uid ≠ m.uid := by
  refine ⟨endCmd_mem .., ?_, fun y hy => ?_⟩
  · rw [State.pmovDone, endCmd_eq, if_neg (by simp [hret])]
    rfl
  · have hcmds : (Claim.chan ((s.pmovDone w ch m (some e)).core w.core) ch).cmds = _ :=
      congrArg Chan.cmds (endCmd_chan (s.cmdFault w.core ch m e.1 e.2) w.core ch m).1
    rw [hcmds] at hy
    simpa using (List.mem_filter.1 hy).2

/-! #### The leaves of a move, rewritten -/

theorem flits_store (s : State) (key : Nat) (bs : List Byte) : (s.store key bs).flits = s.flits := rfl

theorem moves_store (s : State) (key : Nat) (bs : List Byte) : (s.store key bs).moves = s.moves := rfl

theorem who_store (s : State) (key : Nat) (bs : List Byte) : (s.store key bs).who = s.who := rfl

theorem flits_leaving (s : State) (l : List Move) (f : TlbEnt → Bool) : (State.tlbDrop { s with moves := l } f).flits = s.flits := rfl

theorem who_leaving (s : State) (l : List Move) (f : TlbEnt → Bool) : (State.tlbDrop { s with moves := l } f).who = s.who := rfl

theorem flits_moveMap (s : State) (x : Move) (a b : Nat) : (s.moveMap x a b).flits = s.flits := by
  rw [State.moveMap, flits_leaving, flits_store, flits_store]

theorem who_moveMap (s : State) (x : Move) (a b : Nat) : (s.moveMap x a b).who = s.who := by
  rw [State.moveMap, who_leaving, who_store, who_store]

/-- The leaf words that a move leaves: each home under the other's leaf, the spare one invalid. -/
def State.exchanged (s : State) (x : Move) (a b : Nat) : State :=
  (s.store (hbmKey x.leafAt) (leBytes 8 (a / 2 ^ 59 * 2 ^ 59 + b % 2 ^ 58 / 2 ^ 16 * 2 ^ 16 + a % 2 ^ 16))).store (hbmKey x.spareAt)
    (leBytes 8 (b / 2 ^ 59 * 2 ^ 59 % 2 ^ 63 + a % 2 ^ 58 / 2 ^ 16 * 2 ^ 16 + b % 2 ^ 16))

theorem moveMap_only (hx : s.moves = [x]) (a b : Nat) : s.moveMap x a b =
    State.tlbDrop { s.exchanged x a b with moves := [] } fun t => t.entry == x.leafAt || t.entry == x.spareAt := by
  have hm : (s.exchanged x a b).moves.filter (fun y => y.uid != x.uid) = [] := by
    rw [State.exchanged, moves_store, moves_store, hx]
    simp
  rw [← hm]
  rfl

/-- Both leaves within reach, both homes named and the page sound: the move ends at its copy. -/
theorem pmovGo_copied (h1 : s.reaches w.die (hbmDie x.leafAt) = true) (h2 : s.reaches w.die (hbmDie x.spareAt) = true)
    (hsrc : s.pageHome w.die (rdLE s.mem (hbmKey x.leafAt) 8) x.log2 = .ok src t)
    (hdst : s.pageHome w.die (rdLE s.mem (hbmKey x.spareAt) 8) x.log2 = .ok dst u) (herr : s.errsIn t src (2 ^ x.log2) true = [])
    (hf : s.flits = []) (hc : s.pageCopy w src t dst u (2 ^ x.log2) = (.ok true, s1)) :
    s.pmovGo w m x = ((s1.hbmCount (s1.errsIn t src (2 ^ x.log2) false)).moveMap x (rdLE s.mem (hbmKey x.leafAt) 8)
      (rdLE s.mem (hbmKey x.spareAt) 8)).pmovEnd w x.chan m x.status none := by
  have hs1 : s1.standing = s.standing := by rw [← standing_pageCopy s w src t dst u, hc]
  have hn (a b : Nat) : ((s1.hbmCount (s1.errsIn t src (2 ^ x.log2) false)).moveMap x a b).flits = [] :=
    (flits_moveMap ..).trans ((flits_of_standing ((standing_hbmCount ..).trans hs1)).trans hf)
  simp only [State.pmovGo, h1, h2, hsrc, hdst, herr, hc, Acc.bind, rehome_nil (hn _ _), ite_self, Bool.not_true, Bool.or_self,
    Bool.false_eq_true, if_false, if_true]

/-- A leaf out of reach stops the move with `ADDRESS`. -/
theorem pmovGo_lost (h : s.reaches w.die (hbmDie x.leafAt) = false ∨ s.reaches w.die (hbmDie x.spareAt) = false) :
    s.pmovGo w m x = (s.moveOff x).pmovEnd w x.chan m x.status (some (0x12, 0)) := by
  have hr : (!s.reaches w.die (hbmDie x.leafAt) || !s.reaches w.die (hbmDie x.spareAt)) = true := by
    rcases h with h | h <;> simp [h]
  unfold State.pmovGo
  extract_lets a b fail
  rw [if_pos hr]
  rfl

section

variable (hx : s.moves = [x])

include hx

theorem moveOff_only : s.moveOff x =
    { (s.setMig (dieOf x.core) x.leafAt false).setMig (dieOf x.core) x.spareAt false with moves := [] } := by
  simp [State.moveOff, hx]

/-- The only move, whose command its core no longer holds, leaves both leaves free for use. -/
theorem pmovComplete_cancelled (hm : (Claim.chan (s.core x.core) x.chan).cmds.find? (fun m => m.uid == x.uid) = none) :
    exec (.pmovComplete x.core x.chan) s = .next (s.moveOff x) := by
  refine orSame_some ?_
  simp [State.tryPmov, hx, chan_eq, hm]

/-- The only move takes its step. -/
theorem pmovComplete_goes (hm : (Claim.chan (s.core x.core) x.chan).cmds.find? (fun m => m.uid == x.uid) = some m)
    (h : s.pmovGo (s.whoOf x.core x.chan m) m x = (.ok (), s1)) : exec (.pmovComplete x.core x.chan) s = .next s1 := by
  refine orSame_some ?_
  simp [State.tryPmov, hx, chan_eq, hm, h]

end

end

/-- Moves end at the new home. -/
theorem movesEndAtTheNewHome : Claim.MovesEndAtTheNewHome := by
  refine ⟨fun m src dst len a hm _ => rdByte_memCopy hm, fun s p a d peer tag old new len hf ha hb => ?_, ?_⟩
  · exact ⟨rehome_write_here hf ha hb, rehome_write_host hf ha hb⟩
  rintro s s1 s2 _ _ x hx rfl rfl
  refine ⟨fun hm => ?_, setMig_eq s _, fun m src dst t u hm hret hk => ?_, fun m hm hret hk _ hr => ?_⟩
  · rw [pmovComplete_cancelled hx hm, moveOff_only hx]
  · intro a b home w len hsrc hdst herr _ hf h1 h2
    refine ⟨fun ht hu => pageCopy_here ht hu w len, fun hc hx1 => ?_⟩
    intro z o ho hw
    have hgo := pmovGo_copied (m := m) h1 h2 hsrc hdst herr hf hc
    have hcopy : (s1.hbmCount (s1.errsIn t src len false)).standing = s1.standing := standing_hbmCount ..
    have hs1 : s1.standing = s.standing := by rw [← standing_pageCopy s w src t dst u, hc]
    have hmap := moveMap_only ((moves_of_standing hcopy).trans hx1) a b
    have hwr : ((s1.hbmCount (s1.errsIn t src len false)).moveMap x a b).wrOp w true o (leBytes 8 0) = (.ok (), s2) := by
      rw [hmap]
      exact hw
    have hwho : s2.who = s.who := (who_of_standing (standing_wrOp hwr)).trans
      ((who_moveMap ..).trans (who_of_standing (hcopy.trans hs1)))
    rw [pmovEnd_sound ho hwr, pmovDone_none hret hk hwho] at hgo
    exact pmovComplete_goes hx hm hgo
  · intro z o ho hw
    have hgo := pmovGo_lost (m := m) (w := s.whoOf x.core x.chan m) hr
    rw [← pmovWord_address] at hw
    rw [moveOff_only hx, pmovEnd_fault (e := (0x12, 0)) ho hw] at hgo
    obtain ⟨hmem, hmoves, hcmds⟩ := pmovDone_fault s2 (s.whoOf x.core x.chan m) x.chan _ hret
    have hu : m.uid = x.uid := by simpa using List.find?_some hm
    exact ⟨_, pmovComplete_goes hx hm hgo, hmem, hmoves, List.find?_eq_none.2 fun y hy => by simpa [hu] using hcmds y hy⟩

end Sys2Proof.Machine

namespace Sys2Proof.Machine

/-! ### A collective of one rank (R285, R328) -/

/-- The oldest collective of an engine, of a team of one rank that is this engine. -/
structure Coll.Alone (s : State) (die eng : Nat) (x : Coll) : Prop where
  queue : s.collQ die eng = [x]
  quiet : s.reports = []
  one : x.nrank = 1
  team : x.ranks = [(s.mymod, die, eng)]
  mine : x.myrank = 0
  root : x.root = 0
  fmt : x.fmt = 0
  some : 0 < x.count
  op : x.op ≤ 3

section

variable {s s1 s2 s3 : State} {die eng : Nat} {x : Coll} {b : List Byte} {o r st : Opnd}

section

variable (h : Coll.Alone s die eng x)

include h

theorem rankFirst_alone : s.rankFirst x 0 = some x := by
  simp [State.rankFirst, h.team, h.queue, Coll.sameTeam, h.mine]

theorem rankHere_alone : s.rankHere x 0 = some x := by
  rw [State.rankHere, State.collNth, h.mine, if_pos rfl, rankFirst_alone h]

theorem farRanks_alone : s.farRanks x = [] := by simp [State.farRanks, h.one, h.team]

theorem nearRanks_alone : s.nearRanks x = [0] := by simp [State.nearRanks, h.one, h.team]

/-- Nothing that it needs lies on another die. -/
theorem collReach_alone : s.collReach x = true := by
  simp [State.collReach, State.nearDies, farRanks_alone h, nearRanks_alone h, h.team, State.reaches, List.eraseDups_cons]

theorem sendN_alone : x.sendN = x.count := by
  have := h.op
  unfold Coll.sendN
  split
  · rw [h.one, Nat.one_mul]
  · rw [if_pos (h.mine.trans h.root.symm)]
  · rfl

theorem contrib_alone (ho : opndOf x.who.core x.send = some o) (hb : s.rdOp x.who true o (4 * x.count) = (.ok b, s1)) :
    s.contrib x = (.ok b, s1) := by
  have h0 : x.count ≠ 0 := Nat.ne_of_gt h.some
  have hsz : collSz x.fmt = 4 := by rw [h.fmt]; rfl
  rw [State.contrib, sendN_alone h, if_neg h0, ho, hsz]
  exact hb

theorem collGather_alone (hc : s.contrib x = (.ok b, s1)) : State.collGather x [0] s = (.ok [(x.header, b)], s1, none) := by
  simp only [State.collGather, rankHere_alone h, hc]

/-- With its own contribution read, its result is written and its report is due. -/
theorem collGo_alone (hc : s.contrib x = (.ok b, s1)) : s.collGo die eng x = State.collWrite [b] [x] s1 := by
  have hg := collGather_alone h hc
  have hr : List.range x.nrank = [0] := by rw [h.one]; rfl
  have hf : s.rankFirst x x.myrank = some x := by rw [h.mine]; exact rankFirst_alone h
  unfold State.collGo
  simp [dueOf_none h.quiet, hf, collReach_alone h, farRanks_alone h, nearRanks_alone h, rankHere_alone h, hr, hg]

theorem result_pass (ho : x.outfmt = 0) (hop : 2 ≤ x.op) (hb : b.length = 4 * x.count) : x.result [b] = b := by
  have h3 := h.op
  have ht : b.take (4 * x.count) = b := List.take_of_length_le (Nat.le_of_eq hb)
  obtain hx | hx : x.op = 2 ∨ x.op = 3 := by omega
  · simp [Coll.result, hx, h.fmt, ho, collSz, ht]
  · simp [Coll.result, hx, h.fmt, ho, h.root, collSz, ht]

theorem collectiveReport_alone (hc : s.contrib x = (.ok b, s1)) (hr : opndOf x.who.core x.recv = some r)
    (hw : s1.wrOp x.who true r (x.result [b]) = (.ok (), s2)) (hst : opndOf x.who.core x.status = some st)
    (hs : s2.wrOp x.who true st (Claim.status 0 0 x.count) = (.ok (), s3)) :
    exec (.collectiveReport die eng) s = .next (s3.collDone x none) := by
  have hend : s2.collEnd x none = (.ok (), s3.collDone x none) := by
    refine reportEnd_ok (u := ()) ?_
    rw [State.statusAt, hst]
    exact hs
  have hwr : State.collWrite [b] [x] s1 = (.ok (), s3.collDone x none) := by
    simp only [State.collWrite, hr, hw, hend, Acc.bind]
  refine orSame_some ?_
  rw [State.tryColl, h.queue, State.tryColls, collGo_alone h hc, hwr]

end

/-! #### A collective that is over (R285) -/

theorem teamDone_teamStep (s : State) (ranks : List (Nat × Nat × Nat)) (n : Nat) :
    (s.teamStep ranks n).teamDone ranks n = s.teamDone ranks n + 1 := by
  simp [State.teamStep, State.teamDone]

/-- The state without a collective that has reported without a fault, before its source learns of it. -/
def State.collLeft (s : State) (x : Coll) : State :=
  let t := ((s.quit x.who).setCollQ x.home.2.1 x.home.2.2 ((s.collQ x.home.2.1 x.home.2.2).erase x)).teamStep x.ranks x.myrank
  { t with collrx := t.collrx.filter fun c => !t.collStale c }

theorem collDone_core {k : Nat} (hc : x.core = some k) : s.collDone x none = s.collLeft x := by
  unfold State.collDone
  rw [hc]
  rfl

theorem collDone_strm {p : Bool} {n : Nat} {q : W32} (hc : x.core = none) (hs : x.strm = some (p, n, q)) : s.collDone x none =
    (s.collLeft x).onStrm p n fun t => { t with fly := t.fly.map (SCmd.collDone · q) } := by
  unfold State.collDone
  rw [hc, hs]
  rfl

theorem collDone_none (hc : x.core = none) (hs : x.strm = none) : s.collDone x none = s.collLeft x := by
  unfold State.collDone
  rw [hc, hs]
  rfl

/-- What its source learns changes neither memory nor engines nor teams. -/
theorem collDone_frame (s : State) (x : Coll) : (s.collDone x none).mem = (s.collLeft x).mem ∧
    (s.collDone x none).dies = (s.collLeft x).dies ∧ (s.collDone x none).teams = (s.collLeft x).teams ∧
    (s.collDone x none).collrx = (s.collLeft x).collrx := by
  cases hc : x.core with
  | some k => rw [collDone_core hc]; exact ⟨rfl, rfl, rfl, rfl⟩
  | none =>
    cases hs : x.strm with
    | some e => obtain ⟨p, n, q⟩ := e; rw [collDone_strm hc hs]; exact ⟨rfl, rfl, rfl, rfl⟩
    | none => rw [collDone_none hc hs]; exact ⟨rfl, rfl, rfl, rfl⟩

theorem collLeft_mem (s : State) (x : Coll) : (s.collLeft x).mem = s.mem := rfl

theorem collLeft_core (s : State) (x : Coll) (k : Nat) : (s.collLeft x).core k = s.core k := rfl

theorem collLeft_strm (s : State) (x : Coll) (p : Bool) (n : Nat) : (s.collLeft x).strm p n = s.strm p n := rfl

/-- It leaves its engine. -/
theorem collQ_collLeft {t : State} (ht : t.dies = (s.collLeft x).dies) (hh : x.home.2 = (die, eng)) :
    t.collQ die eng = (s.collQ die eng).erase x := by
  have hd : t.die die = { s.die die with coll := Sparse.set [] (s.die die).coll eng ((s.collQ die eng).erase x) } := by
    rw [State.die, ht, State.collLeft, hh]
    exact die_onDie s die fun d => { d with coll := Sparse.set [] d.coll eng ((s.collQ die eng).erase x) }
  rw [State.collQ, hd]
  exact Sparse.get_set_self ..

/-- The next collective of its rank has the next number. -/
theorem teamDone_collLeft {t : State} (ht : t.teams = (s.collLeft x).teams) :
    t.teamDone x.ranks x.myrank = s.teamDone x.ranks x.myrank + 1 := by
  rw [State.teamDone, ht]
  exact teamDone_teamStep ((s.quit x.who).setCollQ x.home.2.1 x.home.2.2 ((s.collQ x.home.2.1 x.home.2.2).erase x)) x.ranks x.myrank

theorem not_collStale (s : State) (c : Contrib) : (!s.collStale c) = decide (s.teamDone c.ranks c.dst ≤ c.nth) := by
  simp [State.collStale, ← decide_not]

/-- Contributions for collectives that are over are dropped. -/
theorem collrx_collLeft {t : State} (ht : t.teams = (s.collLeft x).teams) :
    (s.collLeft x).collrx = s.collrx.filter fun c => decide (t.teamDone c.ranks c.dst ≤ c.nth) := by
  refine List.filter_congr fun c _ => (not_collStale _ c).trans ?_
  rw [State.teamDone, State.teamDone, ht]
  rfl

end

/-- Collectives report. -/
theorem collectivesReport : Claim.CollectivesReport := by
  intro s s1 s2 s3 die eng x b o r st hq hrep hn hranks hmy hroot hfmt hout hcount hop ho hr hst hb hlen hw hs hq3 _
  have h : Coll.Alone s die eng x := ⟨hq, hrep, hn, hranks, hmy, hroot, hfmt, hcount, hop⟩
  have hhome : x.home.2 = (die, eng) := by simp [Coll.home, hranks, hmy]
  refine ⟨fun h2 => result_pass h hout h2 hlen, _, collectiveReport_alone h (contrib_alone h ho hb) hr hw hst hs, ?_⟩
  obtain ⟨hmem, hdies, hteams, hrx⟩ := collDone_frame s3 x
  refine ⟨hmem.trans (collLeft_mem ..), ?_, ?_, hrx.trans (collrx_collLeft hteams), fun k hk => ?_, fun p n q hc hs => ?_⟩
  · rw [collQ_collLeft hdies hhome, hq3, List.erase_cons_head]
  · rw [← hmy]
    exact teamDone_collLeft hteams
  · rw [collDone_core hk, collLeft_core]
  · rw [collDone_strm hc hs, strm_onStrm_self, collLeft_strm]
    rfl

/-- Settles O55: a move by the one step that ends it, a collective of one rank by the one step that reports it. -/
theorem movesAndCollectivesReport : Obligations.MovesAndCollectivesReport := ⟨movesEndAtTheNewHome, collectivesReport⟩

end Sys2Proof.Machine
